-- ==== Sys2Proof/Syntax.lean ====
section
/-!
DEFINITION. The whole instruction set of PLK-VX8: one constructor of `Instr` for each row of the opcode table,
the enumerations that FN selects (R37), the sources of R32 and the control fields of R23 and R24.
Rows 0-172 are Furrow words, rows 173-189 are hart instructions of custom-0, rows 190-278 are steps that the
device or its surroundings take; what such a step chooses or brings from outside is its operand.
-/
namespace Sys2Proof

/-- IADD and ISUB, FN (R37, R96); constructors in the order of their FN values. -/
inductive AddFn where
  | i32 | i32Sat | ui32Sat | i64
deriving DecidableEq, Repr

/-- IMUL, FN (R37, R96); constructors in the order of their FN values. -/
inductive MulFn where
  | lo | hiI | hiU | wideI | wideU
deriving DecidableEq, Repr

/-- IMAC, FN (R37, R96); constructors in the order of their FN values. -/
inductive MacFn where
  | lo | wideU
deriving DecidableEq, Repr

/-- IMNX, FN (R97); constructors in the order of their FN values. -/
inductive MnxFn where
  | minI | maxI | minU | maxU | abs | neg
deriving DecidableEq, Repr

/-- LOG, FN (R98); constructors in the order of their FN values. -/
inductive LogFn where
  | and | or | xor | andn | orn | xnor
deriving DecidableEq, Repr

/-- SHF, FN (R98); constructors in the order of their FN values. -/
inductive ShfFn where
  | shl | shr | sar | rol | ror
deriving DecidableEq, Repr

/-- BIT, FN (R100); constructors in the order of their FN values. -/
inductive BitFn where
  | popc | clz | ctz | brev | ffs
deriving DecidableEq, Repr

/-- ICMP, FN (R102); constructors in the order of their FN values. -/
inductive CmpFn where
  | eq | ne | lt | le | gt | ge
deriving DecidableEq, Repr

/-- KOP, FN (R103); constructors in the order of their FN values. -/
inductive KopFn where
  | and | or | xor | andn | not
deriving DecidableEq, Repr

/-- Rounding modes of FN (R35); constructors in the order of their FN values. -/
inductive Rnd where
  | rne | rtz | rdn | rup | rna | sr | dyn
deriving DecidableEq, Repr

/-- FMNX.F32 and HMNX, FN (R107); constructors in the order of their FN values. -/
inductive MnmFn where
  | min | max | minnum | maxnum
deriving DecidableEq, Repr

/-- FCMP.F32, FN (R108); constructors in the order of their FN values. -/
inductive FcmpFn where
  | eq | ne | lt | le | gt | ge | un | ord
deriving DecidableEq, Repr

/-- FSGN, FN (R109); constructors in the order of their FN values. -/
inductive SgnFn where
  | abs | neg | cpys
deriving DecidableEq, Repr

/-- VDOT, FN (R117); constructors in the order of their FN values. -/
inductive VdotFn where
  | mx8 | mx6 | mx4 | i8
deriving DecidableEq, Repr

/-- SFU.F32, FN (R118); constructors in the order of their FN values. -/
inductive SfuFn where
  | rcpa | rsqa | exp2a | log2a | sina | cosa | tanha | sqrt
deriving DecidableEq, Repr

/-- SFU.BF16X2, FN (R120); constructors in the order of their FN values. -/
inductive BsfuFn where
  | exp2 | rcp | rsq | tanh
deriving DecidableEq, Repr

/-- IDIV, FN (R121); constructors in the order of their FN values. -/
inductive DivFn where
  | divI | divU | remI | remU
deriving DecidableEq, Repr

/-- LXCH, FN (R138); constructors in the order of their FN values. -/
inductive LxchFn where
  | from | back | ahead | flip
deriving DecidableEq, Repr

/-- QX, FN (R139); constructors in the order of their FN values. -/
inductive QxFn where
  | h | v | d | bc
deriving DecidableEq, Repr

/-- VOTE, FN (R140); constructors in the order of their FN values. -/
inductive VoteFn where
  | all | any | ballot | uni
deriving DecidableEq, Repr

/-- REDX, FN (R141); constructors in the order of their FN values. -/
inductive RedxFn where
  | addI | minI | maxI | addF | minF | maxF
deriving DecidableEq, Repr

/-- LD and LDS, FN (R160); constructors in the order of their FN values. -/
inductive LdFn where
  | b | bu | h | hu | w | d | q
deriving DecidableEq, Repr

/-- ST and STS, FN (R161); constructors in the order of their FN values. -/
inductive StFn where
  | b | h | w | d | q
deriving DecidableEq, Repr

/-- LDU, FN (R162); constructors in the order of their FN values. -/
inductive LduFn where
  | w | d
deriving DecidableEq, Repr

/-- ATOM.I32, ATOM.I64 and ATOMS, FN (R163); constructors in the order of their FN values. -/
inductive AtomFn where
  | add | min | max | and | or | xor | xchg | cas
deriving DecidableEq, Repr

/-- ATOM.F32, FN (R163); constructors in the order of their FN values. -/
inductive FatomFn where
  | add | min | max | xchg
deriving DecidableEq, Repr

/-- RED.I32, FN (R165); constructors in the order of their FN values. -/
inductive RedFn where
  | add | min | max | and | or | xor
deriving DecidableEq, Repr

/-- RED.F32, FN (R165); constructors in the order of their FN values. -/
inductive FredFn where
  | add | min | max
deriving DecidableEq, Repr

/-- Scopes of FENCE, FN (R37, R190); constructors in the order of their FN values. -/
inductive Scope where
  | drl | grp | crf | die | pkg | sys
deriving DecidableEq, Repr

/-- MMA, FN (R229); constructors in the order of their FN values. -/
inductive MmaFn where
  | e4m3 | e5m2 | bf16 | f16 | mx8 | mx6 | mx4
deriving DecidableEq, Repr

/-- ARD columns, FN (R233); constructors in the order of their FN values. -/
inductive ArdFn where
  | c1 | c2 | c4 | c8
deriving DecidableEq, Repr

/-- AST, FN (R235); constructors in the order of their FN values. -/
inductive AstFn where
  | f32 | bf16 | e4m3 | mx8
deriving DecidableEq, Repr

/-- What a 9-bit SRC field names (R32). -/
inductive Src where
  | v (n : BitVec 8) | s (n : BitVec 6) | l (n : BitVec 3) | zero | dlane | glane | drill | k (n : BitVec 3)
deriving DecidableEq, Repr

/-- The control fields of a word (R23, R24). `sbw` has bit 0 for sb1 and bit 5 for sb6; the I format can name one
slot at most. -/
structure Ctl where
  tk0 : BitVec 4 := 0
  e : Bool := false
  gn : Bool := false
  gp : BitVec 3 := 0
  nw : Bool := false
  ld : BitVec 3 := 0
  sbs : BitVec 3 := 0
  nf : Bool := false
  tk1 : BitVec 4 := 0
  sbw : BitVec 6 := 0
deriving DecidableEq, Repr

/-- An inbound remote access of a Hedgerow port (R369, R371): a read of bytes, a write, or an ATOM or RED of one lane at the
scope and type of its form, with SRC1. -/
inductive InboundOp where
  | read (n : Nat) | write (data : List (BitVec 8))
  | atomI (f : AtomFn) (u wide red : Bool) (b : BitVec 64) | atomF (f : FatomFn) (red : Bool) (b : BitVec 32) | redBf (b : BitVec 32)
deriving DecidableEq, Repr

/-- What a PCIe device behind the IOMMU asks for (R189, R350): a read or a write of at most 16 bytes, an ATS translation, a PRI
page request with its payload, the completion of the oldest invalidation that it was sent; or the IOMMU takes its next command. -/
inductive DevOp where
  | read (n : Nat) | write (data : List (BitVec 8)) | translate (write : Bool) | pageRequest (payload : BitVec 64) | invalidated | command
deriving DecidableEq, Repr
/-- A request of a device: its root port, its identifier, its process identifier, whether it asks for privilege, whether the address
has been translated by ATS. -/
structure DevReq where
  port : Nat
  id : BitVec 24
  pasid : Option (BitVec 20)
  priv : Bool
  translated : Bool
  addr : BitVec 64
  op : DevOp
deriving DecidableEq, Repr

/-- A coherent request at the directory (R15, R154): take the line shared, take it with ownership, write a modified copy
back and drop it, record the region grant of the stack owner; or a request of a PCIe device, which reads and writes as Acre does. -/
inductive DirKind where
  | share | own | drop | grant | device (r : DevReq)
deriving DecidableEq, Repr

/-- Where the scheduler puts one croft (R260, R262, R68): the Sower die, and for each rank its core, the drill
positions and the first byte of its local-store region. -/
structure CroftAt where
  die : Nat
  cores : List Nat
  pos : List (List Nat)
  ls : List Nat
deriving DecidableEq, Repr

/-- A placement: one croft, or every croft of a cooperative launch (R280). -/
abbrev Placement := List CroftAt

/-- What waits for a remote response (R370): a variable-latency operation of a drill, at a port named by its link,
or the oldest remote store of a drill. -/
inductive RemoteSrc where
  | op (k seq link : Nat) | store (k : Nat)
deriving DecidableEq, Repr

/-- Where an uncorrectable SRAM error strikes (R381): `vsys` and `ssys` are the registers of system mode. -/
inductive SramSite where
  | line (l : Nat) | vreg (k : Nat) (r : BitVec 8) | sreg (k : Nat) (r : BitVec 6) | vsys (k : Nat) (j : BitVec 2)
  | ssys (k : Nat) (j : BitVec 3) | tile (k : Nat) (t : BitVec 3)
  | localStore (core addr : Nat) | bed (plot : Nat) | acc (plot : Nat)
deriving DecidableEq, Repr

/-- What the boot ROM meets (R383): the header and body it reads from flash, the public key and the signature that come with
them (64 bytes each), and the width and capability table that each link trains with. -/
structure BootIn where
  headerRead : Bool
  magic : BitVec 32
  version : BitVec 32
  length : Nat
  flashLeft : Nat
  loadPa : Nat
  entryPa : Nat
  publicKey : List (BitVec 8)
  signature : List (BitVec 8)
  body : List (BitVec 8)
  widths : List (Nat × Nat)
  tables : List (Nat × BitVec 2048)
deriving DecidableEq, Repr

/-- One constructor for each row of the opcode table. -/
inductive Instr where
  | nop (c : Ctl)
  | iadd (f : AddFn) (d : BitVec 8) (a : Src) (b : Src) (c : Ctl)
  | isub (f : AddFn) (d : BitVec 8) (a : Src) (b : Src) (c : Ctl)
  | imul (f : MulFn) (d : BitVec 8) (a : Src) (b : Src) (c : Ctl)
  | imac (f : MacFn) (d : BitVec 8) (a : Src) (b : Src) (c : Ctl)
  | imnx (f : MnxFn) (d : BitVec 8) (a : Src) (b : Src) (c : Ctl)
  | log (f : LogFn) (d : BitVec 8) (a : Src) (b : Src) (c : Ctl)
  | shf (f : ShfFn) (x64 : Bool) (d : BitVec 8) (a : Src) (b : Src) (c : Ctl)
  | bfx (sgn : Bool) (d : BitVec 8) (a : Src) (b : Src) (c : Ctl)
  | bfi (d : BitVec 8) (a : Src) (b : Src) (c : Ctl)
  | bit (f : BitFn) (d : BitVec 8) (a : Src) (c : Ctl)
  | lea (sh : BitVec 3) (d : BitVec 8) (a : Src) (b : Src) (c : Ctl)
  | icmp (f : CmpFn) (u : Bool) (d : BitVec 8) (a : Src) (b : Src) (c : Ctl)
  | sel (k : BitVec 3) (d : BitVec 8) (a : Src) (b : Src) (c : Ctl)
  | mov (w64 : Bool) (d : BitVec 8) (a : Src) (c : Ctl)
  | kop (f : KopFn) (d : BitVec 8) (a : Src) (b : Src) (c : Ctl)
  | iaddi (d : BitVec 8) (a : Src) (imm : BitVec 16) (c : Ctl)
  | andi (d : BitVec 8) (a : Src) (imm : BitVec 16) (c : Ctl)
  | ori (d : BitVec 8) (a : Src) (imm : BitVec 16) (c : Ctl)
  | xori (d : BitVec 8) (a : Src) (imm : BitVec 16) (c : Ctl)
  | shli (d : BitVec 8) (a : Src) (imm : BitVec 16) (c : Ctl)
  | shri (d : BitVec 8) (a : Src) (imm : BitVec 16) (c : Ctl)
  | sari (d : BitVec 8) (a : Src) (imm : BitVec 16) (c : Ctl)
  | movil (d : BitVec 8) (imm : BitVec 16) (c : Ctl)
  | movih (d : BitVec 8) (imm : BitVec 16) (c : Ctl)
  | imuli (d : BitVec 8) (a : Src) (imm : BitVec 16) (c : Ctl)
  | srd (d : BitVec 8) (n : BitVec 9) (c : Ctl)
  | swr (n : BitVec 9) (b : Src) (c : Ctl)
  | sysSysc (a : Src) (c : Ctl)
  | sysTrapi (n : BitVec 8) (c : Ctl)
  | sysTret (c : Ctl)
  | sysUiret (c : Ctl)
  | sysWaiti (a : Src) (c : Ctl)
  | svldSavev (a : Src) (c : Ctl)
  | svldLoadv (a : Src) (c : Ctl)
  | svldSaveu (a : Src) (c : Ctl)
  | svldLoadu (a : Src) (c : Ctl)
  | svldSavep (a : Src) (c : Ctl)
  | svldLoadp (a : Src) (c : Ctl)
  | svldSavex (a : Src) (c : Ctl)
  | svldLoadx (a : Src) (c : Ctl)
  | faddF32 (m : Rnd) (d : BitVec 8) (a : Src) (b : Src) (c : Ctl)
  | fsubF32 (m : Rnd) (d : BitVec 8) (a : Src) (b : Src) (c : Ctl)
  | fmulF32 (m : Rnd) (d : BitVec 8) (a : Src) (b : Src) (c : Ctl)
  | fmacF32 (m : Rnd) (d : BitVec 8) (a : Src) (b : Src) (c : Ctl)
  | fmnxF32 (f : MnmFn) (d : BitVec 8) (a : Src) (b : Src) (c : Ctl)
  | fcmpF32 (f : FcmpFn) (d : BitVec 8) (a : Src) (b : Src) (c : Ctl)
  | fsgn (f : SgnFn) (d : BitVec 8) (a : Src) (b : Src) (c : Ctl)
  | fcls (d : BitVec 8) (a : Src) (c : Ctl)
  | faddiF32 (d : BitVec 8) (a : Src) (imm : BitVec 16) (c : Ctl)
  | fmuliF32 (d : BitVec 8) (a : Src) (imm : BitVec 16) (c : Ctl)
  | fmaciF32 (d : BitVec 8) (a : Src) (imm : BitVec 16) (c : Ctl)
  | hadd (m : Rnd) (f16 : Bool) (d : BitVec 8) (a : Src) (b : Src) (c : Ctl)
  | hmul (m : Rnd) (f16 : Bool) (d : BitVec 8) (a : Src) (b : Src) (c : Ctl)
  | hmac (m : Rnd) (f16 : Bool) (d : BitVec 8) (a : Src) (b : Src) (c : Ctl)
  | hmnx (f : MnmFn) (f16 : Bool) (d : BitVec 8) (a : Src) (b : Src) (c : Ctl)
  | hmuliBf16x2 (d : BitVec 8) (a : Src) (imm : BitVec 16) (c : Ctl)
  | hmuliF16x2 (d : BitVec 8) (a : Src) (imm : BitVec 16) (c : Ctl)
  | cvt (m : Rnd) (sat : Bool) (d : BitVec 8) (a : Src) (j : BitVec 3) (p : BitVec 6) (c : Ctl)
  | prmt (d : BitVec 8) (a : Src) (b : Src) (c : Ctl)
  | prmti (d : BitVec 8) (a : Src) (imm : BitVec 16) (c : Ctl)
  | mxsc (bs : BitVec 2) (a : Src) (c : Ctl)
  | vdot (f : VdotFn) (d : BitVec 8) (a : Src) (b : Src) (c : Ctl)
  | qclmp (d : BitVec 8) (a : Src) (imm : BitVec 16) (c : Ctl)
  | sfuF32 (f : SfuFn) (d : BitVec 8) (a : Src) (c : Ctl)
  | sfuBf16x2 (f : BsfuFn) (d : BitVec 8) (a : Src) (c : Ctl)
  | idiv (f : DivFn) (d : BitVec 8) (a : Src) (b : Src) (c : Ctl)
  | fdivF32 (m : Rnd) (d : BitVec 8) (a : Src) (b : Src) (c : Ctl)
  | lxch (f : LxchFn) (d : BitVec 8) (a : Src) (b : Src) (c : Ctl)
  | qx (f : QxFn) (d : BitVec 8) (a : Src) (b : Src) (c : Ctl)
  | vote (f : VoteFn) (d : BitVec 8) (a : Src) (c : Ctl)
  | redx (f : RedxFn) (d : BitVec 8) (a : Src) (c : Ctl)
  | vgeti (d : BitVec 8) (a : Src) (imm : BitVec 16) (c : Ctl)
  | vputi (d : BitVec 8) (a : Src) (imm : BitVec 16) (c : Ctl)
  | tcfg (t : BitVec 3) (a : Src) (c : Ctl)
  | tmvr (t : BitVec 3) (a : Src) (b : Src) (c : Ctl)
  | tmvc (t : BitVec 3) (a : Src) (b : Src) (c : Ctl)
  | trdr (d : BitVec 8) (u : BitVec 3) (b : Src) (c : Ctl)
  | trdc (d : BitVec 8) (u : BitVec 3) (b : Src) (c : Ctl)
  | topZero (t : BitVec 3) (c : Ctl)
  | topTrans (t : BitVec 3) (u : BitVec 3) (c : Ctl)
  | topRel (t : BitVec 3) (c : Ctl)
  | topCopy (t : BitVec 3) (u : BitVec 3) (c : Ctl)
  | tsave (t : BitVec 3) (a : Src) (c : Ctl)
  | tload (t : BitVec 3) (a : Src) (c : Ctl)
  | bra (ofs : BitVec 19) (c : Ctl)
  | brz (ofs : BitVec 19) (c : Ctl)
  | call (d : BitVec 8) (ofs : BitVec 19) (c : Ctl)
  | ret (a : Src) (c : Ctl)
  | jmpu (a : Src) (c : Ctl)
  | jmpv (a : Src) (c : Ctl)
  | land (c : Ctl)
  | loop (d : BitVec 8) (ofs : BitVec 19) (c : Ctl)
  | mpush (c : Ctl)
  | minv (c : Ctl)
  | mpop (c : Ctl)
  | kmask (d : BitVec 8) (c : Ctl)
  | prefi (n : BitVec 3) (ofs : BitVec 19) (c : Ctl)
  | exit (c : Ctl)
  | exitSucc (a : Src) (c : Ctl)
  | ld (f : LdFn) (d : BitVec 8) (a : Src) (ofs : BitVec 10) (c : Ctl)
  | st (f : StFn) (d : BitVec 8) (a : Src) (ofs : BitVec 10) (c : Ctl)
  | lds (f : LdFn) (d : BitVec 8) (a : Src) (ofs : BitVec 10) (c : Ctl)
  | sts (f : StFn) (d : BitVec 8) (a : Src) (ofs : BitVec 10) (c : Ctl)
  | ldu (f : LduFn) (d : BitVec 8) (a : Src) (ofs : BitVec 10) (c : Ctl)
  | atomI32 (f : AtomFn) (u : Bool) (d : BitVec 8) (a : Src) (b : Src) (c : Ctl)
  | atomI64 (f : AtomFn) (u : Bool) (d : BitVec 8) (a : Src) (b : Src) (c : Ctl)
  | atomF32 (f : FatomFn) (d : BitVec 8) (a : Src) (b : Src) (c : Ctl)
  | redI32 (f : RedFn) (u : Bool) (a : Src) (b : Src) (c : Ctl)
  | redF32 (f : FredFn) (a : Src) (b : Src) (c : Ctl)
  | redBf16x2 (a : Src) (b : Src) (c : Ctl)
  | atoms (f : AtomFn) (u : Bool) (d : BitVec 8) (a : Src) (b : Src) (c : Ctl)
  | fenceAcq (sc : Scope) (c : Ctl)
  | fenceRel (sc : Scope) (c : Ctl)
  | fenceAr (sc : Scope) (c : Ctl)
  | prefd (a : Src) (ofs : BitVec 10) (c : Ctl)
  | cacheWb (a : Src) (c : Ctl)
  | cacheInv (a : Src) (c : Ctl)
  | cacheWbi (a : Src) (c : Ctl)
  | ringCfg (a : Src) (b : Src) (c : Ctl)
  | ringClm (d : BitVec 8) (a : Src) (c : Ctl)
  | ringPub (a : Src) (b : Src) (c : Ctl)
  | ringWtf (d : BitVec 8) (a : Src) (c : Ctl)
  | ringRel (a : Src) (b : Src) (c : Ctl)
  | ringWte (d : BitVec 8) (a : Src) (c : Ctl)
  | ringQry (d : BitVec 8) (a : Src) (c : Ctl)
  | stashMap (a : Src) (b : Src) (c : Ctl)
  | stashUnmap (a : Src) (c : Ctl)
  | stashFlush (a : Src) (c : Ctl)
  | stashInv (a : Src) (c : Ctl)
  | cpyGl (a : Src) (c : Ctl)
  | cpyLg (a : Src) (c : Ctl)
  | cpyGg (a : Src) (c : Ctl)
  | cpyGb (a : Src) (c : Ctl)
  | cpyLb (a : Src) (c : Ctl)
  | cpyFill (a : Src) (c : Ctl)
  | barAll (a : Src) (b : Src) (c : Ctl)
  | barPost (a : Src) (b : Src) (c : Ctl)
  | barHold (a : Src) (c : Ctl)
  | barCroft (c : Ctl)
  | barGrid (c : Ctl)
  | mbarInit (a : Src) (b : Src) (c : Ctl)
  | mbarArr (a : Src) (b : Src) (c : Ctl)
  | mbarWait (a : Src) (b : Src) (c : Ctl)
  | mbarTest (d : BitVec 8) (a : Src) (b : Src) (c : Ctl)
  | mbarInv (a : Src) (c : Ctl)
  | lnchPost (a : Src) (b : Src) (c : Ctl)
  | lnchEvsig (a : Src) (b : Src) (c : Ctl)
  | lnchEvtst (d : BitVec 8) (a : Src) (b : Src) (c : Ctl)
  | lnchEvclr (a : Src) (b : Src) (c : Ctl)
  | stkCede (sd : BitVec 4) (c : Ctl)
  | stkTake (sd : BitVec 4) (c : Ctl)
  | stkQry (d : BitVec 8) (sd : BitVec 3) (c : Ctl)
  | plotRsv (d : BitVec 8) (a : Src) (c : Ctl)
  | plotRel (c : Ctl)
  | plotQry (d : BitVec 8) (which : BitVec 2) (c : Ctl)
  | plotCarve (a : Src) (c : Ctl)
  | plotUncarve (a : Src) (c : Ctl)
  | plotMerge (a : Src) (c : Ctl)
  | plotSplit (a : Src) (c : Ctl)
  | bedClaim (sl : BitVec 5) (cnt : BitVec 4) (c : Ctl)
  | bedRel (sl : BitVec 5) (cnt : BitVec 4) (c : Ctl)
  | bedLdv (a : Src) (b : Src) (c : Ctl)
  | bedZero (sl : BitVec 5) (cnt : BitVec 4) (c : Ctl)
  | bedScl (sl : BitVec 5) (b : Src) (c : Ctl)
  | mma (f : MmaFn) (ovr : Bool) (slots : BitVec 9) (b : Src) (c : Ctl)
  | msyncOpf (c : Ctl)
  | msyncWait (c : Ctl)
  | msyncDrain (c : Ctl)
  | ard (f : ArdFn) (bf : Bool) (d : BitVec 8) (b : Src) (c : Ctl)
  | awr (a : Src) (b : Src) (c : Ctl)
  | ast (f : AstFn) (a : Src) (c : Ctl)
  | azr (bank : Bool) (c : Ctl)
  | svlStkgrant (rd rs1 rs2 : BitVec 5)
  | ctxBuild (rd rs1 rs2 : BitVec 5)
  | ctxActivate (rd rs1 rs2 : BitVec 5)
  | ctxPreempt (rd rs1 rs2 : BitVec 5)
  | ctxKill (rd rs1 rs2 : BitVec 5)
  | ctxRelease (rd rs1 rs2 : BitVec 5)
  | ctxBudget (rd rs1 rs2 : BitVec 5)
  | ctxPriority (rd rs1 rs2 : BitVec 5)
  | ctxRestart (rd rs1 rs2 : BitVec 5)
  | svlSysret (rd rs1 rs2 : BitVec 5)
  | svlFqdone (rd rs1 rs2 : BitVec 5)
  | svlFqkill (rd rs1 rs2 : BitVec 5)
  | svlQpost (rd rs1 rs2 : BitVec 5)
  | svlQfence
  | svlEvsig (rd rs1 rs2 : BitVec 5)
  | svlEvclr (rd rs1 rs2 : BitVec 5)
  | svlEvwait (rd rs1 rs2 : BitVec 5)
  | swathArbitration (die : Nat) (core : Nat) (slot : Nat)
  | stallEnd (k : Nat)
  | resultLanding (k : Nat)
  | variableResultLanding (k : Nat) (seq : Nat) (evict : Bool) (early : Option (BitVec 32 × Bool))
  | storeQueueDeparture (k : Nat) (part : Option Nat)
  | longWaitMet (k : Nat)
  | waitiDeadline (k : Nat)
  | boundaryTrap (k : Nat)
  | userInterruptDelivery (k : Nat)
  | preempt (k : Nat)
  | overrun (k : Nat)
  | budgetExhausted (ctx : Nat)
  | fetchBufferRequest (k : Nat)
  | icacheFillDone (die : Nat) (core : Nat) (line : Nat)
  | fetchFault (k : Nat)
  | directoryRequest (chip : Nat) (line : Nat) (kind : DirKind)
  | atomPerform (k : Nat) (seq : Nat) (home : Bool) (part : Option Nat)
  | ringRequestServed (gid : Nat) (ring : Nat)
  | stationDequeue (gid : Nat) (out : Bool) (engine : Nat)
  | copyCompletion (gid : Nat) (out : Bool) (early : Option (List Nat × Bool))
  | copyFaultStop (gid : Nat) (out : Bool)
  | copyAbort (gid : Nat) (out : Bool)
  | collectiveAssembly (gid : Nat)
  | plotCommandDequeue (plot : Nat)
  | mmaStart (plot : Nat)
  | mmaCompletion (plot : Nat)
  | postedBedWriteDone (plot : Nat) (idx : Nat)
  | astFaultStop (plot : Nat)
  | plotEccError (plot : Nat)
  | cedeAccept (stk : Nat)
  | handoverDrainStep (stk : Nat)
  | handoverPortOpen (stk : Nat)
  | stackZeroingDone (stk : Nat)
  | groupPlacement (q : Nat) (where_ : Placement)
  | groupExitSequence (gid : Nat)
  | groupRecordWrite (gid : Nat)
  | groupRestore (croft : Nat) (where_ : Placement)
  | contextRetire (ctx : Nat)
  | syscallQueuePost (chip : Nat)
  | taskPost (launch : Nat)
  | faultRecordPost (chip : Nat)
  | packetCheck (q : Nat) (seen : List Bool)
  | kcbRead (q : Nat)
  | qcmdOpen (q : Nat)
  | qcmdPause (q : Nat)
  | qcmdResume (q : Nat)
  | qcmdDrain (q : Nat)
  | queueDrainDone (q : Nat)
  | scqbaseWrite (chip : Nat) (val : BitVec 64)
  | scqheadWrite (chip : Nat) (val : BitVec 32)
  | fqbaseWrite (chip : Nat) (val : BitVec 64)
  | fqheadWrite (chip : Nat) (val : BitVec 32)
  | tlbiVaAsid (asid : BitVec 16)
  | tlbiAsid (asid : BitVec 16)
  | tlbiVaAll (asid : BitVec 16)
  | tlbiAll (asid : BitVec 16)
  | shootdownDone
  | icflushGo (die : Nat)
  | icflushDone (die : Nat)
  | linkIsolate (link : Nat)
  | linkReset (link : Nat)
  | linkRetrain (link : Nat)
  | linkTrainingDone (link : Nat) (width : Nat) (table : Option (BitVec 2048))
  | linkLaneFailure (link : Nat) (width : Nat)
  | directoryTimeout (chip : Nat)
  | heartbeatTimeout (link : Nat)
  | linkUncorrectableError (link : Nat)
  | pcieContainment (link : Nat)
  | chipletIsolation (chip : Nat)
  | chipletResetDone (link : Nat)
  | pciebifWrite (val : BitVec 32)
  | remoteResponse (src : RemoteSrc) (ok : Bool) (data : List (BitVec 128))
  | inboundRemoteAccess (port : Nat) (op : InboundOp) (addr : Nat) (cmp : BitVec 64)
  | opctlWrite (rail : Nat) (val : BitVec 32) (agent : Nat)
  | clockTransitionDone (rail : Nat)
  | tsensRefresh (chip : Nat) (sensor : Nat) (val : BitVec 12)
  | thermalTrip (chip : Nat) (sensor : Nat)
  | overCurrentAlarm (rail : Nat)
  | ocauseWrite (val : BitVec 64) (agent : Nat)
  | eccceWrite (chip : Nat)
  | uvSramError (where_ : SramSite)
  | coldReset (boot : BootIn)
  | warmReset (pin : Bool) (boot : BootIn)
  | attestationRequest (nonce : BitVec 256) (agent : Nat)
  | registerWrite (agent : Nat) (addr : Nat) (size : Nat) (val : BitVec 64)
  | astCompletion (plot : Nat) (part : Option Nat)
  | astAbort (plot : Nat)
  | bedZeroSclCompletion (plot : Nat)
  | sramCorrectedError (chip : Nat)
deriving DecidableEq, Repr

end Sys2Proof
end

