-- ==== Sys2Proof/Word.lean ====
section
/-!
DEFINITION. The words of PLK-VX8: register widths (R91), lane masks, lane vectors, addresses.
-/
namespace Sys2Proof

/-- A 32-bit register value. -/
abbrev Word := BitVec 32
/-- A 64-bit register value or virtual address. -/
abbrev DWord := BitVec 64
/-- A byte of memory. -/
abbrev Byte := BitVec 8
/-- One bit a lane (R27, R131). -/
abbrev Mask := BitVec 32
/-- A 32-bit value in each of the 32 lanes of a drill. -/
abbrev Lanes := Vector (BitVec 32) 32
/-- A 64-bit value in each lane. -/
abbrev DLanes := Vector (BitVec 64) 32
/-- The data of one 128-byte line (R151), byte j at bits [8j+7:8j]. -/
abbrev Line := BitVec 1024
/-- A table by number: what it does not list has the default value that its reader names. -/
abbrev Tbl (α : Type) := List (Nat × α)

end Sys2Proof
end

