-- ==== Sys2Proof/Machine/State.lean ====
section
/-!
DEFINITION. The state of the package as plain data: drills, cores, groups, contexts, queues, plots, stacks, links,
harts, memory, translation caches and registers; the reasons a step can stop; the state after reset.
Tables list what exists; a register that its table does not list holds zero.
-/
namespace Sys2Proof.Machine

/-- A result that waits for its landing count, by what it writes (R74, R90, R116, R145, R301). -/
inductive LandTo where
  /-- Consecutive vector registers from r on, by storage number (`Drill.v`): one, a pair, a quad or a run (R233). -/
  | vec (r n : Nat)
  /-- A uniform register, or a pair when n is 2, by storage number (`Drill.s`). -/
  | uni (r n : Nat)
  | pred (r : Nat)
  /-- A system register written by SWR, issued in system mode or not. -/
  | sys (n : Nat) (system : Bool)
  /-- MXSL, written by MXSC. -/
  | scale
  /-- Elements of a tile; a whole tile also takes a shape word, and `clean` clears D (R145-R148). -/
  | tile (t : Nat) (shape : Option Word) (clean : Bool) (elems : List (Nat × Word))
  /-- Nothing: the completion of an instruction without a result, one cycle after issue (R25, R30). -/
  | nothing
deriving DecidableEq, Repr

/-- A pending landing (R74). -/
structure Landing where
  due : Nat
  into : LandTo
  noReg : Bool := false
  /-- First latch written, if any. -/
  latch : Option Nat := none
  /-- Lanes written; a uniform register is written when a lane is in the mask. -/
  mask : Mask := 0
  val : DLanes := Vector.replicate 32 0
  /-- Flags raised, in the lanes listed (R62). -/
  flags : List (Nat × BitVec 5) := []
  /-- The swath of the instruction: the latch is written only while it is open. -/
  swath : Nat
  slot : Nat := 0
  tk1 : BitVec 4 := 0
deriving DecidableEq, Repr

/-- The marks of a poisoned scoreboard slot (R78): PC of the load, address of the lowest lane, lanes (none of an LDU, R162), and
whether the load was issued in system mode. -/
structure PoisonMark where
  pc : DWord
  addr : DWord
  lanes : Option Mask
  system : Bool := false
deriving DecidableEq, Repr

/-- One lane's access: lane, virtual and physical address. -/
structure LaneAddr where
  lane : Nat
  va : DWord
  pa : Nat
deriving DecidableEq, Repr

/-- What an atomic operation computes (R163, R165). -/
inductive AtomOp where
  | int (f : AtomFn) (u wide : Bool) | flt (f : FatomFn) | pairAdd
deriving DecidableEq, Repr

/-- A variable-latency operation that is outstanding (R75). -/
inductive VarKind where
  | load (f : LdFn) (addrs : List LaneAddr)
  | loadLocal (f : LdFn) (addrs : List LaneAddr)
  | loadUniform (wide : Bool) (addr : LaneAddr)
  /-- ATOM and RED: operands a lane; `got` once it has been performed (R167). -/
  | atom (op : AtomOp) (scope : Nat) (addrs : List LaneAddr) (b d : DLanes) (isRed : Bool) (got : Option DLanes)
  /-- ATOMS: the old values once its store-queue entry has left (R166). -/
  | atomLocal (scope : Nat) (got : Option DLanes)
  /-- SFU, IDIV, FDIV: the result is fixed at issue. -/
  | value (v : DLanes) (flags : List (Nat × BitVec 5))
  | vget (base : Nat) (x : Lanes)
  /-- VPUTI: the data of each lane as read at issue (R142). -/
  | vput (base : Nat) (x data : Lanes)
  | ringTake (ring : Nat) (claim : Bool) (got : Option Word)
  | ringWte (ring : Nat)
  | ringQry (ring : Nat)
  | mbarTest (addr : LaneAddr) (p : Word)
  | evTest (ctx w : Nat) (mask : DWord)
  | stkQry (k : Nat)
  | plotRsv (got : Option Bool)
  | plotQry (sel : Nat)
  | ard (cols : Nat) (bf nf : Bool) (got : Option (List Lanes × List (Nat × BitVec 5)))
  /-- The remote part of a block that TLOAD or a load form of SVLD reads, in pieces of at most 16 bytes (R149, R202, R307). -/
  | block (units : List LaneAddr)
  /-- An operation that only its slot records: CM was empty (R171). -/
  | idle
deriving DecidableEq, Repr

/-- An outstanding operation with its destination and its completion actions. -/
structure VarOp where
  seq : Nat
  kind : VarKind
  into : LandTo := .nothing
  noReg : Bool := false
  latch : Option Nat := none
  mask : Mask := 0
  helper : Mask := 0
  swath : Nat := 0
  slot : Nat := 0
  tk1 : BitVec 4 := 0
  pc : DWord := 0
  nf : Bool := false
  /-- Remote lanes that are answered: with their data, or `none` where the response is an error or the port went down (R370). -/
  answers : Tbl (Option (BitVec 128)) := []
  /-- Data of lanes that have been performed before the others: what a load found, the old value of an ATOM (R158). -/
  taken : Tbl (List Byte) := []
deriving DecidableEq, Repr

/-- The descriptor of a copy (R181), as read at issue. -/
structure CopyDesc where
  form : Nat
  src : DWord
  dst : DWord
  len : Nat
  rows : Nat
  ui : Bool
  scope : Nat
  ring : Bool
  srcStride : Int
  dstStride : Int
deriving DecidableEq, Repr

/-- A command of station I or O (R182); a null command has no descriptor (R171). -/
structure CopyCmd where
  desc : Option CopyDesc
  drill : Nat
  tk0 : BitVec 4
  tk1 : BitVec 4
  seq : Nat := 0
deriving DecidableEq, Repr

/-- A command of a plot (R213). -/
inductive PlotCmd where
  | rsv (word : Word) | rel | merge (q : Nat) | split (axis n : Nat)
  | bedClaim (side first n : Nat) | bedRel (side first n : Nat) | bedZero (side first n : Nat)
  | bedScl (side slot : Nat) (v : Word)
  | bedLdv (sb : Bool) (side slot line0 word : Nat) (v : Lanes) (lanes : List (Nat × Nat))
  | mma (f : MmaFn) (ovr : Bool) (bank north west : Nat) (ea eb : Int)
  | opf | drain
  | ard (seq cols : Nat) (bf : Bool) (bank col0 : Nat)
  | awr (bank col : Nat) (v : Lanes) (lanes : List (Nat × Nat))
  | ast (f : AstFn) (desc : List Word)
  | azr (bank : Nat)
deriving DecidableEq, Repr

/-- A drill's copy of a plot command as it stands in the drill's stream (R214, R215). -/
structure PlotCopy where
  cmd : PlotCmd
  collective : Bool
  drill : Nat
  seq : Nat
  cm : Mask
  nf : Bool
  /-- The word without its control fields but NF and TK, and the values of its uniform sources (R215). -/
  sig : BitVec 64 := 0
  vals : List Word := []
  tk0 : BitVec 4
  tk1 : BitVec 4
deriving DecidableEq, Repr

/-- What a store-queue entry does when it leaves (R159). Bytes are written at physical addresses in the order listed. -/
inductive SqKind where
  /-- ST, TSAVE and the SVLD save forms: the bytes of each lane, in ascending lane order. -/
  | store (writes : List (LaneAddr × List Byte))
  | storeLocal (writes : List (LaneAddr × List Byte))
  | atomLocal (op : AtomOp) (scope : Nat) (addrs : List LaneAddr) (b d : DLanes)
  | ringPub (ring slot : Nat) | ringRel (ring slot : Nat)
  | stashOp (region : Nat) (op : Nat)
  | copy (cmd : CopyCmd) (out : Bool)
  | cache (op : Nat) (addrs : List LaneAddr)
  | fence (scope : Nat) (ar : Bool)
  | plot (c : PlotCopy)
  | mbarInit (addr : LaneAddr) (w : Word) | mbarArr (addr : LaneAddr) (n : Nat) | mbarInv (addr : LaneAddr)
  | post (queue id : Nat) (va : DWord) | evSet (ctx w : Nat) (mask : DWord) (set : Bool)
  | cede (stk side : Nat) (tk1 : BitVec 4)
deriving DecidableEq, Repr

/-- A store-queue entry, stamped with its place in program order. -/
structure SqEntry where
  seq : Nat
  kind : SqKind
  pc : DWord := 0
deriving DecidableEq, Repr

/-- A landing record XP (R90, R92), as the bytes of its fields. -/
structure XpRec where
  v : Bool := false
  rem : Nat := 0
  w64 : Bool := false
  nw : Bool := false
  lt : Nat := 0
  cls : Nat := 0
  dst : Nat := 0
  val : DLanes := Vector.replicate 32 0
  flags : List (Nat × BitVec 5) := []
  mask : Mask := 0
  /-- A reserved bit of the record was not zero as LOADX read it (R5). -/
  resv : Bool := false
deriving DecidableEq, Repr

/-- Drill states (R84); a position that no drill occupies is FREE. -/
inductive DrillState where
  | ready | issuing | stalled | waiting | parked | done
deriving DecidableEq, Repr

/-- A line of a fetch buffer (R123, R399): its virtual line, and its data once it has come. -/
structure FetchLine where
  line : Nat
  data : Option Line
  /-- The physical line waited for while `data` is absent; `none` when the translation failed. -/
  pline : Option Nat
  poisoned : Bool := false
deriving DecidableEq, Repr

/-- What a parked drill waits for (R293): fault records of its die by number, or its syscall entry of a kind; for SYS.SYSC
with the place of the SYSC itself (R312): its pc, its swath's first pc, its index. -/
inductive Park where
  | faults (recs : List Nat) | syscall (kind : Nat) (self : Option (DWord × DWord × Nat) := none)
deriving DecidableEq, Repr

/-- A pending A-kind trap (R297, R408). -/
structure PendTrap where
  code : Nat
  sub : Nat := 0
  station : Nat := 0
deriving DecidableEq, Repr

/-- A tile (R143): its shape word, D, and the elements that are not zero, element (r, c) under 16 r + c. -/
structure Tile where
  shape : Word := 0
  dirty : Bool := false
  elems : Tbl Word := []
deriving DecidableEq, Repr

/-- A trap that an instruction raised and that waits until the drill's slots are clear (R88). -/
structure TrapReq where
  code : Nat
  sub : Nat := 0
  station : Nat := 0
  tval : DWord := 0
  mask : Option Mask := none
  tkd : Bool := false
  /-- SYS.SYSC and SYS.TRAPI complete before their trap (R294); the flag is E. -/
  completed : Bool := false
  /-- EPC of a poisoned load (R78). -/
  epc : Option DWord := none
  /-- Page faults: virtual address, cause, level, P, access bits (R352, R353). -/
  faults : List (DWord × Nat × Nat × Bool × Nat) := []
  /-- SYS.SYSC: the eight words read at issue, and m (R303); its pc, its swath's first pc, its index (R312). -/
  args : List Word := []
  self : Option (DWord × DWord × Nat) := none
deriving DecidableEq, Repr

/-- Why a drill is STALLED (R70): scoreboard slots waited for, token counters (WP, WN) at 0, a count at 15, a full store
queue, a long wait without E, a fetch miss, a trap that waits for the slots to clear (R88), the queued stores that a
load form of SVLD or TLOAD sees first (R149, R307), a table walk that is held while a stack changes hands (R70, R200). -/
inductive Stall where
  | slots (m : BitVec 6) | tokens (wp wn : Bool) | count (slot : Nat) | queue | cond | fetch | drain | stores | walk
deriving DecidableEq, Repr

/-- An MBAR.WAIT in progress (R285): the object, GEN and p as recorded, and what a write to it has brought about: 0 the
phase is done, 2 and 3 the causes of MBAR_STATE. -/
structure MbarWait where
  pa : Nat
  gen : Nat
  p : Word
  va : DWord
  found : Option Nat := none
  scope : Nat := 0
deriving DecidableEq, Repr

/-- A drill (R84, R90, R91, R298, R299). -/
structure Drill where
  gid : Nat
  idx : Nat
  slot : Nat
  st : DrillState := .ready
  stall : Option Stall := none
  /-- The counters (WP, WN) that the instruction at the pc has found at 0 and has not taken from yet (R81). -/
  tokWait : Option (Bool × Bool) := none
  /-- Vector registers: v0-v255 under 0-255, v252-v255 of the system bank under 256-259 (R292). -/
  v : Tbl Lanes := []
  /-- Uniform registers: s0-s63 under 0-63, z0-z7 under 64-71 (R186), s56-s63 of the system bank under 72-79 (R292). -/
  s : Tbl Word := []
  /-- Predicates k1-k7; k0 reads true. -/
  k : Tbl Mask := []
  latches : Tbl Lanes := []
  tiles : Tbl Tile := []
  pc : DWord := 0
  /-- The swath in progress: its first PC, the index of the next instruction, its number. -/
  swathPc : DWord := 0
  idxInSwath : Nat := 0
  swath : Nat := 0
  cm : Mask
  /-- Saved masks, the top of the stack first. -/
  maskStack : List Mask := []
  flg : Tbl (BitVec 5) := []
  rmode : BitVec 3 := 0
  srstate : Word := 0
  mxbase : Word := 0
  mxsl : Word := 0
  uiEn : Bool := false
  uiAct : Bool := false
  uiPend : Nat := 0
  uiPi : Bool := false
  uiPo : Bool := false
  uivec : DWord := 0
  uiepc : DWord := 0
  /-- Landing count and pending landings in issue order (R74). -/
  n : Nat := 0
  landings : List Landing := []
  /-- Landings were re-injected and count from the issue of the resumed instruction (R89). -/
  resumed : Bool := false
  /-- Scoreboard counts of sb1 to sb6 and poisoned slots (R77, R78). -/
  sb : Tbl Nat := []
  poison : Tbl PoisonMark := []
  storeQueue : List SqEntry := []
  ops : List VarOp := []
  /-- Acquire fences not yet performed: place in program order and scope (R170). -/
  acquires : List (Nat × Nat) := []
  /-- Stamps of plot commands issued and not yet complete (R231). -/
  plotOut : List Nat := []
  /-- Remote stores not yet acknowledged, oldest first: the link of the port, and the virtual address (R202, R349, R370). -/
  remoteStores : List (Nat × DWord) := []
  xl : Tbl Lanes := []
  xp : Tbl XpRec := []
  xi : DWord := 0
  epc : DWord := 0
  tcause : Word := 0
  tval : DWord := 0
  tmask : Word := 0
  sysMode : Bool := false
  routine : Nat := 0
  pendTraps : List PendTrap := []
  pendOverrun : Bool := false
  /-- The issue of the next instruction skips its TK0 actions (R89). -/
  skipTk0 : Bool := false
  trap : Option TrapReq := none
  fetch : List FetchLine := []
  /-- Lines to request: virtual line numbers in order (R123). -/
  fetchWant : List Nat := []
  /-- The target of a JMPU or JMPV that must be a LAND, with the lane mask recorded if it is not (R127, R135). -/
  needLand : Option (DWord × Mask) := none
  /-- The same of the code that a trap routine interrupted, and of the code that a user-level interrupt interrupted (R136). -/
  landUser : Option (DWord × Mask) := none
  landUi : Option (DWord × Mask) := none
  /-- The long wait that a WAITING or STALLED drill waits in (R71). -/
  longWait : Option Instr := none
  /-- Its condition has come about and cannot be lost again (R71, R255). -/
  metWait : Bool := false
  /-- What an MBAR.WAIT that has begun watches (R285). -/
  mbar : Option MbarWait := none
  park : Option Park := none
  barA : BitVec 8 := 0
  barS : BitVec 8 := 0
  barT : Tbl (BitVec 8) := []
  /-- Stamp of the last arrival by barrier, 8 the croft's and 9 the grid's: earlier stores become visible first (R193). -/
  relSeq : Tbl Nat := []
  /-- Registers that an uncorrectable error marked (R381): SRC codes. -/
  regPoison : List Nat := []
  /-- EXIT has been executed in the place of a save: the drill counts as saved (R272). -/
  saved : Bool := false
deriving DecidableEq, Repr

/-- A ring slot's state (R173). -/
inductive SlotState where
  | free | claimed | full | held
deriving DecidableEq, Repr

/-- A configured ring (R173). -/
structure Ring where
  word : Word
  base : Nat
  claim : Nat := 0
  take : Nat := 0
  slots : List SlotState
deriving DecidableEq, Repr

/-- Who asked a ring for a slot (R175, R182). -/
structure RingReq where
  ring : Nat
  claim : Bool
  /-- A drill and its operation, or station I. -/
  who : Option (Nat × Nat)
deriving DecidableEq, Repr

/-- A stash region (R178): its entries that are not INVALID, by line within the region. -/
structure Stash where
  v : DWord
  word : Word
  entries : Tbl (Nat × Bool) := []
deriving DecidableEq, Repr

/-- A group barrier (R277). -/
structure Bar where
  phase : BitVec 8 := 0
  exp : Mask := 0
  arrived : Mask := 0
deriving DecidableEq, Repr

/-- A copy in progress at a station. -/
structure CopyRun where
  cmd : CopyCmd
  engine : Nat
  /-- Ring slot claimed for it. -/
  slot : Option Nat := none
  /-- Row units already moved: number of 16-byte units performed in order. -/
  doneUnits : Nat := 0
  /-- Units that were written before their turn, and the bytes of units that were only read (R182, R196). -/
  early : List Nat := []
  got : Tbl (List Byte) := []
  /-- Stopped on this fault record. -/
  fault : Option Nat := none
deriving DecidableEq, Repr

/-- Station I or O (R79, R182). -/
structure Station where
  queue : List CopyCmd := []
  run : Option CopyRun := none
  /-- Waiting at dequeue for the ring claim (R182). -/
  claiming : Bool := false
  /-- Why it has stopped: true for a failed command, false for a token overflow. -/
  stopped : Option Bool := none
deriving DecidableEq, Repr

/-- Group states (R265); UNSTARTED groups belong to their launch and are not listed. -/
inductive GroupState where
  | running | exiting | preempting | saved | restoring | done | lost
deriving DecidableEq, Repr

/-- The control block (R331), as read. -/
structure Kcb where
  coop : Bool
  restart : Bool
  succ : Bool
  plot : Bool
  logR : Nat
  logC : Nat
  croft : Nat
  codes : BitVec 5
  taskDie : Nat
  v : Nat
  s : Nat
  t : Nat
  ls : Nat
  entryA : DWord
  entryB : DWord
  seedline : DWord
  opCount : Nat
  translated : DWord
  reeve : DWord
  coulter : DWord
deriving DecidableEq, Repr

/-- A group (R258, R265). -/
structure Group where
  ctx : Nat
  launch : Nat
  croft : Nat
  rank : Nat
  x : Nat
  y : Nat
  z : Nat
  g : Nat
  kcb : Kcb
  die : Nat
  core : Nat
  /-- Drill positions by drill index. -/
  pos : List Nat
  lsBase : Nat
  st : GroupState := .running
  saveSlot : Nat
  gsave : DWord
  tok : BitVec 32 := 0
  rings : Tbl Ring := []
  ringReqs : List RingReq := []
  stash : Tbl Stash := []
  bars : Tbl Bar := []
  /-- Arrivals of completed phases whose writes have to be visible before the phase is observed: barrier, phase, drill index,
  stamp of the arrival (R193). -/
  barRel : List (Nat × BitVec 8 × Nat × Nat) := []
  /-- Drills in BAR.CROFT and BAR.GRID, and the phase that each waits for (R279, R282). -/
  croftArr : Mask := 0
  croftT : Tbl (BitVec 8) := []
  gridArr : Mask := 0
  gridT : Tbl (BitVec 8) := []
  /-- The croft or the launch lost a group: BAR.CROFT or BAR.GRID raise SYNC_LOST (R281). -/
  croftLost : Bool := false
  gridLost : Bool := false
  stI : Station := {}
  stO : Station := {}
  plot : Option Nat := none
  last : Nat := 0
  streams : Tbl (List PlotCopy) := []
  /-- Heads of streams that can enter the plot's queue, by drill and stamp, in the order in which they became ready (R214). -/
  heads : List (Nat × Nat) := []
  /-- EXIT forms executed: drill index, FN, word (R268). -/
  exits : List (Nat × Bool × Word) := []
  /-- Drills that were in DONE before the pre-emption trap (R273). -/
  doneBefore : Mask := 0
  succCancel : Bool := false
  /-- The checks of a transfer's target that saved drills still have to meet, by drill index: of the interrupted code and of
  the code under a user-level interrupt (R136). -/
  lands : Tbl (Option (DWord × Mask) × Option (DWord × Mask)) := []
  /-- The step of the exit sequence that comes next, 1 to 5 (R267). -/
  exitStep : Nat := 0
deriving DecidableEq, Repr

/-- A croft: its groups by rank and its barrier phase (R279). -/
structure Croft where
  launch : Nat
  members : List Nat
  phase : BitVec 8 := 0
deriving DecidableEq, Repr

/-- A launch whose control block has been read (R332). -/
structure Launch where
  queue : Nat
  ctx : Nat
  code : Nat
  kcb : Kcb
  kcbVa : DWord
  gx : Nat
  gy : Nat
  gz : Nat
  g : Nat
  arg : DWord
  setMask : List DWord
  /-- The next group index not started, in x-major order. -/
  next : Nat := 0
  /-- Crofts whose lost groups are to be placed again (R368). -/
  returned : List Nat := []
  exited : Nat := 0
  redispatch : Nat := 0
  /-- Its unstarted groups were discarded: its set mask is never applied (R317). -/
  cut : Bool := false
  gridPhase : BitVec 8 := 0
  /-- Its task entry is pending at this chiplet's queue (R333). -/
  taskAt : Option Nat := none
  /-- A cooperative launch of lost groups that is to be dispatched whole again (R368). -/
  rebuild : Bool := false
deriving DecidableEq, Repr

/-- A ring entry of a queue (R316, R324): reserved, then posted, then filled with its packet, then a launch. -/
structure QEntry where
  id : Nat
  idx : Nat
  posted : Bool := false
  /-- Physical address of a posted packet; `none` when its translation failed. -/
  pa : Option Nat := none
  /-- Its bytes as they stood at the post, and the hart that posted it (R327). -/
  snap : List Byte := []
  hart : Option Nat := none
  /-- Its packet has been read and checked, and failed the check (R319). -/
  filled : Bool := false
  bad : Bool := false
  launch : Option Nat := none
deriving DecidableEq, Repr

/-- Queue states (R314). -/
inductive QueueState where
  | disabled | opened | paused | draining | error
deriving DecidableEq, Repr

/-- A queue (R314). -/
structure Queue where
  ctl : DWord := 0
  base : DWord := 0
  pace : Word := 0
  st : QueueState := .disabled
  ecause : Nat := 0
  ref : Bool := false
  /-- Ring index that is reserved next. -/
  tail : Nat := 0
  entries : List QEntry := []
  /-- The head launch has become ready (R320). -/
  ready : Bool := false
  /-- GTIME since which the queue has been a candidate without being chosen (R321). -/
  waitingSince : Option Nat := none
  /-- GTIME ticks that it spent so before, since it was last chosen (R321). -/
  waited : Nat := 0
  lastStart : Option Nat := none
deriving DecidableEq, Repr

/-- Context states (R288). -/
inductive CtxState where
  | built | active | preempting | suspended | faulted | draining | retired
deriving DecidableEq, Repr

/-- A context that is not FREE (R286). -/
structure Context where
  st : CtxState := .built
  asid : BitVec 16
  prio : Nat
  carve : Bool
  savevec : DWord
  restvec : DWord
  trapvec : DWord
  saveBase : DWord
  garea : Nat
  darea : Nat
  slots : Nat
  satp : DWord
  budget : Nat
  fcode : Nat := 0
  /-- OVERRUN is raised the next time BUDGET is 0 (R308). -/
  armed : Bool := true
  events : Tbl DWord := []
deriving DecidableEq, Repr

/-- MOESI states of a line that one chiplet owns (R15). -/
structure Owned where
  chip : Nat
  /-- M when exclusive and dirty, O when shared and dirty, E when exclusive and clean. -/
  excl : Bool
  dirty : Bool
  data : Line
deriving DecidableEq, Repr

/-- A cached translation (R344, R345). -/
structure TlbEntry where
  asid : BitVec 16
  global : Bool
  /-- Virtual and physical base, size in bytes. -/
  va : Nat
  pa : Nat
  size : Nat
  level : Nat
  /-- The low eight bits of the leaf: D A G U X W R V. -/
  perms : BitVec 8
  pin : Bool
  rep : Bool
  /-- The atomic path hint (R341). -/
  ph : Nat
  path : Bool
deriving DecidableEq, Repr

/-- A non-leaf entry in a walk cache (R345): the table that serves a range of addresses from a level down. -/
structure WalkEntry where
  asid : BitVec 16
  /-- A pointer on the way had G set, so every mapping below is global (R341). -/
  global : Bool
  /-- Base of the range, its size, the level of the table and its physical address. -/
  va : Nat
  size : Nat
  level : Nat
  base : Nat
deriving DecidableEq, Repr

/-- A Sower core (R67). -/
structure Core where
  /-- Position that won last, by issue slot (R69). -/
  rr : Tbl Nat := []
  l1d : Tbl Line := []
  /-- Instruction cache: line to data; the list is in the order of use, the most recent first. -/
  icache : Tbl Line := []
  ifills : List Nat := []
  clk : DWord := 0
  /-- Local store: bytes not zero, and the context that last held each range (R155). -/
  ls : List Host.Cell := []
  lsHeld : List (Nat × Nat × Nat) := []
  lsPoison : List Nat := []
deriving DecidableEq, Repr

/-- Plot states (R211); a number not listed is FREE. -/
inductive PlotState where
  | carved | reserved | running | draining | faulted
deriving DecidableEq, Repr

/-- What unlisted storage of a plot reads as where it is unspecified (R209): the stamp of the free choice and the values of the context
that it chooses among. What lies only in segments that another context held last is zero: by segment row, column and segment. -/
structure PlotFill where
  tick : Nat
  lines : List (BitVec 2048)
  sides : List (BitVec 16)
  accs : List Word
  zeroRows : List Nat
  zeroCols : List Nat
  zeroSegs : List (Nat × Nat)
deriving DecidableEq, Repr
/-- The storage of a plot (R204): lines, side-band words and accumulators that are listed; others read as `fill` says. -/
structure PlotStore where
  /-- Under (side * 16 + slot) * 1024 + line. -/
  lines : Tbl (BitVec 2048) := []
  sides : Tbl (BitVec 16) := []
  /-- Under (bank * 512 + row) * 1024 + column. -/
  acc : Tbl Word := []
  fill : Option PlotFill := none
deriving DecidableEq, Repr

/-- What a lane write in the time of an MMA touches (R198): a line of a slot that it reads, or an accumulator element. -/
inductive Touch where
  | line (side line : Nat) | elem (row col : Nat)
deriving DecidableEq, Repr

/-- A command in a plot's queue: the command, rows enabled by group lane, its copies. -/
structure PlotRun where
  cmd : PlotCmd
  rows : List Nat
  nf : Bool
  tk0 : BitVec 4
  tk1 : BitVec 4
  /-- Drills and stamps it completes. -/
  by_ : List (Nat × Nat)
  started : Bool := false
  finished : Bool := false
  /-- For an MMA: what lane writes touched. For an AST: lines written, and a fault record it waits on. -/
  touched : List Touch := []
  units : Nat := 0
  fault : Option Nat := none
  /-- A TK0 signal of the command overflowed: M has stopped, and the plot is FAULTED once the command has completed (R82). -/
  ovf : Bool := false
deriving DecidableEq, Repr

/-- A posted lane write (R227, R234): the command's drill, the writes, and whether it met an MMA in flight (R198). -/
structure Posted where
  drill : Nat
  seq : Nat
  cmd : PlotCmd
  early : Bool := false
deriving DecidableEq, Repr

/-- A plot (R205, R211). -/
structure Plot where
  die : Nat
  num : Nat
  logR : Nat
  logC : Nat
  row0 : Nat
  col0 : Nat
  ctx : Nat
  st : PlotState := .carved
  gid : Option Nat := none
  side : Nat := 0
  store : PlotStore := {}
  /-- CLAIMED slots: side * 16 + slot. -/
  claimed : List Nat := []
  nv : Bool := false
  of : Bool := false
  uf : Bool := false
  nx : Bool := false
  queue : List PlotRun := []
  flight : List PlotRun := []
  posted : List Posted := []
  /-- Set aside for a group being placed (R406). -/
  aside : Bool := false
  /-- Cycles since the last MMA started (R216). -/
  sinceMma : Option (Nat × Nat) := none
  poisoned : Bool := false
deriving DecidableEq, Repr

/-- A plot that was uncarved, with what it held (R209). -/
structure OldPlot where
  die : Nat
  logR : Nat
  logC : Nat
  row0 : Nat
  col0 : Nat
  ctx : Nat
  num : Nat
  /-- None of its segments has been part of another plot since. -/
  intact : Bool := true
  store : PlotStore
deriving DecidableEq, Repr

/-- Stack states (R243). -/
inductive StackState where
  | held | draining | zeroing | forced
deriving DecidableEq, Repr

/-- A CEDE (R244): its side, the index of its drill, its group and context, and its TK1 field. -/
structure Cede where
  side : Nat
  drill : Nat
  gid : Nat
  ctx : Nat
  tk1 : BitVec 4
deriving DecidableEq, Repr

/-- A stack (R243). -/
structure Stack where
  st : StackState := .held
  owner : Nat := 0
  holder : Option Nat := none
  cedeRight : Bool := false
  epoch : BitVec 16 := 0
  /-- The hand-over under way: target side, step in progress 1-6, the stamp of its step 1, the CEDEs it carries. -/
  target : Nat := 0
  step : Nat := 0
  since : Nat := 0
  carried : List Cede := []
  /-- Null CEDEs accepted in ZEROING or FORCED, which complete when the stack is HELD (R245). -/
  nulls : List Cede := []
  queued : List Cede := []
  /-- CEDEs sent to Headland and not yet accepted. -/
  sent : List Cede := []
  /-- Zeroing was interrupted by a forced move (R245). -/
  zeroAfter : Bool := false
  /-- The holding context retired during a hand-over (R245). -/
  shareAfter : Bool := false
deriving DecidableEq, Repr

/-- Link states (R360). -/
inductive LinkState where
  | down | training | enumerating | active | degraded | fallow | resetting
deriving DecidableEq, Repr

/-- A link object (R360). -/
structure Link where
  st : LinkState := .down
  width : Nat := 0
  cause : Nat := 0
  isocnt : Nat := 0
  errcnt : Nat := 0
  hold : Bool := false
  /-- Isolation steps 1 to 6 have been done (R366). -/
  isolated : Bool := false
  /-- CMD RESET was written before its isolation came about: step 7 follows whatever HOLD is (R361, R367). -/
  resetAsked : Bool := false
  /-- GTIME of the entry to FALLOW, which orders isolations (R367). -/
  since : Nat := 0
deriving DecidableEq, Repr

/-- Fault record states (R355); a CLEAR record is not listed. -/
inductive FaultRecState where
  | queued | pending
deriving DecidableEq, Repr

/-- A fault record of a die (R352, R354). -/
structure FaultRec where
  st : FaultRecState
  /-- Words 4 and 16 of the posted entry are still to be rewritten: its stack was changing hands (R200, R354). -/
  stale : Bool := false
  /-- Ring index once posted. -/
  entry : Nat := 0
  asid : BitVec 16
  ctx : Nat
  agent : Nat
  unit : Nat
  pos : Nat
  merged : Nat := 0
  va : DWord
  cause : Nat
  acc : Nat
  pin : Bool
  level : Nat
  saveSlot : Nat
  time : DWord
deriving DecidableEq, Repr

/-- An entry of a syscall or task queue (R310): waiting to be posted, or posted and pending. -/
structure SysEntry where
  posted : Bool
  entry : Nat := 0
  kind : Nat
  ctx : Nat
  drill : Option Nat := none
  /-- The group of that drill. -/
  gid : Nat := 0
  launch : Option Nat := none
  bytes : List Byte
deriving DecidableEq, Repr

/-- Privilege modes of a hart. -/
inductive HartMode where
  | m | hs | u | vs | vu
deriving DecidableEq, Repr

/-- Whether a hart runs. svl.qfence and svl.evwait that wait leave the pc where it is. -/
inductive HartWait where
  /-- Not released, or halted (R383). -/
  | off
  /-- Waits for an MSI before it starts (R383). -/
  | waiting
  | running
deriving DecidableEq, Repr

/-- A hart (R5, R9, R313): an RVA23 hart's registers as the RISC-V specifications name them (log 13, PRESUMED). -/
structure Hart where
  x : Tbl DWord := []
  pc : DWord := 0
  mode : HartMode := .m
  satp : DWord := 0
  mtvec : DWord := 0
  mepc : DWord := 0
  mcause : DWord := 0
  mtval : DWord := 0
  /-- Fields MPP, MPV, MPIE and MIE of mstatus. -/
  mpp : BitVec 2 := 0
  mpv : Bool := false
  /-- Translation of guests, and SUM of sstatus. -/
  vsatp : DWord := 0
  hgatp : DWord := 0
  sum : Bool := false
  mpie : Bool := false
  mie : Bool := false
  /-- The other control and status registers by number, and the other fields of mstatus under its own; unlisted ones hold 0,
  but for vtype, which holds VILL. -/
  csr : Tbl DWord := []
  /-- Floating-point registers; unlisted ones hold 0. -/
  f : Tbl DWord := []
  /-- Vector registers by byte: register r begins at byte r * VLENB; unlisted bytes hold 0. -/
  vr : Tbl Byte := []
  /-- The reservation of LR: physical address, size, and the reserved bytes as they stood. -/
  resv : Option (Nat × Nat × List Byte) := none
  wait : HartWait := .off
deriving DecidableEq, Repr

/-- An interrupt file (R313): identities pending and enabled, and whether delivery is on. -/
structure Imsic where
  pending : BitVec 256 := 0
  enabled : BitVec 256 := 0
  deliver : Bool := false
  threshold : Nat := 0
deriving DecidableEq, Repr

/-- A translation that the IOMMU keeps (R350): device, process and privilege, the page, where it lies, what it allows, and the tags
that commands name it by. -/
structure IoEntry where
  id : BitVec 24
  pasid : Option (BitVec 20)
  priv : Bool
  page : Nat
  pa : Nat
  write : Bool
  gscid : Option Nat
  pscid : Nat
deriving DecidableEq, Repr
/-- What a PCIe device was answered (R17, R201, R350): data, data with the EP bit, Unsupported Request, a translation with its
permissions to read and write, or nothing but that its request was taken. -/
inductive DevAnswer where
  | data (bs : List Byte) | poisoned | unsupported | translation (pa : Nat) (r w : Bool) | taken
deriving DecidableEq, Repr
/-- Who executes the current turn. -/
inductive Act where
  | drill (k : Nat) | hart (n : Nat) | event (i : Instr)
deriving DecidableEq, Repr, Inhabited

/-- One turn of the agenda: clock cycles and GTIME ticks that pass first, and who moves. -/
structure Turn where
  cycles : Nat := 0
  ticks : Nat := 0
  act : Act
deriving DecidableEq, Repr, Inhabited

/-- The hash of the public key that is fused in the security block (R383): SHA-256 of the P-256 key of RFC 6979, A.2.5 (log 22,
DESIGN CHOICE). -/
def fusedKeyHash : List Byte :=
  (List.range 32).map fun j => BitVec.ofNat 8 (0xD6C23E2744A840CB3A5A14B6554CCE7C070057C4E3298CB93577DE687EECE659 / 2 ^ (8 * (31 - j)))
/-- The state of the package. -/
structure State where
  /-- The model's own: the turns that come next, who moves now, and stamps for free values and for program order and names. -/
  agenda : List Turn := []
  cur : Option Act := none
  tick : Nat := 0
  seq : Nat := 0
  gtime : DWord := 0
  /-- Home memory: bytes that are not what an unlisted address reads as, in ascending order. -/
  mem : List Host.Cell := []
  /-- Poisoned lines at home (R201), in ascending order. -/
  poison : List Nat := []
  /-- Lines that a chiplet holds in M, O or E, and the sharers of a line by chiplet. -/
  owned : Tbl Owned := []
  sharers : Tbl (BitVec 16) := []
  /-- Region grants: stack-owning chiplet and 4 KiB region (R154). -/
  grants : List (Nat × Nat) := []
  /-- Cached translations and walk-cache entries by cache (R345, `tlbChip`): a compute die's, a copy engine's, a plot
  sequencer's; 0 is Headland's service cache. -/
  tlb : Tbl (List TlbEntry) := []
  walks : Tbl (List WalkEntry) := []
  drills : Tbl Drill := []
  cores : Tbl Core := []
  /-- Cycles since the reset, and their number at a chiplet reset by Sower die: the CLK of a core that is not listed (R308). -/
  clkIdle : DWord := 0
  clkOff : Tbl DWord := []
  groups : Tbl Group := []
  crofts : Tbl Croft := []
  launches : Tbl Launch := []
  queues : Tbl Queue := []
  /-- Queue chosen last in each class (R321). -/
  lastChosen : Tbl Nat := []
  ctxs : Tbl Context := []
  plots : Tbl Plot := []
  oldPlots : List OldPlot := []
  stackTbl : Tbl Stack := []
  links : Tbl Link := []
  /-- Enable mask of each enumerated chiplet (R363), and its whole table for attestation. -/
  tables : Tbl (BitVec 2048) := []
  faultRecs : Tbl (Tbl FaultRec) := []
  sysEntries : Tbl (List SysEntry) := []
  harts : Tbl Hart := []
  imsics : Tbl Imsic := []
  /-- Registers by physical address (R16), each 8 or 4 bytes wide; unlisted ones hold their reset value. -/
  regs : Tbl DWord := []
  /-- ICFLUSH in progress, by Sower die. -/
  icflush : List Nat := []
  /-- Rails with a transition in progress (R374). -/
  railBusy : List Nat := []
  /-- Alarms of the present cycle, and the rails that took boost in it with what they held before (R374, R379). -/
  nowAlarms : DWord := 0
  nowBoost : Tbl (DWord × Bool) := []
  /-- GTIME of the first reading of 120 °C or above that has not tripped yet (R378). -/
  tripSince : Option Nat := none
  /-- VSR recovers from an error of class UV (R381). -/
  uvRec : Bool := false
  /-- The firmware image that the ROM verified (R383, R384): its bytes, version and entry address. -/
  image : List Byte := []
  /-- The public key's hash in the security block (R383); no reset changes it. -/
  keyHash : List Byte := fusedKeyHash
  imageVersion : Word := 0
  imageEntry : DWord := 0
  /-- The attestation report returned last (R384). -/
  report : List Byte := []
  /-- The answer to the last inbound remote access (R369): an error, or the data. -/
  inbound : Option (List Byte) := none
  /-- Uncached stores of lost drills that may still reach their target, oldest first (R87). -/
  strays : List (Nat × List Byte) := []
  /-- The IOMMU (R350): its registers by offset, doubleword by doubleword, the invalidations that devices have not completed, and
  the answer to the last request of a device. -/
  iommu : Tbl DWord := []
  iommuInvals : Nat := 0
  /-- Translations that the IOMMU keeps. -/
  ioEntries : List IoEntry := []
  devAnswer : Option DevAnswer := none
deriving DecidableEq, Repr

/-- Reasons a step stops the model. Neither is reached by a step of a machine: `step` sets who moves before it calls
`exec`. Safe: the model stops. -/
inductive Fault where
  /-- A Furrow instruction is executed with no drill to execute it. Raised by the meanings of Furrow instructions. -/
  | noDrill
  /-- A hart instruction is executed with no hart to execute it. Raised by the meanings of hart instructions. -/
  | noHart
deriving DecidableEq, Repr

/-- Reasons the model gives no meaning. -/
inductive Refusal where
  /-- An arm of `exec` without a meaning. Safe: the model stops. -/
  | notModelled (mnemonic : String)
deriving DecidableEq, Repr

/-- The machine right after a cold reset, before the boot ROM has run: every table empty, every register at its reset
value (R382), the stacks HELD by their west dies and shared (R11, R241), links DOWN (R360). -/
def State.reset : State := {}

end Sys2Proof.Machine
end

