-- ==== Sys2Proof/Config.lean ====
section
/-!
DEFINITION. What the spec leaves open: constants without a body. Nothing in the model or in a proof can see their values.
A free value is one of these applied to the stamp `State.tick` (log 1, DESIGN CHOICE), which every use advances.
-/
namespace Sys2Proof.Config
open Sys2Proof.Machine

/-- Who moves when the agenda is empty, by stamp (log 1, DESIGN CHOICE). -/
opaque schedule : Nat → Turn
/-- Contents of the boot ROM (R16), by offset (log 3, DESIGN CHOICE). -/
opaque romByte : Nat → Byte
/-- Installed LPDDR6 in bytes, which Headland reports (R17); the board sets it. -/
opaque lpddrSize : Nat
/-- CXL addresses that an HDM decoder claims (R17, R371), of the 1,024 GB that a port can hold (R2): the decoders' registers
are not in the spec (log 23, DESIGN CHOICE). -/
opaque hdmClaims : Nat → Bool
/-- What a device or remote agent answers to a read (R152, R370): stamp and address. -/
opaque deviceByte : Nat → Nat → Byte
/-- The root port that claims a PCIe address (R359): the bridges' windows are set through ECAM (log 23, DESIGN CHOICE). -/
opaque pciePort : Nat → Nat
/-- The fixed approximations of SFU.F32 (R118): function by FN, input. -/
opaque sfu : Nat → Word → Word
/-- Which of the two adjacent BF16 values SFU.BF16X2 delivers (R120): function by FN, input; true for the larger magnitude. -/
opaque bsfuUp : Nat → BitVec 16 → Bool
/-- Values that the spec calls undefined or unspecified: stamp and index. -/
opaque freeWord : Nat → Nat → Word
/-- Choices that the spec leaves to the device: stamp and index. -/
opaque freeBool : Nat → Nat → Bool
opaque freeNat : Nat → Nat → Nat
/-- The fused rollback counter (R383). -/
opaque rollback : Word
/-- The public identity key, and the signature of a report (R384), as bytes by index (log 22, DESIGN CHOICE). -/
opaque identityKey : Nat → Byte
opaque signature : List Byte → Nat → Byte
/-- The 4 KiB page of Headland's register block that holds the registers of the IOMMU (R16, R350), which the spec does not place
(log 23, DESIGN CHOICE). -/
opaque iommuPage : Nat
/-- The length of a hart's vector register: VLEN is 128 * 2^n bits with n this number modulo 10 (log 13, PRESUMED). -/
opaque vectorLog : Nat
/-- Lanes that the configuration gives a PCIe or CXL port (R361), by link number. -/
opaque portLanes : Nat → Nat

end Sys2Proof.Config
end

