-- ==== Sys2Proof/Machine/Bits.lean ====
section
/-!
DEFINITION. Tables, bit fields, byte order (R3) and lane vectors.
-/
namespace Sys2Proof.Machine

/-- The entry of a table, if it is listed. -/
def tblGet? {α : Type} (t : Tbl α) (i : Nat) : Option α :=
  match t with
  | [] => none
  | (j, a) :: r => if j = i then some a else tblGet? r i

/-- The entry of a table, or `d` where none is listed. -/
def tblGet {α : Type} (t : Tbl α) (i : Nat) (d : α) : α := (tblGet? t i).getD d

/-- Lists `a` under `i`, in ascending order of numbers. -/
def tblSet {α : Type} (t : Tbl α) (i : Nat) (a : α) : Tbl α :=
  match t with
  | [] => [(i, a)]
  | (j, b) :: r => if i < j then (i, a) :: (j, b) :: r else if i = j then (i, a) :: r else (j, b) :: tblSet r i a

/-- Lists nothing under `i`. -/
def tblErase {α : Type} (t : Tbl α) (i : Nat) : Tbl α := t.filter fun p => p.1 ≠ i

/-- Changes the entry under `i` where one is listed. -/
def tblMod {α : Type} (t : Tbl α) (i : Nat) (f : α → α) : Tbl α := t.map fun p => if p.1 = i then (p.1, f p.2) else p

/-- Changes every entry. -/
def tblMap {α : Type} (t : Tbl α) (f : Nat → α → α) : Tbl α := t.map fun p => (p.1, f p.1 p.2)

/-- Adds a number to an ascending list without repeats. -/
def setAdd (l : List Nat) (i : Nat) : List Nat :=
  match l with
  | [] => [i]
  | j :: r => if i < j then i :: j :: r else if i = j then j :: r else j :: setAdd r i

/-- The bits [lo + n - 1 : lo] of a word, as a number. -/
def field {w : Nat} (x : BitVec w) (lo n : Nat) : Nat := x.toNat / 2 ^ lo % 2 ^ n

/-- Puts `n` bits of the number `a` into bits [lo + n - 1 : lo] of a word. -/
def putField {w : Nat} (x : BitVec w) (lo n a : Nat) : BitVec w :=
  let m : BitVec w := (BitVec.ofNat w (2 ^ n - 1)) <<< lo
  (x &&& ~~~m) ||| ((BitVec.ofNat w (a % 2 ^ n)) <<< lo)

/-- Bytes of a value, little-endian (R3). -/
def toBytes {w : Nat} (x : BitVec w) (n : Nat) : List Byte := (List.range n).map fun j => x.extractLsb' (8 * j) 8

/-- The value that bytes spell, little-endian (R3). -/
def ofBytes (w : Nat) (bs : List Byte) : BitVec w :=
  BitVec.ofNat w (bs.foldr (fun b acc => b.toNat + 256 * acc) 0)

/-- Byte j of a line. -/
def lineByte (l : Line) (j : Nat) : Byte := l.extractLsb' (8 * j) 8

/-- A line with byte j replaced. -/
def lineSet (l : Line) (j : Nat) (b : Byte) : Line := putField l (8 * j) 8 b.toNat

/-- A value in every lane. -/
def lanesOf {w : Nat} (f : Nat → BitVec w) : Vector (BitVec w) 32 := Vector.ofFn fun i => f i.val

/-- The same value in every lane. -/
def splat {w : Nat} (x : BitVec w) : Vector (BitVec w) 32 := Vector.replicate 32 x

/-- The value of lane i; zero beyond lane 31. -/
def lane {w : Nat} (l : Vector (BitVec w) 32) (i : Nat) : BitVec w := l.getD i 0

/-- Lane i is in the mask. -/
def inMask (m : Mask) (i : Nat) : Bool := m.getLsbD i

/-- The lanes of a mask, ascending. -/
def maskLanes (m : Mask) : List Nat := (List.range 32).filter (inMask m)

/-- The mask of the lanes that satisfy `p`. -/
def maskOf (p : Nat → Bool) : Mask := (BitVec.ofBoolListLE ((List.range 32).map p)).setWidth 32

/-- `new` in the lanes of the mask, `old` elsewhere. -/
def merge {w : Nat} (m : Mask) (new old : Vector (BitVec w) 32) : Vector (BitVec w) 32 :=
  lanesOf fun i => if inMask m i then lane new i else lane old i

/-- Low halves of 64-bit lanes. -/
def loHalf (v : DLanes) : Lanes := lanesOf fun i => (lane v i).setWidth 32
/-- High halves of 64-bit lanes. -/
def hiHalf (v : DLanes) : Lanes := lanesOf fun i => (lane v i).extractLsb' 32 32
/-- Pairs of 32-bit lanes: [31:0] in the even register (R51). -/
def pairUp (lo hi : Lanes) : DLanes := lanesOf fun i => (lane hi i ++ lane lo i : BitVec 64)
/-- 32-bit lanes, zero-extended. -/
def widen (v : Lanes) : DLanes := lanesOf fun i => (lane v i).setWidth 64

/-- The first element of `l` that satisfies `p`, by its place. -/
def findIdx? {α : Type} (l : List α) (p : α → Bool) : Option Nat := l.findIdx? p

/-- A set bit of the mask of lowest number. -/
def lowestLane (m : Mask) : Option Nat := (maskLanes m).head?

end Sys2Proof.Machine
end

