-- ==== Sys2Proof/WellFormed.lean ====
section
/-!
DEFINITION. Well-formedness of Furrow words: the shape of each instruction (which fields it reads, what its
destination is, when its result lands) from the opcode map R37, and the checks of R38 point 1, each by name.
-/
namespace Sys2Proof

/-- GP = 0 with GN = 1: the uniform form (R27). -/
def Ctl.uniformForm (c : Ctl) : Bool := c.gn && c.gp == 0

/-- MMA forms that read deltas (R229). -/
def MmaFn.isMx : MmaFn → Bool
  | .mx8 | .mx6 | .mx4 => true
  | .e4m3 | .e5m2 | .bf16 | .f16 => false

/-- System registers that R299 lists. -/
def sysRegListed (n : BitVec 9) : Bool :=
  n.toNat ≤ 0x1B || (0x20 ≤ n.toNat && n.toNat ≤ 0x2A) || (0x30 ≤ n.toNat && n.toNat ≤ 0x37)

/-- Slots s to s + n - 1 of one side (R226). -/
def slotRangeOk (sl : BitVec 5) (cnt : BitVec 4) : Bool := (sl.setWidth 4).toNat + cnt.toNat ≤ 15

/-- Columns that ARD reads (R233). -/
def ArdFn.columns : ArdFn → Nat
  | .c1 => 1 | .c2 => 2 | .c4 => 4 | .c8 => 8
/-- Registers that ARD writes (R233). -/
def ardRegs (f : ArdFn) (bf : Bool) : Nat := if bf then (f.columns + 1) / 2 else f.columns

/-- A type of a CVT pair (R111): FP types 0-5 F32 BF16 F16 E4M3 E5M2 E2M1, integer types 0-7. -/
inductive CvtType where
  | fp (n : Nat) | int (n : Nat) | reserved
deriving DecidableEq, Repr
/-- Source type of pair number P (R111). -/
def cvtSrc (p : BitVec 6) : CvtType :=
  if p.toNat ≤ 0x23 then .fp (p.toNat % 6) else if p.toNat ≤ 0x2B then .fp 0
  else if p.toNat ≤ 0x33 then .int (p.toNat - 0x2C) else .reserved
/-- Destination type of pair number P (R111). -/
def cvtDst (p : BitVec 6) : CvtType :=
  if p.toNat ≤ 0x23 then .fp (p.toNat / 6) else if p.toNat ≤ 0x2B then .int (p.toNat - 0x24)
  else if p.toNat ≤ 0x33 then .fp 0 else .reserved
/-- Width of a type in bits (R111, R46). -/
def CvtType.width : CvtType → Nat
  | .fp 0 => 32 | .fp 1 => 16 | .fp 2 => 16 | .fp 3 => 8 | .fp 4 => 8 | .fp _ => 4
  | .int n => if n < 2 then 8 else if n < 4 then 16 else if n < 6 then 32 else 64
  | .reserved => 0
/-- Width of the source of pair P. -/
def cvtSrcWidth (p : BitVec 6) : Nat := (cvtSrc p).width
/-- Width of the destination of pair P. -/
def cvtDstWidth (p : BitVec 6) : Nat := (cvtDst p).width
/-- P is assigned and J names an element of the packed side (R111, R112). -/
def cvtLegal (j : BitVec 3) (p : BitVec 6) : Bool :=
  cvtSrc p != cvtDst p && cvtSrc p != .reserved && cvtDst p != .reserved &&
  (if cvtDstWidth p < 32 then j.toNat < 32 / cvtDstWidth p
   else if cvtSrcWidth p < 32 then j.toNat < 32 / cvtSrcWidth p else j == 0)

/-- What DST names (R28). -/
inductive DstClass where
  | none | v | s | vs | pairV | pairVS | sPair | quad | k | tile | vRun (n : Nat)
deriving DecidableEq, Repr
/-- How the guard is used: column G of R37. -/
inductive GuardUse where
  | none | lanes | operand
deriving DecidableEq, Repr
/-- The class that a source field requires. -/
inductive Need where
  | any | uniform | lane | pred | ureg
deriving DecidableEq, Repr
/-- A register source: its code, the class it must have and how many registers it covers. -/
structure SrcUse where
  src : Src
  need : Need
  width : Nat
deriving DecidableEq, Repr
/-- What LD may hold (R29). -/
inductive LatchRule where
  | zero | one | two | none
  /-- A latch, and the register is always written (R252). -/
  | kept
  | scope (top : Nat)
deriving DecidableEq, Repr
/-- What SBS may hold (R30). -/
inductive SbsRule where
  | any | required | zero
deriving DecidableEq, Repr

/-- The shape of an instruction: what its decode checks and its issue need to know of it. -/
structure Shape where
  dst : DstClass := .none
  d : BitVec 8 := 0
  guard : GuardUse := .none
  srcs : List SrcUse := []
  latch : LatchRule := .zero
  sbs : SbsRule := .any
  sys : Bool := false
  control : Bool := false
  queue : Bool := false
  command : Bool := false
  long : Bool := false
  lat : Nat := 0
  tiles : List (BitVec 3) := []
  extra : Bool := true
  unchecked : Bool := false
  noTk0 : Bool := false
  noTk1 : Bool := false
  bare : Bool := false
  immediate : Bool := false
deriving DecidableEq, Repr

/-- The shape of each Furrow instruction; a hart instruction or an event has the empty shape. -/
def Instr.shape : Instr → Shape
  | .nop _ => {}
  | .iadd f d a b _ => { dst := if f = .i64 then .pairVS else .vs, d := d, guard := .lanes, srcs := [⟨a, .any, if f = .i64 then 2 else 1⟩, ⟨b, .any, if f = .i64 then 2 else 1⟩], latch := if f = .i64 then .two else .one, lat := 4 }
  | .isub f d a b _ => { dst := if f = .i64 then .pairVS else .vs, d := d, guard := .lanes, srcs := [⟨a, .any, if f = .i64 then 2 else 1⟩, ⟨b, .any, if f = .i64 then 2 else 1⟩], latch := if f = .i64 then .two else .one, lat := 4 }
  | .imul f d a b _ => { dst := if f = .wideI ∨ f = .wideU then .pairVS else .vs, d := d, guard := .lanes, srcs := [⟨a, .any, 1⟩, ⟨b, .any, 1⟩], latch := if f = .wideI ∨ f = .wideU then .two else .one, lat := 4 }
  | .imac f d a b _ => { dst := if f = .wideU then .pairVS else .vs, d := d, guard := .lanes, srcs := [⟨a, .any, 1⟩, ⟨b, .any, 1⟩], latch := if f = .wideU then .two else .one, lat := 4 }
  | .imnx f d a b _ => { dst := .vs, d := d, guard := .lanes, srcs := if f = .abs ∨ f = .neg then [⟨a, .any, 1⟩] else [⟨a, .any, 1⟩, ⟨b, .any, 1⟩], latch := .one, lat := 4, extra := (decide (¬ (f = .abs ∨ f = .neg)) || b == .v 0) }
  | .log _ d a b _ => { dst := .vs, d := d, guard := .lanes, srcs := [⟨a, .any, 1⟩, ⟨b, .any, 1⟩], latch := .one, lat := 4 }
  | .shf _ x64 d a b _ => { dst := if x64 then .pairVS else .vs, d := d, guard := .lanes, srcs := [⟨a, .any, if x64 then 2 else 1⟩, ⟨b, .any, 1⟩], latch := if x64 then .two else .one, lat := 4 }
  | .bfx _ d a b _ => { dst := .vs, d := d, guard := .lanes, srcs := [⟨a, .any, 1⟩, ⟨b, .any, 1⟩], latch := .one, lat := 4 }
  | .bfi d a b _ => { dst := .vs, d := d, guard := .lanes, srcs := [⟨a, .any, 1⟩, ⟨b, .any, 1⟩], latch := .one, lat := 4 }
  | .bit _ d a _ => { dst := .vs, d := d, guard := .lanes, srcs := [⟨a, .any, 1⟩], latch := .one, lat := 4 }
  | .lea _ d a b _ => { dst := .pairVS, d := d, guard := .lanes, srcs := [⟨a, .any, 2⟩, ⟨b, .any, 1⟩], latch := .two, lat := 4 }
  | .icmp f u d a b _ => { dst := .k, d := d, guard := .lanes, srcs := [⟨a, .any, 1⟩, ⟨b, .any, 1⟩], latch := .one, lat := 4, extra := (!(u && (f = .eq || f = .ne))) }
  | .sel _ d a b _ => { dst := .v, d := d, guard := .lanes, srcs := [⟨a, .any, 1⟩, ⟨b, .any, 1⟩], latch := .one, lat := 4 }
  | .mov w64 d a _ => { dst := if w64 then .pairVS else .vs, d := d, guard := .lanes, srcs := [⟨a, .any, if w64 then 2 else 1⟩], latch := if w64 then .two else .one, lat := 4 }
  | .kop f d a b _ => { dst := .k, d := d, guard := .lanes, srcs := if f = .not then [⟨a, .pred, 1⟩] else [⟨a, .pred, 1⟩, ⟨b, .pred, 1⟩], latch := .one, lat := 4, extra := (decide (¬ (f = .not)) || b == .v 0) }
  | .iaddi d a _ _ => { dst := .vs, d := d, guard := .lanes, srcs := [⟨a, .any, 1⟩], latch := .one, lat := 4, immediate := true }
  | .andi d a _ _ => { dst := .vs, d := d, guard := .lanes, srcs := [⟨a, .any, 1⟩], latch := .one, lat := 4, immediate := true }
  | .ori d a _ _ => { dst := .vs, d := d, guard := .lanes, srcs := [⟨a, .any, 1⟩], latch := .one, lat := 4, immediate := true }
  | .xori d a _ _ => { dst := .vs, d := d, guard := .lanes, srcs := [⟨a, .any, 1⟩], latch := .one, lat := 4, immediate := true }
  | .shli d a imm _ => { dst := .vs, d := d, guard := .lanes, srcs := [⟨a, .any, 1⟩], latch := .one, lat := 4, immediate := true, extra := (imm.toNat < 32) }
  | .shri d a imm _ => { dst := .vs, d := d, guard := .lanes, srcs := [⟨a, .any, 1⟩], latch := .one, lat := 4, immediate := true, extra := (imm.toNat < 32) }
  | .sari d a imm _ => { dst := .vs, d := d, guard := .lanes, srcs := [⟨a, .any, 1⟩], latch := .one, lat := 4, immediate := true, extra := (imm.toNat < 32) }
  | .movil d _ _ => { dst := .vs, d := d, guard := .lanes, srcs := [], latch := .one, lat := 4, immediate := true }
  | .movih d _ _ => { dst := .vs, d := d, guard := .lanes, srcs := [], latch := .one, lat := 4, immediate := true }
  | .imuli d a _ _ => { dst := .vs, d := d, guard := .lanes, srcs := [⟨a, .any, 1⟩], latch := .one, lat := 4, immediate := true }
  | .srd d n c => { dst := .vs, d := d, latch := .one, lat := 4, extra := (sysRegListed n && !(n = 0 && c.uniformForm)) }
  | .swr n b _ => { srcs := [⟨b, if n = 0 then .any else .uniform, 1⟩], extra := (sysRegListed n) }
  | .sysSysc a _ => { srcs := [⟨a, .ureg, 8⟩], unchecked := true }
  | .sysTrapi _ _ => {}
  | .sysTret _ => { sys := true, control := true }
  | .sysUiret _ => { control := true }
  | .sysWaiti a _ => { srcs := [⟨a, .uniform, 2⟩], long := true }
  | .svldSavev a _ => { srcs := [⟨a, .uniform, 2⟩], sys := true, queue := true }
  | .svldLoadv a _ => { srcs := [⟨a, .uniform, 2⟩], sys := true }
  | .svldSaveu a _ => { srcs := [⟨a, .uniform, 2⟩], sys := true, queue := true }
  | .svldLoadu a _ => { srcs := [⟨a, .uniform, 2⟩], sys := true }
  | .svldSavep a _ => { srcs := [⟨a, .uniform, 2⟩], sys := true, queue := true }
  | .svldLoadp a _ => { srcs := [⟨a, .uniform, 2⟩], sys := true }
  | .svldSavex a _ => { srcs := [⟨a, .uniform, 2⟩], sys := true, queue := true }
  | .svldLoadx a _ => { srcs := [⟨a, .uniform, 2⟩], sys := true }
  | .faddF32 m d a b _ => { dst := .v, d := d, guard := .lanes, srcs := [⟨a, .any, 1⟩, ⟨b, .any, 1⟩], latch := .one, lat := 6, extra := (m != .sr) }
  | .fsubF32 m d a b _ => { dst := .v, d := d, guard := .lanes, srcs := [⟨a, .any, 1⟩, ⟨b, .any, 1⟩], latch := .one, lat := 6, extra := (m != .sr) }
  | .fmulF32 m d a b _ => { dst := .v, d := d, guard := .lanes, srcs := [⟨a, .any, 1⟩, ⟨b, .any, 1⟩], latch := .one, lat := 6, extra := (m != .sr) }
  | .fmacF32 m d a b _ => { dst := .v, d := d, guard := .lanes, srcs := [⟨a, .any, 1⟩, ⟨b, .any, 1⟩], latch := .one, lat := 6, extra := (m != .sr) }
  | .fmnxF32 _ d a b _ => { dst := .v, d := d, guard := .lanes, srcs := [⟨a, .any, 1⟩, ⟨b, .any, 1⟩], latch := .one, lat := 4 }
  | .fcmpF32 _ d a b _ => { dst := .k, d := d, guard := .lanes, srcs := [⟨a, .any, 1⟩, ⟨b, .any, 1⟩], latch := .one, lat := 4 }
  | .fsgn f d a b _ => { dst := .v, d := d, guard := .lanes, srcs := if f = .abs ∨ f = .neg then [⟨a, .any, 1⟩] else [⟨a, .any, 1⟩, ⟨b, .any, 1⟩], latch := .one, lat := 4, extra := (decide (¬ (f = .abs ∨ f = .neg)) || b == .v 0) }
  | .fcls d a _ => { dst := .v, d := d, guard := .lanes, srcs := [⟨a, .any, 1⟩], latch := .one, lat := 4 }
  | .faddiF32 d a _ _ => { dst := .v, d := d, guard := .lanes, srcs := [⟨a, .any, 1⟩], latch := .one, lat := 6, immediate := true }
  | .fmuliF32 d a _ _ => { dst := .v, d := d, guard := .lanes, srcs := [⟨a, .any, 1⟩], latch := .one, lat := 6, immediate := true }
  | .fmaciF32 d a _ _ => { dst := .v, d := d, guard := .lanes, srcs := [⟨a, .any, 1⟩], latch := .one, lat := 6, immediate := true }
  | .hadd m _ d a b _ => { dst := .v, d := d, guard := .lanes, srcs := [⟨a, .any, 1⟩, ⟨b, .any, 1⟩], latch := .one, lat := 6, extra := (m != .sr) }
  | .hmul m _ d a b _ => { dst := .v, d := d, guard := .lanes, srcs := [⟨a, .any, 1⟩, ⟨b, .any, 1⟩], latch := .one, lat := 6, extra := (m != .sr) }
  | .hmac m _ d a b _ => { dst := .v, d := d, guard := .lanes, srcs := [⟨a, .any, 1⟩, ⟨b, .any, 1⟩], latch := .one, lat := 6, extra := (m != .sr) }
  | .hmnx _ _ d a b _ => { dst := .v, d := d, guard := .lanes, srcs := [⟨a, .any, 1⟩, ⟨b, .any, 1⟩], latch := .one, lat := 4 }
  | .hmuliBf16x2 d a _ _ => { dst := .v, d := d, guard := .lanes, srcs := [⟨a, .any, 1⟩], latch := .one, lat := 6, immediate := true }
  | .hmuliF16x2 d a _ _ => { dst := .v, d := d, guard := .lanes, srcs := [⟨a, .any, 1⟩], latch := .one, lat := 6, immediate := true }
  | .cvt m _ d a j p _ => { dst := if cvtDstWidth p = 64 then .pairV else .v, d := d, guard := .lanes, srcs := [⟨a, .any, if cvtSrcWidth p = 64 then 2 else 1⟩], latch := if cvtDstWidth p = 64 then .two else .one, lat := 6, extra := (cvtLegal j p && !(m = .sr && cvtDstWidth p >= cvtSrcWidth p)) }
  | .prmt d a b _ => { dst := .v, d := d, guard := .lanes, srcs := [⟨a, .any, 1⟩, ⟨b, .any, 1⟩], latch := .one, lat := 4 }
  | .prmti d a _ _ => { dst := .v, d := d, guard := .lanes, srcs := [⟨a, .any, 1⟩], latch := .one, lat := 4, immediate := true }
  | .mxsc _ a _ => { srcs := [⟨a, .any, 1⟩], lat := 4 }
  | .vdot _ d a b _ => { dst := .v, d := d, guard := .lanes, srcs := [⟨a, .any, 1⟩, ⟨b, .any, 1⟩], latch := .one, lat := 6 }
  | .qclmp d a imm _ => { dst := .v, d := d, guard := .lanes, srcs := [⟨a, .any, 1⟩], latch := .one, lat := 4, immediate := true, extra := ((imm &&& 0x7F#16) != 0x7F#16 && (imm &&& 0x7F00#16) != 0x7F00#16) }
  | .sfuF32 _ d a _ => { dst := .v, d := d, guard := .lanes, srcs := [⟨a, .any, 1⟩], latch := .one, sbs := .required }
  | .sfuBf16x2 _ d a _ => { dst := .v, d := d, guard := .lanes, srcs := [⟨a, .any, 1⟩], latch := .one, sbs := .required }
  | .idiv _ d a b _ => { dst := .v, d := d, guard := .lanes, srcs := [⟨a, .any, 1⟩, ⟨b, .any, 1⟩], latch := .one, sbs := .required }
  | .fdivF32 m d a b _ => { dst := .v, d := d, guard := .lanes, srcs := [⟨a, .any, 1⟩, ⟨b, .any, 1⟩], latch := .one, sbs := .required, extra := (m != .sr) }
  | .lxch _ d a b _ => { dst := .v, d := d, guard := .lanes, srcs := [⟨a, .any, 1⟩, ⟨b, .any, 1⟩], latch := .one, lat := 4 }
  | .qx f d a b _ => { dst := .v, d := d, guard := .lanes, srcs := if f ≠ .bc then [⟨a, .any, 1⟩] else [⟨a, .any, 1⟩, ⟨b, .any, 1⟩], latch := .one, lat := 4, extra := (decide (¬ (f ≠ .bc)) || b == .v 0) }
  | .vote f d a _ => { dst := if f = .ballot then .s else .k, d := d, guard := .lanes, srcs := [⟨a, .any, 1⟩], latch := .one, lat := 4 }
  | .redx _ d a _ => { dst := .s, d := d, guard := .lanes, srcs := [⟨a, .any, 1⟩], latch := .one, lat := 8 }
  | .vgeti d a imm _ => { dst := .v, d := d, guard := .lanes, srcs := [⟨a, .any, 1⟩], latch := .one, sbs := .required, immediate := true, extra := (imm.toNat < 256) }
  | .vputi d a imm _ => { dst := .v, d := d, guard := .lanes, srcs := [⟨a, .any, 1⟩], sbs := .required, immediate := true, extra := (imm.toNat < 256) }
  | .tcfg t a _ => { tiles := [t], srcs := [⟨a, .uniform, 1⟩], lat := 4 }
  | .tmvr t a b _ => { guard := .lanes, tiles := [t], srcs := [⟨a, .any, 1⟩, ⟨b, .uniform, 1⟩], lat := 4 }
  | .tmvc t a b _ => { guard := .lanes, tiles := [t], srcs := [⟨a, .any, 1⟩, ⟨b, .uniform, 1⟩], lat := 4 }
  | .trdr d u b _ => { dst := .v, d := d, guard := .lanes, tiles := [u], srcs := [⟨b, .uniform, 1⟩], latch := .one, lat := 4 }
  | .trdc d u b _ => { dst := .v, d := d, guard := .lanes, tiles := [u], srcs := [⟨b, .uniform, 1⟩], latch := .one, lat := 4 }
  | .topZero t _ => { tiles := [t], lat := 4 }
  | .topTrans t u _ => { tiles := [t, u], lat := 4 }
  | .topRel t _ => { tiles := [t], lat := 4 }
  | .topCopy t u _ => { tiles := [t, u], lat := 4 }
  | .tsave t a _ => { tiles := [t], srcs := [⟨a, .uniform, 2⟩], queue := true }
  | .tload t a _ => { tiles := [t], srcs := [⟨a, .uniform, 2⟩] }
  | .bra _ _ => { guard := .operand, control := true }
  | .brz _ _ => { control := true }
  | .call d _ _ => { dst := .sPair, d := d, latch := .two, control := true, lat := 4 }
  | .ret a _ => { srcs := [⟨a, .ureg, 2⟩], control := true }
  | .jmpu a _ => { srcs := [⟨a, .ureg, 2⟩], control := true }
  | .jmpv a _ => { guard := .lanes, srcs := [⟨a, .lane, 2⟩], control := true }
  | .land _ => { sbs := .zero, bare := true }
  | .loop d _ _ => { dst := .s, d := d, latch := .one, control := true, lat := 4 }
  | .mpush _ => { guard := .operand }
  | .minv _ => {}
  | .mpop _ => {}
  | .kmask d _ => { dst := .k, d := d, latch := .one, lat := 4 }
  | .prefi _ _ _ => {}
  | .exit _ => { control := true, sbs := .zero, noTk1 := true }
  | .exitSucc a _ => { srcs := [⟨a, .ureg, 1⟩], control := true, sbs := .zero, noTk1 := true }
  | .ld f d a _ _ => { dst := match f with | .d => .pairV | .q => .quad | _ => .v, d := d, guard := .lanes, srcs := [⟨a, .any, 2⟩], latch := match f with | .d => .two | .q => .none | _ => .one, sbs := .required }
  | .st f d a _ _ => { dst := match f with | .d => .pairV | .q => .quad | _ => .v, d := d, guard := .lanes, srcs := [⟨a, .any, 2⟩], queue := true }
  | .lds f d a _ _ => { dst := match f with | .d => .pairV | .q => .quad | _ => .v, d := d, guard := .lanes, srcs := [⟨a, .any, 1⟩], latch := match f with | .d => .two | .q => .none | _ => .one, sbs := .required }
  | .sts f d a _ _ => { dst := match f with | .d => .pairV | .q => .quad | _ => .v, d := d, guard := .lanes, srcs := [⟨a, .any, 1⟩], queue := true }
  | .ldu f d a _ _ => { dst := if f = .d then .sPair else .s, d := d, srcs := [⟨a, .uniform, 2⟩], latch := if f = .d then .two else .one, sbs := .required }
  | .atomI32 f u d a b _ => { dst := .v, d := d, guard := .lanes, srcs := [⟨a, .any, 2⟩, ⟨b, .any, 1⟩], latch := .scope 6, sbs := .required, extra := (!(u && f != .min && f != .max)) }
  | .atomI64 f u d a b _ => { dst := .pairV, d := d, guard := .lanes, srcs := [⟨a, .any, 2⟩, ⟨b, .any, 2⟩], latch := .scope 6, sbs := .required, extra := (!(u && f != .min && f != .max)) }
  | .atomF32 _ d a b _ => { dst := .v, d := d, guard := .lanes, srcs := [⟨a, .any, 2⟩, ⟨b, .any, 1⟩], latch := .scope 6, sbs := .required }
  | .redI32 f u a b _ => { guard := .lanes, srcs := [⟨a, .any, 2⟩, ⟨b, .any, 1⟩], latch := .scope 6, extra := (!(u && f != .min && f != .max)) }
  | .redF32 _ a b _ => { guard := .lanes, srcs := [⟨a, .any, 2⟩, ⟨b, .any, 1⟩], latch := .scope 6 }
  | .redBf16x2 a b _ => { guard := .lanes, srcs := [⟨a, .any, 2⟩, ⟨b, .any, 1⟩], latch := .scope 6 }
  | .atoms f u d a b _ => { dst := .v, d := d, guard := .lanes, srcs := [⟨a, .any, 1⟩, ⟨b, .any, 1⟩], latch := .scope 3, sbs := .required, queue := true, extra := (!(u && f != .min && f != .max)) }
  | .fenceAcq _ _ => {}
  | .fenceRel _ _ => { queue := true }
  | .fenceAr _ _ => { queue := true }
  | .prefd a _ _ => { guard := .lanes, srcs := [⟨a, .any, 2⟩] }
  | .cacheWb a _ => { guard := .lanes, srcs := [⟨a, .any, 2⟩], queue := true }
  | .cacheInv a _ => { guard := .lanes, srcs := [⟨a, .any, 2⟩], queue := true }
  | .cacheWbi a _ => { guard := .lanes, srcs := [⟨a, .any, 2⟩], queue := true }
  | .ringCfg a b _ => { srcs := [⟨a, .uniform, 1⟩, ⟨b, .uniform, 1⟩] }
  | .ringClm d a _ => { dst := .s, d := d, srcs := [⟨a, .uniform, 1⟩], latch := .one, sbs := .required }
  | .ringPub a b _ => { srcs := [⟨a, .uniform, 1⟩, ⟨b, .uniform, 1⟩], queue := true }
  | .ringWtf d a _ => { dst := .s, d := d, srcs := [⟨a, .uniform, 1⟩], latch := .one, sbs := .required }
  | .ringRel a b _ => { srcs := [⟨a, .uniform, 1⟩, ⟨b, .uniform, 1⟩], queue := true }
  | .ringWte d a _ => { dst := .s, d := d, srcs := [⟨a, .uniform, 1⟩], latch := .one, sbs := .required }
  | .ringQry d a _ => { dst := .s, d := d, srcs := [⟨a, .uniform, 1⟩], latch := .one, sbs := .required }
  | .stashMap a b _ => { srcs := [⟨a, .uniform, 2⟩, ⟨b, .uniform, 1⟩] }
  | .stashUnmap a _ => { srcs := [⟨a, .uniform, 1⟩], queue := true }
  | .stashFlush a _ => { srcs := [⟨a, .uniform, 1⟩], queue := true }
  | .stashInv a _ => { srcs := [⟨a, .uniform, 1⟩], queue := true }
  | .cpyGl a _ => { srcs := [⟨a, .ureg, 8⟩], queue := true, command := true }
  | .cpyLg a _ => { srcs := [⟨a, .ureg, 8⟩], queue := true, command := true }
  | .cpyGg a _ => { srcs := [⟨a, .ureg, 8⟩], queue := true, command := true }
  | .cpyGb a _ => { srcs := [⟨a, .ureg, 8⟩], queue := true, command := true }
  | .cpyLb a _ => { srcs := [⟨a, .ureg, 8⟩], queue := true, command := true }
  | .cpyFill a _ => { srcs := [⟨a, .ureg, 8⟩], queue := true, command := true }
  | .barAll a b _ => { srcs := [⟨a, .uniform, 1⟩, ⟨b, .uniform, 1⟩], long := true }
  | .barPost a b _ => { srcs := [⟨a, .uniform, 1⟩, ⟨b, .uniform, 1⟩] }
  | .barHold a _ => { srcs := [⟨a, .uniform, 1⟩], long := true }
  | .barCroft _ => { long := true }
  | .barGrid _ => { long := true }
  | .mbarInit a b _ => { srcs := [⟨a, .uniform, 2⟩, ⟨b, .uniform, 1⟩], queue := true }
  | .mbarArr a b _ => { srcs := [⟨a, .uniform, 2⟩, ⟨b, .uniform, 1⟩], queue := true }
  | .mbarWait a b _ => { srcs := [⟨a, .uniform, 2⟩, ⟨b, .uniform, 1⟩], long := true }
  | .mbarTest d a b _ => { dst := .k, d := d, srcs := [⟨a, .uniform, 2⟩, ⟨b, .uniform, 1⟩], latch := .one, sbs := .required }
  | .mbarInv a _ => { srcs := [⟨a, .uniform, 2⟩], queue := true }
  | .lnchPost a b _ => { srcs := [⟨a, .uniform, 2⟩, ⟨b, .uniform, 1⟩], queue := true }
  | .lnchEvsig a b _ => { srcs := [⟨a, .uniform, 2⟩, ⟨b, .uniform, 1⟩], queue := true }
  | .lnchEvtst d a b _ => { dst := .k, d := d, srcs := [⟨a, .uniform, 2⟩, ⟨b, .uniform, 1⟩], sbs := .required }
  | .lnchEvclr a b _ => { srcs := [⟨a, .uniform, 2⟩, ⟨b, .uniform, 1⟩], queue := true }
  | .stkCede _ _ => { queue := true }
  | .stkTake _ _ => { long := true }
  | .stkQry d _ _ => { dst := .s, d := d, latch := .kept, sbs := .required }
  | .plotRsv d a _ => { dst := .k, d := d, srcs := [⟨a, .uniform, 1⟩], latch := .one, sbs := .required, queue := true }
  | .plotRel _ => { queue := true }
  | .plotQry d which _ => { dst := .s, d := d, latch := .one, sbs := .required, extra := which != 3 }
  | .plotCarve a _ => { srcs := [⟨a, .uniform, 1⟩], sys := true }
  | .plotUncarve a _ => { srcs := [⟨a, .uniform, 1⟩], sys := true }
  | .plotMerge a _ => { srcs := [⟨a, .uniform, 1⟩], queue := true }
  | .plotSplit a _ => { srcs := [⟨a, .uniform, 1⟩], queue := true }
  | .bedClaim sl cnt _ => { queue := true, command := true, extra := (slotRangeOk sl cnt) }
  | .bedRel sl cnt _ => { queue := true, command := true, extra := (slotRangeOk sl cnt) }
  | .bedLdv a b _ => { guard := .lanes, srcs := [⟨a, .lane, 1⟩, ⟨b, .uniform, 1⟩], queue := true, command := true }
  | .bedZero sl cnt _ => { queue := true, command := true, extra := (slotRangeOk sl cnt) }
  | .bedScl _ b _ => { srcs := [⟨b, .uniform, 1⟩], queue := true, command := true }
  | .mma f _ _ b _ => { srcs := if f.isMx then [⟨b, .ureg, 1⟩] else [], queue := true, command := true, extra := (f.isMx || b == .v 0) }
  | .msyncOpf _ => { queue := true, command := true }
  | .msyncWait _ => { long := true, noTk0 := true, noTk1 := true }
  | .msyncDrain _ => { queue := true, command := true }
  | .ard f bf d b _ => { dst := .vRun (ardRegs f bf), d := d, guard := .lanes, srcs := [⟨b, .uniform, 1⟩], latch := if ardRegs f bf = 1 then .one else if ardRegs f bf = 2 then .two else .none, sbs := .required, queue := true, command := true }
  | .awr a b _ => { guard := .lanes, srcs := [⟨a, .lane, 1⟩, ⟨b, .uniform, 1⟩], queue := true, command := true }
  | .ast _ a _ => { srcs := [⟨a, .ureg, 8⟩], queue := true, command := true }
  | .azr _ _ => { queue := true, command := true }
  | .svlStkgrant _ _ _ | .ctxBuild _ _ _ | .ctxActivate _ _ _ | .ctxPreempt _ _ _ | .ctxKill _ _ _
  | .ctxRelease _ _ _ | .ctxBudget _ _ _ | .ctxPriority _ _ _ | .ctxRestart _ _ _ | .svlSysret _ _ _
  | .svlFqdone _ _ _ | .svlFqkill _ _ _ | .svlQpost _ _ _ | .svlQfence | .svlEvsig _ _ _ | .svlEvclr _ _ _
  | .svlEvwait _ _ _ | .swathArbitration _ _ _ | .stallEnd _ | .resultLanding _
  | .variableResultLanding _ _ _ _ | .storeQueueDeparture _ _ | .longWaitMet _ | .waitiDeadline _
  | .boundaryTrap _ | .userInterruptDelivery _ | .preempt _ | .overrun _ | .budgetExhausted _
  | .fetchBufferRequest _ | .icacheFillDone _ _ _ | .fetchFault _ | .directoryRequest _ _ _
  | .atomPerform _ _ _ _ | .ringRequestServed _ _ | .stationDequeue _ _ _ | .copyCompletion _ _ _
  | .copyFaultStop _ _ | .copyAbort _ _ | .collectiveAssembly _ | .plotCommandDequeue _ | .mmaStart _
  | .mmaCompletion _ | .postedBedWriteDone _ _ | .astFaultStop _ | .plotEccError _ | .cedeAccept _
  | .handoverDrainStep _ | .handoverPortOpen _ | .stackZeroingDone _ | .groupPlacement _ _
  | .groupExitSequence _ | .groupRecordWrite _ | .groupRestore _ _ | .contextRetire _ | .syscallQueuePost _
  | .taskPost _ | .faultRecordPost _ | .packetCheck _ _ | .kcbRead _ | .qcmdOpen _ | .qcmdPause _
  | .qcmdResume _ | .qcmdDrain _ | .queueDrainDone _ | .scqbaseWrite _ _ | .scqheadWrite _ _
  | .fqbaseWrite _ _ | .fqheadWrite _ _ | .tlbiVaAsid _ | .tlbiAsid _ | .tlbiVaAll _ | .tlbiAll _
  | .shootdownDone | .icflushGo _ | .icflushDone _ | .linkIsolate _ | .linkReset _ | .linkRetrain _
  | .linkTrainingDone _ _ _ | .linkLaneFailure _ _ | .directoryTimeout _ | .heartbeatTimeout _
  | .linkUncorrectableError _ | .pcieContainment _ | .chipletIsolation _ | .chipletResetDone _
  | .pciebifWrite _ | .remoteResponse _ _ _ | .inboundRemoteAccess _ _ _ _ | .opctlWrite _ _ _
  | .clockTransitionDone _ | .tsensRefresh _ _ _ | .thermalTrip _ _ | .overCurrentAlarm _ | .ocauseWrite _ _
  | .eccceWrite _ | .uvSramError _ | .coldReset _ | .warmReset _ _ | .attestationRequest _ _
  | .registerWrite _ _ _ _ | .astCompletion _ _ | .astAbort _ | .bedZeroSclCompletion _ | .sramCorrectedError _ => {}

/-- The control fields of a Furrow word; empty for hart instructions and events. -/
def Instr.ctl : Instr → Ctl
  | .nop c | .iadd _ _ _ _ c | .isub _ _ _ _ c | .imul _ _ _ _ c | .imac _ _ _ _ c | .imnx _ _ _ _ c
  | .log _ _ _ _ c | .shf _ _ _ _ _ c | .bfx _ _ _ _ c | .bfi _ _ _ c | .bit _ _ _ c | .lea _ _ _ _ c
  | .icmp _ _ _ _ _ c | .sel _ _ _ _ c | .mov _ _ _ c | .kop _ _ _ _ c | .iaddi _ _ _ c | .andi _ _ _ c
  | .ori _ _ _ c | .xori _ _ _ c | .shli _ _ _ c | .shri _ _ _ c | .sari _ _ _ c | .movil _ _ c
  | .movih _ _ c | .imuli _ _ _ c | .srd _ _ c | .swr _ _ c | .sysSysc _ c | .sysTrapi _ c | .sysTret c
  | .sysUiret c | .sysWaiti _ c | .svldSavev _ c | .svldLoadv _ c | .svldSaveu _ c | .svldLoadu _ c
  | .svldSavep _ c | .svldLoadp _ c | .svldSavex _ c | .svldLoadx _ c | .faddF32 _ _ _ _ c
  | .fsubF32 _ _ _ _ c | .fmulF32 _ _ _ _ c | .fmacF32 _ _ _ _ c | .fmnxF32 _ _ _ _ c | .fcmpF32 _ _ _ _ c
  | .fsgn _ _ _ _ c | .fcls _ _ c | .faddiF32 _ _ _ c | .fmuliF32 _ _ _ c | .fmaciF32 _ _ _ c
  | .hadd _ _ _ _ _ c | .hmul _ _ _ _ _ c | .hmac _ _ _ _ _ c | .hmnx _ _ _ _ _ c | .hmuliBf16x2 _ _ _ c
  | .hmuliF16x2 _ _ _ c | .cvt _ _ _ _ _ _ c | .prmt _ _ _ c | .prmti _ _ _ c | .mxsc _ _ c | .vdot _ _ _ _ c
  | .qclmp _ _ _ c | .sfuF32 _ _ _ c | .sfuBf16x2 _ _ _ c | .idiv _ _ _ _ c | .fdivF32 _ _ _ _ c
  | .lxch _ _ _ _ c | .qx _ _ _ _ c | .vote _ _ _ c | .redx _ _ _ c | .vgeti _ _ _ c | .vputi _ _ _ c
  | .tcfg _ _ c | .tmvr _ _ _ c | .tmvc _ _ _ c | .trdr _ _ _ c | .trdc _ _ _ c | .topZero _ c
  | .topTrans _ _ c | .topRel _ c | .topCopy _ _ c | .tsave _ _ c | .tload _ _ c | .bra _ c | .brz _ c
  | .call _ _ c | .ret _ c | .jmpu _ c | .jmpv _ c | .land c | .loop _ _ c | .mpush c | .minv c | .mpop c
  | .kmask _ c | .prefi _ _ c | .exit c | .exitSucc _ c | .ld _ _ _ _ c | .st _ _ _ _ c | .lds _ _ _ _ c
  | .sts _ _ _ _ c | .ldu _ _ _ _ c | .atomI32 _ _ _ _ _ c | .atomI64 _ _ _ _ _ c | .atomF32 _ _ _ _ c
  | .redI32 _ _ _ _ c | .redF32 _ _ _ c | .redBf16x2 _ _ c | .atoms _ _ _ _ _ c | .fenceAcq _ c
  | .fenceRel _ c | .fenceAr _ c | .prefd _ _ c | .cacheWb _ c | .cacheInv _ c | .cacheWbi _ c
  | .ringCfg _ _ c | .ringClm _ _ c | .ringPub _ _ c | .ringWtf _ _ c | .ringRel _ _ c | .ringWte _ _ c
  | .ringQry _ _ c | .stashMap _ _ c | .stashUnmap _ c | .stashFlush _ c | .stashInv _ c | .cpyGl _ c
  | .cpyLg _ c | .cpyGg _ c | .cpyGb _ c | .cpyLb _ c | .cpyFill _ c | .barAll _ _ c | .barPost _ _ c
  | .barHold _ c | .barCroft c | .barGrid c | .mbarInit _ _ c | .mbarArr _ _ c | .mbarWait _ _ c
  | .mbarTest _ _ _ c | .mbarInv _ c | .lnchPost _ _ c | .lnchEvsig _ _ c | .lnchEvtst _ _ _ c
  | .lnchEvclr _ _ c | .stkCede _ c | .stkTake _ c | .stkQry _ _ c | .plotRsv _ _ c | .plotRel c
  | .plotQry _ _ c | .plotCarve _ c | .plotUncarve _ c | .plotMerge _ c | .plotSplit _ c | .bedClaim _ _ c
  | .bedRel _ _ c | .bedLdv _ _ c | .bedZero _ _ c | .bedScl _ _ c | .mma _ _ _ _ c | .msyncOpf c
  | .msyncWait c | .msyncDrain c | .ard _ _ _ _ c | .awr _ _ c | .ast _ _ c | .azr _ c => c
  | .svlStkgrant _ _ _ | .ctxBuild _ _ _ | .ctxActivate _ _ _ | .ctxPreempt _ _ _ | .ctxKill _ _ _
  | .ctxRelease _ _ _ | .ctxBudget _ _ _ | .ctxPriority _ _ _ | .ctxRestart _ _ _ | .svlSysret _ _ _
  | .svlFqdone _ _ _ | .svlFqkill _ _ _ | .svlQpost _ _ _ | .svlQfence | .svlEvsig _ _ _ | .svlEvclr _ _ _
  | .svlEvwait _ _ _ | .swathArbitration _ _ _ | .stallEnd _ | .resultLanding _
  | .variableResultLanding _ _ _ _ | .storeQueueDeparture _ _ | .longWaitMet _ | .waitiDeadline _
  | .boundaryTrap _ | .userInterruptDelivery _ | .preempt _ | .overrun _ | .budgetExhausted _
  | .fetchBufferRequest _ | .icacheFillDone _ _ _ | .fetchFault _ | .directoryRequest _ _ _
  | .atomPerform _ _ _ _ | .ringRequestServed _ _ | .stationDequeue _ _ _ | .copyCompletion _ _ _
  | .copyFaultStop _ _ | .copyAbort _ _ | .collectiveAssembly _ | .plotCommandDequeue _ | .mmaStart _
  | .mmaCompletion _ | .postedBedWriteDone _ _ | .astFaultStop _ | .plotEccError _ | .cedeAccept _
  | .handoverDrainStep _ | .handoverPortOpen _ | .stackZeroingDone _ | .groupPlacement _ _
  | .groupExitSequence _ | .groupRecordWrite _ | .groupRestore _ _ | .contextRetire _ | .syscallQueuePost _
  | .taskPost _ | .faultRecordPost _ | .packetCheck _ _ | .kcbRead _ | .qcmdOpen _ | .qcmdPause _
  | .qcmdResume _ | .qcmdDrain _ | .queueDrainDone _ | .scqbaseWrite _ _ | .scqheadWrite _ _
  | .fqbaseWrite _ _ | .fqheadWrite _ _ | .tlbiVaAsid _ | .tlbiAsid _ | .tlbiVaAll _ | .tlbiAll _
  | .shootdownDone | .icflushGo _ | .icflushDone _ | .linkIsolate _ | .linkReset _ | .linkRetrain _
  | .linkTrainingDone _ _ _ | .linkLaneFailure _ _ | .directoryTimeout _ | .heartbeatTimeout _
  | .linkUncorrectableError _ | .pcieContainment _ | .chipletIsolation _ | .chipletResetDone _
  | .pciebifWrite _ | .remoteResponse _ _ _ | .inboundRemoteAccess _ _ _ _ | .opctlWrite _ _ _
  | .clockTransitionDone _ | .tsensRefresh _ _ _ | .thermalTrip _ _ | .overCurrentAlarm _ | .ocauseWrite _ _
  | .eccceWrite _ | .uvSramError _ | .coldReset _ | .warmReset _ _ | .attestationRequest _ _
  | .registerWrite _ _ _ _ | .astCompletion _ _ | .astAbort _ | .bedZeroSclCompletion _ | .sramCorrectedError _ => {}

/-- A Furrow instruction: one with a 64-bit word. -/
def Instr.isFurrow : Instr → Bool
  | .nop _ | .iadd _ _ _ _ _ | .isub _ _ _ _ _ | .imul _ _ _ _ _ | .imac _ _ _ _ _ | .imnx _ _ _ _ _
  | .log _ _ _ _ _ | .shf _ _ _ _ _ _ | .bfx _ _ _ _ _ | .bfi _ _ _ _ | .bit _ _ _ _ | .lea _ _ _ _ _
  | .icmp _ _ _ _ _ _ | .sel _ _ _ _ _ | .mov _ _ _ _ | .kop _ _ _ _ _ | .iaddi _ _ _ _ | .andi _ _ _ _
  | .ori _ _ _ _ | .xori _ _ _ _ | .shli _ _ _ _ | .shri _ _ _ _ | .sari _ _ _ _ | .movil _ _ _
  | .movih _ _ _ | .imuli _ _ _ _ | .srd _ _ _ | .swr _ _ _ | .sysSysc _ _ | .sysTrapi _ _ | .sysTret _
  | .sysUiret _ | .sysWaiti _ _ | .svldSavev _ _ | .svldLoadv _ _ | .svldSaveu _ _ | .svldLoadu _ _
  | .svldSavep _ _ | .svldLoadp _ _ | .svldSavex _ _ | .svldLoadx _ _ | .faddF32 _ _ _ _ _
  | .fsubF32 _ _ _ _ _ | .fmulF32 _ _ _ _ _ | .fmacF32 _ _ _ _ _ | .fmnxF32 _ _ _ _ _ | .fcmpF32 _ _ _ _ _
  | .fsgn _ _ _ _ _ | .fcls _ _ _ | .faddiF32 _ _ _ _ | .fmuliF32 _ _ _ _ | .fmaciF32 _ _ _ _
  | .hadd _ _ _ _ _ _ | .hmul _ _ _ _ _ _ | .hmac _ _ _ _ _ _ | .hmnx _ _ _ _ _ _ | .hmuliBf16x2 _ _ _ _
  | .hmuliF16x2 _ _ _ _ | .cvt _ _ _ _ _ _ _ | .prmt _ _ _ _ | .prmti _ _ _ _ | .mxsc _ _ _ | .vdot _ _ _ _ _
  | .qclmp _ _ _ _ | .sfuF32 _ _ _ _ | .sfuBf16x2 _ _ _ _ | .idiv _ _ _ _ _ | .fdivF32 _ _ _ _ _
  | .lxch _ _ _ _ _ | .qx _ _ _ _ _ | .vote _ _ _ _ | .redx _ _ _ _ | .vgeti _ _ _ _ | .vputi _ _ _ _
  | .tcfg _ _ _ | .tmvr _ _ _ _ | .tmvc _ _ _ _ | .trdr _ _ _ _ | .trdc _ _ _ _ | .topZero _ _
  | .topTrans _ _ _ | .topRel _ _ | .topCopy _ _ _ | .tsave _ _ _ | .tload _ _ _ | .bra _ _ | .brz _ _
  | .call _ _ _ | .ret _ _ | .jmpu _ _ | .jmpv _ _ | .land _ | .loop _ _ _ | .mpush _ | .minv _ | .mpop _
  | .kmask _ _ | .prefi _ _ _ | .exit _ | .exitSucc _ _ | .ld _ _ _ _ _ | .st _ _ _ _ _ | .lds _ _ _ _ _
  | .sts _ _ _ _ _ | .ldu _ _ _ _ _ | .atomI32 _ _ _ _ _ _ | .atomI64 _ _ _ _ _ _ | .atomF32 _ _ _ _ _
  | .redI32 _ _ _ _ _ | .redF32 _ _ _ _ | .redBf16x2 _ _ _ | .atoms _ _ _ _ _ _ | .fenceAcq _ _
  | .fenceRel _ _ | .fenceAr _ _ | .prefd _ _ _ | .cacheWb _ _ | .cacheInv _ _ | .cacheWbi _ _
  | .ringCfg _ _ _ | .ringClm _ _ _ | .ringPub _ _ _ | .ringWtf _ _ _ | .ringRel _ _ _ | .ringWte _ _ _
  | .ringQry _ _ _ | .stashMap _ _ _ | .stashUnmap _ _ | .stashFlush _ _ | .stashInv _ _ | .cpyGl _ _
  | .cpyLg _ _ | .cpyGg _ _ | .cpyGb _ _ | .cpyLb _ _ | .cpyFill _ _ | .barAll _ _ _ | .barPost _ _ _
  | .barHold _ _ | .barCroft _ | .barGrid _ | .mbarInit _ _ _ | .mbarArr _ _ _ | .mbarWait _ _ _
  | .mbarTest _ _ _ _ | .mbarInv _ _ | .lnchPost _ _ _ | .lnchEvsig _ _ _ | .lnchEvtst _ _ _ _
  | .lnchEvclr _ _ _ | .stkCede _ _ | .stkTake _ _ | .stkQry _ _ _ | .plotRsv _ _ _ | .plotRel _
  | .plotQry _ _ _ | .plotCarve _ _ | .plotUncarve _ _ | .plotMerge _ _ | .plotSplit _ _ | .bedClaim _ _ _
  | .bedRel _ _ _ | .bedLdv _ _ _ | .bedZero _ _ _ | .bedScl _ _ _ | .mma _ _ _ _ _ | .msyncOpf _
  | .msyncWait _ | .msyncDrain _ | .ard _ _ _ _ _ | .awr _ _ _ | .ast _ _ _ | .azr _ _ => true
  | .svlStkgrant _ _ _ | .ctxBuild _ _ _ | .ctxActivate _ _ _ | .ctxPreempt _ _ _ | .ctxKill _ _ _
  | .ctxRelease _ _ _ | .ctxBudget _ _ _ | .ctxPriority _ _ _ | .ctxRestart _ _ _ | .svlSysret _ _ _
  | .svlFqdone _ _ _ | .svlFqkill _ _ _ | .svlQpost _ _ _ | .svlQfence | .svlEvsig _ _ _ | .svlEvclr _ _ _
  | .svlEvwait _ _ _ | .swathArbitration _ _ _ | .stallEnd _ | .resultLanding _
  | .variableResultLanding _ _ _ _ | .storeQueueDeparture _ _ | .longWaitMet _ | .waitiDeadline _
  | .boundaryTrap _ | .userInterruptDelivery _ | .preempt _ | .overrun _ | .budgetExhausted _
  | .fetchBufferRequest _ | .icacheFillDone _ _ _ | .fetchFault _ | .directoryRequest _ _ _
  | .atomPerform _ _ _ _ | .ringRequestServed _ _ | .stationDequeue _ _ _ | .copyCompletion _ _ _
  | .copyFaultStop _ _ | .copyAbort _ _ | .collectiveAssembly _ | .plotCommandDequeue _ | .mmaStart _
  | .mmaCompletion _ | .postedBedWriteDone _ _ | .astFaultStop _ | .plotEccError _ | .cedeAccept _
  | .handoverDrainStep _ | .handoverPortOpen _ | .stackZeroingDone _ | .groupPlacement _ _
  | .groupExitSequence _ | .groupRecordWrite _ | .groupRestore _ _ | .contextRetire _ | .syscallQueuePost _
  | .taskPost _ | .faultRecordPost _ | .packetCheck _ _ | .kcbRead _ | .qcmdOpen _ | .qcmdPause _
  | .qcmdResume _ | .qcmdDrain _ | .queueDrainDone _ | .scqbaseWrite _ _ | .scqheadWrite _ _
  | .fqbaseWrite _ _ | .fqheadWrite _ _ | .tlbiVaAsid _ | .tlbiAsid _ | .tlbiVaAll _ | .tlbiAll _
  | .shootdownDone | .icflushGo _ | .icflushDone _ | .linkIsolate _ | .linkReset _ | .linkRetrain _
  | .linkTrainingDone _ _ _ | .linkLaneFailure _ _ | .directoryTimeout _ | .heartbeatTimeout _
  | .linkUncorrectableError _ | .pcieContainment _ | .chipletIsolation _ | .chipletResetDone _
  | .pciebifWrite _ | .remoteResponse _ _ _ | .inboundRemoteAccess _ _ _ _ | .opctlWrite _ _ _
  | .clockTransitionDone _ | .tsensRefresh _ _ _ | .thermalTrip _ _ | .overCurrentAlarm _ | .ocauseWrite _ _
  | .eccceWrite _ | .uvSramError _ | .coldReset _ | .warmReset _ _ | .attestationRequest _ _
  | .registerWrite _ _ _ _ | .astCompletion _ _ | .astAbort _ | .bedZeroSclCompletion _ | .sramCorrectedError _ => false

/-- Why a word is not an instruction (R38 point 1), one name a check. -/
inductive WfError where
  | tk1Reserved | slotReserved | slotRequired | slotForbidden | waitField | guardForbidden | uniformForbidden
  | dstReserved | dstOdd | dstQuad | srcClass | srcOdd | srcWindow | latchForbidden | latchOdd | scopeReserved
  | noWriteForbidden | tokenForbidden | fieldNonzero | operandField
deriving DecidableEq, Repr

/-- Uniform-class codes (R32). -/
def Src.isUniform : Src → Bool
  | .s _ | .zero | .drill => true
  | .v _ | .l _ | .dlane | .glane | .k _ => false

/-- The DST column allows the uniform form (R27). -/
def DstClass.uniformOk : DstClass → Bool
  | .vs | .pairVS => true
  | .none | .v | .s | .pairV | .sPair | .quad | .k | .tile | .vRun _ => false

/-- Check of the guard (R27). -/
def checkGuard (sh : Shape) (c : Ctl) : Option WfError :=
  if c.uniformForm then (if sh.dst.uniformOk then none else some .uniformForbidden)
  else if sh.guard = .none && (c.gn || c.gp != 0) then some .guardForbidden else none

/-- Check of DST (R28). -/
def checkDst (sh : Shape) (c : Ctl) : Option WfError :=
  let d := sh.d.toNat
  match sh.dst with
  | .none | .v | .tile | .vRun _ => none
  | .k => if d ≥ 8 then some .dstReserved else none
  | .s => if d ≥ 64 then some .dstReserved else none
  | .sPair => if d ≥ 64 then some .dstReserved else if d % 2 = 1 then some .dstOdd else none
  | .vs => if c.uniformForm && d ≥ 64 then some .dstReserved else none
  | .pairVS => if c.uniformForm && d ≥ 64 then some .dstReserved else if d % 2 = 1 then some .dstOdd else none
  | .pairV => if d % 2 = 1 then some .dstOdd else none
  | .quad => if d % 4 ≠ 0 then some .dstQuad else none

/-- Check of one source (R32, R33): its class, and the alignment of a pair or of a window of eight. -/
def checkSrc (uniformForm : Bool) (u : SrcUse) : Option WfError :=
  let classOk := match u.need, u.src with
    | .any, _ => !uniformForm || u.src.isUniform
    | .uniform, x => x.isUniform
    | .lane, x => !x.isUniform
    | .pred, .k _ => true
    | .pred, _ => false
    | .ureg, .s _ => true
    | .ureg, _ => false
  if !classOk then some .srcClass
  else if u.width = 8 then
    (match u.src with | .s n => if n.toNat % 8 ≠ 0 then some .srcWindow else none | _ => none)
  else if u.width = 2 then
    (match u.src with
     | .v n => if n.toNat % 2 = 1 then some .srcOdd else none
     | .s n => if n.toNat % 2 = 1 then some .srcOdd else none
     | .l n => if n.toNat % 2 = 1 then some .srcOdd else none
     | _ => none)
  else none

/-- Check of LD and NW (R29). -/
def checkLatch (sh : Shape) (c : Ctl) : Option WfError :=
  match sh.latch with
  | .one => none
  | .kept => if c.nw then some .noWriteForbidden else none
  | .two => if c.ld.toNat % 2 = 1 then some .latchOdd else none
  | .zero | .none => if c.ld != 0 then some .latchForbidden else if c.nw then some .noWriteForbidden else none
  | .scope top => if c.ld.toNat > top then some .scopeReserved else if c.nw then some .noWriteForbidden else none

/-- Check of SBS and the wait fields (R24, R30). -/
def checkSlots (sh : Shape) (c : Ctl) : Option WfError :=
  if c.sbs = 7 then some .slotReserved
  else if sh.sbs = .required && c.sbs = 0 then some .slotRequired
  else if sh.sbs = .zero && c.sbs ≠ 0 then some .slotForbidden
  else if sh.immediate && c.sbw &&& (c.sbw - 1) != 0 then some .waitField
  else none

/-- Check of the token fields and of the fields that a LAND must leave zero (R25, R130, R231, R268). -/
def checkTokens (sh : Shape) (c : Ctl) : Option WfError :=
  if c.tk1 &&& 0b1100#4 != 0 then some .tk1Reserved
  else if (sh.noTk0 && c.tk0 != 0) || (sh.noTk1 && c.tk1 != 0) then some .tokenForbidden
  else if sh.bare && (c.sbw != 0 || c.nf) then some .fieldNonzero
  else none

/-- The first check of R38 point 1 that an instruction fails, if any. -/
def Instr.check (i : Instr) : Option WfError :=
  let sh := i.shape
  let c := i.ctl
  (checkTokens sh c).or ((checkSlots sh c).or ((checkGuard sh c).or ((checkDst sh c).or
    ((sh.srcs.findSome? (checkSrc c.uniformForm)).or ((checkLatch sh c).or
      (if sh.extra then none else some .operandField))))))

/-- A well-formed instruction: no check refuses it. -/
def Instr.wf (i : Instr) : Bool := i.check.isNone

end Sys2Proof
end

