-- ==== Sys2Proof/Machine/Flags.lean ====
section
/-!
DEFINITION. Floating-point values, exact arithmetic, rounding and the flags (R46-R62), conversions (R111, R112), the
special functions (R118, R120) and the MX sums (R52-R54, R65).
Flag bits: NV 16, DZ 8, OF 4, UF 2, NX 1 (R60).
-/
namespace Sys2Proof.Machine

/-- A floating-point format (R46). -/
structure FpFmt where
  bits : Nat
  mant : Nat
  bias : Nat
  /-- e all ones holds infinities and NaNs. -/
  ieee : Bool
  /-- Largest finite magnitude, as an encoding. -/
  maxEnc : Nat
  /-- The canonical NaN (R47); E2M1 has none. -/
  nanEnc : Option Nat
  infEnc : Option Nat
deriving DecidableEq, Repr

def fmtF32 : FpFmt := ⟨32, 23, 127, true, 0x7F7FFFFF, some 0x7FC00000, some 0x7F800000⟩
def fmtBF16 : FpFmt := ⟨16, 7, 127, true, 0x7F7F, some 0x7FC0, some 0x7F80⟩
def fmtF16 : FpFmt := ⟨16, 10, 15, true, 0x7BFF, some 0x7E00, some 0x7C00⟩
def fmtE4M3 : FpFmt := ⟨8, 3, 7, false, 0x7E, some 0x7F, none⟩
def fmtE5M2 : FpFmt := ⟨8, 2, 15, true, 0x7B, some 0x7E, some 0x7C⟩
def fmtE2M1 : FpFmt := ⟨4, 1, 1, false, 0x7, none, none⟩
/-- FP type numbers of CVT (R111). -/
def fmtOf : Nat → FpFmt
  | 0 => fmtF32 | 1 => fmtBF16 | 2 => fmtF16 | 3 => fmtE4M3 | 4 => fmtE5M2 | _ => fmtE2M1

/-- The sign bit of an encoding. -/
def FpFmt.neg (f : FpFmt) (x : Nat) : Bool := x / 2 ^ (f.bits - 1) % 2 = 1
/-- The magnitude of an encoding: all but the sign. -/
def FpFmt.mag (f : FpFmt) (x : Nat) : Nat := x % 2 ^ (f.bits - 1)
/-- An encoding of this sign and magnitude. -/
def FpFmt.signed (f : FpFmt) (neg : Bool) (mag : Nat) : Nat := if neg then mag + 2 ^ (f.bits - 1) else mag
/-- A NaN (R47). -/
def FpFmt.isNan (f : FpFmt) (x : Nat) : Bool :=
  match f.nanEnc, f.infEnc with
  | none, _ => false
  | some n, none => f.mag x = n
  | some _, some i => i < f.mag x
/-- A signalling NaN: mantissa MSB 0 (R48). -/
def FpFmt.isSnan (f : FpFmt) (x : Nat) : Bool := f.ieee && f.isNan x && f.mag x / 2 ^ (f.mant - 1) % 2 = 0
/-- An infinity. -/
def FpFmt.isInf (f : FpFmt) (x : Nat) : Bool := f.infEnc = some (f.mag x)

/-- An exact value: NaN, an infinity, or (-1)^neg * m * 2^e, with m = 0 for a signed zero. -/
inductive Fp where
  | nan | inf (neg : Bool) | fin (neg : Bool) (m : Nat) (e : Int)
deriving DecidableEq, Repr

/-- The value of an encoding (R46, R49). -/
def FpFmt.value (f : FpFmt) (x : Nat) : Fp :=
  if f.isNan x then .nan else if f.isInf x then .inf (f.neg x)
  else
    let e := f.mag x / 2 ^ f.mant
    let m := f.mag x % 2 ^ f.mant
    if e = 0 then .fin (f.neg x) m (1 - (f.bias : Int) - f.mant)
    else .fin (f.neg x) (m + 2 ^ f.mant) ((e : Int) - f.bias - f.mant)

/-- The rounding modes after DYN has been resolved (R35, R55). -/
inductive RMode where
  | rne | rtz | rdn | rup | rna | sr (rnd : Nat)
deriving DecidableEq, Repr

/-- The mode of an RMODE value (R299). -/
def rmodeOf (b : BitVec 3) : RMode :=
  match b.toNat with
  | 1 => .rtz | 2 => .rdn | 3 => .rup | 4 => .rna | _ => .rne
/-- The mode that FN selects (R35); `rnd` is the random value of SR. -/
def modeOf (m : Rnd) (rmode : BitVec 3) (rnd : Nat) : RMode :=
  match m with
  | .rne => .rne | .rtz => .rtz | .rdn => .rdn | .rup => .rup | .rna => .rna | .sr => .sr rnd | .dyn => rmodeOf rmode

/-- Whether a magnitude lo + rem / 2^k, with 0 ≤ rem < 2^k, rounds away from zero (R55, R57). -/
def roundsUp (mode : RMode) (neg : Bool) (lo rem k : Nat) : Bool :=
  if rem = 0 then false
  else match mode with
    | .rne => 2 * rem > 2 ^ k || (2 * rem = 2 ^ k && lo % 2 = 1)
    | .rtz => false
    | .rdn => neg
    | .rup => !neg
    | .rna => 2 * rem ≥ 2 ^ k
    | .sr rnd => rnd < rem * 2 ^ 32 / 2 ^ k

/-- Rounds the magnitude m * 2^e to a multiple of 2^q: the multiple, and whether it is inexact. -/
def roundAt (mode : RMode) (neg : Bool) (m : Nat) (e q : Int) : Nat × Bool :=
  if q ≤ e then (m * 2 ^ (e - q).toNat, false)
  else
    let k := (q - e).toNat
    let lo := m / 2 ^ k
    let rem := m % 2 ^ k
    (if roundsUp mode neg lo rem k then lo + 1 else lo, rem ≠ 0)

/-- m1 * 2^e1 < m2 * 2^e2. -/
def magLt (m1 : Nat) (e1 : Int) (m2 : Nat) (e2 : Int) : Bool :=
  if e1 ≤ e2 then m1 < m2 * 2 ^ (e2 - e1).toNat else m1 * 2 ^ (e1 - e2).toNat < m2

/-- The largest finite magnitude of a format, as m * 2^e. -/
def FpFmt.maxFin (f : FpFmt) : Nat × Int :=
  match f.value f.maxEnc with
  | .fin _ m e => (m, e)
  | _ => (0, 0)

/-- The result where the rounded magnitude passes the largest finite value (R56). -/
def overflowEnc (f : FpFmt) (mode : RMode) (sat neg : Bool) : Nat :=
  let away := match mode with
    | .rne | .rna | .sr _ => true
    | .rup => !neg
    | .rdn => neg
    | .rtz => false
  if sat || !away then f.signed neg f.maxEnc
  else match f.infEnc, f.nanEnc with
    | some i, _ => f.signed neg i
    | none, some n => n
    | none, none => f.signed neg f.maxEnc

/-- Rounds an exact value once into a format (R55, R56): the encoding and the flags. An infinity needs no rounding. -/
def roundTo (f : FpFmt) (mode : RMode) (sat : Bool) (x : Fp) : Nat × BitVec 5 :=
  match x with
  | .nan => (f.nanEnc.getD 0, 0)
  | .inf neg => (match f.infEnc with
      | some i => if sat then f.signed neg f.maxEnc else f.signed neg i
      | none => if sat then f.signed neg f.maxEnc else (f.nanEnc.getD (f.signed neg f.maxEnc)), 0)
  | .fin neg m e =>
    if m = 0 then (f.signed neg 0, 0)
    else
      let top : Int := e + Nat.log2 m
      let emin : Int := 1 - (f.bias : Int)
      let (r, inexact) := roundAt mode neg m e (max top emin - f.mant)
      let q : Int := max top emin - f.mant
      let (r, q) := if r = 2 ^ (f.mant + 1) then (2 ^ f.mant, q + 1) else (r, q)
      let (fm, fe) := f.maxFin
      if magLt fm fe r q then (overflowEnc f mode sat neg, 0b00101)
      else
        let (u, _) := roundAt mode neg m e (top - f.mant)
        let tiny := magLt u (top - f.mant) 1 emin
        let enc := if r < 2 ^ f.mant then r else (q + f.mant + f.bias).toNat * 2 ^ f.mant + r % 2 ^ f.mant
        (f.signed neg enc, if inexact then (if tiny then 0b00011 else 0b00001) else 0)

/-- The sign of an exact zero sum (R49). -/
def zeroSign (mode : RMode) (n1 n2 : Bool) : Bool := if n1 = n2 then n1 else mode = .rdn

/-- The exact sum of two values (R49), and NV for infinities of both signs. -/
def fpSum (mode : RMode) (a b : Fp) : Fp × BitVec 5 :=
  match a, b with
  | .nan, _ | _, .nan => (.nan, 0)
  | .inf n, .inf n' => if n = n' then (.inf n, 0) else (.nan, 16)
  | .inf n, _ | _, .inf n => (.inf n, 0)
  | .fin n1 m1 e1, .fin n2 m2 e2 =>
    let e := min e1 e2
    let s (n : Bool) (m : Nat) (x : Int) : Int := (if n then -1 else 1) * (m * 2 ^ (x - e).toNat : Nat)
    let t := s n1 m1 e1 + s n2 m2 e2
    if t = 0 then (.fin (zeroSign mode n1 n2) 0 0, 0) else (.fin (t < 0) t.natAbs e, 0)

/-- The exact product of two values, and NV for 0 times an infinity. -/
def fpProd (a b : Fp) : Fp × BitVec 5 :=
  match a, b with
  | .nan, _ | _, .nan => (.nan, 0)
  | .inf n, .inf n' => (.inf (n != n'), 0)
  | .inf n, .fin n' m _ | .fin n' m _, .inf n => if m = 0 then (.nan, 16) else (.inf (n != n'), 0)
  | .fin n1 m1 e1, .fin n2 m2 e2 => (.fin (n1 != n2) (m1 * m2) (e1 + e2), 0)

/-- NV where an operand is a signalling NaN (R48). -/
def snanFlag (f : FpFmt) (xs : List Nat) : BitVec 5 := if xs.any f.isSnan then 16 else 0

/-- a + b, rounded once (R105). -/
def fpAdd (f : FpFmt) (mode : RMode) (a b : Nat) : Nat × BitVec 5 :=
  let (x, fl) := fpSum mode (f.value a) (f.value b)
  let (r, g) := roundTo f mode false x
  (r, snanFlag f [a, b] ||| fl ||| g)
/-- a with its sign inverted. -/
def fpNeg (f : FpFmt) (a : Nat) : Nat := f.signed (!f.neg a) (f.mag a)
/-- a * b, rounded once. -/
def fpMul (f : FpFmt) (mode : RMode) (a b : Nat) : Nat × BitVec 5 :=
  let (x, fl) := fpProd (f.value a) (f.value b)
  let (r, g) := roundTo f mode false x
  (r, snanFlag f [a, b] ||| fl ||| g)
/-- d + a * b, rounded once; 0 times an infinity raises NV whatever d is (R105). -/
def fpFma (f : FpFmt) (mode : RMode) (d a b : Nat) : Nat × BitVec 5 :=
  let (p, fl) := fpProd (f.value a) (f.value b)
  let (x, fl') := fpSum mode (f.value d) p
  let (r, g) := roundTo f mode false x
  (r, snanFlag f [a, b, d] ||| fl ||| fl' ||| g)

/-- The place of an encoding that is no NaN in the order -0 < +0 (R107). -/
def FpFmt.key (f : FpFmt) (x : Nat) : Int := if f.neg x then -(f.mag x : Int) - 1 else f.mag x
/-- Minimum and maximum (R107): `number` forms return the other operand where one is a NaN. -/
def fpMinMax (f : FpFmt) (isMax number : Bool) (a b : Nat) : Nat × BitVec 5 :=
  let nan := f.nanEnc.getD 0
  let r := if f.isNan a && f.isNan b then nan
    else if f.isNan a then (if number then b else nan)
    else if f.isNan b then (if number then a else nan)
    else if isMax then (if f.key a < f.key b then b else a)
    else (if f.key b < f.key a then b else a)
  (r, snanFlag f [a, b])
/-- FMNX and HMNX (R107). -/
def fpMnm (f : FpFmt) (g : MnmFn) (a b : Nat) : Nat × BitVec 5 :=
  match g with
  | .min => fpMinMax f false false a b | .max => fpMinMax f true false a b
  | .minnum => fpMinMax f false true a b | .maxnum => fpMinMax f true true a b

/-- FCMP.F32 (R108): the relation and NV. -/
def fpCmp (g : FcmpFn) (a b : Nat) : Bool × BitVec 5 :=
  let f := fmtF32
  let un := f.isNan a || f.isNan b
  let v (x : Nat) : Int := if f.neg x then -(f.mag x : Int) else f.mag x
  let quiet := snanFlag f [a, b]
  let loud : BitVec 5 := if un then 16 else 0
  match g with
  | .eq => (!un && v a = v b, quiet)
  | .ne => (un || v a ≠ v b, quiet)
  | .lt => (!un && v a < v b, loud) | .le => (!un && v a ≤ v b, loud)
  | .gt => (!un && v b < v a, loud) | .ge => (!un && v b ≤ v a, loud)
  | .un => (un, quiet) | .ord => (!un, quiet)

/-- FCLS (R109). -/
def fpClass (a : Nat) : Nat :=
  let f := fmtF32
  let e := f.mag a / 2 ^ 23
  let bit := if f.isSnan a then 8 else if f.isNan a then 9
    else if f.isInf a then (if f.neg a then 0 else 7)
    else if f.mag a = 0 then (if f.neg a then 3 else 4)
    else if e = 0 then (if f.neg a then 2 else 5)
    else (if f.neg a then 1 else 6)
  2 ^ bit

/-- An integer type of CVT by number (R111): its width and whether it is signed. -/
def intType (n : Nat) : Nat × Bool := (if n < 2 then 8 else if n < 4 then 16 else if n < 6 then 32 else 64, n % 2 = 0)

/-- FP32 to an integer type (R56, R112). -/
def fpToInt (n : Nat) (mode : RMode) (sat : Bool) (a : Nat) : Nat × BitVec 5 :=
  let (w, sgn) := intType n
  let lo : Int := if sgn then -(2 ^ (w - 1) : Nat) else 0
  let hi : Int := if sgn then (2 ^ (w - 1) : Nat) - 1 else (2 ^ w : Nat) - 1
  let enc (x : Int) : Nat := (x % (2 ^ w : Nat)).toNat
  let bad : Int := if sgn then lo else 0
  match fmtF32.value a with
  | .nan => (enc (if sat then 0 else bad), 16)
  | .inf neg => (enc (if sat then (if neg then lo else hi) else bad), 16)
  | .fin neg m e =>
    let (r, inexact) := roundAt mode neg m e 0
    let x : Int := if neg then -(r : Int) else r
    if x > hi then (enc (if sat then hi else bad), 16)
    else if x < lo then (enc (if sat then lo else bad), 16)
    else (enc x, if inexact then 1 else 0)

/-- An integer type to FP32. -/
def intToFp (n : Nat) (mode : RMode) (x : Nat) : Nat × BitVec 5 :=
  let (w, sgn) := intType n
  let v : Int := if sgn && x ≥ 2 ^ (w - 1) then (x : Int) - (2 ^ w : Nat) else x
  roundTo fmtF32 mode false (.fin (v < 0) v.natAbs 0)

/-- One FP format to another (R56, R112): into E2M1 a NaN gives +0 with NV and an infinity the largest magnitude. -/
def fpToFp (src dst : FpFmt) (mode : RMode) (sat : Bool) (a : Nat) : Nat × BitVec 5 :=
  match src.value a with
  | .nan => match dst.nanEnc with
    | some n => (n, snanFlag src [a])
    | none => (0, 16)
  | .inf neg => match dst.infEnc, dst.nanEnc with
    | some i, _ => (dst.signed neg (if sat then dst.maxEnc else i), 0)
    | none, some n => if sat then (dst.signed neg dst.maxEnc, 0) else (n, 16)
    | none, none => (dst.signed neg dst.maxEnc, 0)
  | x => roundTo dst mode sat x

/-- Convert(x) of a CVT type pair (R112). -/
def cvtValue (p : BitVec 6) (mode : RMode) (sat : Bool) (x : Nat) : Nat × BitVec 5 :=
  match cvtSrc p, cvtDst p with
  | .fp a, .fp b => fpToFp (fmtOf a) (fmtOf b) mode sat x
  | .fp _, .int n => fpToInt n mode sat x
  | .int n, .fp _ => intToFp n mode x
  | _, _ => (0, 0)

/-- SRNext (R58). -/
def srNext (state : Word) (laneInGroup j : Nat) : Nat :=
  let h := state ^^^ (BitVec.ofNat 32 (4 * laneInGroup + j) * 0x9E3779B9)
  let h := (h ^^^ (h >>> 16)) * 0x7FEB352D
  let h := (h ^^^ (h >>> 15)) * 0x846CA68B
  (h ^^^ (h >>> 16)).toNat

/-- The integer square root, by bits from `n` down. -/
def isqrtFrom (x : Nat) : Nat → Nat → Nat
  | 0, r => r
  | n + 1, r => let t := r + 2 ^ n; if t * t ≤ x then isqrtFrom x n t else isqrtFrom x n r
/-- The integer square root of a number below 2^256. -/
def isqrt (x : Nat) : Nat := isqrtFrom x 128 0

/-- The quotient of two positive dyadic numbers, with a sticky bit below 66 good bits. -/
def quotient (m1 : Nat) (e1 : Int) (m2 : Nat) (e2 : Int) : Nat × Int :=
  let k := 66 + Nat.log2 m2
  let q := m1 * 2 ^ k / m2
  (2 * q + (if m1 * 2 ^ k % m2 = 0 then 0 else 1), e1 - e2 - k - 1)

/-- a / b, correctly rounded (R122). -/
def fpDiv (f : FpFmt) (mode : RMode) (a b : Nat) : Nat × BitVec 5 :=
  let s := f.neg a != f.neg b
  let sn := snanFlag f [a, b]
  match f.value a, f.value b with
  | .nan, _ | _, .nan => (f.nanEnc.getD 0, sn)
  | .inf _, .inf _ => (f.nanEnc.getD 0, 16)
  | .inf _, .fin .. => (f.signed s (f.infEnc.getD 0), 0)
  | .fin .., .inf _ => (f.signed s 0, 0)
  | .fin _ m1 e1, .fin _ m2 e2 =>
    if m2 = 0 then (if m1 = 0 then (f.nanEnc.getD 0, 16) else (f.signed s (f.infEnc.getD 0), 8))
    else if m1 = 0 then (f.signed s 0, 0)
    else let (q, e) := quotient m1 e1 m2 e2; roundTo f mode false (.fin s q e)

/-- The square root of a positive dyadic number, with a sticky bit below 60 good bits. -/
def rootOf (m : Nat) (e : Int) : Nat × Int :=
  let k : Nat := if (e % 2 = 0) then 120 else 121
  let x := m * 2 ^ k
  let r := isqrt x
  (2 * r + (if r * r = x then 0 else 1), (e - k) / 2 - 1)

/-- The square root, correctly rounded (R118). -/
def fpSqrt (f : FpFmt) (mode : RMode) (a : Nat) : Nat × BitVec 5 :=
  match f.value a with
  | .nan => (f.nanEnc.getD 0, snanFlag f [a])
  | .inf neg => if neg then (f.nanEnc.getD 0, 16) else (a, 0)
  | .fin neg m e =>
    if m = 0 then (a, 0) else if neg then (f.nanEnc.getD 0, 16)
    else let (r, x) := rootOf m e; roundTo f mode false (.fin false r x)

/-- Fixed-point references for the special functions: numbers are scaled by 2^96. -/
def fxOne : Int := (2 ^ 96 : Nat)
/-- The product of two fixed-point numbers. -/
def fxMul (a b : Int) : Int := a * b / (2 ^ 96 : Nat)
/-- ln 2 and pi, truncated, scaled by 2^96. -/
def fxLn2 : Int := 54916777467707473351141471128
def fxPi : Int := 248902613312231085230521944622
/-- Sum of a Taylor series: terms t, t x / (k+1), t x^2 / ((k+1)(k+2)), ... with step `d` between divisors. -/
def fxSeries (x : Int) : Nat → Nat → Int → Int
  | 0, _, _ => 0
  | n + 1, k, t => t + fxSeries x n (k + 1) (fxMul t x / (k + 1))
/-- The sine-like series: terms t, -t x^2 / ((k+1)(k+2)), ... -/
def fxAlternating (xx : Int) : Nat → Nat → Int → Int
  | 0, _, _ => 0
  | n + 1, k, t => t + fxAlternating xx n (k + 2) (-(fxMul t xx) / ((k + 1) * (k + 2)))
/-- 2^f for 0 ≤ f < 1. -/
def fxExp2 (f : Int) : Int := fxSeries (fxMul f fxLn2) 34 0 fxOne
/-- Fraction bits of log2 of 1 ≤ x < 2, by squaring. -/
def fxLog2Bits : Nat → Int → Int → Int
  | 0, _, acc => acc
  | n + 1, x, acc =>
    let y := fxMul x x
    if y ≥ 2 * fxOne then fxLog2Bits n (y / 2) (2 * acc + 1) else fxLog2Bits n y (2 * acc)
/-- log2 of 1 ≤ x < 2, to 64 bits. -/
def fxLog2 (x : Int) : Int := fxLog2Bits 64 x 0 * (2 ^ 32 : Nat)
/-- A finite value as a fixed-point number. -/
def fxOf (neg : Bool) (m : Nat) (e : Int) : Int :=
  let k := e + 96
  let v : Int := if k ≥ 0 then (m * 2 ^ k.toNat : Nat) else (m / 2 ^ (-k).toNat : Nat)
  if neg then -v else v
/-- sin and cos of a fixed-point number, after the removal of whole turns. -/
def fxSin (x : Int) : Int :=
  let r := x - (2 * fxPi) * ((x + fxPi) / (2 * fxPi))
  fxAlternating (fxMul r r) 24 1 r
def fxCos (x : Int) : Int :=
  let r := x - (2 * fxPi) * ((x + fxPi) / (2 * fxPi))
  fxAlternating (fxMul r r) 24 0 fxOne
/-- tanh of |x| < 32. -/
def fxTanh (x : Int) : Int :=
  let y := x * 2 * fxOne / fxLn2
  let i := y / fxOne
  let e : Int := if i ≥ 0 then fxExp2 (y - i * fxOne) * (2 ^ i.toNat : Nat) else fxExp2 (y - i * fxOne) / (2 ^ (-i).toNat : Nat)
  (e - fxOne) * fxOne / (e + fxOne)

/-- What a special function gives exactly, or a reference to judge an approximation by. -/
inductive SfuRes where
  /-- A special value with its flags. -/
  | exact (enc : Nat) (flags : BitVec 5)
  /-- An exact dyadic value, which rounds to itself where it is representable. -/
  | value (x : Fp)
  /-- A reference value m * 2^e with more than 60 good bits, and the bound on the result: relative 2^-a or absolute 2^-a. -/
  | near (neg : Bool) (m : Nat) (e : Int) (relative : Bool) (a : Nat)
  /-- The function's value is m * 2^e exactly, and only a bound is given for the result. -/
  | dyadic (neg : Bool) (m : Nat) (e : Int) (relative : Bool) (a : Nat)
  /-- Any value in [-1, 1]. -/
  | unit
  /-- No bound is given, and the value is not exact (log 9, DEDUCED); the reference is m * 2^e. -/
  | unbound (neg : Bool) (m : Nat) (e : Int)
deriving DecidableEq, Repr

/-- A fixed-point number as a reference. -/
def nearFx (x : Int) (scale : Int) (relative : Bool) (a : Nat) : SfuRes := .near (x < 0) x.natAbs (scale - 96) relative a
/-- A reference a little below m * 2^e in magnitude: sin x and tanh x for a small x. -/
def nearBelow (neg : Bool) (m : Nat) (e : Int) (a : Nat) : SfuRes := .near neg (m * 2 ^ 96 - 1) (e - 96) false a
/-- 2^x of a number that is no integer: a bound is given for normal results only. `x` is scaled; of a magnitude below 2^-60 only
its sign tells. -/
def exp2Near (f : FpFmt) (neg tiny : Bool) (x : Int) : SfuRes :=
  if tiny then .near false (if neg then 2 ^ 96 - 1 else 2 ^ 96 + 1) (-96) true 22
  else
    let i := x / fxOne
    let y := fxExp2 (x - i * fxOne)
    if i < 1 - (f.bias : Int) then .unbound false y.natAbs (i - 96) else nearFx y i true 22

/-- The special functions in a format (R118, R120): RCPA, RSQA, EXP2A, LOG2A, SINA, COSA, TANHA by FN. -/
def sfuSpec (f : FpFmt) (fn : SfuFn) (a : Nat) : SfuRes :=
  let nan := f.nanEnc.getD 0
  let inf := f.infEnc.getD 0
  let emin : Int := 1 - (f.bias : Int) - f.mant
  match fn, f.value a with
  | _, .nan => .exact nan (snanFlag f [a])
  | .rcpa, .inf neg => .exact (f.signed neg 0) 0
  | .rcpa, .fin neg m e =>
    if m = 0 then .exact (f.signed neg inf) 8
    else if m = 2 ^ Nat.log2 m then
      (let x : Int := -e - Nat.log2 m
       if x > f.bias then .exact (f.signed neg inf) 5 else .dyadic neg 1 x true 14)
    else
      let (q, x) := quotient 1 0 m e
      if magLt f.maxFin.1 f.maxFin.2 q x then .exact (f.signed neg inf) 5 else .near neg q x true 14
  | .rsqa, .inf neg => if neg then .exact nan 16 else .exact 0 0
  | .rsqa, .fin neg m e =>
    if m = 0 then .exact (f.signed neg inf) 8 else if neg then .exact nan 16
    else
      let (r, x) := rootOf m e
      if m = 2 ^ Nat.log2 m ∧ (e + Nat.log2 m) % 2 = 0 then .dyadic false 1 (-((e + Nat.log2 m) / 2)) true 14
      else let (q, y) := quotient 1 0 r x; .near false q y true 14
  | .exp2a, .inf neg => if neg then .exact 0 0 else .exact inf 0
  | .exp2a, .fin neg m e =>
    let x := fxOf neg m e
    let i := x / fxOne
    if m = 0 then .value (.fin false 1 0)
    else if e + Nat.log2 m ≥ 8 ∧ ¬neg then .exact inf 5
    else if (!neg && i ≥ 128) then .exact inf 5
    else if e + Nat.log2 m ≥ 8 ∨ x < emin * fxOne then .exact 0 3
    else if x % fxOne = 0 ∧ (m * 2 ^ (e + 200).toNat) % 2 ^ 200 = 0 then .value (.fin false 1 i)
    else exp2Near f neg (magLt m e 1 (-60)) x
  | .log2a, .inf neg => if neg then .exact nan 16 else .exact inf 0
  | .log2a, .fin neg m e =>
    if m = 0 then .exact (f.signed true inf) 8 else if neg then .exact nan 16
    else
      let t : Int := e + Nat.log2 m
      if m = 2 ^ Nat.log2 m then
        (if t = 0 then .exact 0 0 else .dyadic (t < 0) t.natAbs 0 (!(t = 1 ∨ t = -1)) 22)
      else
        let x := fxLog2 ((m * 2 ^ 96 / 2 ^ Nat.log2 m : Nat) : Int) + t * fxOne
        nearFx x 0 (!(t = 0 ∨ t = -1)) 22
  | .sina, .inf _ | .cosa, .inf _ => .exact nan 16
  | .sina, .fin neg m e =>
    if m = 0 then .exact a 0 else if magLt 1 15 m e then .unit
    else if magLt m e 1 (-30) then nearBelow neg m e 21 else nearFx (fxSin (fxOf neg m e)) 0 false 21
  | .cosa, .fin neg m e =>
    if m = 0 then .value (.fin false 1 0) else if magLt 1 15 m e then .unit
    else nearFx (fxCos (fxOf neg m e)) 0 false 21
  | .tanha, .inf neg => .value (.fin neg 1 0)
  | .tanha, .fin neg m e =>
    if m = 0 then .exact a 0
    else if magLt 1 5 m e then .near neg (2 ^ 96 - 1) (-96) false 21
    else if magLt m e 1 (-30) then nearBelow neg m e 21
    else nearFx (fxTanh (fxOf neg m e)) 0 false 21
  | .sqrt, _ => .exact nan 0

/-- |y - m 2^e| within the bound: 2^-a times m 2^e, or 2^-a. -/
def withinBound (y : Fp) (neg : Bool) (m : Nat) (e : Int) (relative : Bool) (a : Nat) : Bool :=
  match y with
  | .fin yn ym ye =>
    let lo := min e (min ye (-(a : Int)))
    let v (n : Bool) (m : Nat) (e : Int) : Int := (if n then -1 else 1) * (m * 2 ^ (e - lo).toNat : Nat)
    let d := (v yn ym ye - v neg m e).natAbs
    if relative then d * 2 ^ a ≤ m * 2 ^ (e - lo).toNat else d ≤ 2 ^ ((-(a : Int)) - lo).toNat
  | _ => false

/-- A delivered result that differs from the exact one: NX, and UF where it is tiny (R60, R61). -/
def inexactFlags (f : FpFmt) (r : Nat) : BitVec 5 := if f.mag r < 2 ^ f.mant then 3 else 1
/-- The encoding stands for m * 2^e. -/
def FpFmt.isValue (f : FpFmt) (r : Nat) (neg : Bool) (m : Nat) (e : Int) : Bool :=
  match f.value r with
  | .fin rn rm re => rn = neg && !magLt rm re m e && !magLt m e rm re
  | _ => false
/-- SFU.F32 but SQRT (R118): the device's fixed approximation where it keeps the bound, else the reference rounded;
NX whenever the result is not exact (R61). -/
def sfuApprox (fn : SfuFn) (a : Nat) : Nat × BitVec 5 :=
  let y := (Config.sfu fn.ctorIdx (BitVec.ofNat 32 a)).toNat
  let f := fmtF32
  match sfuSpec f fn a with
  | .exact enc fl => (enc, fl)
  | .value x => roundTo f .rne false x
  | .near neg m e relative b =>
    let r := if withinBound (f.value y) neg m e relative b then y else (roundTo f .rne false (.fin neg m e)).1
    (r, inexactFlags f r)
  | .dyadic neg m e relative b =>
    let r := if withinBound (f.value y) neg m e relative b then y else (roundTo f .rne false (.fin neg m e)).1
    (r, if f.isValue r neg m e then 0 else inexactFlags f r)
  | .unbound _ _ _ => (y, inexactFlags f y)
  | .unit =>
    let r := match f.value y with
      | .fin _ m e => if magLt 1 0 m e then 0 else y
      | _ => 0
    (r, inexactFlags f r)

/-- SFU.F32 (R118). -/
def sfuValue (fn : SfuFn) (rmode : RMode) (a : Nat) : Nat × BitVec 5 :=
  match fn with
  | .sqrt => fpSqrt fmtF32 rmode a
  | _ => sfuApprox fn a

/-- One of the two BF16 values next to m * 2^e, or that value itself where it is one (R120); `exact` tells whether the
function's value is m * 2^e. -/
def faithful (up exact neg : Bool) (m : Nat) (e : Int) : Nat × BitVec 5 :=
  let f := fmtBF16
  let (lo, fl) := roundTo f .rtz false (.fin neg m e)
  let hi := f.signed neg (f.mag lo + 1)
  if exact && fl = 0 then (lo, 0)
  else if up then (hi, if f.mag lo = f.maxEnc then 5 else inexactFlags f hi)
  else (lo, inexactFlags f lo)
/-- One element of SFU.BF16X2 (R120): the exact result, or one of the two adjacent values. -/
def bsfuValue (fn : BsfuFn) (a : Nat) : Nat × BitVec 5 :=
  let f := fmtBF16
  let g : SfuFn := match fn with | .exp2 => .exp2a | .rcp => .rcpa | .rsq => .rsqa | .tanh => .tanha
  match sfuSpec f g a with
  | .exact enc fl => (enc, fl)
  | .value x => roundTo f .rne false x
  | .near neg m e _ _ | .unbound neg m e => faithful (Config.bsfuUp fn.ctorIdx (BitVec.ofNat 16 a)) false neg m e
  | .dyadic neg m e _ _ => faithful (Config.bsfuUp fn.ctorIdx (BitVec.ofNat 16 a)) true neg m e
  | .unit => (0, 1)

/-- Element k of a packed integer, two's complement of w bits. -/
def elemInt (x : Nat) (w k : Nat) : Int :=
  let v := x / 2 ^ (w * k) % 2 ^ w
  if v ≥ 2 ^ (w - 1) then (v : Int) - (2 ^ w : Nat) else v
/-- A two's complement field of w bits (R53). -/
def signedField (v w : Nat) : Int := if v % 2 ^ w ≥ 2 ^ (w - 1) then ((v % 2 ^ w : Nat) : Int) - (2 ^ w : Nat) else (v % 2 ^ w : Nat)
/-- s * 2^x as an exact value. -/
def scaled (s : Int) (x : Int) : Fp := .fin (s < 0) s.natAbs x
/-- acc := RNE32(acc + x) of R65, with flags. -/
def accStep (acc : Nat) (x : Fp) : Nat × BitVec 5 :=
  let (t, fl) := fpSum .rne (fmtF32.value acc) x
  let (r, g) := roundTo fmtF32 .rne false t
  (r, snanFlag fmtF32 [acc] ||| fl ||| g)

/-- One MX block of R65: block sum and delta fields. -/
def mxStep (acc : Nat) (dA dB : Nat) (ea eb : Int) (s : Int) : Nat × BitVec 5 :=
  if dA = 8 ∨ dB = 8 then (0x7FC00000, 16)
  else if s = 0 then (acc, 0)
  else accStep acc (scaled s (ea + signedField dA 4 + (eb + signedField dB 4)))

/-- One FP group of R65: the exact sum of the products; an exact zero leaves acc unchanged. -/
def fpGroup (acc : Nat) (f : FpFmt) (as bs : List Nat) : Nat × BitVec 5 :=
  let prods := (as.zip bs).map fun p => fpProd (f.value p.1) (f.value p.2)
  let isNan := prods.any (fun p => p.1 = .nan)
  let pos := prods.any (fun p => p.1 = .inf false)
  let neg := prods.any (fun p => p.1 = .inf true)
  let s := if isNan || (pos && neg) then Fp.nan else if pos then .inf false else if neg then .inf true
    else (prods.foldl (fun x p => (fpSum .rne x p.1).1) (.fin false 0 0))
  match s with
  | .nan => (0x7FC00000, 16)
  | .fin _ 0 _ => (acc, 0)
  | x => accStep acc x

end Sys2Proof.Machine
end

