-- ==== Sys2Proof/Machine/Memory.lean ====
section
/-!
DEFINITION. The physical map (R16, R17, R152), home memory, coherence (R15, R151, R154), poison (R201), the L1D (R153)
and local store (R155). Reads go through `State.byteAt`, the latest write in package order (R191).
-/
namespace Sys2Proof.Machine

/-- What a physical address names (R16). -/
inductive Region where
  | regs (chip off : Nat) | rom (off : Nat) | imsic (off : Nat) | pcie | stack (k off : Nat) | lpddr (off : Nat)
  | cxl (port off : Nat) | remote (window off : Nat) | hole
deriving DecidableEq, Repr

/-- The map of R16. -/
def regionOf (a : Nat) : Region :=
  if a < 0x10000000 then .regs (a / 0x1000000) (a % 0x1000000)
  else if a < 0x10010000 ∧ 0x10000000 ≤ a then .rom (a - 0x10000000)
  else if 0x20000000 ≤ a ∧ a < 0x30000000 then .imsic (a - 0x20000000)
  else if 0x40000000 ≤ a ∧ a < 0x80000000 then .pcie
  else if 0x8000000000 ≤ a ∧ a < 0x10000000000 then .stack ((a - 0x8000000000) / 0x1000000000) (a % 0x1000000000)
  else if 0x10000000000 ≤ a ∧ a < 0x30000000000 then .lpddr (a - 0x10000000000)
  else if 0x30000000000 ≤ a ∧ a < 0x40000000000 then .cxl 0 (a - 0x30000000000)
  else if 0x40000000000 ≤ a ∧ a < 0x50000000000 then .cxl 1 (a - 0x40000000000)
  else if 0x80000000000 ≤ a ∧ a < 0xC0000000000 then .pcie
  else if 0x100000000000 ≤ a ∧ a < 0x200000000000 then
    .remote ((a - 0x100000000000) / 0x10000000000) (a % 0x10000000000)
  else .hole

/-- Memory classes (R152). -/
inductive MemClass where
  | cacheable | uncached | remote | none
deriving DecidableEq, Repr

/-- The class of a physical address (R152). -/
def classOf (a : Nat) : MemClass :=
  match regionOf a with
  | .stack .. | .lpddr .. | .cxl .. => .cacheable
  | .regs .. | .rom .. | .imsic .. | .pcie => .uncached
  | .remote .. => .remote
  | .hole => .none

/-- The link object of a number (R359); one that nothing has changed is DOWN. -/
def State.link (s : State) (n : Nat) : Link := tblGet s.links n {}
/-- A link that carries traffic (R361). -/
def State.linkUp (s : State) (n : Nat) : Bool := (s.link n).st = .active || (s.link n).st = .degraded
/-- A chiplet that answers: Headland, or one whose link is ACTIVE or DEGRADED (R367). -/
def State.chipUp (s : State) (c : Nat) : Bool := c = 0 || s.linkUp c

/-- Harts that exist (R313). -/
def hartExists (n : Nat) : Bool := n < 97
/-- The chiplet of a hart (R313). -/
def hartChip (n : Nat) : Nat := if n < 32 then 1 else if n < 64 then 2 else if n < 96 then 4 + (n - 64) / 4 else 0
/-- The interrupt file that a page of the IMSIC range holds: hart and file, 0 for M, 1 for S, 2 to 8 for guests 1 to 7 (R313), of
disabled harts too (R17; log 100, DESIGN CHOICE). -/
def imsicFile (off : Nat) : Option (Nat × Nat) :=
  if off < 0x1000 * 97 then some (off / 0x1000, 0)
  else if 0x8000000 ≤ off ∧ off < 0x8000000 + 0x8000 * 97 then
    some ((off - 0x8000000) / 0x8000, 1 + (off - 0x8000000) % 0x8000 / 0x1000)
  else none

/-- A register of the package by physical address: its stored value, or its reset value. The reset values that are not
zero: quota entries (R261), OPCTL 0 and 1 (R374). -/
def regReset (a : Nat) : DWord :=
  if 0x40000 ≤ a ∧ a < 0x48000 ∧ a % 8 = 0 then 0x0010020002000040
  else if a = 0x50000 ∨ a = 0x50008 then 16 else 0
/-- The stored value of a register. -/
def State.reg (s : State) (a : Nat) : DWord := tblGet s.regs a (regReset a)
/-- Stores a register. -/
def State.setReg (s : State) (a : Nat) (v : DWord) : State := { s with regs := tblSet s.regs a v }

/-- Whether a physical address is backed (R17, R369, R370, R371): of the second tiers, at most 2,048 GB of LPDDR6 and 1,024 GB
at each CXL port (R2, R4). -/
def State.backed (s : State) (a : Nat) : Bool :=
  match regionOf a with
  | .regs c _ => c ≠ 3 && c ≠ 14 && c ≠ 15 && s.chipUp c
  | .rom _ => true
  | .imsic off => (imsicFile off).isSome
  | .pcie => true
  | .stack _ off => off ≤ 0xEE6B27FFF
  | .lpddr off => off < min Config.lpddrSize (2048 * 10 ^ 9)
  | .cxl p off => off < 1024 * 10 ^ 9 && Config.hdmClaims a && s.linkUp (44 + p)
  | .remote w _ => (s.reg (0xF0000 + 8 * w)).getLsbD 63
  | .hole => false

/-- The link of the port that a remote address goes through (R369). -/
def State.remotePort (s : State) (pa : Nat) : Option Nat :=
  match regionOf pa with
  | .remote w _ => some (24 + field (s.reg (0xF0000 + 8 * w)) 48 4)
  | _ => none
/-- The chiplet at a ring position (R11). -/
def ringChip (p : Nat) : Nat := if p % 2 = 0 then 4 + p % 8 / 2 else 8 + p % 8 / 2
/-- The stack's record; one that nothing has changed is HELD by its west die and shared (R11, R241). -/
def State.stack (s : State) (k : Nat) : Stack := tblGet s.stackTbl k {}
/-- The die on side 0 west or 1 east of a stack (R11). -/
def stackDie (k side : Nat) : Nat := ringChip ((k + side) % 8)
/-- The die whose port is open, or was open last (R12). -/
def State.stackOwner (s : State) (k : Nat) : Nat := stackDie k (s.stack k).owner
/-- Neither neighbour of the stack can open a port (R367). -/
def State.stackDead (s : State) (k : Nat) : Bool :=
  !s.chipUp (stackDie k 0) && !s.chipUp (stackDie k 1)

/-- What becomes of an access that reaches an address now: it is performed, held at Headland (R200, R243), or answered
as a poisoned line (R367). -/
inductive Gate where
  | go | hold | dead
deriving DecidableEq, Repr
/-- A line that a chiplet holds in M, O or E while its link is not up: it is answered once isolation has poisoned or
dropped it (R366, R367). -/
def State.stuck (s : State) (a : Nat) : Bool := (tblGet? s.owned (a / 128)).any fun o => !s.chipUp o.chip
/-- The gate of an address: a stack is reached through an open port, and the port of a die that does not answer is
closed (R248, R367). -/
def State.gate (s : State) (a : Nat) : Gate :=
  match regionOf a with
  | .stack k _ =>
    if s.stackDead k then .dead
    else if !s.stuck a && (s.stack k).st = .held && s.chipUp (s.stackOwner k) then .go else .hold
  | _ => if s.stuck a then .hold else .go

/-- The gate of an access by a Sower die: a line that its L2 holds, with ownership for a write, is not asked for at Headland
(R200, R246). -/
def State.gateAt (s : State) (chip : Nat) (write : Bool) (a : Nat) : Gate :=
  match s.gate a with
  | .hold =>
    let own := match tblGet? s.owned (a / 128) with
      | some o => o.chip = chip && (o.excl || !write)
      | none => false
    if own || (!write && (tblGet s.sharers (a / 128) 0).getLsbD chip) then .go else .hold
  | g => g

/-- The gate of a request that a die made under a stamp: what the owner die of a stack made before step 1 of its drain still
completes (R246 steps 1 and 2). -/
def State.gateFor (s : State) (chip seq : Nat) (write : Bool) (a : Nat) : Gate :=
  match regionOf a with
  | .stack k _ =>
    let t := s.stack k
    if t.st = .draining && t.step ≤ 2 && seq < t.since && s.stackOwner k = chip && !s.stuck a then .go else s.gateAt chip write a
  | _ => s.gateAt chip write a

/-- The stack-grant check of drills, copy engines and plot sequencers (R241, R242). -/
def State.grantOk (s : State) (ctx a : Nat) : Bool :=
  match regionOf a with
  | .stack k _ => match (s.stack k).holder with
    | none => true
    | some h => h = ctx
  | _ => true

/-- The byte of a list of cells at an address; an unlisted byte reads 0 (log 3, DESIGN CHOICE). -/
def cellGet (l : List Host.Cell) (a : Nat) : Byte := tblGet l a 0
/-- Writes one byte of a list of cells; a byte of 0 is not listed. -/
def cellSet (l : List Host.Cell) (a : Nat) (b : Byte) : List Host.Cell :=
  match l with
  | [] => if b = 0 then [] else [(a, b)]
  | (x, c) :: r =>
    if a < x then (if b = 0 then (x, c) :: r else (a, b) :: (x, c) :: r)
    else if a = x then (if b = 0 then r else (a, b) :: r)
    else (x, c) :: cellSet r a b

/-- The canonical form of a list of cells: addresses strictly rising, no byte equal to what an unlisted address reads. -/
def cellsWf : List Host.Cell → Bool
  | [] => true
  | (a, b) :: r => b != 0 && (match r with | [] => true | (c, _) :: _ => a < c) && cellsWf r
/-- Home memory has its canonical form. -/
def Memory.wf (s : State) : Bool := cellsWf s.mem

/-- A byte at its home: memory, or the boot ROM. -/
def State.homeByte (s : State) (a : Nat) : Byte :=
  match regionOf a with
  | .rom off => Config.romByte off
  | _ => cellGet s.mem a
/-- Writes bytes at home. -/
def State.writeHome (s : State) (ws : List (Nat × Byte)) : State :=
  { s with mem := ws.foldl (fun m w => cellSet m w.1 w.2) s.mem }
/-- A line at its home. -/
def State.homeLine (s : State) (l : Nat) : Line := ofBytes 1024 ((List.range 128).map fun j => s.homeByte (128 * l + j))
/-- Writes a whole line at home. -/
def State.writeHomeLine (s : State) (l : Nat) (d : Line) : State :=
  s.writeHome ((List.range 128).map fun j => (128 * l + j, lineByte d j))

/-- The latest write to a byte in package order (R191): the copy of a cache that holds the line, else its home. -/
def State.byteAt (s : State) (a : Nat) : Byte :=
  match tblGet? s.owned (a / 128) with
  | some o => lineByte o.data (a % 128)
  | none => s.homeByte a
/-- n bytes from an address on. -/
def State.bytesAt (s : State) (a n : Nat) : List Byte := (List.range n).map fun j => s.byteAt (a + j)
/-- A line as a coherent reader finds it. -/
def State.lineAt (s : State) (l : Nat) : Line :=
  match tblGet? s.owned l with
  | some o => o.data
  | none => s.homeLine l

/-- The grants that a request of `chip` to a line revokes are gone (R154). -/
def State.revoke (s : State) (chip l : Nat) : State :=
  { s with grants := s.grants.filter fun g => g.2 ≠ l / 32 || g.1 = chip }

/-- The stash entries of a line become INVALID on every die but `chip`, whose L2 keeps its copy (R178). -/
def State.stashLose (s : State) (chip l : Nat) : State :=
  { s with groups := tblMap s.groups fun _ (g : Group) =>
      if 4 + g.die = chip then g
      else { g with stash := tblMap g.stash fun _ (t : Stash) => { t with entries := t.entries.filter fun e => e.2.1 ≠ l } } }

/-- The stash entries of a line become INVALID on one die, whose L2 gives the line up (R178). -/
def State.stashDrop (s : State) (chip l : Nat) : State :=
  { s with groups := tblMap s.groups fun _ (g : Group) =>
      if 4 + g.die ≠ chip then g
      else { g with stash := tblMap g.stash fun _ (t : Stash) => { t with entries := t.entries.filter fun e => e.2.1 ≠ l } } }
/-- `chip` takes a line with ownership: every other copy is dropped (R15). -/
def State.ownLine (s : State) (chip l : Nat) : State :=
  match tblGet? s.owned l with
  | some o =>
    if o.chip = chip && o.excl then s
    else { (s.revoke chip l).stashLose chip l with
           owned := tblSet s.owned l { chip := chip, excl := true, dirty := o.dirty, data := o.data }
           sharers := tblErase s.sharers l }
  | none => { (s.revoke chip l).stashLose chip l with
              owned := tblSet s.owned l { chip := chip, excl := true, dirty := false, data := s.homeLine l }
              sharers := tblErase s.sharers l }

/-- `chip` takes a shared copy of a line: M becomes O, E becomes S (R15). -/
def State.shareLine (s : State) (chip l : Nat) : State :=
  let add (s : State) := { s with sharers := tblSet s.sharers l (tblGet s.sharers l 0 ||| (1#16 <<< chip)) }
  match tblGet? s.owned l with
  | some o =>
    if o.chip = chip then s
    else if o.dirty then add { s.revoke chip l with owned := tblSet s.owned l { o with excl := false } }
    else if o.excl then
      { add { s.revoke chip l with owned := tblErase s.owned l } with
        sharers := tblSet s.sharers l (tblGet s.sharers l 0 ||| (1#16 <<< chip) ||| (1#16 <<< o.chip)) }
    else add s
  | none =>
    if tblGet s.sharers l 0 = 0 then
      { s.revoke chip l with owned := tblSet s.owned l { chip := chip, excl := true, dirty := false, data := s.homeLine l } }
    else add (s.revoke chip l)

/-- A modified copy of a line is written to its home and stays cached clean (R169). -/
def State.cleanLine (s : State) (l : Nat) : State :=
  match tblGet? s.owned l with
  | some o => if o.dirty then { s.writeHomeLine l o.data with owned := tblSet s.owned l { o with dirty := false } } else s
  | none => s
/-- Every cached copy of a line is dropped, without a write-back. -/
def State.dropLine (s : State) (l : Nat) : State :=
  { s.stashLose 0 l with owned := tblErase s.owned l, sharers := tblErase s.sharers l }
/-- A modified copy is written back and every copy is dropped. -/
def State.flushLine (s : State) (l : Nat) : State := (s.cleanLine l).dropLine l

/-- One byte of a line that `chip` owns is written. -/
def State.writeOwned (s : State) (chip a : Nat) (b : Byte) : State :=
  let s := s.ownLine chip (a / 128)
  { s with owned := tblMod s.owned (a / 128) fun o => { o with dirty := true, data := lineSet o.data (a % 128) b } }
/-- The line can take no write: neither neighbour of its stack can open a port (R367). -/
def State.deaf (s : State) (a : Nat) : Bool := s.gate a = .dead
/-- A coherent write by a chiplet with a cache (Sower L2, Coulter): each byte takes its place in package order. -/
def State.cohWrite (s : State) (chip : Nat) (ws : List (Nat × Byte)) : State :=
  ws.foldl (fun s w => if s.deaf w.1 then s else s.writeOwned chip w.1 w.2) s
/-- An I/O-coherent write (R15): other copies are written back and dropped, the bytes go to their home. -/
def State.ioWrite (s : State) (ws : List (Nat × Byte)) : State :=
  ws.foldl (fun s w => if s.deaf w.1 then s else ((s.flushLine (w.1 / 128)).revoke 16 (w.1 / 128)).writeHome [w]) s
/-- Bytes at consecutive addresses. -/
def runOf (a : Nat) (bs : List Byte) : List (Nat × Byte) := bs.mapIdx fun j b => (a + j, b)

/-- A line is poisoned at home, or its stack has no port (R201, R367). -/
def State.poisoned (s : State) (a : Nat) : Bool := s.poison.contains (a / 128) || s.deaf a
/-- Poisons a line at home (R201); no copy of it stays cached. -/
def State.poisonLine (s : State) (l : Nat) : State := { s.dropLine l with poison := setAdd s.poison l }
/-- A write of a whole line in one operation clears its poison (R201). -/
def State.unpoison (s : State) (l : Nat) : State := { s with poison := s.poison.filter (· ≠ l) }

/-- The key of a core: its Sower die and number. -/
def coreKey (die core : Nat) : Nat := die * 128 + core
/-- The Sower die of a core. -/
def coreDie (c : Nat) : Nat := c / 128
/-- The chiplet of a core (R9). -/
def coreChip (c : Nat) : Nat := 4 + c / 128
/-- A core's record; one that nothing has changed is empty. -/
def State.core (s : State) (c : Nat) : Core := tblGet s.cores c { clk := s.clkIdle - tblGet s.clkOff (c / 128) 0 }
/-- Changes a core's record. -/
def State.setCore (s : State) (c : Nat) (x : Core) : State := { s with cores := tblSet s.cores c x }

/-- A byte as a drill of the core loads it: the L1D copy, else the latest write in package order (R191). -/
def State.loadByte (s : State) (c a : Nat) : Byte :=
  match tblGet? (s.core c).l1d (a / 128) with
  | some l => lineByte l (a % 128)
  | none => s.byteAt a
/-- The lines that stay in an L1D of 1,024 lines (R67) when another comes: a free choice names the place of the one that
leaves, or none while there is room (log 91, DESIGN CHOICE). -/
def l1Keep (t : Nat) (l : Tbl Line) : Tbl Line :=
  let j := Config.freeNat t 0 % (l.length + 1)
  if j = l.length ∧ l.length < 1024 then l else l.eraseIdx (j % l.length)
/-- A load that missed fills the L1D and takes a shared copy into the L2 (R67, R151, R153). -/
def State.fillL1 (s : State) (c l : Nat) : State :=
  match tblGet? (s.core c).l1d l with
  | some _ => s
  | none =>
    let s := s.shareLine (coreChip c) l
    { s.setCore c { s.core c with l1d := tblSet (l1Keep s.tick (s.core c).l1d) l (s.lineAt l) } with tick := s.tick + 1 }
/-- Drops a line of the L1D. -/
def State.dropL1 (s : State) (c l : Nat) : State := s.setCore c { s.core c with l1d := tblErase (s.core c).l1d l }
/-- An acquire at CRF or wider invalidates the whole L1D (R153). -/
def State.invalL1 (s : State) (c : Nat) : State := s.setCore c { s.core c with l1d := [] }
/-- Bytes reach the L1D lines of a core that are present. -/
def State.putL1 (s : State) (c : Nat) (ws : List (Nat × Byte)) : State :=
  let put (t : Tbl Line) (w : Nat × Byte) := tblMod t (w.1 / 128) fun l => lineSet l (w.1 % 128) w.2
  s.setCore c { s.core c with l1d := ws.foldl put (s.core c).l1d }
/-- A drill's store reaches the L1D line, if present, and the L2 (R153). -/
def State.storeBytes (s : State) (c : Nat) (ws : List (Nat × Byte)) : State := (s.cohWrite (coreChip c) ws).putL1 c ws

/-- A byte of a core's local store. -/
def State.lsByte (s : State) (c a : Nat) : Byte := cellGet (s.core c).ls a
/-- Writes bytes of a core's local store. -/
def State.lsWrite (s : State) (c : Nat) (ws : List (Nat × Byte)) : State :=
  s.setCore c { s.core c with
    ls := ws.foldl (fun m w => cellSet m w.1 w.2) (s.core c).ls
    lsPoison := (s.core c).lsPoison.filter fun p => !(ws.any fun w => w.1 = p) }

/-- The context that last held a byte of a core's local store (R155). -/
def State.lsHolder (s : State) (c a : Nat) : Option Nat :=
  ((s.core c).lsHeld.find? fun h => h.1 ≤ a && a < h.1 + h.2.1).map (·.2.2)
/-- A region passes to a group of a context: bytes that another context held last become zero, and a byte that is written so
loses its mark (R155, R259, R381). -/
def State.lsTake (s : State) (c base size ctx : Nat) : State :=
  let keep (a : Nat) : Bool := !(base ≤ a && a < base + size) || s.lsHolder c a = some ctx
  s.setCore c { s.core c with
    ls := (s.core c).ls.filter fun p => keep p.1
    lsPoison := (s.core c).lsPoison.filter keep
    lsHeld := (base, size, ctx) :: (s.core c).lsHeld }
/-- The number under which storage stands whose context is FREE again: no context has it, so that a new context of the same
number is another context (R155, R209). -/
def goneCtx : Nat := 4096
/-- A context's number becomes FREE: what its groups held last belongs to no context that exists (R155). -/
def State.lsForget (s : State) (ctx : Nat) : State :=
  { s with cores := tblMap s.cores fun _ (c : Core) =>
      { c with lsHeld := c.lsHeld.map fun h => if h.2.2 = ctx then (h.1, h.2.1, goneCtx) else h } }

/-- An MSI write to an interrupt file: the identity becomes pending (R313). An MSI to a file of a chiplet that does not
answer is dropped (R367). With `boss`, the MSI is hart 0's, and a hart that waits for one starts (R383). Guest pages of Reeve harts
and the management hart drop writes (R313). -/
def State.msiFor (s : State) (boss : Bool) (addr : DWord) (data : Nat) : State :=
  if addr = 0 then s
  else match regionOf addr.toNat with
  | .imsic off => match imsicFile off with
    | some (h, f) =>
      if addr.toNat % 0x1000 ≠ 0 || !s.chipUp (hartChip h) || (f ≥ 2 && h ≥ 64) || data = 0 || data ≥ 256 then s
      else
        let key := h * 16 + f
        let x := tblGet s.imsics key {}
        { s with
          imsics := tblSet s.imsics key { x with pending := x.pending ||| (1#256 <<< data) }
          harts := tblMod s.harts h fun (y : Hart) => if boss && y.wait = .waiting then { y with wait := .running } else y }
    | none => s
  | _ => s
/-- An MSI of the device itself. -/
def State.msi (s : State) (addr : DWord) (data : Nat) : State := s.msiFor false addr data

end Sys2Proof.Machine
end

