-- ==== Sys2Proof/Machine/Translate.lean ====
section
/-!
DEFINITION. Sv57 translation as the device makes it (R341-R346) and as harts make it (R341, R342), and the cached
translations (R344-R349).
-/
namespace Sys2Proof.Machine

/-- What an access needs (R343); a prefetch sets neither A nor D. -/
structure Access where
  r : Bool := false
  w : Bool := false
  x : Bool := false
  prefetch : Bool := false
deriving DecidableEq, Repr

/-- Why a translation failed (R353): CAUSE, level, PIN of the leaf found. CAUSE 0 is no failure: the walk waits for a stack that
is changing hands (R200). -/
structure XlateFail where
  cause : Nat
  level : Nat
  pin : Bool := false
  /-- For a guest's walk: the guest address of the table entry that does not translate, with CAUSE 7. -/
  entry : Nat := 0
deriving DecidableEq, Repr

/-- A virtual address in range: bits 63:57 equal bit 56 (R342). -/
def vaInRange (va : DWord) : Bool := va.extractLsb' 57 7 = (if va.getLsbD 56 then 0x7F#7 else 0#7)

/-- The size of the page that a leaf maps at a level (R342). -/
def pageSize (level : Nat) (n : Bool) : Nat := if n then 0x10000 else 4096 * 512 ^ level

/-- A leaf that R341 or R342 calls malformed; `device` walks refuse more. -/
def leafMalformed (device : Bool) (pte : DWord) (level : Nat) : Bool :=
  let n := pte.getLsbD 63
  let ppn := field pte 10 44
  field pte 54 3 ≠ 0 || (pte.getLsbD 2 && !pte.getLsbD 1) || (device && (level = 4 || field pte 57 2 = 3)) ||
  (n && (level ≠ 0 || ppn % 16 ≠ 8)) || (ppn % 512 ^ level ≠ 0)

/-- The walk from a table of a level down (R341): the leaf, its level and where it stands. `at_` maps the address of a
table entry to the physical address it is read from. A table in a stack that is changing hands is not read: the walk waits,
which is the answer with CAUSE 0 (R12, R200). G of a pointer makes every mapping below it global, which the leaf that is
answered shows. -/
def walkFrom (s : State) (device : Bool) (at_ : Nat → Option Nat) (va : DWord) : Nat → Nat → Except XlateFail (DWord × Nat × Nat)
  | level, base =>
    let read : Except XlateFail (DWord × Nat) :=
      let entry := base + 8 * field va (12 + 9 * level) 9
      match at_ entry with
      | none => .error { cause := 7, level := level, entry := entry }
      | some a =>
        if !s.backed a then .error { cause := 6, level := level }
        else if s.gate a = .hold then .error { cause := 0, level := level }
        else if s.poisoned a then .error { cause := 6, level := level }
        else .ok (ofBytes 64 (s.bytesAt a 8), a)
    match read with
    | .error e => .error e
    | .ok (pte, a) =>
      if !pte.getLsbD 0 then .error { cause := 1, level := level }
      else if pte.getLsbD 1 || pte.getLsbD 2 || pte.getLsbD 3 then
        if leafMalformed device pte level then .error { cause := 3, level := level, pin := pte.getLsbD 59 }
        else .ok (pte, level, a)
      else if field pte 54 10 ≠ 0 || field pte 4 1 ≠ 0 || field pte 6 2 ≠ 0 then .error { cause := 3, level := level }
      else match level with
        | 0 => .error { cause := 3, level := 0 }
        | l + 1 => (walkFrom s device at_ va l (field pte 10 44 * 4096)).map fun r => (r.1 ||| (pte &&& 0x20), r.2)

/-- The tables that a walk reads below a table of a level: level, address, and whether a pointer on the way was global. -/
def walkTables (s : State) (va : DWord) (global : Bool) : Nat → Nat → List (Nat × Nat × Bool)
  | 0, _ => []
  | l + 1, base =>
    let pte : DWord := ofBytes 64 (s.bytesAt (base + 8 * field va (12 + 9 * (l + 1)) 9) 8)
    if !pte.getLsbD 0 || pte.getLsbD 1 || pte.getLsbD 2 || pte.getLsbD 3 then []
    else
      let g := global || pte.getLsbD 5
      (l, field pte 10 44 * 4096, g) :: walkTables s va g l (field pte 10 44 * 4096)

/-- The chiplet of a translation cache, by the cache's number: a die's own under the chiplet's number, a copy engine's from 16
on, a plot sequencer's from 256 on (R345). -/
def tlbChip (key : Nat) : Nat := if key < 16 then key else if key < 256 then (key - 16) / 4 else 8 + (key - 256) / 16
/-- The cache of a copy engine of a die, and of the sequencer of a plot (R345). -/
def engineTlb (chip e : Nat) : Nat := 16 + 4 * chip + e
def plotTlb (p : Nat) : Nat := 256 + p

/-- The cached translation that a leaf gives (R345, R346). -/
def entryOf (s : State) (key : Nat) (asid : BitVec 16) (va pte : DWord) (level : Nat) : TlbEntry :=
  let size := pageSize level (pte.getLsbD 63)
  let pa := field pte 10 44 * 4096 / size * size
  let path := match regionOf pa with
    | .stack k _ => key < 16 && s.stackOwner k = key
    | _ => false
  { asid := asid, global := pte.getLsbD 5, va := va.toNat / size * size, pa := pa, size := size, level := level,
    perms := pte.setWidth 8, pin := pte.getLsbD 59, rep := pte.getLsbD 60, ph := field pte 57 2, path := path }

/-- An entry that serves an address of an ASID (R344). -/
def TlbEntry.serves (e : TlbEntry) (asid : BitVec 16) (va : DWord) : Bool :=
  (e.global || e.asid = asid) && e.va ≤ va.toNat && va.toNat < e.va + e.size
/-- A walk-cache entry on the path to an address of an ASID (R345). -/
def WalkEntry.serves (e : WalkEntry) (asid : BitVec 16) (va : DWord) : Bool :=
  (e.global || e.asid = asid) && e.va ≤ va.toNat && va.toNat < e.va + e.size
/-- The walk-cache entries that a walk of an address leaves (R345). -/
def walkEntries (asid : BitVec 16) (va : DWord) (l : List (Nat × Nat × Bool)) : List WalkEntry :=
  l.map fun q =>
    let size := 4096 * 512 ^ (q.1 + 1)
    { asid := asid, global := q.2.2, va := va.toNat / size * size, size := size, level := q.1, base := q.2.1 }

/-- The bits that an access needs, of a leaf (R343). -/
def permsOk (p : BitVec 8) (acc : Access) : Bool :=
  p.getLsbD 0 && p.getLsbD 4 && (!acc.r || p.getLsbD 1) && (!acc.w || p.getLsbD 2) && (!acc.x || p.getLsbD 3)

/-- The physical address that an entry gives: on Sower n a fetch from a REP leaf reads the copy of its die (R335, R346). -/
def entryPa (e : TlbEntry) (chip : Nat) (acc : Access) (va : DWord) : Nat :=
  e.pa + (va.toNat - e.va) + (if e.rep && acc.x then (chip - 4) * 0x2000000000 else 0)

/-- A REP leaf outside stack 0's window, when it is fetched (R335). -/
def repBad (e : TlbEntry) (acc : Access) : Bool :=
  e.rep && acc.x && (match regionOf e.pa with | .stack 0 _ => false | _ => true)

/-- Sets A, and D for a write, in the entry at `a`; the other bits of the entry stay (R343). -/
def State.touchLeaf (s : State) (a : Nat) (pte : DWord) (acc : Access) : State :=
  let set : DWord := 0x40 ||| (if acc.w then 0x80 else 0)
  if acc.prefetch || pte &&& set = set then s
  else s.ioWrite (runOf a (toBytes ((ofBytes 64 (s.bytesAt a 8) : DWord) ||| set) 8))

/-- Where a device walk starts: at the root, or at a table of the walk cache, by a free choice for each entry on the path
(R345, log 6, DEDUCED): level, table, and whether mappings below are global. -/
def State.walkStart (s : State) (key : Nat) (c : Context) (va : DWord) : Nat × Nat × Bool :=
  let hits := (tblGet s.walks key []).filter (·.serves c.asid va)
  match (hits.zipIdx.find? fun p => Config.freeBool s.tick p.2).map (·.1) with
  | some e => (e.level, e.base, e.global)
  | none => (4, field c.satp 0 44 * 4096, false)

/-- A device walk (R341-R343): the entry to cache, with memory after A and D were set. An update of A or D in a stack that is
changing hands waits (R200). -/
def State.walk (s : State) (key : Nat) (c : Context) (va : DWord) (acc : Access) (from_ : Nat × Nat × Bool) :
    Except XlateFail (TlbEntry × State) :=
  if !vaInRange va then .error { cause := 4, level := 4 }
  else match walkFrom s true some va from_.1 from_.2.1 with
    | .error e => .error e
    | .ok (pte, level, a) =>
      let e := entryOf s key c.asid va (if from_.2.2 then pte ||| 0x20 else pte) level
      if !permsOk e.perms acc then .error { cause := 2, level := level, pin := e.pin }
      else if repBad e acc then .error { cause := 5, level := level, pin := e.pin }
      else
        let s' := s.touchLeaf a pte acc
        let e := if acc.prefetch then e else { e with perms := e.perms ||| 0x40 ||| (if acc.w then 0x80 else 0) }
        .ok (e, s')

/-- Translation of one address by a cache (R344, R345): a cached entry that serves it decides; without one, or where A or D is
still to be set, the tables do, and the entry and the tables on its way are cached. -/
def State.translate (s : State) (key : Nat) (c : Context) (va : DWord) (acc : Access) : Except XlateFail (Nat × State) :=
  if !vaInRange va then .error { cause := 4, level := 4 }
  else
    let fromTables : Except XlateFail (Nat × State) :=
      let start := s.walkStart key c va
      match s.walk key c va acc start with
      | .error e => .error e
      | .ok (e, s') =>
        let old := (tblGet s'.tlb key []).filter fun x => !(x.asid = e.asid && x.va = e.va)
        let new := walkEntries c.asid va (walkTables s va start.2.2 start.1 start.2.1)
        let kept := (tblGet s'.walks key []).filter fun x => !new.any fun y => y.asid = x.asid && y.va = x.va && y.size = x.size
        .ok (entryPa e (tlbChip key) acc va,
          { s' with tlb := tblSet s'.tlb key (e :: old), walks := tblSet s'.walks key (new ++ kept), tick := s'.tick + 1 })
    match (tblGet s.tlb key []).find? (·.serves c.asid va) with
    | some e =>
      if !permsOk e.perms acc then .error { cause := 2, level := e.level, pin := e.pin }
      else if repBad e acc then .error { cause := 5, level := e.level, pin := e.pin }
      else if acc.prefetch || (e.perms.getLsbD 6 && (!acc.w || e.perms.getLsbD 7)) then .ok (entryPa e (tlbChip key) acc va, s)
      else fromTables
    | none => fromTables

/-- Drops the cached translations of every cache of a chiplet that satisfy `p`, and walk-cache entries that satisfy `q`. -/
def State.dropTlb (s : State) (chip : Nat) (p : TlbEntry → Bool) (q : WalkEntry → Bool) : State :=
  { s with tlb := tblMap s.tlb fun key l => if tlbChip key = chip then l.filter (fun e => !p e) else l
           walks := tblMap s.walks fun key l => if tlbChip key = chip then l.filter (fun e => !q e) else l }
/-- Drops translations in every cache that a shootdown covers (R349). -/
def State.dropTlbs (s : State) (p : TlbEntry → Bool) (q : WalkEntry → Bool) : State :=
  { s with tlb := tblMap s.tlb fun _ l => l.filter fun e => !p e, walks := tblMap s.walks fun _ l => l.filter fun e => !q e }

/-- What a hart's access needs: to fetch, to load, to store, or to load what it could fetch (HLVX). -/
inductive HartAcc where
  | fetch | load | store | loadX
deriving DecidableEq, Repr
/-- Exception codes of an access fault, a page fault and a guest page fault by kind of access. -/
def HartAcc.access : HartAcc → Nat
  | .fetch => 1 | .load | .loadX => 5 | .store => 7
def HartAcc.page : HartAcc → Nat
  | .fetch => 12 | .load | .loadX => 13 | .store => 15
def HartAcc.guest : HartAcc → Nat
  | .fetch => 20 | .load | .loadX => 21 | .store => 23
/-- What stops a hart's access: an exception with a guest's physical address, or a table in a stack that is changing hands
(R200). -/
inductive HartMiss where
  | fault (cause : Nat) (gpa : DWord) | held
deriving DecidableEq, Repr
/-- A bit of a register that the hart's table of CSRs holds. -/
def Hart.csrBit (h : Hart) (n b : Nat) : Bool := (tblGet h.csr n 0).getLsbD b
/-- A leaf allows an access of a mode (log 12, PRESUMED): A and D are not set by harts but fault (Svade). -/
def leafAllows (acc : HartAcc) (user sum mxr : Bool) (pte : DWord) : Bool :=
  let u := pte.getLsbD 4
  (match acc with
    | .fetch | .loadX => pte.getLsbD 3
    | .load => pte.getLsbD 1 || (mxr && pte.getLsbD 3)
    | .store => pte.getLsbD 2) &&
  pte.getLsbD 6 && (acc ≠ .store || pte.getLsbD 7) && (if user then u else !u || (sum && acc ≠ .fetch))
/-- One stage of a hart's translation (log 12, PRESUMED): Sv39, Sv48 or Sv57 by the root's MODE, with two more address bits at the
second stage. -/
def hartStage (s : State) (acc : HartAcc) (root : DWord) (guest : Bool) (at_ : Nat → Except HartMiss Nat) (user sum mxr : Bool)
    (fault : HartMiss) (a : DWord) : Except HartMiss Nat :=
  let mode := field root 60 4
  if mode < 8 || 10 < mode then .ok a.toNat
  else
    let level := mode - 6
    let bits := 12 + 9 * (level + 1)
    let ok := if guest then a.toNat < 2 ^ (bits + 2) else a.toInt < 2 ^ (bits - 1) && -(2 ^ (bits - 1)) ≤ a.toInt
    let base := field root 0 44 * 4096 + (if guest then 4096 * field a bits 2 else 0)
    if !ok then .error fault
    else match walkFrom s false (fun e => (at_ e).toOption) a level base with
      | .error e =>
        if e.cause = 0 then .error .held
        else if e.cause = 6 then .error (.fault acc.access 0)
        else if e.cause = 7 then (match at_ e.entry with
          | .error m => .error m
          | .ok _ => .error fault)
        else .error fault
      | .ok (pte, level, _) =>
        let size := pageSize level (pte.getLsbD 63)
        if leafAllows acc user sum mxr pte then .ok (field pte 10 44 * 4096 / size * size + a.toNat % size) else .error fault
/-- What a hart's translation meets in its mode: an exception code of the RISC-V privileged specification, a wait, or a physical
address (log 12, PRESUMED). -/
def hartXlate (s : State) (h : Hart) (acc : HartAcc) (va : DWord) : Except HartMiss Nat :=
  let page : HartMiss := .fault acc.page 0
  let mxr := h.csrBit 0x300 19
  match h.mode with
  | .m => .ok va.toNat
  | .hs => hartStage s acc h.satp false .ok false h.sum mxr page va
  | .u => hartStage s acc h.satp false .ok true false mxr page va
  | .vs | .vu =>
    let second (acc : HartAcc) (a : Nat) : Except HartMiss Nat :=
      let a := BitVec.ofNat 64 a
      hartStage s acc h.hgatp true .ok true false mxr (.fault acc.guest a) a
    let table (a : Nat) : Except HartMiss Nat := match second .load a with
      | .error (.fault c g) => .error (.fault (if c = 21 then acc.guest else acc.access) g)
      | r => r
    match hartStage s acc h.vsatp false table (h.mode = .vu) (h.csrBit 0x200 18) (mxr || h.csrBit 0x200 19) page va with
    | .error e => .error e
    | .ok a => second acc a

end Sys2Proof.Machine
end

