-- ==== Sys2Proof/Machine/Drills.lean ====
section
/-!
DEFINITION. Drills and groups as records of the state; register storage (R91, R292); lanes of a group (R93); the token
counters (R80-R82); the scoreboard (R77); landings (R74) and the writes of SWR (R299, R301).
-/
namespace Sys2Proof.Machine

/-- The drill at a position: its core's key times 64, plus the position (R68). -/
def State.drill? (s : State) (k : Nat) : Option Drill := tblGet? s.drills k
/-- Puts a drill's record in place. -/
def State.setDrill (s : State) (k : Nat) (d : Drill) : State := { s with drills := tblSet s.drills k d }
/-- Changes a drill's record where there is one. -/
def State.modDrill (s : State) (k : Nat) (f : Drill → Drill) : State := { s with drills := tblMod s.drills k f }
/-- A group's record. -/
def State.group? (s : State) (g : Nat) : Option Group := tblGet? s.groups g
/-- Puts a group's record in place. -/
def State.setGroup (s : State) (g : Nat) (x : Group) : State := { s with groups := tblSet s.groups g x }
/-- Changes a group's record where there is one. -/
def State.modGroup (s : State) (g : Nat) (f : Group → Group) : State := { s with groups := tblMod s.groups g f }
/-- A context that is not FREE. -/
def State.ctx? (s : State) (n : Nat) : Option Context := tblGet? s.ctxs n
/-- Changes a context's record where there is one. -/
def State.modCtx (s : State) (n : Nat) (f : Context → Context) : State := { s with ctxs := tblMod s.ctxs n f }
/-- The core, position and chiplet of a drill key. -/
def drillCore (k : Nat) : Nat := k / 64
def drillPos (k : Nat) : Nat := k % 64
def drillChip (k : Nat) : Nat := coreChip (k / 64)
/-- The drill keys of a group, by drill index. -/
def Group.drillKeys (g : Group) : List Nat := g.pos.map fun p => coreKey g.die g.core * 64 + p
/-- A new stamp. -/
def State.stamp (s : State) : Nat × State := (s.seq, { s with seq := s.seq + 1 })
/-- A new argument for a free value. -/
def State.free (s : State) : Nat × State := (s.tick, { s with tick := s.tick + 1 })

/-- A rail that supplies the Sower cores is in transition, which holds issue (R70, R373, R374). -/
def State.held (s : State) : Bool := s.railBusy.contains 1 || s.railBusy.contains 2
/-- A rail that supplies the Acre dies is in transition, which holds the plot sequencers (R373, R374). -/
def State.seqHeld (s : State) : Bool := s.railBusy.contains 0 || s.railBusy.contains 2

/-- Storage of the register named v(n) (R292). -/
def vStore (system : Bool) (n : Nat) : Nat := if system && n ≥ 252 then n + 4 else n
/-- Storage of the register named s(n) (R292). -/
def sStore (system : Bool) (n : Nat) : Nat := if system && n ≥ 56 then n + 16 else n
/-- The contents of a vector register's storage. -/
def Drill.vAt (d : Drill) (r : Nat) : Lanes := tblGet d.v r (splat 0)
/-- The contents of a uniform register's storage. -/
def Drill.sAt (d : Drill) (r : Nat) : Word := tblGet d.s r 0
/-- A predicate; k0 reads true (R27). -/
def Drill.kAt (d : Drill) (n : Nat) : Mask := if n = 0 then 0xFFFFFFFF else tblGet d.k n 0
/-- The contents of a bypass latch (R76). -/
def Drill.latch (d : Drill) (n : Nat) : Lanes := tblGet d.latches n (splat 0)
/-- FLG of a lane (R60). -/
def Drill.flgAt (d : Drill) (i : Nat) : BitVec 5 := tblGet d.flg i 0
/-- A tile; one that nothing has written is unconfigured (R143). -/
def Drill.tile (d : Drill) (n : Nat) : Tile := tblGet d.tiles n {}

/-- Writes the lanes of a mask of a vector register. -/
def Drill.putV (d : Drill) (r : Nat) (m : Mask) (x : Lanes) : Drill := { d with v := tblSet d.v r (merge m x (d.vAt r)) }
/-- Writes consecutive vector registers. -/
def Drill.putVs (d : Drill) (r : Nat) (m : Mask) (xs : List Lanes) : Drill :=
  match xs with
  | [] => d
  | x :: r' => (d.putV r m x).putVs (r + 1) m r'
/-- Writes a uniform register. -/
def Drill.putS (d : Drill) (r : Nat) (x : Word) : Drill := { d with s := tblSet d.s r x }
/-- Writes the lanes of a mask of a predicate; a write to k0 is discarded (R28). -/
def Drill.putK (d : Drill) (n : Nat) (m x : Mask) : Drill :=
  if n = 0 then d else { d with k := tblSet d.k n ((x &&& m) ||| (d.kAt n &&& ~~~m)) }
/-- Writes the lanes of a mask of a latch. -/
def Drill.putLatch (d : Drill) (n : Nat) (m : Mask) (x : Lanes) : Drill :=
  { d with latches := tblSet d.latches n (merge m x (d.latch n)) }
/-- ORs flags into FLG (R62). -/
def Drill.orFlags (d : Drill) (fl : List (Nat × BitVec 5)) : Drill :=
  { d with flg := fl.foldl (fun t p => tblSet t p.1 (tblGet t p.1 0 ||| p.2)) d.flg }

/-- Lanes of a drill that belong to a group of g lanes (R258). -/
def realLanes (g idx : Nat) : Mask := maskOf fun i => 32 * idx + i < g
/-- Lanes present in a drill, helper lanes included (R93). -/
def presentLanes (g idx : Nat) : Mask := maskOf fun i => 32 * idx + i < (g + 3) / 4 * 4
/-- A mask without helper lanes. -/
def Drill.counting (d : Drill) (g : Group) (m : Mask) : Mask := m &&& realLanes g.g d.idx

/-- Token counters by their place in TOKCNT (R83), a station's two waits and two signals (R80): wait prev, wait next, signal prev, signal next. -/
def tokenPorts (station : Nat) : Nat × Nat × Nat × Nat :=
  match station with
  | 0 => (6, 1, 7, 0)
  | 1 => (0, 3, 1, 2)
  | 2 => (2, 5, 3, 4)
  | _ => (4, 7, 5, 6)
/-- A token counter. -/
def tokenAt (tok : BitVec 32) (i : Nat) : Nat := field tok (4 * i) 4
/-- Whether the waits of a TK0 field can be taken: WP is bit 3, WN bit 2 (R25, R81). -/
def tokensReady (tok : BitVec 32) (station : Nat) (tk : BitVec 4) : Bool :=
  let p := tokenPorts station
  (!tk.getLsbD 3 || tokenAt tok p.1 ≠ 0) && (!tk.getLsbD 2 || tokenAt tok p.2.1 ≠ 0)
/-- Takes the tokens that a TK0 field waits for. -/
def takeTokens (tok : BitVec 32) (station : Nat) (tk : BitVec 4) : BitVec 32 :=
  let p := tokenPorts station
  let dec (t : BitVec 32) (i : Nat) := putField t (4 * i) 4 (tokenAt t i - 1)
  let t := if tk.getLsbD 3 then dec tok p.1 else tok
  if tk.getLsbD 2 then dec t p.2.1 else t
/-- Sends the signals of a TK field: SP is bit 1, SN bit 0. A counter at 15 stays there; the flag tells of it (R82). -/
def signalTokens (tok : BitVec 32) (station : Nat) (tk : BitVec 4) : BitVec 32 × Bool :=
  let p := tokenPorts station
  let inc (t : BitVec 32 × Bool) (on : Bool) (i : Nat) : BitVec 32 × Bool :=
    if !on then t else if tokenAt t.1 i = 15 then (t.1, true) else (putField t.1 (4 * i) 4 (tokenAt t.1 i + 1), t.2)
  inc (inc (tok, false) (tk.getLsbD 1) p.2.2.1) (tk.getLsbD 0) p.2.2.2

/-- Records a pending A-kind trap of a drill (R297); a code already pending keeps its first record. A drill that is DONE
discards it (R268). -/
def Drill.addTrap (d : Drill) (code sub station : Nat) : Drill :=
  if d.st = .done || d.pendTraps.any (·.code = code) then d
  else { d with pendTraps := d.pendTraps ++ [{ code := code, sub := sub, station := station }] }
/-- Records a pending A-kind trap at every drill of a group. -/
def State.trapGroup (s : State) (gid code sub station : Nat) : State :=
  match s.group? gid with
  | none => s
  | some g => g.drillKeys.foldl (fun s k => s.modDrill k fun d => if d.gid = gid then d.addTrap code sub station else d) s

/-- A scoreboard slot's count (R77). -/
def Drill.count (d : Drill) (slot : Nat) : Nat := tblGet d.sb slot 0
/-- Adds one to a slot; slot 0 is none. -/
def Drill.setSlot (d : Drill) (slot : Nat) : Drill :=
  if slot = 0 then d else { d with sb := tblSet d.sb slot (d.count slot + 1) }
/-- Subtracts one from a slot. -/
def Drill.clearSlot (d : Drill) (slot : Nat) : Drill :=
  if slot = 0 then d else { d with sb := tblSet d.sb slot (d.count slot - 1) }
/-- The slots named in a wait field that are not clear (R30). -/
def Drill.unclear (d : Drill) (sbw : BitVec 6) : Bool := (List.range 6).any fun j => sbw.getLsbD j && d.count (j + 1) ≠ 0

/-- An instruction of a drill completes: its slot counts down, and TK1 signals at V (R25, R77, R82). -/
def State.complete (s : State) (k slot : Nat) (tk1 : BitVec 4) : State :=
  let s := s.modDrill k (·.clearSlot slot)
  if tk1 = 0 then s
  else match s.drill? k with
  | none => s
  | some d => match s.group? d.gid with
    | none => s
    | some g =>
      let (tok, ovf) := signalTokens g.tok 1 tk1
      let s := s.setGroup d.gid { g with tok := tok }
      if ovf then s.modDrill k fun d => d.addTrap 0x16 0 2 else s

/-- A shape word that configures a tile (R146). -/
def shapeOk (w : Word) : Bool :=
  let rows := field w 0 5
  let cols := field w 8 5
  1 ≤ rows && rows ≤ 16 && 1 ≤ cols && cols ≤ 16 && field w 5 3 = 0 && field w 13 3 = 0 && field w 17 15 = 0

/-- The write of a system register of a drill by SWR as it lands (R299, R301): fields that are reserved keep zero. `system`
tells whether SWR issued in system mode. -/
def Drill.sysWrite (d : Drill) (n : Nat) (system : Bool) (m : Mask) (val : DLanes) : Drill :=
  let w : Word := (lane val 0).setWidth 32
  let half (x : DWord) (high : Bool) : DWord := if high then (w ++ x.setWidth 32 : BitVec 64) else (x.extractLsb' 32 32 ++ w : BitVec 64)
  let aligned (x : DWord) : DWord := x &&& ~~~(7 : BitVec 64)
  if n = 0x000 then { d with flg := (maskLanes m).foldl (fun t i => tblSet t i ((lane val i).setWidth 5)) d.flg }
  else if n = 0x001 then (if field w 0 3 ≥ 5 then d else { d with rmode := w.setWidth 3 })
  else if n = 0x002 then { d with srstate := w }
  else if n = 0x003 then { d with mxbase := w &&& 0xFFFF }
  else if n = 0x004 then { d with mxsl := w }
  else if n = 0x005 then (if system then { d with uiEn := w.getLsbD 0, uiAct := w.getLsbD 1, uiPend := field w 8 8, uiPi := w.getLsbD 16, uiPo := w.getLsbD 17 }
    else { d with uiEn := w.getLsbD 0 })
  else if n = 0x006 then { d with uivec := aligned (half d.uivec false) }
  else if n = 0x007 then { d with uivec := aligned (half d.uivec true) }
  else if n = 0x008 then { d with uiepc := aligned (half d.uiepc false) }
  else if n = 0x009 then { d with uiepc := aligned (half d.uiepc true) }
  else if n = 0x00F then { d with tiles := (List.range 8).foldl (fun t j => tblSet t j { d.tile j with dirty := w.getLsbD j }) d.tiles }
  else if n = 0x020 then { d with xi := aligned (half d.xi false) }
  else if n = 0x021 then { d with xi := half d.xi true }
  else if n = 0x022 then { d with epc := half d.epc false }
  else if n = 0x023 then { d with epc := half d.epc true }
  else if n = 0x024 then { d with tcause := w &&& 0xFFF080FF }
  else if n = 0x025 then { d with tmask := w }
  else if n = 0x026 then { d with tval := half d.tval false }
  else if n = 0x027 then { d with tval := half d.tval true }
  else if 0x010 ≤ n ∧ n < 0x018 then
    { d with tiles := tblSet d.tiles (n - 0x010) { d.tile (n - 0x010) with shape := w &&& 0x00011F1F } }
  else if 0x030 ≤ n ∧ n < 0x038 then d.putS (64 + (n - 0x030)) w
  else d

/-- The write of a system register as it lands: those of the group and of the context (TOKCNT, GSAVE, BUDGET), and those
of the drill. -/
def State.sysWrite (s : State) (k n : Nat) (system : Bool) (m : Mask) (val : DLanes) : State :=
  match s.drill? k with
  | none => s
  | some d =>
    let w : Word := (lane val 0).setWidth 32
    if n = 0x00E then s.modGroup d.gid fun g => { g with tok := w }
    else if n = 0x028 then s.modGroup d.gid fun g => { g with gsave := (g.gsave.extractLsb' 32 32 ++ (w &&& ~~~(0x7FF : BitVec 32)) : BitVec 64) }
    else if n = 0x029 then s.modGroup d.gid fun g => { g with gsave := (w ++ g.gsave.setWidth 32 : BitVec 64) }
    else if n = 0x01A then match s.group? d.gid with
      | none => s
      | some g => s.modCtx g.ctx fun c => { c with budget := c.budget / 2 ^ 32 * 2 ^ 32 + w.toNat }
    else if n = 0x01B then match s.group? d.gid with
      | none => s
      | some g => s.modCtx g.ctx fun c => { c with budget := c.budget % 2 ^ 32 + w.toNat * 2 ^ 32 }
    else s.setDrill k (d.sysWrite n system m val)

/-- The 32-bit values that a landing of n registers writes. -/
def words (n : Nat) (val : DLanes) : List Lanes := if n = 2 then [loHalf val, hiHalf val] else [loHalf val]

/-- The codes of registers by their storage, and of tiles, under which marks of SRAM errors stand (R381): the SRC codes of the
registers that user mode names. -/
def vMark (r : Nat) : Nat := if r < 256 then r else 0x200 + r
def sMark (r : Nat) : Nat := 0x100 + r
def tileMark (t : Nat) : Nat := 0x200 + t
/-- Registers that are written whole are no longer marked by an SRAM error (R381; log 96, DEDUCED). -/
def Drill.unmark (d : Drill) (first n : Nat) : Drill :=
  { d with regPoison := d.regPoison.filter fun c => !(first ≤ c && c < first + n) }
/-- The register write of a landing. -/
def Drill.landReg (d : Drill) (x : Landing) : Drill :=
  match x.into with
  | .vec r n => let d := d.putVs r x.mask (words n x.val); if x.mask = 0xFFFFFFFF then d.unmark (vMark r) n else d
  | .uni r n =>
    if x.mask = 0 then d
    else
      let d := d.unmark (sMark r) n
      if n = 2 then (d.putS r (lane (loHalf x.val) 0)).putS (r + 1) (lane (hiHalf x.val) 0)
      else d.putS r (lane (loHalf x.val) 0)
  | .pred r => d.putK r x.mask (maskOf fun i => (lane x.val i).getLsbD 0)
  | .scale => { d with mxsl := (lane x.val 0).setWidth 32 }
  | .tile t shape clean elems =>
    let old := d.tile t
    let new : Tile := match shape with
      | some w => { shape := w, dirty := !clean, elems := elems.foldl (fun es p => if p.2 = 0 then es else tblSet es p.1 p.2) [] }
      | none => { old with dirty := true
                           elems := elems.foldl (fun es p => if p.2 = 0 then tblErase es p.1 else tblSet es p.1 p.2) old.elems }
    { (if shape.isSome then d.unmark (tileMark t) 1 else d) with tiles := tblSet d.tiles t new }
  | .sys .. | .nothing => d
/-- How many registers a destination covers. -/
def LandTo.count : LandTo → Nat
  | .vec _ n => n
  | .uni _ n => n
  | _ => 1
/-- The latch write of a landing, while the swath of its instruction is open (R74, R76). -/
def Drill.landLatch (d : Drill) (x : Landing) : Drill :=
  match x.latch with
  | none => d
  | some l =>
    if x.swath ≠ d.swath then d
    else if x.into.count = 2 then (d.putLatch l x.mask (loHalf x.val)).putLatch (l + 1) x.mask (hiHalf x.val)
    else d.putLatch l x.mask (loHalf x.val)

/-- Performs one landing of a drill (R74), and the completion of its instruction. -/
def State.landOne (s : State) (k : Nat) (x : Landing) : State :=
  let s := match x.into with
    | .sys n system => s.sysWrite k n system x.mask x.val
    | _ => s.modDrill k fun d => (((if x.noReg then d else d.landReg x).landLatch x).orFlags x.flags)
  s.complete k x.slot x.tk1

/-- A write of FLG by SWR; flag updates of the same count are ORed into it (R62). -/
def isFlagWrite (x : Landing) : Bool := match x.into with | .sys 0 _ => true | _ => false

/-- The landing count of a drill advances by one, and what is due lands, in issue order (R74). -/
def State.advance (s : State) (k : Nat) : State :=
  match s.drill? k with
  | none => s
  | some d =>
    let n := d.n + 1
    let due := d.landings.filter fun x => decide (x.due ≤ n)
    let s := s.setDrill k { d with n := n, landings := d.landings.filter fun x => decide (n < x.due) }
    let first := due.filter isFlagWrite
    let rest := due.filter fun x => !isFlagWrite x
    (first ++ rest).foldl (fun s x => s.landOne k x) s

/-- Lands everything that is pending, in order of landing counts: at most eight counts are left (R90). -/
def State.landAll (s : State) (k : Nat) : State := (List.range 9).foldl (fun s _ => s.advance k) s

/-- Whether a drill has fixed-latency landings of earlier swaths (R69). -/
def Drill.landed (d : Drill) : Bool := d.landings.all fun x => x.swath = d.swath

/-- Whether slots and variable-latency results are outstanding, which a trap waits for (R88). Slots that a fixed-latency
landing still holds go with it (log 20, DEDUCED). -/
def Drill.drained (d : Drill) : Bool := d.ops.all fun o => o.slot = 0

end Sys2Proof.Machine
end

