-- ==== Sys2Proof/Machine/Copies.lean ====
section
/-!
DEFINITION. Copies by the copy engines (R181-R184, R196): a copy as a sequence of 16-byte units, what a unit reads, and what it
writes outside the beds.
-/
namespace Sys2Proof.Machine

/-- The forms of CPY by FN: 0 .GL, 1 .LG, 2 .GG, 3 .GB, 4 .LB, 5 .FILL (R181). A source is local, a destination is. -/
def cpySrcLocal (form : Nat) : Bool := form = 1 || form = 4
/-- A copy writes a bed slot. -/
def cpyBed (form : Nat) : Bool := form = 3 || form = 4
/-- A copy goes to station O (R182). -/
def cpyOut (form : Nat) : Bool := form = 1 || form = 2 || form = 5
/-- Units of a row, and of a copy. -/
def CopyDesc.rowUnits (d : CopyDesc) : Nat := d.len / 16
def CopyDesc.units (d : CopyDesc) : Nat := d.rows * d.rowUnits
/-- The distance of a unit from the first, with a stride. -/
def CopyDesc.offset (d : CopyDesc) (stride : Int) (u : Nat) : Int := stride * Int.ofNat (u / d.rowUnits) + Int.ofNat (16 * (u % d.rowUnits))
/-- The global address of a unit. -/
def CopyDesc.srcVa (d : CopyDesc) (u : Nat) : DWord := d.src + BitVec.ofInt 64 (d.offset d.srcStride u)
def CopyDesc.dstVa (d : CopyDesc) (u : Nat) : DWord := d.dst + BitVec.ofInt 64 (d.offset d.dstStride u)

/-- A group as its stations see it. -/
structure CopyAt where
  gid : Nat
  g : Group
  c : Context
  /-- The chiplet of the engine: for .GB the plot's Acre die (R228). -/
  chip : Nat
  engine : Nat := 0
  seq : Nat
  slot : Option Nat := none
/-- The translation cache of the engine (R345). -/
def CopyAt.tlb (w : CopyAt) : Nat := engineTlb w.chip w.engine
/-- Why a unit is not moved: a translation fault of its source or destination, an abort by its cause (R184), a hold. -/
inductive CopyStop where
  | fault (va : DWord) (write : Bool) (e : XlateFail) | abort (cause : Nat) | hold
/-- A byte of the group's region of local store. -/
def CopyAt.ls (w : CopyAt) (ofs : Int) : Nat := w.g.lsBase + ofs.toNat
/-- The core of the group. -/
def CopyAt.core (w : CopyAt) : Nat := coreKey w.g.die w.g.core
/-- The address of a global unit after every check (R184, R242). -/
def State.copyPa (s : State) (w : CopyAt) (va : DWord) (write : Bool) : Except CopyStop (Nat × State) :=
  match s.translate w.tlb w.c va { r := !write, w := write } with
  | .error e => .error (if e.cause = 0 then .hold else .fault va write e)
  | .ok (pa, s) =>
    if !s.backed pa || (write && (match regionOf pa with | .rom _ => true | _ => false)) then .error (.abort 0x12)
    else if !s.grantOk w.g.ctx pa then .error (.abort 0x14)
    else if classOf pa = .cacheable && s.gateFor w.chip w.seq write pa = .hold then .error .hold
    else .ok (pa, s)
/-- The 16 bytes that a unit reads (R182, R191); `dev` gives those of an uncached or remote address. -/
def State.copyRead (s : State) (w : CopyAt) (d : CopyDesc) (u : Nat) (dev : State → Nat → List Byte) : Except CopyStop (List Byte × State) :=
  if d.form = 5 then .ok ((List.replicate 4 (toBytes (d.src.setWidth 32 : Word) 4)).flatten, s)
  else if cpySrcLocal d.form then
    let a := w.ls (Int.ofNat (field d.src 0 19) + d.offset d.srcStride u)
    let bytes := (List.range 16).map fun j => a + j
    if bytes.any (s.core w.core).lsPoison.contains then .error (.abort 0x15) else .ok (bytes.map (s.lsByte w.core), s)
  else match s.copyPa w (d.srcVa u) false with
  | .error e => .error e
  | .ok (pa, s) =>
    if classOf pa ≠ .cacheable then .ok (dev s pa, { s with tick := s.tick + 1 })
    else if s.poisoned pa then .error (.abort 0x15)
    else .ok (s.bytesAt pa 16, s)
/-- Where a unit of a local or ring destination is written. -/
def CopyAt.dstLs (w : CopyAt) (d : CopyDesc) (u : Nat) : Nat :=
  if d.ring then
    match tblGet? w.g.rings (field d.dst 0 4) with
    | some r => w.ls (Int.ofNat (r.base + w.slot.getD 0 * 2 ^ (field r.word 4 4 + 6)) + d.offset d.dstStride u)
    | none => 0
  else w.ls (Int.ofNat (field d.dst 0 19) + d.offset d.dstStride u)
/-- Writes a unit outside the beds, I/O-coherently (R15); `dev` takes the bytes of an uncached address. -/
def State.copyWrite (s : State) (w : CopyAt) (d : CopyDesc) (u : Nat) (bs : List Byte) (dev : State → Nat → List Byte → State) : Except CopyStop State :=
  if cpyOut d.form then
    match s.copyPa w (d.dstVa u) true with
    | .error e => .error e
    | .ok (pa, s) => .ok (if classOf pa = .cacheable then s.ioWrite (runOf pa bs) else dev s pa bs)
  else .ok (s.lsWrite w.core (runOf (w.dstLs d u) bs))
/-- The physical address of a global unit that passes its checks. -/
def State.unitPa (s : State) (w : CopyAt) (va : DWord) (write : Bool) : Option Nat :=
  match s.copyPa w va write with
  | .ok (pa, _) => some pa
  | .error _ => none
/-- Units of a .GG that write what the command reads, or read what it writes: their bytes are unspecified (R181). -/
def State.mixedUnits (s : State) (w : CopyAt) (d : CopyDesc) : List Nat :=
  if d.form ≠ 2 then []
  else
    let src := (List.range d.units).map fun u => s.unitPa w (d.srcVa u) false
    let dst := (List.range d.units).map fun u => s.unitPa w (d.dstVa u) true
    let meets (x : Option Nat) (l : List (Option Nat)) : Bool := x.isSome && l.contains x
    (List.range d.units).filter fun u => meets (dst.getD u none) src || meets (src.getD u none) dst
/-- The unspecified bytes of a unit (R181). -/
def mixedBytes (t u : Nat) : List Byte := (List.range 16).map fun j => (Config.freeWord t (16 * u + j)).setWidth 8
/-- Units that were written get unspecified bytes where source and destination overlap (R181). -/
def State.mixUnits (s : State) (w : CopyAt) (d : CopyDesc) (us : List Nat) : State :=
  match us with
  | [] => s
  | _ =>
    let (t, s) := s.free
    us.foldl (fun (s : State) u => match s.copyWrite w d u (mixedBytes t u) (fun s _ _ => s) with
      | .error _ => s
      | .ok s => s) s
/-- The bytes of a unit: those read before (R182), else as it reads now. -/
def State.copyBytes (s : State) (w : CopyAt) (d : CopyDesc) (got : Tbl (List Byte)) (u : Nat) (dev : State → Nat → List Byte) : Except CopyStop (List Byte × State) :=
  match tblGet? got u with
  | some bs => .ok (bs, s)
  | none => s.copyRead w d u dev
/-- Units of an abandoned or aborted copy that were written before it stopped, from unit `first` on (R184, R196, R405): a free
choice. -/
def State.strayUnits (s : State) (w : CopyAt) (d : CopyDesc) (r : CopyRun) (first : Nat) : State :=
  let (t, s) := s.free
  let mixed := s.mixedUnits w d
  (((List.range d.units).drop first).filter fun u => !r.early.contains u).foldl (fun (s : State) u =>
    if !Config.freeBool t u then s
    else if mixed.contains u then s.mixUnits w d [u]
    else match s.copyBytes w d r.got u (fun s pa => (List.range 16).map fun j => Config.deviceByte s.tick (pa + j)) with
    | .error _ => s
    | .ok (bs, s) => match s.copyWrite w d u bs (fun s _ _ => s) with
      | .error _ => s
      | .ok s => s) s

end Sys2Proof.Machine
end

