-- ==== Sys2Proof/Machine/Service.lean ====
section
/-!
DEFINITION. The service queues: fault records and the fault queue (R347, R351-R355), the syscall and task queues (R309,
R310); what ends groups without a save (R87, R281, R405) and sends a context to FAULTED (R290, R295).
-/
namespace Sys2Proof.Machine

/-- The physical address of a register of a chiplet's block (R16). -/
def dieReg (chip off : Nat) : Nat := chip * 0x1000000 + off

/-- The MSI of a pair of registers: a 64-bit address and the identity in the word after it. -/
def State.msiFrom (s : State) (a d : Nat) : State := s.msi (s.reg a) (field (s.reg d) 0 11)
/-- The MSI of a context change (R290). -/
def State.ctxMsi (s : State) : State := s.msiFrom 0x30000 0x30008

/-- An address range of a queue's ring lies in backed cacheable memory. -/
def State.ringBacked (s : State) (base size : Nat) : Bool :=
  (List.range (size / 4096)).all fun j => classOf (base + 4096 * j) = .cacheable && s.backed (base + 4096 * j)

/-- Word `w` of the bytes. -/
def wordBytes (w : Word) : List Byte := toBytes w 4

/-- The words 4 and 16 of a fault-queue entry (R352). -/
def faultWord4 (r : FaultRec) : Word :=
  BitVec.ofNat 32 (r.agent * 2 ^ 29 + r.unit * 2 ^ 22 + r.pos * 2 ^ 16 + r.merged)
def faultWord16 (r : FaultRec) : Word :=
  BitVec.ofNat 32 (r.cause * 2 ^ 24 + r.acc * 2 ^ 16 + r.pin.toNat * 2 ^ 15 + r.level * 2 ^ 12)
/-- A fault-queue entry (R352). -/
def faultBytes (chip : Nat) (r : FaultRec) : List Byte :=
  wordBytes (BitVec.ofNat 32 (r.asid.toNat * 2 ^ 16 + r.ctx * 2 ^ 4 + chip)) ++ wordBytes (faultWord4 r) ++ toBytes r.va 8 ++
  wordBytes (faultWord16 r) ++ wordBytes (BitVec.ofNat 32 r.saveSlot) ++ toBytes r.time 8

/-- The fault records of a die. -/
def State.recs (s : State) (chip : Nat) : Tbl FaultRec := tblGet s.faultRecs chip []
/-- Puts a fault record of a die in place. -/
def State.setRec (s : State) (chip n : Nat) (r : FaultRec) : State :=
  { s with faultRecs := tblSet s.faultRecs chip (tblSet (s.recs chip) n r) }
/-- A fault record becomes CLEAR (R355). -/
def State.clearRec (s : State) (chip n : Nat) : State :=
  { s with faultRecs := tblSet s.faultRecs chip (tblErase (s.recs chip) n) }

/-- Posts one QUEUED record if its die's fault queue is enabled and has room (R351): entry, tail, MSI. -/
def State.postFault (s : State) (chip n : Nat) : State :=
  let base := s.reg (dieReg chip 0x40000)
  let head := field (s.reg (dieReg chip 0x40008)) 0 12
  let tail := field (s.reg (dieReg chip 0x4000C)) 0 12
  match tblGet? (s.recs chip) n with
  | none => s
  | some r =>
    if r.st ≠ .queued || !base.getLsbD 0 || (tail + 1) % 4096 = head then s
    else
      let a := base.toNat / 2 ^ 17 * 2 ^ 17 + 32 * tail
      if classOf a ≠ .cacheable || !s.backed a then s.setReg (dieReg chip 0x40000) (putField base 0 1 0)
      else if s.gate a = .hold then s
      else
        let s := s.ioWrite (runOf a (faultBytes chip r))
        let s := s.setReg (dieReg chip 0x4000C) (BitVec.ofNat 64 ((tail + 1) % 4096))
        (s.setRec chip n { r with st := .pending, entry := tail }).msiFrom (dieReg chip 0x40010) (dieReg chip 0x40018)
/-- Rewrites words 4 and 16 of the posted entry of a record that gathered faults since (R354), once its stack's port is open. -/
def State.rewriteFault (s : State) (chip n : Nat) : State :=
  match tblGet? (s.recs chip) n with
  | none => s
  | some r =>
    let a := (s.reg (dieReg chip 0x40000)).toNat / 2 ^ 17 * 2 ^ 17 + 32 * r.entry
    if !r.stale || s.gate a = .hold then s
    else (s.ioWrite (runOf (a + 4) (wordBytes (faultWord4 r)) ++ runOf (a + 16) (wordBytes (faultWord16 r)))).setRec chip n { r with stale := false }
/-- Rewrites every posted entry of a die that is behind its record (R354). -/
def State.rewriteFaults (s : State) (chip : Nat) : State := (s.recs chip).foldl (fun s p => s.rewriteFault chip p.1) s
/-- Brings the fault queue of a die up to date (R351, R354): posted entries are rewritten, and QUEUED records are posted, oldest
first, while the queue has room. -/
def State.postFaults (s : State) (chip : Nat) : State :=
  (s.recs chip).foldl (fun s p => s.postFault chip p.1) (s.rewriteFaults chip)

/-- A fault of an agent of a die (R347, R354, R355): its translations of the page are dropped; it merges with a record of
its ASID and page, or makes one, which is posted at once where the queue allows. The record's number. -/
def State.faultNew (s : State) (chip : Nat) (r : FaultRec) : Nat × State :=
  let s := s.dropTlb chip (fun e => e.serves r.asid r.va) fun e => e.serves r.asid r.va
  match (s.recs chip).find? fun p => p.2.asid = r.asid && p.2.va.toNat / 4096 = r.va.toNat / 4096 with
  | some (n, old) =>
    let new := { old with merged := min (old.merged + 1) 0xFFFF, acc := old.acc ||| r.acc }
    (n, (s.setRec chip n { new with stale := old.st = .pending }).rewriteFault chip n)
  | none =>
    let (n, s) := s.stamp
    let s := s.setRec chip n { r with st := .queued, merged := 0, time := s.gtime }
    (n, s.postFaults chip)

/-- The first register of a syscall or task queue: Headland's own is the Coulter task queue (R309, R333). -/
def scqReg (chip : Nat) : Nat := if chip = 0 then 0xC0000 else dieReg chip 0x20000
/-- The entries of a queue: pending ones and those that wait to be posted, in order. -/
def State.sysQ (s : State) (chip : Nat) : List SysEntry := tblGet s.sysEntries chip []
/-- Replaces the entries of a queue. -/
def State.setSysQ (s : State) (chip : Nat) (l : List SysEntry) : State := { s with sysEntries := tblSet s.sysEntries chip l }
/-- Adds an entry that waits to be posted. -/
def State.addSys (s : State) (chip : Nat) (e : SysEntry) : State := s.setSysQ chip (s.sysQ chip ++ [e])

/-- The 64 bytes of an entry (R310); the time is written at the post. -/
def sysBytes (asid : BitVec 16) (ctx chip kind : Nat) (sm : Bool) (core pos slot : Nat) (epc : DWord) (mask w28 : Word)
    (tail : List Byte) : List Byte :=
  wordBytes (BitVec.ofNat 32 (asid.toNat * 2 ^ 16 + ctx * 2 ^ 4 + chip)) ++
  wordBytes (BitVec.ofNat 32 (kind * 2 ^ 30 + sm.toNat * 2 ^ 29 + core * 2 ^ 22 + pos * 2 ^ 16 + slot)) ++
  toBytes epc 8 ++ toBytes (0 : DWord) 8 ++ wordBytes mask ++ wordBytes w28 ++ tail ++ List.replicate (32 - tail.length) 0
/-- The entry of a drill (R310). -/
def sysEntryOf (k : Nat) (d : Drill) (g : Group) (asid : BitVec 16) (kind : Nat) (sm : Bool) (mask w28 : Word)
    (tail : List Byte) : SysEntry :=
  { posted := false, kind := kind, ctx := g.ctx, drill := some k, gid := d.gid
    bytes := sysBytes asid g.ctx (drillChip k) kind sm (drillCore k % 128) (drillPos k) g.saveSlot d.epc mask w28 tail }

/-- Withdraws the entries of a queue that satisfy `p`. -/
def State.withdrawSys (s : State) (p : Nat → SysEntry → Bool) : State :=
  { s with sysEntries := tblMap s.sysEntries fun chip l => l.filter fun e => !p chip e }

/-- What a copy in progress had written when it is abandoned (R405); of a bed slot, nothing. -/
def State.strayCopy (s : State) (gid : Nat) (g : Group) (t : Station) : State :=
  match s.ctx? g.ctx, t.run with
  | some c, some r => match r.cmd.desc with
    | some d =>
      if t.stopped = some true || cpyBed d.form then s
      else s.strayUnits { gid := gid, g := g, c := c, chip := coreChip (g.die * 128), engine := r.engine, seq := r.cmd.seq, slot := r.slot } d r r.doneUnits
    | none => s
  | _, _ => s
/-- The commands of a station are abandoned (R405). The fault record of a copy is withdrawn with its context (DRAINING) or made
void with its die (R355), and else stays. -/
def State.abandon (s : State) (gid : Nat) : State :=
  match s.group? gid with
  | none => s
  | some g =>
    ((s.strayCopy gid g g.stI).strayCopy gid g g.stO).modGroup gid fun g => { g with stI := {}, stO := {} }

/-- A BAR.CROFT or BAR.GRID in which a drill waits. -/
def waitsAt (i : Option Instr) (grid : Bool) : Bool :=
  match i with
  | some (.barCroft _) => !grid
  | some (.barGrid _) => grid
  | _ => false

/-- A croft or a cooperative launch loses a group (R281): its pending phase is discarded, and the drills that wait in its
barrier raise SYNC_LOST. -/
def State.syncLost (s : State) (gid : Nat) (grid : Bool) : State :=
  match s.group? gid with
  | none => s
  | some g =>
    let g := if grid then { g with gridLost := true, gridArr := 0 } else { g with croftLost := true, croftArr := 0 }
    let s := s.setGroup gid g
    g.drillKeys.foldl (fun s k => s.modDrill k fun d =>
      if d.gid = gid && waitsAt d.longWait grid then d.addTrap 0x25 0 0 else d) s

/-- The stash region of a group that holds an offset of its local store: number and line (R178). -/
def stashAt (g : Group) (ofs : Nat) : Option (Nat × Nat) :=
  g.stash.findSome? fun p =>
    let o := field p.2.word 7 12 * 128
    let l := field p.2.word 20 12 + 1
    if o ≤ ofs && ofs < o + 128 * l then some (p.1, (ofs - o) / 128) else none
/-- The bytes that an entry of the store queue stores: to global memory, and through a filled stash entry to its line (R178). -/
def SqKind.stores (g : Group) : SqKind → List (Nat × List Byte)
  | .store w => w.map fun p => (p.1.pa, p.2)
  | .storeLocal w => w.filterMap fun p =>
      let a : Word := p.1.va.setWidth 32
      match if a.getLsbD 31 then none else stashAt g (field a 0 19) with
      | none => none
      | some (r, l) => ((tblGet? g.stash r).bind fun t => tblGet? t.entries l).map fun e => (128 * e.1 + field a 0 7, p.2)
  | _ => []
/-- Stores of a lost drill that had not become visible may become so (R87): a free choice by lane. Of a die that does not
answer, a store can have reached its L2 only, which leaves the line poisoned (R366). Uncached stores go on by themselves; what a
remote store does happens in another package. -/
def State.strayStores (s : State) (k : Nat) (d : Drill) : State :=
  let (t, s) := s.free
  match s.group? d.gid with
  | none => s
  | some g =>
    let writes := d.storeQueue.flatMap fun e => (e.kind.stores g).mapIdx fun j p => (1024 * e.seq + j, p)
    writes.foldl (fun s w =>
      let (pa, bs) := w.2
      if !Config.freeBool t w.1 then s
      else if classOf pa = .uncached then { s with strays := s.strays ++ [(pa, bs)] }
      else if classOf pa ≠ .cacheable || s.gateAt (drillChip k) true pa ≠ .go || !s.grantOk g.ctx pa then s
      else if s.chipUp (drillChip k) then s.cohWrite (drillChip k) (runOf pa bs)
      else if Config.freeBool t (2 ^ 62 + w.1) then s.poisonLine (pa / 128)
      else s.ioWrite (runOf pa bs)) s
/-- A group becomes LOST (R87, R266): its drills, streams and station commands are gone, and its siblings are told (R281). -/
def State.loseGroup (s : State) (gid : Nat) : State :=
  match s.group? gid with
  | none => s
  | some g =>
    if g.st = .lost || g.st = .done then s
    else
      let s := s.abandon gid
      let s := (s.drills.filter fun p => p.2.gid = gid).foldl (fun s p => s.strayStores p.1 p.2) s
      let s := { s with drills := s.drills.filter fun p => p.2.gid ≠ gid }
      let s := s.modGroup gid fun g => { g with st := .lost, streams := [], ringReqs := [], exits := [] }
      let sib (p : Nat × Group) : Bool := p.1 ≠ gid && p.2.launch = g.launch && p.2.st ≠ .lost && p.2.st ≠ .done
      let s := (s.groups.filter fun p => sib p && p.2.croft = g.croft).foldl (fun s p => s.syncLost p.1 false) s
      if g.kcb.coop then (s.groups.filter sib).foldl (fun s p => s.syncLost p.1 true) s else s

/-- The context of a group goes to FAULTED (R289, R290, R295): every group becomes LOST, a kind-2 entry waits at the die,
and an MSI is sent. -/
def State.ctxFault (s : State) (ctx fcode chip : Nat) (e : SysEntry) : State :=
  match s.ctx? ctx with
  | none => s
  | some c =>
    if c.st ≠ .active && c.st ≠ .preempting then s
    else
      let s := s.modCtx ctx fun c => { c with st := .faulted, fcode := fcode }
      let s := (s.groups.filter fun p => p.2.ctx = ctx).foldl (fun s p => s.loseGroup p.1) s
      (s.addSys chip e).ctxMsi

end Sys2Proof.Machine
end

