-- ==== Sys2Proof/Machine/Ops.lean ====
section
/-!
DEFINITION. Taking a trap and the return from one (R88-R90, R292-R295, R305), and issue, which every Furrow instruction goes
through (R25-R31, R38, R39, R69-R77, R82).
-/
namespace Sys2Proof.Machine

/-- XI as a snapshot writes it (R90). -/
def packXi (v tkd : Bool) (idx : Nat) (pc : DWord) : DWord :=
  (BitVec.ofNat 64 (v.toNat * 2 ^ 63 + tkd.toNat * 2 ^ 62 + idx % 32 * 2 ^ 57)) ||| (pc &&& 0x01FFFFFFFFFFFFF8)
/-- XI.V. -/
def xiV (xi : DWord) : Bool := xi.getLsbD 63
/-- XI.TKD. -/
def xiTkd (xi : DWord) : Bool := xi.getLsbD 62
/-- XI.IDX. -/
def xiIdx (xi : DWord) : Nat := field xi 57 5
/-- XI.PC, sign-extended from bit 56. -/
def xiPc (xi : DWord) : DWord := ((xi.setWidth 57).signExtend 64) &&& ~~~(7 : DWord)

/-- The landing record of a pending landing at count n (R88, R90). -/
def xpOf (n : Nat) (x : Landing) : XpRec :=
  let base : XpRec := { v := true, rem := x.due - n, nw := x.noReg, lt := x.latch.getD 0, val := x.val, flags := x.flags, mask := x.mask }
  match x.into with
  | .vec r w => { base with w64 := w = 2, cls := 0, dst := if r ≥ 256 then r - 4 else r }
  | .uni r w => { base with w64 := w = 2, cls := 1, dst := if r ≥ 72 then r - 16 else r }
  | .pred r => { base with cls := 2, dst := r }
  | .sys r _ => { base with cls := 3, dst := r }
  | _ => { base with v := false }
/-- Landings that the replay registers do not hold: they are performed when a snapshot is taken (R116, R145). -/
def landsAtSnapshot (x : Landing) : Bool :=
  match x.into with
  | .tile .. | .scale | .nothing => true
  | _ => false

/-- The snapshot of R88: latches into XL, pending landings into XP, the place into XI. -/
def State.snapshot (s : State) (k idx : Nat) (tkd : Bool) : State :=
  match s.drill? k with
  | none => s
  | some d =>
    let now := d.landings.filter landsAtSnapshot
    let rest := d.landings.filter fun x => !landsAtSnapshot x
    let s := s.setDrill k { d with landings := [] }
    let s := now.foldl (fun s x => s.landOne k x) s
    let s := rest.foldl (fun s x => s.complete k x.slot x.tk1) s
    s.modDrill k fun d => { d with
      xl := (List.range 8).map fun j => (j, d.latch j)
      xp := (rest.take 8).mapIdx fun j x => (j, xpOf d.n x)
      xi := packXi true tkd idx d.swathPc }

/-- The drill area and group area of a drill (R287). -/
def drillArea (g : Group) (c : Context) (idx : Nat) : DWord := g.gsave + BitVec.ofNat 64 (2048 + idx * c.darea)

/-- The trap record (R298). -/
def Drill.record (d : Drill) (code sub station : Nat) (async : Bool) (tval : DWord) (mask : Mask) (epc : DWord) : Drill :=
  { d with tcause := BitVec.ofNat 32 (sub * 2 ^ 24 + station * 2 ^ 20 + async.toNat * 2 ^ 15 + code), tval := tval, tmask := mask, epc := epc }

/-- Entry to a vector in system mode (R293): the bank, the pc, a new swath. What the interrupted code still has to meet at the
target of a transfer is kept for its return (R136). -/
def State.toVector (s : State) (k : Nat) (vec : DWord) (routine : Nat) : State :=
  match s.drill? k with
  | none => s
  | some d => match s.group? d.gid with
    | none => s
    | some g => match s.ctx? g.ctx with
      | none => s
      | some c =>
        let area := drillArea g c d.idx
        let info := BitVec.ofNat 32 (g.kcb.t * 2 ^ 24 + (g.kcb.s - 1) * 2 ^ 16 + (g.kcb.v - 1) * 2 ^ 8 + d.idx)
        let bank := [area.setWidth 32, area.extractLsb' 32 32, g.gsave.setWidth 32, g.gsave.extractLsb' 32 32, d.tcause, info, 0, 0]
        let d := (d.unmark (sMark 72) 8).unmark (vMark 256) 4
        let d := (List.range 8).foldl (fun d j => d.putS (72 + j) (bank.getD j 0)) d
        let d := (List.range 4).foldl (fun d j => d.putV (256 + j) 0xFFFFFFFF (splat 0)) d
        let d := if d.sysMode then d else { d with landUser := d.needLand, needLand := none }
        s.setDrill k { d with
          sysMode := true, routine := routine, pc := vec, swathPc := vec, idxInSwath := 0, swath := d.swath + 1, latches := []
          st := .ready, stall := none, longWait := none, metWait := false, mbar := none, park := none, skipTk0 := false, trap := none
          tokWait := none, resumed := false, fetch := [], fetchWant := [vec.toNat / 128] }

/-- A drill stops until a hart answers (R84, R293). -/
def State.parkOn (s : State) (k : Nat) (p : Park) : State :=
  s.modDrill k fun d => { d with st := .parked, park := some p, stall := none, tokWait := none, longWait := none, metWait := false, mbar := none, trap := none, latches := [] }

/-- The proto-record of a drill's page fault (R352). -/
def faultOf (k : Nat) (d : Drill) (g : Group) (asid : BitVec 16) (f : DWord × Nat × Nat × Bool × Nat) : FaultRec :=
  { st := .queued, asid := asid, ctx := g.ctx, agent := 0, unit := drillCore k % 128, pos := drillPos k, va := f.1
    cause := f.2.1, acc := f.2.2.2.2 ||| (if d.sysMode then 16 else 0), pin := f.2.2.2.1, level := f.2.2.1, saveSlot := g.saveSlot, time := 0 }

/-- A staged successor exit of the group is cancelled (R271). -/
def State.cancelSucc (s : State) (gid : Nat) : State :=
  s.modGroup gid fun g => if g.exits.any (·.2.1) then { g with succCancel := true } else g

/-- TAKING A TRAP (R88, R293-R295): everything that the instruction or the boundary raised has been waited for. `valid`
tells whether XI is written with V = 1, `idx` and `tkd` what it holds then. -/
def State.takeTrap (s : State) (k : Nat) (t : TrapReq) (valid async : Bool) (idx : Nat) : State :=
  match s.drill? k with
  | none => s
  | some d => match s.group? d.gid with
    | none => s
    | some g => match s.ctx? g.ctx with
      | none => s
      | some c =>
        let epc := t.epc.getD d.pc
        let mask := t.mask.getD d.cm
        let d1 := d.record t.code t.sub t.station async t.tval mask epc
        if d.sysMode && t.code ≠ 0x30 then
          let e := sysEntryOf k d1 g c.asid 2 true mask d1.tcause (toBytes t.tval 8)
          s.ctxFault g.ctx (if d.routine = 0 then 0x3F else 0x3E) (drillChip k) e
        else
          let s := if valid then s.snapshot k idx t.tkd else (s.landAll k).modDrill k fun d => { d with xi := 0 }
          let s := s.modDrill k fun d => { d.record t.code t.sub t.station async t.tval mask epc with trap := none }
          if t.faults ≠ [] then
            let (recs, s) := t.faults.foldl (fun (r : List Nat × State) f =>
              let (n, s) := r.2.faultNew (drillChip k) (faultOf k d g c.asid f)
              (if r.1.contains n then r.1 else r.1 ++ [n], s)) ([], s)
            s.parkOn k (.faults recs)
          else if t.code = 0x30 then
            let e := sysEntryOf k { d with epc := epc } g c.asid 0 d.sysMode mask (t.args.getD 8 0) ((t.args.take 8).flatMap wordBytes)
            (s.addSys (drillChip k) e).parkOn k (.syscall 0 t.self)
          else if t.code = 0x32 then s.toVector k c.savevec 1
          else
            let s := s.cancelSucc d.gid
            if c.trapvec ≠ 0 then s.toVector k c.trapvec 0
            else
              let e := sysEntryOf k { d with epc := epc } g c.asid 1 false mask d1.tcause (toBytes t.tval 8)
              (s.addSys (drillChip k) e).parkOn k (.syscall 1)

/-- A precise trap: taken at once, or when the drill's slots are clear (R88). -/
def State.raise (s : State) (k : Nat) (t : TrapReq) : State :=
  match s.drill? k with
  | none => s
  | some d =>
    if d.drained then s.takeTrap k t (!(t.completed && d.idxInSwath = 0)) false d.idxInSwath
    else s.setDrill k { d with trap := some t, st := .stalled, stall := some .drain }

/-- Whether a landing record can be injected again (R5, R90): a register in bounds, or a number that SWR writes in user mode,
and no reserved bit set. REM of 9 to 15 and a predicate of 64 bits, which no landing has, are refused too (log 92, DEDUCED). -/
def xpOk (d : Drill) (g : Group) (x : XpRec) : Bool :=
  let limit (n : Nat) := decide (x.dst + (if x.w64 then 2 else 1) ≤ n)
  !x.resv && (!x.v || (x.rem ≠ 0 && x.rem ≤ 8 && (match x.cls with
    | 0 => limit g.kcb.v || (d.sysMode && x.dst ≥ 252 && limit 256)
    | 1 => limit g.kcb.s || (d.sysMode && x.dst ≥ 56 && limit 64) || (d.uiAct && limit 8)
    | 2 => x.dst < 8 && !x.w64
    | _ => x.dst ≤ 9 && x.nw = false && x.w64 = false && x.lt = 0)))

/-- The landing that a record injects (R89). -/
def injected (d : Drill) (x : XpRec) : Landing :=
  let n := if x.w64 then 2 else 1
  let into : LandTo := match x.cls with
    | 0 => .vec (vStore d.sysMode x.dst) n
    | 1 => .uni (sStore d.sysMode x.dst) n
    | 2 => .pred x.dst
    | _ => .sys x.dst d.sysMode
  { due := d.n + x.rem, into := into, noReg := x.nw, latch := if x.cls = 3 then none else some x.lt, mask := x.mask
    val := x.val, flags := x.flags, swath := d.swath }

/-- THE RETURN FROM A TRAP (R89, R305): with XI.V = 1 the recorded swath goes on, and its landings count from the issue of the
resumed instruction; else a new swath starts at EPC. -/
def State.resume (s : State) (k : Nat) : State :=
  s.modDrill k fun d =>
    let d := { d with st := .ready, park := none, stall := none, swath := d.swath + 1, fetch := [], resumed := xiV d.xi }
    if xiV d.xi then
      let pc := xiPc d.xi + BitVec.ofNat 64 (8 * xiIdx d.xi)
      { d with
        latches := (List.range 8).map fun j => (j, tblGet d.xl j (splat 0))
        landings := (d.xp.filter fun p => p.2.v).map fun p => injected d p.2
        pc := pc, swathPc := xiPc d.xi, idxInSwath := xiIdx d.xi, skipTk0 := xiTkd d.xi
        xi := d.xi &&& 0x7FFFFFFFFFFFFFFF, fetchWant := [pc.toNat / 128] }
    else { d with latches := [], landings := [], pc := d.epc, swathPc := d.epc, idxInSwath := 0, skipTk0 := false
                  fetchWant := [d.epc.toNat / 128] }

/-- The drill stalls (R70). -/
def State.stallOn (s : State) (k : Nat) (why : Stall) : State := s.modDrill k fun d => { d with st := .stalled, stall := some why }

/-- What a body of an instruction sees: the drill, its group, the instruction, its active lanes (R27, R131). -/
structure Issue where
  k : Nat
  d : Drill
  g : Group
  i : Instr
  act : Mask

/-- What a body answers when the instruction issues: the state with its effect, fixed-latency landings by latency, a taken
transfer, whether its slot and TK1 belong to one of the landings or to an operation, what follows the issue, and whether the
landing count stays where it is, for a trap that follows at once (R303, R304). -/
structure Fx where
  s : State
  lands : List (Nat × Landing) := []
  jump : Option DWord := none
  attached : Bool := false
  after : State → State := id
  hold : Bool := false

/-- The outcome of a body: it issues, it traps, it traps after an effect outside the drill, or a long wait's condition is not
met. -/
inductive Eff where
  | ok (fx : Fx) | trap (t : TrapReq) | fail (s : State) (t : TrapReq) | wait (s : State)

/-- Lanes that the guard selects (R27). -/
def guardMask (d : Drill) (c : Ctl) : Mask :=
  if c.gp = 0 then 0xFFFFFFFF else if c.gn then ~~~(d.kAt c.gp.toNat) else d.kAt c.gp.toNat
/-- Active lanes (R27, R131). -/
def activeLanes (d : Drill) (i : Instr) : Mask := if i.shape.guard = .lanes then d.cm &&& guardMask d i.ctl else d.cm

/-- Vector registers r to r + n - 1 may be named (R28, R91, R292). -/
def vNamed (d : Drill) (g : Group) (r n : Nat) : Bool := (List.range n).all fun j => r + j < g.kcb.v || (d.sysMode && r + j ≥ 252 && r + j < 256)
/-- Uniform registers r to r + n - 1 may be named (R28, R91, R186, R292). -/
def sNamed (d : Drill) (g : Group) (r n : Nat) : Bool :=
  (List.range n).all fun j => r + j < g.kcb.s || (d.sysMode && r + j ≥ 56 && r + j < 64) || (d.uiAct && r + j < 8)
/-- A source names declared registers. -/
def srcNamed (d : Drill) (g : Group) (u : SrcUse) : Bool :=
  match u.src with
  | .v n => vNamed d g n.toNat u.width
  | .s n => sNamed d g n.toNat u.width
  | _ => true
/-- DST names declared registers (R28). -/
def dstNamed (d : Drill) (g : Group) (sh : Shape) (uniform : Bool) : Bool :=
  let r := sh.d.toNat
  match sh.dst with
  | .none | .k | .tile => true
  | .v => vNamed d g r 1
  | .s => sNamed d g r 1
  | .vs => if uniform then sNamed d g r 1 else vNamed d g r 1
  | .pairV => vNamed d g r 2
  | .pairVS => if uniform then sNamed d g r 2 else vNamed d g r 2
  | .sPair => sNamed d g r 2
  | .quad => vNamed d g r 4
  | .vRun n => vNamed d g r n

/-- Numbers of system registers that user mode may not read (R299). -/
def sysOnlyRead (n : Nat) : Bool := (0x020 ≤ n && n ≤ 0x029) || (0x030 ≤ n && n ≤ 0x037)
/-- Numbers that no mode writes (R299, R301). -/
def sysReadOnly (n : Nat) : Bool := (0x00A ≤ n && n ≤ 0x00D) || n = 0x018 || n = 0x019 || n = 0x02A
/-- Numbers that user mode may not write (R299). -/
def sysOnlyWrite (n : Nat) : Bool :=
  sysReadOnly n || n = 0x00E || n = 0x00F || (0x010 ≤ n && n ≤ 0x017) || n = 0x01A || n = 0x01B || sysOnlyRead n
/-- The form needs system mode (R38, R300, R301, R305). -/
def needsSystem (d : Drill) (i : Instr) : Bool :=
  if d.sysMode then (match i with | .sysTret _ => d.routine = 1 | _ => false)
  else match i with
    | .srd _ n _ => sysOnlyRead n.toNat
    | .swr n _ _ => sysOnlyWrite n.toNat
    | i => i.shape.sys

/-- The instruction is a LAND. -/
def isLand (i : Instr) : Bool := match i with | .land _ => true | _ => false
/-- An EXIT form ends a routine in the place of a save as well, so it needs E like every control transfer (R26). -/
def swathBroken (d : Drill) (i : Instr) : Bool :=
  (d.idxInSwath ≥ 23 && !i.ctl.e) || (i.shape.control && !i.ctl.e) || (isLand i && d.idxInSwath ≠ 0)

/-- The first trap of an instruction before its waits: R38 in its order, then LAND_FAULT of a transfer's target (R135,
R137). -/
def earlyTrap (d : Drill) (g : Group) (i : Instr) : Option TrapReq :=
  match checks with
  | some t => some t
  | none => match d.needLand with
    | some (p, m) => if p = d.pc && !isLand i then some { code := 0x06, tval := p, mask := some m } else none
    | none => none
where
  checks : Option TrapReq :=
    if !i.wf || !i.isFurrow then some { code := 0x01 }
    else if needsSystem d i then some { code := 0x02 }
    else if swathBroken d i then some { code := 0x03 }
    else if !(i.shape.unchecked || i.shape.srcs.all (srcNamed d g)) || !dstNamed d g i.shape i.ctl.uniformForm ||
        !(i.shape.tiles.all fun t => t.toNat < g.kcb.t) then some { code := 0x04 }
    else none

/-- A slot of a wait field that a load marked poisoned (R78). -/
def poisonedWait (d : Drill) (sbw : BitVec 6) : Option (Nat × PoisonMark) :=
  (d.poison.find? fun p => 1 ≤ p.1 && sbw.getLsbD (p.1 - 1))
/-- DATA_POISON of a mark (R78). -/
def poisonTrap (m : PoisonMark) : TrapReq := { code := 0x15, tval := m.addr, mask := m.lanes, epc := some m.pc }

/-- The marks of n registers from r on, by the file that they stand in (R292, R381). -/
def vMarks (d : Drill) (r n : Nat) : List Nat := (List.range n).map fun j => vMark (vStore d.sysMode (r + j))
def sMarks (d : Drill) (r n : Nat) : List Nat := (List.range n).map fun j => sMark (sStore d.sysMode (r + j))
/-- The marks of a source's registers. -/
def srcMarks (d : Drill) (u : SrcUse) : List Nat :=
  match u.src with
  | .v n => vMarks d n.toNat u.width
  | .s n => sMarks d n.toNat u.width
  | _ => []
/-- How many registers from DST on an instruction reads besides its sources: an accumulator, a half that is kept, the data
of a store, the operand of CAS. -/
def dstReads (i : Instr) : Nat :=
  match i with
  | .imac f .. => if f = .wideU then 2 else 1
  | .movih .. | .fmacF32 .. | .fmaciF32 .. | .hmac .. | .vdot .. | .vputi .. => 1
  | .cvt _ _ _ _ _ p _ => if cvtDstWidth p < 32 then 1 else 0
  | .st f .. | .sts f .. => (match f with | .b | .h | .w => 1 | .d => 2 | .q => 4)
  | .atomI32 f .. | .atoms f .. => if f = .cas then 1 else 0
  | .atomI64 f .. => if f = .cas then 2 else 0
  | _ => 0
/-- The tiles that an instruction reads (R145-R149), and the registers that SVLD saves (R92). -/
def wholeReads (d : Drill) (g : Group) (i : Instr) : List Nat :=
  match i with
  | .trdr _ u _ _ | .trdc _ u _ _ | .topTrans _ u _ | .topCopy _ u _ | .tsave u _ _ => [tileMark u.toNat]
  | .svldSavev .. => (List.range g.kcb.v).map vMark
  | .svldSaveu .. => (List.range (if d.uiAct then max 8 g.kcb.s else g.kcb.s)).map sMark
  | _ => []
/-- What an instruction reads of the storage that an SRAM error can mark (R381). -/
def readMarks (d : Drill) (g : Group) (i : Instr) : List Nat :=
  i.shape.srcs.flatMap (srcMarks d) ++
  (if i.ctl.uniformForm then sMarks d i.shape.d.toNat (dstReads i) else vMarks d i.shape.d.toNat (dstReads i)) ++ wholeReads d g i
/-- The instruction reads a register or a tile that an SRAM error marked (R381). -/
def readsMarked (d : Drill) (g : Group) (i : Instr) : Bool := (readMarks d g i).any d.regPoison.contains

/-- A drill of lower index in the group waits for a counter that the instruction waits for, and has not taken from it yet
(R81). -/
def tokenQueued (s : State) (g : Group) (d : Drill) (tk : BitVec 4) : Bool :=
  g.drillKeys.any fun k' => match s.drill? k' with
    | some d' => d'.gid = d.gid && d'.idx < d.idx && (match d'.tokWait with
      | some (wp, wn) => (wp && tk.getLsbD 3) || (wn && tk.getLsbD 2)
      | none => false)
    | none => false
/-- The instruction stalls until the counters that its TK0 waits for give it its tokens (R70, R81). -/
def State.awaitTokens (s : State) (k : Nat) (tk : BitVec 4) : State :=
  (s.modDrill k fun d => { d with tokWait := some (tk.getLsbD 3, tk.getLsbD 2) }).stallOn k (.tokens (tk.getLsbD 3) (tk.getLsbD 2))

/-- A load form that sees the drill's earlier queued stores before it (R149, R307). -/
def afterStores (i : Instr) : Bool :=
  match i with
  | .tload .. | .svldLoadv .. | .svldLoadu .. | .svldLoadp .. | .svldLoadx .. => true
  | _ => false

/-- A long wait whose completion is an acquire at CRF or wider, which invalidates the L1D (R153, R231, R255, R279). -/
def acquires (i : Instr) : Bool :=
  match i with
  | .barCroft _ | .barGrid _ | .mbarWait .. | .msyncWait _ | .stkTake .. => true
  | _ => false

/-- The buffer after an instruction of the line at `pc` has issued (R123): it keeps that line and the next, and requests
the next unless it holds it. -/
def Drill.fetchOn (d : Drill) (pc : DWord) : Drill :=
  let l := pc.toNat / 128
  let keep := d.fetch.filter fun f => f.line = l || f.line = l + 1
  let want := d.fetchWant.filter fun x => x = l || x = l + 1
  { d with fetch := keep
           fetchWant := if keep.any (fun f => f.line = l + 1) || want.contains (l + 1) then want else want ++ [l + 1] }

/-- The completion of an instruction that no landing or operation completes: one cycle after issue (R25, R30). -/
def ownLanding (i : Instr) (attached : Bool) : List (Nat × Landing) :=
  let slot := i.ctl.sbs.toNat
  let tk1 := if i.shape.command then 0 else i.ctl.tk1
  if attached || (slot = 0 && tk1 = 0) then [] else [(1, { due := 0, into := .nothing, swath := 0, slot := slot, tk1 := tk1 })]
/-- The pc and the swath after an instruction has issued: E ends the swath (R69). -/
def Drill.stepOn (d : Drill) (e : Bool) (next : DWord) : Drill :=
  let d := { d with pc := next, stall := none, longWait := none, metWait := false, mbar := none, skipTk0 := false
                    tokWait := none, resumed := false }
  if e then { d with st := .ready, swath := d.swath + 1, swathPc := next, idxInSwath := 0, latches := [] }
  else { d with st := .issuing, idxInSwath := d.idxInSwath + 1 }
/-- A drill's record after an instruction has issued: its slot, its landings, the fetch buffer, the pc, the swath (R30, R69,
R74, R77). -/
def Drill.issued (d : Drill) (c : Ctl) (lands : List (Nat × Landing)) (jump : Option DWord) : Drill :=
  let next := jump.getD (d.pc + 8)
  let d := { (d.setSlot c.sbs.toNat).fetchOn d.pc with
    landings := d.landings ++ lands.map fun (p : Nat × Landing) => { p.2 with due := d.n + p.1, swath := d.swath } }
  (if jump.isSome then { d with fetch := [], fetchWant := [next.toNat / 128] } else d).stepOn c.e next
/-- The instruction issues, and the landing count advances (R74). -/
def State.finish (s : State) (k : Nat) (i : Instr) (fx : Fx) : State :=
  let s := s.modDrill k fun d => d.issued i.ctl (fx.lands ++ ownLanding i fx.attached) fx.jump
  fx.after (if fx.hold then s else s.advance k)

/-- A trap of an instruction's checks; a request of code 0, which no trap has (R296), says that a table walk waits: the drill
stalls and goes through the checks again (R70, R200). -/
def State.raiseOr (s : State) (k : Nat) (t : TrapReq) : State := if t.code = 0 then s.stallOn k .walk else s.raise k t
/-- DATA_POISON of a register or a tile that an SRAM error marked (R381): the reader's marks go with the trap (log 96, DEDUCED). -/
def State.raiseMarked (s : State) (x : Issue) (tkd : Bool) : State :=
  (s.modDrill x.k fun d => { d with regPoison := d.regPoison.filter fun c => !(readMarks x.d x.g x.i).contains c }).raise x.k
    { code := 0x15, tkd := tkd }
/-- The body acts: its TK0 actions have been taken when `tkd` (R39). A marked register is met when it is read, after the TK0
actions. -/
def State.act (s : State) (x : Issue) (tkd : Bool) (body : Issue → State → Eff) : State :=
  let kept (s : State) : State := if tkd then s.modDrill x.k fun d => { d with skipTk0 := true } else s
  if readsMarked x.d x.g x.i then s.raiseMarked x tkd
  else match body x s with
  | .ok fx => fx.s.finish x.k x.i fx
  | .trap t => if t.code = 0 then kept (s.stallOn x.k .walk) else s.raise x.k { t with tkd := tkd }
  | .fail s' t => s'.raise x.k { t with tkd := tkd }
  | .wait s' => kept s'

/-- The tokens of a TK0 field after its waits and signals at V, and whether a counter overflowed (R81, R82). -/
def tk0Tokens (g : Group) (tk : BitVec 4) : BitVec 32 × Bool :=
  let taken := takeTokens g.tok 1 tk
  let (tok, ovf) := signalTokens taken 1 tk
  (if ovf then taken else tok, ovf)
/-- The state after the TK0 actions of V: a token of station M is acquired at PKG (R193). -/
def State.takeTk0 (s : State) (x : Issue) : State :=
  let s := s.setGroup x.d.gid { x.g with tok := (tk0Tokens x.g x.i.ctl.tk0).1 }
  if x.i.ctl.tk0.getLsbD 2 then s.invalL1 (drillCore x.k) else s
/-- The TK0 actions of V, then the body (R25, R39, R81, R82). -/
def State.actTokens (s : State) (x : Issue) (body : Issue → State → Eff) : State :=
  let tk := x.i.ctl.tk0
  if tk = 0 || x.i.shape.command then s.act x false body
  else if x.d.skipTk0 then s.act x true body
  else if !tokensReady x.g.tok 1 tk || tokenQueued s x.g x.d tk then s.awaitTokens x.k tk
  else if (tk0Tokens x.g tk).2 then (s.takeTk0 x).raise x.k { code := 0x16, station := 2, tkd := true }
  else (s.takeTk0 x).act { x with g := { x.g with tok := (tk0Tokens x.g tk).1 } } true body

/-- A long wait whose condition is not met (R71). -/
def State.longUnmet (s : State) (x : Issue) : State :=
  s.modDrill x.k fun d =>
    if x.i.ctl.e then { d with st := .waiting, stall := none, longWait := some x.i }
    else { d with st := .stalled, stall := some .cond, longWait := some x.i }

/-- The check of a transfer's target is over once an instruction has passed it (R127, R135). -/
def State.armed (s : State) (x : Issue) : State := s.modDrill x.k fun d => { d with needLand := none }

/-- What a long wait does when it issues after its condition had come about, which is not lost again (R71). -/
def afterMet (body : Issue → State → Eff) (x : Issue) (s : State) : Eff :=
  match body x s with
  | .ok fx => .ok fx
  | _ => .ok { s := if acquires x.i then s.invalL1 (drillCore x.k) else s }

/-- An instruction comes to issue at a drill. A slot that a load marked poisoned is reported at the wait on it, before the TK0
actions (R78; log 93, DEDUCED). -/
def State.issueAt (s : State) (x : Issue) (body : Issue → State → Eff) : State :=
  let c := x.i.ctl
  let sh := x.i.shape
  match earlyTrap x.d x.g x.i with
  | some t => s.raise x.k t
  | none =>
    if x.d.unclear c.sbw then s.stallOn x.k (.slots c.sbw)
    else match poisonedWait x.d c.sbw with
    | some (slot, m) => (s.modDrill x.k fun d => { d with poison := tblErase d.poison slot }).raise x.k (poisonTrap m)
    | none =>
      if c.sbs ≠ 0 && x.d.count c.sbs.toNat ≥ 15 then s.stallOn x.k (.count c.sbs.toNat)
      else if sh.queue && x.d.storeQueue.length ≥ 64 then s.stallOn x.k .queue
      else if afterStores x.i && x.d.storeQueue ≠ [] then s.stallOn x.k .stores
      else
        let s := s.armed x
        if sh.long then
          if readsMarked x.d x.g x.i then s.raiseMarked x x.d.skipTk0
          else if x.d.metWait then s.actTokens x (afterMet body)
          else match body x s with
          | .wait s' => s'.longUnmet x
          | .trap t => s.raiseOr x.k { t with tkd := x.d.skipTk0 }
          | .fail s' t => s'.raise x.k { t with tkd := x.d.skipTk0 }
          | .ok _ =>
            if (tokensReady x.g.tok 1 c.tk0 && !tokenQueued s x.g x.d c.tk0) || x.d.skipTk0 then s.actTokens x body
            else (s.modDrill x.k fun d => { d with metWait := true }).awaitTokens x.k c.tk0
        else s.actTokens x body

/-- What every Furrow instruction goes through: the drill whose turn it is issues it. -/
def issue (i : Instr) (s : State) (body : Issue → State → Eff) : Host.Outcome State Fault Refusal :=
  match s.cur with
  | some (.drill k) => match s.drill? k with
    | some d => match s.group? d.gid with
      | some g => .next (s.issueAt { k := k, d := d, g := g, i := i, act := activeLanes d i } body)
      | none => .fault .noDrill
    | none => .fault .noDrill
  | _ => .fault .noDrill

end Sys2Proof.Machine
end

