-- ==== Sys2Proof/Machine/Operands.lean ====
section
/-!
DEFINITION. Every operand form: sources of 32 and 64 bits (R32, R94), destinations (R27, R28), landings, variable-latency
operations, and the addresses and checks of memory accesses (R156, R157, R284).
-/
namespace Sys2Proof.Machine

/-- Lane i of a 32-bit source as read at issue (R32, R94). -/
def src32 (x : Issue) (u : Src) (i : Nat) : Word :=
  match u with
  | .v n => lane (x.d.vAt (vStore x.d.sysMode n.toNat)) i
  | .s n => x.d.sAt (sStore x.d.sysMode n.toNat)
  | .l n => lane (x.d.latch n.toNat) i
  | .zero => 0
  | .dlane => BitVec.ofNat 32 i
  | .glane => BitVec.ofNat 32 (32 * x.d.idx + i)
  | .drill => BitVec.ofNat 32 x.d.idx
  | .k n => if inMask (x.d.kAt n.toNat) i then 1 else 0
/-- Lane i of a 64-bit source (R32, R94): a pair, or a value that is zero-extended, for JMPV too (R134; log 102, DESIGN CHOICE). -/
def src64 (x : Issue) (u : Src) (i : Nat) : DWord :=
  match u with
  | .v n => (lane (x.d.vAt (vStore x.d.sysMode (n.toNat + 1))) i ++ lane (x.d.vAt (vStore x.d.sysMode n.toNat)) i : BitVec 64)
  | .s n => (x.d.sAt (sStore x.d.sysMode (n.toNat + 1)) ++ x.d.sAt (sStore x.d.sysMode n.toNat) : BitVec 64)
  | .l n => (lane (x.d.latch (n.toNat + 1)) i ++ lane (x.d.latch n.toNat) i : BitVec 64)
  | u => (src32 x u i).setWidth 64
/-- A uniform 32-bit source. -/
def srcU (x : Issue) (u : Src) : Word := src32 x u 0
/-- A uniform 64-bit source. -/
def srcU64 (x : Issue) (u : Src) : DWord := src64 x u 0
/-- The eight registers of a window, each 0 beyond the declared count where the form says so (R181, R303). -/
def srcWindow (x : Issue) (u : Src) : List Word :=
  match u with
  | .s n => (List.range 8).map fun j => if sNamed x.d x.g (n.toNat + j) 1 then x.d.sAt (sStore x.d.sysMode (n.toNat + j)) else 0
  | _ => List.replicate 8 0

/-- Whether the uniform form is used (R27). -/
def Issue.uniform (x : Issue) : Bool := x.i.ctl.uniformForm
/-- The old value of DST in lane i: n registers (1 or 2). -/
def Issue.old (x : Issue) (n i : Nat) : DWord :=
  let r := x.i.shape.d.toNat
  let read (j : Nat) : Word :=
    if x.uniform then x.d.sAt (sStore x.d.sysMode (r + j)) else lane (x.d.vAt (vStore x.d.sysMode (r + j))) i
  if n = 2 then (read 1 ++ read 0 : BitVec 64) else (read 0).setWidth 64
/-- The data register of a store: n registers from DST on (R161). -/
def Issue.data (x : Issue) (n i : Nat) : List Word :=
  (List.range n).map fun j => lane (x.d.vAt (vStore x.d.sysMode (x.i.shape.d.toNat + j))) i

/-- The lanes that a result is written in: the active lanes; for a uniform register, all when CM holds a lane (R27, R133). -/
def Issue.wmask (x : Issue) (uniform : Bool) : Mask := if uniform then (if x.d.cm = 0 then 0 else 0xFFFFFFFF) else x.act
/-- Where an instruction's result of n registers goes: a lane or uniform register by the form and DST's class. -/
def Issue.dest (x : Issue) (n : Nat) : LandTo :=
  let r := x.i.shape.d.toNat
  match x.i.shape.dst with
  | .s | .sPair => .uni (sStore x.d.sysMode r) n
  | .k => .pred r
  | _ => if x.uniform then .uni (sStore x.d.sysMode r) n else .vec (vStore x.d.sysMode r) n
/-- The latch that a result also writes (R29). -/
def Issue.latch (x : Issue) : Option Nat :=
  match x.i.shape.latch with
  | .one | .kept | .two => some x.i.ctl.ld.toNat
  | _ => none
/-- A landing of the instruction's own result, with its slot and TK1. -/
def Issue.landing (x : Issue) (into : LandTo) (mask : Mask) (val : DLanes) (flags : List (Nat × BitVec 5)) : Landing :=
  { due := 0, into := into, noReg := x.i.ctl.nw, latch := x.latch, mask := mask, val := val
    flags := if x.i.ctl.nf then [] else flags, swath := 0, slot := x.i.ctl.sbs.toNat, tk1 := x.i.ctl.tk1 }

/-- A lane instruction (R94): `op` gives each active lane its value and flags; `n` registers a result. -/
def laneOp (i : Instr) (s : State) (n : Nat) (op : Issue → Nat → DWord × BitVec 5) : Host.Outcome State Fault Refusal :=
  issue i s fun x s =>
    let vals : Vector (DWord × BitVec 5) 32 := Vector.ofFn fun j =>
      if x.uniform then op x 0 else if inMask x.act j.val then op x j.val else (0, 0)
    let flags := (List.range 32).filterMap fun j =>
      let f := (vals.getD j (0, 0)).2
      if !x.uniform && f ≠ 0 then some (j, f) else none
    let uni := match x.i.shape.dst with | .s | .sPair => true | _ => x.uniform
    .ok { s := s, attached := true
          lands := [(i.shape.lat, x.landing (x.dest n) (x.wmask uni) (vals.map (·.1)) flags)] }
/-- A lane instruction on 32-bit values without flags. -/
def laneOp32 (i : Instr) (s : State) (op : Issue → Nat → Word) : Host.Outcome State Fault Refusal :=
  laneOp i s 1 fun x j => ((op x j).setWidth 64, 0)
/-- A lane instruction on 64-bit values without flags. -/
def laneOp64 (i : Instr) (s : State) (op : Issue → Nat → DWord) : Host.Outcome State Fault Refusal :=
  laneOp i s 2 fun x j => (op x j, 0)

/-- An outstanding operation of the instruction, with its destination, slot and TK1. -/
def Issue.varOp (x : Issue) (seq : Nat) (kind : VarKind) (into : LandTo) (mask : Mask) : VarOp :=
  { seq := seq, kind := kind, into := into, noReg := x.i.ctl.nw, latch := x.latch, mask := mask
    helper := x.act &&& ~~~(realLanes x.g.g x.d.idx), swath := x.d.swath, slot := x.i.ctl.sbs.toNat, tk1 := x.i.ctl.tk1
    pc := x.d.pc, nf := x.i.ctl.nf }
/-- The effect of issuing a variable-latency operation. -/
def startOp (x : Issue) (s : State) (kind : VarKind) (into : LandTo) (mask : Mask) : Eff :=
  let (seq, s) := s.stamp
  .ok { s := s.modDrill x.k fun d => { d with ops := d.ops ++ [x.varOp seq kind into mask] }, attached := true }
/-- A variable-latency lane instruction whose result is fixed when it issues (R118-R122). -/
def slowOp (i : Instr) (s : State) (op : Issue → Nat → DWord × BitVec 5) : Host.Outcome State Fault Refusal :=
  issue i s fun x s =>
    let vals : Vector (DWord × BitVec 5) 32 := Vector.ofFn fun j => if inMask x.act j.val then op x j.val else (0, 0)
    let flags := (List.range 32).filterMap fun j =>
      let f := (vals.getD j (0, 0)).2
      if f ≠ 0 && !x.i.ctl.nf then some (j, f) else none
    startOp x s (.value (vals.map (·.1)) flags) (x.dest 1) x.act

/-- The effect of an instruction that enters the store queue (R159). -/
def enqueue (x : Issue) (s : State) (kind : SqKind) : Eff :=
  let (seq, s) := s.stamp
  .ok { s := s.modDrill x.k fun d => { d with storeQueue := d.storeQueue ++ [{ seq := seq, kind := kind, pc := x.d.pc }] } }
/-- The effect of an instruction that does nothing but advance. -/
def noEffect (s : State) : Eff := .ok { s := s }
/-- A change of the drill's own record at issue. -/
def Issue.update (x : Issue) (s : State) (f : Drill → Drill) : State := s.modDrill x.k f
/-- A drill-level instruction acts (R171). -/
def Issue.acts (x : Issue) : Bool := x.d.counting x.g x.d.cm ≠ 0

/-- Addresses of the active lanes by lane (R157). -/
def laneAddrs (x : Issue) (f : Nat → DWord) : List (Nat × DWord) := (maskLanes x.act).map fun i => (i, f i)
/-- Global address of a lane, M format (R157). -/
def globalAddr (x : Issue) (a : Src) (ofs : BitVec 10) (size i : Nat) : DWord :=
  src64 x a i + ofs.signExtend 64 * BitVec.ofNat 64 size
/-- Local address of a lane (R156, R157). -/
def localAddr (x : Issue) (a : Src) (ofs : BitVec 10) (size i : Nat) : Word :=
  src32 x a i + ofs.signExtend 32 * BitVec.ofNat 32 size

/-- The lanes of a list that satisfy a condition, as a mask. -/
def lanesWhere (l : List (Nat × DWord)) (p : DWord → Bool) : Mask := maskOf fun i => l.any fun q => q.1 = i && p q.2

/-- The access bits of a fault record (R352). -/
def accBits (acc : Access) (atomic : Bool) : Nat := acc.r.toNat + 2 * acc.w.toNat + 4 * acc.x.toNat + 8 * atomic.toNat

/-- One page fault for each distinct page, in order (R354). -/
def onePerPage (l : List (DWord × Nat × Nat × Bool × Nat)) : List (DWord × Nat × Nat × Bool × Nat) :=
  l.foldl (fun r f => if r.any (fun g => g.1.toNat / 4096 = f.1.toNat / 4096) then r else r ++ [f]) []

/-- A page fault of addresses that failed (R157 point 3): the lowest in TVAL, all lanes that failed in TMASK. Where a walk
waits, so does the instruction. -/
def pageFault (fails : List (Nat × DWord × XlateFail)) (acc : Access) (atomic : Bool) (lanes : Bool) : TrapReq :=
  if fails.any fun f => f.2.2.cause = 0 then { code := 0 } else
  { code := 0x10, tval := (fails.head?.map (·.2.1)).getD 0
    mask := if lanes then some (maskOf fun i => fails.any (·.1 = i)) else none
    faults := onePerPage (fails.map fun f => (f.2.1, f.2.2.cause, f.2.2.level, f.2.2.pin, accBits acc atomic)) }

/-- Translates a list of addresses in order: the physical addresses, what failed, and the state with A and D set for those
that did not (R343). -/
def xlateAll (s : State) (chip : Nat) (c : Context) (acc : Access) : List (Nat × DWord) → List LaneAddr × List (Nat × DWord × XlateFail) × State
  | [] => ([], [], s)
  | (i, va) :: r =>
    match s.translate chip c va acc with
    | .ok (pa, s') =>
      let q := xlateAll s' chip c acc r
      ({ lane := i, va := va, pa := pa } :: q.1, q.2.1, q.2.2)
    | .error e =>
      let q := xlateAll s chip c acc r
      (q.1, (i, va, e) :: q.2.1, q.2.2)

/-- The boot ROM, which takes no write (R17). -/
def isRom (pa : Nat) : Bool := match regionOf pa with | .rom _ => true | _ => false
/-- The checks of a global access before any lane is performed (R157, R242): alignment, translation, backing, stack grant,
class. Helper lanes are not checked; those of a load that fail are left out (R157). The lanes' physical addresses. -/
def checkAccess (s : State) (k : Nat) (ctx : Nat) (c : Context) (acc : Access) (atomic : Bool) (align : Nat)
    (real helper : List (Nat × DWord)) (perLane : Bool) : Except TrapReq (List LaneAddr × List LaneAddr × State) :=
  let chip := drillChip k
  let misaligned := lanesWhere real fun a => a.toNat % align ≠ 0
  let first (p : DWord → Bool) : DWord := ((real.find? fun q => p q.2).map (·.2)).getD 0
  let trap (code : Nat) (m : Mask) (a : DWord) : TrapReq := { code := code, tval := a, mask := if perLane then some m else none }
  if misaligned ≠ 0 then .error (trap 0x0D misaligned (first fun a => a.toNat % align ≠ 0))
  else
    let (addrs, fails, s1) := xlateAll s chip c acc real
    if fails ≠ [] then .error (pageFault fails acc atomic perLane)
    else
      let bad (p : Nat → Bool) : Mask := maskOf fun i => addrs.any fun q => q.lane = i && p q.pa
      let firstBad (p : Nat → Bool) : DWord := ((addrs.find? fun q => p q.pa).map (·.va)).getD 0
      let hole (pa : Nat) := !s.backed pa || (acc.w && isRom pa)
      let denied (pa : Nat) := !s.grantOk ctx pa
      let target (pa : Nat) := atomic && classOf pa = .uncached
      if bad hole ≠ 0 then .error (trap 0x12 (bad hole) (firstBad hole))
      else if bad denied ≠ 0 then .error (trap 0x14 (bad denied) (firstBad denied))
      else if bad target ≠ 0 then .error (trap 0x13 (bad target) (firstBad target))
      else
        let (help, _, s2) := xlateAll s1 chip c acc (helper.filter fun q => q.2.toNat % align = 0)
        .ok (addrs, help.filter fun q => s.backed q.pa && s.grantOk ctx q.pa, s2)

/-- A local address that R156 refuses: rank, reserved bits, or past the end of the region. -/
def localBad (s : State) (g : Group) (size : Nat) (a : Word) : Bool :=
  let c := a.getLsbD 31
  let rank := field a 28 3
  let members := ((tblGet? s.crofts g.croft).map (·.members.length)).getD 1
  field a 19 9 ≠ 0 || (!c && rank ≠ 0) || (c && rank ≥ members) || field a 0 19 + size > g.kcb.ls
/-- The group that a local address names (R156). -/
def localGroup (s : State) (gid : Nat) (g : Group) (a : Word) : Nat :=
  if a.getLsbD 31 then ((tblGet? s.crofts g.croft).bind fun c => c.members[field a 28 3]?).getD gid else gid
/-- Bytes of a ring's range. -/
def ringSpan (r : Ring) : Nat × Nat := (r.base, (field r.word 8 8 + 1) * 2 ^ (field r.word 4 4 + 6))
/-- A range of a group's region touches a ring (R174, R179, R183). -/
def inRing (g : Group) (base size : Nat) (except : Option Nat) : Bool :=
  g.rings.any fun p => some p.1 ≠ except && (let (b, n) := ringSpan p.2; base < b + n && b < base + size)
/-- A range of a group's region touches a stash range. -/
def inStash (g : Group) (base size : Nat) (except : Option Nat) : Bool :=
  g.stash.any fun p => some p.1 ≠ except &&
    (let b := field p.2.word 7 12 * 128; base < b + 128 * (field p.2.word 20 12 + 1) && b < base + size)

/-- The core and byte of its local store that a local address names. -/
def localByte (s : State) (gid : Nat) (g : Group) (a : Word) : Nat × Nat :=
  match s.group? (localGroup s gid g a) with
  | some t => (coreKey t.die t.core, t.lsBase + field a 0 19)
  | none => (coreKey g.die g.core, g.lsBase + field a 0 19)

end Sys2Proof.Machine
end

