-- ==== Sys2Proof/Machine/Integer.lean ====
section
/-!
DEFINITION. Integer and logic instructions, their immediate forms (R96-R104), permutes and the clamp (R113, R114).
-/
namespace Sys2Proof.Machine

/-- NOP has no effect (R37). -/
def execNop (c : Ctl) (s : State) : Host.Outcome State Fault Refusal := issue (.nop c) s fun _ s => noEffect s

/-- A signed value clamped to 32 bits (R96). -/
def clampI (v : Int) : Word := if v < -(2 ^ 31 : Int) then 0x80000000 else if (2 ^ 31 : Int) ≤ v then 0x7FFFFFFF else BitVec.ofInt 32 v
/-- An unsigned value clamped to 32 bits (R96). -/
def clampU (v : Int) : Word := if v < 0 then 0 else if (2 ^ 32 : Int) ≤ v then 0xFFFFFFFF else BitVec.ofInt 32 v

/-- IADD on 32-bit values by FN (R96). -/
def addValue (f : AddFn) (a b : Word) : Word :=
  match f with
  | .i32 | .i64 => a + b
  | .i32Sat => clampI (a.toInt + b.toInt)
  | .ui32Sat => clampU (a.toNat + b.toNat)
/-- ISUB on 32-bit values by FN (R96). -/
def subValue (f : AddFn) (a b : Word) : Word :=
  match f with
  | .i32 | .i64 => a - b
  | .i32Sat => clampI (a.toInt - b.toInt)
  | .ui32Sat => clampU ((a.toNat : Int) - b.toNat)

/-- IADD (R96). -/
def execIadd (f : AddFn) (d : BitVec 8) (a b : Src) (c : Ctl) (s : State) : Host.Outcome State Fault Refusal :=
  if f = .i64 then laneOp64 (.iadd f d a b c) s fun x i => src64 x a i + src64 x b i
  else laneOp32 (.iadd f d a b c) s fun x i => addValue f (src32 x a i) (src32 x b i)
/-- ISUB (R96). -/
def execIsub (f : AddFn) (d : BitVec 8) (a b : Src) (c : Ctl) (s : State) : Host.Outcome State Fault Refusal :=
  if f = .i64 then laneOp64 (.isub f d a b c) s fun x i => src64 x a i - src64 x b i
  else laneOp32 (.isub f d a b c) s fun x i => subValue f (src32 x a i) (src32 x b i)

/-- The signed product of two words, as 64 bits (R96). -/
def mulI (a b : Word) : DWord := a.signExtend 64 * b.signExtend 64
/-- The unsigned product of two words, as 64 bits (R96). -/
def mulU (a b : Word) : DWord := a.setWidth 64 * b.setWidth 64
/-- IMUL by FN, as 64 bits of which a 32-bit form keeps the low half (R96). -/
def mulValue (f : MulFn) (a b : Word) : DWord :=
  match f with
  | .lo | .wideU => mulU a b
  | .hiI => mulI a b >>> 32
  | .hiU => mulU a b >>> 32
  | .wideI => mulI a b
/-- IMUL (R96). -/
def execImul (f : MulFn) (d : BitVec 8) (a b : Src) (c : Ctl) (s : State) : Host.Outcome State Fault Refusal :=
  if f = .wideI ∨ f = .wideU then laneOp64 (.imul f d a b c) s fun x i => mulValue f (src32 x a i) (src32 x b i)
  else laneOp32 (.imul f d a b c) s fun x i => (mulValue f (src32 x a i) (src32 x b i)).setWidth 32
/-- IMAC (R96). -/
def execImac (f : MacFn) (d : BitVec 8) (a b : Src) (c : Ctl) (s : State) : Host.Outcome State Fault Refusal :=
  if f = .wideU then laneOp64 (.imac f d a b c) s fun x i => x.old 2 i + mulU (src32 x a i) (src32 x b i)
  else laneOp32 (.imac f d a b c) s fun x i => (x.old 1 i).setWidth 32 + src32 x a i * src32 x b i

/-- IMNX by FN (R97). -/
def mnxValue (f : MnxFn) (a b : Word) : Word :=
  match f with
  | .minI => if a.slt b then a else b
  | .maxI => if a.slt b then b else a
  | .minU => if a.ult b then a else b
  | .maxU => if a.ult b then b else a
  | .abs => if a.getLsbD 31 then -a else a
  | .neg => -a
/-- IMNX (R97). -/
def execImnx (f : MnxFn) (d : BitVec 8) (a b : Src) (c : Ctl) (s : State) : Host.Outcome State Fault Refusal :=
  laneOp32 (.imnx f d a b c) s fun x i => mnxValue f (src32 x a i) (src32 x b i)

/-- LOG by FN (R98). -/
def logValue (f : LogFn) (a b : Word) : Word :=
  match f with
  | .and => a &&& b | .or => a ||| b | .xor => a ^^^ b | .andn => a &&& ~~~b | .orn => a ||| ~~~b | .xnor => ~~~(a ^^^ b)
/-- LOG (R98). -/
def execLog (f : LogFn) (d : BitVec 8) (a b : Src) (c : Ctl) (s : State) : Host.Outcome State Fault Refusal :=
  laneOp32 (.log f d a b c) s fun x i => logValue f (src32 x a i) (src32 x b i)

/-- SHF by FN, by a count below the width (R98). -/
def shfValue {w : Nat} (f : ShfFn) (a : BitVec w) (n : Nat) : BitVec w :=
  match f with
  | .shl => a <<< n | .shr => a >>> n | .sar => a.sshiftRight n | .rol => a.rotateLeft n | .ror => a.rotateRight n
/-- SHF (R98). -/
def execShf (f : ShfFn) (x64 : Bool) (d : BitVec 8) (a b : Src) (c : Ctl) (s : State) : Host.Outcome State Fault Refusal :=
  if x64 then laneOp64 (.shf f x64 d a b c) s fun x i => shfValue f (src64 x a i) (field (src32 x b i) 0 6)
  else laneOp32 (.shf f x64 d a b c) s fun x i => shfValue f (src32 x a i) (field (src32 x b i) 0 5)

/-- BFX (R99): the field at pos of a length trimmed at bit 31. -/
def bfxValue (sgn : Bool) (a b : Word) : Word :=
  let pos := field b 0 8
  let e := if pos ≥ 32 then 0 else min (field b 8 8) (32 - pos)
  let v := field a pos e
  if e = 0 then 0
  else if sgn && v ≥ 2 ^ (e - 1) then BitVec.ofNat 32 (v + 2 ^ 32 - 2 ^ e) else BitVec.ofNat 32 v
/-- BFX (R99). -/
def execBfx (sgn : Bool) (d : BitVec 8) (a b : Src) (c : Ctl) (s : State) : Host.Outcome State Fault Refusal :=
  laneOp32 (.bfx sgn d a b c) s fun x i => bfxValue sgn (src32 x a i) (src32 x b i)
/-- BFI (R99): bits [pos + e - 1 : pos] of a replaced by the low e bits of b[31:16]. -/
def bfiValue (a b : Word) : Word :=
  let pos := field b 0 5
  putField a pos (min (min (field b 8 5) 16) (32 - pos)) (field b 16 16)
/-- BFI (R99). -/
def execBfi (d : BitVec 8) (a b : Src) (c : Ctl) (s : State) : Host.Outcome State Fault Refusal :=
  laneOp32 (.bfi d a b c) s fun x i => bfiValue (src32 x a i) (src32 x b i)

/-- The places of the set bits of a word, ascending. -/
def setBits (a : Word) : List Nat := (List.range 32).filter a.getLsbD
/-- BIT by FN (R100). -/
def bitValue (f : BitFn) (a : Word) : Word :=
  match f with
  | .popc => BitVec.ofNat 32 (setBits a).length
  | .clz => BitVec.ofNat 32 (match (setBits a).getLast? with | some j => 31 - j | none => 32)
  | .ctz => BitVec.ofNat 32 ((setBits a).head?.getD 32)
  | .brev => (BitVec.ofBoolListLE ((List.range 32).map fun j => a.getLsbD (31 - j))).setWidth 32
  | .ffs => match (setBits a).getLast? with | some j => BitVec.ofNat 32 j | none => 0xFFFFFFFF
/-- BIT (R100). -/
def execBit (f : BitFn) (d : BitVec 8) (a : Src) (c : Ctl) (s : State) : Host.Outcome State Fault Refusal :=
  laneOp32 (.bit f d a c) s fun x i => bitValue f (src32 x a i)

/-- LEA (R101). -/
def execLea (sh : BitVec 3) (d : BitVec 8) (a b : Src) (c : Ctl) (s : State) : Host.Outcome State Fault Refusal :=
  laneOp64 (.lea sh d a b c) s fun x i => src64 x a i + ((src32 x b i).signExtend 64 <<< sh.toNat)

/-- The conditions of ICMP (R102). -/
def cmpValue (f : CmpFn) (u : Bool) (a b : Word) : Bool :=
  let lt := if u then a.ult b else a.slt b
  match f with
  | .eq => a = b | .ne => a ≠ b | .lt => lt | .le => lt || a = b | .gt => !(lt || a = b) | .ge => !lt
/-- A Boolean as a lane's value. -/
def bit01 (p : Bool) : Word := if p then 1 else 0
/-- ICMP (R102). -/
def execIcmp (f : CmpFn) (u : Bool) (d : BitVec 8) (a b : Src) (c : Ctl) (s : State) : Host.Outcome State Fault Refusal :=
  laneOp32 (.icmp f u d a b c) s fun x i => bit01 (cmpValue f u (src32 x a i) (src32 x b i))
/-- SEL (R103). -/
def execSel (k : BitVec 3) (d : BitVec 8) (a b : Src) (c : Ctl) (s : State) : Host.Outcome State Fault Refusal :=
  laneOp32 (.sel k d a b c) s fun x i => if inMask (x.d.kAt k.toNat) i then src32 x a i else src32 x b i
/-- MOV (R103). -/
def execMov (w64 : Bool) (d : BitVec 8) (a : Src) (c : Ctl) (s : State) : Host.Outcome State Fault Refusal :=
  if w64 then laneOp64 (.mov w64 d a c) s fun x i => src64 x a i
  else laneOp32 (.mov w64 d a c) s fun x i => src32 x a i
/-- KOP by FN, on predicates read as 0 or 1 (R103). -/
def kopValue (f : KopFn) (a b : Word) : Word :=
  match f with
  | .and => a &&& b | .or => a ||| b | .xor => a ^^^ b | .andn => a &&& (b ^^^ 1) | .not => a ^^^ 1
/-- KOP (R103). -/
def execKop (f : KopFn) (d : BitVec 8) (a b : Src) (c : Ctl) (s : State) : Host.Outcome State Fault Refusal :=
  laneOp32 (.kop f d a b c) s fun x i => kopValue f (src32 x a i) (src32 x b i)

/-- IADDI (R104). -/
def execIaddi (d : BitVec 8) (a : Src) (imm : BitVec 16) (c : Ctl) (s : State) : Host.Outcome State Fault Refusal :=
  laneOp32 (.iaddi d a imm c) s fun x i => src32 x a i + imm.signExtend 32
/-- ANDI (R104). -/
def execAndi (d : BitVec 8) (a : Src) (imm : BitVec 16) (c : Ctl) (s : State) : Host.Outcome State Fault Refusal :=
  laneOp32 (.andi d a imm c) s fun x i => src32 x a i &&& imm.setWidth 32
/-- ORI (R104). -/
def execOri (d : BitVec 8) (a : Src) (imm : BitVec 16) (c : Ctl) (s : State) : Host.Outcome State Fault Refusal :=
  laneOp32 (.ori d a imm c) s fun x i => src32 x a i ||| imm.setWidth 32
/-- XORI (R104). -/
def execXori (d : BitVec 8) (a : Src) (imm : BitVec 16) (c : Ctl) (s : State) : Host.Outcome State Fault Refusal :=
  laneOp32 (.xori d a imm c) s fun x i => src32 x a i ^^^ imm.setWidth 32
/-- SHLI (R104). -/
def execShli (d : BitVec 8) (a : Src) (imm : BitVec 16) (c : Ctl) (s : State) : Host.Outcome State Fault Refusal :=
  laneOp32 (.shli d a imm c) s fun x i => src32 x a i <<< field imm 0 5
/-- SHRI (R104). -/
def execShri (d : BitVec 8) (a : Src) (imm : BitVec 16) (c : Ctl) (s : State) : Host.Outcome State Fault Refusal :=
  laneOp32 (.shri d a imm c) s fun x i => src32 x a i >>> field imm 0 5
/-- SARI (R104). -/
def execSari (d : BitVec 8) (a : Src) (imm : BitVec 16) (c : Ctl) (s : State) : Host.Outcome State Fault Refusal :=
  laneOp32 (.sari d a imm c) s fun x i => (src32 x a i).sshiftRight (field imm 0 5)
/-- MOVIL (R104). -/
def execMovil (d : BitVec 8) (imm : BitVec 16) (c : Ctl) (s : State) : Host.Outcome State Fault Refusal :=
  laneOp32 (.movil d imm c) s fun _ _ => imm.setWidth 32
/-- MOVIH keeps the low half of DST (R104). -/
def execMovih (d : BitVec 8) (imm : BitVec 16) (c : Ctl) (s : State) : Host.Outcome State Fault Refusal :=
  laneOp32 (.movih d imm c) s fun x i => imm ++ (x.old 1 i).setWidth 16
/-- IMULI (R104). -/
def execImuli (d : BitVec 8) (a : Src) (imm : BitVec 16) (c : Ctl) (s : State) : Host.Outcome State Fault Refusal :=
  laneOp32 (.imuli d a imm c) s fun x i => src32 x a i * imm.signExtend 32

/-- One byte of a permute by its nibble (R113). -/
def prmtByte (a : Word) (nib : Nat) : Byte :=
  let b : Byte := a.extractLsb' (nib % 4 * 8) 8
  if nib ≥ 8 then 0 else if nib ≥ 4 then (if b.getLsbD 7 then 0xFF else 0) else b
/-- The permute of a word by a selector (R113). -/
def prmtValue (a : Word) (sel : BitVec 16) : Word := ofBytes 32 ((List.range 4).map fun k => prmtByte a (field sel (4 * k) 4))
/-- PRMT (R113). -/
def execPrmt (d : BitVec 8) (a b : Src) (c : Ctl) (s : State) : Host.Outcome State Fault Refusal :=
  laneOp32 (.prmt d a b c) s fun x i => prmtValue (src32 x a i) ((src32 x b i).setWidth 16)
/-- PRMTI (R113). -/
def execPrmti (d : BitVec 8) (a : Src) (imm : BitVec 16) (c : Ctl) (s : State) : Host.Outcome State Fault Refusal :=
  laneOp32 (.prmti d a imm c) s fun x i => prmtValue (src32 x a i) imm

end Sys2Proof.Machine
end

