-- ==== Sys2Proof/Machine/Float.lean ====
section
/-!
DEFINITION. Floating-point arithmetic on 32-bit and packed values (R105-R110), the clamp (R114), VDOT with MXSC (R115-R117),
special functions and division (R118-R122).
-/
namespace Sys2Proof.Machine

/-- A value and flags as a lane's result. -/
def fpRes (r : Nat × BitVec 5) : DWord × BitVec 5 := (BitVec.ofNat 64 r.1, r.2)
/-- The rounding mode that FN selects (R35). -/
def Issue.mode (x : Issue) (m : Rnd) : RMode := modeOf m x.d.rmode 0
/-- The mode of RMODE, which the I-format forms round by (R34). -/
def Issue.rmode (x : Issue) : RMode := rmodeOf x.d.rmode
/-- A 32-bit source as a number. -/
def srcN (x : Issue) (u : Src) (i : Nat) : Nat := (src32 x u i).toNat
/-- The old value of DST as a number. -/
def Issue.oldN (x : Issue) (i : Nat) : Nat := (x.old 1 i).toNat % 2 ^ 32
/-- A BF16 immediate as FP32 (R34). -/
def immF32 (imm : BitVec 16) : Nat := imm.toNat * 65536

/-- FADD.F32 (R105). -/
def execFaddF32 (m : Rnd) (d : BitVec 8) (a b : Src) (c : Ctl) (s : State) : Host.Outcome State Fault Refusal :=
  laneOp (.faddF32 m d a b c) s 1 fun x i => fpRes (fpAdd fmtF32 (x.mode m) (srcN x a i) (srcN x b i))
/-- FSUB.F32 (R105). -/
def execFsubF32 (m : Rnd) (d : BitVec 8) (a b : Src) (c : Ctl) (s : State) : Host.Outcome State Fault Refusal :=
  laneOp (.fsubF32 m d a b c) s 1 fun x i => fpRes (fpAdd fmtF32 (x.mode m) (srcN x a i) (fpNeg fmtF32 (srcN x b i)))
/-- FMUL.F32 (R105). -/
def execFmulF32 (m : Rnd) (d : BitVec 8) (a b : Src) (c : Ctl) (s : State) : Host.Outcome State Fault Refusal :=
  laneOp (.fmulF32 m d a b c) s 1 fun x i => fpRes (fpMul fmtF32 (x.mode m) (srcN x a i) (srcN x b i))
/-- FMAC.F32 (R105). -/
def execFmacF32 (m : Rnd) (d : BitVec 8) (a b : Src) (c : Ctl) (s : State) : Host.Outcome State Fault Refusal :=
  laneOp (.fmacF32 m d a b c) s 1 fun x i => fpRes (fpFma fmtF32 (x.mode m) (x.oldN i) (srcN x a i) (srcN x b i))
/-- FADDI.F32 (R106). -/
def execFaddiF32 (d : BitVec 8) (a : Src) (imm : BitVec 16) (c : Ctl) (s : State) : Host.Outcome State Fault Refusal :=
  laneOp (.faddiF32 d a imm c) s 1 fun x i => fpRes (fpAdd fmtF32 x.rmode (srcN x a i) (immF32 imm))
/-- FMULI.F32 (R106). -/
def execFmuliF32 (d : BitVec 8) (a : Src) (imm : BitVec 16) (c : Ctl) (s : State) : Host.Outcome State Fault Refusal :=
  laneOp (.fmuliF32 d a imm c) s 1 fun x i => fpRes (fpMul fmtF32 x.rmode (srcN x a i) (immF32 imm))
/-- FMACI.F32 (R106). -/
def execFmaciF32 (d : BitVec 8) (a : Src) (imm : BitVec 16) (c : Ctl) (s : State) : Host.Outcome State Fault Refusal :=
  laneOp (.fmaciF32 d a imm c) s 1 fun x i => fpRes (fpFma fmtF32 x.rmode (x.oldN i) (srcN x a i) (immF32 imm))
/-- FMNX.F32 (R107). -/
def execFmnxF32 (f : MnmFn) (d : BitVec 8) (a b : Src) (c : Ctl) (s : State) : Host.Outcome State Fault Refusal :=
  laneOp (.fmnxF32 f d a b c) s 1 fun x i => fpRes (fpMnm fmtF32 f (srcN x a i) (srcN x b i))
/-- FCMP.F32 (R108). -/
def execFcmpF32 (f : FcmpFn) (d : BitVec 8) (a b : Src) (c : Ctl) (s : State) : Host.Outcome State Fault Refusal :=
  laneOp (.fcmpF32 f d a b c) s 1 fun x i => let r := fpCmp f (srcN x a i) (srcN x b i); fpRes (r.1.toNat, r.2)
/-- FSGN by FN (R109). -/
def sgnValue (f : SgnFn) (a b : Word) : Word :=
  match f with
  | .abs => a &&& 0x7FFFFFFF | .neg => a ^^^ 0x80000000 | .cpys => (a &&& 0x7FFFFFFF) ||| (b &&& 0x80000000)
/-- FSGN (R109). -/
def execFsgn (f : SgnFn) (d : BitVec 8) (a b : Src) (c : Ctl) (s : State) : Host.Outcome State Fault Refusal :=
  laneOp32 (.fsgn f d a b c) s fun x i => sgnValue f (src32 x a i) (src32 x b i)
/-- FCLS (R109). -/
def execFcls (d : BitVec 8) (a : Src) (c : Ctl) (s : State) : Host.Outcome State Fault Refusal :=
  laneOp32 (.fcls d a c) s fun x i => BitVec.ofNat 32 (fpClass (srcN x a i))

/-- The element format that X selects (R110). -/
def hFmt (f16 : Bool) : FpFmt := if f16 then fmtF16 else fmtBF16
/-- An operation on both 16-bit elements of its operands, flags ORed (R110). -/
def packed (op : Nat → Nat × BitVec 5) : DWord × BitVec 5 :=
  let lo := op 0
  let hi := op 1
  (BitVec.ofNat 64 (lo.1 + 65536 * hi.1), lo.2 ||| hi.2)
/-- Element j of a packed value. -/
def half (v j : Nat) : Nat := v / 65536 ^ j % 65536
/-- HADD (R110). -/
def execHadd (m : Rnd) (f16 : Bool) (d : BitVec 8) (a b : Src) (c : Ctl) (s : State) : Host.Outcome State Fault Refusal :=
  laneOp (.hadd m f16 d a b c) s 1 fun x i => packed fun j => fpAdd (hFmt f16) (x.mode m) (half (srcN x a i) j) (half (srcN x b i) j)
/-- HMUL (R110). -/
def execHmul (m : Rnd) (f16 : Bool) (d : BitVec 8) (a b : Src) (c : Ctl) (s : State) : Host.Outcome State Fault Refusal :=
  laneOp (.hmul m f16 d a b c) s 1 fun x i => packed fun j => fpMul (hFmt f16) (x.mode m) (half (srcN x a i) j) (half (srcN x b i) j)
/-- HMAC (R110). -/
def execHmac (m : Rnd) (f16 : Bool) (d : BitVec 8) (a b : Src) (c : Ctl) (s : State) : Host.Outcome State Fault Refusal :=
  laneOp (.hmac m f16 d a b c) s 1 fun x i => packed fun j =>
    fpFma (hFmt f16) (x.mode m) (half (x.oldN i) j) (half (srcN x a i) j) (half (srcN x b i) j)
/-- HMNX (R107). -/
def execHmnx (f : MnmFn) (f16 : Bool) (d : BitVec 8) (a b : Src) (c : Ctl) (s : State) : Host.Outcome State Fault Refusal :=
  laneOp (.hmnx f f16 d a b c) s 1 fun x i => packed fun j => fpMnm (hFmt f16) f (half (srcN x a i) j) (half (srcN x b i) j)
/-- HMULI.BF16X2 (R110). -/
def execHmuliBf16x2 (d : BitVec 8) (a : Src) (imm : BitVec 16) (c : Ctl) (s : State) : Host.Outcome State Fault Refusal :=
  laneOp (.hmuliBf16x2 d a imm c) s 1 fun x i => packed fun j => fpMul fmtBF16 x.rmode (half (srcN x a i) j) imm.toNat
/-- HMULI.F16X2 (R110). -/
def execHmuliF16x2 (d : BitVec 8) (a : Src) (imm : BitVec 16) (c : Ctl) (s : State) : Host.Outcome State Fault Refusal :=
  laneOp (.hmuliF16x2 d a imm c) s 1 fun x i => packed fun j => fpMul fmtF16 x.rmode (half (srcN x a i) j) imm.toNat

/-- One lane of CVT (R112): the element read, its conversion, and where it is placed. -/
def cvtLane (x : Issue) (m : Rnd) (sat : Bool) (a : Src) (j : BitVec 3) (p : BitVec 6) (i : Nat) : DWord × BitVec 5 :=
  let sw := cvtSrcWidth p
  let dw := cvtDstWidth p
  let mode := modeOf m x.d.rmode (srNext x.d.srstate (32 * x.d.idx + i) 0)
  let whole := if sw = 64 then (src64 x a i).toNat else srcN x a i
  let e := if dw < 32 then 0 else j.toNat
  let v := if sw < 32 then whole / 2 ^ (sw * e) % 2 ^ sw else whole
  let r := cvtValue p mode sat v
  if dw < 32 then (putField (x.old 1 i) (dw * j.toNat) dw r.1, r.2) else fpRes r
/-- CVT (R111, R112); a stochastic form advances SRSTATE (R58). -/
def execCvt (m : Rnd) (sat : Bool) (d : BitVec 8) (a : Src) (j : BitVec 3) (p : BitVec 6) (c : Ctl) (s : State) :
    Host.Outcome State Fault Refusal :=
  let i : Instr := .cvt m sat d a j p c
  let n := if cvtDstWidth p = 64 then 2 else 1
  if m = .sr then
    issue i s fun x s =>
      let vals : Vector (DWord × BitVec 5) 32 := Vector.ofFn fun l => if inMask x.act l.val then cvtLane x m sat a j p l.val else (0, 0)
      let flags := (List.range 32).filterMap fun l => let f := (vals.getD l (0, 0)).2; if f ≠ 0 then some (l, f) else none
      .ok { s := x.update s fun d => { d with srstate := d.srstate + 0x6D2B79F5 }, attached := true
            lands := [(6, x.landing (x.dest n) x.act (vals.map (·.1)) flags)] }
  else laneOp i s n fun x l => cvtLane x m sat a j p l

/-- One element of QCLMP: NaN gives 0x7F; otherwise min(max(x, lo), hi) (R114). -/
def clampE4M3 (x lo hi : Nat) : Nat :=
  let f := fmtE4M3
  if f.isNan x then 0x7F
  else
    let t := if f.key x < f.key lo then lo else x
    if f.key hi < f.key t then hi else t
/-- QCLMP (R114). -/
def execQclmp (d : BitVec 8) (a : Src) (imm : BitVec 16) (c : Ctl) (s : State) : Host.Outcome State Fault Refusal :=
  laneOp32 (.qclmp d a imm c) s fun x i =>
    ofBytes 32 ((List.range 4).map fun j => BitVec.ofNat 8 (clampE4M3 (field (src32 x a i) (8 * j) 8) (field imm 0 8) (field imm 8 8)))

/-- MXSC (R116): byte FN of lanes 0, 8, 16 and 24 into the blocks of MXSL; an absent lane supplies 0. -/
def execMxsc (bs : BitVec 2) (a : Src) (c : Ctl) (s : State) : Host.Outcome State Fault Refusal :=
  issue (.mxsc bs a c) s fun x s =>
    let present := presentLanes x.g.g x.d.idx
    let byte (j : Nat) : Byte := if inMask present (8 * j) then (src32 x a (8 * j)).extractLsb' (8 * bs.toNat) 8 else 0
    .ok { s := s, attached := true
          lands := [(4, { x.landing .scale 0xFFFFFFFF (splat ((ofBytes 32 ((List.range 4).map byte)).setWidth 64)) [] with latch := none })] }

/-- One lane of VDOT (R117). -/
def vdotLane (f : VdotFn) (mxbase mxsl : Word) (i d a b : Nat) : Nat × BitVec 5 :=
  let sum (w : Nat) : Int := ((List.range 4).map fun e => elemInt a w e * elemInt b w e).sum
  let j := i / 8
  let mx (w : Nat) : Nat × BitVec 5 :=
    mxStep d (field mxsl (8 * j) 4) (field mxsl (8 * j + 4) 4) (signedField (field mxbase 0 8) 8) (signedField (field mxbase 8 8) 8) (sum w)
  match f with
  | .mx8 => mx 8
  | .mx6 => mx 6
  | .mx4 => mx 4
  | .i8 => ((((d : Int) + sum 8) % (2 ^ 32 : Nat)).toNat, 0)
/-- VDOT (R117). -/
def execVdot (f : VdotFn) (d : BitVec 8) (a b : Src) (c : Ctl) (s : State) : Host.Outcome State Fault Refusal :=
  laneOp (.vdot f d a b c) s 1 fun x i => fpRes (vdotLane f x.d.mxbase x.d.mxsl i (x.oldN i) (srcN x a i) (srcN x b i))

/-- SFU.F32 (R118). -/
def execSfuF32 (f : SfuFn) (d : BitVec 8) (a : Src) (c : Ctl) (s : State) : Host.Outcome State Fault Refusal :=
  slowOp (.sfuF32 f d a c) s fun x i => fpRes (sfuValue f x.rmode (srcN x a i))
/-- SFU.BF16X2 (R120). -/
def execSfuBf16x2 (f : BsfuFn) (d : BitVec 8) (a : Src) (c : Ctl) (s : State) : Host.Outcome State Fault Refusal :=
  slowOp (.sfuBf16x2 f d a c) s fun x i => packed fun j => bsfuValue f (half (srcN x a i) j)

/-- IDIV by FN (R121): truncation toward zero, the remainder with the sign of the dividend. -/
def divValue (f : DivFn) (a b : Word) : Word :=
  match f with
  | .divI => if b = 0 then 0xFFFFFFFF else BitVec.ofInt 32 (a.toInt.tdiv b.toInt)
  | .divU => if b = 0 then 0xFFFFFFFF else BitVec.ofNat 32 (a.toNat / b.toNat)
  | .remI => if b = 0 then a else BitVec.ofInt 32 (a.toInt.tmod b.toInt)
  | .remU => if b = 0 then a else BitVec.ofNat 32 (a.toNat % b.toNat)
/-- IDIV (R121). -/
def execIdiv (f : DivFn) (d : BitVec 8) (a b : Src) (c : Ctl) (s : State) : Host.Outcome State Fault Refusal :=
  slowOp (.idiv f d a b c) s fun x i => ((divValue f (src32 x a i) (src32 x b i)).setWidth 64, 0)
/-- FDIV.F32 (R122). -/
def execFdivF32 (m : Rnd) (d : BitVec 8) (a b : Src) (c : Ctl) (s : State) : Host.Outcome State Fault Refusal :=
  slowOp (.fdivF32 m d a b c) s fun x i => fpRes (fpDiv fmtF32 (x.mode m) (srcN x a i) (srcN x b i))

end Sys2Proof.Machine
end

