-- ==== Sys2Proof/Machine/Exchange.lean ====
section
/-!
DEFINITION. Exchange between lanes, votes and reductions (R138-R141), indexed registers (R142) and tiles (R143-R148).
-/
namespace Sys2Proof.Machine

/-- The source lane of LXCH by FN (R138). -/
def lxchLane (f : LxchFn) (n i : Nat) : Nat :=
  match f with
  | .from => n | .back => (i + 32 - n) % 32 | .ahead => (i + n) % 32 | .flip => i ^^^ n
/-- A lane's SRC1 as another lane reads it; an absent lane supplies zero (R138). -/
def otherLane (x : Issue) (a : Src) (j : Nat) : Word := if inMask (presentLanes x.g.g x.d.idx) j then src32 x a j else 0
/-- LXCH (R138). -/
def execLxch (f : LxchFn) (d : BitVec 8) (a b : Src) (c : Ctl) (s : State) : Host.Outcome State Fault Refusal :=
  laneOp32 (.lxch f d a b c) s fun x i => otherLane x a (lxchLane f (field (src32 x b i) 0 5) i)
/-- QX (R139). -/
def execQx (f : QxFn) (d : BitVec 8) (a b : Src) (c : Ctl) (s : State) : Host.Outcome State Fault Refusal :=
  laneOp32 (.qx f d a b c) s fun x i =>
    src32 x a (match f with | .h => i ^^^ 1 | .v => i ^^^ 2 | .d => i ^^^ 3 | .bc => i / 4 * 4 + field (src32 x b i) 0 2)

/-- Lanes that count for VOTE and REDX (R140). -/
def Issue.counting (x : Issue) : Mask := x.d.counting x.g x.act
/-- VOTE's result over the counting lanes (R140). -/
def voteValue (f : VoteFn) (x : Issue) (a : Src) : Word :=
  let ls := maskLanes x.counting
  let t (i : Nat) : Bool := src32 x a i ≠ 0
  match f with
  | .all => bit01 (ls.all t)
  | .any => bit01 (ls.any t)
  | .ballot => x.counting &&& maskOf t
  | .uni => bit01 (ls.all fun i => src32 x a i = src32 x a (ls.headD 0))
/-- VOTE (R140). -/
def execVote (f : VoteFn) (d : BitVec 8) (a : Src) (c : Ctl) (s : State) : Host.Outcome State Fault Refusal :=
  issue (.vote f d a c) s fun x s =>
    .ok { s := s, attached := true
          lands := [(4, x.landing (x.dest 1) (x.wmask (f = .ballot)) (splat ((voteValue f x a).setWidth 64)) [])] }

/-- One step of REDX and the identity of its form (R141). -/
def redxStep (f : RedxFn) (a b : Nat) : Nat × BitVec 5 :=
  match f with
  | .addI => ((a + b) % 2 ^ 32, 0)
  | .minI => ((mnxValue .minI (BitVec.ofNat 32 a) (BitVec.ofNat 32 b)).toNat, 0)
  | .maxI => ((mnxValue .maxI (BitVec.ofNat 32 a) (BitVec.ofNat 32 b)).toNat, 0)
  | .addF => fpAdd fmtF32 .rne a b
  | .minF => fpMnm fmtF32 .min a b
  | .maxF => fpMnm fmtF32 .max a b
def redxIdentity : RedxFn → Nat
  | .addI => 0 | .minI => 0x7FFFFFFF | .maxI => 0x80000000 | .addF => 0x80000000 | .minF => 0x7F800000 | .maxF => 0xFF800000
/-- One level of the fixed tree: neighbours combine. -/
def redxLevel (f : RedxFn) : List Nat → List Nat × BitVec 5
  | a :: b :: r =>
    let (v, fl) := redxStep f a b
    let (vs, fs) := redxLevel f r
    (v :: vs, fl ||| fs)
  | l => (l, 0)
/-- REDX (R141): five levels over the lanes in order. -/
def redxValue (f : RedxFn) (l : List Nat) : Nat × BitVec 5 :=
  let r := (List.range 5).foldl (fun (r : List Nat × BitVec 5) _ => let q := redxLevel f r.1; (q.1, r.2 ||| q.2)) (l, 0)
  (r.1.headD 0, r.2)
/-- REDX (R141): the flags go to every active lane. -/
def execRedx (f : RedxFn) (d : BitVec 8) (a : Src) (c : Ctl) (s : State) : Host.Outcome State Fault Refusal :=
  issue (.redx f d a c) s fun x s =>
    let l := (List.range 32).map fun i => if inMask x.counting i then srcN x a i else redxIdentity f
    let (v, fl) := redxValue f l
    let flags := if fl = 0 then [] else (maskLanes x.act).map fun i => (i, fl)
    .ok { s := s, attached := true, lands := [(8, x.landing (x.dest 1) (x.wmask true) (splat (BitVec.ofNat 64 v)) flags)] }

/-- The lanes whose computed index reaches the declared count (R142). -/
def badIndex (x : Issue) (a : Src) (base : Nat) : Bool := (maskLanes x.act).any fun i => !vNamed x.d x.g (base + srcN x a i) 1
/-- VGETI (R142). -/
def execVgeti (d : BitVec 8) (a : Src) (imm : BitVec 16) (c : Ctl) (s : State) : Host.Outcome State Fault Refusal :=
  issue (.vgeti d a imm c) s fun x s =>
    if badIndex x a (field imm 0 8) then .trap { code := 0x04 }
    else startOp x s (.vget (field imm 0 8) (lanesOf fun i => src32 x a i)) (x.dest 1) x.act
/-- VPUTI (R142). -/
def execVputi (d : BitVec 8) (a : Src) (imm : BitVec 16) (c : Ctl) (s : State) : Host.Outcome State Fault Refusal :=
  issue (.vputi d a imm c) s fun x s =>
    if badIndex x a (field imm 0 8) then .trap { code := 0x04 }
    else startOp x s (.vput (field imm 0 8) (lanesOf fun i => src32 x a i) (lanesOf fun i => lane (x.d.vAt (vStore x.d.sysMode d.toNat)) i)) .nothing x.act

/-- Rows, columns and element size of a shape word (R143). -/
def tileRows (w : Word) : Nat := field w 0 5
def tileCols (w : Word) : Nat := field w 8 5
def tileEs (w : Word) : Bool := w.getLsbD 16
/-- An element, narrowed to the tile's element size (R147). -/
def tileElem (w v : Word) : Word := if tileEs w then v &&& 0xFFFF else v
/-- A position that a tile of a shape holds: there are 16 by 16 of them, whatever TSHAPE says (R143; log 28, DEDUCED). -/
def inShape (w : Word) (r c : Nat) : Bool := r < min 16 (tileRows w) && c < min 16 (tileCols w)
/-- Element (r, c) of a tile as its shape shows it: narrowed to the element size, and 0 outside the shape (R147, R149). -/
def Tile.at_ (t : Tile) (r c : Nat) : Word := if inShape t.shape r c then tileElem t.shape (tblGet t.elems (16 * r + c) 0) else 0
/-- The elements of a tile that its shape shows, under 16 r + c. -/
def Tile.shown (t : Tile) : List (Nat × Word) := (List.range 256).map fun j => (j, t.at_ (j / 16) (j % 16))
/-- A landing of tile contents (R145); it writes no latch. -/
def Issue.tileLanding (x : Issue) (t : BitVec 3) (shape : Option Word) (clean : Bool) (elems : List (Nat × Word)) : Nat × Landing :=
  (4, { x.landing (.tile t.toNat shape clean elems) 0 (splat 0) [] with latch := none, noReg := false })

/-- TCFG (R146). -/
def execTcfg (t : BitVec 3) (a : Src) (c : Ctl) (s : State) : Host.Outcome State Fault Refusal :=
  issue (.tcfg t a c) s fun x s =>
    let w := srcU x a
    if field w 0 5 = 0 && w &&& 0xFFFEE0E0 = 0 then .ok { s := s, attached := true, lands := [x.tileLanding t (some 0) true []] }
    else if shapeOk w then .ok { s := s, attached := true, lands := [x.tileLanding t (some w) false []] }
    else .trap { code := 0x0B }
/-- TMVR (R147). -/
def execTmvr (t : BitVec 3) (a b : Src) (c : Ctl) (s : State) : Host.Outcome State Fault Refusal :=
  issue (.tmvr t a b c) s fun x s =>
    let w := (x.d.tile t.toNat).shape
    let r := (srcU x b).toNat
    if tileRows w = 0 then .trap { code := 0x0A }
    else if r ≥ tileRows w then .trap { code := 0x0C }
    else .ok { s := s, attached := true
               lands := [x.tileLanding t none false
                 (((maskLanes x.act).filter (inShape w r ·)).map fun j => (16 * r + j, tileElem w (src32 x a j)))] }
/-- TMVC (R147). -/
def execTmvc (t : BitVec 3) (a b : Src) (c : Ctl) (s : State) : Host.Outcome State Fault Refusal :=
  issue (.tmvc t a b c) s fun x s =>
    let w := (x.d.tile t.toNat).shape
    let k := (srcU x b).toNat
    if tileRows w = 0 then .trap { code := 0x0A }
    else if k ≥ tileCols w then .trap { code := 0x0C }
    else .ok { s := s, attached := true
               lands := [x.tileLanding t none false
                 (((maskLanes x.act).filter (inShape w · k)).map fun i => (16 * i + k, tileElem w (src32 x a i)))] }
/-- TRDR (R147). -/
def execTrdr (d : BitVec 8) (u : BitVec 3) (b : Src) (c : Ctl) (s : State) : Host.Outcome State Fault Refusal :=
  issue (.trdr d u b c) s fun x s =>
    let t := x.d.tile u.toNat
    let r := (srcU x b).toNat
    if tileRows t.shape = 0 then .trap { code := 0x0A }
    else if r ≥ tileRows t.shape then .trap { code := 0x0C }
    else .ok { s := s, attached := true
               lands := [(4, x.landing (x.dest 1) x.act (lanesOf fun j => (t.at_ r j).setWidth 64) [])] }
/-- TRDC (R147). -/
def execTrdc (d : BitVec 8) (u : BitVec 3) (b : Src) (c : Ctl) (s : State) : Host.Outcome State Fault Refusal :=
  issue (.trdc d u b c) s fun x s =>
    let t := x.d.tile u.toNat
    let k := (srcU x b).toNat
    if tileRows t.shape = 0 then .trap { code := 0x0A }
    else if k ≥ tileCols t.shape then .trap { code := 0x0C }
    else .ok { s := s, attached := true
               lands := [(4, x.landing (x.dest 1) x.act (lanesOf fun i => (t.at_ i k).setWidth 64) [])] }
/-- TOP.ZERO (R148): every element becomes zero as it lands, and the shape that the tile has then is kept. -/
def execTopZero (t : BitVec 3) (c : Ctl) (s : State) : Host.Outcome State Fault Refusal :=
  issue (.topZero t c) s fun x s =>
    if tileRows (x.d.tile t.toNat).shape = 0 then .trap { code := 0x0A }
    else .ok { s := s, attached := true, lands := [x.tileLanding t none false ((List.range 256).map fun j => (j, 0))] }
/-- TOP.TRANS (R148). -/
def execTopTrans (t u : BitVec 3) (c : Ctl) (s : State) : Host.Outcome State Fault Refusal :=
  issue (.topTrans t u c) s fun x s =>
    let y := x.d.tile u.toNat
    let w := putField (putField y.shape 0 5 (tileCols y.shape)) 8 5 (tileRows y.shape)
    if tileRows y.shape = 0 then .trap { code := 0x0A }
    else .ok { s := s, attached := true
               lands := [x.tileLanding t (some w) false (y.shown.map fun p => (p.1 % 16 * 16 + p.1 / 16, p.2))] }
/-- TOP.REL (R148). -/
def execTopRel (t : BitVec 3) (c : Ctl) (s : State) : Host.Outcome State Fault Refusal :=
  issue (.topRel t c) s fun x s => .ok { s := s, attached := true, lands := [x.tileLanding t (some 0) true []] }
/-- TOP.COPY (R148). -/
def execTopCopy (t u : BitVec 3) (c : Ctl) (s : State) : Host.Outcome State Fault Refusal :=
  issue (.topCopy t u c) s fun x s =>
    let y := x.d.tile u.toNat
    if tileRows y.shape = 0 then .trap { code := 0x0A }
    else .ok { s := s, attached := true, lands := [x.tileLanding t (some y.shape) false y.shown] }

end Sys2Proof.Machine
end

