-- ==== Sys2Proof/Machine/Access.lean ====
section
/-!
DEFINITION. Loads, stores, atomics, reductions, prefetch, cache maintenance and fences as they issue (R156-R170, R178, R343).
-/
namespace Sys2Proof.Machine

/-- Bytes of an access by FN (R160, R161). -/
def ldBytes : LdFn → Nat
  | .b | .bu => 1 | .h | .hu => 2 | .w => 4 | .d => 8 | .q => 16
def stBytes : StFn → Nat
  | .b => 1 | .h => 2 | .w => 4 | .d => 8 | .q => 16
/-- Registers that the data of an access fills (R160, R161). -/
def regsOf (bytes : Nat) : Nat := if bytes ≤ 4 then 1 else bytes / 4

/-- The context of the issuing drill. -/
def withCtx (x : Issue) (s : State) (f : Context → Eff) : Eff :=
  match s.ctx? x.g.ctx with
  | some c => f c
  | none => noEffect s
/-- Active lanes that are no helper lanes, with their addresses. -/
def realAddrs (x : Issue) (f : Nat → DWord) : List (Nat × DWord) := (maskLanes x.counting).map fun i => (i, f i)
/-- Active helper lanes, with their addresses. -/
def helperAddrs (x : Issue) (f : Nat → DWord) : List (Nat × DWord) :=
  (maskLanes (x.act &&& ~~~(realLanes x.g.g x.d.idx))).map fun i => (i, f i)

/-- LD (R160). -/
def execLd (f : LdFn) (d : BitVec 8) (a : Src) (ofs : BitVec 10) (c : Ctl) (s : State) : Host.Outcome State Fault Refusal :=
  issue (.ld f d a ofs c) s fun x s => withCtx x s fun cx =>
    let at_ := globalAddr x a ofs (ldBytes f)
    match checkAccess s x.k x.g.ctx cx { r := true } false (ldBytes f) (realAddrs x at_) (helperAddrs x at_) true with
    | .error t => .trap t
    | .ok (real, help, s) => startOp x s (.load f (real ++ help)) (x.dest (regsOf (ldBytes f))) x.act

/-- The bytes that a lane stores: the low bytes of the data registers (R161). -/
def storeData (x : Issue) (bytes i : Nat) : List Byte := ((x.data (regsOf bytes) i).flatMap wordBytes).take bytes
/-- ST (R161). -/
def execSt (f : StFn) (d : BitVec 8) (a : Src) (ofs : BitVec 10) (c : Ctl) (s : State) : Host.Outcome State Fault Refusal :=
  issue (.st f d a ofs c) s fun x s => withCtx x s fun cx =>
    match checkAccess s x.k x.g.ctx cx { w := true } false (stBytes f) (realAddrs x (globalAddr x a ofs (stBytes f))) [] true with
    | .error t => .trap t
    | .ok (real, _, s) => enqueue x s (.store (real.map fun l => (l, storeData x (stBytes f) l.lane)))

/-- The stash entry of an offset is filled: it is not INVALID (R178). -/
def stashFilled (g : Group) (ofs : Nat) : Bool :=
  match stashAt g ofs with
  | none => false
  | some (r, l) => ((tblGet? g.stash r).bind fun st => tblGet? st.entries l).isSome
/-- The virtual address of a stash entry's line. -/
def stashVa (g : Group) (r l : Nat) : DWord := ((tblGet? g.stash r).map (·.v)).getD 0 + BitVec.ofNat 64 (128 * l)
/-- Fills the stash entry of an offset: its line is taken by the die's L2, with ownership for a store (R178); it is DIRTY once
the store has left the queue. -/
def fillStash (s : State) (gid : Nat) (g : Group) (r l pline : Nat) (own : Bool) : State :=
  let chip := coreChip (g.die * 128)
  let s := if own then s.ownLine chip pline else s.shareLine chip pline
  s.modGroup gid fun g => { g with stash := tblMod g.stash r fun st => { st with entries := tblSet st.entries l (pline, false) } }

/-- The checks of a local access (R156, R157): alignment, LS_BOUND, LS_CONFIG, then the stash entries that it touches, each
translated, checked and filled (R178). -/
def checkLocal (s : State) (x : Issue) (cx : Context) (acc : Access) (align : Nat) (addrs : List (Nat × Word)) : Except TrapReq State :=
  let mask (p : Word → Bool) : Mask := maskOf fun i => addrs.any fun q => q.1 = i && p q.2
  let trap (code : Nat) (p : Word → Bool) : TrapReq :=
    { code := code, mask := some (mask p), tval := (((addrs.find? fun (q : Nat × Word) => p q.2).map fun (q : Nat × Word) => q.2).getD 0).setWidth 64 }
  let odd (a : Word) := a.toNat % align ≠ 0
  let bound (a : Word) := localBad s x.g align a
  let config (a : Word) := a.getLsbD 31 && (match s.group? (localGroup s x.d.gid x.g a) with
    | some t => (stashAt t (field a 0 19)).isSome
    | none => false)
  if mask odd ≠ 0 then .error (trap 0x0D odd)
  else if mask bound ≠ 0 then .error (trap 0x0E bound)
  else if mask config ≠ 0 then .error (trap 0x0F config)
  else
    let touch := addrs.filterMap fun q =>
      if q.2.getLsbD 31 || stashFilled x.g (field q.2 0 19) then none else (stashAt x.g (field q.2 0 19)).map fun e => (q.1, e)
    let vas := touch.map fun q => (q.1, stashVa x.g q.2.1 q.2.2)
    match checkAccess s x.k x.g.ctx cx acc acc.w 128 vas [] true with
    | .error t => .error t
    | .ok (real, _, s) =>
      .ok ((touch.zip real).foldl (fun s p => fillStash s x.d.gid x.g p.1.2.1 p.1.2.2 (p.2.pa / 128) acc.w) s)

/-- Lanes of a local access with their local addresses. -/
def localLanes (m : Mask) (f : Nat → Word) : List (Nat × Word) := (maskLanes m).map fun i => (i, f i)
/-- A local address as a lane's access. -/
def localAccess (q : Nat × Word) : LaneAddr := { lane := q.1, va := q.2.setWidth 64, pa := 0 }
/-- LDS (R160); a helper lane whose access would fail receives zero (R157). -/
def execLds (f : LdFn) (d : BitVec 8) (a : Src) (ofs : BitVec 10) (c : Ctl) (s : State) : Host.Outcome State Fault Refusal :=
  issue (.lds f d a ofs c) s fun x s => withCtx x s fun cx =>
    let at_ := localAddr x a ofs (ldBytes f)
    let real := localLanes x.counting at_
    let help := localLanes (x.act &&& ~~~(realLanes x.g.g x.d.idx)) at_
    match checkLocal s x cx { r := true } (ldBytes f) real with
    | .error t => .trap t
    | .ok s =>
      let (fine, s) := help.foldl (fun (p : List (Nat × Word) × State) q =>
        match checkLocal p.2 x cx { r := true } (ldBytes f) [q] with
        | .ok s => (p.1 ++ [q], s)
        | .error _ => p) ([], s)
      startOp x s (.loadLocal f ((real ++ fine).map localAccess)) (x.dest (regsOf (ldBytes f))) x.act
/-- STS (R161). -/
def execSts (f : StFn) (d : BitVec 8) (a : Src) (ofs : BitVec 10) (c : Ctl) (s : State) : Host.Outcome State Fault Refusal :=
  issue (.sts f d a ofs c) s fun x s => withCtx x s fun cx =>
    let real := localLanes x.counting (localAddr x a ofs (stBytes f))
    match checkLocal s x cx { w := true } (stBytes f) real with
    | .error t => .trap t
    | .ok s => enqueue x s (.storeLocal (real.map fun q => (localAccess q, storeData x (stBytes f) q.1)))
/-- LDU (R162). -/
def execLdu (f : LduFn) (d : BitVec 8) (a : Src) (ofs : BitVec 10) (c : Ctl) (s : State) : Host.Outcome State Fault Refusal :=
  issue (.ldu f d a ofs c) s fun x s => withCtx x s fun cx =>
    let n := if f = .d then 8 else 4
    if !x.acts then startOp x s .idle .nothing 0
    else match checkAccess s x.k x.g.ctx cx { r := true } false n [(0, globalAddr x a ofs n 0)] [] false with
    | .error t => .trap t
    | .ok (l :: _, _, s) => startOp x s (.loadUniform (f = .d) l) (x.dest (n / 4)) 0xFFFFFFFF
    | .ok ([], _, s) => startOp x s .idle .nothing 0

/-- An atomic operation or a reduction as it issues (R163, R165): n bytes at each lane's address. -/
def atomBody (x : Issue) (s : State) (op : AtomOp) (n : Nat) (isRed : Bool) (a b : Src) : Eff :=
  withCtx x s fun cx =>
    match checkAccess s x.k x.g.ctx cx { r := true, w := true } true n (realAddrs x (src64 x a)) [] true with
    | .error t => .trap t
    | .ok (real, _, s) =>
      let bs : DLanes := lanesOf fun i => src64 x b i
      let b32 : DLanes := lanesOf fun i => (src32 x b i).setWidth 64
      let ds : DLanes := if isRed then splat 0 else lanesOf fun i => x.old (n / 4) i
      let kind : VarKind := .atom op x.i.ctl.ld.toNat real (if n = 8 then bs else b32) ds isRed none
      if isRed then
        let (seq, s) := s.stamp
        .ok { s := s.modDrill x.k fun d => { d with ops := d.ops ++ [{ x.varOp seq kind .nothing 0 with slot := 0, tk1 := 0 }] } }
      else startOp x s kind (x.dest (n / 4)) x.counting
/-- ATOM.I32 (R163). -/
def execAtomI32 (f : AtomFn) (u : Bool) (d : BitVec 8) (a b : Src) (c : Ctl) (s : State) : Host.Outcome State Fault Refusal :=
  issue (.atomI32 f u d a b c) s fun x s => atomBody x s (.int f u false) 4 false a b
/-- ATOM.I64 (R163). -/
def execAtomI64 (f : AtomFn) (u : Bool) (d : BitVec 8) (a b : Src) (c : Ctl) (s : State) : Host.Outcome State Fault Refusal :=
  issue (.atomI64 f u d a b c) s fun x s => atomBody x s (.int f u true) 8 false a b
/-- ATOM.F32 (R163). -/
def execAtomF32 (f : FatomFn) (d : BitVec 8) (a b : Src) (c : Ctl) (s : State) : Host.Outcome State Fault Refusal :=
  issue (.atomF32 f d a b c) s fun x s => atomBody x s (.flt f) 4 false a b
/-- RED.I32's functions among those of ATOM (R165). -/
def redAtom : RedFn → AtomFn
  | .add => .add | .min => .min | .max => .max | .and => .and | .or => .or | .xor => .xor
/-- RED.F32's functions among those of ATOM (R165). -/
def fredAtom : FredFn → FatomFn
  | .add => .add | .min => .min | .max => .max
/-- RED.I32 (R165). -/
def execRedI32 (f : RedFn) (u : Bool) (a b : Src) (c : Ctl) (s : State) : Host.Outcome State Fault Refusal :=
  issue (.redI32 f u a b c) s fun x s => atomBody x s (.int (redAtom f) u false) 4 true a b
/-- RED.F32 (R165). -/
def execRedF32 (f : FredFn) (a b : Src) (c : Ctl) (s : State) : Host.Outcome State Fault Refusal :=
  issue (.redF32 f a b c) s fun x s => atomBody x s (.flt (fredAtom f)) 4 true a b
/-- RED.BF16X2 (R165). -/
def execRedBf16x2 (a b : Src) (c : Ctl) (s : State) : Host.Outcome State Fault Refusal :=
  issue (.redBf16x2 a b c) s fun x s => atomBody x s .pairAdd 4 true a b
/-- ATOMS (R166): an entry of the store queue, and an operation that answers when the entry has left. -/
def execAtoms (f : AtomFn) (u : Bool) (d : BitVec 8) (a b : Src) (c : Ctl) (s : State) : Host.Outcome State Fault Refusal :=
  issue (.atoms f u d a b c) s fun x s => withCtx x s fun cx =>
    let real := localLanes x.counting (src32 x a)
    match checkLocal s x cx { r := true, w := true } 4 real with
    | .error t => .trap t
    | .ok s =>
      let (seq, s) := s.stamp
      let scope := x.i.ctl.ld.toNat
      let kind : SqKind := .atomLocal (.int f u false) scope (real.map localAccess)
        (lanesOf fun i => (src32 x b i).setWidth 64) (lanesOf fun i => x.old 1 i)
      .ok { s := s.modDrill x.k fun d => { d with
              storeQueue := d.storeQueue ++ [{ seq := seq, kind := kind, pc := x.d.pc }]
              ops := d.ops ++ [x.varOp seq (.atomLocal scope none) (x.dest 1) x.counting] }
            attached := true }

/-- The numbers of scopes (R190); CRF and wider invalidate the L1D (R153). -/
def scopeNum : Scope → Nat
  | .drl => 1 | .grp => 2 | .crf => 3 | .die => 4 | .pkg => 5 | .sys => 6
/-- An operation that counts as an earlier access for a fence (R170, R192). -/
def isRead (o : VarOp) : Bool :=
  match o.kind with
  | .load .. | .loadLocal .. | .loadUniform .. | .atomLocal .. => true
  | .atom _ _ _ _ _ isRed got => !(isRed && got.isSome)
  | _ => false
/-- A drill has no outstanding load, ATOM or RED before a stamp: a release waits for them (R170, R192). -/
def Drill.readsDone (d : Drill) (seq : Nat) : Bool := d.ops.all fun o => !isRead o || seq ≤ o.seq
/-- What comes before a stamp is visible at a scope once the queue has come to it: loads, ATOMs and REDs are done, and at SYS the
remote stores are acknowledged (R170, R192, R202). -/
def Drill.relReady (d : Drill) (seq scope : Nat) : Bool := d.readsDone seq && (scope ≠ 6 || d.remoteStores.isEmpty)
/-- A drill has no outstanding load or ATOM before a stamp: an acquire waits for them (R170, R192). -/
def Drill.loadsDone (d : Drill) (seq : Nat) : Bool :=
  d.ops.all fun o => !isRead o || seq ≤ o.seq || (match o.kind with | .atom _ _ _ _ _ isRed _ => isRed | _ => false)
/-- Acquires whose earlier reads have completed take effect: at CRF or wider the L1D is invalidated (R153, R170). -/
def State.settle (s : State) (k : Nat) : State :=
  match s.drill? k with
  | none => s
  | some d =>
    let (ready, wait) := d.acquires.partition fun p => d.loadsDone p.1
    let s := s.setDrill k { d with acquires := wait }
    if ready.any fun p => p.2 ≥ 3 then s.invalL1 (drillCore k) else s
/-- FENCE with kind ACQ (R170). -/
def execFenceAcq (sc : Scope) (c : Ctl) (s : State) : Host.Outcome State Fault Refusal :=
  issue (.fenceAcq sc c) s fun x s =>
    let (seq, s) := s.stamp
    .ok { s := (s.modDrill x.k fun d => { d with acquires := d.acquires ++ [(seq, scopeNum sc)] }).settle x.k }
/-- FENCE with kind REL (R170). -/
def execFenceRel (sc : Scope) (c : Ctl) (s : State) : Host.Outcome State Fault Refusal :=
  issue (.fenceRel sc c) s fun x s => enqueue x s (.fence (scopeNum sc) false)
/-- FENCE with kind AR (R170). -/
def execFenceAr (sc : Scope) (c : Ctl) (s : State) : Host.Outcome State Fault Refusal :=
  issue (.fenceAr sc c) s fun x s => enqueue x s (.fence (scopeNum sc) true)

/-- PREFD (R168): each active lane's line goes into the L2 and the L1D; a lane that would fail is dropped. -/
def execPrefd (a : Src) (ofs : BitVec 10) (c : Ctl) (s : State) : Host.Outcome State Fault Refusal :=
  issue (.prefd a ofs c) s fun x s => withCtx x s fun cx =>
    let one (s : State) (q : Nat × DWord) : State :=
      match s.translate (drillChip x.k) cx q.2 { r := true, prefetch := true } with
      | .error _ => s
      | .ok (pa, s) => if classOf pa = .cacheable && s.backed pa && s.grantOk x.g.ctx pa && s.gateAt (drillChip x.k) false pa = .go && !s.poisoned pa
          then s.fillL1 (drillCore x.k) (pa / 128) else s
    noEffect ((laneAddrs x (globalAddr x a ofs 128)).foldl one s)

/-- A CACHE form (R169): the lanes are checked and translated at issue, and the entry acts when it leaves the queue. -/
def cacheBody (x : Issue) (s : State) (op : Nat) (acc : Access) (a : Src) : Eff :=
  withCtx x s fun cx =>
    match checkAccess s x.k x.g.ctx cx acc false 1 (realAddrs x (src64 x a)) [] true with
    | .error t => .trap t
    | .ok (real, _, s) => enqueue x s (.cache op real)
/-- CACHE.WB (R169). -/
def execCacheWb (a : Src) (c : Ctl) (s : State) : Host.Outcome State Fault Refusal :=
  issue (.cacheWb a c) s fun x s => cacheBody x s 0 { r := true } a
/-- CACHE.INV (R169, R404). -/
def execCacheInv (a : Src) (c : Ctl) (s : State) : Host.Outcome State Fault Refusal :=
  issue (.cacheInv a c) s fun x s => cacheBody x s 1 { w := true } a
/-- CACHE.WBI (R169). -/
def execCacheWbi (a : Src) (c : Ctl) (s : State) : Host.Outcome State Fault Refusal :=
  issue (.cacheWbi a c) s fun x s => cacheBody x s 2 { w := true } a

/-- An operation's lanes of a class. -/
def VarOp.lanesIn (o : VarOp) (c : MemClass) : List LaneAddr :=
  (match o.kind with
  | .load _ l | .atom _ _ l _ _ _ _ | .block l => l
  | .loadUniform _ a => [a]
  | _ => []).filter fun l => classOf l.pa = c
/-- Remote accesses of an outstanding operation. -/
def VarOp.remotes (o : VarOp) : List LaneAddr := o.lanesIn .remote
/-- An entry's lanes of a class. -/
def SqEntry.lanesIn (e : SqEntry) (c : MemClass) : List LaneAddr :=
  match e.kind with
  | .store l => (l.map (·.1)).filter fun q => classOf q.pa = c
  | _ => []
/-- No uncached access of the drill before a stamp is outstanding (R195). -/
def Drill.uncachedDone (d : Drill) (seq : Nat) : Bool :=
  (d.storeQueue.all fun e => seq ≤ e.seq || (e.lanesIn .uncached).isEmpty) && d.ops.all fun o => seq ≤ o.seq || (o.lanesIn .uncached).isEmpty
/-- An ATOM or ATOMS with a scope, which orders like a FENCE.AR before it and a FENCE.ACQ after it (R192). -/
def VarOp.scoped (o : VarOp) : Bool :=
  match o.kind with
  | .atom _ sc _ _ _ isRed _ => sc ≠ 0 && !isRed
  | .atomLocal sc _ => sc ≠ 0
  | _ => false
/-- The answer to a remote lane of an operation (R370): an access whose port is not up fails. -/
def State.remoteLane (s : State) (o : VarOp) (l : LaneAddr) : Option (Option (BitVec 128)) :=
  match tblGet? o.answers l.lane with
  | some a => some a
  | none => if (s.remotePort l.pa).any s.linkUp then none else some none
/-- Nothing before a stamp holds a later access of the drill in the memory path (R170, R192). -/
def Drill.clearFor (d : Drill) (seq : Nat) : Bool :=
  (d.acquires.all fun p => seq < p.1) && (d.ops.all fun o => seq ≤ o.seq || !o.scoped) &&
  d.storeQueue.all fun e => seq ≤ e.seq || (match e.kind with
    | .fence _ ar => !ar
    | .atomLocal _ sc .. => sc = 0
    | _ => true)

end Sys2Proof.Machine
end

