-- ==== Sys2Proof/Decode.lean ====
section
/-!
DEFINITION. Decoding of Furrow words (R23, R24, R32-R34, R37, R38 point 1) and of the Xsvl words of harts (R257, R291,
R311, R326, R357), total on every word, each refusal by name; after it the encoder, from the same tables of the spec.
-/
namespace Sys2Proof

/-- Why a word is refused: R38 point 1 for a Furrow word; `notXsvl` for a hart word outside Xsvl. -/
inductive DecodeError where
  | length | opcode | function | sourceCode | field | notXsvl | illFormed (e : WfError)
deriving DecidableEq, Repr

/-- The fields of a Furrow word (R23, R24): word 0, then TK1, then the 28 bits that the formats divide. -/
structure Fields where
  tk0 : BitVec 4
  e : Bool
  op : BitVec 7
  gn : Bool
  gp : BitVec 3
  dst : BitVec 8
  nw : Bool
  ld : BitVec 3
  sbs : BitVec 3
  nf : Bool
  tk1 : BitVec 4
  lo : BitVec 28
deriving DecidableEq, Repr

/-- The fields of a word of 64 bits, word 0 in the low half (R23). -/
def unpackFields (w : BitVec 64) : Fields where
  tk0 := w.extractLsb' 28 4
  e := w.getLsbD 27
  op := w.extractLsb' 20 7
  gn := w.getLsbD 19
  gp := w.extractLsb' 16 3
  dst := w.extractLsb' 8 8
  nw := w.getLsbD 7
  ld := w.extractLsb' 4 3
  sbs := w.extractLsb' 1 3
  nf := w.getLsbD 0
  tk1 := w.extractLsb' 60 4
  lo := w.extractLsb' 32 28

/-- The word of these fields (R23). -/
def packFields (f : Fields) : BitVec 64 :=
  f.tk1 ++ (f.lo ++ (f.tk0 ++ (BitVec.ofBool f.e ++ (f.op ++ (BitVec.ofBool f.gn ++ (f.gp ++ (f.dst ++
    (BitVec.ofBool f.nw ++ (f.ld ++ (f.sbs ++ BitVec.ofBool f.nf))))))))))

/-- Fields of word 1 by format (R24): SBW, FN, SRC1, SRC2, X of formats V; the offsets of M and B; SBW1, SRC1 and
IMM16 of format I. -/
def Fields.sbw (f : Fields) : BitVec 6 := f.lo.extractLsb' 22 6
def Fields.fn (f : Fields) : BitVec 3 := f.lo.extractLsb' 19 3
def Fields.s1 (f : Fields) : BitVec 9 := f.lo.extractLsb' 10 9
def Fields.s2 (f : Fields) : BitVec 9 := f.lo.extractLsb' 1 9
def Fields.x (f : Fields) : Bool := f.lo.getLsbD 0
def Fields.ofs10 (f : Fields) : BitVec 10 := f.lo.extractLsb' 0 10
def Fields.ofs19 (f : Fields) : BitVec 19 := f.lo.extractLsb' 0 19
def Fields.sbw1 (f : Fields) : BitVec 3 := f.lo.extractLsb' 25 3
def Fields.is1 (f : Fields) : BitVec 9 := f.lo.extractLsb' 16 9
def Fields.imm (f : Fields) : BitVec 16 := f.lo.extractLsb' 0 16

/-- The 28 bits of each format (R24). -/
def loV (sbw : BitVec 6) (fn : BitVec 3) (s1 s2 : BitVec 9) (x : Bool) : BitVec 28 :=
  sbw ++ (fn ++ (s1 ++ (s2 ++ BitVec.ofBool x)))
def loM (sbw : BitVec 6) (fn : BitVec 3) (s1 : BitVec 9) (ofs : BitVec 10) : BitVec 28 := sbw ++ (fn ++ (s1 ++ ofs))
def loB (sbw : BitVec 6) (fn : BitVec 3) (ofs : BitVec 19) : BitVec 28 := sbw ++ (fn ++ ofs)
def loI (sbw1 : BitVec 3) (s1 : BitVec 9) (imm : BitVec 16) : BitVec 28 := sbw1 ++ (s1 ++ imm)

/-- SBW1 as a mask of slots: 0 names none, 1 to 6 name sb1 to sb6, 7 is reserved (R24). -/
def maskOfSlot (n : BitVec 3) : Option (BitVec 6) :=
  match n.toNat with
  | 0 => some 0 | 1 => some 1 | 2 => some 2 | 3 => some 4 | 4 => some 8 | 5 => some 16 | 6 => some 32 | _ => none
/-- The SBW1 code of a mask of at most one slot. -/
def slotOfMask (m : BitVec 6) : BitVec 3 :=
  match m.toNat with
  | 0 => 0 | 1 => 1 | 2 => 2 | 4 => 3 | 8 => 4 | 16 => 5 | 32 => 6 | _ => 7

/-- SRC codes (R32); the reserved codes name nothing. -/
def srcOfCode (n : BitVec 9) : Option Src :=
  if n.toNat < 0x100 then some (.v (n.setWidth 8)) else if n.toNat < 0x140 then some (.s (n.setWidth 6))
  else if n.toNat < 0x148 then some (.l (n.setWidth 3)) else if n = 0x148 then some .zero
  else if n = 0x149 then some .dlane else if n = 0x14A then some .glane else if n = 0x14B then some .drill
  else if 0x150 ≤ n.toNat ∧ n.toNat < 0x158 then some (.k (n.setWidth 3)) else none
/-- The SRC code of a source (R32). -/
def codeOfSrc : Src → BitVec 9
  | .v n => n.setWidth 9
  | .s n => 0x100 ||| n.setWidth 9
  | .l n => 0x140 ||| n.setWidth 9
  | .zero => 0x148 | .dlane => 0x149 | .glane => 0x14A | .drill => 0x14B
  | .k n => 0x150 ||| n.setWidth 9

/-- IADD and ISUB, FN (R37, R96). -/
def AddFn.ofBits (b : BitVec 3) : Option AddFn :=
  match b.toNat with
  | 0 => some .i32 | 1 => some .i32Sat | 2 => some .ui32Sat | 3 => some .i64 | _ => none
/-- The FN value of each AddFn. -/
def AddFn.bits : AddFn → BitVec 3
  | .i32 => 0 | .i32Sat => 1 | .ui32Sat => 2 | .i64 => 3
/-- IMUL, FN (R37, R96). -/
def MulFn.ofBits (b : BitVec 3) : Option MulFn :=
  match b.toNat with
  | 0 => some .lo | 1 => some .hiI | 2 => some .hiU | 3 => some .wideI | 4 => some .wideU | _ => none
/-- The FN value of each MulFn. -/
def MulFn.bits : MulFn → BitVec 3
  | .lo => 0 | .hiI => 1 | .hiU => 2 | .wideI => 3 | .wideU => 4
/-- IMAC, FN (R37, R96). -/
def MacFn.ofBits (b : BitVec 3) : Option MacFn :=
  match b.toNat with
  | 0 => some .lo | 1 => some .wideU | _ => none
/-- The FN value of each MacFn. -/
def MacFn.bits : MacFn → BitVec 3
  | .lo => 0 | .wideU => 1
/-- IMNX, FN (R97). -/
def MnxFn.ofBits (b : BitVec 3) : Option MnxFn :=
  match b.toNat with
  | 0 => some .minI | 1 => some .maxI | 2 => some .minU | 3 => some .maxU | 4 => some .abs | 5 => some .neg | _ => none
/-- The FN value of each MnxFn. -/
def MnxFn.bits : MnxFn → BitVec 3
  | .minI => 0 | .maxI => 1 | .minU => 2 | .maxU => 3 | .abs => 4 | .neg => 5
/-- LOG, FN (R98). -/
def LogFn.ofBits (b : BitVec 3) : Option LogFn :=
  match b.toNat with
  | 0 => some .and | 1 => some .or | 2 => some .xor | 3 => some .andn | 4 => some .orn | 5 => some .xnor | _ => none
/-- The FN value of each LogFn. -/
def LogFn.bits : LogFn → BitVec 3
  | .and => 0 | .or => 1 | .xor => 2 | .andn => 3 | .orn => 4 | .xnor => 5
/-- SHF, FN (R98). -/
def ShfFn.ofBits (b : BitVec 3) : Option ShfFn :=
  match b.toNat with
  | 0 => some .shl | 1 => some .shr | 2 => some .sar | 3 => some .rol | 4 => some .ror | _ => none
/-- The FN value of each ShfFn. -/
def ShfFn.bits : ShfFn → BitVec 3
  | .shl => 0 | .shr => 1 | .sar => 2 | .rol => 3 | .ror => 4
/-- BIT, FN (R100). -/
def BitFn.ofBits (b : BitVec 3) : Option BitFn :=
  match b.toNat with
  | 0 => some .popc | 1 => some .clz | 2 => some .ctz | 3 => some .brev | 4 => some .ffs | _ => none
/-- The FN value of each BitFn. -/
def BitFn.bits : BitFn → BitVec 3
  | .popc => 0 | .clz => 1 | .ctz => 2 | .brev => 3 | .ffs => 4
/-- ICMP, FN (R102). -/
def CmpFn.ofBits (b : BitVec 3) : Option CmpFn :=
  match b.toNat with
  | 0 => some .eq | 1 => some .ne | 2 => some .lt | 3 => some .le | 4 => some .gt | 5 => some .ge | _ => none
/-- The FN value of each CmpFn. -/
def CmpFn.bits : CmpFn → BitVec 3
  | .eq => 0 | .ne => 1 | .lt => 2 | .le => 3 | .gt => 4 | .ge => 5
/-- KOP, FN (R103). -/
def KopFn.ofBits (b : BitVec 3) : Option KopFn :=
  match b.toNat with
  | 0 => some .and | 1 => some .or | 2 => some .xor | 3 => some .andn | 4 => some .not | _ => none
/-- The FN value of each KopFn. -/
def KopFn.bits : KopFn → BitVec 3
  | .and => 0 | .or => 1 | .xor => 2 | .andn => 3 | .not => 4
/-- Rounding modes of FN (R35). -/
def Rnd.ofBits (b : BitVec 3) : Option Rnd :=
  match b.toNat with
  | 0 => some .rne | 1 => some .rtz | 2 => some .rdn | 3 => some .rup | 4 => some .rna | 5 => some .sr
  | 6 => some .dyn | _ => none
/-- The FN value of each Rnd. -/
def Rnd.bits : Rnd → BitVec 3
  | .rne => 0 | .rtz => 1 | .rdn => 2 | .rup => 3 | .rna => 4 | .sr => 5 | .dyn => 6
/-- FMNX.F32 and HMNX, FN (R107). -/
def MnmFn.ofBits (b : BitVec 3) : Option MnmFn :=
  match b.toNat with
  | 0 => some .min | 1 => some .max | 2 => some .minnum | 3 => some .maxnum | _ => none
/-- The FN value of each MnmFn. -/
def MnmFn.bits : MnmFn → BitVec 3
  | .min => 0 | .max => 1 | .minnum => 2 | .maxnum => 3
/-- FCMP.F32, FN (R108). -/
def FcmpFn.ofBits (b : BitVec 3) : Option FcmpFn :=
  match b.toNat with
  | 0 => some .eq | 1 => some .ne | 2 => some .lt | 3 => some .le | 4 => some .gt | 5 => some .ge
  | 6 => some .un | 7 => some .ord | _ => none
/-- The FN value of each FcmpFn. -/
def FcmpFn.bits : FcmpFn → BitVec 3
  | .eq => 0 | .ne => 1 | .lt => 2 | .le => 3 | .gt => 4 | .ge => 5 | .un => 6 | .ord => 7
/-- FSGN, FN (R109). -/
def SgnFn.ofBits (b : BitVec 3) : Option SgnFn :=
  match b.toNat with
  | 0 => some .abs | 1 => some .neg | 2 => some .cpys | _ => none
/-- The FN value of each SgnFn. -/
def SgnFn.bits : SgnFn → BitVec 3
  | .abs => 0 | .neg => 1 | .cpys => 2
/-- VDOT, FN (R117). -/
def VdotFn.ofBits (b : BitVec 3) : Option VdotFn :=
  match b.toNat with
  | 0 => some .mx8 | 1 => some .mx6 | 2 => some .mx4 | 3 => some .i8 | _ => none
/-- The FN value of each VdotFn. -/
def VdotFn.bits : VdotFn → BitVec 3
  | .mx8 => 0 | .mx6 => 1 | .mx4 => 2 | .i8 => 3
/-- SFU.F32, FN (R118). -/
def SfuFn.ofBits (b : BitVec 3) : Option SfuFn :=
  match b.toNat with
  | 0 => some .rcpa | 1 => some .rsqa | 2 => some .exp2a | 3 => some .log2a | 4 => some .sina
  | 5 => some .cosa | 6 => some .tanha | 7 => some .sqrt | _ => none
/-- The FN value of each SfuFn. -/
def SfuFn.bits : SfuFn → BitVec 3
  | .rcpa => 0 | .rsqa => 1 | .exp2a => 2 | .log2a => 3 | .sina => 4 | .cosa => 5 | .tanha => 6 | .sqrt => 7
/-- SFU.BF16X2, FN (R120). -/
def BsfuFn.ofBits (b : BitVec 3) : Option BsfuFn :=
  match b.toNat with
  | 0 => some .exp2 | 1 => some .rcp | 2 => some .rsq | 3 => some .tanh | _ => none
/-- The FN value of each BsfuFn. -/
def BsfuFn.bits : BsfuFn → BitVec 3
  | .exp2 => 0 | .rcp => 1 | .rsq => 2 | .tanh => 3
/-- IDIV, FN (R121). -/
def DivFn.ofBits (b : BitVec 3) : Option DivFn :=
  match b.toNat with
  | 0 => some .divI | 1 => some .divU | 2 => some .remI | 3 => some .remU | _ => none
/-- The FN value of each DivFn. -/
def DivFn.bits : DivFn → BitVec 3
  | .divI => 0 | .divU => 1 | .remI => 2 | .remU => 3
/-- LXCH, FN (R138). -/
def LxchFn.ofBits (b : BitVec 3) : Option LxchFn :=
  match b.toNat with
  | 0 => some .from | 1 => some .back | 2 => some .ahead | 3 => some .flip | _ => none
/-- The FN value of each LxchFn. -/
def LxchFn.bits : LxchFn → BitVec 3
  | .from => 0 | .back => 1 | .ahead => 2 | .flip => 3
/-- QX, FN (R139). -/
def QxFn.ofBits (b : BitVec 3) : Option QxFn :=
  match b.toNat with
  | 0 => some .h | 1 => some .v | 2 => some .d | 3 => some .bc | _ => none
/-- The FN value of each QxFn. -/
def QxFn.bits : QxFn → BitVec 3
  | .h => 0 | .v => 1 | .d => 2 | .bc => 3
/-- VOTE, FN (R140). -/
def VoteFn.ofBits (b : BitVec 3) : Option VoteFn :=
  match b.toNat with
  | 0 => some .all | 1 => some .any | 2 => some .ballot | 3 => some .uni | _ => none
/-- The FN value of each VoteFn. -/
def VoteFn.bits : VoteFn → BitVec 3
  | .all => 0 | .any => 1 | .ballot => 2 | .uni => 3
/-- REDX, FN (R141). -/
def RedxFn.ofBits (b : BitVec 3) : Option RedxFn :=
  match b.toNat with
  | 0 => some .addI | 1 => some .minI | 2 => some .maxI | 3 => some .addF | 4 => some .minF | 5 => some .maxF | _ => none
/-- The FN value of each RedxFn. -/
def RedxFn.bits : RedxFn → BitVec 3
  | .addI => 0 | .minI => 1 | .maxI => 2 | .addF => 3 | .minF => 4 | .maxF => 5
/-- LD and LDS, FN (R160). -/
def LdFn.ofBits (b : BitVec 3) : Option LdFn :=
  match b.toNat with
  | 0 => some .b | 1 => some .bu | 2 => some .h | 3 => some .hu | 4 => some .w | 5 => some .d | 6 => some .q | _ => none
/-- The FN value of each LdFn. -/
def LdFn.bits : LdFn → BitVec 3
  | .b => 0 | .bu => 1 | .h => 2 | .hu => 3 | .w => 4 | .d => 5 | .q => 6
/-- ST and STS, FN (R161). -/
def StFn.ofBits (b : BitVec 3) : Option StFn :=
  match b.toNat with
  | 0 => some .b | 1 => some .h | 2 => some .w | 3 => some .d | 4 => some .q | _ => none
/-- The FN value of each StFn. -/
def StFn.bits : StFn → BitVec 3
  | .b => 0 | .h => 1 | .w => 2 | .d => 3 | .q => 4
/-- LDU, FN (R162). -/
def LduFn.ofBits (b : BitVec 3) : Option LduFn :=
  match b.toNat with
  | 0 => some .w | 1 => some .d | _ => none
/-- The FN value of each LduFn. -/
def LduFn.bits : LduFn → BitVec 3
  | .w => 0 | .d => 1
/-- ATOM.I32, ATOM.I64 and ATOMS, FN (R163). -/
def AtomFn.ofBits (b : BitVec 3) : Option AtomFn :=
  match b.toNat with
  | 0 => some .add | 1 => some .min | 2 => some .max | 3 => some .and | 4 => some .or | 5 => some .xor
  | 6 => some .xchg | 7 => some .cas | _ => none
/-- The FN value of each AtomFn. -/
def AtomFn.bits : AtomFn → BitVec 3
  | .add => 0 | .min => 1 | .max => 2 | .and => 3 | .or => 4 | .xor => 5 | .xchg => 6 | .cas => 7
/-- ATOM.F32, FN (R163). -/
def FatomFn.ofBits (b : BitVec 3) : Option FatomFn :=
  match b.toNat with
  | 0 => some .add | 1 => some .min | 2 => some .max | 3 => some .xchg | _ => none
/-- The FN value of each FatomFn. -/
def FatomFn.bits : FatomFn → BitVec 3
  | .add => 0 | .min => 1 | .max => 2 | .xchg => 3
/-- RED.I32, FN (R165). -/
def RedFn.ofBits (b : BitVec 3) : Option RedFn :=
  match b.toNat with
  | 0 => some .add | 1 => some .min | 2 => some .max | 3 => some .and | 4 => some .or | 5 => some .xor | _ => none
/-- The FN value of each RedFn. -/
def RedFn.bits : RedFn → BitVec 3
  | .add => 0 | .min => 1 | .max => 2 | .and => 3 | .or => 4 | .xor => 5
/-- RED.F32, FN (R165). -/
def FredFn.ofBits (b : BitVec 3) : Option FredFn :=
  match b.toNat with
  | 0 => some .add | 1 => some .min | 2 => some .max | _ => none
/-- The FN value of each FredFn. -/
def FredFn.bits : FredFn → BitVec 3
  | .add => 0 | .min => 1 | .max => 2
/-- Scopes of FENCE, FN (R37, R190). -/
def Scope.ofBits (b : BitVec 3) : Option Scope :=
  match b.toNat with
  | 0 => some .drl | 1 => some .grp | 2 => some .crf | 3 => some .die | 4 => some .pkg | 5 => some .sys | _ => none
/-- The FN value of each Scope. -/
def Scope.bits : Scope → BitVec 3
  | .drl => 0 | .grp => 1 | .crf => 2 | .die => 3 | .pkg => 4 | .sys => 5
/-- MMA, FN (R229). -/
def MmaFn.ofBits (b : BitVec 3) : Option MmaFn :=
  match b.toNat with
  | 0 => some .e4m3 | 1 => some .e5m2 | 2 => some .bf16 | 3 => some .f16 | 4 => some .mx8 | 5 => some .mx6
  | 6 => some .mx4 | _ => none
/-- The FN value of each MmaFn. -/
def MmaFn.bits : MmaFn → BitVec 3
  | .e4m3 => 0 | .e5m2 => 1 | .bf16 => 2 | .f16 => 3 | .mx8 => 4 | .mx6 => 5 | .mx4 => 6
/-- ARD columns, FN (R233). -/
def ArdFn.ofBits (b : BitVec 3) : Option ArdFn :=
  match b.toNat with
  | 0 => some .c1 | 1 => some .c2 | 2 => some .c4 | 3 => some .c8 | _ => none
/-- The FN value of each ArdFn. -/
def ArdFn.bits : ArdFn → BitVec 3
  | .c1 => 0 | .c2 => 1 | .c4 => 2 | .c8 => 3
/-- AST, FN (R235). -/
def AstFn.ofBits (b : BitVec 3) : Option AstFn :=
  match b.toNat with
  | 0 => some .f32 | 1 => some .bf16 | 2 => some .e4m3 | 3 => some .mx8 | _ => none
/-- The FN value of each AstFn. -/
def AstFn.bits : AstFn → BitVec 3
  | .f32 => 0 | .bf16 => 1 | .e4m3 => 2 | .mx8 => 3

/-- Goes on where `ok` holds, else refuses with `err`. -/
def require (ok : Bool) (err : DecodeError) (go : Except DecodeError Instr) : Except DecodeError Instr :=
  if ok then go else .error err
/-- Goes on with what a partial reading gives, else refuses with `err`. -/
def given {α : Type} (o : Option α) (err : DecodeError) (go : α → Except DecodeError Instr) : Except DecodeError Instr :=
  match o with
  | some a => go a
  | none => .error err

/-- The control fields of a word of format V, M or B. -/
def Fields.ctl (f : Fields) : Ctl :=
  { tk0 := f.tk0, e := f.e, gn := f.gn, gp := f.gp, nw := f.nw, ld := f.ld, sbs := f.sbs, nf := f.nf, tk1 := f.tk1, sbw := f.sbw }
/-- The control fields of a word of format I, whose wait field names one slot. -/
def Fields.ctlI (f : Fields) (m : BitVec 6) : Ctl := { f.ctl with sbw := m }

/-- The instruction that the fields spell, before the checks of its shape (R37). -/
def readFields (w : Fields) : Except DecodeError Instr :=
  match w.op.toNat with
  | 0 => require (w.fn == 0) .function <| require (!w.x) .function <| require (w.dst == 0) .field <| require (w.s1 == 0) .field <| require (w.s2 == 0) .field <| .ok (.nop  w.ctl)
  | 1 => given (AddFn.ofBits w.fn) .function fun f => require (!w.x) .function <| given (srcOfCode w.s1) .sourceCode fun a => given (srcOfCode w.s2) .sourceCode fun b => .ok (.iadd f w.dst a b w.ctl)
  | 2 => given (AddFn.ofBits w.fn) .function fun f => require (!w.x) .function <| given (srcOfCode w.s1) .sourceCode fun a => given (srcOfCode w.s2) .sourceCode fun b => .ok (.isub f w.dst a b w.ctl)
  | 3 => given (MulFn.ofBits w.fn) .function fun f => require (!w.x) .function <| given (srcOfCode w.s1) .sourceCode fun a => given (srcOfCode w.s2) .sourceCode fun b => .ok (.imul f w.dst a b w.ctl)
  | 4 => given (MacFn.ofBits w.fn) .function fun f => require (!w.x) .function <| given (srcOfCode w.s1) .sourceCode fun a => given (srcOfCode w.s2) .sourceCode fun b => .ok (.imac f w.dst a b w.ctl)
  | 5 => given (MnxFn.ofBits w.fn) .function fun f => require (!w.x) .function <| given (srcOfCode w.s1) .sourceCode fun a => given (srcOfCode w.s2) .sourceCode fun b => .ok (.imnx f w.dst a b w.ctl)
  | 6 => given (LogFn.ofBits w.fn) .function fun f => require (!w.x) .function <| given (srcOfCode w.s1) .sourceCode fun a => given (srcOfCode w.s2) .sourceCode fun b => .ok (.log f w.dst a b w.ctl)
  | 7 => given (ShfFn.ofBits w.fn) .function fun f => given (srcOfCode w.s1) .sourceCode fun a => given (srcOfCode w.s2) .sourceCode fun b => .ok (.shf f w.x w.dst a b w.ctl)
  | 8 => require (w.fn == 0) .function <| given (srcOfCode w.s1) .sourceCode fun a => given (srcOfCode w.s2) .sourceCode fun b => .ok (.bfx w.x w.dst a b w.ctl)
  | 9 => require (w.fn == 0) .function <| require (!w.x) .function <| given (srcOfCode w.s1) .sourceCode fun a => given (srcOfCode w.s2) .sourceCode fun b => .ok (.bfi w.dst a b w.ctl)
  | 10 => given (BitFn.ofBits w.fn) .function fun f => require (!w.x) .function <| given (srcOfCode w.s1) .sourceCode fun a => require (w.s2 == 0) .field <| .ok (.bit f w.dst a w.ctl)
  | 11 => require (!w.x) .function <| given (srcOfCode w.s1) .sourceCode fun a => given (srcOfCode w.s2) .sourceCode fun b => .ok (.lea w.fn w.dst a b w.ctl)
  | 12 => given (CmpFn.ofBits w.fn) .function fun f => given (srcOfCode w.s1) .sourceCode fun a => given (srcOfCode w.s2) .sourceCode fun b => .ok (.icmp f w.x w.dst a b w.ctl)
  | 13 => require (!w.x) .function <| given (srcOfCode w.s1) .sourceCode fun a => given (srcOfCode w.s2) .sourceCode fun b => .ok (.sel w.fn w.dst a b w.ctl)
  | 14 => require (w.fn.toNat < 2) .function <| require (!w.x) .function <| given (srcOfCode w.s1) .sourceCode fun a => require (w.s2 == 0) .field <| .ok (.mov (w.fn.getLsbD 0) w.dst a w.ctl)
  | 15 => given (KopFn.ofBits w.fn) .function fun f => require (!w.x) .function <| given (srcOfCode w.s1) .sourceCode fun a => given (srcOfCode w.s2) .sourceCode fun b => .ok (.kop f w.dst a b w.ctl)
  | 16 => given (maskOfSlot w.sbw1) (.illFormed .slotReserved) fun m => given (srcOfCode w.is1) .sourceCode fun a => .ok (.iaddi w.dst a w.imm (w.ctlI m))
  | 17 => given (maskOfSlot w.sbw1) (.illFormed .slotReserved) fun m => given (srcOfCode w.is1) .sourceCode fun a => .ok (.andi w.dst a w.imm (w.ctlI m))
  | 18 => given (maskOfSlot w.sbw1) (.illFormed .slotReserved) fun m => given (srcOfCode w.is1) .sourceCode fun a => .ok (.ori w.dst a w.imm (w.ctlI m))
  | 19 => given (maskOfSlot w.sbw1) (.illFormed .slotReserved) fun m => given (srcOfCode w.is1) .sourceCode fun a => .ok (.xori w.dst a w.imm (w.ctlI m))
  | 20 => given (maskOfSlot w.sbw1) (.illFormed .slotReserved) fun m => given (srcOfCode w.is1) .sourceCode fun a => .ok (.shli w.dst a w.imm (w.ctlI m))
  | 21 => given (maskOfSlot w.sbw1) (.illFormed .slotReserved) fun m => given (srcOfCode w.is1) .sourceCode fun a => .ok (.shri w.dst a w.imm (w.ctlI m))
  | 22 => given (maskOfSlot w.sbw1) (.illFormed .slotReserved) fun m => given (srcOfCode w.is1) .sourceCode fun a => .ok (.sari w.dst a w.imm (w.ctlI m))
  | 23 => given (maskOfSlot w.sbw1) (.illFormed .slotReserved) fun m => require (w.is1 == 0) .field <| .ok (.movil w.dst w.imm (w.ctlI m))
  | 24 => given (maskOfSlot w.sbw1) (.illFormed .slotReserved) fun m => require (w.is1 == 0) .field <| .ok (.movih w.dst w.imm (w.ctlI m))
  | 25 => given (maskOfSlot w.sbw1) (.illFormed .slotReserved) fun m => given (srcOfCode w.is1) .sourceCode fun a => .ok (.imuli w.dst a w.imm (w.ctlI m))
  | 28 => require (w.fn == 0) .function <| require (!w.x) .function <| require (w.s2 == 0) .field <| .ok (.srd w.dst w.s1 w.ctl)
  | 29 => require (w.fn == 0) .function <| require (!w.x) .function <| require (w.dst == 0) .field <| given (srcOfCode w.s2) .sourceCode fun b => .ok (.swr w.s1 b w.ctl)
  | 30 => match w.fn.toNat with
    | 0 => require (!w.x) .function <| require (w.dst == 0) .field <| given (srcOfCode w.s1) .sourceCode fun a => require (w.s2 == 0) .field <| .ok (.sysSysc a w.ctl)
    | 1 => require (!w.x) .function <| require (w.dst == 0) .field <| require (w.s1 == 0) .field <| require (w.s2.toNat < 256) .field <| .ok (.sysTrapi (w.s2.setWidth 8) w.ctl)
    | 2 => require (!w.x) .function <| require (w.dst == 0) .field <| require (w.s1 == 0) .field <| require (w.s2 == 0) .field <| .ok (.sysTret  w.ctl)
    | 3 => require (!w.x) .function <| require (w.dst == 0) .field <| require (w.s1 == 0) .field <| require (w.s2 == 0) .field <| .ok (.sysUiret  w.ctl)
    | 4 => require (!w.x) .function <| require (w.dst == 0) .field <| given (srcOfCode w.s1) .sourceCode fun a => require (w.s2 == 0) .field <| .ok (.sysWaiti a w.ctl)
    | _ => .error .function
  | 31 => match w.fn.toNat with
    | 0 => require (!w.x) .function <| require (w.dst == 0) .field <| given (srcOfCode w.s1) .sourceCode fun a => require (w.s2 == 0) .field <| .ok (.svldSavev a w.ctl)
    | 1 => require (!w.x) .function <| require (w.dst == 0) .field <| given (srcOfCode w.s1) .sourceCode fun a => require (w.s2 == 0) .field <| .ok (.svldLoadv a w.ctl)
    | 2 => require (!w.x) .function <| require (w.dst == 0) .field <| given (srcOfCode w.s1) .sourceCode fun a => require (w.s2 == 0) .field <| .ok (.svldSaveu a w.ctl)
    | 3 => require (!w.x) .function <| require (w.dst == 0) .field <| given (srcOfCode w.s1) .sourceCode fun a => require (w.s2 == 0) .field <| .ok (.svldLoadu a w.ctl)
    | 4 => require (!w.x) .function <| require (w.dst == 0) .field <| given (srcOfCode w.s1) .sourceCode fun a => require (w.s2 == 0) .field <| .ok (.svldSavep a w.ctl)
    | 5 => require (!w.x) .function <| require (w.dst == 0) .field <| given (srcOfCode w.s1) .sourceCode fun a => require (w.s2 == 0) .field <| .ok (.svldLoadp a w.ctl)
    | 6 => require (!w.x) .function <| require (w.dst == 0) .field <| given (srcOfCode w.s1) .sourceCode fun a => require (w.s2 == 0) .field <| .ok (.svldSavex a w.ctl)
    | 7 => require (!w.x) .function <| require (w.dst == 0) .field <| given (srcOfCode w.s1) .sourceCode fun a => require (w.s2 == 0) .field <| .ok (.svldLoadx a w.ctl)
    | _ => .error .function
  | 32 => given (Rnd.ofBits w.fn) .function fun m => require (!w.x) .function <| given (srcOfCode w.s1) .sourceCode fun a => given (srcOfCode w.s2) .sourceCode fun b => .ok (.faddF32 m w.dst a b w.ctl)
  | 33 => given (Rnd.ofBits w.fn) .function fun m => require (!w.x) .function <| given (srcOfCode w.s1) .sourceCode fun a => given (srcOfCode w.s2) .sourceCode fun b => .ok (.fsubF32 m w.dst a b w.ctl)
  | 34 => given (Rnd.ofBits w.fn) .function fun m => require (!w.x) .function <| given (srcOfCode w.s1) .sourceCode fun a => given (srcOfCode w.s2) .sourceCode fun b => .ok (.fmulF32 m w.dst a b w.ctl)
  | 35 => given (Rnd.ofBits w.fn) .function fun m => require (!w.x) .function <| given (srcOfCode w.s1) .sourceCode fun a => given (srcOfCode w.s2) .sourceCode fun b => .ok (.fmacF32 m w.dst a b w.ctl)
  | 36 => given (MnmFn.ofBits w.fn) .function fun f => require (!w.x) .function <| given (srcOfCode w.s1) .sourceCode fun a => given (srcOfCode w.s2) .sourceCode fun b => .ok (.fmnxF32 f w.dst a b w.ctl)
  | 37 => given (FcmpFn.ofBits w.fn) .function fun f => require (!w.x) .function <| given (srcOfCode w.s1) .sourceCode fun a => given (srcOfCode w.s2) .sourceCode fun b => .ok (.fcmpF32 f w.dst a b w.ctl)
  | 38 => given (SgnFn.ofBits w.fn) .function fun f => require (!w.x) .function <| given (srcOfCode w.s1) .sourceCode fun a => given (srcOfCode w.s2) .sourceCode fun b => .ok (.fsgn f w.dst a b w.ctl)
  | 39 => require (w.fn == 0) .function <| require (!w.x) .function <| given (srcOfCode w.s1) .sourceCode fun a => require (w.s2 == 0) .field <| .ok (.fcls w.dst a w.ctl)
  | 40 => given (maskOfSlot w.sbw1) (.illFormed .slotReserved) fun m => given (srcOfCode w.is1) .sourceCode fun a => .ok (.faddiF32 w.dst a w.imm (w.ctlI m))
  | 41 => given (maskOfSlot w.sbw1) (.illFormed .slotReserved) fun m => given (srcOfCode w.is1) .sourceCode fun a => .ok (.fmuliF32 w.dst a w.imm (w.ctlI m))
  | 42 => given (maskOfSlot w.sbw1) (.illFormed .slotReserved) fun m => given (srcOfCode w.is1) .sourceCode fun a => .ok (.fmaciF32 w.dst a w.imm (w.ctlI m))
  | 43 => given (Rnd.ofBits w.fn) .function fun m => given (srcOfCode w.s1) .sourceCode fun a => given (srcOfCode w.s2) .sourceCode fun b => .ok (.hadd m w.x w.dst a b w.ctl)
  | 44 => given (Rnd.ofBits w.fn) .function fun m => given (srcOfCode w.s1) .sourceCode fun a => given (srcOfCode w.s2) .sourceCode fun b => .ok (.hmul m w.x w.dst a b w.ctl)
  | 45 => given (Rnd.ofBits w.fn) .function fun m => given (srcOfCode w.s1) .sourceCode fun a => given (srcOfCode w.s2) .sourceCode fun b => .ok (.hmac m w.x w.dst a b w.ctl)
  | 46 => given (MnmFn.ofBits w.fn) .function fun f => given (srcOfCode w.s1) .sourceCode fun a => given (srcOfCode w.s2) .sourceCode fun b => .ok (.hmnx f w.x w.dst a b w.ctl)
  | 47 => given (maskOfSlot w.sbw1) (.illFormed .slotReserved) fun m => given (srcOfCode w.is1) .sourceCode fun a => .ok (.hmuliBf16x2 w.dst a w.imm (w.ctlI m))
  | 54 => given (maskOfSlot w.sbw1) (.illFormed .slotReserved) fun m => given (srcOfCode w.is1) .sourceCode fun a => .ok (.hmuliF16x2 w.dst a w.imm (w.ctlI m))
  | 48 => given (Rnd.ofBits w.fn) .function fun m => given (srcOfCode w.s1) .sourceCode fun a => .ok (.cvt m w.x w.dst a (w.s2.extractLsb' 6 3) (w.s2.setWidth 6) w.ctl)
  | 49 => require (w.fn == 0) .function <| require (!w.x) .function <| given (srcOfCode w.s1) .sourceCode fun a => given (srcOfCode w.s2) .sourceCode fun b => .ok (.prmt w.dst a b w.ctl)
  | 50 => given (maskOfSlot w.sbw1) (.illFormed .slotReserved) fun m => given (srcOfCode w.is1) .sourceCode fun a => .ok (.prmti w.dst a w.imm (w.ctlI m))
  | 51 => require (w.fn.toNat < 4) .function <| require (!w.x) .function <| require (w.dst == 0) .field <| given (srcOfCode w.s1) .sourceCode fun a => require (w.s2 == 0) .field <| .ok (.mxsc (w.fn.setWidth 2) a w.ctl)
  | 52 => given (VdotFn.ofBits w.fn) .function fun f => require (!w.x) .function <| given (srcOfCode w.s1) .sourceCode fun a => given (srcOfCode w.s2) .sourceCode fun b => .ok (.vdot f w.dst a b w.ctl)
  | 53 => given (maskOfSlot w.sbw1) (.illFormed .slotReserved) fun m => given (srcOfCode w.is1) .sourceCode fun a => .ok (.qclmp w.dst a w.imm (w.ctlI m))
  | 56 => given (SfuFn.ofBits w.fn) .function fun f => require (!w.x) .function <| given (srcOfCode w.s1) .sourceCode fun a => require (w.s2 == 0) .field <| .ok (.sfuF32 f w.dst a w.ctl)
  | 57 => given (BsfuFn.ofBits w.fn) .function fun f => require (!w.x) .function <| given (srcOfCode w.s1) .sourceCode fun a => require (w.s2 == 0) .field <| .ok (.sfuBf16x2 f w.dst a w.ctl)
  | 58 => given (DivFn.ofBits w.fn) .function fun f => require (!w.x) .function <| given (srcOfCode w.s1) .sourceCode fun a => given (srcOfCode w.s2) .sourceCode fun b => .ok (.idiv f w.dst a b w.ctl)
  | 59 => given (Rnd.ofBits w.fn) .function fun m => require (!w.x) .function <| given (srcOfCode w.s1) .sourceCode fun a => given (srcOfCode w.s2) .sourceCode fun b => .ok (.fdivF32 m w.dst a b w.ctl)
  | 64 => given (LxchFn.ofBits w.fn) .function fun f => require (!w.x) .function <| given (srcOfCode w.s1) .sourceCode fun a => given (srcOfCode w.s2) .sourceCode fun b => .ok (.lxch f w.dst a b w.ctl)
  | 65 => given (QxFn.ofBits w.fn) .function fun f => require (!w.x) .function <| given (srcOfCode w.s1) .sourceCode fun a => given (srcOfCode w.s2) .sourceCode fun b => .ok (.qx f w.dst a b w.ctl)
  | 66 => given (VoteFn.ofBits w.fn) .function fun f => require (!w.x) .function <| given (srcOfCode w.s1) .sourceCode fun a => require (w.s2 == 0) .field <| .ok (.vote f w.dst a w.ctl)
  | 67 => given (RedxFn.ofBits w.fn) .function fun f => require (!w.x) .function <| given (srcOfCode w.s1) .sourceCode fun a => require (w.s2 == 0) .field <| .ok (.redx f w.dst a w.ctl)
  | 68 => given (maskOfSlot w.sbw1) (.illFormed .slotReserved) fun m => given (srcOfCode w.is1) .sourceCode fun a => .ok (.vgeti w.dst a w.imm (w.ctlI m))
  | 69 => given (maskOfSlot w.sbw1) (.illFormed .slotReserved) fun m => given (srcOfCode w.is1) .sourceCode fun a => .ok (.vputi w.dst a w.imm (w.ctlI m))
  | 72 => require (w.fn == 0) .function <| require (!w.x) .function <| require (w.dst.toNat < 8) .field <| given (srcOfCode w.s1) .sourceCode fun a => require (w.s2 == 0) .field <| .ok (.tcfg (w.dst.setWidth 3) a w.ctl)
  | 73 => require (w.fn == 0) .function <| require (!w.x) .function <| require (w.dst.toNat < 8) .field <| given (srcOfCode w.s1) .sourceCode fun a => given (srcOfCode w.s2) .sourceCode fun b => .ok (.tmvr (w.dst.setWidth 3) a b w.ctl)
  | 74 => require (w.fn == 0) .function <| require (!w.x) .function <| require (w.dst.toNat < 8) .field <| given (srcOfCode w.s1) .sourceCode fun a => given (srcOfCode w.s2) .sourceCode fun b => .ok (.tmvc (w.dst.setWidth 3) a b w.ctl)
  | 75 => require (w.fn == 0) .function <| require (!w.x) .function <| require (w.s1.toNat < 8) .field <| given (srcOfCode w.s2) .sourceCode fun b => .ok (.trdr w.dst (w.s1.setWidth 3) b w.ctl)
  | 76 => require (w.fn == 0) .function <| require (!w.x) .function <| require (w.s1.toNat < 8) .field <| given (srcOfCode w.s2) .sourceCode fun b => .ok (.trdc w.dst (w.s1.setWidth 3) b w.ctl)
  | 77 => match w.fn.toNat with
    | 0 => require (!w.x) .function <| require (w.dst.toNat < 8) .field <| require (w.s1 == 0) .field <| require (w.s2 == 0) .field <| .ok (.topZero (w.dst.setWidth 3) w.ctl)
    | 1 => require (!w.x) .function <| require (w.dst.toNat < 8) .field <| require (w.s1.toNat < 8) .field <| require (w.s2 == 0) .field <| .ok (.topTrans (w.dst.setWidth 3) (w.s1.setWidth 3) w.ctl)
    | 2 => require (!w.x) .function <| require (w.dst.toNat < 8) .field <| require (w.s1 == 0) .field <| require (w.s2 == 0) .field <| .ok (.topRel (w.dst.setWidth 3) w.ctl)
    | 3 => require (!w.x) .function <| require (w.dst.toNat < 8) .field <| require (w.s1.toNat < 8) .field <| require (w.s2 == 0) .field <| .ok (.topCopy (w.dst.setWidth 3) (w.s1.setWidth 3) w.ctl)
    | _ => .error .function
  | 78 => require (w.fn == 0) .function <| require (!w.x) .function <| require (w.dst.toNat < 8) .field <| given (srcOfCode w.s1) .sourceCode fun a => require (w.s2 == 0) .field <| .ok (.tsave (w.dst.setWidth 3) a w.ctl)
  | 79 => require (w.fn == 0) .function <| require (!w.x) .function <| require (w.dst.toNat < 8) .field <| given (srcOfCode w.s1) .sourceCode fun a => require (w.s2 == 0) .field <| .ok (.tload (w.dst.setWidth 3) a w.ctl)
  | 80 => require (w.fn == 0) .function <| require (w.dst == 0) .field <| .ok (.bra w.ofs19 w.ctl)
  | 81 => require (w.fn == 0) .function <| require (w.dst == 0) .field <| .ok (.brz w.ofs19 w.ctl)
  | 82 => require (w.fn == 0) .function <| .ok (.call w.dst w.ofs19 w.ctl)
  | 83 => require (w.fn == 0) .function <| require (!w.x) .function <| require (w.dst == 0) .field <| given (srcOfCode w.s1) .sourceCode fun a => require (w.s2 == 0) .field <| .ok (.ret a w.ctl)
  | 84 => require (w.fn == 0) .function <| require (!w.x) .function <| require (w.dst == 0) .field <| given (srcOfCode w.s1) .sourceCode fun a => require (w.s2 == 0) .field <| .ok (.jmpu a w.ctl)
  | 85 => require (w.fn == 0) .function <| require (!w.x) .function <| require (w.dst == 0) .field <| given (srcOfCode w.s1) .sourceCode fun a => require (w.s2 == 0) .field <| .ok (.jmpv a w.ctl)
  | 86 => require (w.fn == 0) .function <| require (!w.x) .function <| require (w.dst == 0) .field <| require (w.s1 == 0) .field <| require (w.s2 == 0) .field <| .ok (.land  w.ctl)
  | 87 => require (w.fn == 0) .function <| .ok (.loop w.dst w.ofs19 w.ctl)
  | 88 => require (w.fn == 0) .function <| require (!w.x) .function <| require (w.dst == 0) .field <| require (w.s1 == 0) .field <| require (w.s2 == 0) .field <| .ok (.mpush  w.ctl)
  | 89 => require (w.fn == 0) .function <| require (!w.x) .function <| require (w.dst == 0) .field <| require (w.s1 == 0) .field <| require (w.s2 == 0) .field <| .ok (.minv  w.ctl)
  | 90 => require (w.fn == 0) .function <| require (!w.x) .function <| require (w.dst == 0) .field <| require (w.s1 == 0) .field <| require (w.s2 == 0) .field <| .ok (.mpop  w.ctl)
  | 91 => require (w.fn == 0) .function <| require (!w.x) .function <| require (w.s1 == 0) .field <| require (w.s2 == 0) .field <| .ok (.kmask w.dst w.ctl)
  | 92 => require (w.dst == 0) .field <| .ok (.prefi w.fn w.ofs19 w.ctl)
  | 93 => match w.fn.toNat with
    | 0 => require (!w.x) .function <| require (w.dst == 0) .field <| require (w.s1 == 0) .field <| require (w.s2 == 0) .field <| .ok (.exit  w.ctl)
    | 1 => require (!w.x) .function <| require (w.dst == 0) .field <| given (srcOfCode w.s1) .sourceCode fun a => require (w.s2 == 0) .field <| .ok (.exitSucc a w.ctl)
    | _ => .error .function
  | 96 => given (LdFn.ofBits w.fn) .function fun f => given (srcOfCode w.s1) .sourceCode fun a => .ok (.ld f w.dst a w.ofs10 w.ctl)
  | 97 => given (StFn.ofBits w.fn) .function fun f => given (srcOfCode w.s1) .sourceCode fun a => .ok (.st f w.dst a w.ofs10 w.ctl)
  | 98 => given (LdFn.ofBits w.fn) .function fun f => given (srcOfCode w.s1) .sourceCode fun a => .ok (.lds f w.dst a w.ofs10 w.ctl)
  | 99 => given (StFn.ofBits w.fn) .function fun f => given (srcOfCode w.s1) .sourceCode fun a => .ok (.sts f w.dst a w.ofs10 w.ctl)
  | 100 => given (LduFn.ofBits w.fn) .function fun f => given (srcOfCode w.s1) .sourceCode fun a => .ok (.ldu f w.dst a w.ofs10 w.ctl)
  | 101 => given (AtomFn.ofBits w.fn) .function fun f => given (srcOfCode w.s1) .sourceCode fun a => given (srcOfCode w.s2) .sourceCode fun b => .ok (.atomI32 f w.x w.dst a b w.ctl)
  | 102 => given (AtomFn.ofBits w.fn) .function fun f => given (srcOfCode w.s1) .sourceCode fun a => given (srcOfCode w.s2) .sourceCode fun b => .ok (.atomI64 f w.x w.dst a b w.ctl)
  | 103 => given (FatomFn.ofBits w.fn) .function fun f => require (!w.x) .function <| given (srcOfCode w.s1) .sourceCode fun a => given (srcOfCode w.s2) .sourceCode fun b => .ok (.atomF32 f w.dst a b w.ctl)
  | 104 => given (RedFn.ofBits w.fn) .function fun f => require (w.dst == 0) .field <| given (srcOfCode w.s1) .sourceCode fun a => given (srcOfCode w.s2) .sourceCode fun b => .ok (.redI32 f w.x a b w.ctl)
  | 105 => given (FredFn.ofBits w.fn) .function fun f => require (!w.x) .function <| require (w.dst == 0) .field <| given (srcOfCode w.s1) .sourceCode fun a => given (srcOfCode w.s2) .sourceCode fun b => .ok (.redF32 f a b w.ctl)
  | 106 => require (w.fn == 0) .function <| require (!w.x) .function <| require (w.dst == 0) .field <| given (srcOfCode w.s1) .sourceCode fun a => given (srcOfCode w.s2) .sourceCode fun b => .ok (.redBf16x2 a b w.ctl)
  | 107 => given (AtomFn.ofBits w.fn) .function fun f => given (srcOfCode w.s1) .sourceCode fun a => given (srcOfCode w.s2) .sourceCode fun b => .ok (.atoms f w.x w.dst a b w.ctl)
  | 108 => match w.s2.toNat with
    | 0 => given (Scope.ofBits w.fn) .function fun sc => require (!w.x) .function <| require (w.dst == 0) .field <| require (w.s1 == 0) .field <| require (w.s2 == 0) .field <| .ok (.fenceAcq sc w.ctl)
    | 1 => given (Scope.ofBits w.fn) .function fun sc => require (!w.x) .function <| require (w.dst == 0) .field <| require (w.s1 == 0) .field <| require (w.s2 == 1) .field <| .ok (.fenceRel sc w.ctl)
    | 2 => given (Scope.ofBits w.fn) .function fun sc => require (!w.x) .function <| require (w.dst == 0) .field <| require (w.s1 == 0) .field <| require (w.s2 == 2) .field <| .ok (.fenceAr sc w.ctl)
    | _ => .error .field
  | 109 => require (w.fn == 0) .function <| require (w.dst == 0) .field <| given (srcOfCode w.s1) .sourceCode fun a => .ok (.prefd a w.ofs10 w.ctl)
  | 110 => match w.fn.toNat with
    | 0 => require (!w.x) .function <| require (w.dst == 0) .field <| given (srcOfCode w.s1) .sourceCode fun a => require (w.s2 == 0) .field <| .ok (.cacheWb a w.ctl)
    | 1 => require (!w.x) .function <| require (w.dst == 0) .field <| given (srcOfCode w.s1) .sourceCode fun a => require (w.s2 == 0) .field <| .ok (.cacheInv a w.ctl)
    | 2 => require (!w.x) .function <| require (w.dst == 0) .field <| given (srcOfCode w.s1) .sourceCode fun a => require (w.s2 == 0) .field <| .ok (.cacheWbi a w.ctl)
    | _ => .error .function
  | 112 => match w.fn.toNat with
    | 0 => require (!w.x) .function <| require (w.dst == 0) .field <| given (srcOfCode w.s1) .sourceCode fun a => given (srcOfCode w.s2) .sourceCode fun b => .ok (.ringCfg a b w.ctl)
    | 1 => require (!w.x) .function <| given (srcOfCode w.s1) .sourceCode fun a => require (w.s2 == 0) .field <| .ok (.ringClm w.dst a w.ctl)
    | 2 => require (!w.x) .function <| require (w.dst == 0) .field <| given (srcOfCode w.s1) .sourceCode fun a => given (srcOfCode w.s2) .sourceCode fun b => .ok (.ringPub a b w.ctl)
    | 3 => require (!w.x) .function <| given (srcOfCode w.s1) .sourceCode fun a => require (w.s2 == 0) .field <| .ok (.ringWtf w.dst a w.ctl)
    | 4 => require (!w.x) .function <| require (w.dst == 0) .field <| given (srcOfCode w.s1) .sourceCode fun a => given (srcOfCode w.s2) .sourceCode fun b => .ok (.ringRel a b w.ctl)
    | 5 => require (!w.x) .function <| given (srcOfCode w.s1) .sourceCode fun a => require (w.s2 == 0) .field <| .ok (.ringWte w.dst a w.ctl)
    | 6 => require (!w.x) .function <| given (srcOfCode w.s1) .sourceCode fun a => require (w.s2 == 0) .field <| .ok (.ringQry w.dst a w.ctl)
    | _ => .error .function
  | 113 => match w.fn.toNat with
    | 0 => require (!w.x) .function <| require (w.dst == 0) .field <| given (srcOfCode w.s1) .sourceCode fun a => given (srcOfCode w.s2) .sourceCode fun b => .ok (.stashMap a b w.ctl)
    | 1 => require (!w.x) .function <| require (w.dst == 0) .field <| given (srcOfCode w.s1) .sourceCode fun a => require (w.s2 == 0) .field <| .ok (.stashUnmap a w.ctl)
    | 2 => require (!w.x) .function <| require (w.dst == 0) .field <| given (srcOfCode w.s1) .sourceCode fun a => require (w.s2 == 0) .field <| .ok (.stashFlush a w.ctl)
    | 3 => require (!w.x) .function <| require (w.dst == 0) .field <| given (srcOfCode w.s1) .sourceCode fun a => require (w.s2 == 0) .field <| .ok (.stashInv a w.ctl)
    | _ => .error .function
  | 114 => match w.fn.toNat with
    | 0 => require (!w.x) .function <| require (w.dst == 0) .field <| given (srcOfCode w.s1) .sourceCode fun a => require (w.s2 == 0) .field <| .ok (.cpyGl a w.ctl)
    | 1 => require (!w.x) .function <| require (w.dst == 0) .field <| given (srcOfCode w.s1) .sourceCode fun a => require (w.s2 == 0) .field <| .ok (.cpyLg a w.ctl)
    | 2 => require (!w.x) .function <| require (w.dst == 0) .field <| given (srcOfCode w.s1) .sourceCode fun a => require (w.s2 == 0) .field <| .ok (.cpyGg a w.ctl)
    | 3 => require (!w.x) .function <| require (w.dst == 0) .field <| given (srcOfCode w.s1) .sourceCode fun a => require (w.s2 == 0) .field <| .ok (.cpyGb a w.ctl)
    | 4 => require (!w.x) .function <| require (w.dst == 0) .field <| given (srcOfCode w.s1) .sourceCode fun a => require (w.s2 == 0) .field <| .ok (.cpyLb a w.ctl)
    | 5 => require (!w.x) .function <| require (w.dst == 0) .field <| given (srcOfCode w.s1) .sourceCode fun a => require (w.s2 == 0) .field <| .ok (.cpyFill a w.ctl)
    | _ => .error .function
  | 115 => match w.fn.toNat with
    | 0 => require (!w.x) .function <| require (w.dst == 0) .field <| given (srcOfCode w.s1) .sourceCode fun a => given (srcOfCode w.s2) .sourceCode fun b => .ok (.barAll a b w.ctl)
    | 1 => require (!w.x) .function <| require (w.dst == 0) .field <| given (srcOfCode w.s1) .sourceCode fun a => given (srcOfCode w.s2) .sourceCode fun b => .ok (.barPost a b w.ctl)
    | 2 => require (!w.x) .function <| require (w.dst == 0) .field <| given (srcOfCode w.s1) .sourceCode fun a => require (w.s2 == 0) .field <| .ok (.barHold a w.ctl)
    | 3 => require (!w.x) .function <| require (w.dst == 0) .field <| require (w.s1 == 0) .field <| require (w.s2 == 0) .field <| .ok (.barCroft  w.ctl)
    | 4 => require (!w.x) .function <| require (w.dst == 0) .field <| require (w.s1 == 0) .field <| require (w.s2 == 0) .field <| .ok (.barGrid  w.ctl)
    | _ => .error .function
  | 116 => match w.fn.toNat with
    | 0 => require (!w.x) .function <| require (w.dst == 0) .field <| given (srcOfCode w.s1) .sourceCode fun a => given (srcOfCode w.s2) .sourceCode fun b => .ok (.mbarInit a b w.ctl)
    | 1 => require (!w.x) .function <| require (w.dst == 0) .field <| given (srcOfCode w.s1) .sourceCode fun a => given (srcOfCode w.s2) .sourceCode fun b => .ok (.mbarArr a b w.ctl)
    | 2 => require (!w.x) .function <| require (w.dst == 0) .field <| given (srcOfCode w.s1) .sourceCode fun a => given (srcOfCode w.s2) .sourceCode fun b => .ok (.mbarWait a b w.ctl)
    | 3 => require (!w.x) .function <| given (srcOfCode w.s1) .sourceCode fun a => given (srcOfCode w.s2) .sourceCode fun b => .ok (.mbarTest w.dst a b w.ctl)
    | 4 => require (!w.x) .function <| require (w.dst == 0) .field <| given (srcOfCode w.s1) .sourceCode fun a => require (w.s2 == 0) .field <| .ok (.mbarInv a w.ctl)
    | _ => .error .function
  | 117 => match w.fn.toNat with
    | 0 => require (!w.x) .function <| require (w.dst == 0) .field <| given (srcOfCode w.s1) .sourceCode fun a => given (srcOfCode w.s2) .sourceCode fun b => .ok (.lnchPost a b w.ctl)
    | 1 => require (!w.x) .function <| require (w.dst == 0) .field <| given (srcOfCode w.s1) .sourceCode fun a => given (srcOfCode w.s2) .sourceCode fun b => .ok (.lnchEvsig a b w.ctl)
    | 2 => require (!w.x) .function <| given (srcOfCode w.s1) .sourceCode fun a => given (srcOfCode w.s2) .sourceCode fun b => .ok (.lnchEvtst w.dst a b w.ctl)
    | 3 => require (!w.x) .function <| require (w.dst == 0) .field <| given (srcOfCode w.s1) .sourceCode fun a => given (srcOfCode w.s2) .sourceCode fun b => .ok (.lnchEvclr a b w.ctl)
    | _ => .error .function
  | 118 => match w.fn.toNat with
    | 0 => require (!w.x) .function <| require (w.dst == 0) .field <| require (w.s1 == 0) .field <| require (w.s2.toNat < 16) .field <| .ok (.stkCede (w.s2.setWidth 4) w.ctl)
    | 1 => require (!w.x) .function <| require (w.dst == 0) .field <| require (w.s1 == 0) .field <| require (w.s2.toNat < 16) .field <| .ok (.stkTake (w.s2.setWidth 4) w.ctl)
    | 2 => require (!w.x) .function <| require (w.s1 == 0) .field <| require (w.s2.toNat < 8) .field <| .ok (.stkQry w.dst (w.s2.setWidth 3) w.ctl)
    | _ => .error .function
  | 120 => match w.fn.toNat with
    | 0 => require (!w.x) .function <| given (srcOfCode w.s1) .sourceCode fun a => require (w.s2 == 0) .field <| .ok (.plotRsv w.dst a w.ctl)
    | 1 => require (!w.x) .function <| require (w.dst == 0) .field <| require (w.s1 == 0) .field <| require (w.s2 == 0) .field <| .ok (.plotRel  w.ctl)
    | 2 => require (!w.x) .function <| require (w.s1 == 0) .field <| require (w.s2.toNat < 4) .field <| .ok (.plotQry w.dst (w.s2.setWidth 2) w.ctl)
    | 3 => match w.s2.toNat with
      | 0 => require (!w.x) .function <| require (w.dst == 0) .field <| given (srcOfCode w.s1) .sourceCode fun a => require (w.s2 == 0) .field <| .ok (.plotCarve a w.ctl)
      | 1 => require (!w.x) .function <| require (w.dst == 0) .field <| given (srcOfCode w.s1) .sourceCode fun a => require (w.s2 == 1) .field <| .ok (.plotUncarve a w.ctl)
      | _ => .error .field
    | 4 => require (!w.x) .function <| require (w.dst == 0) .field <| given (srcOfCode w.s1) .sourceCode fun a => require (w.s2 == 0) .field <| .ok (.plotMerge a w.ctl)
    | 5 => require (!w.x) .function <| require (w.dst == 0) .field <| given (srcOfCode w.s1) .sourceCode fun a => require (w.s2 == 0) .field <| .ok (.plotSplit a w.ctl)
    | _ => .error .function
  | 121 => match w.fn.toNat with
    | 0 => require (!w.x) .function <| require (w.dst == 0) .field <| require (w.s1.toNat < 32) .field <| require (w.s2.toNat < 16) .field <| .ok (.bedClaim (w.s1.setWidth 5) (w.s2.setWidth 4) w.ctl)
    | 1 => require (!w.x) .function <| require (w.dst == 0) .field <| require (w.s1.toNat < 32) .field <| require (w.s2.toNat < 16) .field <| .ok (.bedRel (w.s1.setWidth 5) (w.s2.setWidth 4) w.ctl)
    | 2 => require (!w.x) .function <| require (w.dst == 0) .field <| given (srcOfCode w.s1) .sourceCode fun a => given (srcOfCode w.s2) .sourceCode fun b => .ok (.bedLdv a b w.ctl)
    | 3 => require (!w.x) .function <| require (w.dst == 0) .field <| require (w.s1.toNat < 32) .field <| require (w.s2.toNat < 16) .field <| .ok (.bedZero (w.s1.setWidth 5) (w.s2.setWidth 4) w.ctl)
    | 4 => require (!w.x) .function <| require (w.dst == 0) .field <| require (w.s1.toNat < 32) .field <| given (srcOfCode w.s2) .sourceCode fun b => .ok (.bedScl (w.s1.setWidth 5) b w.ctl)
    | _ => .error .function
  | 122 => given (MmaFn.ofBits w.fn) .function fun f => require (w.dst == 0) .field <| given (srcOfCode w.s2) .sourceCode fun b => .ok (.mma f w.x w.s1 b w.ctl)
  | 123 => match w.fn.toNat with
    | 0 => require (!w.x) .function <| require (w.dst == 0) .field <| require (w.s1 == 0) .field <| require (w.s2 == 0) .field <| .ok (.msyncOpf  w.ctl)
    | 1 => require (!w.x) .function <| require (w.dst == 0) .field <| require (w.s1 == 0) .field <| require (w.s2 == 0) .field <| .ok (.msyncWait  w.ctl)
    | 2 => require (!w.x) .function <| require (w.dst == 0) .field <| require (w.s1 == 0) .field <| require (w.s2 == 0) .field <| .ok (.msyncDrain  w.ctl)
    | _ => .error .function
  | 124 => given (ArdFn.ofBits w.fn) .function fun f => require (w.s1 == 0) .field <| given (srcOfCode w.s2) .sourceCode fun b => .ok (.ard f w.x w.dst b w.ctl)
  | 125 => require (w.fn == 0) .function <| require (!w.x) .function <| require (w.dst == 0) .field <| given (srcOfCode w.s1) .sourceCode fun a => given (srcOfCode w.s2) .sourceCode fun b => .ok (.awr a b w.ctl)
  | 126 => given (AstFn.ofBits w.fn) .function fun f => require (!w.x) .function <| require (w.dst == 0) .field <| given (srcOfCode w.s1) .sourceCode fun a => require (w.s2 == 0) .field <| .ok (.ast f a w.ctl)
  | 127 => require (w.fn == 0) .function <| require (!w.x) .function <| require (w.dst == 0) .field <| require (w.s1.toNat < 2) .field <| require (w.s2 == 0) .field <| .ok (.azr (w.s1.getLsbD 0) w.ctl)
  | _ => .error .opcode

/-- Decoding of a Furrow word of 64 bits: the fields of its format, then the checks of R38 point 1. -/
def decodeFurrow (w : BitVec 64) : Except DecodeError Instr :=
  match readFields (unpackFields w) with
  | .error e => .error e
  | .ok i => match i.check with
    | none => .ok i
    | some e => .error (.illFormed e)

/-- The number that bytes in ascending address order spell, little-endian (R3). -/
def natOfBytes : List (BitVec 8) → Nat
  | [] => 0
  | b :: bs => b.toNat + 256 * natOfBytes bs
/-- The n low bytes of a number, in ascending address order (R3). -/
def bytesOfNat (n : Nat) (x : Nat) : List (BitVec 8) := (List.range n).map fun j => BitVec.ofNat 8 (x / 256 ^ j)

/-- Decoding of a hart's word (R257, R291, R311, R326, R357). The eight operations of svl.ctxctl share one word; `op` is
what rs1 holds in [15:12], and the operations 8 to 15 are read as BUILD, whose meaning answers them with status 4. -/
def decodeHart (op : Nat) (w : BitVec 32) : Except DecodeError Instr :=
  let rd := w.extractLsb' 7 5
  let a := w.extractLsb' 15 5
  let b := w.extractLsb' 20 5
  if w.extractLsb' 0 7 != 0b0001011#7 then .error .notXsvl
  else match (w.extractLsb' 12 3).toNat, (w.extractLsb' 25 7).toNat with
  | 0, 0 => .ok (.svlQpost rd a b)
  | 0, 1 => if rd = 0 ∧ a = 0 ∧ b = 0 then .ok .svlQfence else .error .notXsvl
  | 0, 2 => .ok (.svlEvsig rd a b)
  | 0, 3 => .ok (.svlEvclr rd a b)
  | 0, 4 => .ok (.svlEvwait rd a b)
  | 1, 0 => .ok (.svlFqdone rd a b)
  | 1, 1 => .ok (.svlFqkill rd a b)
  | 1, 2 => .ok (.svlSysret rd a b)
  | 1, 3 => match op with
    | 1 => .ok (.ctxActivate rd a b) | 2 => .ok (.ctxPreempt rd a b) | 3 => .ok (.ctxKill rd a b)
    | 4 => .ok (.ctxRelease rd a b) | 5 => .ok (.ctxBudget rd a b) | 6 => .ok (.ctxPriority rd a b)
    | 7 => .ok (.ctxRestart rd a b) | _ => .ok (.ctxBuild rd a b)
  | 2, 0 => .ok (.svlStkgrant rd a b)
  | _, _ => .error .notXsvl

/-- Decoding of an instruction's bytes, lowest address first: eight of a Furrow word, four of a hart's. -/
def decodeBytes (bs : List (BitVec 8)) : Except DecodeError Instr :=
  if bs.length = 8 then decodeFurrow (BitVec.ofNat 64 (natOfBytes bs))
  else if bs.length = 4 then decodeHart 0 (BitVec.ofNat 32 (natOfBytes bs))
  else .error .length

/-- What the decoder reads from an instruction of `nbits` bits whose value is `w`, as the opcode table numbers them. -/
def decodeTableWord (nbits w : Nat) : Option Instr := (decodeBytes (bytesOfNat (nbits / 8) w)).toOption

/-- Word 0 and TK1 of an instruction with opcode `op` and destination `dst`. -/
def fieldsOf (c : Ctl) (op : BitVec 7) (dst : BitVec 8) (lo : BitVec 28) : Fields :=
  { tk0 := c.tk0, e := c.e, op := op, gn := c.gn, gp := c.gp, dst := dst, nw := c.nw, ld := c.ld, sbs := c.sbs, nf := c.nf, tk1 := c.tk1, lo := lo }

/-- The fields of each Furrow instruction (R37); of other instructions, the fields of a word of zeros. -/
def encodeFields : Instr → Fields
  | .nop c => fieldsOf c 0 0 (loV c.sbw 0 0 0 false)
  | .iadd f d a b c => fieldsOf c 1 d (loV c.sbw f.bits (codeOfSrc a) (codeOfSrc b) false)
  | .isub f d a b c => fieldsOf c 2 d (loV c.sbw f.bits (codeOfSrc a) (codeOfSrc b) false)
  | .imul f d a b c => fieldsOf c 3 d (loV c.sbw f.bits (codeOfSrc a) (codeOfSrc b) false)
  | .imac f d a b c => fieldsOf c 4 d (loV c.sbw f.bits (codeOfSrc a) (codeOfSrc b) false)
  | .imnx f d a b c => fieldsOf c 5 d (loV c.sbw f.bits (codeOfSrc a) (codeOfSrc b) false)
  | .log f d a b c => fieldsOf c 6 d (loV c.sbw f.bits (codeOfSrc a) (codeOfSrc b) false)
  | .shf f x64 d a b c => fieldsOf c 7 d (loV c.sbw f.bits (codeOfSrc a) (codeOfSrc b) x64)
  | .bfx sgn d a b c => fieldsOf c 8 d (loV c.sbw 0 (codeOfSrc a) (codeOfSrc b) sgn)
  | .bfi d a b c => fieldsOf c 9 d (loV c.sbw 0 (codeOfSrc a) (codeOfSrc b) false)
  | .bit f d a c => fieldsOf c 10 d (loV c.sbw f.bits (codeOfSrc a) 0 false)
  | .lea sh d a b c => fieldsOf c 11 d (loV c.sbw sh (codeOfSrc a) (codeOfSrc b) false)
  | .icmp f u d a b c => fieldsOf c 12 d (loV c.sbw f.bits (codeOfSrc a) (codeOfSrc b) u)
  | .sel k d a b c => fieldsOf c 13 d (loV c.sbw k (codeOfSrc a) (codeOfSrc b) false)
  | .mov w64 d a c => fieldsOf c 14 d (loV c.sbw ((BitVec.ofBool w64).setWidth 3) (codeOfSrc a) 0 false)
  | .kop f d a b c => fieldsOf c 15 d (loV c.sbw f.bits (codeOfSrc a) (codeOfSrc b) false)
  | .iaddi d a imm c => fieldsOf c 16 d (loI (slotOfMask c.sbw) (codeOfSrc a) imm)
  | .andi d a imm c => fieldsOf c 17 d (loI (slotOfMask c.sbw) (codeOfSrc a) imm)
  | .ori d a imm c => fieldsOf c 18 d (loI (slotOfMask c.sbw) (codeOfSrc a) imm)
  | .xori d a imm c => fieldsOf c 19 d (loI (slotOfMask c.sbw) (codeOfSrc a) imm)
  | .shli d a imm c => fieldsOf c 20 d (loI (slotOfMask c.sbw) (codeOfSrc a) imm)
  | .shri d a imm c => fieldsOf c 21 d (loI (slotOfMask c.sbw) (codeOfSrc a) imm)
  | .sari d a imm c => fieldsOf c 22 d (loI (slotOfMask c.sbw) (codeOfSrc a) imm)
  | .movil d imm c => fieldsOf c 23 d (loI (slotOfMask c.sbw) 0 imm)
  | .movih d imm c => fieldsOf c 24 d (loI (slotOfMask c.sbw) 0 imm)
  | .imuli d a imm c => fieldsOf c 25 d (loI (slotOfMask c.sbw) (codeOfSrc a) imm)
  | .srd d n c => fieldsOf c 28 d (loV c.sbw 0 n 0 false)
  | .swr n b c => fieldsOf c 29 0 (loV c.sbw 0 n (codeOfSrc b) false)
  | .sysSysc a c => fieldsOf c 30 0 (loV c.sbw 0 (codeOfSrc a) 0 false)
  | .sysTrapi n c => fieldsOf c 30 0 (loV c.sbw 1 0 (n.setWidth 9) false)
  | .sysTret c => fieldsOf c 30 0 (loV c.sbw 2 0 0 false)
  | .sysUiret c => fieldsOf c 30 0 (loV c.sbw 3 0 0 false)
  | .sysWaiti a c => fieldsOf c 30 0 (loV c.sbw 4 (codeOfSrc a) 0 false)
  | .svldSavev a c => fieldsOf c 31 0 (loV c.sbw 0 (codeOfSrc a) 0 false)
  | .svldLoadv a c => fieldsOf c 31 0 (loV c.sbw 1 (codeOfSrc a) 0 false)
  | .svldSaveu a c => fieldsOf c 31 0 (loV c.sbw 2 (codeOfSrc a) 0 false)
  | .svldLoadu a c => fieldsOf c 31 0 (loV c.sbw 3 (codeOfSrc a) 0 false)
  | .svldSavep a c => fieldsOf c 31 0 (loV c.sbw 4 (codeOfSrc a) 0 false)
  | .svldLoadp a c => fieldsOf c 31 0 (loV c.sbw 5 (codeOfSrc a) 0 false)
  | .svldSavex a c => fieldsOf c 31 0 (loV c.sbw 6 (codeOfSrc a) 0 false)
  | .svldLoadx a c => fieldsOf c 31 0 (loV c.sbw 7 (codeOfSrc a) 0 false)
  | .faddF32 m d a b c => fieldsOf c 32 d (loV c.sbw m.bits (codeOfSrc a) (codeOfSrc b) false)
  | .fsubF32 m d a b c => fieldsOf c 33 d (loV c.sbw m.bits (codeOfSrc a) (codeOfSrc b) false)
  | .fmulF32 m d a b c => fieldsOf c 34 d (loV c.sbw m.bits (codeOfSrc a) (codeOfSrc b) false)
  | .fmacF32 m d a b c => fieldsOf c 35 d (loV c.sbw m.bits (codeOfSrc a) (codeOfSrc b) false)
  | .fmnxF32 f d a b c => fieldsOf c 36 d (loV c.sbw f.bits (codeOfSrc a) (codeOfSrc b) false)
  | .fcmpF32 f d a b c => fieldsOf c 37 d (loV c.sbw f.bits (codeOfSrc a) (codeOfSrc b) false)
  | .fsgn f d a b c => fieldsOf c 38 d (loV c.sbw f.bits (codeOfSrc a) (codeOfSrc b) false)
  | .fcls d a c => fieldsOf c 39 d (loV c.sbw 0 (codeOfSrc a) 0 false)
  | .faddiF32 d a imm c => fieldsOf c 40 d (loI (slotOfMask c.sbw) (codeOfSrc a) imm)
  | .fmuliF32 d a imm c => fieldsOf c 41 d (loI (slotOfMask c.sbw) (codeOfSrc a) imm)
  | .fmaciF32 d a imm c => fieldsOf c 42 d (loI (slotOfMask c.sbw) (codeOfSrc a) imm)
  | .hadd m f16 d a b c => fieldsOf c 43 d (loV c.sbw m.bits (codeOfSrc a) (codeOfSrc b) f16)
  | .hmul m f16 d a b c => fieldsOf c 44 d (loV c.sbw m.bits (codeOfSrc a) (codeOfSrc b) f16)
  | .hmac m f16 d a b c => fieldsOf c 45 d (loV c.sbw m.bits (codeOfSrc a) (codeOfSrc b) f16)
  | .hmnx f f16 d a b c => fieldsOf c 46 d (loV c.sbw f.bits (codeOfSrc a) (codeOfSrc b) f16)
  | .hmuliBf16x2 d a imm c => fieldsOf c 47 d (loI (slotOfMask c.sbw) (codeOfSrc a) imm)
  | .hmuliF16x2 d a imm c => fieldsOf c 54 d (loI (slotOfMask c.sbw) (codeOfSrc a) imm)
  | .cvt m sat d a j p c => fieldsOf c 48 d (loV c.sbw m.bits (codeOfSrc a) ((j ++ p : BitVec 9)) sat)
  | .prmt d a b c => fieldsOf c 49 d (loV c.sbw 0 (codeOfSrc a) (codeOfSrc b) false)
  | .prmti d a imm c => fieldsOf c 50 d (loI (slotOfMask c.sbw) (codeOfSrc a) imm)
  | .mxsc bs a c => fieldsOf c 51 0 (loV c.sbw (bs.setWidth 3) (codeOfSrc a) 0 false)
  | .vdot f d a b c => fieldsOf c 52 d (loV c.sbw f.bits (codeOfSrc a) (codeOfSrc b) false)
  | .qclmp d a imm c => fieldsOf c 53 d (loI (slotOfMask c.sbw) (codeOfSrc a) imm)
  | .sfuF32 f d a c => fieldsOf c 56 d (loV c.sbw f.bits (codeOfSrc a) 0 false)
  | .sfuBf16x2 f d a c => fieldsOf c 57 d (loV c.sbw f.bits (codeOfSrc a) 0 false)
  | .idiv f d a b c => fieldsOf c 58 d (loV c.sbw f.bits (codeOfSrc a) (codeOfSrc b) false)
  | .fdivF32 m d a b c => fieldsOf c 59 d (loV c.sbw m.bits (codeOfSrc a) (codeOfSrc b) false)
  | .lxch f d a b c => fieldsOf c 64 d (loV c.sbw f.bits (codeOfSrc a) (codeOfSrc b) false)
  | .qx f d a b c => fieldsOf c 65 d (loV c.sbw f.bits (codeOfSrc a) (codeOfSrc b) false)
  | .vote f d a c => fieldsOf c 66 d (loV c.sbw f.bits (codeOfSrc a) 0 false)
  | .redx f d a c => fieldsOf c 67 d (loV c.sbw f.bits (codeOfSrc a) 0 false)
  | .vgeti d a imm c => fieldsOf c 68 d (loI (slotOfMask c.sbw) (codeOfSrc a) imm)
  | .vputi d a imm c => fieldsOf c 69 d (loI (slotOfMask c.sbw) (codeOfSrc a) imm)
  | .tcfg t a c => fieldsOf c 72 (t.setWidth 8) (loV c.sbw 0 (codeOfSrc a) 0 false)
  | .tmvr t a b c => fieldsOf c 73 (t.setWidth 8) (loV c.sbw 0 (codeOfSrc a) (codeOfSrc b) false)
  | .tmvc t a b c => fieldsOf c 74 (t.setWidth 8) (loV c.sbw 0 (codeOfSrc a) (codeOfSrc b) false)
  | .trdr d u b c => fieldsOf c 75 d (loV c.sbw 0 (u.setWidth 9) (codeOfSrc b) false)
  | .trdc d u b c => fieldsOf c 76 d (loV c.sbw 0 (u.setWidth 9) (codeOfSrc b) false)
  | .topZero t c => fieldsOf c 77 (t.setWidth 8) (loV c.sbw 0 0 0 false)
  | .topTrans t u c => fieldsOf c 77 (t.setWidth 8) (loV c.sbw 1 (u.setWidth 9) 0 false)
  | .topRel t c => fieldsOf c 77 (t.setWidth 8) (loV c.sbw 2 0 0 false)
  | .topCopy t u c => fieldsOf c 77 (t.setWidth 8) (loV c.sbw 3 (u.setWidth 9) 0 false)
  | .tsave t a c => fieldsOf c 78 (t.setWidth 8) (loV c.sbw 0 (codeOfSrc a) 0 false)
  | .tload t a c => fieldsOf c 79 (t.setWidth 8) (loV c.sbw 0 (codeOfSrc a) 0 false)
  | .bra ofs c => fieldsOf c 80 0 (loB c.sbw 0 ofs)
  | .brz ofs c => fieldsOf c 81 0 (loB c.sbw 0 ofs)
  | .call d ofs c => fieldsOf c 82 d (loB c.sbw 0 ofs)
  | .ret a c => fieldsOf c 83 0 (loV c.sbw 0 (codeOfSrc a) 0 false)
  | .jmpu a c => fieldsOf c 84 0 (loV c.sbw 0 (codeOfSrc a) 0 false)
  | .jmpv a c => fieldsOf c 85 0 (loV c.sbw 0 (codeOfSrc a) 0 false)
  | .land c => fieldsOf c 86 0 (loV c.sbw 0 0 0 false)
  | .loop d ofs c => fieldsOf c 87 d (loB c.sbw 0 ofs)
  | .mpush c => fieldsOf c 88 0 (loV c.sbw 0 0 0 false)
  | .minv c => fieldsOf c 89 0 (loV c.sbw 0 0 0 false)
  | .mpop c => fieldsOf c 90 0 (loV c.sbw 0 0 0 false)
  | .kmask d c => fieldsOf c 91 d (loV c.sbw 0 0 0 false)
  | .prefi n ofs c => fieldsOf c 92 0 (loB c.sbw n ofs)
  | .exit c => fieldsOf c 93 0 (loV c.sbw 0 0 0 false)
  | .exitSucc a c => fieldsOf c 93 0 (loV c.sbw 1 (codeOfSrc a) 0 false)
  | .ld f d a ofs c => fieldsOf c 96 d (loM c.sbw f.bits (codeOfSrc a) ofs)
  | .st f d a ofs c => fieldsOf c 97 d (loM c.sbw f.bits (codeOfSrc a) ofs)
  | .lds f d a ofs c => fieldsOf c 98 d (loM c.sbw f.bits (codeOfSrc a) ofs)
  | .sts f d a ofs c => fieldsOf c 99 d (loM c.sbw f.bits (codeOfSrc a) ofs)
  | .ldu f d a ofs c => fieldsOf c 100 d (loM c.sbw f.bits (codeOfSrc a) ofs)
  | .atomI32 f u d a b c => fieldsOf c 101 d (loV c.sbw f.bits (codeOfSrc a) (codeOfSrc b) u)
  | .atomI64 f u d a b c => fieldsOf c 102 d (loV c.sbw f.bits (codeOfSrc a) (codeOfSrc b) u)
  | .atomF32 f d a b c => fieldsOf c 103 d (loV c.sbw f.bits (codeOfSrc a) (codeOfSrc b) false)
  | .redI32 f u a b c => fieldsOf c 104 0 (loV c.sbw f.bits (codeOfSrc a) (codeOfSrc b) u)
  | .redF32 f a b c => fieldsOf c 105 0 (loV c.sbw f.bits (codeOfSrc a) (codeOfSrc b) false)
  | .redBf16x2 a b c => fieldsOf c 106 0 (loV c.sbw 0 (codeOfSrc a) (codeOfSrc b) false)
  | .atoms f u d a b c => fieldsOf c 107 d (loV c.sbw f.bits (codeOfSrc a) (codeOfSrc b) u)
  | .fenceAcq sc c => fieldsOf c 108 0 (loV c.sbw sc.bits 0 0 false)
  | .fenceRel sc c => fieldsOf c 108 0 (loV c.sbw sc.bits 0 1 false)
  | .fenceAr sc c => fieldsOf c 108 0 (loV c.sbw sc.bits 0 2 false)
  | .prefd a ofs c => fieldsOf c 109 0 (loM c.sbw 0 (codeOfSrc a) ofs)
  | .cacheWb a c => fieldsOf c 110 0 (loV c.sbw 0 (codeOfSrc a) 0 false)
  | .cacheInv a c => fieldsOf c 110 0 (loV c.sbw 1 (codeOfSrc a) 0 false)
  | .cacheWbi a c => fieldsOf c 110 0 (loV c.sbw 2 (codeOfSrc a) 0 false)
  | .ringCfg a b c => fieldsOf c 112 0 (loV c.sbw 0 (codeOfSrc a) (codeOfSrc b) false)
  | .ringClm d a c => fieldsOf c 112 d (loV c.sbw 1 (codeOfSrc a) 0 false)
  | .ringPub a b c => fieldsOf c 112 0 (loV c.sbw 2 (codeOfSrc a) (codeOfSrc b) false)
  | .ringWtf d a c => fieldsOf c 112 d (loV c.sbw 3 (codeOfSrc a) 0 false)
  | .ringRel a b c => fieldsOf c 112 0 (loV c.sbw 4 (codeOfSrc a) (codeOfSrc b) false)
  | .ringWte d a c => fieldsOf c 112 d (loV c.sbw 5 (codeOfSrc a) 0 false)
  | .ringQry d a c => fieldsOf c 112 d (loV c.sbw 6 (codeOfSrc a) 0 false)
  | .stashMap a b c => fieldsOf c 113 0 (loV c.sbw 0 (codeOfSrc a) (codeOfSrc b) false)
  | .stashUnmap a c => fieldsOf c 113 0 (loV c.sbw 1 (codeOfSrc a) 0 false)
  | .stashFlush a c => fieldsOf c 113 0 (loV c.sbw 2 (codeOfSrc a) 0 false)
  | .stashInv a c => fieldsOf c 113 0 (loV c.sbw 3 (codeOfSrc a) 0 false)
  | .cpyGl a c => fieldsOf c 114 0 (loV c.sbw 0 (codeOfSrc a) 0 false)
  | .cpyLg a c => fieldsOf c 114 0 (loV c.sbw 1 (codeOfSrc a) 0 false)
  | .cpyGg a c => fieldsOf c 114 0 (loV c.sbw 2 (codeOfSrc a) 0 false)
  | .cpyGb a c => fieldsOf c 114 0 (loV c.sbw 3 (codeOfSrc a) 0 false)
  | .cpyLb a c => fieldsOf c 114 0 (loV c.sbw 4 (codeOfSrc a) 0 false)
  | .cpyFill a c => fieldsOf c 114 0 (loV c.sbw 5 (codeOfSrc a) 0 false)
  | .barAll a b c => fieldsOf c 115 0 (loV c.sbw 0 (codeOfSrc a) (codeOfSrc b) false)
  | .barPost a b c => fieldsOf c 115 0 (loV c.sbw 1 (codeOfSrc a) (codeOfSrc b) false)
  | .barHold a c => fieldsOf c 115 0 (loV c.sbw 2 (codeOfSrc a) 0 false)
  | .barCroft c => fieldsOf c 115 0 (loV c.sbw 3 0 0 false)
  | .barGrid c => fieldsOf c 115 0 (loV c.sbw 4 0 0 false)
  | .mbarInit a b c => fieldsOf c 116 0 (loV c.sbw 0 (codeOfSrc a) (codeOfSrc b) false)
  | .mbarArr a b c => fieldsOf c 116 0 (loV c.sbw 1 (codeOfSrc a) (codeOfSrc b) false)
  | .mbarWait a b c => fieldsOf c 116 0 (loV c.sbw 2 (codeOfSrc a) (codeOfSrc b) false)
  | .mbarTest d a b c => fieldsOf c 116 d (loV c.sbw 3 (codeOfSrc a) (codeOfSrc b) false)
  | .mbarInv a c => fieldsOf c 116 0 (loV c.sbw 4 (codeOfSrc a) 0 false)
  | .lnchPost a b c => fieldsOf c 117 0 (loV c.sbw 0 (codeOfSrc a) (codeOfSrc b) false)
  | .lnchEvsig a b c => fieldsOf c 117 0 (loV c.sbw 1 (codeOfSrc a) (codeOfSrc b) false)
  | .lnchEvtst d a b c => fieldsOf c 117 d (loV c.sbw 2 (codeOfSrc a) (codeOfSrc b) false)
  | .lnchEvclr a b c => fieldsOf c 117 0 (loV c.sbw 3 (codeOfSrc a) (codeOfSrc b) false)
  | .stkCede sd c => fieldsOf c 118 0 (loV c.sbw 0 0 (sd.setWidth 9) false)
  | .stkTake sd c => fieldsOf c 118 0 (loV c.sbw 1 0 (sd.setWidth 9) false)
  | .stkQry d sd c => fieldsOf c 118 d (loV c.sbw 2 0 (sd.setWidth 9) false)
  | .plotRsv d a c => fieldsOf c 120 d (loV c.sbw 0 (codeOfSrc a) 0 false)
  | .plotRel c => fieldsOf c 120 0 (loV c.sbw 1 0 0 false)
  | .plotQry d which c => fieldsOf c 120 d (loV c.sbw 2 0 (which.setWidth 9) false)
  | .plotCarve a c => fieldsOf c 120 0 (loV c.sbw 3 (codeOfSrc a) 0 false)
  | .plotUncarve a c => fieldsOf c 120 0 (loV c.sbw 3 (codeOfSrc a) 1 false)
  | .plotMerge a c => fieldsOf c 120 0 (loV c.sbw 4 (codeOfSrc a) 0 false)
  | .plotSplit a c => fieldsOf c 120 0 (loV c.sbw 5 (codeOfSrc a) 0 false)
  | .bedClaim sl cnt c => fieldsOf c 121 0 (loV c.sbw 0 (sl.setWidth 9) (cnt.setWidth 9) false)
  | .bedRel sl cnt c => fieldsOf c 121 0 (loV c.sbw 1 (sl.setWidth 9) (cnt.setWidth 9) false)
  | .bedLdv a b c => fieldsOf c 121 0 (loV c.sbw 2 (codeOfSrc a) (codeOfSrc b) false)
  | .bedZero sl cnt c => fieldsOf c 121 0 (loV c.sbw 3 (sl.setWidth 9) (cnt.setWidth 9) false)
  | .bedScl sl b c => fieldsOf c 121 0 (loV c.sbw 4 (sl.setWidth 9) (codeOfSrc b) false)
  | .mma f ovr slots b c => fieldsOf c 122 0 (loV c.sbw f.bits slots (codeOfSrc b) ovr)
  | .msyncOpf c => fieldsOf c 123 0 (loV c.sbw 0 0 0 false)
  | .msyncWait c => fieldsOf c 123 0 (loV c.sbw 1 0 0 false)
  | .msyncDrain c => fieldsOf c 123 0 (loV c.sbw 2 0 0 false)
  | .ard f bf d b c => fieldsOf c 124 d (loV c.sbw f.bits 0 (codeOfSrc b) bf)
  | .awr a b c => fieldsOf c 125 0 (loV c.sbw 0 (codeOfSrc a) (codeOfSrc b) false)
  | .ast f a c => fieldsOf c 126 0 (loV c.sbw f.bits (codeOfSrc a) 0 false)
  | .azr bank c => fieldsOf c 127 0 (loV c.sbw 0 ((BitVec.ofBool bank).setWidth 9) 0 false)
  | .svlStkgrant _ _ _ | .ctxBuild _ _ _ | .ctxActivate _ _ _ | .ctxPreempt _ _ _ | .ctxKill _ _ _
  | .ctxRelease _ _ _ | .ctxBudget _ _ _ | .ctxPriority _ _ _ | .ctxRestart _ _ _ | .svlSysret _ _ _
  | .svlFqdone _ _ _ | .svlFqkill _ _ _ | .svlQpost _ _ _ | .svlQfence | .svlEvsig _ _ _ | .svlEvclr _ _ _
  | .svlEvwait _ _ _ | .swathArbitration _ _ _ | .stallEnd _ | .resultLanding _
  | .variableResultLanding _ _ _ _ | .storeQueueDeparture _ _ | .longWaitMet _ | .waitiDeadline _
  | .boundaryTrap _ | .userInterruptDelivery _ | .preempt _ | .overrun _ | .budgetExhausted _
  | .fetchBufferRequest _ | .icacheFillDone _ _ _ | .fetchFault _ | .directoryRequest _ _ _
  | .atomPerform _ _ _ _ | .ringRequestServed _ _ | .stationDequeue _ _ _ | .copyCompletion _ _ _
  | .copyFaultStop _ _ | .copyAbort _ _ | .collectiveAssembly _ | .plotCommandDequeue _ | .mmaStart _
  | .mmaCompletion _ | .postedBedWriteDone _ _ | .astFaultStop _ | .plotEccError _ | .cedeAccept _
  | .handoverDrainStep _ | .handoverPortOpen _ | .stackZeroingDone _ | .groupPlacement _ _
  | .groupExitSequence _ | .groupRecordWrite _ | .groupRestore _ _ | .contextRetire _ | .syscallQueuePost _
  | .taskPost _ | .faultRecordPost _ | .packetCheck _ _ | .kcbRead _ | .qcmdOpen _ | .qcmdPause _
  | .qcmdResume _ | .qcmdDrain _ | .queueDrainDone _ | .scqbaseWrite _ _ | .scqheadWrite _ _
  | .fqbaseWrite _ _ | .fqheadWrite _ _ | .tlbiVaAsid _ | .tlbiAsid _ | .tlbiVaAll _ | .tlbiAll _
  | .shootdownDone | .icflushGo _ | .icflushDone _ | .linkIsolate _ | .linkReset _ | .linkRetrain _
  | .linkTrainingDone _ _ _ | .linkLaneFailure _ _ | .directoryTimeout _ | .heartbeatTimeout _
  | .linkUncorrectableError _ | .pcieContainment _ | .chipletIsolation _ | .chipletResetDone _
  | .pciebifWrite _ | .remoteResponse _ _ _ | .inboundRemoteAccess _ _ _ _ | .opctlWrite _ _ _
  | .clockTransitionDone _ | .tsensRefresh _ _ _ | .thermalTrip _ _ | .overCurrentAlarm _ | .ocauseWrite _ _
  | .eccceWrite _ | .uvSramError _ | .coldReset _ | .warmReset _ _ | .attestationRequest _ _
  | .registerWrite _ _ _ _ | .astCompletion _ _ | .astAbort _ | .bedZeroSclCompletion _ | .sramCorrectedError _ => fieldsOf {} 0 0 0

/-- The word of a hart instruction: opcode 0b0001011 with these functions and registers. -/
def hartWord (f3 : BitVec 3) (f7 : BitVec 7) (rd a b : BitVec 5) : BitVec 32 :=
  f7 ++ (b ++ (a ++ (f3 ++ (rd ++ 0b0001011#7))))

/-- The 32-bit words of an instruction, the first at the lowest address; an event has none. -/
def encode : Instr → List (BitVec 32)
  | .svlQpost rd a b => [hartWord 0 0 rd a b] | .svlQfence => [hartWord 0 1 0 0 0]
  | .svlEvsig rd a b => [hartWord 0 2 rd a b] | .svlEvclr rd a b => [hartWord 0 3 rd a b]
  | .svlEvwait rd a b => [hartWord 0 4 rd a b] | .svlFqdone rd a b => [hartWord 1 0 rd a b]
  | .svlFqkill rd a b => [hartWord 1 1 rd a b] | .svlSysret rd a b => [hartWord 1 2 rd a b]
  | .ctxBuild rd a b | .ctxActivate rd a b | .ctxPreempt rd a b | .ctxKill rd a b | .ctxRelease rd a b
  | .ctxBudget rd a b | .ctxPriority rd a b | .ctxRestart rd a b => [hartWord 1 3 rd a b]
  | .svlStkgrant rd a b => [hartWord 2 0 rd a b]
  | .swathArbitration _ _ _ | .stallEnd _ | .resultLanding _ | .variableResultLanding _ _ _ _
  | .storeQueueDeparture _ _ | .longWaitMet _ | .waitiDeadline _ | .boundaryTrap _ | .userInterruptDelivery _
  | .preempt _ | .overrun _ | .budgetExhausted _ | .fetchBufferRequest _ | .icacheFillDone _ _ _
  | .fetchFault _ | .directoryRequest _ _ _ | .atomPerform _ _ _ _ | .ringRequestServed _ _
  | .stationDequeue _ _ _ | .copyCompletion _ _ _ | .copyFaultStop _ _ | .copyAbort _ _ | .collectiveAssembly _
  | .plotCommandDequeue _ | .mmaStart _ | .mmaCompletion _ | .postedBedWriteDone _ _ | .astFaultStop _
  | .plotEccError _ | .cedeAccept _ | .handoverDrainStep _ | .handoverPortOpen _ | .stackZeroingDone _
  | .groupPlacement _ _ | .groupExitSequence _ | .groupRecordWrite _ | .groupRestore _ _ | .contextRetire _
  | .syscallQueuePost _ | .taskPost _ | .faultRecordPost _ | .packetCheck _ _ | .kcbRead _ | .qcmdOpen _
  | .qcmdPause _ | .qcmdResume _ | .qcmdDrain _ | .queueDrainDone _ | .scqbaseWrite _ _ | .scqheadWrite _ _
  | .fqbaseWrite _ _ | .fqheadWrite _ _ | .tlbiVaAsid _ | .tlbiAsid _ | .tlbiVaAll _ | .tlbiAll _
  | .shootdownDone | .icflushGo _ | .icflushDone _ | .linkIsolate _ | .linkReset _ | .linkRetrain _
  | .linkTrainingDone _ _ _ | .linkLaneFailure _ _ | .directoryTimeout _ | .heartbeatTimeout _
  | .linkUncorrectableError _ | .pcieContainment _ | .chipletIsolation _ | .chipletResetDone _
  | .pciebifWrite _ | .remoteResponse _ _ _ | .inboundRemoteAccess _ _ _ _ | .opctlWrite _ _ _
  | .clockTransitionDone _ | .tsensRefresh _ _ _ | .thermalTrip _ _ | .overCurrentAlarm _ | .ocauseWrite _ _
  | .eccceWrite _ | .uvSramError _ | .coldReset _ | .warmReset _ _ | .attestationRequest _ _
  | .registerWrite _ _ _ _ | .astCompletion _ _ | .astAbort _ | .bedZeroSclCompletion _ | .sramCorrectedError _ => []
  | i@(.nop _) | i@(.iadd _ _ _ _ _) | i@(.isub _ _ _ _ _) | i@(.imul _ _ _ _ _) | i@(.imac _ _ _ _ _)
  | i@(.imnx _ _ _ _ _) | i@(.log _ _ _ _ _) | i@(.shf _ _ _ _ _ _) | i@(.bfx _ _ _ _ _) | i@(.bfi _ _ _ _)
  | i@(.bit _ _ _ _) | i@(.lea _ _ _ _ _) | i@(.icmp _ _ _ _ _ _) | i@(.sel _ _ _ _ _) | i@(.mov _ _ _ _)
  | i@(.kop _ _ _ _ _) | i@(.iaddi _ _ _ _) | i@(.andi _ _ _ _) | i@(.ori _ _ _ _) | i@(.xori _ _ _ _)
  | i@(.shli _ _ _ _) | i@(.shri _ _ _ _) | i@(.sari _ _ _ _) | i@(.movil _ _ _) | i@(.movih _ _ _)
  | i@(.imuli _ _ _ _) | i@(.srd _ _ _) | i@(.swr _ _ _) | i@(.sysSysc _ _) | i@(.sysTrapi _ _)
  | i@(.sysTret _) | i@(.sysUiret _) | i@(.sysWaiti _ _) | i@(.svldSavev _ _) | i@(.svldLoadv _ _)
  | i@(.svldSaveu _ _) | i@(.svldLoadu _ _) | i@(.svldSavep _ _) | i@(.svldLoadp _ _) | i@(.svldSavex _ _)
  | i@(.svldLoadx _ _) | i@(.faddF32 _ _ _ _ _) | i@(.fsubF32 _ _ _ _ _) | i@(.fmulF32 _ _ _ _ _)
  | i@(.fmacF32 _ _ _ _ _) | i@(.fmnxF32 _ _ _ _ _) | i@(.fcmpF32 _ _ _ _ _) | i@(.fsgn _ _ _ _ _)
  | i@(.fcls _ _ _) | i@(.faddiF32 _ _ _ _) | i@(.fmuliF32 _ _ _ _) | i@(.fmaciF32 _ _ _ _)
  | i@(.hadd _ _ _ _ _ _) | i@(.hmul _ _ _ _ _ _) | i@(.hmac _ _ _ _ _ _) | i@(.hmnx _ _ _ _ _ _)
  | i@(.hmuliBf16x2 _ _ _ _) | i@(.hmuliF16x2 _ _ _ _) | i@(.cvt _ _ _ _ _ _ _) | i@(.prmt _ _ _ _)
  | i@(.prmti _ _ _ _) | i@(.mxsc _ _ _) | i@(.vdot _ _ _ _ _) | i@(.qclmp _ _ _ _) | i@(.sfuF32 _ _ _ _)
  | i@(.sfuBf16x2 _ _ _ _) | i@(.idiv _ _ _ _ _) | i@(.fdivF32 _ _ _ _ _) | i@(.lxch _ _ _ _ _)
  | i@(.qx _ _ _ _ _) | i@(.vote _ _ _ _) | i@(.redx _ _ _ _) | i@(.vgeti _ _ _ _) | i@(.vputi _ _ _ _)
  | i@(.tcfg _ _ _) | i@(.tmvr _ _ _ _) | i@(.tmvc _ _ _ _) | i@(.trdr _ _ _ _) | i@(.trdc _ _ _ _)
  | i@(.topZero _ _) | i@(.topTrans _ _ _) | i@(.topRel _ _) | i@(.topCopy _ _ _) | i@(.tsave _ _ _)
  | i@(.tload _ _ _) | i@(.bra _ _) | i@(.brz _ _) | i@(.call _ _ _) | i@(.ret _ _) | i@(.jmpu _ _)
  | i@(.jmpv _ _) | i@(.land _) | i@(.loop _ _ _) | i@(.mpush _) | i@(.minv _) | i@(.mpop _) | i@(.kmask _ _)
  | i@(.prefi _ _ _) | i@(.exit _) | i@(.exitSucc _ _) | i@(.ld _ _ _ _ _) | i@(.st _ _ _ _ _)
  | i@(.lds _ _ _ _ _) | i@(.sts _ _ _ _ _) | i@(.ldu _ _ _ _ _) | i@(.atomI32 _ _ _ _ _ _)
  | i@(.atomI64 _ _ _ _ _ _) | i@(.atomF32 _ _ _ _ _) | i@(.redI32 _ _ _ _ _) | i@(.redF32 _ _ _ _)
  | i@(.redBf16x2 _ _ _) | i@(.atoms _ _ _ _ _ _) | i@(.fenceAcq _ _) | i@(.fenceRel _ _) | i@(.fenceAr _ _)
  | i@(.prefd _ _ _) | i@(.cacheWb _ _) | i@(.cacheInv _ _) | i@(.cacheWbi _ _) | i@(.ringCfg _ _ _)
  | i@(.ringClm _ _ _) | i@(.ringPub _ _ _) | i@(.ringWtf _ _ _) | i@(.ringRel _ _ _) | i@(.ringWte _ _ _)
  | i@(.ringQry _ _ _) | i@(.stashMap _ _ _) | i@(.stashUnmap _ _) | i@(.stashFlush _ _) | i@(.stashInv _ _)
  | i@(.cpyGl _ _) | i@(.cpyLg _ _) | i@(.cpyGg _ _) | i@(.cpyGb _ _) | i@(.cpyLb _ _) | i@(.cpyFill _ _)
  | i@(.barAll _ _ _) | i@(.barPost _ _ _) | i@(.barHold _ _) | i@(.barCroft _) | i@(.barGrid _)
  | i@(.mbarInit _ _ _) | i@(.mbarArr _ _ _) | i@(.mbarWait _ _ _) | i@(.mbarTest _ _ _ _) | i@(.mbarInv _ _)
  | i@(.lnchPost _ _ _) | i@(.lnchEvsig _ _ _) | i@(.lnchEvtst _ _ _ _) | i@(.lnchEvclr _ _ _)
  | i@(.stkCede _ _) | i@(.stkTake _ _) | i@(.stkQry _ _ _) | i@(.plotRsv _ _ _) | i@(.plotRel _)
  | i@(.plotQry _ _ _) | i@(.plotCarve _ _) | i@(.plotUncarve _ _) | i@(.plotMerge _ _) | i@(.plotSplit _ _)
  | i@(.bedClaim _ _ _) | i@(.bedRel _ _ _) | i@(.bedLdv _ _ _) | i@(.bedZero _ _ _) | i@(.bedScl _ _ _)
  | i@(.mma _ _ _ _ _) | i@(.msyncOpf _) | i@(.msyncWait _) | i@(.msyncDrain _) | i@(.ard _ _ _ _ _)
  | i@(.awr _ _ _) | i@(.ast _ _ _) | i@(.azr _ _) =>
    let w := packFields (encodeFields i)
    [w.extractLsb' 0 32, w.extractLsb' 32 32]

end Sys2Proof
end

