-- ==== Sys2Proof/Machine/Harts.lean ====
section
/-!
DEFINITION. Harts (R9, R257, R313): registers, exceptions, interrupts, and fetching. The spec names the RISC-V profile; what the
RISC-V specifications say of it is the family's (logs 12, 13 and 88, PRESUMED).
-/
namespace Sys2Proof.Machine

/-- An instruction that a hart executes. -/
def isHart (i : Instr) : Bool :=
  match i with
  | .svlStkgrant .. | .ctxBuild .. | .ctxActivate .. | .ctxPreempt .. | .ctxKill .. | .ctxRelease .. | .ctxBudget ..
  | .ctxPriority .. | .ctxRestart .. | .svlSysret .. | .svlFqdone .. | .svlFqkill .. | .svlQpost .. | .svlQfence
  | .svlEvsig .. | .svlEvclr .. | .svlEvwait .. => true
  | _ => false

/-- A hart's record; one that nothing has changed is off. -/
def State.hart (s : State) (n : Nat) : Hart := tblGet s.harts n {}
/-- Changes a hart's record. -/
def State.setHart (s : State) (n : Nat) (h : Hart) : State := { s with harts := tblSet s.harts n h }
/-- A hart's register; x0 reads zero. -/
def Hart.xAt (h : Hart) (r : BitVec 5) : DWord := if r = 0 then 0 else tblGet h.x r.toNat 0
/-- Writes a hart's register; a write to x0 is discarded. -/
def Hart.putX (h : Hart) (r : BitVec 5) (v : DWord) : Hart := if r = 0 then h else { h with x := tblSet h.x r.toNat v }
/-- A CSR that the hart's table holds (log 13, PRESUMED). -/
def Hart.csrAt (h : Hart) (n : Nat) : DWord := tblGet h.csr n 0
/-- Writes such a CSR. -/
def Hart.putCsr (h : Hart) (n : Nat) (v : DWord) : Hart := { h with csr := tblSet h.csr n v }
/-- Sets bits of such a CSR to the bits of a value. -/
def Hart.maskCsr (h : Hart) (n : Nat) (m v : DWord) : Hart := h.putCsr n ((h.csrAt n &&& ~~~m) ||| (v &&& m))
/-- The hart runs a guest. -/
def Hart.virt (h : Hart) : Bool := h.mode = .vs || h.mode = .vu
/-- The mode that a privilege number and a virtualisation bit name. -/
def modeNamed (p : Nat) (v : Bool) : HartMode := if p = 3 then .m else if v then (if p = 0 then .vu else .vs) else (if p = 0 then .u else .hs)
/-- The address that a trap goes to: vectored for interrupts where the vector register asks for it. -/
def trapPc (tvec cause : DWord) : DWord :=
  (tvec &&& ~~~(3 : DWord)) + (if cause.getLsbD 63 && tvec.getLsbD 0 then 4 * (cause &&& 0x3FF) else 0)
/-- Exceptions whose value is an address, which is a guest's where the hart runs one (GVA). -/
def addressCauses : List Nat := [0, 1, 3, 4, 5, 6, 7, 12, 13, 15, 20, 21, 23]
/-- ENTERING A TRAP on a hart in a given mode (log 12, PRESUMED): cause, value, pc and mode are saved, interrupts are off, and the pc
goes to the mode's vector. -/
def Hart.enter (h : Hart) (to_ : HartMode) (cause tval gpa : DWord) (gva : Bool) : Hart :=
  let super := h.mode = .hs || h.mode = .vs
  match to_ with
  | .vs =>
    let h' := ((h.putCsr 0x241 h.pc).putCsr 0x242 cause).putCsr 0x243 tval
    let st := h.csrAt 0x200
    let st' := putField (putField (putField st 8 1 super.toNat) 5 1 (st.getLsbD 1).toNat) 1 1 0
    { h'.putCsr 0x200 st' with mode := .vs, pc := trapPc (h.csrAt 0x205) cause }
  | .hs =>
    let h' := ((((h.putCsr 0x141 h.pc).putCsr 0x142 cause).putCsr 0x143 tval).putCsr 0x643 (gpa >>> 2)).putCsr 0x64A 0
    let st := h.csrAt 0x300
    let st' := putField (putField (putField st 8 1 super.toNat) 5 1 (st.getLsbD 1).toNat) 1 1 0
    let hst := putField (putField (h.csrAt 0x600) 7 1 h.virt.toNat) 6 1 gva.toNat
    let hst := if h.virt then putField hst 8 1 super.toNat else hst
    { (h'.putCsr 0x300 st').putCsr 0x600 hst with mode := .hs, pc := trapPc (h.csrAt 0x105) cause }
  | _ =>
    let mpp : BitVec 2 := match h.mode with | .m => 3 | .hs | .vs => 1 | .u | .vu => 0
    { ((h.maskCsr 0x300 (1#64 <<< 38) (if gva then 1#64 <<< 38 else 0)).putCsr 0x34B (gpa >>> 2)).putCsr 0x34A 0 with
      mepc := h.pc, mcause := cause, mtval := tval, mpp := mpp, mpv := h.virt, mpie := h.mie, mie := false, mode := .m, pc := trapPc h.mtvec cause }
/-- The mode that takes an exception: M, or the mode that medeleg and hedeleg give it to. -/
def Hart.takes (h : Hart) (cause : Nat) : HartMode :=
  if h.mode = .m || !h.csrBit 0x302 cause then .m else if h.virt && h.csrBit 0x602 cause then .vs else .hs
/-- Taking an exception on a hart: cause, value, and the guest's physical address of a guest page fault. -/
def Hart.trap (h : Hart) (cause : Nat) (tval : DWord) (gpa : DWord := 0) : Hart :=
  h.enter (h.takes cause) (BitVec.ofNat 64 cause) tval gpa (h.virt && addressCauses.contains cause)

/-- The identity that an interrupt file signals, 0 for none: the lowest that is pending and enabled below the threshold. -/
def Imsic.top (x : Imsic) : Nat :=
  ((List.range 256).find? fun i => i ≠ 0 && (x.pending &&& x.enabled).getLsbD i && (x.threshold = 0 || i < x.threshold)).getD 0
/-- An interrupt file of a hart: 0 for M, 1 for S, 2 to 8 for guests 1 to 7 (R313). -/
def State.file (s : State) (n f : Nat) : Imsic := tblGet s.imsics (n * 16 + f) {}
/-- An interrupt file signals its hart. -/
def State.signals (s : State) (n f : Nat) : Bool := (s.file n f).deliver && (s.file n f).top ≠ 0
/-- Guest files that signal a hart (hgeip). -/
def State.hgeip (s : State) (n : Nat) : DWord :=
  (List.range 7).foldl (fun (v : DWord) j => if s.signals n (2 + j) then v ||| (2#64 <<< j) else v) 0
/-- The interrupts that are pending for a hart (mip): software's bits, the timers against GTIME (R308), the interrupt files
(R313). -/
def State.mip (s : State) (n : Nat) : DWord :=
  let h := s.hart n
  let hvip := h.csrAt 0x645
  let sw := h.csrAt 0x344
  let bit (b : Nat) (p : Bool) : DWord := if p then 1#64 <<< b else 0
  let guest := field (h.csrAt 0x600) 12 6
  (sw &&& 0x202) ||| bit 5 (if h.csrBit 0x30A 63 then decide ((h.csrAt 0x14D).toNat ≤ s.gtime.toNat) else sw.getLsbD 5) |||
  bit 6 (hvip.getLsbD 6 || (h.csrBit 0x60A 63 && decide ((h.csrAt 0x24D).toNat ≤ (s.gtime + h.csrAt 0x605).toNat))) |||
  bit 2 (hvip.getLsbD 2) ||| bit 9 (s.signals n 1) ||| bit 10 (hvip.getLsbD 10 || (guest ≠ 0 && (s.hgeip n).getLsbD guest)) |||
  bit 11 (s.signals n 0) ||| bit 12 (s.hgeip n &&& h.csrAt 0x607 ≠ 0)
/-- Supervisor interrupts that M-mode has delegated; those of guests always are. -/
def Hart.mideleg (h : Hart) : DWord := h.csrAt 0x303 ||| 0x1444
/-- Interrupts in the order of their priority. -/
def intOrder : List Nat := [11, 3, 7, 9, 1, 5, 12, 10, 2, 6]
/-- The interrupt of highest priority among some. -/
def topInt (v : DWord) : Option Nat := intOrder.find? v.getLsbD
/-- The interrupts that are pending and enabled for each mode: M, HS, VS. -/
def State.hartInts (s : State) (n : Nat) : DWord × DWord × DWord :=
  let h := s.hart n
  let v := s.mip n &&& h.csrAt 0x304
  let deleg := h.mideleg
  (v &&& ~~~deleg, v &&& deleg &&& ~~~(h.csrAt 0x603), v &&& deleg &&& h.csrAt 0x603)
/-- The interrupt that a hart takes now, with the mode that takes it (log 88, PRESUMED). -/
def State.hartInt (s : State) (n : Nat) : Option (HartMode × Nat) :=
  let h := s.hart n
  let (m, hs, vs) := s.hartInts n
  let on (b : Bool) (v : DWord) (to_ : HartMode) : Option (HartMode × Nat) := if b then (topInt v).map fun i => (to_, i) else none
  on (h.mode ≠ .m || h.mie) m .m <|> on (h.mode = .u || h.virt || (h.mode = .hs && h.csrBit 0x300 1)) hs .hs <|>
  on (h.mode = .vu || (h.mode = .vs && h.csrBit 0x200 1)) vs .vs
/-- Taking an interrupt: a guest sees its own number for it. -/
def Hart.interrupt (h : Hart) (to_ : HartMode) (i : Nat) : Hart :=
  h.enter to_ (0x8000000000000000 ||| BitVec.ofNat 64 (if to_ = .vs then i - 1 else i)) 0 0 false
/-- An interrupt is pending and enabled for a hart, whether or not its mode takes it now, as WFI looks for one (R328). -/
def State.hartIrq (s : State) (n : Nat) : Bool := s.mip n &&& (s.hart n).csrAt 0x304 ≠ 0

/-- A Coulter hart that its die enables: enabled harts are numbered from 0 (R21, R363). -/
def State.enabledHart (s : State) (chip j : Nat) : Bool :=
  j < ((List.range 32).filter fun i => (tblGet s.tables chip 0).getLsbD (64 + i)).length
/-- A hart that its die enables and whose chiplet answers. -/
def State.hartRuns (s : State) (n : Nat) : Bool :=
  hartExists n && s.chipUp (hartChip n) && (n ≥ 64 || s.enabledHart (hartChip n) (n % 32)) && (s.hart n).wait = .running

end Sys2Proof.Machine
end

