-- ==== Sys2Proof/Machine/Fetch.lean ====
section
/-!
DEFINITION. What a turn does before its instruction: the time that passes (R308), the line that a drill issues from (R123),
and how an instruction is placed for the next step (log 5, DESIGN CHOICE).
-/
namespace Sys2Proof.Machine

/-- The next turn, from the agenda or else from the schedule (log 1, DESIGN CHOICE). -/
def State.nextTurn (s : State) : Turn × State :=
  match s.agenda with
  | t :: r => (t, { s with agenda := r })
  | [] => (Config.schedule s.tick, { s with tick := s.tick + 1 })

/-- A context has a group RUNNING. -/
def State.ctxRuns (s : State) (n : Nat) : Bool := s.groups.any fun p => p.2.ctx = n && p.2.st = .running

/-- Time passes (R308): GTIME, the CLK of each core, and the BUDGET of each ACTIVE context with a RUNNING group. What happened in
the present clock cycle is over (R374, R379). -/
def State.pass (s : State) (t : Turn) : State :=
  { s with
    gtime := s.gtime + BitVec.ofNat 64 t.ticks
    cores := s.cores.map fun p => (p.1, { p.2 with clk := p.2.clk + BitVec.ofNat 64 t.cycles })
    clkIdle := s.clkIdle + BitVec.ofNat 64 t.cycles
    nowAlarms := if t.cycles = 0 then s.nowAlarms else 0
    nowBoost := if t.cycles = 0 then s.nowBoost else []
    plots := s.plots.map fun p => (p.1, { p.2 with sinceMma := p.2.sinceMma.map fun q => (q.1, q.2 + t.cycles) })
    ctxs := s.ctxs.map fun p =>
      (p.1, if p.2.st = .active && s.ctxRuns p.1 then { p.2 with budget := p.2.budget - t.ticks } else p.2) }

/-- The word at a drill's pc, if its line is in the fetch buffer (R69, R123). -/
def Drill.word (d : Drill) : Option (BitVec 64) :=
  match d.fetch.find? fun f => f.line = d.pc.toNat / 128 && f.data.isSome with
  | some f => (f.data.map fun l => l.extractLsb' (d.pc.toNat % 128 * 8) 64)
  | none => none

/-- The trap of a word that is not an instruction (R38): it comes before LAND_FAULT (R137). -/
def wordTrap : TrapReq := { code := 0x01 }

/-- The chiplet in which an event happens, when it is one other than Headland. -/
def State.eventChip (s : State) (i : Instr) : Option Nat :=
  let group (gid : Nat) : Option Nat := (s.group? gid).map fun g => coreChip (g.die * 128)
  let acre (key : Nat) : Option Nat := some (8 + key / 16)
  match i with
  | .stallEnd k | .resultLanding k | .variableResultLanding k _ _ _ | .storeQueueDeparture k _ | .longWaitMet k | .waitiDeadline k
  | .boundaryTrap k | .userInterruptDelivery k | .preempt k | .overrun k | .fetchBufferRequest k | .fetchFault k
  | .atomPerform k _ _ _ => some (drillChip k)
  | .swathArbitration die _ _ | .icacheFillDone die _ _ | .icflushDone die => some (4 + die)
  | .directoryRequest _ _ (.device _) => none
  | .directoryRequest chip _ _ | .syscallQueuePost chip | .faultRecordPost chip => some chip
  | .ringRequestServed gid _ | .stationDequeue gid _ _ | .copyCompletion gid _ _ | .copyFaultStop gid _ | .copyAbort gid _
  | .collectiveAssembly gid | .groupExitSequence gid | .groupRecordWrite gid => group gid
  | .registerWrite agent _ _ _ | .opctlWrite _ _ agent | .ocauseWrite _ agent => if agent < 97 then some (hartChip agent) else none
  | .remoteResponse (.op _ _ n) _ _ => some (12 + (n - 24) / 8)
  | .remoteResponse (.store k) _ _ => ((s.drill? k).bind fun d => d.remoteStores.head?).map fun p => 12 + (p.1 - 24) / 8
  | .inboundRemoteAccess port _ _ _ => some (12 + port / 8)
  | .plotCommandDequeue p | .mmaStart p | .mmaCompletion p | .postedBedWriteDone p _ | .astFaultStop p | .plotEccError p
  | .astCompletion p _ | .astAbort p | .bedZeroSclCompletion p => acre p
  | _ => none
/-- Nothing that a chiplet does reaches the package while its link is not up (R366). -/
def State.mute (s : State) (i : Instr) : Bool := (s.eventChip i).any fun c => !s.chipUp c

/-- The place where an instruction is put for a drill: a group of one drill with every register declared, ISSUING. -/
def placedKcb : Kcb :=
  { coop := false, restart := false, succ := false, plot := false, logR := 0, logC := 0, croft := 1, codes := 1, taskDie := 0
    v := 256, s := 64, t := 8, ls := 65536, entryA := 0x1000, entryB := 0, seedline := 0, opCount := 0, translated := 0, reeve := 0, coulter := 0 }
def placedGroup : Group :=
  { ctx := 1, launch := 0, croft := 0, rank := 0, x := 0, y := 0, z := 0, g := 32, kcb := placedKcb, die := 0, core := 0, pos := [0]
    lsBase := 0, saveSlot := 0, gsave := 0x10000 }
def placedCtx : Context :=
  { st := .active, asid := 1, prio := 0, carve := false, savevec := 0x8000, restvec := 0x9000, trapvec := 0xA000, saveBase := 0x10000
    garea := 0x12000, darea := 0x800, slots := 1, satp := 0, budget := 1000 }
/-- A line of eight-byte slots with the word in the slot that the pc names. -/
def lineWith (w : BitVec 64) : Line := w.setWidth 1024
def placedDrill (w : BitVec 64) : Drill :=
  { gid := 0, idx := 0, slot := 0, st := .issuing, cm := 0xFFFFFFFF, pc := 0x1000, swathPc := 0x1000
    fetch := [{ line := 0x20, data := some (lineWith w), pline := none }] }
/-- A Furrow word as the next instruction: a group is placed whose drill has the word in its fetch buffer. -/
def State.placeFurrow (s : State) (w : BitVec 64) : State :=
  { s with drills := tblSet s.drills 0 (placedDrill w), groups := tblSet s.groups 0 placedGroup, ctxs := tblSet s.ctxs 1 placedCtx
           crofts := tblSet s.crofts 0 { launch := 0, members := [0] }, links := tblSet s.links 4 { st := .active, width := 4 }
           agenda := { act := .drill 0 } :: s.agenda }
/-- A hart's word as the next instruction: the management hart runs, in M mode, with the word at its pc. -/
def State.placeHart (s : State) (w : BitVec 32) : State :=
  { (s.setHart 96 { s.hart 96 with wait := .running, mode := .m, mie := false, pc := 0x8000000000 }).writeHome (runOf 0x8000000000 (toBytes w 4)) with
    links := tblSet s.links 4 { st := .active, width := 4 }, agenda := { act := .hart 96 } :: s.agenda }

end Sys2Proof.Machine
end

