-- ==== Sys2Proof/Machine/Control.lean ====
section
/-!
DEFINITION. Transfers of control, the mask stack (R127-R137), and requests of instruction lines (R123, R126).
-/
namespace Sys2Proof.Machine

/-- The target of a B-format transfer (R36, R127). -/
def Issue.target (x : Issue) (ofs : BitVec 19) : DWord := x.d.pc + ofs.signExtend 64 * 8
/-- A transfer that is taken or not. -/
def branchTo (s : State) (taken : Bool) (t : DWord) : Eff := .ok { s := s, jump := if taken then some t else none }

/-- BRA (R129): one decision for the drill, by its lanes that are no helper lanes. -/
def execBra (ofs : BitVec 19) (c : Ctl) (s : State) : Host.Outcome State Fault Refusal :=
  issue (.bra ofs c) s fun x s =>
    let a := x.d.counting x.g x.d.cm
    let g := a &&& guardMask x.d c
    if c.gp = 0 then branchTo s true (x.target ofs)
    else if a = 0 then branchTo s false 0
    else if g = a then branchTo s true (x.target ofs)
    else if g = 0 then branchTo s false 0
    else .trap { code := 0x07 }
/-- BRZ (R128): taken where the current mask is empty. -/
def execBrz (ofs : BitVec 19) (c : Ctl) (s : State) : Host.Outcome State Fault Refusal :=
  issue (.brz ofs c) s fun x s => branchTo s (x.d.cm = 0) (x.target ofs)
/-- CALL (R128): the return address lands in the pair, whatever CM holds. -/
def execCall (d : BitVec 8) (ofs : BitVec 19) (c : Ctl) (s : State) : Host.Outcome State Fault Refusal :=
  issue (.call d ofs c) s fun x s =>
    .ok { s := s, jump := some (x.target ofs), attached := true
          lands := [(4, x.landing (x.dest 2) 0xFFFFFFFF (splat (x.d.pc + 8)) [])] }
/-- A jump to a 64-bit target: PC_MISALIGN where it is not aligned (R127). -/
def jumpTo (s : State) (t : DWord) : Eff :=
  if t &&& 7 ≠ 0 then .trap { code := 0x05, tval := t } else .ok { s := s, jump := some t }
/-- RET (R128). -/
def execRet (a : Src) (c : Ctl) (s : State) : Host.Outcome State Fault Refusal :=
  issue (.ret a c) s fun x s => jumpTo s (srcU64 x a)
/-- JMPU (R128): its target must be a LAND. -/
def execJmpu (a : Src) (c : Ctl) (s : State) : Host.Outcome State Fault Refusal :=
  issue (.jmpu a c) s fun x s => jumpTo (x.update s fun d => { d with needLand := some (srcU64 x a, d.cm) }) (srcU64 x a)
/-- JMPV (R134): the lanes that share the target of the lowest active lane go there. -/
def execJmpv (a : Src) (c : Ctl) (s : State) : Host.Outcome State Fault Refusal :=
  issue (.jmpv a c) s fun x s =>
    match lowestLane x.act with
    | none => .ok { s := s }
    | some i0 =>
      let t := src64 x a i0
      let m := x.act &&& maskOf fun i => src64 x a i = t
      if t &&& 7 ≠ 0 then .trap { code := 0x05, tval := t, mask := some m }
      else if x.d.maskStack.length ≥ 32 then .trap { code := 0x08, mask := some m }
      else .ok { s := x.update s fun d => { d with maskStack := d.cm :: d.maskStack, cm := m, needLand := some (t, m) }, jump := some t }
/-- LAND has no effect (R130). -/
def execLand (c : Ctl) (s : State) : Host.Outcome State Fault Refusal := issue (.land c) s fun _ s => noEffect s
/-- LOOP (R128): the counter falls by one, and the loop is taken while it is not 0. -/
def execLoop (d : BitVec 8) (ofs : BitVec 19) (c : Ctl) (s : State) : Host.Outcome State Fault Refusal :=
  issue (.loop d ofs c) s fun x s =>
    let n := x.d.sAt (sStore x.d.sysMode d.toNat) - 1
    .ok { s := s, jump := if n = 0 then none else some (x.target ofs), attached := true
          lands := [(4, x.landing (x.dest 1) 0xFFFFFFFF (splat (n.setWidth 64)) [])] }

/-- MPUSH (R132). -/
def execMpush (c : Ctl) (s : State) : Host.Outcome State Fault Refusal :=
  issue (.mpush c) s fun x s =>
    if x.d.maskStack.length ≥ 32 then .trap { code := 0x08 }
    else noEffect (x.update s fun d => { d with maskStack := d.cm :: d.maskStack, cm := d.cm &&& guardMask d c })
/-- MINV (R132). -/
def execMinv (c : Ctl) (s : State) : Host.Outcome State Fault Refusal :=
  issue (.minv c) s fun x s =>
    match x.d.maskStack with
    | [] => .trap { code := 0x09 }
    | top :: _ => noEffect (x.update s fun d => { d with cm := top &&& ~~~d.cm })
/-- MPOP (R132). -/
def execMpop (c : Ctl) (s : State) : Host.Outcome State Fault Refusal :=
  issue (.mpop c) s fun x s =>
    match x.d.maskStack with
    | [] => .trap { code := 0x09 }
    | top :: rest => noEffect (x.update s fun d => { d with maskStack := rest, cm := top })
/-- KMASK (R132): CM into a predicate, in all 32 lanes, also where CM is empty (R133; log 41, DEDUCED). -/
def execKmask (d : BitVec 8) (c : Ctl) (s : State) : Host.Outcome State Fault Refusal :=
  issue (.kmask d c) s fun x s =>
    .ok { s := s, attached := true
          lands := [(4, x.landing (x.dest 1) 0xFFFFFFFF (lanesOf fun i => if inMask x.d.cm i then 1 else 0) [])] }

/-- The set of the instruction cache that a line belongs to (R123). -/
def icacheSet (line : Nat) : Nat := line % 64
/-- Puts a line into an instruction cache, replacing the least recently used of its set (R123). -/
def icacheFill (t : Tbl Line) (line : Nat) (data : Line) : Tbl Line :=
  let rest := t.filter fun p => p.1 ≠ line
  let same := (rest.filter fun p => icacheSet p.1 = icacheSet line).take 7
  (line, data) :: rest.filter fun p => icacheSet p.1 ≠ icacheSet line || same.any (·.1 = p.1)
/-- A request of a physical line at a core's instruction cache: a hit uses the line, a miss starts a fill (R123). -/
def State.requestLine (s : State) (c line : Nat) : State :=
  let x := s.core c
  match tblGet? x.icache line with
  | some l => s.setCore c { x with icache := (line, l) :: x.icache.filter fun p => p.1 ≠ line }
  | none => if x.ifills.contains line then s else s.setCore c { x with ifills := x.ifills ++ [line] }
/-- The physical address of a fetch may be read: backed, cacheable or ROM, granted (R17, R335). -/
def State.fetchable (s : State) (ctx pa : Nat) : Bool := s.backed pa && s.grantOk ctx pa
/-- PREFI (R126): a failed line is dropped. -/
def execPrefi (n : BitVec 3) (ofs : BitVec 19) (c : Ctl) (s : State) : Host.Outcome State Fault Refusal :=
  issue (.prefi n ofs c) s fun x s => withCtx x s fun cx =>
    let first := (x.target ofs).toNat / 128 * 128
    let one (s : State) (j : Nat) : State :=
      match s.translate (drillChip x.k) cx (BitVec.ofNat 64 (first + 128 * j)) { x := true, prefetch := true } with
      | .error _ => s
      | .ok (pa, s) => if s.fetchable x.g.ctx pa then s.requestLine (drillCore x.k) (pa / 128) else s
    noEffect ((List.range (n.toNat + 1)).foldl one s)

end Sys2Proof.Machine
end

