-- ==== Sys2Proof/Machine/RegRead.lean ====
section
/-!
DEFINITION. What reads of uncached addresses return: the register blocks (R16, R210, R251, R261, R288, R309, R314, R336, R348,
R351, R360, R363, R369, R372, R374, R376-R382), the boot ROM, the interrupt files and the PCIe windows (R152, R370).
An offset of a register block that no rule lists reads zero (log 26, DESIGN CHOICE).
-/
namespace Sys2Proof.Machine

/-- The codes of STKSTAT's STATE (R243). -/
def stackCode : StackState → Nat
  | .held => 0 | .draining => 1 | .zeroing => 2 | .forced => 3
/-- A stack is HELD and no CEDE is queued: OPEN of STKSTAT (R251). -/
def Stack.open_ (k : Stack) : Bool := k.st = .held && k.queued.isEmpty
/-- STKSTAT (R251). -/
def State.stkstat (s : State) (k : Nat) : Word :=
  let t := s.stack k
  BitVec.ofNat 32 (t.open_.toNat * 2 ^ 31 + stackCode t.st * 2 ^ 28 + t.owner % 2 * 2 ^ 27 + t.holder.isNone.toNat * 2 ^ 26 +
    (t.holder.isSome && t.cedeRight).toNat * 2 ^ 25 + (!t.queued.isEmpty).toNat * 2 ^ 24 + t.holder.getD 0 * 2 ^ 12 +
    t.epoch.toNat % 2 ^ 12)
/-- The word of STK.QRY for a context (R256). -/
def State.stkQry (s : State) (k ctx : Nat) : Word :=
  let t := s.stack k
  let g : Bool := t.holder = some ctx
  BitVec.ofNat 32 (t.open_.toNat * 2 ^ 31 + stackCode t.st * 2 ^ 28 + t.owner % 2 * 2 ^ 27 + g.toNat * 2 ^ 26 +
    (g && t.cedeRight).toNat * 2 ^ 25 + (!t.queued.isEmpty).toNat * 2 ^ 24 + t.epoch.toNat)

/-- The codes of CTXSTAT's STATE (R288). -/
def ctxCode : CtxState → Nat
  | .built => 1 | .active => 2 | .preempting => 3 | .suspended => 4 | .faulted => 5 | .draining => 6 | .retired => 7
/-- CTXSTAT (R288). -/
def State.ctxstat (s : State) (n : Nat) : DWord :=
  match s.ctx? n with
  | none => 0
  | some c => BitVec.ofNat 64 (min c.budget 0xFFFFFFFF * 2 ^ 32 + c.fcode % 256 * 2 ^ 16 + c.asid.toNat % 2 ^ 12 * 2 ^ 4 + ctxCode c.st)

/-- A queue's record; one that nothing has changed is DISABLED. -/
def State.queue (s : State) (n : Nat) : Queue := tblGet s.queues n {}
/-- Changes a queue's record. -/
def State.setQueue (s : State) (n : Nat) (q : Queue) : State := { s with queues := tblSet s.queues n q }
/-- The ring index of the head launch (R314). -/
def Queue.head (q : Queue) : Nat := (q.entries.head?.map (·.idx)).getD q.tail
/-- The codes of QSTAT's STATE (R314). -/
def queueCode : QueueState → Nat
  | .disabled => 0 | .opened => 1 | .paused => 2 | .draining => 3 | .error => 4
/-- QSTAT (R314). -/
def State.qstat (s : State) (n : Nat) : DWord :=
  let q := s.queue n
  BitVec.ofNat 64 (q.entries.length * 2 ^ 32 + q.head % 2 ^ 12 * 2 ^ 16 + q.ref.toNat * 2 ^ 8 + q.ecause * 2 ^ 4 + queueCode q.st)

/-- Links that exist, and their kinds (R359, R360). -/
def linkKind (n : Nat) : Option Nat :=
  if n = 1 || n = 2 || (4 ≤ n && n ≤ 13) then some 0
  else if 16 ≤ n && n < 24 then some 1
  else if 24 ≤ n && n < 40 then some 2
  else if 40 ≤ n && n < 44 then some 3
  else if n = 44 || n = 45 then some 4 else none
/-- The codes of LINKSTAT's STATE (R360). -/
def linkCode : LinkState → Nat
  | .down => 0 | .training => 1 | .enumerating => 2 | .active => 3 | .degraded => 4 | .fallow => 5 | .resetting => 6
/-- LINKSTAT (R360); a number that names no link reads zero. -/
def State.linkstat (s : State) (n : Nat) : DWord :=
  match linkKind n with
  | none => 0
  | some kind =>
    let l := s.link n
    BitVec.ofNat 64 (l.errcnt * 2 ^ 48 + l.isocnt * 2 ^ 32 + l.cause * 2 ^ 20 + l.width * 2 ^ 8 + kind * 2 ^ 4 + linkCode l.st)

/-- Offsets of Headland's block that hold registers of this spec's other rules: the IOMMU's page is none of them. -/
def headlandTaken (off : Nat) : Bool := 0x20000 ≤ off / 4096 * 4096 && off < 0x100000
/-- An offset of Headland's block belongs to the IOMMU (log 23, DESIGN CHOICE). -/
def State.iommuAt (_ : State) (off : Nat) : Bool := !headlandTaken off && 0x100 ≤ off && off / 4096 = Config.iommuPage
/-- Capabilities of the IOMMU (R350; log 23, PRESUMED): version 1.0, the page sizes of both stages, ATS, MSI remapping, MSIs of its
own, every size of process directory. -/
def iommuCaps : DWord := 0x000001EE024E0E10
/-- A register of the IOMMU. -/
def State.iommuReg (s : State) (off : Nat) : DWord := if off = 0 then iommuCaps else tblGet s.iommu off 0
/-- Two 32-bit registers side by side, or one of 64 bits. -/
def State.storedPair (s : State) (a : Nat) : DWord := s.reg a ||| (s.reg (a + 4) <<< 32)
/-- The eight bytes at an aligned address of Headland's register block. -/
def State.headlandReg (s : State) (off : Nat) : DWord :=
  if 0x20000 ≤ off && off < 0x20200 then (if off % 0x40 = 0 then (s.stkstat ((off - 0x20000) / 0x40)).setWidth 64 else 0)
  else if 0x50000 ≤ off && off < 0x50020 then
    s.reg off ||| (if s.railBusy.contains ((off - 0x50000) / 8) then 0x80000000 else 0)
  else if 0x60000 ≤ off && off < 0x68000 then s.ctxstat ((off - 0x60000) / 8)
  else if off = 0x70010 then s.reg off &&& 0xF
  else if 0x80000 ≤ off && off < 0xC0000 then
    let n := (off - 0x80000) / 32
    match off % 32 with
    | 0 => (s.queue n).ctl
    | 8 => (s.queue n).base
    | 16 => (s.queue n).pace.setWidth 64
    | _ => s.qstat n
  else if 0xE0000 ≤ off && off < 0xE0400 then
    let n := (off - 0xE0000) / 16
    if off % 16 = 0 then s.linkstat n else if (linkKind n).isSome && (s.link n).hold then 0x100 else 0
  else if 0x800000 ≤ off then (List.range 8).foldr (fun j (v : DWord) => v <<< 8 ||| (Config.deviceByte s.tick (off + j)).setWidth 64) 0
  else if s.iommuAt off then s.iommuReg (off % 4096)
  else s.storedPair off
/-- The eight bytes at an aligned address of another chiplet's register block. -/
def State.dieRegs (s : State) (chip off : Nat) : DWord :=
  if off < 0x100 then (tblGet s.tables chip 0).extractLsb' (8 * off) 64
  else if off = 0x30000 && 4 ≤ chip && chip < 8 then (if s.icflush.contains (chip - 4) then 1 else 0)
  else s.storedPair (dieReg chip off)
/-- The eight bytes at an aligned address of the register blocks. -/
def State.regWord (s : State) (a : Nat) : DWord :=
  if a < 0x1000000 then s.headlandReg a else s.dieRegs (a / 0x1000000) (a % 0x1000000)

/-- The link of the root port whose devices a PCIe address reaches (R359). -/
def pcieLink (a : Nat) : Nat := 40 + Config.pciePort a % 4
/-- Bytes read at an uncached or remote address (R152): registers, ROM, interrupt files, which read zero (R313), PCIe devices,
whose answers are free, all ones behind a port that is not up (R370). -/
def State.deviceBytes (s : State) (a n : Nat) : List Byte :=
  (List.range n).map fun j =>
    let b := a + j
    match regionOf b with
    | .regs .. => (s.regWord (b / 8 * 8)).extractLsb' (8 * (b % 8)) 8
    | .rom off => Config.romByte off
    | .pcie => if s.linkUp (pcieLink b) then Config.deviceByte s.tick b else 0xFF
    | .remote .. => Config.deviceByte s.tick b
    | _ => 0

end Sys2Proof.Machine
end

