-- ==== Sys2Proof/Machine/System.lean ====
section
/-!
DEFINITION. SRD and SWR (R299-R301), SYS (R187, R302-R306), SVLD (R92, R307), TSAVE and TLOAD (R149).
-/
namespace Sys2Proof.Machine

/-- The half of a 64-bit register that a number names, the even number the low half (R299). -/
def halfOf (n : Nat) (v : DWord) : Word := if n % 2 = 0 then v.setWidth 32 else v.extractLsb' 32 32
/-- UIMASK (R185). -/
def Drill.uimask (d : Drill) : Word :=
  BitVec.ofNat 32 (d.uiPo.toNat * 2 ^ 17 + d.uiPi.toNat * 2 ^ 16 + d.uiPend % 256 * 2 ^ 8 + d.uiAct.toNat * 2 + d.uiEn.toNat)
/-- TDIRTY (R144). -/
def Drill.tdirty (d : Drill) : Word := BitVec.ofNat 32 (((List.range 8).map fun j => (d.tile j).dirty.toNat * 2 ^ j).sum)
/-- DSTAT (R299). -/
def Drill.dstat (d : Drill) : Word := BitVec.ofNat 32 (d.sysMode.toNat + 2 * d.routine)
/-- A system register as lane i reads it at issue (R299, R300). -/
def sysRead (s : State) (x : Issue) (n i : Nat) : Word :=
  let d := x.d
  match n with
  | 0x000 => (d.flgAt i).setWidth 32
  | 0x001 => d.rmode.setWidth 32
  | 0x002 => d.srstate
  | 0x003 => d.mxbase
  | 0x004 => d.mxsl
  | 0x005 => d.uimask
  | 0x006 | 0x007 => halfOf n d.uivec
  | 0x008 | 0x009 => halfOf n d.uiepc
  | 0x00A | 0x00B => halfOf n (s.core (drillCore x.k)).clk
  | 0x00C | 0x00D => halfOf n s.gtime
  | 0x00E => x.g.tok
  | 0x00F => d.tdirty
  | 0x018 => BitVec.ofNat 32 (x.g.lsBase % 2 ^ 19)
  | 0x019 => BitVec.ofNat 32 d.maskStack.length
  | 0x01A | 0x01B => halfOf n (BitVec.ofNat 64 (((s.ctx? x.g.ctx).map (·.budget)).getD 0))
  | 0x020 | 0x021 => halfOf n d.xi
  | 0x022 | 0x023 => halfOf n d.epc
  | 0x024 => d.tcause
  | 0x025 => d.tmask
  | 0x026 | 0x027 => halfOf n d.tval
  | 0x028 | 0x029 => halfOf n x.g.gsave
  | 0x02A => d.dstat
  | n =>
    if 0x010 ≤ n && n < 0x018 then (d.tile (n - 0x010)).shape
    else if 0x030 ≤ n && n < 0x038 then d.sAt (64 + (n - 0x030))
    else 0

/-- SRD (R300). -/
def execSrd (d : BitVec 8) (n : BitVec 9) (c : Ctl) (s : State) : Host.Outcome State Fault Refusal :=
  issue (.srd d n c) s fun x s =>
    .ok { s := s, attached := true
          lands := [(4, x.landing (x.dest 1) (x.wmask x.uniform) (lanesOf fun i => (sysRead s x n.toNat i).setWidth 64) [])] }
/-- SWR (R25, R30, R301): its write lands at 4, and it completes one cycle after issue. -/
def execSwr (n : BitVec 9) (b : Src) (c : Ctl) (s : State) : Host.Outcome State Fault Refusal :=
  issue (.swr n b c) s fun x s =>
    let write := x.landing (.sys n.toNat x.d.sysMode) x.d.cm (lanesOf fun i => (src32 x b i).setWidth 64) []
    .ok { s := s, lands := [(4, { write with slot := 0, tk1 := 0 })] }

/-- SYS.SYSC (R303): it completes, then traps. -/
def execSysSysc (a : Src) (c : Ctl) (s : State) : Host.Outcome State Fault Refusal :=
  issue (.sysSysc a c) s fun x s =>
    let m : Word := match a with | .s n => BitVec.ofNat 32 (n.toNat / 8) | _ => 0
    let call : TrapReq := { code := 0x30, completed := true, mask := some x.d.cm, args := srcWindow x a ++ [m]
                            self := some (x.d.pc, x.d.swathPc, x.d.idxInSwath) }
    .ok { s := s, hold := true, after := fun s => s.raise x.k call }
/-- SYS.TRAPI (R304). -/
def execSysTrapi (n : BitVec 8) (c : Ctl) (s : State) : Host.Outcome State Fault Refusal :=
  issue (.sysTrapi n c) s fun x s =>
    .ok { s := s, hold := true, after := fun s => s.raise x.k { code := 0x2B, sub := n.toNat, completed := true } }

/-- A group whose drills have all left RESTVEC runs (R266, R274). -/
def State.restored (s : State) (gid : Nat) : State :=
  match s.group? gid with
  | none => s
  | some g =>
    if g.st = .restoring && g.drillKeys.all (fun k => match s.drill? k with
        | some d => d.gid ≠ gid || d.st = .done || !(d.sysMode && d.routine = 2)
        | none => true)
    then s.setGroup gid { g with st := if (s.ctx? g.ctx).map (·.st) = some .preempting then .preempting else .running } else s
/-- SYS.TRET (R305): the routine's landings complete before the return reads XI (R69). -/
def execSysTret (c : Ctl) (s : State) : Host.Outcome State Fault Refusal :=
  issue (.sysTret c) s fun x s =>
    if xiV x.d.xi && !(x.d.xp.all fun p => xpOk { x.d with sysMode := false } x.g p.2) then .trap { code := 0x2A }
    else .ok { s := s, after := fun s =>
      let s := (s.landAll x.k).modDrill x.k fun d => { d with sysMode := false, routine := 0, needLand := d.landUser, landUser := none }
      (s.resume x.k).restored x.d.gid }

/-- s0 to s7 and z0 to z7 change places (R186, R187); operations that will land in them follow their register. -/
def Drill.swapBanks (d : Drill) : Drill :=
  let flip (r : Nat) : Nat := if r < 8 then r + 64 else if 64 ≤ r && r < 72 then r - 64 else r
  let into (l : LandTo) : LandTo := match l with | .uni r n => .uni (flip r) n | l => l
  let at_ (r : Nat) (d : Drill) : Word := d.sAt r
  let d' := (List.range 8).foldl (fun e j => (e.putS j (at_ (64 + j) d)).putS (64 + j) (at_ j d)) d
  { d' with ops := d.ops.map fun o => { o with into := into o.into } }
/-- SYS.UIRET (R187). -/
def execSysUiret (c : Ctl) (s : State) : Host.Outcome State Fault Refusal :=
  issue (.sysUiret c) s fun x s =>
    if !x.d.uiAct then .trap { code := 0x1B }
    else match x.d.maskStack with
    | [] => .trap { code := 0x09 }
    | top :: rest => .ok { s := s, jump := some x.d.uiepc, after := fun s => (s.landAll x.k).modDrill x.k fun d =>
        { d.swapBanks with maskStack := rest, cm := top, uiAct := false, needLand := d.landUi, landUi := none } }

/-- The condition of SYS.WAITI (R306). -/
def waitiDone (s : State) (d : Drill) (deadline : DWord) : Bool :=
  !d.uiEn || d.uiPend > 0 || (deadline ≠ 0 && deadline ≤ s.gtime)
/-- SYS.WAITI (R306). -/
def execSysWaiti (a : Src) (c : Ctl) (s : State) : Host.Outcome State Fault Refusal :=
  issue (.sysWaiti a c) s fun x s => if waitiDone s x.d (srcU64 x a) then noEffect s else .wait s

/-- The pages that a block of n bytes covers: virtual address and length of each part (R149, R307). -/
def blockParts (va : DWord) (n : Nat) : List (DWord × Nat) :=
  let first := min n (4096 - va.toNat % 4096)
  (va, first) :: ((List.range ((n - first + 4095) / 4096)).map fun j =>
    (va + BitVec.ofNat 64 (first + 4096 * j), min 4096 (n - first - 4096 * j)))
/-- The checks of a block: alignment, then every page (R149, R307). -/
def checkBlock (x : Issue) (s : State) (acc : Access) (va : DWord) (n : Nat) : Except TrapReq (List (LaneAddr × Nat) × State) :=
  match s.ctx? x.g.ctx with
  | none => .ok ([], s)
  | some cx =>
    if va.toNat % 128 ≠ 0 then .error { code := 0x0D, tval := va }
    else
      let parts := blockParts va n
      match checkAccess s x.k x.g.ctx cx acc false 1 (parts.mapIdx fun j p => (j, p.1)) [] false with
      | .error t => .error t
      | .ok (addrs, _, s) => .ok (addrs.zip (parts.map (·.2)), s)
/-- Cuts bytes into the parts of a block. -/
def cutBlock : List (LaneAddr × Nat) → List Byte → List (LaneAddr × List Byte)
  | [], _ => []
  | (l, n) :: r, bs => (l, bs.take n) :: cutBlock r (bs.drop n)
/-- A block enters the store queue (R159). -/
def saveBlock (x : Issue) (s : State) (va : DWord) (bytes : List Byte) : Eff :=
  match checkBlock x s { w := true } va bytes.length with
  | .error t => .trap t
  | .ok (parts, s) => enqueue x s (.store (cutBlock parts bytes))

/-- Bytes as a drill reads them now: through the L1D, or of a device (R152, R191). -/
def State.readFor (s : State) (c pa n : Nat) : List Byte :=
  if classOf pa = .cacheable then (List.range n).map fun j => s.loadByte c (pa + j) else s.deviceBytes pa n
/-- The lines that n bytes touch. -/
def linesOf (pa n : Nat) : List Nat := (List.range ((pa + n + 127) / 128 - pa / 128)).map (pa / 128 + ·)
/-- The lines of a load come into the L1D and the L2 (R153). -/
def State.fillFor (s : State) (c pa n : Nat) : State :=
  if classOf pa = .cacheable then (linesOf pa n).foldl (fun s l => s.fillL1 c l) s else s
/-- The remote accesses that read a part of a block, 16 bytes each, numbered by their place in the block (R202). -/
def blockUnits (va : DWord) (p : LaneAddr × Nat) : List LaneAddr :=
  if classOf p.1.pa ≠ .remote then []
  else (List.range ((p.2 + 15) / 16)).map fun j =>
    { lane := (p.1.va - va).toNat / 16 + j, va := p.1.va + BitVec.ofNat 64 (16 * j), pa := p.1.pa + 16 * j }
/-- A part of a block as the answers of an operation give it. -/
def State.remotePart (s : State) (o : VarOp) (units : List LaneAddr) (n : Nat) : List Byte :=
  (units.flatMap fun l => toBytes (((s.remoteLane o l).getD none).getD 0) 16).take n
/-- A block is read while the drill waits: once nothing before it holds it (R192, R195), its stack can be reached (R200) and its
remote part is answered (R202). DATA_POISON where a line is poisoned or an answer failed (R201, R370). -/
def loadBlock (x : Issue) (s : State) (va : DWord) (n : Nat) (use : State → List Byte → Eff) : Eff :=
  match checkBlock x s { r := true } va n with
  | .error t => .trap t
  | .ok (parts, s1) =>
    let c := drillCore x.k
    let far := parts.flatMap (blockUnits va)
    let op := x.d.ops.find? fun o => o.kind = .block far
    let uncached := parts.any fun p => classOf p.1.pa = .uncached
    if !x.d.clearFor s1.seq || (uncached && !x.d.uncachedDone s1.seq) || parts.any (fun p => s1.gateAt (drillChip x.k) false p.1.pa = .hold)
    then .wait (s1.stallOn x.k .stores)
    else match parts.find? fun p => (linesOf p.1.pa p.2).any fun l => s1.poisoned (128 * l) with
    | some p => .trap { code := 0x15, tval := p.1.va }
    | none => match if far = [] then some { seq := 0, kind := .idle } else op with
      | none =>
        let (seq, s2) := s1.stamp
        .wait ((s2.modDrill x.k fun d => { d with ops := d.ops ++ [{ seq := seq, kind := .block far, pc := x.d.pc }] }).stallOn x.k .stores)
      | some o =>
        if far.any fun l => (s1.remoteLane o l).isNone then .wait (s1.stallOn x.k .stores)
        else match far.find? fun l => s1.remoteLane o l = some none with
        | some l => .trap { code := 0x15, tval := l.va }
        | none =>
          let bytes := parts.flatMap fun p =>
            if classOf p.1.pa = .remote then s1.remotePart o (blockUnits va p) p.2 else s1.readFor c p.1.pa p.2
          let s2 := parts.foldl (fun s p => s.fillFor c p.1.pa p.2) s1
          let s2 := if far = [] then s2 else s2.modDrill x.k fun d => { d with ops := d.ops.filter (·.kind ≠ .block far) }
          use { s2 with tick := s2.tick + 1 } bytes

/-- Word j of a block. -/
def wordIn (bs : List Byte) (j : Nat) : Word := ofBytes 32 ((bs.drop j).take 4)
/-- Doubleword at byte j of a block. -/
def dwordIn (bs : List Byte) (j : Nat) : DWord := ofBytes 64 ((bs.drop j).take 8)
/-- Bytes of the 32 lanes of a register. -/
def laneBytes (v : Lanes) : List Byte := (List.range 32).flatMap fun i => wordBytes (lane v i)
/-- Lanes from bytes. -/
def lanesIn (bs : List Byte) (at_ : Nat) : Lanes := let l := bs.drop at_; lanesOf fun i => wordIn l (4 * i)

/-- How many uniform registers SVLD covers (R299). -/
def svldS (x : Issue) : Nat := if x.d.uiAct then max 8 x.g.kcb.s else x.g.kcb.s
/-- SVLD.SAVEV (R92, R307). -/
def execSvldSavev (a : Src) (c : Ctl) (s : State) : Host.Outcome State Fault Refusal :=
  issue (.svldSavev a c) s fun x s =>
    saveBlock x s (srcU64 x a) ((List.range x.g.kcb.v).flatMap fun r => laneBytes (x.d.vAt r))
/-- SVLD.LOADV (R92, R307). -/
def execSvldLoadv (a : Src) (c : Ctl) (s : State) : Host.Outcome State Fault Refusal :=
  issue (.svldLoadv a c) s fun x s =>
    loadBlock x s (srcU64 x a) (128 * x.g.kcb.v) fun s bs =>
      noEffect (x.update s fun d => (d.unmark 0 x.g.kcb.v).putVs 0 0xFFFFFFFF ((List.range x.g.kcb.v).map fun r => lanesIn bs (128 * r)))
/-- SVLD.SAVEU (R92, R307). -/
def execSvldSaveu (a : Src) (c : Ctl) (s : State) : Host.Outcome State Fault Refusal :=
  issue (.svldSaveu a c) s fun x s =>
    saveBlock x s (srcU64 x a) ((List.range (svldS x)).flatMap fun r => wordBytes (x.d.sAt r))
/-- SVLD.LOADU (R92, R307). -/
def execSvldLoadu (a : Src) (c : Ctl) (s : State) : Host.Outcome State Fault Refusal :=
  issue (.svldLoadu a c) s fun x s =>
    loadBlock x s (srcU64 x a) (4 * svldS x) fun s bs =>
      noEffect (x.update s fun d => (List.range (svldS x)).foldl (fun d r => d.putS r (wordIn bs (4 * r))) (d.unmark (sMark 0) (svldS x)))
/-- The block of SAVEP (R92): its PC is the resume PC that LOADP writes back into EPC. -/
def predBlock (d : Drill) : List Byte :=
  (List.range 8).flatMap (fun j => wordBytes (d.kAt j)) ++ wordBytes d.cm ++ wordBytes (BitVec.ofNat 32 d.maskStack.length) ++
    toBytes d.epc 8 ++ (List.range 32).flatMap (fun e => wordBytes (d.maskStack.reverse.getD e 0)) ++ List.replicate 80 0
/-- SVLD.SAVEP (R92, R307). -/
def execSvldSavep (a : Src) (c : Ctl) (s : State) : Host.Outcome State Fault Refusal :=
  issue (.svldSavep a c) s fun x s => saveBlock x s (srcU64 x a) (predBlock x.d)
/-- SVLD.LOADP (R5, R92, R307): a reserved byte that is not zero is refused as a depth above 32 is (log 92, DEDUCED). -/
def execSvldLoadp (a : Src) (c : Ctl) (s : State) : Host.Outcome State Fault Refusal :=
  issue (.svldLoadp a c) s fun x s =>
    loadBlock x s (srcU64 x a) 256 fun s bs =>
      let depth := (wordIn bs 36).toNat
      if depth > 32 || (bs.drop 176).any (· ≠ 0) then .trap { code := 0x2A }
      else noEffect (x.update s fun d => { d with
        k := (List.range 7).map fun j => (j + 1, wordIn bs (4 * (j + 1)))
        cm := wordIn bs 32
        maskStack := ((List.range depth).map fun e => wordIn bs (48 + 4 * e)).reverse
        epc := dwordIn bs 40 })

/-- A landing record as bytes (R90, R92). -/
def xpBytes (x : XpRec) : List Byte :=
  (List.range 32).flatMap (fun i => toBytes (lane x.val i) 8) ++
  (List.range 32).map (fun i => ((x.flags.find? fun p => p.1 = i).map fun p => p.2.setWidth 8).getD 0) ++ wordBytes x.mask ++
  wordBytes (BitVec.ofNat 32 (x.v.toNat * 2 ^ 31 + x.rem % 16 * 2 ^ 27 + x.w64.toNat * 2 ^ 26 + x.nw.toNat * 2 ^ 25 +
    x.lt % 8 * 2 ^ 22 + x.cls % 4 * 2 ^ 20 + x.dst % 256 * 2 ^ 12)) ++ List.replicate 24 0
/-- A landing record from bytes. -/
def xpIn (bs : List Byte) : XpRec :=
  let w := wordIn bs 292
  { v := w.getLsbD 31, rem := field w 27 4, w64 := w.getLsbD 26, nw := w.getLsbD 25, lt := field w 22 3, cls := field w 20 2
    dst := field w 12 8, val := lanesOf fun i => dwordIn bs (8 * i), mask := wordIn bs 288
    flags := (List.range 32).filterMap fun i => let f : BitVec 5 := ((bs.drop (256 + i)).headD 0).setWidth 5; if f = 0 then none else some (i, f)
    resv := field w 0 12 ≠ 0 || (bs.drop 296).any (· ≠ 0) }
/-- The block of SAVEX (R92). -/
def replayBlock (d : Drill) : List Byte :=
  (List.range 8).flatMap (fun j => laneBytes (tblGet d.xl j (splat 0))) ++ (List.range 8).flatMap (fun j => xpBytes (tblGet d.xp j {})) ++
    toBytes d.xi 8
/-- SVLD.SAVEX (R92, R307). -/
def execSvldSavex (a : Src) (c : Ctl) (s : State) : Host.Outcome State Fault Refusal :=
  issue (.svldSavex a c) s fun x s => saveBlock x s (srcU64 x a) (replayBlock x.d)
/-- SVLD.LOADX (R92, R307). -/
def execSvldLoadx (a : Src) (c : Ctl) (s : State) : Host.Outcome State Fault Refusal :=
  issue (.svldLoadx a c) s fun x s =>
    loadBlock x s (srcU64 x a) 3592 fun s bs =>
      noEffect (x.update s fun d => { d with
        xl := (List.range 8).map fun j => (j, lanesIn bs (128 * j))
        xp := (List.range 8).map fun j => (j, xpIn ((bs.drop (1024 + 320 * j)).take 320))
        xi := dwordIn bs 3584 &&& 0xFFFFFFFFFFFFFFF8 })

/-- The image of a tile (R149). -/
def tileImage (t : Tile) : List Byte :=
  (List.range 16).flatMap (fun r => (List.range 16).flatMap fun c => wordBytes (t.at_ r c)) ++ wordBytes t.shape ++ List.replicate 124 0
/-- TSAVE (R149). -/
def execTsave (t : BitVec 3) (a : Src) (c : Ctl) (s : State) : Host.Outcome State Fault Refusal :=
  issue (.tsave t a c) s fun x s =>
    let y := x.d.tile t.toNat
    if tileRows y.shape = 0 then .trap { code := 0x0A }
    else saveBlock x (x.update s fun d => { d with tiles := tblSet d.tiles t.toNat { d.tile t.toNat with dirty := false } }) (srcU64 x a) (tileImage y)
/-- The tile that an image gives (R149). -/
def tileIn (bs : List Byte) : Tile :=
  let w := wordIn bs 1024
  let inside := (List.range 16).flatMap fun r => ((List.range 16).filter fun c => decide (r < tileRows w) && decide (c < tileCols w)).map fun c => (r, c)
  let elems := inside.map fun p => (16 * p.1 + p.2, tileElem w (wordIn (bs.drop (64 * p.1 + 4 * p.2)) 0))
  { shape := if tileRows w = 0 then 0 else w, elems := elems.filter fun p => p.2 ≠ 0 }
/-- TLOAD (R149): the tile is set at issue, once its image can be read. A reserved byte of the image that is not zero is
refused with the error of the image, TILE_SHAPE (R5). -/
def execTload (t : BitVec 3) (a : Src) (c : Ctl) (s : State) : Host.Outcome State Fault Refusal :=
  issue (.tload t a c) s fun x s =>
    loadBlock x s (srcU64 x a) 1152 fun s bs =>
      let w := wordIn bs 1024
      if (!shapeOk w && !(field w 0 5 = 0 && w &&& 0xFFFEE0E0 = 0)) || (bs.drop 1028).any (· ≠ 0) then .trap { code := 0x0B }
      else noEffect (x.update s fun d => { d.unmark (tileMark t.toNat) 1 with tiles := tblSet d.tiles t.toNat (tileIn bs) })

end Sys2Proof.Machine
end

