-- ==== Sys2Proof/Machine/Local.lean ====
section
/-!
DEFINITION. RING (R173-R177), STASH (R178-R180) and CPY (R181, R183, R228) as they issue.
-/
namespace Sys2Proof.Machine

/-- A drill-level instruction that writes a register, when CM holds no lane: its slot is set and clears (R171). -/
def idleOp (x : Issue) (s : State) : Eff := startOp x s .idle .nothing 0
/-- The configured ring of a word's bits [3:0] (R175). -/
def ringOf (g : Group) (w : Word) : Nat × Option Ring := (field w 0 4, tblGet? g.rings (field w 0 4))
/-- Bytes of a ring slot (R173). -/
def Ring.slotBytes (r : Ring) : Nat := 2 ^ (field r.word 4 4 + 6)
/-- A slot word (R175). -/
def slotWord (n : Nat) (r : Ring) (j : Nat) : Word :=
  BitVec.ofNat 32 (n * 2 ^ 28 + j * 2 ^ 20 + (r.base + j * r.slotBytes) % 2 ^ 19)
/-- Entries that the drills of a group hold in their store queues. -/
def State.groupQueue (s : State) (gid : Nat) : List SqKind :=
  s.drills.flatMap fun p => if p.2.gid = gid then p.2.storeQueue.map (·.kind) else []
/-- A copy into a ring (R174). -/
def intoRing (n : Nat) (c : CopyCmd) : Bool :=
  match c.desc with
  | some d => d.ring && field d.dst 0 4 = n
  | none => false
/-- A copy into the ring has issued in the group and not completed (R174). -/
def State.ringCopies (s : State) (gid : Nat) (g : Group) (n : Nat) : Bool :=
  (s.groupQueue gid).any (fun q => match q with | .copy c false => intoRing n c | _ => false) ||
  g.stI.queue.any (intoRing n) || (match g.stI.run with | some r => intoRing n r.cmd | none => false)

/-- RING.CFG (R174). -/
def execRingCfg (a b : Src) (c : Ctl) (s : State) : Host.Outcome State Fault Refusal :=
  issue (.ringCfg a b c) s fun x s =>
    let w := srcU x a
    let base := (srcU x b).toNat
    let (n, old) := ringOf x.g w
    let cnt := field w 8 8
    let size := (cnt + 1) * 2 ^ (field w 4 4 + 6)
    if !x.acts then noEffect s
    else if field w 16 16 ≠ 0 || field w 4 4 > 10 || base % 128 ≠ 0 then .trap { code := 0x17 }
    else if cnt ≠ 0 && base + size > x.g.kcb.ls then .trap { code := 0x0E }
    else if cnt ≠ 0 && (inRing x.g base size (some n) || inStash x.g base size none) then .trap { code := 0x0F }
    else if old.any fun r => r.slots.any (· ≠ .free) || s.ringCopies x.d.gid x.g n then .trap { code := 0x17 }
    else
      let rings := if cnt = 0 then tblErase x.g.rings n
        else tblSet x.g.rings n { word := w, base := base, slots := List.replicate (cnt + 1) .free }
      noEffect (s.modGroup x.d.gid fun g => { g with rings := rings })

/-- A request for a slot joins the ring's order (R175). -/
def ringAsk (x : Issue) (s : State) (a : Src) (claim : Bool) : Eff :=
  let (n, r) := ringOf x.g (srcU x a)
  if !x.acts then idleOp x s
  else if r.isNone then .trap { code := 0x17 }
  else
    let seq := s.seq
    let s := s.modGroup x.d.gid fun g => { g with ringReqs := g.ringReqs ++ [{ ring := n, claim := claim, who := some (x.k, seq) }] }
    startOp x s (.ringTake n claim none) (x.dest 1) 0xFFFFFFFF
/-- RING.CLM (R175). -/
def execRingClm (d : BitVec 8) (a : Src) (c : Ctl) (s : State) : Host.Outcome State Fault Refusal :=
  issue (.ringClm d a c) s fun x s => ringAsk x s a true
/-- RING.WTF (R175). -/
def execRingWtf (d : BitVec 8) (a : Src) (c : Ctl) (s : State) : Host.Outcome State Fault Refusal :=
  issue (.ringWtf d a c) s fun x s => ringAsk x s a false
/-- RING.WTE (R175). -/
def execRingWte (d : BitVec 8) (a : Src) (c : Ctl) (s : State) : Host.Outcome State Fault Refusal :=
  issue (.ringWte d a c) s fun x s =>
    let (n, r) := ringOf x.g (srcU x a)
    if !x.acts then idleOp x s else if r.isNone then .trap { code := 0x17 } else startOp x s (.ringWte n) (x.dest 1) 0xFFFFFFFF
/-- RING.QRY (R175, R177): an unconfigured ring has a status word. -/
def execRingQry (d : BitVec 8) (a : Src) (c : Ctl) (s : State) : Host.Outcome State Fault Refusal :=
  issue (.ringQry d a c) s fun x s =>
    if !x.acts then idleOp x s else startOp x s (.ringQry (field (srcU x a) 0 4)) (x.dest 1) 0xFFFFFFFF

/-- The state of a slot as an instruction that issues now sees it: PUB and REL in the group's queues have happened (R175). -/
def State.slotSeen (s : State) (gid n : Nat) (r : Ring) (j : Nat) : Option SlotState :=
  if (s.groupQueue gid).any (· = .ringPub n j) then some .full
  else if (s.groupQueue gid).any (· = .ringRel n j) then some .free
  else r.slots[j]?
/-- PUB and REL (R175): the slot must be in a state; the entry acts when it leaves the queue. -/
def ringGive (x : Issue) (s : State) (a b : Src) (need : SlotState) (kind : Nat → Nat → SqKind) : Eff :=
  let (n, r) := ringOf x.g (srcU x a)
  let j := field (srcU x b) 20 8
  if !x.acts then noEffect s
  else match r with
  | none => .trap { code := 0x17 }
  | some r => if s.slotSeen x.d.gid n r j = some need then enqueue x s (kind n j) else .trap { code := 0x17 }
/-- RING.PUB (R175). -/
def execRingPub (a b : Src) (c : Ctl) (s : State) : Host.Outcome State Fault Refusal :=
  issue (.ringPub a b c) s fun x s => ringGive x s a b .claimed .ringPub
/-- RING.REL (R175). -/
def execRingRel (a b : Src) (c : Ctl) (s : State) : Host.Outcome State Fault Refusal :=
  issue (.ringRel a b c) s fun x s => ringGive x s a b .held .ringRel

/-- STASH.MAP (R179). -/
def execStashMap (a b : Src) (c : Ctl) (s : State) : Host.Outcome State Fault Refusal :=
  issue (.stashMap a b c) s fun x s =>
    let v := srcU64 x a
    let w := srcU x b
    let r := field w 0 2
    let base := field w 7 12 * 128
    let size := (field w 20 12 + 1) * 128
    if !x.acts then noEffect s
    else if (tblGet? x.g.stash r).isSome || w &&& 0x0008007C ≠ 0 || v.toNat % 128 ≠ 0 then .trap { code := 0x18 }
    else if base + size > x.g.kcb.ls then .trap { code := 0x0E }
    else if inRing x.g base size none || inStash x.g base size none then .trap { code := 0x0F }
    else noEffect (s.modGroup x.d.gid fun g => { g with stash := tblSet g.stash r { v := v, word := w } })
/-- UNMAP, FLUSH and INV (R179): they act when they leave the store queue. -/
def stashBody (x : Issue) (s : State) (a : Src) (op : Nat) : Eff :=
  let r := field (srcU x a) 0 2
  if !x.acts then noEffect s
  else if (tblGet? x.g.stash r).isNone then .trap { code := 0x18 }
  else enqueue x s (.stashOp r op)
/-- STASH.UNMAP (R179). -/
def execStashUnmap (a : Src) (c : Ctl) (s : State) : Host.Outcome State Fault Refusal :=
  issue (.stashUnmap a c) s fun x s => stashBody x s a 0
/-- STASH.FLUSH (R179). -/
def execStashFlush (a : Src) (c : Ctl) (s : State) : Host.Outcome State Fault Refusal :=
  issue (.stashFlush a c) s fun x s => stashBody x s a 1
/-- STASH.INV (R179). -/
def execStashInv (a : Src) (c : Ctl) (s : State) : Host.Outcome State Fault Refusal :=
  issue (.stashInv a c) s fun x s => stashBody x s a 2

/-- The descriptor in eight registers (R181). -/
def copyDesc (form : Nat) (w : List Word) : CopyDesc :=
  let r (j : Nat) : Word := w.getD j 0
  { form := form, src := r 1 ++ r 0, dst := r 3 ++ r 2, len := (r 4).toNat, rows := field (r 5) 0 16 + 1, ui := (r 5).getLsbD 31
    scope := field (r 5) 28 3, ring := (r 5).getLsbD 27
    srcStride := if form = 5 then 0 else (r 6).toInt, dstStride := (r 7).toInt }
/-- Lines of a bed slot of a plot: 128 r on the west side, 256 c on the north (R205). -/
def slotLines (p : Plot) (side : Nat) : Nat := if side = 0 then 128 * 2 ^ p.logR else 256 * 2 ^ p.logC
/-- The plot that a group has reserved. -/
def State.plotOf (s : State) (g : Group) : Option Plot := g.plot.bind fun n => tblGet? s.plots n
/-- The rules of a bed-slot word (R228). -/
def bedDescOk (s : State) (g : Group) (d : CopyDesc) : Bool :=
  match s.plotOf g with
  | none => false
  | some p =>
    let w : Word := d.dst.setWidth 32
    let sb := w.getLsbD 31
    let line := field w 10 10
    let lines := slotLines p (field w 24 1)
    field w 25 6 = 0 && field w 0 10 = 0 &&
      (if sb then d.rows = 1 && line + (d.len - 1) / 2 < lines
       else d.len ≤ 256 && d.dstStride = 0 && line + d.rows ≤ lines)
/-- The rules of a descriptor whose breach is COPY_DESC (R181-R183, R228). -/
def copyDescOk (s : State) (g : Group) (d : CopyDesc) (w : List Word) : Bool :=
  let r (j : Nat) : Word := w.getD j 0
  field (r 5) 16 11 = 0 && d.scope ≠ 0 && d.scope ≠ 7 && 16 ≤ d.len && d.len ≤ 65536 && d.len % 16 = 0 &&
  (!d.ring || d.form = 0) &&
  (if cpySrcLocal d.form || d.form = 5 then r 1 = 0 else true) && (d.form ≠ 0 || r 3 = 0) &&
  (d.form = 5 || field (r 0) 0 4 = 0) && (d.ring || cpyBed d.form || field (r 2) 0 4 = 0) &&
  d.srcStride % 16 = 0 && d.dstStride % 16 = 0 && (!cpyBed d.form || bedDescOk s g d) &&
  (!d.ring || (match tblGet? g.rings (field (r 2) 0 4) with
    | some t => 0 ≤ d.dstStride && (d.rows - 1) * d.dstStride.toNat + d.len ≤ t.slotBytes
    | none => true))
/-- Offsets of the rows of a local range. -/
def localRows (a : Word) (stride : Int) (rows : Nat) : List Int := (List.range rows).map fun (j : Nat) => (field a 0 19 : Int) + stride * (j : Int)
/-- A local range that R156 puts out of bounds. -/
def copyBound (g : Group) (a : Word) (stride : Int) (d : CopyDesc) : Bool :=
  field a 19 9 ≠ 0 || (!a.getLsbD 31 && field a 28 3 ≠ 0) || (localRows a stride d.rows).any fun o => o < 0 || o + d.len > g.kcb.ls
/-- The check of a CPY at issue (R183). -/
def copyCheck (s : State) (g : Group) (d : CopyDesc) (w : List Word) : Option TrapReq :=
  let src : Word := d.src.setWidth 32
  let dst : Word := d.dst.setWidth 32
  let fromLocal := cpySrcLocal d.form
  let intoLocal := d.form = 0 && !d.ring
  let rows (a : Word) (st : Int) (p : Nat → Bool) := (localRows a st d.rows).any fun o => p o.toNat
  if !copyDescOk s g d w then some { code := 0x19 }
  else if (fromLocal && copyBound g src d.srcStride d) || (intoLocal && copyBound g dst d.dstStride d) then some { code := 0x0E }
  else if (fromLocal && (src.getLsbD 31 || rows src d.srcStride fun o => inStash g o d.len none)) ||
      (intoLocal && (dst.getLsbD 31 || rows dst d.dstStride fun o => inStash g o d.len none || inRing g o d.len none)) ||
      (d.ring && (tblGet? g.rings (field dst 0 4)).isNone) then some { code := 0x0F }
  else none
/-- A CPY as it issues (R181, R183); a null command when CM holds no lane (R171). -/
def copyBody (x : Issue) (s : State) (form : Nat) (a : Src) : Eff :=
  let w := srcWindow x a
  let d := copyDesc form w
  let cmd (d : Option CopyDesc) : SqKind := .copy { desc := d, drill := x.k, tk0 := x.i.ctl.tk0, tk1 := x.i.ctl.tk1 } (cpyOut form)
  if !x.acts then enqueue x s (cmd none)
  else match copyCheck s x.g d w with
  | some t => .trap t
  | none => enqueue x s (cmd (some d))
/-- CPY.GL (R181). -/
def execCpyGl (a : Src) (c : Ctl) (s : State) : Host.Outcome State Fault Refusal := issue (.cpyGl a c) s fun x s => copyBody x s 0 a
/-- CPY.LG (R181). -/
def execCpyLg (a : Src) (c : Ctl) (s : State) : Host.Outcome State Fault Refusal := issue (.cpyLg a c) s fun x s => copyBody x s 1 a
/-- CPY.GG (R181). -/
def execCpyGg (a : Src) (c : Ctl) (s : State) : Host.Outcome State Fault Refusal := issue (.cpyGg a c) s fun x s => copyBody x s 2 a
/-- CPY.GB (R181, R228). -/
def execCpyGb (a : Src) (c : Ctl) (s : State) : Host.Outcome State Fault Refusal := issue (.cpyGb a c) s fun x s => copyBody x s 3 a
/-- CPY.LB (R181, R228). -/
def execCpyLb (a : Src) (c : Ctl) (s : State) : Host.Outcome State Fault Refusal := issue (.cpyLb a c) s fun x s => copyBody x s 4 a
/-- CPY.FILL (R181). -/
def execCpyFill (a : Src) (c : Ctl) (s : State) : Host.Outcome State Fault Refusal := issue (.cpyFill a c) s fun x s => copyBody x s 5 a

end Sys2Proof.Machine
end

