-- ==== Sys2Proof/Machine/Sync.lean ====
section
/-!
DEFINITION. BAR (R276-R282) and MBAR (R283-R285).
-/
namespace Sys2Proof.Machine

/-- A drill in DONE (R85); one that has been saved is not (R272). -/
def Drill.isDone (d : Drill) : Bool := d.st = .done && !d.saved
/-- Drill j of a group, while it is resident. -/
def State.drillOf (s : State) (gid : Nat) (g : Group) (j : Nat) : Option (Nat × Drill) :=
  match g.drillKeys[j]? with
  | some k => match s.drill? k with
    | some d => if d.gid = gid && d.idx = j then some (k, d) else none
    | none => none
  | none => none
/-- Drills of a group: ⌈g / 32⌉ (R258). -/
def Group.count (g : Group) : Nat := (g.g + 31) / 32
/-- Drill j counts as DONE: resident in DONE, or recorded so when its group was saved (R273, R276). -/
def State.drillDone (s : State) (gid : Nat) (g : Group) (j : Nat) : Bool :=
  match s.drillOf gid g j with
  | some (_, d) => d.isDone
  | none => g.doneBefore.getLsbD j
/-- The writes that a drill made before a stamp are visible: stores, ATOMs and REDs (R192, R193). -/
def Drill.writesDone (d : Drill) (seq : Nat) : Bool :=
  (d.storeQueue.all fun e => seq ≤ e.seq) && d.ops.all fun o => seq ≤ o.seq || (match o.kind with
    | .atom .. => false
    | _ => true)
/-- The writes before an arrival, under its stamp, of drill j are visible (R193). -/
def State.released (s : State) (gid : Nat) (g : Group) (j seq : Nat) : Bool :=
  match s.drillOf gid g j with
  | some (_, d) => d.writesDone seq
  | none => true
/-- The stamp of the last arrival of drill j at a barrier, 8 the croft's and 9 the grid's. -/
def State.arrivedAt (s : State) (gid : Nat) (g : Group) (j bar : Nat) : Nat :=
  match s.drillOf gid g j with
  | some (_, d) => tblGet d.relSeq bar 0
  | none => 0

/-- Test and Complete of a group barrier (R278). What the phase's arrivals release is kept until it is visible (R193). -/
def State.testBar (s : State) (gid b : Nat) : State :=
  match s.group? gid with
  | none => s
  | some g =>
    let x := tblGet g.bars b {}
    let all := List.range g.count
    let needed := if x.exp = 0 then all.filter fun j => !s.drillDone gid g j else all.filter fun j => x.exp.getLsbD j
    if x.arrived ≠ 0 && needed.all fun j => s.drillDone gid g j || x.arrived.getLsbD j then
      let new := ((List.range 32).filter fun j => x.arrived.getLsbD j).map fun j => (b, x.phase, j, s.arrivedAt gid g j b)
      s.setGroup gid { g with
        bars := tblSet g.bars b { phase := x.phase + 1, exp := 0, arrived := 0 }
        barRel := (g.barRel ++ new).filter fun r => !s.released gid g r.2.2.1 r.2.2.2 }
    else s
/-- Every barrier of a group is tested. -/
def State.testBars (s : State) (gid : Nat) : State := (List.range 8).foldl (fun s b => s.testBar gid b) s

/-- A group has arrived whole at its croft barrier, or at its grid barrier, in a phase (R276, R279), and what its arrivals release is
visible (R193). -/
def State.arrivedAll (s : State) (grid : Bool) (phase : BitVec 8) (gid : Nat) : Bool :=
  match s.group? gid with
  | none => true
  | some g =>
    g.st = .done || (List.range g.count).all fun j =>
      if if grid then g.gridArr.getLsbD j && tblGet g.gridT j 0 = phase else g.croftArr.getLsbD j && tblGet g.croftT j 0 = phase
      then s.released gid g j (s.arrivedAt gid g j (if grid then 9 else 8))
      else s.drillDone gid g j
/-- A croft barrier completes a phase when every drill has arrived (R279). -/
def State.testCroft (s : State) (croft : Nat) : State :=
  match tblGet? s.crofts croft with
  | none => s
  | some c =>
    let waits := c.members.any fun m => match s.group? m with
      | some g => (List.range g.count).any fun j => g.croftArr.getLsbD j && tblGet g.croftT j 0 = c.phase
      | none => false
    if waits && c.members.all fun m => s.arrivedAll false c.phase m
    then { s with crofts := tblSet s.crofts croft { c with phase := c.phase + 1 } } else s
/-- A grid barrier completes a phase when every drill has arrived (R279). -/
def State.testGrid (s : State) (launch : Nat) : State :=
  match tblGet? s.launches launch with
  | none => s
  | some l =>
    let mine := s.groups.filter fun p => p.2.launch = launch
    let waits := mine.any fun p => (List.range p.2.count).any fun j => p.2.gridArr.getLsbD j && tblGet p.2.gridT j 0 = l.gridPhase
    if waits && mine.all fun p => s.arrivedAll true l.gridPhase p.1
    then { s with launches := tblSet s.launches launch { l with gridPhase := l.gridPhase + 1 } } else s
/-- The barriers that a change at a group can complete: a drill enters DONE, or a store becomes visible (R276, R278). -/
def State.retest (s : State) (gid : Nat) : State :=
  match s.group? gid with
  | none => s
  | some g => ((s.testBars gid).testCroft g.croft).testGrid g.launch

/-- The checks of a barrier word and a participant mask (R278). -/
def barDesc (x : Issue) (w : Word) (m : Mask) : Option TrapReq :=
  if w &&& 0xFFFFFFF8 ≠ 0 || (List.range 32).any (fun j => m.getLsbD j && x.g.count ≤ j) then some { code := 0x23 } else none
/-- Arrive of R278, precise in its errors. -/
def arriveBar (x : Issue) (s : State) (b : Nat) (m : Mask) (all : Bool) : Except TrapReq State :=
  let y := tblGet x.g.bars b {}
  let i := x.d.idx
  if y.arrived.getLsbD i || (m ≠ 0 && !m.getLsbD i) || (y.arrived ≠ 0 && m ≠ y.exp) then .error { code := 0x22 }
  else
    let bit : BitVec 8 := 1#8 <<< b
    let s := s.modGroup x.d.gid fun g => { g with bars := tblSet g.bars b { y with exp := m, arrived := y.arrived ||| (1#32 <<< i) } }
    let (seq, s) := s.stamp
    let s := s.modDrill x.k fun d => { d with
      barA := d.barA ||| bit, barS := if all then d.barS ||| bit else d.barS
      barT := tblSet d.barT b y.phase, relSeq := tblSet d.relSeq b seq }
    .ok (s.testBar x.d.gid b)
/-- The phase of barrier b has moved past T of a drill (R278). -/
def barMoved (d : Drill) (g : Group) (b : Nat) : Bool :=
  let n := ((tblGet g.bars b {}).phase - tblGet d.barT b 0).toNat
  1 ≤ n && n ≤ 127
/-- The wait part of R278: done when the phase has moved past T, and what the arrivals of phase T released is visible (R193). -/
def barDone (s : State) (k b : Nat) : Bool :=
  match s.drill? k with
  | none => false
  | some d => match s.group? d.gid with
    | none => false
    | some g =>
      let t := tblGet d.barT b 0
      barMoved d g b && g.barRel.all fun r => r.1 ≠ b || r.2.1 ≠ t || s.released d.gid g r.2.2.1 r.2.2.2
/-- The wait part of BAR.ALL and BAR.HOLD: it clears A, and S of a BAR.ALL, when it completes. -/
def waitBar (s : State) (k b : Nat) : Eff :=
  let bit : BitVec 8 := 1#8 <<< b
  if barDone s k b then noEffect (s.modDrill k fun d => { d with barA := d.barA &&& ~~~bit, barS := d.barS &&& ~~~bit }) else .wait s
/-- BAR.ALL (R276, R278): a drill whose S bit is set has arrived. -/
def execBarAll (a b : Src) (c : Ctl) (s : State) : Host.Outcome State Fault Refusal :=
  issue (.barAll a b c) s fun x s =>
    let w := srcU x a
    let m := srcU x b
    let n := field w 0 3
    match barDesc x w m with
    | some t => .trap t
    | none =>
      if x.d.barS.getLsbD n then waitBar s x.k n
      else match arriveBar x s n m true with
      | .error t => .trap t
      | .ok s => waitBar s x.k n
/-- BAR.POST (R278). -/
def execBarPost (a b : Src) (c : Ctl) (s : State) : Host.Outcome State Fault Refusal :=
  issue (.barPost a b c) s fun x s =>
    match barDesc x (srcU x a) (srcU x b) with
    | some t => .trap t
    | none => match arriveBar x s (field (srcU x a) 0 3) (srcU x b) false with
      | .error t => .trap t
      | .ok s => noEffect s
/-- BAR.HOLD (R278): a waiter that has not arrived waits for the phase that is current when it begins. -/
def execBarHold (a : Src) (c : Ctl) (s : State) : Host.Outcome State Fault Refusal :=
  issue (.barHold a c) s fun x s =>
    let n := field (srcU x a) 0 3
    match barDesc x (srcU x a) 0 with
    | some t => .trap t
    | none =>
      let begun := x.d.longWait = some x.i
      let s := if begun || x.d.barA.getLsbD n then s
        else s.modDrill x.k fun d => { d with barT := tblSet d.barT n (tblGet x.g.bars n {}).phase }
      waitBar s x.k n

/-- SYNC_LOST is raised at the drill's next boundary; the wait goes on until then (R281). -/
def lostWait (x : Issue) (s : State) (code sub : Nat) : Eff := .wait (s.modDrill x.k fun d => d.addTrap code sub 0)
/-- BAR.CROFT (R279). -/
def execBarCroft (c : Ctl) (s : State) : Host.Outcome State Fault Refusal :=
  issue (.barCroft c) s fun x s =>
    if x.g.croftLost then lostWait x s 0x25 0
    else
      let i := x.d.idx
      let phase := ((tblGet? s.crofts x.g.croft).map (·.phase)).getD 0
      let s := if x.g.croftArr.getLsbD i then s
        else
          let (seq, s) := s.stamp
          let s := s.modDrill x.k fun d => { d with relSeq := tblSet d.relSeq 8 seq }
          (s.modGroup x.d.gid fun g => { g with croftArr := g.croftArr ||| (1#32 <<< i), croftT := tblSet g.croftT i phase }).testCroft x.g.croft
      let now := ((tblGet? s.crofts x.g.croft).map (·.phase)).getD 0
      let mine := if x.g.croftArr.getLsbD i then tblGet x.g.croftT i 0 else phase
      if now = mine then .wait s
      else noEffect ((s.modGroup x.d.gid fun g => { g with croftArr := g.croftArr &&& ~~~(1#32 <<< i) }).invalL1 (drillCore x.k))
/-- BAR.GRID (R279): in a launch without COOP it raises ILLEGAL_SYNC. -/
def execBarGrid (c : Ctl) (s : State) : Host.Outcome State Fault Refusal :=
  issue (.barGrid c) s fun x s =>
    if !x.g.kcb.coop then .trap { code := 0x24 }
    else if x.g.gridLost then lostWait x s 0x25 0
    else
      let i := x.d.idx
      let phase := ((tblGet? s.launches x.g.launch).map (·.gridPhase)).getD 0
      let s := if x.g.gridArr.getLsbD i then s
        else
          let (seq, s) := s.stamp
          let s := s.modDrill x.k fun d => { d with relSeq := tblSet d.relSeq 9 seq }
          (s.modGroup x.d.gid fun g => { g with gridArr := g.gridArr ||| (1#32 <<< i), gridT := tblSet g.gridT i phase }).testGrid x.g.launch
      let now := ((tblGet? s.launches x.g.launch).map (·.gridPhase)).getD 0
      let mine := if x.g.gridArr.getLsbD i then tblGet x.g.gridT i 0 else phase
      if now = mine then .wait s
      else noEffect ((s.modGroup x.d.gid fun g => { g with gridArr := g.gridArr &&& ~~~(1#32 <<< i) }).invalL1 (drillCore x.k))

/-- A memory barrier object as its four words (R283). -/
structure MbarObj where
  w0 : Word
  w1 : Word
  phase : Word
  w3 : Word
deriving DecidableEq, Repr
/-- The object at a physical address. -/
def State.mbarAt (s : State) (pa : Nat) : MbarObj :=
  let w (j : Nat) : Word := ofBytes 32 (s.bytesAt (pa + 4 * j) 4)
  { w0 := w 0, w1 := w 1, phase := w 2, w3 := w 3 }
/-- PEND, COUNT, SCOPE and GEN of an object (R283). -/
def MbarObj.pend (o : MbarObj) : Nat := field o.w0 0 24
def MbarObj.count (o : MbarObj) : Nat := field o.w1 0 24
def MbarObj.scope (o : MbarObj) : Nat := field o.w1 24 3
def MbarObj.gen (o : MbarObj) : Nat := field o.w3 16 8
/-- A valid object (R283). -/
def MbarObj.valid (o : MbarObj) : Bool :=
  field o.w3 24 8 = 0xB7 && field o.w0 24 8 = 0 && field o.w1 27 5 = 0 && field o.w3 0 16 = 0 &&
  1 ≤ o.scope && o.scope ≤ 6 && o.count ≠ 0 && 1 ≤ o.pend && o.pend ≤ o.count
/-- Done(p) (R285). -/
def MbarObj.done (o : MbarObj) (p : Word) : Bool := o.valid && o.phase ≠ p && (o.phase - p).toNat < 2 ^ 31
/-- The bytes of an object. -/
def MbarObj.bytes (o : MbarObj) : List Byte := wordBytes o.w0 ++ wordBytes o.w1 ++ wordBytes o.phase ++ wordBytes o.w3
/-- MBAR.INIT on an object (R284). -/
def MbarObj.init (o : MbarObj) (w : Word) : MbarObj :=
  { w0 := w &&& 0xFFFFFF, w1 := w, phase := 0
    w3 := BitVec.ofNat 32 (0xB7 * 2 ^ 24 + (if o.valid then (o.gen + 1) % 256 else 0) * 2 ^ 16) }
/-- An arrival at an object (R285): the cause of MBAR_STATE, or the object after it. -/
def MbarObj.arrive (o : MbarObj) (n : Nat) : Except Nat MbarObj :=
  if !o.valid then .error 1
  else if o.pend < n then .error 4
  else if o.pend = n then .ok { o with w0 := BitVec.ofNat 32 o.count, phase := o.phase + 1 }
  else .ok { o with w0 := BitVec.ofNat 32 (o.pend - n) }

/-- The address checks of MBAR (R284). -/
def mbarCheck (x : Issue) (s : State) (a : Src) (acc : Access) : Except TrapReq (LaneAddr × State) :=
  let va := srcU64 x a
  match s.ctx? x.g.ctx with
  | none => .error { code := 0x10, tval := va }
  | some cx =>
    match checkAccess s x.k x.g.ctx cx acc acc.w 16 [(0, va)] [] false with
    | .error t => .error t
    | .ok (l :: _, _, s) => if classOf l.pa = .cacheable then .ok (l, s) else .error { code := 0x13, tval := va }
    | .ok ([], _, _) => .error { code := 0x10, tval := va }
/-- An MBAR form that enters the store queue. -/
def mbarQueue (x : Issue) (s : State) (a : Src) (bad : Bool) (kind : LaneAddr → SqKind) : Eff :=
  match mbarCheck x s a { r := true, w := true } with
  | .error t => .trap t
  | .ok (l, s) => if bad then .trap { code := 0x26 } else enqueue x s (kind l)
/-- MBAR.INIT (R284). -/
def execMbarInit (a b : Src) (c : Ctl) (s : State) : Host.Outcome State Fault Refusal :=
  issue (.mbarInit a b c) s fun x s =>
    let w := srcU x b
    mbarQueue x s a (field w 27 5 ≠ 0 || field w 24 3 = 0 || field w 24 3 = 7 || field w 0 24 = 0) fun l => .mbarInit l w
/-- MBAR.ARR (R284). -/
def execMbarArr (a b : Src) (c : Ctl) (s : State) : Host.Outcome State Fault Refusal :=
  issue (.mbarArr a b c) s fun x s =>
    let n := (srcU x b).toNat
    mbarQueue x s a (n = 0 || n ≥ 2 ^ 24) fun l => .mbarArr l n
/-- MBAR.INV (R284). -/
def execMbarInv (a : Src) (c : Ctl) (s : State) : Host.Outcome State Fault Refusal :=
  issue (.mbarInv a c) s fun x s => mbarQueue x s a false .mbarInv
/-- MBAR.TEST (R284). -/
def execMbarTest (d : BitVec 8) (a b : Src) (c : Ctl) (s : State) : Host.Outcome State Fault Refusal :=
  issue (.mbarTest d a b c) s fun x s =>
    match mbarCheck x s a { r := true } with
    | .error t => .trap t
    | .ok (l, s) => startOp x s (.mbarTest l (srcU x b)) (x.dest 1) 0xFFFFFFFF
/-- MBAR.WAIT completes: an acquire at the object's scope (R285, R153). -/
def mbarComplete (x : Issue) (s : State) (scope : Nat) : Eff :=
  noEffect (if scope ≥ 3 then s.invalL1 (drillCore x.k) else s)
/-- MBAR.WAIT (R285): it records GEN at its first evaluation, which the acquires before it hold (R192), and what a later write brings
about decides (`State.watch`). -/
def execMbarWait (a b : Src) (c : Ctl) (s : State) : Host.Outcome State Fault Refusal :=
  issue (.mbarWait a b c) s fun x s =>
    match x.d.mbar with
    | some m => match m.found with
      | some 0 => mbarComplete x s m.scope
      | some n => .trap { code := 0x27, sub := n }
      | none => .wait s
    | none =>
      match mbarCheck x s a { r := true } with
      | .error t => .trap t
      | .ok (l, s) =>
        let o := s.mbarAt l.pa
        let p := srcU x b
        if !x.d.clearFor s.seq || s.gateAt (drillChip x.k) false l.pa = .hold then .wait s
        else if s.poisoned l.pa then .trap { code := 0x15, tval := l.va }
        else if !o.valid then .trap { code := 0x27, sub := 2 }
        else if o.done p then mbarComplete x s o.scope
        else .wait (s.modDrill x.k fun d => { d with mbar := some { pa := l.pa, gen := o.gen, p := p, va := l.va, scope := o.scope } })
/-- What an object shows an MBAR.WAIT (R285). -/
def MbarWait.look (m : MbarWait) (o : MbarObj) : MbarWait :=
  if m.found.isSome then m
  else if !o.valid then { m with found := some 2 }
  else if o.gen ≠ m.gen then { m with found := some 3 }
  else if o.done m.p then { m with found := some 0, scope := o.scope } else m
/-- Every MBAR.WAIT in progress evaluates its object after the writes of a step (R285). -/
def State.watch (s : State) : State :=
  if s.drills.all fun p => p.2.mbar.isNone then s
  else { s with drills := s.drills.map fun p => (p.1, { p.2 with mbar := p.2.mbar.map fun m => m.look (s.mbarAt m.pa) }) }

end Sys2Proof.Machine
end

