-- ==== Sys2Proof/Machine/Launch.lean ====
section
/-!
DEFINITION. Packets, control blocks, readiness and the event vector (R314-R322, R331, R332); LNCH (R323-R325) and EXIT
(R267-R272).
-/
namespace Sys2Proof.Machine

/-- Entries of a queue's ring (R314). -/
def Queue.depth (q : Queue) : Nat := field q.ctl 52 4
def Queue.size (q : Queue) : Nat := 2 ^ q.depth
/-- The owning context, the priority class, the watermark (R314). -/
def Queue.ctx (q : Queue) : Nat := field q.ctl 0 12
def Queue.prio (q : Queue) : Nat := field q.ctl 12 3
def Queue.wmark (q : Queue) : Nat := field q.ctl 32 13
/-- The address of a ring entry (R316). -/
def Queue.entryAddr (q : Queue) (idx : Nat) : Nat := q.base.toNat + 128 * idx

/-- A dispatch packet as its fields (R318). -/
structure Packet where
  code : Nat
  kcb : DWord
  x : Nat
  y : Nat
  z : Nat
  g : Nat
  arg : DWord
  waitMask : List DWord
  setMask : List DWord
  /-- Reserved bits and limits are kept. -/
  ok : Bool
deriving DecidableEq, Repr
/-- Reads n bytes of a list as a number. -/
def numIn (bs : List Byte) (at_ n : Nat) : Nat := (ofBytes (8 * n) ((bs.drop at_).take n)).toNat
/-- A packet from its 128 bytes (R318). -/
def packetIn (bs : List Byte) : Packet :=
  let n := numIn bs
  let code := n 0 4
  let x := n 16 4
  let y := n 20 4
  let z := n 24 4
  let g := n 28 4
  let words (a : Nat) : List DWord := (List.range 4).map fun j => BitVec.ofNat 64 (n (a + 8 * j) 8)
  { code := code, kcb := BitVec.ofNat 64 (n 8 8), x := x, y := y, z := z, g := g, arg := BitVec.ofNat 64 (n 32 8)
    waitMask := words 48, setMask := words 80
    ok := code ≤ 4 && n 4 4 = 0 && n 8 8 % 128 = 0 && 1 ≤ x && x ≤ 2 ^ 31 - 1 && 1 ≤ y && y ≤ 65535 && 1 ≤ z && z ≤ 65535 &&
      1 ≤ g && g ≤ 1024 && n 40 8 = 0 && n 112 16 = 0 && (code < 3 || (x = 1 && y = 1 && z = 1 && g = 1)) }
/-- Groups of a packet's grid. -/
def Packet.groups (p : Packet) : Nat := p.x * p.y * p.z

/-- A control block from its 128 bytes, with its limits (R331). -/
def kcbIn (bs : List Byte) : Option Kcb :=
  let n := numIn bs
  let w : Word := BitVec.ofNat 32 (n 4 4)
  let codes : BitVec 5 := BitVec.ofNat 5 (field w 11 5)
  let plot := w.getLsbD 3
  let ok :=
    n 0 2 = 1 && n 2 2 = 128 && field w 20 12 = 0 && field w 4 2 ≤ 2 && field w 6 2 ≤ 2 &&
    (plot || (field w 4 2 = 0 && field w 6 2 = 0)) && 1 ≤ n 8 2 && n 8 2 ≤ 256 && 1 ≤ n 10 1 && n 10 1 ≤ 64 && n 11 1 ≤ 8 &&
    n 12 4 ≤ 524288 && n 12 4 % 128 = 0 && n 16 8 % 8 = 0 && n 24 8 % 8 = 0 && n 32 8 % 16 = 0 &&
    (if codes.getLsbD 2 then 1 ≤ n 40 4 && n 40 4 ≤ 2 ^ 24 else n 40 4 = 0) && n 44 4 = 0 && n 48 8 % 8 = 0 && n 56 8 % 2 = 0 &&
    n 64 8 % 2 = 0 && n 72 56 = 0
  let d (a : Nat) : DWord := BitVec.ofNat 64 (n a 8)
  if ok then some
    { coop := w.getLsbD 0, restart := w.getLsbD 1, succ := w.getLsbD 2, plot := plot, logR := field w 4 2, logC := field w 6 2
      croft := field w 8 3 + 1, codes := codes, taskDie := field w 16 4, v := n 8 2, s := n 10 1, t := n 11 1, ls := n 12 4
      entryA := d 16, entryB := d 24, seedline := d 32, opCount := n 40 4, translated := d 48, reeve := d 56, coulter := d 64 }
  else none
/-- The form that a code selects is there, and this part runs it (R332). -/
def Kcb.runs (k : Kcb) (code : Nat) : Bool :=
  k.codes.getLsbD code && (match code with
    | 0 => k.entryA ≠ 0
    | 2 => k.seedline ≠ 0 && k.translated ≠ 0
    | 3 => k.reeve ≠ 0 && ((4 ≤ k.taskDie && k.taskDie ≤ 11) || k.taskDie = 15)
    | 4 => k.coulter ≠ 0
    | _ => false)
/-- The entry point of a code (R333). -/
def Kcb.entry (k : Kcb) (code : Nat) : DWord :=
  match code with
  | 0 => k.entryA | 2 => k.translated | 3 => k.reeve | _ => k.coulter

/-- How a read that Headland makes for a context ends: it waits for a hand-over (R200); it fails, where translation fails or
the address is unbacked, poisoned or of a stack that another context holds (R242, R319, R332); or it has the bytes and their
physical address. -/
inductive Service where
  | held | bad | got (bs : List Byte) (pa : Nat) (s : State)
/-- Headland reads bytes for a context. -/
def State.serviceRead (s : State) (ctx : Nat) (va : DWord) (n : Nat) : Service :=
  match s.ctx? ctx with
  | none => .bad
  | some c => match s.translate 0 c va { r := true } with
    | .error e => if e.cause = 0 then .held else .bad
    | .ok (pa, s) =>
      if s.gate pa = .hold then .held
      else if !s.backed pa || !s.grantOk ctx pa || s.poisoned pa then .bad
      else .got (if classOf pa = .cacheable then s.bytesAt pa n else s.deviceBytes pa n) pa s
/-- What a packet and its control block break: 0 nothing, else ECAUSE (R319, R332); a launch that an EXIT.SUCC names has to
allow it. -/
def kcbCause (k : Kcb) (p : Packet) (named : Bool) : Nat :=
  if !k.runs p.code || (named && p.code < 3 && !k.succ) then 2
  else if (k.plot && p.g < 128 * 2 ^ k.logR) || (k.coop && p.groups < k.croft) then 4
  else 0
/-- Headland reads the control block that a packet names (R332): the block, or its ECAUSE, 0 where the read waits. -/
def State.kcbFor (s : State) (ctx : Nat) (p : Packet) (named : Bool) : Except Nat (Kcb × State) :=
  match s.serviceRead ctx p.kcb 128 with
  | .held => .error 0
  | .bad => .error 2
  | .got bs _ s => match kcbIn bs with
    | none => .error 2
    | some k => if kcbCause k p named = 0 then .ok (k, s) else .error (kcbCause k p named)
/-- The packet of a filled ring entry as memory holds it (R316). -/
def State.packetAt (s : State) (q : Queue) (e : QEntry) : Option Packet :=
  let a := q.entryAddr e.idx
  if !s.backed a || s.poisoned a || classOf a ≠ .cacheable then none
  else some (packetIn (s.bytesAt a 128))

/-- A word of a context's event vector (R325). -/
def Context.event (c : Context) (w : Nat) : DWord := tblGet c.events w 0
/-- Every bit of a wait mask is set (R320). -/
def Context.meets (c : Context) (mask : List DWord) : Bool :=
  (List.range 4).all fun w => let m := mask.getD w 0; c.event w &&& m = m
/-- Heads whose wait mask is met become ready, and stay ready (R320). -/
def State.refresh (s : State) : State :=
  { s with queues := s.queues.map fun p =>
      (p.1, match p.2.entries with
        | e :: _ =>
          if !p.2.ready && e.filled && !e.bad then match s.ctx? p.2.ctx, s.packetAt p.2 e with
            | some c, some k => { p.2 with ready := c.meets k.waitMask }
            | _, _ => p.2
          else p.2
        | [] => p.2) }
/-- ORs a mask into a word of the event vector, or clears its bits (R325); readiness follows (R322). -/
def State.setEvents (s : State) (ctx w : Nat) (mask : DWord) (on : Bool) : State :=
  (s.modCtx ctx fun c => { c with events := tblSet c.events w (if on then c.event w ||| mask else c.event w &&& ~~~mask) }).refresh
/-- The queue's MSI (R315). -/
def State.queueMsi (s : State) (q : Queue) : State := s.msi (s.reg 0x30010) (field q.ctl 21 11)
/-- The head leaves the ring: the next entry is head; COUNT falls, which can send an MSI (R315, R320). -/
def State.popHead (s : State) (n : Nat) : State :=
  let q := s.queue n
  let s' := (s.setQueue n { q with entries := q.entries.drop 1, ready := false }).refresh
  if q.entries.length = q.wmark + 1 then s'.queueMsi q else s'
/-- The entry that failed leaves the ring (R317). -/
def State.discardBad (s : State) (n : Nat) : State :=
  let q := s.queue n
  match q.entries with
  | [] => s
  | e :: _ =>
    if e.bad then s.popHead n
    else match q.entries.find? (·.bad) with
    | none => s
    | some b =>
      let s' := s.setQueue n { q with entries := q.entries.filter (·.id ≠ b.id) }
      if q.entries.length = q.wmark + 1 then s'.queueMsi q else s'
/-- The ring has no free entry (R324). -/
def Queue.full (q : Queue) : Bool := q.entries.length ≥ q.size || q.entries.any (·.idx = q.tail)
/-- A queue enters ERROR (R315, R319). -/
def State.queueError (s : State) (n cause : Nat) : State :=
  let q := s.queue n
  (s.setQueue n { q with st := .error, ecause := cause }).queueMsi q
/-- An entry of a queue fails a check: the queue goes to ERROR, and a launch that was read for the entry is dropped (R319). -/
def State.failEntry (s : State) (n id cause : Nat) : State :=
  let q := s.queue n
  let gone := (q.entries.filter (·.id = id)).filterMap (·.launch)
  State.queueError ({ s with launches := s.launches.filter fun p => !gone.contains p.1 }.setQueue n { q with
    entries := q.entries.map fun (f : QEntry) => if f.id = id then { f with bad := true, launch := none } else f }) n cause
/-- A launch of a packet and its control block, with no group started. -/
def launchOf (n ctx : Nat) (p : Packet) (k : Kcb) : Launch :=
  { queue := n, ctx := ctx, code := p.code, kcb := k, kcbVa := p.kcb, gx := p.x, gy := p.y, gz := p.z, g := p.g, arg := p.arg
    setMask := p.setMask }
/-- A launch whose control block has been read (R332), for an entry of a queue: its number. -/
def State.newLaunch (s : State) (n : Nat) (e : QEntry) (p : Packet) (k : Kcb) : Nat × State :=
  let (l, s) := s.stamp
  let q := s.queue n
  let s := { s with launches := tblSet s.launches l (launchOf n q.ctx p k) }
  (l, s.setQueue n { q with entries := q.entries.map fun f => if f.id = e.id then { f with launch := some l } else f })
/-- What a launch's entry comes to when Headland turns to it. -/
inductive Fresh where
  | held | bad (s : State) | got (l : Nat) (x : Launch) (s : State)
/-- The launch of an entry, its packet read and checked once more while none of its groups has started (R316, R319), and its
control block read where that has not been done, or where the packet names another (R332; log 95, DEDUCED). -/
def State.fresh (s : State) (n : Nat) (e : QEntry) (named : Bool) : Fresh :=
  let q := s.queue n
  let old := e.launch.bind fun l => (tblGet? s.launches l).map fun x => (l, x)
  let set (s : State) (l : Nat) (x : Launch) : Fresh := .got l x { s with launches := tblSet s.launches l x }
  match old with
  | some (l, x) =>
    if x.next ≠ 0 then .got l x s
    else if s.gate (q.entryAddr e.idx) = .hold then .held
    else match s.packetAt q e with
    | none => .bad (s.failEntry n e.id 1)
    | some p =>
      if !p.ok then .bad (s.failEntry n e.id 1)
      else if p.kcb = x.kcbVa then
        if kcbCause x.kcb p false = 0 then set s l (launchOf n q.ctx p x.kcb) else .bad (s.failEntry n e.id (kcbCause x.kcb p false))
      else match s.kcbFor q.ctx p named with
      | .error c => if c = 0 then .held else .bad (s.failEntry n e.id c)
      | .ok (k, s) => set s l (launchOf n q.ctx p k)
  | none =>
    if s.gate (q.entryAddr e.idx) = .hold then .held
    else match s.packetAt q e with
    | none => .bad (s.failEntry n e.id 1)
    | some p =>
      if !p.ok then .bad (s.failEntry n e.id 1)
      else match s.kcbFor q.ctx p named with
      | .error c => if c = 0 then .held else .bad (s.failEntry n e.id c)
      | .ok (k, s) => let (l, s) := s.newLaunch n e p k; .got l (launchOf n q.ctx p k) s
/-- Reserves the next entry of a ring (R324, R327): its identifier. -/
def State.reserve (s : State) (n : Nat) (hart : Option Nat) : Nat × State :=
  let (id, s) := s.stamp
  let q := s.queue n
  (id, s.setQueue n { q with entries := q.entries ++ [{ id := id, idx := q.tail, hart := hart }], tail := (q.tail + 1) % q.size })
/-- A reserved entry is posted: Headland takes its packet's address and bytes. -/
def State.postEntry (s : State) (n id : Nat) (pa : Option Nat) (snap : List Byte) : State :=
  let q := s.queue n
  s.setQueue n { q with entries := q.entries.map fun e => if e.id = id then { e with posted := true, pa := pa, snap := snap } else e }

/-- An instruction of LNCH whose SRC2 has reserved bits, or which only takes its TK and slot actions (R323). -/
def lnch (x : Issue) (s : State) (bad : Bool) (idle : Eff) (act : Eff) : Eff :=
  if !x.acts then idle else if bad then .trap { code := 0x02, sub := 4 } else (match act with | .wait _ => noEffect s | e => e)
/-- LNCH.POST (R324). -/
def execLnchPost (a b : Src) (c : Ctl) (s : State) : Host.Outcome State Fault Refusal :=
  issue (.lnchPost a b c) s fun x s =>
    let n := field (srcU x b) 0 13
    lnch x s (field (srcU x b) 13 19 ≠ 0) (noEffect s) <| withCtx x s fun cx =>
      match checkAccess s x.k x.g.ctx cx { r := true } false 128 [(0, srcU64 x a)] [] false with
      | .error t => .trap t
      | .ok (_, _, s) =>
        let q := s.queue n
        if q.ctx ≠ x.g.ctx then .trap { code := 0x02, sub := 1 }
        else if q.st ≠ .opened && q.st ≠ .paused then .trap { code := 0x02, sub := 2 }
        else if q.full then .trap { code := 0x02, sub := 3 }
        else
          let (id, s) := s.reserve n none
          enqueue x s (.post n id (srcU64 x a))
/-- EVSIG and EVCLR (R325). -/
def evBody (x : Issue) (s : State) (a b : Src) (on : Bool) : Eff :=
  lnch x s (field (srcU x b) 2 30 ≠ 0) (noEffect s) (enqueue x s (.evSet x.g.ctx (field (srcU x b) 0 2) (srcU64 x a) on))
/-- LNCH.EVSIG (R325). -/
def execLnchEvsig (a b : Src) (c : Ctl) (s : State) : Host.Outcome State Fault Refusal :=
  issue (.lnchEvsig a b c) s fun x s => evBody x s a b true
/-- LNCH.EVCLR (R325). -/
def execLnchEvclr (a b : Src) (c : Ctl) (s : State) : Host.Outcome State Fault Refusal :=
  issue (.lnchEvclr a b c) s fun x s => evBody x s a b false
/-- LNCH.EVTST (R325). It writes no latch (R29, R323; log 101, DESIGN CHOICE). -/
def execLnchEvtst (d : BitVec 8) (a b : Src) (c : Ctl) (s : State) : Host.Outcome State Fault Refusal :=
  issue (.lnchEvtst d a b c) s fun x s =>
    lnch x s (field (srcU x b) 2 30 ≠ 0) (idleOp x s)
      (startOp x s (.evTest x.g.ctx (field (srcU x b) 0 2) (srcU64 x a)) (x.dest 1) 0xFFFFFFFF)

/-- A group that is neither DONE nor LOST. -/
def Group.alive (g : Group) : Bool := g.st ≠ .done && g.st ≠ .lost
/-- Groups of a launch. -/
def Launch.total (l : Launch) : Nat := l.gx * l.gy * l.gz
/-- What a search for a successor finds: the read of a control block that waits, no launch, a launch that fails its checks, or
the launch with its entry. -/
inductive SuccRead where
  | held | no | bad | got (e : QEntry) (l : Nat) (x : Launch)
/-- The candidate that an entry of a queue is (R269): ready, with groups not yet started, not the issuing group's own launch. A
launch behind the head is ready when its wait mask is met now, and its control block is read for the check. -/
def State.succOf (s : State) (n own : Nat) (head : Bool) (e : QEntry) : SuccRead × State :=
  let q := s.queue n
  match s.ctx? q.ctx, s.packetAt q e with
  | some c, some p =>
    let ready := if head then q.ready else c.meets p.waitMask
    if !e.filled || e.bad || !ready || p.code ≥ 3 || e.launch = some own then (.no, s)
    else match s.fresh n e true with
    | .held => (.held, s)
    | .bad s => (.bad, s)
    | .got l x s => if x.next < x.total then (.got e l x, s) else (.no, s)
  | _, _ => (.no, s)
/-- The first entry of a list that is a candidate; the flag of each tells that it is the head. -/
def State.pickFrom (n own : Nat) : List (Bool × QEntry) → State → SuccRead × State
  | [], s => (.no, s)
  | e :: r, s => match s.succOf n own e.1 e.2 with
    | (.no, s) => State.pickFrom n own r s
    | x => x
/-- Selects a successor in a queue: the oldest candidate (R269, R270). -/
def State.pickSucc (s : State) (n own : Nat) : SuccRead × State :=
  State.pickFrom n own ((s.queue n).entries.mapIdx fun j e => (j = 0, e)) s
/-- A successor fits a group in place (R269). -/
def succFits (g : Group) (x : Launch) : Option Nat :=
  if !x.kcb.succ then some 3
  else if x.g ≠ g.g || x.kcb.croft ≠ g.kcb.croft || x.kcb.ls ≠ g.kcb.ls || x.kcb.plot ≠ g.kcb.plot ||
      x.kcb.logR ≠ g.kcb.logR || x.kcb.logC ≠ g.kcb.logC then some 4
  else if (x.kcb.v + 7) / 8 + x.kcb.t > (g.kcb.v + 7) / 8 + g.kcb.t || (x.kcb.s + 7) / 8 > (g.kcb.s + 7) / 8 then some 5
  else none
/-- CheckSuccessor (R269) and the state after what it has read: a cause of SUCC_INVALID, 0 where the read of the control block
waits for a hand-over. -/
def succCheck (x : Issue) (s : State) (w : Word) : Option Nat × State :=
  let n := field w 0 13
  if x.d.sysMode then (some 1, s)
  else if field w 13 19 ≠ 0 || (s.queue n).ctx ≠ x.g.ctx then (some 2, s)
  else match s.pickSucc n x.g.launch with
    | (.held, s) => (some 0, s)
    | (.got _ _ y, s) => (succFits x.g y, s)
    | (_, s) => (some 3, s)
/-- The cause alone. -/
def checkSucc (x : Issue) (s : State) (w : Word) : Option Nat := (succCheck x s w).1

/-- The successor word of a group whose drills have all exited with it (R270, R271). -/
def Group.succWord (g : Group) : Option Word :=
  match g.exits with
  | [] => none
  | e :: _ => if !g.succCancel && g.exits.all fun q => q.2.1 && q.2.2 = e.2.2 then some e.2.2 else none
/-- A member of a croft rules out a successor with a word: it has ended, or one of its exits differs (R270, R271). -/
def Group.refuses (g : Group) (w : Word) : Bool := !g.alive || g.succCancel || g.exits.any fun e => !e.2.1 || e.2.2 ≠ w
/-- A group waits at step 5 of a successor exit for another group of its croft (R275). -/
def State.waitsMates (s : State) (g : Group) : Bool :=
  match g.succWord, tblGet? s.crofts g.croft with
  | some w, some t =>
    let mates := t.members.filterMap s.group?
    g.st = .exiting && g.exitStep = 5 && !mates.any (·.refuses w) && !mates.all fun m => m.st = .exiting && m.exitStep = 5
  | _, _ => false
/-- A group all of whose drills are in DONE exits (R266). -/
def State.groupExits (s : State) (gid : Nat) : State :=
  match s.group? gid with
  | none => s
  | some g =>
    if (g.st = .running || g.st = .preempting || g.st = .restoring) && (List.range g.count).all fun j => s.drillDone gid g j
    then s.setGroup gid { g with st := .exiting, exitStep := 1 }
    else s
/-- The drill enters DONE (R268). -/
def State.exitDrill (s : State) (k : Nat) (fn : Bool) (word : Word) : State :=
  match s.drill? k with
  | none => s
  | some d =>
    let s := s.modDrill k fun d => { d with
      st := .done, stall := none, sysMode := false, routine := 0, landings := [], latches := [], fetch := [], fetchWant := []
      ops := d.ops.map fun o => { o with into := .nothing, latch := none, noReg := true }
      uiPend := 0, uiPi := false, uiPo := false, pendTraps := [], pendOverrun := false, needLand := none }
    let s := s.modGroup d.gid fun g => { g with exits := g.exits ++ [(d.idx, fn, word)] }
    ((s.groupExits d.gid).restored d.gid).retest d.gid
/-- EXIT (R268): at the end of a save routine it marks the drill saved (R272). -/
def execExit (c : Ctl) (s : State) : Host.Outcome State Fault Refusal :=
  issue (.exit c) s fun x s =>
    .ok { s := s, after := fun s =>
      if x.d.sysMode && x.d.routine = 1 then (s.landAll x.k).modDrill x.k fun d => { d with st := .done, saved := true, sysMode := false, routine := 0 }
      else s.exitDrill x.k false 0 }
/-- EXIT.SUCC (R268, R269). -/
def execExitSucc (a : Src) (c : Ctl) (s : State) : Host.Outcome State Fault Refusal :=
  issue (.exitSucc a c) s fun x s =>
    match succCheck x s (srcU x a) with
    | (some 0, _) => .trap { code := 0 }
    | (some n, s) => .fail s { code := 0x29, sub := n }
    | (none, s) => .ok { s := s, after := fun s => s.exitDrill x.k true (srcU x a) }

end Sys2Proof.Machine
end

