-- ==== Sys2Proof/Machine/Tenure.lean ====
section
/-!
DEFINITION. Stacks: the hand-over, the forced take, zeroing and the grant (R241-R251, R407); STK (R252-R256); the events of a
hand-over.
-/
namespace Sys2Proof.Machine

/-- Changes a stack's record. -/
def State.setStack (s : State) (k : Nat) (t : Stack) : State := { s with stackTbl := tblSet s.stackTbl k t }
/-- An address lies in the window of a stack (R16). -/
def inStack (k a : Nat) : Bool := match regionOf a with | .stack j _ => j = k | _ => false
/-- The side of a stack that a die lies on (R11). -/
def sideOf (k chip : Nat) : Option Nat := if stackDie k 0 = chip then some 0 else if stackDie k 1 = chip then some 1 else none

/-- A CEDE completes: its TK1 signals are sent where its group still exists (R246, R248). -/
def State.cedeDone (s : State) (c : Cede) : State :=
  match s.group? c.gid with
  | none => s
  | some g =>
    if g.st = .lost || g.st = .done then s
    else
      let (tok, ovf) := signalTokens g.tok 1 c.tk1
      let s := s.setGroup c.gid { g with tok := tok }
      if ovf then match s.drillOf c.gid g c.drill with
        | some (k, _) => s.modDrill k fun d => d.addTrap 0x16 0 2
        | none => s
      else s
/-- A CEDE is discarded: its drill, if it still exists, takes a trap at its next boundary (R254, R407). -/
def State.cedeDrop (s : State) (c : Cede) (code sub : Nat) : State :=
  match s.group? c.gid with
  | none => s
  | some g => match s.drillOf c.gid g c.drill with
    | some (k, _) => s.modDrill k fun d => d.addTrap code sub 0
    | none => s
/-- Several CEDEs complete. -/
def State.cedesDone (s : State) (l : List Cede) : State := l.foldl (fun s c => s.cedeDone c) s

/-- Every cached copy of a stack's lines is dropped, with its dirty data and its poison, and every region grant in it
(R250). -/
def State.stackInval (s : State) (k : Nat) : State :=
  let out {α : Type} (t : Tbl α) : Tbl α := t.filter fun p => !inStack k (128 * p.1)
  { s with
    owned := out s.owned, sharers := out s.sharers, poison := s.poison.filter fun l => !inStack k (128 * l)
    grants := s.grants.filter fun g => !inStack k (4096 * g.2)
    cores := s.cores.map fun p => (p.1, { p.2 with l1d := out p.2.l1d, icache := out p.2.icache }) }
/-- The holder of a HELD stack changes, and zeroing begins (R250). -/
def State.stackRegrant (s : State) (k : Nat) (holder : Option Nat) (right : Bool) : State :=
  (s.stackInval k).setStack k { s.stack k with holder := holder, cedeRight := right && holder.isSome, st := .zeroing, shareAfter := false }

/-- Drills whose STK.TAKE waits for a side of a stack. -/
def waitsTake (k side : Nat) (i : Option Instr) : Bool :=
  match i with
  | some (.stkTake sd _) => field sd 0 3 = k && field sd 3 1 = side
  | _ => false
/-- A port has opened: the STK.TAKEs that wait for its side are met (R246, R255). -/
def State.takesMet (s : State) (k side : Nat) : State :=
  { s with drills := s.drills.map fun p => (p.1, if waitsTake k side p.2.longWait then { p.2 with metWait := true } else p.2) }
/-- STK.TAKEs that wait for the side of an isolated die are abandoned: STACK_LOST, cause 1 (R249). -/
def State.takesLost (s : State) (k side : Nat) : State :=
  { s with drills := s.drills.map fun p =>
      (p.1, if waitsTake k side p.2.longWait && !p.2.metWait then p.2.addTrap 0x28 1 0 else p.2) }

/-- Queued CEDEs after the stack has become HELD (R244, R407): one towards a die that cannot take the stack is discarded, a
null one completes, the first other starts its hand-over and carries those that follow it to the same side. -/
def State.startNext (s : State) (k : Nat) : List Cede → State
  | [] => s.setStack k { s.stack k with queued := [] }
  | c :: r =>
    if c.side = (s.stack k).owner then (s.cedeDone c).startNext k r
    else if !s.chipUp (stackDie k c.side) then (s.cedeDrop c 0x28 3).startNext k r
    else
      let same := r.takeWhile fun x => x.side = c.side
      let (seq, s) := s.stamp
      s.setStack k { s.stack k with st := .draining, target := c.side, step := 1, since := seq, carried := c :: same, queued := r.drop same.length }
/-- A hand-over or a forced move is over (R245): the CEDEs it carried complete. What was put off comes first: zeroing that a
forced move interrupted or that a retirement asks for; once the stack is HELD the null CEDEs complete, and the queue goes on. -/
def State.stackHeld (s : State) (k : Nat) : State :=
  let done := (s.stack k).carried
  let s := (s.setStack k { s.stack k with carried := [] }).cedesDone done
  let t := s.stack k
  if t.shareAfter then s.stackRegrant k none false
  else if t.zeroAfter then (s.stackInval k).setStack k { t with st := .zeroing, zeroAfter := false }
  else
    let s := s.setStack k { t with st := .held, step := 0, nulls := [] }
    (s.cedesDone t.nulls).startNext k t.queued

/-- Headland accepts a CEDE (R244, R245, R407). -/
def State.cedeAccept (s : State) (k : Nat) (c : Cede) : State :=
  let t := s.stack k
  let home := if t.st = .forced then 1 - t.owner else t.owner
  let pending := t.st = .draining || t.queued ≠ []
  let last := match t.queued.getLast? with
    | some q => q.side
    | none => if t.st = .draining then t.target else home
  if (pending || c.side ≠ home) && !s.chipUp (stackDie k c.side) then s.cedeDrop c 0x28 3
  else if c.side = last then match t.st with
    | .held => s.cedeDone c
    | .draining => s.setStack k { t with carried := t.carried ++ [c] }
    | _ => s.setStack k { t with nulls := t.nulls ++ [c] }
  else if t.st = .held then s.startNext k [c]
  else s.setStack k { t with queued := t.queued ++ [c] }

/-- CEDE_ACCEPT (R254): Headland checks holder and C again, then accepts the CEDE or discards it. -/
def execCedeAccept (stk : Nat) (s : State) : Host.Outcome State Fault Refusal :=
  let t := s.stack stk
  match t.sent with
  | [] => .next s
  | c :: r =>
    let s := s.setStack stk { t with sent := r }
    .next (if t.holder = some c.ctx && t.cedeRight then s.cedeAccept stk c else s.cedeDrop c 0x14 3)

/-- The pages of a virtual range. -/
def pagesOf (va : DWord) (n : Nat) : List DWord :=
  (List.range ((va.toNat % 4096 + n + 4095) / 4096)).map fun j => BitVec.ofNat 64 ((va.toNat / 4096 + j) * 4096)
/-- A page of a context lies in a stack. -/
def State.vaInStack (s : State) (ctx chip k : Nat) (va : DWord) : Bool :=
  match s.ctx? ctx with
  | none => false
  | some c => match s.translate chip c va { w := true, prefetch := true } with
    | .ok (pa, _) => inStack k pa
    | .error _ => false
/-- A local address of a group lies in a stash entry whose line is in a stack (R178). -/
def State.localInStack (s : State) (g : Group) (chip k : Nat) (a : Word) : Bool :=
  match if a.getLsbD 31 then none else stashAt g (field a 0 19) with
  | none => false
  | some (r, l) => match (tblGet? g.stash r).bind fun t => tblGet? t.entries l with
    | some e => inStack k (128 * e.1)
    | none => s.vaInStack g.ctx chip k (stashVa g r l)
/-- A copy writes a stack. -/
def State.copyWrites (s : State) (ctx chip k : Nat) (c : CopyCmd) : Bool :=
  match c.desc with
  | none => false
  | some d => cpyOut d.form && (List.range d.rows).any fun (j : Nat) =>
      (pagesOf (d.dst + BitVec.ofInt 64 (d.dstStride * (j : Int))) d.len).any (s.vaInStack ctx chip k)
/-- A store-queue entry writes a stack. -/
def State.entryWrites (s : State) (g : Group) (chip k : Nat) (e : SqKind) : Bool :=
  match e with
  | .store w => w.any fun p => inStack k p.1.pa
  | .copy c _ => s.copyWrites g.ctx chip k c
  | .mbarInit a _ | .mbarArr a _ | .mbarInv a => inStack k a.pa
  | .storeLocal w => w.any fun p => s.localInStack g chip k (p.1.va.setWidth 32)
  | .atomLocal _ _ l _ _ => l.any fun p => s.localInStack g chip k (p.va.setWidth 32)
  | .stashOp r op => op < 2 && (((tblGet? g.stash r).map (·.entries)).getD []).any fun e => e.2.2 && inStack k (128 * e.2.1)
  | .cache _ l => l.any fun p => inStack k p.pa
  | _ => false
/-- A plot command writes a stack. -/
def State.astWrites (s : State) (ctx chip k : Nat) (p : Plot) (r : PlotRun) : Bool :=
  match r.cmd with
  | .ast f desc =>
    let va : DWord := desc.getD 1 0 ++ desc.getD 0 0
    let stride := (desc.getD 2 0).toInt
    let size := match f with | .f32 => 4 | .bf16 => 2 | _ => 1
    r.rows.any fun i => i < 128 * 2 ^ p.logR &&
      (pagesOf (va + BitVec.ofInt 64 (stride * (i : Int))) (256 * 2 ^ p.logC * size)).any (s.vaInStack ctx chip k)
  | _ => false
/-- Step 2 of the drain is done (R246): nothing that the owner die enqueued before step 1 still writes the stack. -/
def State.drained2 (s : State) (k : Nat) (t : Stack) : Bool :=
  let chip := stackDie k t.owner
  (s.drills.all fun p => drillChip p.1 ≠ chip ||
    (match s.group? p.2.gid with
    | some g => p.2.storeQueue.all fun e => t.since ≤ e.seq || !s.entryWrites g chip k e.kind
    | none => true)) &&
  (s.groups.all fun p => coreChip (p.2.die * 128) ≠ chip ||
    ((p.2.stI.queue ++ p.2.stO.queue ++ (p.2.stI.run.map (·.cmd)).toList ++ (p.2.stO.run.map (·.cmd)).toList).all fun c =>
      t.since ≤ c.seq || !s.copyWrites p.2.ctx chip k c)) &&
  (s.plots.all fun p => 8 + p.2.die ≠ chip || (p.2.queue ++ p.2.flight).all fun r =>
    r.by_.all (fun b => t.since ≤ b.2) || !s.astWrites p.2.ctx chip k p.2 r)
/-- Step 3 (R246): the owner's L2 writes back and drops its lines of the stack, and its stash entries become INVALID. -/
def State.drainL2 (s : State) (k : Nat) (chip : Nat) : State :=
  let mine (o : Owned) := o.chip = chip
  let lines := (s.owned.filter fun p => inStack k (128 * p.1) && mine p.2).map (·.1)
  let s := lines.foldl (fun s l => let s := s.cleanLine l; { s with owned := tblErase s.owned l }) s
  { s with
    sharers := s.sharers.map fun p => (p.1, if inStack k (128 * p.1) then p.2 &&& ~~~(1#16 <<< chip) else p.2)
    groups := s.groups.map fun p => (p.1, if coreChip (p.2.die * 128) ≠ chip then p.2 else { p.2 with
      stash := p.2.stash.map fun q => (q.1, { q.2 with entries := q.2.entries.filter fun e => !inStack k (128 * e.2.1) }) }) }
/-- Step 4 (R246): the path bits of the stack are cleared in every translation cache of the owner. -/
def State.clearPath (s : State) (k chip : Nat) : State :=
  { s with tlb := tblMap s.tlb fun key (l : List TlbEntry) =>
      if tlbChip key = chip then l.map fun e => if inStack k e.pa then { e with path := false } else e else l }
/-- Region grants of a die in a stack are revoked. -/
def State.revokeIn (s : State) (k chip : Nat) : State :=
  { s with grants := s.grants.filter fun g => !(g.1 = chip && inStack k (4096 * g.2)) }

/-- HANDOVER_DRAIN_STEP (R246): steps 1 to 5, each begun when the one before is done; nothing comes from an
owner that does not answer (R366). -/
def execHandoverDrainStep (stk : Nat) (s : State) : Host.Outcome State Fault Refusal :=
  let t := s.stack stk
  let chip := stackDie stk t.owner
  let next (s : State) : State := s.setStack stk { t with step := t.step + 1 }
  if t.st ≠ .draining || !s.chipUp chip then .next s
  else match t.step with
  | 1 => .next (next s)
  | 2 => .next (if s.drained2 stk t then next s else s)
  | 3 => .next (next (s.drainL2 stk chip))
  | 4 => .next (next (s.clearPath stk chip))
  | 5 => .next (next (s.revokeIn stk chip))
  | _ => .next s
/-- HANDOVER_PORT_OPEN (R246): step 6. The port of a die that does not answer never opens (R407). -/
def execHandoverPortOpen (stk : Nat) (s : State) : Host.Outcome State Fault Refusal :=
  let t := s.stack stk
  if t.st ≠ .draining || t.step ≠ 6 || !s.chipUp (stackDie stk t.target) then .next s
  else .next (((s.setStack stk { t with owner := t.target, epoch := t.epoch + 1 }).takesMet stk t.target).stackHeld stk)
/-- STACK_ZEROING_DONE (R250): every byte of the stack is zero. -/
def execStackZeroingDone (stk : Nat) (s : State) : Host.Outcome State Fault Refusal :=
  if (s.stack stk).st ≠ .zeroing then .next s
  else .next ({ s with mem := s.mem.filter fun p => !inStack stk p.1 }.stackHeld stk)

/-- The forced move (R248) to a side whose die answers: what the lost owner held is poisoned, its grants go, and the port
opens; the partner's, or that of the neighbour that returns first where both were lost (R367). CEDEs that the hand-over
carried towards the other side are discarded. -/
def State.forcedTake (s : State) (k side : Nat) : State :=
  let t := s.stack k
  let old := stackDie k t.owner
  if t.st ≠ .forced || !s.chipUp (stackDie k side) then s
  else
    let lost := (s.owned.filter fun p => inStack k (128 * p.1) && p.2.chip = old && p.2.dirty).map (·.1)
    let s := lost.foldl (fun s l => s.poisonLine l) s
    let gone := t.carried.filter (·.side ≠ side)
    let s := (s.revokeIn k old).setStack k { t with owner := side, epoch := t.epoch + 1, carried := t.carried.filter (·.side = side) }
    let s := gone.foldl (fun s c => s.cedeDrop c 0x28 3) s
    (s.takesMet k side).stackHeld k
/-- A die next to a stack is isolated (R245, R248, R249, R407). -/
def State.stackIsolated (s : State) (k chip : Nat) : State :=
  match sideOf k chip with
  | none => s
  | some side =>
    let s := s.takesLost k side
    let t := s.stack k
    if t.st = .forced then s
    else if side = t.owner then
      (s.setStack k { t with st := .forced, zeroAfter := t.zeroAfter || t.st = .zeroing, step := 0 }).forcedTake k (1 - t.owner)
    else if t.st = .draining then
      let gone := (t.carried ++ t.queued).filter fun c => c.side = side
      let s := s.setStack k { t with carried := t.carried.filter (·.side ≠ side), queued := t.queued.filter (·.side ≠ side) }
      (gone.foldl (fun s c => s.cedeDrop c 0x28 3) s).stackHeld k
    else s
/-- A context retires: its stacks become shared and are zeroed (R245, R250). -/
def State.stackRetire (s : State) (ctx : Nat) : State :=
  (List.range 8).foldl (fun s k =>
    let t := s.stack k
    if t.holder ≠ some ctx then s
    else match t.st with
    | .held => s.stackRegrant k none false
    | .draining => s.setStack k { t with shareAfter := true }
    | .zeroing => s.setStack k { t with holder := none, cedeRight := false }
    | .forced => s.setStack k { t with holder := none, cedeRight := false, zeroAfter := true }) s

/-- STK.CEDE as its entry leaves the store queue (R254). -/
def State.cedeSend (s : State) (gid idx ctx k side : Nat) (tk1 : BitVec 4) : State :=
  let t := s.stack k
  s.setStack k { t with sent := t.sent ++ [{ side := side, drill := idx, gid := gid, ctx := ctx, tk1 := tk1 }] }
/-- STK.CEDE (R254): its slot clears one cycle after issue, its TK1 signals come with the hand-over. -/
def execStkCede (sd : BitVec 4) (c : Ctl) (s : State) : Host.Outcome State Fault Refusal :=
  issue (.stkCede sd c) s fun x s =>
    let k := field sd 0 3
    let t := s.stack k
    if !x.acts then noEffect s
    else if t.holder ≠ some x.g.ctx then .trap { code := 0x14, sub := 1 }
    else if !t.cedeRight then .trap { code := 0x14, sub := 2 }
    else match enqueue x s (.cede k (field sd 3 1) c.tk1) with
    | .ok fx => .ok { fx with attached := true
                              lands := if c.sbs = 0 then [] else [(1, { due := 0, into := .nothing, swath := 0, slot := c.sbs.toNat })] }
    | e => e
/-- STK.TAKE (R255): it is met at once where the port is open and no CEDE is queued, else when a port of its side opens. -/
def execStkTake (sd : BitVec 4) (c : Ctl) (s : State) : Host.Outcome State Fault Refusal :=
  issue (.stkTake sd c) s fun x s =>
    let k := field sd 0 3
    let side := field sd 3 1
    let t := s.stack k
    if !x.acts then noEffect s
    else if x.d.longWait = some x.i then .wait s
    else if t.holder ≠ some x.g.ctx then .trap { code := 0x14, sub := 1 }
    else if !s.chipUp (stackDie k side) then .trap { code := 0x28, sub := 2 }
    else if t.open_ && t.owner = side then noEffect (s.invalL1 (drillCore x.k))
    else .wait s
/-- STK.QRY (R256). -/
def execStkQry (d : BitVec 8) (sd : BitVec 3) (c : Ctl) (s : State) : Host.Outcome State Fault Refusal :=
  issue (.stkQry d sd c) s fun x s =>
    if !x.acts then idleOp x s else startOp x s (.stkQry sd.toNat) (x.dest 1) 0xFFFFFFFF

end Sys2Proof.Machine
end

