-- ==== Sys2Proof/Machine/Boundary.lean ====
section
/-!
DEFINITION. The events of a drill: arbitration and stalls (R69-R72), landings (R74), long waits, what is taken at a swath
boundary (R85, R86, R186, R297, R308, R408), and instruction fetch (R123, R124, R399-R401).
-/
namespace Sys2Proof.Machine

/-- The drill stands inside a swath that goes on: it waits, or it was resumed there (R71, R89). -/
def Drill.mid (d : Drill) : Bool := d.st = .waiting || d.idxInSwath ≠ 0 || d.skipTk0 || d.longWait.isSome
/-- A poisoned slot that the drill reports at this boundary (R78): in system mode, that of a load issued there. -/
def Drill.poisonDue (d : Drill) : Option (Nat × PoisonMark) := d.poison.find? fun p => !d.sysMode || p.2.system
/-- The pending A-kind trap that is taken first (R297). -/
def nextTrap (l : List PendTrap) : Option PendTrap :=
  match l.find? (·.code = 0x15) with
  | some t => some t
  | none => l.foldl (fun r t => match r with | some q => if t.code < q.code then some t else r | none => some t) none
/-- A user-level interrupt can be delivered (R186). -/
def Drill.uiDue (d : Drill) : Bool := d.uiEn && !d.uiAct && d.uiPend > 0 && d.maskStack.length < 32 && !d.sysMode
/-- The state of a drill's group. -/
def State.groupSt (s : State) (d : Drill) : GroupState := ((s.group? d.gid).map (·.st)).getD .lost
/-- OVERRUN is to be taken (R275, R308). -/
def State.overrunDue (s : State) (d : Drill) : Bool := d.pendOverrun && !d.sysMode && s.groupSt d ≠ .preempting
/-- The pre-emption trap is to be taken (R272). -/
def State.preemptDue (s : State) (d : Drill) : Bool := s.groupSt d = .preempting && !d.sysMode && d.st ≠ .done
/-- An event that R297 takes before OVERRUN. -/
def Drill.errorDue (d : Drill) : Bool := d.poisonDue.isSome || (!d.sysMode && d.pendTraps ≠ [])
/-- An event waits to be taken before the next swath. -/
def State.eventDue (s : State) (d : Drill) : Bool := d.errorDue || s.overrunDue d || s.preemptDue d || d.uiDue

/-- A drill that can win its slot (R69). -/
def State.eligible (s : State) (d : Drill) (slot : Nat) : Bool :=
  d.slot = slot && d.st = .ready && d.landed && d.word.isSome && (d.mid || !s.eventDue d)
/-- Drills of a core, by position. -/
def State.coreDrills (s : State) (c : Nat) : List (Nat × Drill) := s.drills.filter fun p => drillCore p.1 = c
/-- SWATH_ARBITRATION (R69): round-robin after the position that won last. -/
def execSwathArbitration (die core slot : Nat) (s : State) : Host.Outcome State Fault Refusal :=
  let c := coreKey die core
  let l := s.coreDrills c
  let busy := l.any fun p => p.2.slot = slot && (p.2.st = .issuing || p.2.st = .stalled)
  let ready := l.filter fun p => s.eligible p.2 slot
  let last := tblGet (s.core c).rr slot 63
  if s.held || busy then .next s
  else match (ready.find? fun p => last < drillPos p.1).or ready.head? with
  | none => .next s
  | some (k, d) =>
    .next ((s.setCore c { s.core c with rr := tblSet (s.core c).rr slot (drillPos k) }).setDrill k { d with st := .issuing, stall := none })

/-- The condition of the long wait that a drill waits in has come about (R71). -/
def State.longMet (s : State) (k : Nat) (d : Drill) : Bool :=
  match s.group? d.gid, d.longWait with
  | some g, some i =>
    let x : Issue := { k := k, d := d, g := g, i := i, act := d.cm }
    d.metWait || (match i with
    | .barAll a _ _ | .barHold a _ => barDone s k (field (srcU x a) 0 3)
    | .barCroft _ => ((tblGet? s.crofts g.croft).map (·.phase)).getD 0 ≠ tblGet g.croftT d.idx 0 && !g.croftLost
    | .barGrid _ => ((tblGet? s.launches g.launch).map (·.gridPhase)).getD 0 ≠ tblGet g.gridT d.idx 0 && !g.gridLost
    | .mbarWait _ _ _ => (match d.mbar with
      | some m => m.found.isSome
      | none => true)
    | .msyncWait _ => d.plotOut.isEmpty
    | .sysWaiti a _ => waitiDone s d (srcU64 x a)
    | _ => false)
  | _, _ => false
/-- The phase that the drill waits for in BAR.ALL is complete (R278), be what its arrivals release visible or not. -/
def State.barAllMoved (s : State) (k : Nat) (d : Drill) : Bool :=
  match s.group? d.gid, d.longWait with
  | some g, some (.barAll a b c) =>
    barMoved d g (field (srcU { k := k, d := d, g := g, i := .barAll a b c, act := d.cm } a) 0 3)
  | _, _ => false
/-- The long wait that the drill is in has been met: what the drill does next is to issue it, and that ends its swath (R71; log
47, DEDUCED). -/
def State.metNow (s : State) (k : Nat) (d : Drill) : Bool := d.longWait.isSome && (d.st = .ready || s.longMet k d || s.barAllMoved k d)
/-- The drill takes an event that arrives now (R85, R88): it is READY or WAITING, its earlier swaths have landed, its slots
are clear, no rail is in transition, and no long wait of it has been met and is still to issue. -/
def State.atBoundary (s : State) (k : Nat) (d : Drill) : Bool :=
  !s.held && (d.st = .ready || d.st = .waiting) && d.landed && d.drained && !s.metNow k d
/-- The trap of a wait whose condition can come about no more: SYNC_LOST or STACK_LOST (R249, R281). -/
def Drill.lostTrap (d : Drill) : Option PendTrap :=
  match d.longWait with
  | some (.barCroft _) | some (.barGrid _) => d.pendTraps.find? (·.code = 0x25)
  | some (.stkTake _ _) => d.pendTraps.find? (·.code = 0x28)
  | _ => none
/-- A long wait is abandoned where its trap cannot be taken yet (R249, R281; log 61, DEDUCED): the drill goes on after it, no
token is taken or sent, and the trap stays pending. -/
def State.abandonWait (s : State) (k : Nat) (d : Drill) (e : Bool) : State :=
  (s.setDrill k ((d.fetchOn d.pc).stepOn e (d.pc + 8))).advance k
/-- LONG_WAIT_MET (R71, R85): a WAITING drill becomes READY. -/
def execLongWaitMet (k : Nat) (s : State) : Host.Outcome State Fault Refusal :=
  match s.drill? k with
  | none => .next s
  | some d =>
    if d.st = .waiting && s.longMet k d then .next (s.setDrill k { d with st := .ready })
    else if d.st = .waiting && d.sysMode && d.lostTrap.isSome then .next (s.abandonWait k d true)
    else .next s
/-- The deadline of SYS.WAITI has passed (R306). -/
def State.deadlinePast (s : State) (k : Nat) (d : Drill) : Bool :=
  match s.group? d.gid, d.longWait with
  | some g, some (.sysWaiti a c) =>
    let t := srcU64 { k := k, d := d, g := g, i := .sysWaiti a c, act := d.cm } a
    t ≠ 0 && t ≤ s.gtime
  | _, _ => false
/-- WAITI_DEADLINE (R306). -/
def execWaitiDeadline (k : Nat) (s : State) : Host.Outcome State Fault Refusal :=
  match s.drill? k with
  | none => .next s
  | some d =>
    if !s.deadlinePast k d then .next s
    else if d.st = .waiting then .next (s.setDrill k { d with st := .ready })
    else if d.st = .stalled && d.stall = some .cond && !s.held then .next (s.setDrill k { d with st := .issuing, stall := none })
    else .next s

/-- What the drill stalls on is over (R70). -/
def State.stallOver (s : State) (k : Nat) (d : Drill) (w : Stall) : Bool :=
  match w with
  | .slots m => !d.unclear m
  | .tokens wp wn => (match s.group? d.gid with
    | some g =>
      let tk : BitVec 4 := BitVec.ofNat 4 (wp.toNat * 8 + wn.toNat * 4)
      tokensReady g.tok 1 tk && !tokenQueued s g d tk
    | none => false)
  | .count slot => d.count slot < 15
  | .queue => d.storeQueue.length < 64
  | .cond => s.longMet k d || d.lostTrap.isSome
  | .fetch => d.word.isSome
  | .drain => d.drained
  | .walk => true
  | .stores => d.storeQueue.isEmpty && d.acquires.isEmpty
/-- STALL_END (R70, R88): the drill goes on issuing, or takes the trap that waited for its slots. -/
def execStallEnd (k : Nat) (s : State) : Host.Outcome State Fault Refusal :=
  match s.drill? k with
  | none => .next s
  | some d => match d.stall with
    | none => .next s
    | some w =>
      if d.st ≠ .stalled || s.held || !s.stallOver k d w then .next s
      else match w, d.trap with
      | .drain, some t => .next (s.takeTrap k t (!(t.completed && d.idxInSwath = 0)) false d.idxInSwath)
      | .cond, _ => .next (if s.longMet k d then s.setDrill k { d with st := .issuing, stall := none } else s.abandonWait k d false)
      | _, _ => .next (s.setDrill k { d with st := .issuing, stall := none })
/-- RESULT_LANDING (R74): a cycle passes for a drill that does not hold its slot. The landings of a resumed swath count from the
resumed instruction (R89). -/
def execResultLanding (k : Nat) (s : State) : Host.Outcome State Fault Refusal :=
  match s.drill? k with
  | none => .next s
  | some d => if d.st = .issuing || d.st = .stalled || d.resumed then .next s else .next (s.advance k)

/-- A trap taken at a boundary (R85, R88): where the drill stands inside a swath, with its snapshot. -/
def State.boundaryTake (s : State) (k : Nat) (d : Drill) (t : TrapReq) : State :=
  s.takeTrap k { t with tkd := d.skipTk0 } d.mid true d.idxInSwath
/-- BOUNDARY_TRAP (R78, R297, R408): a poisoned slot first, then the A-kind traps in their order. -/
def execBoundaryTrap (k : Nat) (s : State) : Host.Outcome State Fault Refusal :=
  match s.drill? k with
  | none => .next s
  | some d =>
    if !s.atBoundary k d then .next s
    else match d.poisonDue, nextTrap d.pendTraps with
    | some (slot, m), _ => .next ((s.setDrill k { d with poison := tblErase d.poison slot }).boundaryTake k d (poisonTrap m))
    | none, some t =>
      if d.sysMode then .next s
      else .next ((s.setDrill k { d with pendTraps := d.pendTraps.filter (·.code ≠ t.code) }).boundaryTake k d
        { code := t.code, sub := t.sub, station := t.station })
    | none, none => .next s

/-- A park that is abandoned (R86, R312): the drill's entry is withdrawn; a SYS.SYSC is named by the snapshot again. -/
def State.endPark (s : State) (k : Nat) (d : Drill) : State :=
  match d.park with
  | some (.syscall _ self) =>
    let s := s.withdrawSys fun _ e => e.drill = some k && e.kind < 2
    (match self with
    | some (pc, swathPc, idx) => s.modDrill k fun d =>
        let d := if xiV d.xi then d else { d with xl := [], xp := [] }
        { d with xi := packXi true true idx swathPc, epc := pc, pc := pc }
    | none => s)
  | _ => s
/-- An event that ends a park: the drill goes to a vector with the snapshot it holds (R86). -/
def State.leavePark (s : State) (k : Nat) (d : Drill) (code : Nat) : State :=
  let s := (s.endPark k d).modDrill k fun d => d.record code 0 0 true 0 d.cm d.epc
  match s.group? d.gid with
  | none => s
  | some g => match s.ctx? g.ctx with
    | none => s
    | some c =>
      if code = 0x32 then s.toVector k c.savevec 1
      else
        let s := s.cancelSucc d.gid
        if c.trapvec ≠ 0 then s.toVector k c.trapvec 0
        else match s.drill? k with
          | none => s
          | some d => (s.addSys (drillChip k) (sysEntryOf k d g c.asid 1 false d.cm d.tcause (toBytes (0 : DWord) 8))).parkOn k (.syscall 1)
/-- OVERRUN (R85, R297, R308). -/
def execOverrun (k : Nat) (s : State) : Host.Outcome State Fault Refusal :=
  match s.drill? k with
  | none => .next s
  | some d =>
    let s' := s.setDrill k { d with pendOverrun := false }
    if !s.overrunDue d then .next s
    else if d.st = .parked && !s.held then .next (s'.leavePark k d 0x31)
    else if s.atBoundary k d && !d.errorDue then .next (s'.boundaryTake k d { code := 0x31 })
    else .next s
/-- PREEMPT (R85, R86, R272): the drill vectors to SAVEVEC. -/
def execPreempt (k : Nat) (s : State) : Host.Outcome State Fault Refusal :=
  match s.drill? k with
  | none => .next s
  | some d =>
    if !s.preemptDue d then .next s
    else if d.st = .parked && !s.held then .next (s.leavePark k d 0x32)
    else if s.atBoundary k d && !d.errorDue then .next (s.boundaryTake k d { code := 0x32 })
    else .next s
/-- BUDGET_EXHAUSTED (R308): every resident drill takes OVERRUN once; in a group that is PREEMPTING it is ignored (R275). -/
def execBudgetExhausted (ctx : Nat) (s : State) : Host.Outcome State Fault Refusal :=
  match s.ctx? ctx with
  | none => .next s
  | some c =>
    if c.st ≠ .active || c.budget ≠ 0 || !c.armed then .next s
    else
      let hit (d : Drill) : Bool := d.st ≠ .done && (match s.group? d.gid with
        | some g => g.ctx = ctx && (g.st = .running || g.st = .restoring)
        | none => false)
      .next { s.modCtx ctx fun c => { c with armed := false } with
        drills := tblMap s.drills fun _ (d : Drill) => if hit d then { d with pendOverrun := true } else d }

/-- Delivery of a user-level interrupt (R186); one that meets SYS.WAITI completes it (R306). -/
def State.deliver (s : State) (k : Nat) (g : Group) : State :=
  let s := s.landAll k
  match s.drill? k with
  | none => s
  | some d =>
    let waiti : Option (BitVec 4) := match d.longWait with | some (.sysWaiti _ c) => some c.tk1 | _ => none
    let word := BitVec.ofNat 32 (d.uiPend + d.uiPi.toNat * 256 + d.uiPo.toNat * 512)
    let s := s.setDrill k { d.swapBanks.putS 0 word with
      uiepc := if waiti.isSome then d.pc + 8 else d.pc
      maskStack := d.cm :: d.maskStack, cm := presentLanes g.g d.idx, uiPend := 0, uiPi := false, uiPo := false, uiAct := true
      pc := d.uivec, swathPc := d.uivec, idxInSwath := 0, swath := d.swath + 1, latches := []
      landUi := d.needLand, needLand := none, resumed := false
      st := .ready, stall := none, longWait := none, metWait := false, mbar := none, fetch := [], fetchWant := [d.uivec.toNat / 128] }
    s.complete k 0 (waiti.getD 0)
/-- USER_INTERRUPT_DELIVERY (R85, R86, R186). -/
def execUserInterruptDelivery (k : Nat) (s : State) : Host.Outcome State Fault Refusal :=
  match s.drill? k with
  | none => .next s
  | some d => match s.group? d.gid with
    | none => .next s
    | some g =>
      let place := (d.st = .waiting || (d.st = .ready && d.idxInSwath = 0)) && !d.skipTk0 && !s.metNow k d
      if s.held || !place || !d.landed || !d.uiDue || d.errorDue || s.overrunDue d || s.preemptDue d then .next s
      else .next (s.deliver k g)

/-- The buffer takes a line; it holds the two requested last (R399). -/
def Drill.hold (d : Drill) (f : FetchLine) : Drill :=
  let l := d.fetch.filter (·.line ≠ f.line) ++ [f]
  { d with fetch := l.drop (l.length - 2) }
/-- A buffer's request for a physical line (R123). -/
def State.askLine (s : State) (k line pline : Nat) : State :=
  let c := drillCore k
  let hit := tblGet? (s.core c).icache pline
  (s.requestLine c pline).modDrill k fun d => d.hold { line := line, data := hit, pline := some pline }
/-- FETCH_BUFFER_REQUEST (R123, R124): a request that fails leaves its place empty. -/
def execFetchBufferRequest (k : Nat) (s : State) : Host.Outcome State Fault Refusal :=
  match s.drill? k with
  | none => .next s
  | some d => match d.fetchWant with
    | [] => .next s
    | line :: rest =>
      let s := s.setDrill k { d with fetchWant := rest }
      let lost (s : State) : State := s.modDrill k fun d => d.hold { line := line, data := none, pline := none }
      match s.group? d.gid with
      | none => .next s
      | some g => match s.ctx? g.ctx with
        | none => .next s
        | some c => match s.translate (drillChip k) c (BitVec.ofNat 64 (128 * line)) { x := true } with
          | .error e => .next (if e.cause = 0 then s.setDrill k d else lost s)
          | .ok (pa, s) => if s.fetchable g.ctx pa then .next (s.askLine k line (pa / 128)) else .next (lost s)
/-- A line arrives at a drill's buffer. -/
def Drill.arrive (d : Drill) (pline : Nat) (data : Line) (poisoned : Bool) : Drill :=
  { d with fetch := d.fetch.map fun f =>
      if f.pline = some pline && f.data.isNone && !f.poisoned then
        (if poisoned then { f with poisoned := true } else { f with data := some data }) else f }
/-- ICACHE_FILL_DONE (R123): the line comes from the L2, or from a device; a poisoned one is not kept. -/
def execIcacheFillDone (die core line : Nat) (s : State) : Host.Outcome State Fault Refusal :=
  let c := coreKey die core
  let x := s.core c
  let pa := 128 * line
  if !x.ifills.contains line || s.gateAt (coreChip c) false pa = .hold then .next s
  else
    let bad := s.poisoned pa
    let cached := classOf pa = .cacheable
    let data : Line := if cached then s.lineAt line else ofBytes 1024 (s.deviceBytes pa 128)
    let s := if cached && !bad then s.shareLine (coreChip c) line else { s with tick := s.tick + 1 }
    let x := { x with ifills := x.ifills.filter (· ≠ line), icache := if bad then x.icache else icacheFill x.icache line data }
    .next { s.setCore c x with
      drills := tblMap s.drills fun k (d : Drill) => if drillCore k = c then d.arrive line data bad else d }
/-- The instruction that is next to issue has no line and none is on its way (R124). -/
def Drill.lineMissing (d : Drill) : Bool :=
  let l := d.pc.toNat / 128
  !d.fetchWant.contains l && (match d.fetch.find? (·.line = l) with
    | some f => f.data.isNone && (f.pline.isNone || f.poisoned)
    | none => true)
/-- The drill stands where FETCH_FAULT can be raised (R124, R401). -/
def State.fetching (s : State) (d : Drill) : Bool :=
  !s.held && (d.st = .issuing || (d.st = .stalled && d.stall = some .fetch) ||
    (d.st = .ready && d.landed && d.drained && (d.mid || !s.eventDue d)))
/-- FETCH_FAULT (R124, R135, R400): the line is requested afresh, and the fault is raised where that fails. -/
def execFetchFault (k : Nat) (s : State) : Host.Outcome State Fault Refusal :=
  match s.drill? k with
  | none => .next s
  | some d =>
    let up (s : State) (t : TrapReq) : State :=
      if d.st = .ready then s.takeTrap k { t with tkd := d.skipTk0 } true false d.idxInSwath else s.raise k { t with tkd := d.skipTk0 }
    if !s.fetching d || !d.lineMissing then .next s
    else if d.fetch.any fun f => f.line = d.pc.toNat / 128 && f.poisoned then
      .next (up (s.setDrill k { d with fetch := d.fetch.filter (·.line ≠ d.pc.toNat / 128) }) { code := 0x15, tval := d.pc })
    else match s.group? d.gid with
    | none => .next s
    | some g => match s.ctx? g.ctx with
      | none => .next s
      | some c => match s.translate (drillChip k) c d.pc { x := true } with
        | .error e => .next (if e.cause = 0 then s else up s { code := 0x11, tval := d.pc, faults := [(d.pc, e.cause, e.level, e.pin, 4)] })
        | .ok (pa, s) =>
          if !s.backed pa then .next (up s { code := 0x12, tval := d.pc })
          else if !s.grantOk g.ctx pa then .next (up s { code := 0x14, tval := d.pc })
          else .next (s.askLine k (d.pc.toNat / 128) (pa / 128))

end Sys2Proof.Machine
end

