-- ==== Sys2Proof/Machine/Fabric.lean ====
section
/-!
DEFINITION. Plots as the scheduler carves and frees them (R208-R212, R406), and the instructions of plots as they issue
(R213-R215, R218-R238).
-/
namespace Sys2Proof.Machine

/-- The key of a plot: its Acre die and number. -/
def plotKey (die num : Nat) : Nat := die * 16 + num
/-- The segments of a rectangle, 8 row + column. -/
def segsOf (logR logC row0 col0 : Nat) : List Nat :=
  (List.range (2 ^ logR)).flatMap fun i => (List.range (2 ^ logC)).map fun j => 8 * (row0 + i) + (col0 + j)
/-- The segments of a plot. -/
def Plot.segs (p : Plot) : List Nat := segsOf p.logR p.logC p.row0 p.col0
/-- Rows and columns of a plot's result (R205). -/
def Plot.rows (p : Plot) : Nat := 128 * 2 ^ p.logR
def Plot.cols (p : Plot) : Nat := 256 * 2 ^ p.logC
/-- Nothing is queued, in flight or posted. -/
def Plot.quiet (p : Plot) : Bool := p.queue.isEmpty && p.flight.isEmpty && p.posted.isEmpty
/-- The plot has executed its queue, or it waits for an AST that a fault has stopped (R239). -/
def Plot.rested (p : Plot) : Bool :=
  p.posted.isEmpty && ((p.queue.isEmpty && p.flight.isEmpty) ||
    (p.flight.any (·.fault.isSome) && p.flight.all fun r => r.finished || r.fault.isSome))
/-- A plot whose storage and flags are zero (R212). -/
def Plot.zeroed (p : Plot) : Plot := { p with store := {}, nv := false, of := false, uf := false, nx := false, poisoned := false }
/-- A plot's record. -/
def State.plot? (s : State) (key : Nat) : Option Plot := tblGet? s.plots key
/-- Changes a plot's record. -/
def State.setPlot (s : State) (key : Nat) (p : Plot) : State := { s with plots := tblSet s.plots key p }

/-- A rectangle that R208 allows: aligned, its segments enabled and in no plot. -/
def State.placeOk (s : State) (die logR logC row0 col0 : Nat) : Bool :=
  logR ≤ 2 && logC ≤ 2 && row0 % 2 ^ logR = 0 && col0 % 2 ^ logC = 0 && row0 < 8 && col0 < 8 &&
  (segsOf logR logC row0 col0).all fun g =>
    (tblGet s.tables (8 + die) 0).getLsbD (64 + g) && s.plots.all fun p => p.2.die ≠ die || !p.2.segs.contains g
/-- The last plot uncarved over a segment. -/
def State.lastOver (s : State) (die g : Nat) : Option OldPlot :=
  s.oldPlots.find? fun o => o.die = die && (segsOf o.logR o.logC o.row0 o.col0).contains g
/-- What the storage of a new plot holds (R209), and the state after a free choice: of a segment that another context held last,
zero; else, where the plot is not the one last uncarved there, unspecified. -/
def State.newStore (s : State) (die logR logC row0 col0 ctx : Nat) : PlotStore × State :=
  let segs := segsOf logR logC row0 col0
  let overlaps (o : OldPlot) : Bool := o.die = die && (segsOf o.logR o.logC o.row0 o.col0).any segs.contains
  let same (o : OldPlot) : Bool := o.intact && o.ctx = ctx && o.logR = logR && o.logC = logC && o.row0 = row0 && o.col0 = col0
  match s.oldPlots.find? overlaps with
  | none => ({}, s)
  | some o =>
    if same o then (o.store, s)
    else
      let held (g : Nat) : Bool := (s.lastOver die g).map (·.ctx) = some ctx
      let mine := s.oldPlots.filter fun o => o.ctx = ctx && segs.any fun g => s.lastOver die g = some o
      let fills := mine.filterMap (·.store.fill)
      let zero (i j : Nat) : Bool := !held (8 * (row0 + i) + (col0 + j))
      let rows := List.range (2 ^ logR)
      let cols := List.range (2 ^ logC)
      let (t, s) := s.free
      ({ fill := some
          { tick := t
            lines := mine.flatMap (fun o => o.store.lines.map (·.2)) ++ fills.flatMap (·.lines)
            sides := mine.flatMap (fun o => o.store.sides.map (·.2)) ++ fills.flatMap (·.sides)
            accs := mine.flatMap (fun o => o.store.acc.map (·.2)) ++ fills.flatMap (·.accs)
            zeroRows := rows.filter fun i => cols.all (zero i)
            zeroCols := cols.filter fun j => rows.all fun i => zero i j
            zeroSegs := rows.flatMap fun i => (cols.filter (zero i)).map fun j => (i, j) } }, s)
/-- A carve (R209). -/
def State.carve (s : State) (die num logR logC row0 col0 ctx : Nat) : State :=
  let (store, s) := s.newStore die logR logC row0 col0 ctx
  let segs := segsOf logR logC row0 col0
  let s := s.setPlot (plotKey die num)
    { die := die, num := num, logR := logR, logC := logC, row0 := row0, col0 := col0, ctx := ctx, store := store }
  { s with oldPlots := s.oldPlots.map fun o =>
      if o.die = die && (segsOf o.logR o.logC o.row0 o.col0).any segs.contains then { o with intact := false } else o }

/-- Plot commands of drills complete; where they are dropped, an ARD's slot clears and nothing lands (R212, R231). -/
def State.plotDone (s : State) (gid : Nat) (by_ : List (Nat × Nat)) (drop : Bool) : State :=
  match s.group? gid with
  | none => s
  | some g => by_.foldl (fun s b => match s.drillOf gid g b.1 with
      | some (k, _) => s.modDrill k fun d => { d with
          plotOut := d.plotOut.filter (· ≠ b.2)
          ops := if drop then d.ops.map fun o => if o.seq = b.2 then { o with kind := .idle, into := .nothing, latch := none, nf := true } else o
                 else d.ops }
      | none => s) s
/-- The commands of a plot are discarded, in the queue and, where `flight`, in flight (R212); where not, an ARD in flight waits for
its drill no more. The fault record of an AST stays until it is answered (R355). -/
def State.discardRuns (s : State) (key : Nat) (flight : Bool) : State :=
  match s.plot? key with
  | none => s
  | some p =>
    let gone : List PlotRun := p.queue ++ (if flight then p.flight else [])
    let left := p.flight.map fun (r : PlotRun) => match r.cmd with | .ard .. => { r with finished := true } | _ => r
    let s := s.setPlot key { p with queue := [], flight := if flight then [] else left, posted := if flight then [] else p.posted }
    match p.gid with
    | some gid => gone.foldl (fun (s : State) (r : PlotRun) => s.plotDone gid r.by_ true) s
    | none => s
/-- An execution error (R212): the plot stops; while DRAINING it is CARVED and zeroed. -/
def State.plotStop (s : State) (key : Nat) : State :=
  let s := s.discardRuns key true
  match s.plot? key with
  | none => s
  | some p =>
    if p.st = .draining then s.setPlot key { p.zeroed with st := .carved, gid := none }
    else s.setPlot key { p with st := .faulted }
/-- PLOT_ERROR (R218): every drill of the group takes it, unless the plot was DRAINING. -/
def State.plotError (s : State) (key cause : Nat) : State :=
  match s.plot? key with
  | none => s
  | some p =>
    let s := s.plotStop key
    if p.st = .draining then s else match p.gid with
    | some gid => s.trapGroup gid 0x20 cause 0
    | none => s
/-- The queue is empty and nothing is in flight (R212). -/
def State.plotIdle (s : State) (key : Nat) : State :=
  match s.plot? key with
  | none => s
  | some p =>
    if !p.quiet then s
    else if p.st = .running then s.setPlot key { p with st := .reserved }
    else if p.st = .draining then s.setPlot key { p with st := .carved, gid := none }
    else s
/-- A group loses its reservation (R212). -/
def State.plotLost (s : State) (gid : Nat) : State :=
  (s.modGroup gid fun g => { g with plot := none }).trapGroup gid 0x21 0 0
/-- An uncarve (R209, R212): the number becomes FREE, and what the storage held is recorded. -/
def State.uncarve (s : State) (key : Nat) : State :=
  let s := s.discardRuns key true
  match s.plot? key with
  | none => s
  | some p =>
    let old : OldPlot := { die := p.die, logR := p.logR, logC := p.logC, row0 := p.row0, col0 := p.col0, ctx := p.ctx, num := p.num, store := p.store }
    let s := { s with plots := tblErase s.plots key, oldPlots := old :: s.oldPlots }
    match p.gid with
    | some gid => if p.st = .draining then s else s.plotLost gid
    | none => s
/-- PLOT.REL (R212, R221). -/
def State.plotRelease (s : State) (gid : Nat) : State :=
  match s.group? gid with
  | none => s
  | some g => match g.plot with
    | none => s
    | some key =>
      let s := s.setGroup gid { g with plot := none }
      match s.plot? key with
      | none => s
      | some p => match p.st with
        | .running => s.setPlot key { p with st := .draining }
        | .faulted => s.setPlot key { p.zeroed with st := .carved, gid := none }
        | _ => s.setPlot key { p with st := .carved, gid := none }
/-- The side link of a plot falls fallow, or the group's Sower die is isolated (R212). -/
def State.plotCut (s : State) (key : Nat) : State :=
  match s.plot? key with
  | none => s
  | some p =>
    match p.gid with
    | none => s
    | some gid =>
      let s := if p.st = PlotState.draining then s else s.plotLost gid
      match p.st with
      | .reserved | .running =>
        let s := s.setPlot key { p with st := PlotState.draining }
        (s.discardRuns key false).plotIdle key
      | .faulted => s.setPlot key { p.zeroed with st := .carved, gid := none }
      | _ => s
/-- The plot's Acre die is isolated: CARVED and zeroed, and its reservation is gone (R212). -/
def State.plotWiped (s : State) (key : Nat) : State :=
  let s := s.discardRuns key true
  match s.plot? key with
  | none => s
  | some p =>
    let s := match p.gid with
      | some gid => if p.st = PlotState.draining then s else s.plotLost gid
      | none => s
    s.setPlot key { p.zeroed with st := .carved, gid := none, claimed := [] }

/-- The Acre dies that neighbour a Sower die, west and east (R220), and the side links to them (R359). -/
def plotSides (die : Nat) : List (Nat × Nat) := [((die + 3) % 4, 16 + (2 * die + 7) % 8), (die, 16 + 2 * die)]
/-- The plot that R406 provides for a group of a context on a Sower die: one that is carved already, or room for a new
one. -/
inductive Provide where
  | old (key : Nat) | new (die num row0 col0 : Nat)
deriving DecidableEq, Repr
/-- What R406 chooses. -/
def State.provide (s : State) (die ctx logR logC : Nat) : Option Provide :=
  let dies := ((plotSides die).map (·.1)).filter fun d => s.chipUp (8 + d)
  let fits (d : Nat) : Option Provide := (s.plots.find? fun p => p.2.die = d && p.2.st = PlotState.carved && p.2.ctx = ctx && p.2.logR = logR &&
    p.2.logC = logC && !p.2.aside).map fun p => .old p.1
  let places := (List.range 8).flatMap fun r => (List.range 8).map fun c => (r, c)
  let room (d : Nat) : Option Provide :=
    match (List.range 16).find? fun n => (s.plot? (plotKey d n)).isNone, places.find? fun q => s.placeOk d logR logC q.1 q.2 with
    | some n, some (r, c) => some (.new d n r c)
    | _, _ => none
  (dies.findSome? fits).or (dies.findSome? room)
/-- Sets a plot aside for a group being placed, or carves it (R406). -/
def State.setAside (s : State) (ctx logR logC : Nat) (p : Provide) : State :=
  match p with
  | .old key => { s with plots := tblMod s.plots key fun p => { p with aside := true } }
  | .new die num row0 col0 =>
    let s := s.carve die num logR logC row0 col0 ctx
    { s with plots := tblMod s.plots (plotKey die num) fun p => { p with aside := true } }

/-- The word of an instruction without E, the guard, DST and the scoreboard and latch fields (R215). -/
def signature (i : Instr) : BitVec 64 :=
  let f := encodeFields i
  packFields { f with e := false, gn := false, gp := 0, dst := 0, nw := false, ld := 0, sbs := 0, lo := f.lo &&& 0x3FFFFF }
/-- An instruction of plots that takes a store-queue entry (R214). It needs a reservation, but for PLOT.RSV (R218). -/
def plotEntry (x : Issue) (s : State) (needs collective : Bool) (cmd : PlotCmd) (vals : List Word) (op : Option (VarKind × LandTo)) : Eff :=
  if needs && x.g.plot.isNone then .trap { code := 0x1C }
  else
    let (seq, s) := s.stamp
    let m := x.i.shape.command
    let copy : PlotCopy :=
      { cmd := match cmd with | .ard _ c b k l => .ard seq c b k l | c => c
        collective := collective, drill := x.d.idx, seq := seq, cm := x.d.cm, nf := x.i.ctl.nf
        sig := signature x.i, vals := vals, tk0 := if m then x.i.ctl.tk0 else 0, tk1 := if m then x.i.ctl.tk1 else 0 }
    let ops (d : Drill) : List VarOp := match op with
      | some (kind, into) => d.ops ++ [{ x.varOp seq kind into (if collective then 0xFFFFFFFF else x.act) with tk1 := if m then 0 else x.i.ctl.tk1 }]
      | none => d.ops
    .ok { s := s.modDrill x.k fun d => { d with
            storeQueue := d.storeQueue ++ [{ seq := seq, kind := .plot copy, pc := x.d.pc }]
            plotOut := d.plotOut ++ [seq], ops := ops d }
          attached := op.isSome }
/-- PLOT_DESC for an operand word that is out of its layout (R218), after PLOT_STATE. -/
def plotWord (x : Issue) (bad : Bool) (e : Eff) : Eff :=
  if x.g.plot.isNone then .trap { code := 0x1C } else if bad then .trap { code := 0x1D } else e

/-- PLOT.RSV (R220). -/
def execPlotRsv (d : BitVec 8) (a : Src) (c : Ctl) (s : State) : Host.Outcome State Fault Refusal :=
  issue (.plotRsv d a c) s fun x s =>
    let w := srcU x a
    if w &&& 0xFFFFFEE0 ≠ 0 then .trap { code := 0x1D }
    else plotEntry x s false true (.rsv w) [w] (some (.plotRsv none, x.dest 1))
/-- PLOT.REL (R221). -/
def execPlotRel (c : Ctl) (s : State) : Host.Outcome State Fault Refusal :=
  issue (.plotRel c) s fun x s => plotEntry x s true true .rel [] none
/-- PLOT.QRY (R222): the word is read when the operation completes. With CM empty its register keeps its value (R133). -/
def execPlotQry (d : BitVec 8) (which : BitVec 2) (c : Ctl) (s : State) : Host.Outcome State Fault Refusal :=
  issue (.plotQry d which c) s fun x s => startOp x s (.plotQry which.toNat) (x.dest 1) (x.wmask true)
/-- PLOT.CARVE of a new plot (R223); the right is that of the context named. -/
def execPlotCarve (a : Src) (c : Ctl) (s : State) : Host.Outcome State Fault Refusal :=
  issue (.plotCarve a c) s fun x s =>
    let w := srcU x a
    let ctx := field w 20 12
    let die := field w 18 2
    let num := field w 14 4
    let right := match s.ctx? ctx with | some cx => cx.carve | none => false
    if (s.plot? (plotKey die num)).isSome || !s.placeOk die (field w 12 2) (field w 10 2) (field w 7 3) (field w 4 3) || !right ||
        field w 0 4 ≠ 0 then .trap { code := 0x1C }
    else noEffect (s.carve die num (field w 12 2) (field w 10 2) (field w 7 3) (field w 4 3) ctx)
/-- PLOT.CARVE as an uncarve (R223). -/
def execPlotUncarve (a : Src) (c : Ctl) (s : State) : Host.Outcome State Fault Refusal :=
  issue (.plotUncarve a c) s fun x s =>
    let key := plotKey (field (srcU x a) 18 2) (field (srcU x a) 14 4)
    if (s.plot? key).isNone then .trap { code := 0x1C } else noEffect (s.uncarve key)
/-- PLOT.MERGE (R219, R224). -/
def execPlotMerge (a : Src) (c : Ctl) (s : State) : Host.Outcome State Fault Refusal :=
  issue (.plotMerge a c) s fun x s =>
    let w := srcU x a
    plotWord x (w &&& 0xFFFFFFF0 ≠ 0) (plotEntry x s true true (.merge (field w 0 4)) [w] none)
/-- PLOT.SPLIT (R219, R224). -/
def execPlotSplit (a : Src) (c : Ctl) (s : State) : Host.Outcome State Fault Refusal :=
  issue (.plotSplit a c) s fun x s =>
    let w := srcU x a
    plotWord x (w &&& 0xFFFFFFE0 ≠ 0) (plotEntry x s true true (.split (field w 4 1) (field w 0 4)) [w] none)

/-- BED.CLAIM (R226). -/
def execBedClaim (sl : BitVec 5) (cnt : BitVec 4) (c : Ctl) (s : State) : Host.Outcome State Fault Refusal :=
  issue (.bedClaim sl cnt c) s fun x s => plotEntry x s true true (.bedClaim (field sl 4 1) (field sl 0 4) (cnt.toNat + 1)) [] none
/-- BED.REL (R226). -/
def execBedRel (sl : BitVec 5) (cnt : BitVec 4) (c : Ctl) (s : State) : Host.Outcome State Fault Refusal :=
  issue (.bedRel sl cnt c) s fun x s => plotEntry x s true true (.bedRel (field sl 4 1) (field sl 0 4) (cnt.toNat + 1)) [] none
/-- BED.ZERO (R226). -/
def execBedZero (sl : BitVec 5) (cnt : BitVec 4) (c : Ctl) (s : State) : Host.Outcome State Fault Refusal :=
  issue (.bedZero sl cnt c) s fun x s => plotEntry x s true true (.bedZero (field sl 4 1) (field sl 0 4) (cnt.toNat + 1)) [] none
/-- BED.SCL (R226). -/
def execBedScl (sl : BitVec 5) (b : Src) (c : Ctl) (s : State) : Host.Outcome State Fault Refusal :=
  issue (.bedScl sl b c) s fun x s => plotEntry x s true true (.bedScl (field sl 4 1) (field sl 0 4) (srcU x b)) [srcU x b] none
/-- The active lanes that are no helper lanes, with their index in the group. -/
def groupLanes (x : Issue) : List (Nat × Nat) := (maskLanes x.counting).map fun i => (i, 32 * x.d.idx + i)
/-- BED.LDV (R227). -/
def execBedLdv (a b : Src) (c : Ctl) (s : State) : Host.Outcome State Fault Refusal :=
  issue (.bedLdv a b c) s fun x s =>
    let w := srcU x b
    let sb := w.getLsbD 31
    plotWord x (w &&& 0x7E0003C0 ≠ 0 || (sb && field w 0 6 ≠ 0))
      (plotEntry x s true false (.bedLdv sb (field w 24 1) (field w 20 4) (field w 10 10) (field w 0 6) (lanesOf fun i => src32 x a i) (groupLanes x)) [w] none)

/-- MMA (R229): the MX forms read EA and EB. -/
def execMma (f : MmaFn) (ovr : Bool) (slots : BitVec 9) (b : Src) (c : Ctl) (s : State) : Host.Outcome State Fault Refusal :=
  issue (.mma f ovr slots b c) s fun x s =>
    let w := if f.isMx then srcU x b else 0
    plotEntry x s true true (.mma f ovr (field slots 8 1) (field slots 4 4) (field slots 0 4) (signedField (field w 0 8) 8) (signedField (field w 8 8) 8))
      (if f.isMx then [w] else []) none

/-- MSYNC.OPF (R231). -/
def execMsyncOpf (c : Ctl) (s : State) : Host.Outcome State Fault Refusal :=
  issue (.msyncOpf c) s fun x s => plotEntry x s true false .opf [] none
/-- MSYNC.WAIT (R198, R231): a command completes after every command that stands before it in the plot's queue (R216), so that
nothing of the group before the drill's own last command is left. -/
def execMsyncWait (c : Ctl) (s : State) : Host.Outcome State Fault Refusal :=
  issue (.msyncWait c) s fun x s => if x.d.plotOut.isEmpty then noEffect (s.invalL1 (drillCore x.k)) else .wait s
/-- MSYNC.DRAIN (R231). -/
def execMsyncDrain (c : Ctl) (s : State) : Host.Outcome State Fault Refusal :=
  issue (.msyncDrain c) s fun x s => plotEntry x s true true .drain [] none

/-- Reserved bits of an accumulator word, or columns beyond the plot (R232). -/
def badAcc (x : Issue) (s : State) (w : Word) (cols : Nat) : Bool :=
  w &&& 0xFFFEFC00 ≠ 0 || (match s.plotOf x.g with | some p => field w 0 10 + cols > p.cols | none => false)
/-- ARD (R232, R233). -/
def execArd (f : ArdFn) (bf : Bool) (d : BitVec 8) (b : Src) (c : Ctl) (s : State) : Host.Outcome State Fault Refusal :=
  issue (.ard f bf d b c) s fun x s =>
    let w := srcU x b
    let m := f.columns
    plotWord x (badAcc x s w m || field w 0 10 % m ≠ 0)
      (plotEntry x s true false (.ard 0 m bf (field w 16 1) (field w 0 10)) [w] (some (.ard m bf c.nf none, x.dest (ardRegs f bf))))
/-- AWR (R232, R234). -/
def execAwr (a b : Src) (c : Ctl) (s : State) : Host.Outcome State Fault Refusal :=
  issue (.awr a b c) s fun x s =>
    let w := srcU x b
    plotWord x (badAcc x s w 1)
      (plotEntry x s true false (.awr (field w 16 1) (field w 0 10) (lanesOf fun i => src32 x a i) (groupLanes x)) [w] none)
/-- The descriptor of AST (R235). -/
def astDescOk (f : AstFn) (w : List Word) : Bool :=
  let r (j : Nat) : Word := w.getD j 0
  field (r 0) 0 7 = 0 && field (r 2) 0 7 = 0 && r 3 &&& 0xFFFEFF00 = 0 && r 7 = 0 &&
  (if f = .mx8 then field (r 4) 0 2 = 0 && field (r 6) 0 2 = 0 else r 3 &&& 0xFF = 0 && r 4 = 0 && r 5 = 0 && r 6 = 0)
/-- AST (R235). -/
def execAst (f : AstFn) (a : Src) (c : Ctl) (s : State) : Host.Outcome State Fault Refusal :=
  issue (.ast f a c) s fun x s =>
    let w := srcWindow x a
    plotWord x (!astDescOk f w) (plotEntry x s true true (.ast f w) w none)
/-- AZR (R238). -/
def execAzr (bank : Bool) (c : Ctl) (s : State) : Host.Outcome State Fault Refusal :=
  issue (.azr bank c) s fun x s => plotEntry x s true true (.azr bank.toNat) [] none

end Sys2Proof.Machine
end

