-- ==== Sys2Proof/Machine/Contexts.lean ====
section
/-!
DEFINITION. Contexts as Headland builds, kills and frees them (R286-R291, R308, R317), the ends of launches (R322), and the
instructions of harts (R257, R291, R311, R326-R328, R357).
-/
namespace Sys2Proof.Machine

/-- A launch ends: its set mask is applied (R322), unless groups of it were discarded, and its records go. -/
def State.endLaunch (s : State) (n : Nat) (apply : Bool) : State :=
  match tblGet? s.launches n with
  | none => s
  | some l =>
    let s := { s with
      launches := tblErase s.launches n
      crofts := s.crofts.filter fun p => p.2.launch ≠ n
      groups := s.groups.filter fun p => p.2.launch ≠ n }
    if apply then (List.range 4).foldl (fun s w => s.setEvents l.ctx w (l.setMask.getD w 0) true) s else s
/-- A launch of which a group or its task has ended is looked at (R317, R322). -/
def State.launchStep (s : State) (n : Nat) : State :=
  match tblGet? s.launches n with
  | none => s
  | some l =>
    if l.exited = l.total then s.endLaunch n !l.cut
    else if l.cut && l.taskAt.isNone && s.groups.all (fun p => p.2.launch ≠ n || !p.2.alive) then s.endLaunch n false
    else s
/-- A queue enters DRAINING (R317): launches with no started group are discarded, the others lose their unstarted groups. -/
def State.drainQueue (s : State) (n : Nat) : State :=
  let q := s.queue n
  let s := s.setQueue n { q with st := .draining, entries := [], ready := false }
  let s := if q.entries ≠ [] && q.wmark = 0 then s.queueMsi q else s
  let mine := s.launches.filter fun p => p.2.queue = n
  mine.foldl (fun s p =>
    if p.2.next = p.2.total && p.2.returned.isEmpty && !p.2.rebuild then s
    else
      State.launchStep { s with launches := tblMod s.launches p.1 fun (l : Launch) => { l with cut := true, returned := [], rebuild := false } } p.1) s

/-- A context enters a state; SUSPENDED, FAULTED and RETIRED send the MSI of CTXMSI (R290). -/
def State.ctxEnter (s : State) (n : Nat) (st : CtxState) : State :=
  let s := s.modCtx n fun c => { c with st := st }
  match st with
  | .suspended | .faulted | .retired => s.ctxMsi
  | _ => s
/-- The queues of a context that enters DRAINING or RETIRED (R317). -/
def State.drainQueues (s : State) (ctx : Nat) : State :=
  (s.queues.filter fun p => p.2.ctx = ctx && (p.2.st = .opened || p.2.st = .paused || p.2.st = .error)).foldl (fun s p => s.drainQueue p.1) s
/-- A KILL (R289, R290): groups are lost or discarded, plots uncarved, entries withdrawn, queues drained. -/
def State.killCtx (s : State) (n : Nat) : State :=
  match s.ctx? n with
  | none => s
  | some c => match c.st with
    | .built => ((s.ctxEnter n .retired).drainQueues n).stackRetire n
    | .active | .preempting | .suspended | .faulted =>
      let s := s.ctxEnter n .draining
      let s := (s.groups.filter fun p => p.2.ctx = n).foldl (fun s p => s.loseGroup p.1) s
      let s := (s.plots.filter fun p => p.2.ctx = n).foldl (fun s p => s.uncarve p.1) s
      let s := { s with
        faultRecs := tblMap s.faultRecs fun _ t => t.filter fun r => r.2.ctx ≠ n
        launches := tblMap s.launches fun _ (l : Launch) => if l.ctx = n then { l with cut := true, returned := [], taskAt := none, rebuild := false } else l }
      ((s.withdrawSys fun _ e => e.ctx = n).drainQueues n)
    | _ => s
/-- The DRAINING context has cleared everything (R289): it is RETIRED, and a queue opened since drains (R317). -/
def State.retireCtx (s : State) (n : Nat) : State :=
  let s := { s with
    launches := s.launches.filter fun p => p.2.ctx ≠ n
    crofts := s.crofts.filter fun p => match tblGet? s.launches p.2.launch with | some l => l.ctx ≠ n | none => true
    groups := s.groups.filter fun p => p.2.ctx ≠ n }
  ((s.ctxEnter n .retired).drainQueues n).stackRetire n
/-- CONTEXT_RETIRE (R289). -/
def execContextRetire (ctx : Nat) (s : State) : Host.Outcome State Fault Refusal :=
  match s.ctx? ctx with
  | some c => if c.st = .draining && (s.groups.all fun p => p.2.ctx ≠ ctx || !p.2.alive) then .next (s.retireCtx ctx) else .next s
  | none => .next s
/-- PREEMPTING contexts whose groups are all SAVED or ended, and whose plots have drained, are SUSPENDED (R289). -/
def State.suspend (s : State) : State :=
  let ready (n : Nat) (c : Context) : Bool :=
    c.st = .preempting && (s.groups.all fun p => p.2.ctx ≠ n || p.2.st = .saved || !p.2.alive) && s.plots.all fun p => p.2.ctx ≠ n || p.2.quiet
  (s.ctxs.filter fun p => ready p.1 p.2).foldl (fun s p => s.ctxEnter p.1 .suspended) s

/-- How a hart's read of bytes ends. -/
inductive HartLoad where
  | bytes (bs : List Byte) (pa : Nat) | fault (cause : Nat) (va : DWord) (gpa : DWord) | held
/-- The address that a load or store of a hart uses where pointer masking is on for its mode (PMM of senvcfg and henvcfg, 7 bits; log 13,
PRESUMED): the top bits repeat the one below them, or are 0 where addresses are not translated. MXR turns it off. -/
def Hart.pointer (h : Hart) (va : DWord) : DWord :=
  let guest := h.mode = .vs || h.mode = .vu
  let on := match h.mode with | .u | .vu => h.csrBit 0x10A 33 | .vs => h.csrBit 0x60A 33 | .m | .hs => false
  let low : BitVec 57 := va.setWidth 57
  if !on || h.csrBit 0x300 19 || (guest && h.csrBit 0x200 19) then va
  else if field (if guest then h.vsatp else h.satp) 60 4 = 0 then low.setWidth 64 else low.signExtend 64
/-- The physical addresses of n bytes of a hart's access, or what stops it and where; an address that answers no access is an access
fault (R17). -/
def State.hartPas (s : State) (h : Hart) (acc : HartAcc) (va : DWord) (n : Nat) : Except (HartMiss × DWord) (List Nat) :=
  (List.range n).mapM fun j =>
    let a := (if acc = .load || acc = .store then h.pointer va else va) + BitVec.ofNat 64 j
    match hartXlate s h acc a with
    | .error e => .error (e, a)
    | .ok pa => if s.backed pa then .ok pa else .error (.fault acc.access 0, a)
/-- A hart reads n bytes as a load; the physical address is that of the first (R201, R311, R327). Poison, and a remote window whose
port is not up, are access faults (R370; log 12, PRESUMED). -/
def State.hartLoadAs (s : State) (h : Hart) (acc : HartAcc) (va : DWord) (n : Nat) : HartLoad :=
  match s.hartPas h acc va n with
  | .error (.held, _) => .held
  | .error (.fault c g, a) => .fault c a g
  | .ok pas =>
    let mem (pa : Nat) : Bool := classOf pa = .cacheable
    if pas.any fun pa => mem pa && s.gate pa = .hold then .held
    else if pas.any fun pa => (mem pa && s.poisoned pa) || (classOf pa = .remote && !(s.remotePort pa).any s.linkUp) then .fault 5 va 0
    else .bytes (pas.map fun pa => if mem pa then s.byteAt pa else (s.deviceBytes pa 1).headD 0) (pas.headD 0)
/-- The hart as its loads and stores see it: MPRV gives M-mode the mode that MPP and MPV name. -/
def Hart.dataMode (h : Hart) : Hart := if h.mode = .m && h.csrBit 0x300 17 then { h with mode := modeNamed h.mpp.toNat h.mpv } else h
/-- A load of a hart in its own mode. -/
def State.hartLoad (s : State) (h : Hart) (va : DWord) (n : Nat) : HartLoad := s.hartLoadAs h.dataMode .load va n
/-- Two bytes that a hart fetches, or what stops it. -/
def State.fetch2 (s : State) (h : Hart) (pc : DWord) : Except HartMiss (BitVec 16) :=
  match hartXlate s h .fetch pc with
  | .error e => .error e
  | .ok a =>
    if !s.backed a || classOf a = .remote then .error (.fault 1 0)
    else if classOf a = .cacheable && s.gate a = .hold then .error .held
    else if classOf a = .cacheable && s.poisoned a then .error (.fault 1 0)
    else .ok (ofBytes 16 (if classOf a = .cacheable then s.bytesAt a 2 else s.deviceBytes a 2))
/-- The instruction at a hart's pc, a compressed one in the low half, or what its fetch meets and where. -/
def State.hartWord (s : State) (h : Hart) : Except (HartMiss × DWord) (BitVec 32) :=
  match s.fetch2 h h.pc with
  | .error e => .error (e, h.pc)
  | .ok lo =>
    if lo &&& 3 ≠ 3 then .ok (lo.setWidth 32)
    else match s.fetch2 h (h.pc + 2) with
      | .error e => .error (e, h.pc + 2)
      | .ok hi => .ok (hi ++ lo)

/-- The value of an illegal-instruction or virtual-instruction exception: the instruction's word (log 12, PRESUMED). -/
def State.wordValue (s : State) (h : Hart) : DWord := match s.hartWord h with | .ok w => w.setWidth 64 | .error _ => 0

/-- What the body of a hart's instruction answers: rd's value and the state, an exception, or a wait. -/
inductive HartEff where
  | done (v : DWord) (s : State) | trap (cause : Nat) (tval : DWord) (gpa : DWord := 0) | wait
/-- What every hart instruction goes through: the hart whose turn it is executes it. -/
def hartRun (s : State) (rd : BitVec 5) (body : Nat → Hart → HartEff) : Host.Outcome State Fault Refusal :=
  match s.cur with
  | some (.hart n) =>
    let h := s.hart n
    match body n h with
    | .done v s' => .next (s'.setHart n { (s'.hart n).putX rd v with pc := h.pc + 4 })
    | .trap cause tval gpa => .next (s.setHart n (h.trap cause tval gpa))
    | .wait => .next s
  | _ => .fault .noHart
/-- A form of M and HS mode (R257): the illegal-instruction exception in U, the virtual-instruction exception in VS and VU. -/
def hartPriv (s : State) (rd : BitVec 5) (body : Nat → Hart → HartEff) : Host.Outcome State Fault Refusal :=
  hartRun s rd fun n h => match h.mode with
    | .m | .hs => body n h
    | .u => .trap 2 (s.wordValue h)
    | .vs | .vu => .trap 22 (s.wordValue h)

/-- svl.stkgrant (R257, R245, R250). -/
def execSvlStkgrant (rd rs1 rs2 : BitVec 5) (s : State) : Host.Outcome State Fault Refusal :=
  hartPriv s rd fun _ h =>
    let a := h.xAt rs1
    let b := h.xAt rs2
    let k := field a 0 3
    let right := a.getLsbD 3
    let shared := b.getLsbD 63
    let ctx := field b 0 12
    let t := s.stack k
    let holder := if shared then none else some ctx
    let gone := !shared && (match s.ctx? ctx with | some c => c.st = .retired | none => true)
    if field a 4 60 ≠ 0 || field b 12 51 ≠ 0 || (shared && ctx ≠ 0) then .done 3 s
    else if gone then .done 2 s
    else if holder = t.holder then .done 0 (s.setStack k { t with cedeRight := right && !shared })
    else if !t.open_ then .done 1 s
    else .done 0 (s.stackRegrant k holder right)

/-- A descriptor from its 256 bytes (R286): `none` on a breach of a limit. -/
def ctxIn (bs : List Byte) : Option Context :=
  let n := numIn bs
  let d (a : Nat) : DWord := BitVec.ofNat 64 (n a 8)
  let ok :=
    n 0 2 < 8 && n 4 4 < 2 && n 8 8 ≠ 0 && n 8 8 % 8 = 0 && n 16 8 ≠ 0 && n 16 8 % 8 = 0 && n 24 8 % 8 = 0 && n 32 8 % 2048 = 0 &&
    n 40 4 % 2048 = 0 && n 44 4 % 128 = 0 && 2048 + 32 * n 44 4 ≤ n 40 4 && 1 ≤ n 48 4 && n 48 4 ≤ 65536 && n 52 4 = 0 &&
    field (d 64) 60 4 = 10 && (bs.drop 72).all (· = 0)
  if ok then some
    { asid := BitVec.ofNat 16 (n 2 2), prio := n 0 2, carve := n 4 4 = 1, savevec := d 8, restvec := d 16, trapvec := d 24
      saveBase := d 32, garea := n 40 4, darea := n 44 4, slots := n 48 4, budget := n 56 8, satp := d 64 }
  else none
/-- Headland's read of bytes at a physical address waits for a stack that is changing hands (R243, R250). -/
def State.physHeld (s : State) (pa n : Nat) : Bool := s.backed pa && classOf pa = .cacheable && (linesOf pa n).any fun l => s.gate (128 * l) = .hold
/-- Headland reads bytes at a physical address for a hart: `none` where it is unbacked or poisoned. -/
def State.physRead (s : State) (pa n : Nat) : Option (List Byte) :=
  if !s.backed pa || !s.backed (pa + n - 1) || (linesOf pa n).any fun l => s.poisoned (128 * l) then none
  else some (if classOf pa = .cacheable then s.bytesAt pa n else s.deviceBytes pa n)
/-- The operands that every op of svl.ctxctl checks first (R291), then the context's number. -/
def ctxctl (s : State) (rd rs1 rs2 : BitVec 5) (zero : DWord → Bool) (body : Nat → DWord → HartEff) : Host.Outcome State Fault Refusal :=
  hartPriv s rd fun _ h =>
    let a := h.xAt rs1
    let b := h.xAt rs2
    if field a 16 48 ≠ 0 || !zero b then .done 4 s else body (field a 0 12) b
/-- BUILD of svl.ctxctl (R286, R289, R291); ops 8 to 15 have no row of their own and answer 4. -/
def execCtxBuild (rd rs1 rs2 : BitVec 5) (s : State) : Host.Outcome State Fault Refusal :=
  hartPriv s rd fun _ h =>
    let a := h.xAt rs1
    let pa := (h.xAt rs2).toNat
    let n := field a 0 12
    if field a 16 48 ≠ 0 || 8 ≤ field a 12 4 then .done 4 s
    else if (s.ctx? n).isSome then .done 1 s
    else if pa % 256 ≠ 0 then .done 2 s
    else if s.physHeld pa 256 then .wait
    else match s.physRead pa 256 with
    | none => .done 2 s
    | some bs => match ctxIn bs with
      | none => .done 2 s
      | some c => if s.ctxs.any fun p => p.2.asid = c.asid then .done 2 s else .done 0 { s with ctxs := tblSet s.ctxs n c }
/-- A page of the save area is mapped writable and pinned in the context's tables (R289). -/
def State.pinned (s : State) (c : Context) (va : DWord) : Bool :=
  vaInRange va && (match walkFrom s true some va 4 (field c.satp 0 44 * 4096) with
    | .ok (pte, _, _) => pte.getLsbD 59 && permsOk (pte.setWidth 8) { w := true }
    | .error _ => false)
/-- The walk of a page of the save area waits for a stack that is changing hands (R200). -/
def State.pinHeld (s : State) (c : Context) (va : DWord) : Bool :=
  vaInRange va && (match walkFrom s true some va 4 (field c.satp 0 44 * 4096) with
    | .ok _ => false
    | .error e => e.cause = 0)
/-- The pin check of ACTIVATE (R289). -/
def State.pinCheck (s : State) (c : Context) : Bool := (pagesOf c.saveBase (c.slots * c.garea)).all (s.pinned c)
/-- ACTIVATE of svl.ctxctl (R289, R291). -/
def execCtxActivate (rd rs1 rs2 : BitVec 5) (s : State) : Host.Outcome State Fault Refusal :=
  ctxctl s rd rs1 rs2 (· = 0) fun n _ =>
    match s.ctx? n with
    | none => .done 1 s
    | some c =>
      if c.st ≠ .built && c.st ≠ .suspended then .done 1 s
      else if (pagesOf c.saveBase (c.slots * c.garea)).any (s.pinHeld c) then .wait
      else if !s.pinCheck c then .done 3 s
      else .done 0 (s.ctxEnter n .active)
/-- The pre-emption trap is raised at the resident drills of a context: its RUNNING groups go to PREEMPTING (R266), and a
group that waits at step 5 of a successor exit for its croft as well (R275). -/
def State.preemptCtx (s : State) (n : Nat) : State :=
  let s := s.ctxEnter n .preempting
  { s with groups := tblMap s.groups fun _ (g : Group) =>
      if g.ctx ≠ n then g
      else if g.st = .running then { g with st := .preempting }
      else if s.waitsMates g then { g with st := .preempting }
      else g }
/-- PREEMPT of svl.ctxctl (R289, R291). -/
def execCtxPreempt (rd rs1 rs2 : BitVec 5) (s : State) : Host.Outcome State Fault Refusal :=
  ctxctl s rd rs1 rs2 (· = 0) fun n _ =>
    match s.ctx? n with
    | some c => if c.st = .active then .done 0 (s.preemptCtx n) else .done 1 s
    | none => .done 1 s
/-- KILL of svl.ctxctl (R289, R291). -/
def execCtxKill (rd rs1 rs2 : BitVec 5) (s : State) : Host.Outcome State Fault Refusal :=
  ctxctl s rd rs1 rs2 (· = 0) fun n _ =>
    match s.ctx? n with
    | some c => if c.st = .draining || c.st = .retired then .done 1 s else .done 0 (s.killCtx n)
    | none => .done 1 s
/-- RELEASE of svl.ctxctl (R289, R291). -/
def execCtxRelease (rd rs1 rs2 : BitVec 5) (s : State) : Host.Outcome State Fault Refusal :=
  ctxctl s rd rs1 rs2 (· = 0) fun n _ =>
    match s.ctx? n with
    | some c =>
      if c.st = .retired then .done 0 { s.lsForget n with
        ctxs := tblErase s.ctxs n
        oldPlots := s.oldPlots.map fun o => if o.ctx = n then { o with ctx := goneCtx } else o }
      else .done 1 s
    | none => .done 1 s
/-- BUDGET of svl.ctxctl (R291, R308). -/
def execCtxBudget (rd rs1 rs2 : BitVec 5) (s : State) : Host.Outcome State Fault Refusal :=
  ctxctl s rd rs1 rs2 (fun _ => true) fun n b =>
    if (s.ctx? n).isNone then .done 1 s else .done 0 (s.modCtx n fun c => { c with budget := b.toNat, armed := true })
/-- PRIORITY of svl.ctxctl (R291). -/
def execCtxPriority (rd rs1 rs2 : BitVec 5) (s : State) : Host.Outcome State Fault Refusal :=
  ctxctl s rd rs1 rs2 (fun b => b.toNat < 8) fun n b =>
    if (s.ctx? n).isNone then .done 1 s else .done 0 (s.modCtx n fun c => { c with prio := b.toNat })
/-- A stopped station restarts (R291): one stopped by a failed command discards it. -/
def Station.restart (t : Station) : Station :=
  match t.stopped with
  | some true => { t with stopped := none, run := none }
  | _ => { t with stopped := none }
/-- RESTART of svl.ctxctl (R291). -/
def execCtxRestart (rd rs1 rs2 : BitVec 5) (s : State) : Host.Outcome State Fault Refusal :=
  ctxctl s rd rs1 rs2 (fun b => b.toNat < 2 ^ 17) fun n b =>
    match s.groups.find? fun p => p.2.ctx = n && p.2.alive && p.2.saveSlot = field b 0 16 with
    | none => .done 1 s
    | some (gid, g) =>
      let out := b.getLsbD 16
      if (if out then g.stO else g.stI).stopped.isNone then .done 1 s
      else .done 0 (s.setGroup gid (if out then { g with stO := g.stO.restart } else { g with stI := g.stI.restart }))

/-- The queue that a hart's svl.sysret names: its own die's, on a Coulter hart the Coulter task queue (R311, R334). -/
def sysretChip (n : Nat) : Nat := if n < 64 then 0 else hartChip n
/-- The results of a call reach s(8m) to s(8m + 7) (R311). -/
def Drill.results (d : Drill) (g : Group) (m : Nat) (ws : List Word) : Drill :=
  (List.range 8).foldl (fun d j =>
    let r := 8 * m + j
    if sNamed d g r 1 then d.putS (sStore d.sysMode r) (ws.getD j 0) else d) d
/-- A parked drill goes on (R89, R199). -/
def State.unpark (s : State) (k : Nat) : State := (s.invalL1 (drillCore k)).resume k
/-- The drill that an entry parked, with its group, while it is there (R311); an entry whose drill has been lost is pending no
more (log 82, DEDUCED). -/
def State.entryDrill (s : State) (e : SysEntry) : Option (Nat × Drill × Group) :=
  match e.drill.bind fun k => (s.drill? k).map fun d => (k, d), s.group? e.gid with
  | some (k, d), some g => if d.gid = e.gid && d.st = .parked then some (k, d, g) else none
  | _, _ => none
/-- svl.sysret (R311, R334). -/
def execSvlSysret (rd rs1 rs2 : BitVec 5) (s : State) : Host.Outcome State Fault Refusal :=
  hartPriv s rd fun n h =>
    let a := h.xAt rs1
    let chip := sysretChip n
    if field a 10 54 ≠ 0 then .done 4 s
    else match (s.sysQ chip).reverse.find? fun e => e.posted && e.entry = field a 0 10 with
    | none => .done 1 s
    | some e =>
      let s' := s.setSysQ chip ((s.sysQ chip).filter (· ≠ e))
      match e.kind, s.entryDrill e with
      | 0, some (k, d, g) =>
        match s.hartLoad h (h.xAt rs2) 32 with
        | .fault c va g => .trap c va g
        | .held => .wait
        | .bytes bs _ =>
          let m := field (wordIn e.bytes 28) 0 3
          .done 0 ((s'.setDrill k (d.results g m ((List.range 8).map fun j => wordIn bs (4 * j)))).unpark k)
      | 1, some (k, _, _) => .done 0 (s'.unpark k)
      | 3, _ =>
        match e.launch with
        | some l => .done 0 ({ s' with launches := tblMod s'.launches l fun l => { l with taskAt := none, exited := l.exited + 1 } }.launchStep l)
        | none => .done 0 s'
      | _, _ => .done 1 s

/-- The record of a fault-queue entry that is PENDING (R355). -/
def State.recAt (s : State) (chip entry : Nat) : Option (Nat × FaultRec) :=
  (s.recs chip).reverse.find? fun p => p.2.st = .pending && p.2.entry = entry
/-- Every agent that waits on a record of a die is replayed (R355, R356). -/
def State.replayAll (s : State) (chip n : Nat) : State :=
  let waits (p : Nat × Drill) : Bool := drillChip p.1 = chip && (match p.2.park with | some (.faults l) => l.contains n | _ => false)
  let go (t : Station) : Station := { t with run := t.run.map fun r => if r.fault = some n then { r with fault := none } else r }
  let run (r : PlotRun) : PlotRun := if r.fault = some n then { r with fault := none } else r
  let s := { s with
    groups := tblMap s.groups fun _ (g : Group) => { g with stI := go g.stI, stO := go g.stO }
    plots := tblMap s.plots fun _ (p : Plot) => if 8 + p.die = chip then { p with flight := p.flight.map run } else p }
  (s.drills.filter waits).foldl (fun s p => s.unpark p.1) s
/-- The operands of svl.fqdone and svl.fqkill (R357). -/
def fqOperands (s : State) (rd rs1 rs2 : BitVec 5) (body : Nat → Nat × FaultRec → HartEff) : Host.Outcome State Fault Refusal :=
  hartPriv s rd fun _ h =>
    let a := h.xAt rs1
    let chip := field a 12 4
    if field a 16 48 ≠ 0 || chip < 4 || 11 < chip || h.xAt rs2 ≠ 0 then .done 4 s
    else match s.recAt chip (field a 0 12) with
    | none => .done 1 s
    | some r => body chip r
/-- svl.fqdone (R355-R357). -/
def execSvlFqdone (rd rs1 rs2 : BitVec 5) (s : State) : Host.Outcome State Fault Refusal :=
  fqOperands s rd rs1 rs2 fun chip r => .done 0 ((s.clearRec chip r.1).replayAll chip r.1)
/-- svl.fqkill (R355, R357). -/
def execSvlFqkill (rd rs1 rs2 : BitVec 5) (s : State) : Host.Outcome State Fault Refusal :=
  fqOperands s rd rs1 rs2 fun chip r => .done 0 ((s.clearRec chip r.1).killCtx r.2.ctx)

/-- svl.qpost (R327). -/
def execSvlQpost (rd rs1 rs2 : BitVec 5) (s : State) : Host.Outcome State Fault Refusal :=
  hartRun s rd fun n h =>
    let va := h.xAt rs1
    let b := h.xAt rs2
    let qn := field b 0 13
    let q := s.queue qn
    if va.toNat % 128 ≠ 0 then .trap 4 va
    else match s.hartLoad h va 128 with
    | .fault c a g => .trap c a g
    | .held => .wait
    | .bytes bs pa =>
      if field b 13 51 ≠ 0 then .done 4 s
      else if h.mode ≠ .m && h.mode ≠ .hs && !q.ctl.getLsbD 20 then .done 3 s
      else if q.st ≠ .opened && q.st ≠ .paused then .done 2 s
      else if q.full then .done 1 s
      else
        let (id, s) := s.reserve qn (some n)
        .done 0 (s.postEntry qn id (some pa) bs)
/-- svl.qfence (R327): it waits while a packet that the hart posted has not been read and checked. -/
def execSvlQfence (s : State) : Host.Outcome State Fault Refusal :=
  hartRun s 0 fun n _ => if s.queues.any fun p => p.2.entries.any fun e => e.hart = some n && !e.filled then .wait else .done 0 s

/-- The context of an event form: neither FREE nor RETIRED (R328). -/
def State.eventCtx (s : State) (n : Nat) : Option Context := (s.ctx? n).filter fun c => c.st ≠ .retired
/-- svl.evsig and svl.evclr (R328). -/
def evHart (s : State) (rd rs1 rs2 : BitVec 5) (on : Bool) : Host.Outcome State Fault Refusal :=
  hartPriv s rd fun _ h =>
    let b := h.xAt rs2
    if field b 14 50 ≠ 0 then .done 4 s
    else match s.eventCtx (field b 2 12) with
    | none => .done 2 s
    | some _ => .done 0 (s.setEvents (field b 2 12) (field b 0 2) (h.xAt rs1) on)
/-- svl.evsig (R328). -/
def execSvlEvsig (rd rs1 rs2 : BitVec 5) (s : State) : Host.Outcome State Fault Refusal := evHart s rd rs1 rs2 true
/-- svl.evclr (R328). -/
def execSvlEvclr (rd rs1 rs2 : BitVec 5) (s : State) : Host.Outcome State Fault Refusal := evHart s rd rs1 rs2 false
/-- svl.evwait (R328). -/
def execSvlEvwait (rd rs1 rs2 : BitVec 5) (s : State) : Host.Outcome State Fault Refusal :=
  hartPriv s rd fun n h =>
    let b := h.xAt rs2
    if field b 14 50 ≠ 0 then .done 0 s
    else match s.eventCtx (field b 2 12) with
    | none => .done 0 s
    | some c =>
      let w := c.event (field b 0 2)
      if w &&& h.xAt rs1 = h.xAt rs1 || s.hartIrq n then .done w s else .wait

end Sys2Proof.Machine
end

