-- ==== Sys2Proof/Machine/Crypto.lean ====
section
/-!
DEFINITION. SHA-256 (FIPS 180-4) and the check of an ECDSA P-256 signature (FIPS 186-4), which R383 and R384 name (log 22, PRESUMED:
the two standards are not in the spec).
-/
namespace Sys2Proof.Machine

/-- The round constants of SHA-256 and its initial hash value. -/
def shaK : List Word :=
  [0x428A2F98, 0x71374491, 0xB5C0FBCF, 0xE9B5DBA5, 0x3956C25B, 0x59F111F1, 0x923F82A4, 0xAB1C5ED5, 0xD807AA98, 0x12835B01, 0x243185BE, 0x550C7DC3, 0x72BE5D74, 0x80DEB1FE, 0x9BDC06A7, 0xC19BF174] ++
  [0xE49B69C1, 0xEFBE4786, 0x0FC19DC6, 0x240CA1CC, 0x2DE92C6F, 0x4A7484AA, 0x5CB0A9DC, 0x76F988DA, 0x983E5152, 0xA831C66D, 0xB00327C8, 0xBF597FC7, 0xC6E00BF3, 0xD5A79147, 0x06CA6351, 0x14292967] ++
  [0x27B70A85, 0x2E1B2138, 0x4D2C6DFC, 0x53380D13, 0x650A7354, 0x766A0ABB, 0x81C2C92E, 0x92722C85, 0xA2BFE8A1, 0xA81A664B, 0xC24B8B70, 0xC76C51A3, 0xD192E819, 0xD6990624, 0xF40E3585, 0x106AA070] ++
  [0x19A4C116, 0x1E376C08, 0x2748774C, 0x34B0BCB5, 0x391C0CB3, 0x4ED8AA4A, 0x5B9CCA4F, 0x682E6FF3, 0x748F82EE, 0x78A5636F, 0x84C87814, 0x8CC70208, 0x90BEFFFA, 0xA4506CEB, 0xBEF9A3F7, 0xC67178F2]
def shaInit : List Word := [0x6A09E667, 0xBB67AE85, 0x3C6EF372, 0xA54FF53A, 0x510E527F, 0x9B05688C, 0x1F83D9AB, 0x5BE0CD19]
/-- Rotation to the right. -/
def rotr (w : Word) (n : Nat) : Word := w >>> n ||| w <<< (32 - n)
/-- The 64 words of the message schedule of a block of 16 words. -/
def shaSchedule (block : List Word) : List Word :=
  (List.range 48).foldl (fun (w : List Word) t =>
    let a := w.getD (t + 1) 0
    let b := w.getD (t + 14) 0
    w ++ [(rotr b 17 ^^^ rotr b 19 ^^^ b >>> 10) + w.getD (t + 9) 0 + (rotr a 7 ^^^ rotr a 18 ^^^ a >>> 3) + w.getD t 0]) block
/-- One round on the working variables a to h. -/
def shaRound (v : List Word) (kw : Word) : List Word :=
  match v with
  | [a, b, c, d, e, f, g, h] =>
    let t1 := h + (rotr e 6 ^^^ rotr e 11 ^^^ rotr e 25) + ((e &&& f) ^^^ (~~~e &&& g)) + kw
    let t2 := (rotr a 2 ^^^ rotr a 13 ^^^ rotr a 22) + ((a &&& b) ^^^ (a &&& c) ^^^ (b &&& c))
    [t1 + t2, a, b, c, d + t1, e, f, g]
  | _ => v
/-- The hash value after a block. -/
def shaBlock (h : List Word) (block : List Word) : List Word :=
  let v := (shaK.zipWith (· + ·) (shaSchedule block)).foldl shaRound h
  h.zipWith (· + ·) v
/-- A number as n bytes, the most significant first. -/
def bigBytes (v n : Nat) : List Byte := (List.range n).map fun j => BitVec.ofNat 8 (v / 2 ^ (8 * (n - 1 - j)))
/-- The number of bytes, the most significant first. -/
def bigNum (bs : List Byte) : Nat := bs.foldl (fun v b => 256 * v + b.toNat) 0
/-- SHA-256 of a byte string. -/
def sha256 (msg : List Byte) : List Byte :=
  let n := msg.length
  let padded := msg ++ [0x80] ++ List.replicate ((119 - n % 64) % 64) 0 ++ bigBytes (8 * n) 8
  let block (i : Nat) : List Word := (List.range 16).map fun j => BitVec.ofNat 32 (bigNum ((padded.drop (64 * i + 4 * j)).take 4))
  ((List.range (padded.length / 64)).foldl (fun h i => shaBlock h (block i)) shaInit).flatMap fun w => bigBytes w.toNat 4

/-- The field and the group order of P-256, its coefficient b and its base point. -/
def p256 : Nat := 0xFFFFFFFF00000001000000000000000000000000FFFFFFFFFFFFFFFFFFFFFFFF
def n256 : Nat := 0xFFFFFFFF00000000FFFFFFFFFFFFFFFFBCE6FAADA7179E84F3B9CAC2FC632551
def b256 : Nat := 0x5AC635D8AA3A93E7B3EBBD55769886BC651D06B0CC53B0F63BCE3C3E27D2604B
def gx256 : Nat := 0x6B17D1F2E12C4247F8BCE6E563A440F277037D812DEB33A0F4A13945D898C296
def gy256 : Nat := 0x4FE342E2FE1A7F9B8EE7EB4A7C0F9E162BCE33576B315ECECBB6406837BF51F5
/-- A power modulo m, the exponent's bits from the top. -/
def powMod (m a e : Nat) : Nat := (List.range 256).foldl (fun r i => let q := r * r % m; if e.testBit (255 - i) then q * a % m else q) 1
/-- A point in Jacobian coordinates; z = 0 is the point at infinity. -/
structure Jac where
  x : Nat
  y : Nat
  z : Nat
deriving DecidableEq, Repr
/-- Differences modulo p. -/
def subP (a b : Nat) : Nat := (a + p256 - b % p256) % p256
/-- Twice a point. -/
def Jac.dbl (q : Jac) : Jac :=
  let yy := q.y * q.y % p256
  let s := 4 * q.x * yy % p256
  let zz := q.z * q.z % p256
  let m := 3 * (subP q.x zz) * (q.x + zz) % p256
  let x := subP (m * m) (2 * s)
  { x := x, y := subP (m * subP s x) (8 * yy * yy), z := 2 * q.y * q.z % p256 }
/-- The sum of two points. -/
def Jac.add (a b : Jac) : Jac :=
  if a.z = 0 then b
  else if b.z = 0 then a
  else
    let az := a.z * a.z % p256
    let bz := b.z * b.z % p256
    let u1 := a.x * bz % p256
    let u2 := b.x * az % p256
    let s1 := a.y * (b.z * bz % p256) % p256
    let s2 := b.y * (a.z * az % p256) % p256
    if u1 = u2 then (if s1 = s2 then a.dbl else { x := 1, y := 1, z := 0 })
    else
      let h := subP u2 u1
      let r := subP s2 s1
      let hh := h * h % p256
      let hhh := h * hh % p256
      let v := u1 * hh % p256
      let x := subP (subP (r * r) hhh) (2 * v)
      { x := x, y := subP (r * subP v x) (s1 * hhh), z := h * a.z % p256 * b.z % p256 }
/-- A multiple of a point. -/
def Jac.mul (k : Nat) (q : Jac) : Jac :=
  (List.range 256).foldl (fun (r : Jac) i => let d := r.dbl; if k.testBit (255 - i) then d.add q else d) { x := 1, y := 1, z := 0 }
/-- A signature (r, s), 64 bytes, over a hash verifies against a public key, 64 bytes. -/
def ecdsaOk (hash key sig : List Byte) : Bool :=
  let qx := bigNum (key.take 32)
  let qy := bigNum ((key.drop 32).take 32)
  let r := bigNum (sig.take 32)
  let s := bigNum ((sig.drop 32).take 32)
  let onCurve := qx < p256 && qy < p256 && qy * qy % p256 = (subP (qx * qx % p256 * qx) (3 * qx) + b256) % p256
  let w := powMod n256 s (n256 - 2)
  let a := Jac.mul (bigNum hash * w % n256) { x := gx256, y := gy256, z := 1 }
  let b := Jac.mul (r * w % n256) { x := qx, y := qy, z := 1 }
  let x := a.add b
  let zz := x.z * x.z % p256
  key.length = 64 && sig.length = 64 && onCurve && 0 < r && r < n256 && 0 < s && s < n256 && x.z ≠ 0 &&
  (r * zz % p256 = x.x || (r + n256 < p256 && (r + n256) * zz % p256 = x.x))

end Sys2Proof.Machine
end

