-- ==== Sys2Proof/Machine/Placing.lean ====
section
/-!
DEFINITION. Placement of crofts on cores (R68, R258-R264, R280, R287, R406), the state in which a group starts (R259), and the
choice among queues (R321).
-/
namespace Sys2Proof.Machine

/-- The clusters of a Sower die's enabled cores, by core number: enabled cores are numbered from 0 in the order of the mask
(R21, R363). -/
def State.coreClusters (s : State) (die : Nat) : List Nat :=
  ((List.range 96).filter fun i => (tblGet s.tables (4 + die) 0).getLsbD (64 + i)).map (· / 8)
/-- What one group needs of its core (R260): drill positions, vector file in KiB, uniform file in bytes, local store in bytes. -/
structure Need where
  drills : Nat
  vector : Nat
  uniform : Nat
  ls : Nat
deriving DecidableEq, Repr
/-- The need of a group of g lanes. -/
def needOf (k : Kcb) (g : Nat) : Need :=
  let n := (g + 31) / 32
  { drills := n, vector := n * ((k.v + 7) / 8 + k.t), uniform := n * 32 * ((k.s + 7) / 8), ls := k.ls }
/-- Two needs together. -/
def Need.add (a b : Need) : Need := { drills := a.drills + b.drills, vector := a.vector + b.vector, uniform := a.uniform + b.uniform, ls := a.ls + b.ls }
/-- A need within limits. -/
def Need.within (a : Need) (drills vector uniform ls : Nat) : Bool := a.drills ≤ drills && a.vector ≤ vector && a.uniform ≤ uniform && a.ls ≤ ls
/-- A group on its core (R265). -/
def Group.resident (g : Group) : Bool := g.st = .running || g.st = .exiting || g.st = .preempting || g.st = .restoring
/-- A group's local-store region is allocated: while it is resident, and until its croft has ended (R264). -/
def State.holdsLs (s : State) (g : Group) : Bool :=
  g.resident || (g.st = .done && s.groups.any fun p => p.2.croft = g.croft && p.2.alive)
/-- Groups of a core. -/
def State.coreGroups (s : State) (die core : Nat) : List Group :=
  (s.groups.filter fun p => p.2.die = die && p.2.core = core).map (·.2)
/-- What the groups of a core use, of one context or of all. -/
def State.used (s : State) (die core : Nat) (ctx : Option Nat) : Need :=
  ((s.coreGroups die core).filter fun g => ctx.isNone || ctx = some g.ctx).foldl (fun n g =>
    let a := needOf g.kcb g.g
    (if g.resident then n.add { a with ls := 0 } else n).add { drills := 0, vector := 0, uniform := 0, ls := if s.holdsLs g then a.ls else 0 })
    { drills := 0, vector := 0, uniform := 0, ls := 0 }
/-- The quota of a context on every core (R261). -/
def State.quota (s : State) (ctx : Nat) : DWord := s.reg (0x40000 + 8 * ctx)
/-- A need within the quota of its context; a limit of zero prevents placement. -/
def State.quotaOk (s : State) (ctx : Nat) (n : Need) : Bool :=
  let q := s.quota ctx
  field q 0 7 ≠ 0 && field q 16 10 ≠ 0 && field q 48 5 ≠ 0 && field q 32 10 ≠ 0 &&
  n.within (field q 0 7) (field q 16 10) (field q 48 5 * 1024) (field q 32 10 * 1024)
/-- Local-store ranges of a core that are taken. -/
def State.lsTaken (s : State) (die core : Nat) : List (Nat × Nat) :=
  ((s.coreGroups die core).filter s.holdsLs).map fun g => (g.lsBase, g.kcb.ls)
/-- A local-store range is free (R260). -/
def lsFree (taken : List (Nat × Nat)) (base size : Nat) : Bool :=
  base % 128 = 0 && base + size ≤ 524288 && taken.all fun t => base + size ≤ t.1 || t.1 + t.2 ≤ base || size = 0 || t.2 = 0
/-- A place for a range: after one that is taken, or at 0. -/
def lsRoom (taken : List (Nat × Nat)) (size : Nat) : Option Nat :=
  (0 :: taken.map fun t => (t.1 + t.2 + 127) / 128 * 128).find? fun b => lsFree taken b size
/-- A free drill position of a core (R68). -/
def State.posFree (s : State) (die core p : Nat) : Bool := p < 64 && (s.drill? (coreKey die core * 64 + p)).isNone
/-- A core has room for one more group of a context (R260). -/
def State.coreFits (s : State) (die core ctx : Nat) (n : Need) : Bool :=
  ((s.used die core none).add n).within 64 512 16384 524288 && s.quotaOk ctx ((s.used die core (some ctx)).add n) &&
  (lsRoom (s.lsTaken die core) n.ls).isSome
/-- The save slots of a context that no group holds (R287), lowest first. -/
def State.freeSlot (s : State) (ctx : Nat) (c : Context) : Option Nat :=
  let taken := (s.groups.filter fun p => p.2.ctx = ctx && p.2.alive).map (·.2.saveSlot)
  (List.range (min c.slots (taken.length + 1))).find? fun j => !taken.contains j

/-- The issue slot with the fewest drills (R68). -/
def State.bindSlot (s : State) (c : Nat) : Nat :=
  let n (j : Nat) : Nat := ((s.coreDrills c).filter fun p => p.2.slot = j).length
  (List.range 8).foldl (fun b j => if n j < n b then j else b) 0
/-- The uniform registers of a group that starts (R259). -/
def startS (g : Group) (arg : DWord) (size : Nat) : Tbl Word :=
  let w : List Word := [arg.setWidth 32, arg.extractLsb' 32 32, BitVec.ofNat 32 g.x, BitVec.ofNat 32 g.y, BitVec.ofNat 32 g.z,
    BitVec.ofNat 32 ((size - 1) * 16 + g.rank)]
  (w.mapIdx fun j v => (j, v)).filter fun p => p.1 < g.kcb.s
/-- A drill as its group starts (R259, R131), READY at the entry (R399). -/
def startDrill (gid idx slot : Nat) (g : Group) (entry : DWord) (uni : Tbl Word) (spent : Bool) : Drill :=
  { gid := gid, idx := idx, slot := slot, s := uni, pc := entry, swathPc := entry, cm := presentLanes g.g idx
    fetchWant := [entry.toNat / 128], pendOverrun := spent }
/-- The drills of a group are put at its positions. -/
def State.putDrills (s : State) (g : Group) (make : Nat → Nat → Drill) : State :=
  (g.pos.mapIdx fun j p => (j, p)).foldl (fun (s : State) (q : Nat × Nat) =>
    let c := coreKey g.die g.core
    s.setDrill (c * 64 + q.2) (make q.1 (s.bindSlot c))) s
/-- A context whose BUDGET is 0 makes the drills that start take OVERRUN (R308). -/
def State.startsOver (s : State) (ctx : Nat) : Bool := (s.ctx? ctx).any fun c => c.budget = 0
/-- The OVERRUN of a context has been raised. -/
def State.disarm (s : State) (ctx : Nat) : State := if s.startsOver ctx then s.modCtx ctx fun c => { c with armed := false } else s
/-- A group starts (R259): its region passes to the context, its core acquires (R199), its drills are READY. -/
def State.startGroup (s : State) (gid : Nat) (g : Group) (code size : Nat) (arg : DWord) : State :=
  let c := coreKey g.die g.core
  let s := ((s.lsTake c g.lsBase g.kcb.ls g.ctx).invalL1 c).setGroup gid g
  let spent := s.startsOver g.ctx
  (s.disarm g.ctx).putDrills g fun j slot => startDrill gid j slot g (g.kcb.entry code) (startS g arg size) spent

/-- The index of a group of a launch, in x-major order (R258). -/
def groupIndex (gx gy i : Nat) : Nat × Nat × Nat := (i % gx, i / gx % gy, i / (gx * gy))
/-- Die and core of the members of a croft that are on a core, or whose region there stays allocated (R262, R264). -/
def State.mateCores (s : State) (croft : Nat) : List (Nat × Nat) :=
  ((s.groups.filter fun p => p.2.croft = croft && s.holdsLs p.2).map fun p => (p.2.die, p.2.core))
/-- Cores of a die on which a croft's members can stand (R262): distinct, of one cluster, apart from the cores of the mates that
hold a place and in their cluster. -/
def State.coresOk (s : State) (die : Nat) (cores : List Nat) (mates : List (Nat × Nat)) : Bool :=
  let clusters := s.coreClusters die
  cores.Nodup && (cores.all fun k => clusters[k]?.isSome && clusters[k]? = clusters[cores.headD 0]?) &&
  mates.all fun m => m.1 = die && cores.all fun k => k ≠ m.2 && clusters[k]? = clusters[m.2]?
/-- The place that a croft is given is one that R260 to R263 allow for groups of a context: a die that answers, distinct cores
of one cluster, free positions and ranges. -/
def State.placeAllowed (s : State) (ctx : Nat) (need : Need) (n : Nat) (mates : List (Nat × Nat)) (c : CroftAt) : Bool :=
  c.die < 4 && s.chipUp (4 + c.die) && c.cores.length = n && c.pos.length = n && c.ls.length = n && s.coresOk c.die c.cores mates &&
  (List.range n).all fun j =>
    let core := c.cores.getD j 0
    let pos := c.pos.getD j []
    s.coreFits c.die core ctx need && pos.length = need.drills && pos.Nodup && pos.all (s.posFree c.die core) &&
    lsFree (s.lsTaken c.die core) (c.ls.getD j 0) need.ls
/-- Plots for n groups of a croft on a die are set aside one after another (R406). -/
def State.providePlots (s : State) (die ctx logR logC : Nat) : Nat → Option State
  | 0 => some s
  | n + 1 => match s.provide die ctx logR logC with
    | some p => (s.setAside ctx logR logC p).providePlots die ctx logR logC n
    | none => none
/-- The setting aside ends when the groups start. -/
def State.endAside (s : State) : State := { s with plots := tblMap s.plots fun _ (p : Plot) => { p with aside := false } }
/-- Groups of a need that a core still takes. -/
def State.coreRoom (s : State) (die core ctx : Nat) (need : Need) : Nat :=
  ((List.range 64).takeWhile fun n => s.coreFits die core ctx
    { drills := (n + 1) * need.drills, vector := (n + 1) * need.vector, uniform := (n + 1) * need.uniform, ls := (n + 1) * need.ls }).length
/-- Puts an element before the first of a list that has a smaller key. -/
def insertBy (key : Nat → Nat) (a : Nat) : List Nat → List Nat
  | [] => [a]
  | b :: r => if key b < key a then a :: b :: r else b :: insertBy key a r
/-- The first place that a croft of n groups finds: cores in their order, and for a cooperative launch those with most room
first. -/
def State.findPlace (s : State) (ctx : Nat) (need : Need) (k : Kcb) (n : Nat) (mates : List (Nat × Nat)) : Option CroftAt :=
  let inCluster (die cl : Nat) : Option CroftAt :=
    let cores := ((s.coreClusters die).mapIdx fun j x => (j, x)).filterMap fun p =>
      if p.2 = cl && s.coreFits die p.1 ctx need && s.coresOk die [p.1] mates then some p.1 else none
    let cores := if k.coop then cores.foldr (insertBy fun c => s.coreRoom die c ctx need) [] else cores
    if cores.length < n then none
    else
      let cores := cores.take n
      some { die := die, cores := cores
             pos := cores.map fun c => ((List.range 64).filter (s.posFree die c)).take need.drills
             ls := cores.map fun c => (lsRoom (s.lsTaken die c) need.ls).getD 0 }
  let onDie (die : Nat) : Option CroftAt :=
    if !s.chipUp (4 + die) || (k.plot && (s.providePlots die ctx k.logR k.logC n).isNone) then none
    else (List.range 12).findSome? (inCluster die)
  (List.range 4).findSome? onDie

/-- A croft of a launch is placed: the groups with the ranks and indices given. Groups that are placed again after isolation
have no successor (R271). -/
def State.placeCroft (s : State) (l : Nat) (croft : Nat) (size : Nat) (members : List (Nat × Nat)) (again : Bool) (c : CroftAt) :
    Option State :=
  match tblGet? s.launches l with
  | none => none
  | some x => match s.ctx? x.ctx with
    | none => none
    | some cx =>
      let n := members.length
      let need := needOf x.kcb x.g
      let plots := if x.kcb.plot then s.providePlots c.die x.ctx x.kcb.logR x.kcb.logC n else some s
      if !s.placeAllowed x.ctx need n (s.mateCores croft) c then none
      else match plots with
      | none => none
      | some s =>
        let one (r : Option State) (q : Nat × Nat × Nat) : Option State :=
          match r with
          | none => none
          | some s => match s.freeSlot x.ctx cx with
            | none => none
            | some slot =>
              let (j, rank, idx) := q
              let (gid, s) := s.stamp
              let (gx, gy, gz) := groupIndex x.gx x.gy idx
              let g : Group :=
                { ctx := x.ctx, launch := l, croft := croft, rank := rank, x := gx, y := gy, z := gz, g := x.g, kcb := x.kcb, die := c.die
                  core := c.cores.getD j 0, pos := c.pos.getD j [], lsBase := c.ls.getD j 0, saveSlot := slot
                  gsave := cx.saveBase + BitVec.ofNat 64 (slot * cx.garea), succCancel := again }
              let s := s.startGroup gid g x.code size x.arg
              some { s with crofts := tblMod s.crofts croft fun (t : Croft) => { t with members := t.members.set rank gid } }
        (members.mapIdx fun j m => (j, m.1, m.2)).foldl one (some s)
/-- The next unstarted croft of a launch: its group indices by rank. -/
def nextCroft (x : Launch) (next : Nat) : List (Nat × Nat) :=
  let n := min x.kcb.croft (x.gx * x.gy * x.gz - next)
  (List.range n).map fun r => (r, next + r)
/-- The next croft of a launch is placed. -/
def State.placeNext (s : State) (l : Nat) (c : CroftAt) : Option State :=
  match tblGet? s.launches l with
  | none => none
  | some x =>
    let members := nextCroft x x.next
    let (id, s) := s.stamp
    let s := { s with crofts := tblSet s.crofts id { launch := l, members := members.map fun _ => 0 } }
    (s.placeCroft l id members.length members x.rebuild c).map fun s =>
      { s with launches := tblMod s.launches l fun (y : Launch) => { y with next := x.next + members.length } }
/-- Every croft of a launch is placed (R280). -/
def State.placeWhole (s : State) (l : Nat) (p : Placement) : Option State :=
  (p.foldl (fun (r : Option State) c => r.bind fun s => s.placeNext l c) (some s)).bind fun s =>
    if (tblGet? s.launches l).any fun x => x.next = x.total then some s else none
/-- The lost groups of a croft, by rank, with their indices (R368). -/
def State.lostOf (s : State) (x : Launch) (croft : Nat) : List (Nat × Nat) :=
  match tblGet? s.crofts croft with
  | none => []
  | some c => (c.members.mapIdx fun r m => (r, m)).filterMap fun p => match s.group? p.2 with
    | some g => if g.st = .lost then some (p.1, g.x + x.gx * (g.y + x.gy * g.z)) else none
    | none => none
/-- The lost groups of a croft are placed again (R368), with the barrier state of R259 (R281); the croft's successor is
cancelled (R271). -/
def State.placeReturned (s : State) (l croft : Nat) (c : CroftAt) : Option State :=
  match tblGet? s.launches l, tblGet? s.crofts croft with
  | some x, some t =>
    let members := s.lostOf x croft
    let gone := t.members.filter fun m => (s.group? m).any fun g => g.st = .lost
    let s := { s with
      groups := tblMap (s.groups.filter fun p => !gone.contains p.1) fun _ (g : Group) =>
        if g.croft = croft then { g with succCancel := true } else g
      crofts := tblSet s.crofts croft { t with phase := 0 }
      launches := tblSet s.launches l { x with returned := x.returned.filter (· ≠ croft) } }
    s.placeCroft l croft t.members.length members true c
  | _, _ => none

/-- The chiplet whose queue takes a task (R333): with TASKDIE 15 the ACTIVE die with the fewest pending entries. -/
def State.taskChip (s : State) (x : Launch) : Option Nat :=
  let active := (List.range 8).filterMap fun j => if (s.link (4 + j)).st = .active then some (4 + j) else none
  let pending (c : Nat) : Nat := ((s.sysQ c).filter (·.posted)).length
  if x.code = 4 then some 0
  else if x.kcb.taskDie ≠ 15 then (if 4 ≤ x.kcb.taskDie && x.kcb.taskDie ≤ 11 && s.chipUp x.kcb.taskDie then some x.kcb.taskDie else none)
  else active.foldl (fun b c => match b with | some a => if pending c < pending a then some c else b | none => some c) none

/-- What a queue would place next (R321): a returned croft, a launch to be dispatched whole again, its head launch, or the entry
of a task (R333). -/
inductive Offer where
  | returned (l croft : Nat) | rebuild (l : Nat) | head (l : Nat) | task (l : Nat)
deriving DecidableEq, Repr
/-- The offer of a queue, readiness and pacing observed; whether it fits is not looked at. -/
def State.offer (s : State) (n : Nat) : Option Offer :=
  let q := s.queue n
  match s.ctx? q.ctx with
  | none => none
  | some c =>
    if c.st ≠ .active then none
    else
      let back := s.launches.find? fun p => p.2.queue = n && p.2.kcb.runs p.2.code && (p.2.rebuild || p.2.returned ≠ [])
      let live := q.st = .opened || q.st = .paused || q.st = .error
      match back with
      | some (l, x) =>
        if x.code ≥ 3 then (if q.st = .disabled then none else some (.task l))
        else if live then some (if x.rebuild then .rebuild l else .returned l (x.returned.headD 0)) else none
      | none => match q.entries with
        | [] => none
        | e :: _ => match e.launch.bind fun l => (tblGet? s.launches l).map fun x => (l, x) with
          | some (l, x) =>
            let paced := x.next ≠ 0 || (match q.lastStart with | some t => field q.pace 0 16 ≤ s.gtime.toNat - t | none => true)
            if q.st = .opened && q.ready && paced then some (if x.code < 3 then .head l else .task l) else none
          | none => none
/-- An offer is placed where the operand says. -/
def State.placeOffer (s : State) (o : Offer) (p : Placement) : Option State :=
  match o, p with
  | .returned l croft, [c] => s.placeReturned l croft c
  | .rebuild l, p => s.placeWhole l p
  | .head l, p => match tblGet? s.launches l with
    | some x => if x.kcb.coop then s.placeWhole l p else (match p with | [c] => s.placeNext l c | _ => none)
    | none => none
  | _, _ => none
/-- The place that Headland finds for every croft of a launch, one after another. -/
def State.findWhole (s : State) (l : Nat) (x : Launch) : Nat → Option State
  | 0 => some s
  | n + 1 =>
    let next := ((tblGet? s.launches l).map (·.next)).getD 0
    if next = x.total then some s
    else match s.findPlace x.ctx (needOf x.kcb x.g) x.kcb (nextCroft x next).length [] with
    | none => none
    | some c => match s.placeNext l c with
      | none => none
      | some s => s.findWhole l x n
/-- An offer fits: its queue is a candidate (R321). -/
def State.offerFits (s : State) (o : Offer) : Bool :=
  let one (x : Launch) (n : Nat) (mates : List (Nat × Nat)) : Option CroftAt := s.findPlace x.ctx (needOf x.kcb x.g) x.kcb n mates
  match o with
  | .task l => (tblGet? s.launches l).any fun x => (s.taskChip x).isSome
  | .returned l croft => match tblGet? s.launches l with
    | some x => match one x (s.lostOf x croft).length (s.mateCores croft) with
      | some c => (s.placeReturned l croft c).isSome
      | none => false
    | none => false
  | .rebuild l => match tblGet? s.launches l with
    | some x => (s.findWhole l x x.total).isSome
    | none => false
  | .head l => match tblGet? s.launches l with
    | some x =>
      if x.kcb.coop then (s.findWhole l x x.total).isSome
      else match one x (nextCroft x x.next).length [] with
        | some c => (s.placeNext l c).isSome
        | none => false
    | none => false
/-- A queue is a candidate (R321). -/
def State.candidate (s : State) (n : Nat) : Bool := match s.offer n with | some o => s.offerFits o | none => false
/-- GTIME ticks that a queue has spent as a candidate since it was last chosen (R321). -/
def State.waited (s : State) (q : Queue) : Nat := q.waited + (match q.waitingSince with | some t => s.gtime.toNat - t | none => 0)
/-- The effective class of a candidate (R321). -/
def State.effClass (s : State) (n : Nat) : Nat :=
  let q := s.queue n
  let aged := s.waited q / 100000
  min 7 (min q.prio (((s.ctx? q.ctx).map (·.prio)).getD 0) + aged)
/-- The scheduler chooses a queue (R321): of the highest class, round-robin after the queue chosen last in it. `q` is taken as
a candidate. -/
def State.chosen (s : State) (q : Nat) : Bool :=
  let cls := s.effClass q
  let last := tblGet s.lastChosen cls 8191
  let turn (n : Nat) : Nat := (n + 8192 - last - 1) % 8192
  (s.queues.filter fun p => p.1 ≠ q && s.candidate p.1).all fun p =>
    s.effClass p.1 < cls || (s.effClass p.1 = cls && turn q < turn p.1)
/-- Queues age while they are candidates (R321). -/
def State.age (s : State) : State :=
  if s.queues.all fun p => p.2.waitingSince.isNone && p.2.entries.isEmpty && (s.launches.all fun l => l.2.queue ≠ p.1) then s
  else { s with queues := s.queues.map fun p =>
    (p.1, if s.candidate p.1 then { p.2 with waitingSince := p.2.waitingSince.or (some s.gtime.toNat) }
      else { p.2 with waitingSince := none, waited := s.waited p.2 }) }

/-- Every way to spread w crofts over dies that take no more than the numbers given. -/
def spread (w : Nat) : List Nat → List (List Nat)
  | [] => if w = 0 then [[]] else []
  | c :: r => (List.range (min w c + 1)).flatMap fun j => (spread (w - j) r).map (j :: ·)
/-- Groups of the Sower dies can each have a plot of their neighbouring Acre dies (R406): no set of dies asks for more plots than
its neighbours have. -/
def plotsReach (groups plots : List Nat) : Bool :=
  (List.range 16).all fun m =>
    let dies := (List.range 4).filter m.testBit
    (dies.map fun d => groups.getD d 0).sum ≤
      (((List.range 4).filter fun p => dies.any fun d => (plotSides d).any (·.1 = p)).map fun p => plots.getD p 0).sum
/-- Plots of a shape that an Acre die has when none is carved (R208). -/
def State.plotsOf (s : State) (k : Kcb) (die : Nat) : Nat :=
  let free := { s with plots := [] }
  let places := (List.range 8).flatMap fun r => (List.range 8).map fun c => (r, c)
  if !s.chipUp (8 + die) then 0 else min 16 (places.filter fun q => free.placeOk die k.logR k.logC q.1 q.2).length
/-- A cooperative launch could be placed whole if every enabled core held no other group (R280): by cores, clusters and quotas,
by the context's save slots (R287), and by plots where it needs them (R406). -/
def State.couldHold (s : State) (ctx : Nat) (k : Kcb) (g total : Nat) : Bool :=
  let need := needOf k g
  let times (n : Nat) : Need := { drills := n * need.drills, vector := n * need.vector, uniform := n * need.uniform, ls := n * need.ls }
  let per := ((List.range 64).filter fun n => (times (n + 1)).within 64 512 16384 524288 && s.quotaOk ctx (times (n + 1))).length
  let sizes := (List.range 4).flatMap fun d =>
    (List.range 12).map fun c => if s.chipUp (4 + d) then ((s.coreClusters d).filter (· = c)).length else 0
  let crofts (e used : Nat) : Nat := if e < k.croft then 0 else (e * per - used) / k.croft
  let whole := total / k.croft
  let rest := total % k.croft
  let all := (sizes.map fun e => crofts e 0).sum
  let slots := ((s.ctx? ctx).map (·.slots)).getD 0
  let dieCap (d : Nat) : Nat := (((List.range 12).map fun c => crofts (sizes.getD (12 * d + c) 0) 0)).sum
  let plots := (List.range 4).map (s.plotsOf k)
  per ≠ 0 && total ≤ slots &&
  if k.plot then
    let caps := (List.range 4).map fun d => min 32 (dieCap d)
    if rest = 0 then (spread whole caps).any fun w => plotsReach (w.map (· * k.croft)) plots
    else (List.range 48).any fun j =>
      let e := sizes.getD j 0
      let d := j / 12
      rest ≤ e && (spread whole (caps.set d (min 32 (dieCap d - crofts e 0 + crofts e rest)))).any fun w =>
        plotsReach ((w.map (· * k.croft)).set d (w.getD d 0 * k.croft + rest)) plots
  else if rest = 0 then whole ≤ all
  else sizes.any fun e => rest ≤ e && whole ≤ all - crofts e 0 + crofts e rest
/-- Head launches that can never be placed send their queues to ERROR (R280, R319). -/
def State.rejectImpossible (s : State) : State :=
  s.queues.foldl (fun (s : State) (p : Nat × Queue) => match p.2.entries with
    | e :: _ => match e.launch.bind (tblGet? s.launches) with
      | some x =>
        if (p.2.st = .opened || p.2.st = .paused) && x.kcb.coop && x.next = 0 && !s.couldHold x.ctx x.kcb x.g x.total then s.failEntry p.1 e.id 3
        else s
      | none => s
    | [] => s) s
/-- The queue of a launch that has been placed is chosen, and a head launch that is wholly started leaves (R320, R321). -/
def State.afterPlacing (s : State) (n : Nat) (o : Offer) (first : Bool) : State :=
  let cls := s.effClass n
  let s := { s with lastChosen := tblSet s.lastChosen cls n }
  let q := s.queue n
  let s := s.setQueue n { q with waitingSince := none, waited := 0, lastStart := if first then some s.gtime.toNat else q.lastStart }
  match o with
  | .head l | .task l =>
    if (s.queue n).entries.any (fun e => e.launch = some l) && (tblGet? s.launches l).any fun x => x.next = x.total then s.popHead n else s
  | .rebuild l => { s with launches := tblMod s.launches l fun (x : Launch) => { x with rebuild := false } }
  | .returned .. => s
/-- A launch has no group started. -/
def State.unstarted (s : State) (l : Nat) : Bool := (tblGet? s.launches l).any fun x => x.next = 0
/-- What a queue that is chosen places: its offer, the packet of a head launch read once more before its first group starts
(R316). `none` where the read waits for a hand-over or the queue has gone to ERROR. -/
def State.dispatch (s : State) (n : Nat) : Option Offer × State :=
  match s.offer n, (s.queue n).entries with
  | some o, e :: _ =>
    let head := match o with | .head l | .task l => e.launch = some l && s.unstarted l | _ => false
    if !head then (some o, s)
    else match s.fresh n e false with
    | .held => (none, s)
    | .bad s => (none, s)
    | .got _ _ s => let s := s.rejectImpossible; (s.offer n, s)
  | o, _ => (o, s)
/-- GROUP_PLACEMENT (R260-R263, R280, R316, R321, R406). -/
def execGroupPlacement (q : Nat) (where_ : Placement) (s : State) : Host.Outcome State Fault Refusal :=
  let s := s.rejectImpossible
  if !s.chosen q then .next s
  else match s.dispatch q with
  | (none, s) => .next s
  | (some o, s) =>
    let first := match o with | .head l => s.unstarted l | _ => false
    match s.placeOffer o where_ with
    | none => .next s
    | some s' => .next (s'.endAside.afterPlacing q o first)

end Sys2Proof.Machine
end

