-- ==== Sys2Proof/Machine/Plots.lean ====
section
/-!
DEFINITION. Streams, assembly, the queue of station M and what its commands do (R213-R240), and their events.
-/
namespace Sys2Proof.Machine

/-- Signals of a station other than V (R82): an overflow stops the station and is taken by every drill; the flag tells of
it. `station` counts I, V, M, O from 0. -/
def State.signalStation (s : State) (gid station : Nat) (tk : BitVec 4) : State × Bool :=
  match s.group? gid with
  | none => (s, false)
  | some g =>
    if tk = 0 || g.st = .lost || g.st = .done then (s, false)
    else
      let (tok, ovf) := signalTokens g.tok station tk
      let s := s.setGroup gid { g with tok := tok }
      (if ovf then s.trapGroup gid 0x16 0 (station + 1) else s, ovf)

/-- A choice of the free storage of a plot (R209): zero, or a value that the context left. -/
def oneOf {α : Type} (t key : Nat) (zero : α) (l : List α) : α := ((zero :: l)[Config.freeNat t key % (l.length + 1)]?).getD zero
/-- The number of a line of a slot. -/
def lineKey (side slot line : Nat) : Nat := (side * 16 + slot) * 1024 + line
/-- The number of an accumulator element. -/
def accKey (bank row col : Nat) : Nat := (bank * 512 + row) * 1024 + col
/-- A line lies only in segments that another context held last (R205, R209): west lines go with segment rows, north lines with segment
columns. -/
def PlotFill.zeroLine (f : PlotFill) (key : Nat) : Bool :=
  if key < 16 * 1024 then f.zeroRows.contains (key % 1024 / 128) else f.zeroCols.contains (key % 1024 / 256)
/-- A line of a slot. -/
def PlotStore.line (t : PlotStore) (key : Nat) : BitVec 2048 :=
  match tblGet? t.lines key, t.fill with
  | some l, _ => l
  | none, some f => if f.zeroLine key then 0 else oneOf f.tick key 0 f.lines
  | none, none => 0
/-- A side-band word. -/
def PlotStore.side (t : PlotStore) (key : Nat) : BitVec 16 :=
  match tblGet? t.sides key, t.fill with
  | some l, _ => l
  | none, some f => if f.zeroLine key then 0 else oneOf f.tick (2 ^ 20 + key) 0 f.sides
  | none, none => 0
/-- An accumulator element. -/
def PlotStore.elem (t : PlotStore) (key : Nat) : Word :=
  match tblGet? t.acc key, t.fill with
  | some l, _ => l
  | none, some f => if f.zeroSegs.contains (key / 1024 % 512 / 128, key % 1024 / 256) then 0 else oneOf f.tick (2 ^ 21 + key) 0 f.accs
  | none, none => 0
/-- Writes a line, a side-band word, an element. -/
def PlotStore.putLine (t : PlotStore) (key : Nat) (v : BitVec 2048) : PlotStore := { t with lines := tblSet t.lines key v }
def PlotStore.putSide (t : PlotStore) (key : Nat) (v : BitVec 16) : PlotStore := { t with sides := tblSet t.sides key v }
def PlotStore.putAcc (t : PlotStore) (key : Nat) (v : Word) : PlotStore := { t with acc := tblSet t.acc key v }
/-- Raises plot flags (R60, R222). -/
def Plot.raise (p : Plot) (f : BitVec 5) : Plot :=
  { p with nv := p.nv || f.getLsbD 4, of := p.of || f.getLsbD 2, uf := p.uf || f.getLsbD 1, nx := p.nx || f.getLsbD 0 }

/-- A command of M enters the plot's queue (R212). -/
def State.enterQueue (s : State) (key : Nat) (r : PlotRun) : State :=
  match s.plot? key with
  | none => s
  | some p => s.setPlot key { p with queue := p.queue ++ [r], st := if p.st = .reserved then .running else p.st }
/-- A command with its copies goes to the plot of a group, or is discarded: without a reservation, or at a FAULTED plot. -/
def State.toPlot (s : State) (gid : Nat) (r : PlotRun) : State :=
  match (s.group? gid).bind (·.plot) with
  | none => s.plotDone gid r.by_ true
  | some key => match s.plot? key with
    | none => s.plotDone gid r.by_ true
    | some p => if p.st = .faulted then s.plotDone gid r.by_ true else s.enterQueue key r
/-- The queue of a group's plot takes another command (R216). -/
def State.plotRoom (s : State) (g : Group) : Bool :=
  match s.plotOf g with
  | some p => p.queue.length < 64
  | none => true
/-- Heads of streams that a drill alone has issued, by drill and stamp. -/
def Group.readyHeads (g : Group) : List (Nat × Nat) :=
  g.streams.filterMap fun p => match p.2 with | c :: _ => if c.collective then none else some (p.1, c.seq) | [] => none
/-- The order of the ready heads, with those that have become ready since at its end (R214). -/
def Group.noteHeads (g : Group) : Group :=
  let now := g.readyHeads
  let old := g.heads.filter now.contains
  { g with heads := old ++ now.filter fun q => !old.contains q }
/-- The head that became ready first enters the queue, where it has room (R214). -/
def State.flowOne (s : State) (gid : Nat) : State :=
  match (s.group? gid).map Group.noteHeads with
  | none => s
  | some g =>
    let s := s.setGroup gid g
    if !s.plotRoom g then s
    else match g.heads with
    | [] => s
    | (i, _) :: later => match tblGet g.streams i [] with
      | [] => s
      | c :: rest =>
        let s := s.setGroup gid { g with streams := tblSet g.streams i rest, heads := later }
        s.toPlot gid { cmd := c.cmd, rows := [], nf := c.nf, tk0 := c.tk0, tk1 := c.tk1, by_ := [(c.drill, c.seq)] }
/-- Everything that can moves from the streams into the queue. -/
def State.flow (s : State) (gid : Nat) : State :=
  let n := ((s.group? gid).map fun g => (g.streams.map (·.2.length)).sum).getD 0
  (List.range (n + 1)).foldl (fun s _ => s.flowOne gid) s
/-- A plot entry leaves its drill's store queue and joins the drill's stream (R214). -/
def State.joinStream (s : State) (gid : Nat) (c : PlotCopy) : State :=
  (s.modGroup gid fun g => { g with streams := tblSet g.streams c.drill (tblGet g.streams c.drill [] ++ [c]) }).flow gid

/-- A drill of a group still has a collective copy in its stream or in its store queue. -/
def State.owesCopy (s : State) (gid : Nat) (g : Group) (j : Nat) : Bool :=
  (tblGet g.streams j []).any (·.collective) ||
  (match s.drillOf gid g j with
  | some (_, d) => d.storeQueue.any fun e => match e.kind with | .plot c => c.collective | _ => false
  | none => false)
/-- The drills whose copies the next collective needs (R213). -/
def State.needed (s : State) (gid : Nat) (g : Group) : List Nat :=
  (List.range g.count).filter fun j => !s.drillDone gid g j || s.owesCopy gid g j
/-- The copies agree (R215). -/
def agree (a b : PlotCopy) : Bool :=
  a.cmd = b.cmd && a.sig = b.sig && a.vals = b.vals && a.nf = b.nf
/-- Rows that copies enable (R214). -/
def rowsOf (g : Group) (cs : List PlotCopy) : List Nat :=
  (List.range g.g).filter fun i => cs.any fun c => c.drill = i / 32 && inMask c.cm (i % 32)

/-- PLOT.RSV's choice (R220, R222): the plot, or LAST's value. -/
def State.rsvChoice (s : State) (g : Group) (w : Word) : Except Nat Nat :=
  let sides := plotSides g.die
  let linkOk (l : Nat) : Bool := s.linkUp l
  let fits (p : Plot) : Bool := p.rows ≤ g.g
  if g.plot.isSome then .error 4
  else if w.getLsbD 8 then
    match sides.findSome? fun q => (s.plots.find? fun p => p.2.die = q.1 && p.2.st = .carved && p.2.ctx = g.ctx && fits p.2 && linkOk q.2) with
    | some p => .ok p.1
    | none => .error 1
  else
    let side := sides.getD (field w 4 1) (0, 0)
    let key := plotKey side.1 (field w 0 4)
    match s.plot? key with
    | none => .error 1
    | some p =>
      if p.ctx ≠ g.ctx then .error 6
      else if p.st ≠ .carved then .error 2
      else if !linkOk side.2 then .error 5
      else if !fits p then .error 3
      else .ok key
/-- The result of an assembled PLOT.RSV reaches the operations of its drills. -/
def State.rsvAnswer (s : State) (gid : Nat) (by_ : List (Nat × Nat)) (ok : Bool) : State :=
  match s.group? gid with
  | none => s
  | some g => by_.foldl (fun s b => match s.drillOf gid g b.1 with
      | some (k, _) => s.modDrill k fun d => { d with
          ops := d.ops.map fun o => if o.seq = b.2 then { o with kind := .plotRsv (some ok) } else o }
      | none => s) s
/-- An assembled PLOT.RSV (R220); it completes in each drill when its result lands. -/
def State.reserve_ (s : State) (gid : Nat) (g : Group) (w : Word) (by_ : List (Nat × Nat)) : State :=
  match s.rsvChoice g w with
  | .error n => (s.modGroup gid fun g => { g with last := n }).rsvAnswer gid by_ false
  | .ok key =>
    let side := if (s.plot? key).map (·.die) = some ((g.die + 3) % 4) then 0 else 1
    let s := { s with plots := tblMod s.plots key fun p => { p with st := .reserved, gid := some gid, side := side, claimed := [] } }
    (s.modGroup gid fun g => { g with last := 0, plot := some key }).rsvAnswer gid by_ true

/-- PLOT.MERGE as it acts (R224): the cause of PLOT_REFUSED, or the state. -/
def State.merge_ (s : State) (g : Group) (key : Nat) (p : Plot) (q : Nat) : Except Nat State :=
  let qkey := plotKey p.die q
  if p.st ≠ .reserved || !p.quiet then .error 1
  else match s.plot? qkey with
  | none => .error 2
  | some o =>
    let r := 2 ^ p.logR
    let c := 2 ^ p.logC
    let wide := o.row0 = p.row0 && (o.col0 = p.col0 + c || p.col0 = o.col0 + c)
    let tall := o.col0 = p.col0 && (o.row0 = p.row0 + r || p.row0 = o.row0 + r)
    let row0 := min p.row0 o.row0
    let col0 := min p.col0 o.col0
    if qkey = key || o.st ≠ .carved || o.ctx ≠ p.ctx || o.logR ≠ p.logR || o.logC ≠ p.logC || !(wide || tall) then .error 2
    else if (wide && (p.logC ≥ 2 || col0 % (2 * c) ≠ 0)) || (tall && (p.logR ≥ 2 || row0 % (2 * r) ≠ 0)) then .error 3
    else if tall && 256 * r > g.g then .error 4
    else
      let new := { p.zeroed with row0 := row0, col0 := col0, claimed := []
                                 logR := if tall then p.logR + 1 else p.logR, logC := if wide then p.logC + 1 else p.logC }
      .ok ({ s with plots := tblErase s.plots qkey }.setPlot key new)
/-- PLOT.SPLIT as it acts (R224). -/
def State.split_ (s : State) (key : Nat) (p : Plot) (axis n : Nat) : Except Nat State :=
  let nkey := plotKey p.die n
  if p.st ≠ .reserved || !p.quiet then .error 1
  else if (if axis = 0 then p.logR else p.logC) = 0 then .error 3
  else if (s.plot? nkey).isSome then .error 5
  else
    let logR := if axis = 0 then p.logR - 1 else p.logR
    let logC := if axis = 0 then p.logC else p.logC - 1
    let near := { p.zeroed with logR := logR, logC := logC, claimed := [] }
    let far : Plot := { die := p.die, num := n, logR := logR, logC := logC, ctx := p.ctx
                        row0 := if axis = 0 then p.row0 + 2 ^ logR else p.row0, col0 := if axis = 0 then p.col0 else p.col0 + 2 ^ logC }
    .ok ((s.setPlot key near).setPlot nkey far)
/-- A reshape with its outcome: PLOT_REFUSED (R218) where it is refused. -/
def State.reshape (s : State) (gid : Nat) (r : Except Nat State) : State :=
  match r with
  | .ok s => s
  | .error n => s.trapGroup gid 0x1F n 0

/-- What an assembled command does (R212, R214): the PLOT forms act, the others go to M. -/
def State.assembled (s : State) (gid : Nat) (g : Group) (c : PlotCopy) (cs : List PlotCopy) : State :=
  let by_ := cs.map fun c => (c.drill, c.seq)
  match c.cmd with
  | .rsv w => s.reserve_ gid g w by_
  | .rel => (s.plotDone gid by_ false).plotRelease gid
  | .merge q => match g.plot, s.plotOf g with
    | some key, some p => (s.plotDone gid by_ false).reshape gid ((s.plotDone gid by_ false).merge_ g key p q)
    | _, _ => s.plotDone gid by_ false
  | .split axis n => match g.plot, s.plotOf g with
    | some key, some p => (s.plotDone gid by_ false).reshape gid ((s.plotDone gid by_ false).split_ key p axis n)
    | _, _ => s.plotDone gid by_ false
  | cmd => s.toPlot gid { cmd := cmd, rows := rowsOf g cs, nf := c.nf, tk0 := c.tk0, tk1 := c.tk1, by_ := by_ }
/-- A command of M, which waits for room in the queue. -/
def PlotCmd.isM : PlotCmd → Bool
  | .rsv _ | .rel | .merge _ | .split .. => false
  | _ => true
/-- The copies of the next collective, when every drill that it needs has its copy first in its stream and M has room. -/
def State.nextCollective (s : State) (gid : Nat) (g : Group) : List PlotCopy :=
  let need := s.needed gid g
  let heads := need.filterMap fun j => (tblGet g.streams j []).head?
  if heads.length ≠ need.length || !heads.all (·.collective) || ((heads.head?.any fun c => c.cmd.isM) && !s.plotRoom g) then [] else heads
/-- A command of the group's streams can be delivered. -/
def State.delivers (s : State) (gid : Nat) (g : Group) : Bool :=
  s.nextCollective gid g ≠ [] || (s.plotRoom g && g.streams.any fun p => p.2.head?.any fun c => !c.collective)
/-- COLLECTIVE_ASSEMBLY (R213-R215). -/
def execCollectiveAssembly (gid : Nat) (s : State) : Host.Outcome State Fault Refusal :=
  match s.group? gid with
  | none => .next s
  | some g =>
    let heads := s.nextCollective gid g
    match heads with
    | [] => .next s
    | c :: _ =>
        let s := s.setGroup gid { g with streams := heads.foldl (fun t q => tblSet t q.drill ((tblGet t q.drill []).drop 1)) g.streams }
        if heads.all (agree c) then .next ((s.assembled gid g c heads).flow gid)
        else
          let s := s.plotDone gid (heads.map fun c => (c.drill, c.seq)) true
          let s := match g.plot with | some key => s.plotStop key | none => s
          .next ((s.trapGroup gid 0x1E 0 0).flow gid)

/-- The completion actions of a command of M (R216): its copies complete and TK1 is sent. A signal that overflowed, TK0's or TK1's, makes
the plot FAULTED (R82). -/
def State.completeRun (s : State) (key : Nat) (gid : Option Nat) (r : PlotRun) : State :=
  match gid with
  | none => s
  | some gid =>
    let (s, ovf) := (s.plotDone gid r.by_ false).signalStation gid 2 r.tk1
    if ovf || r.ovf then s.plotError key 4 else s
/-- Commands that are done and have no unfinished command before them complete, in queue order (R216). -/
def State.finishRuns (s : State) (key : Nat) : State :=
  match s.plot? key with
  | none => s
  | some p =>
    let ready := p.flight.takeWhile (·.finished)
    let s := s.setPlot key { p with flight := p.flight.drop ready.length }
    (ready.foldl (fun s r => s.completeRun key p.gid r) s).plotIdle key

/-- An MMA that names a bank. -/
def PlotRun.mmaOf (r : PlotRun) (bank : Nat) : Bool := match r.cmd with | .mma _ _ b .. => b = bank | _ => false
/-- An AST that reads a bank. -/
def PlotRun.astOf (r : PlotRun) (bank : Nat) : Bool := match r.cmd with | .ast _ d => field (d.getD 3 0) 16 1 = bank | _ => false
/-- An MMA of the bank is in flight. -/
def Plot.busy (p : Plot) (bank : Nat) : Bool := p.flight.any fun r => !r.finished && r.mmaOf bank
/-- AZR's effect on the storage (R238). -/
def Plot.azr (p : Plot) (bank : Nat) (rows : List Nat) : Plot :=
  { p with store := (rows.filter (· < p.rows)).foldl (fun t i =>
      (List.range p.cols).foldl (fun t j => t.putAcc (accKey bank i j) 0) t) p.store }
/-- AZRs act once no MMA before them is in flight on their bank, and no AST before them has still to read it (R198, R238). -/
def Plot.doAzr (p : Plot) : List PlotRun → Plot
  | [] => p
  | r :: rest =>
    match r.cmd with
    | .azr bank =>
      if r.finished then { p with flight := p.flight ++ [r] }.doAzr rest
      else if p.flight.any fun q => !q.finished && (q.mmaOf bank || q.astOf bank) then { p with flight := p.flight ++ [r] }.doAzr rest
      else ({ p.azr bank r.rows with flight := p.flight ++ [{ r with finished := true }] }).doAzr rest
    | _ => { p with flight := p.flight ++ [r] }.doAzr rest
/-- Progress of a plot after a change: AZRs act, what is done completes, and the streams flow. -/
def State.progress (s : State) (key : Nat) : State :=
  match s.plot? key with
  | none => s
  | some p =>
    let s := (s.setPlot key ({ p with flight := [] }.doAzr p.flight)).finishRuns key
    match p.gid with
    | some gid => s.flow gid
    | none => s
/-- A run of the plot in flight is done. -/
def Plot.finish (p : Plot) (by_ : List (Nat × Nat)) : Plot :=
  { p with flight := p.flight.map fun r => if r.by_ = by_ then { r with finished := true } else r }

/-- Slots that a range names. -/
def slotsOf (side first n : Nat) : List Nat := (List.range n).map fun j => side * 16 + first + j
/-- An MMA in flight that reads one of the slots (R226). -/
def Plot.reading (p : Plot) (slots : List Nat) : Bool :=
  p.flight.any fun r => !r.finished && (match r.cmd with | .mma _ _ _ n w .. => slots.contains (16 + n) || slots.contains w | _ => false)
/-- M holds the command at the head of its queue (R216, R226, R231). -/
def Plot.holds (p : Plot) (r : PlotRun) : Bool :=
  (match r.cmd with
  | .bedClaim side first n | .bedZero side first n => p.reading (slotsOf side first n)
  | .bedScl side slot _ => p.reading (slotsOf side slot 1)
  | .opf => p.posted.any fun w => r.by_.any (·.1 = w.drill)
  | .drain => !p.flight.isEmpty || !p.posted.isEmpty
  | _ => false) ||
  p.flight.any fun q => q.ovf || (!q.finished && (match q.cmd with | .bedZero .. | .bedScl .. => true | .mma .. => !q.started | _ => false)) || q.fault.isSome

/-- An accumulator element as a lane reads it (R198, R233): free while an MMA of the bank is in flight; either value where a
posted write has not been written. -/
def State.laneAcc (p : Plot) (t bank row col : Nat) : Word :=
  let key := accKey bank row col
  let pend := p.posted.filterMap fun w => match w.cmd with
    | .awr b c v lanes => if b = bank && c = col then (lanes.find? fun q => q.2 = row).map fun q => lane v q.1 else none
    | _ => none
  if p.busy bank then Config.freeWord t key
  else oneOf t key (p.store.elem key) pend
/-- The registers of an ARD in a drill (R233), and the flags of its conversions. -/
def ardValues (p : Plot) (t : Nat) (g : Group) (idx cols : Nat) (bf : Bool) (bank col0 : Nat) (act : Mask) : List Lanes × List (Nat × BitVec 5) :=
  let real := realLanes g.g idx
  let at_ (i c : Nat) : Word :=
    if inMask real i && 32 * idx + i < p.rows then State.laneAcc p t bank (32 * idx + i) (col0 + c) else 0
  let conv (i c : Nat) : Nat × BitVec 5 := if c < cols then fpToFp fmtF32 fmtBF16 .rne false (at_ i c).toNat else (0, 0)
  if bf then
    ((List.range ((cols + 1) / 2)).map fun k => lanesOf fun i => BitVec.ofNat 32 ((conv i (2 * k)).1 + 65536 * (conv i (2 * k + 1)).1),
     (maskLanes act).map fun i => (i, (List.range cols).foldl (fun f c => f ||| (conv i c).2) 0))
  else ((List.range cols).map fun c => lanesOf fun i => at_ i c, [])
/-- The values of an ARD reach its operation. -/
def State.ardAnswer (s : State) (gid : Nat) (p : Plot) (r : PlotRun) (cols : Nat) (bf : Bool) (bank col0 : Nat) : State :=
  match s.group? gid with
  | none => s
  | some g => r.by_.foldl (fun s b => match s.drillOf gid g b.1 with
      | some (k, _) =>
        let (t, s) := s.free
        s.modDrill k fun d => { d with ops := d.ops.map fun o =>
          if o.seq = b.2 then { o with kind := .ard cols bf o.nf (some (ardValues p t g b.1 cols bf bank col0 o.mask)) } else o }
      | none => s) s

/-- The lines that a BED.LDV writes, with the lane of each (R227). -/
def ldvLines (p : Plot) (side line0 : Nat) (lanes : List (Nat × Nat)) : List (Nat × Nat) :=
  (lanes.map fun q => (q.1, line0 + q.2)).filter fun q => q.2 < slotLines p side
/-- What a posted write touches that an MMA reads or writes (R198). -/
def touchesOf (p : Plot) (c : PlotCmd) (bank north west : Nat) : List Touch :=
  match c with
  | .bedLdv _ side slot line0 _ _ lanes =>
    if slot = (if side = 0 then west else north) then (ldvLines p side line0 lanes).map fun q => .line side q.2 else []
  | .awr b col _ lanes => if b = bank then lanes.map fun q => .elem q.2 col else []
  | _ => []
/-- The effect of a command at dequeue (R216, R225-R238): the error, or the plot with the command in flight. -/
def Plot.act (p : Plot) (r : PlotRun) : Except Nat Plot :=
  let put (p : Plot) (r : PlotRun) : Plot := { p with flight := p.flight ++ [r] }
  let done (p : Plot) : Plot := put p { r with finished := true }
  match r.cmd with
  | .bedClaim side first n =>
    let l := slotsOf side first n
    if l.any p.claimed.contains then .error 1 else .ok (done { p with claimed := p.claimed ++ l })
  | .bedRel side first n =>
    let l := slotsOf side first n
    if l.any (fun x => !p.claimed.contains x) then .error 1 else .ok (done { p with claimed := p.claimed.filter fun x => !l.contains x })
  | .bedLdv _ side slot .. =>
    if !p.claimed.contains (side * 16 + slot) then .error 1
    else .ok (put { p with posted := p.posted ++ r.by_.map fun b => { drill := b.1, seq := b.2, cmd := r.cmd } } r)
  | .awr bank .. =>
    let mark (q : PlotRun) : PlotRun := match q.cmd with
      | .mma _ _ b n w .. => if q.finished then q else { q with touched := q.touched ++ touchesOf p r.cmd b n w }
      | _ => q
    .ok (put { p with posted := p.posted ++ r.by_.map fun b => { drill := b.1, seq := b.2, cmd := r.cmd, early := p.busy bank }
                      flight := p.flight.map mark } r)
  | .mma .. => .ok (put p r)
  | .ard .. => if p.poisoned then .error 2 else .ok (put p r)
  | .opf | .drain => .ok (done p)
  | .rsv _ | .rel | .merge _ | .split .. => .ok (done p)
  | .ast .. => if p.poisoned then .error 2 else .ok (put p r)
  | .bedZero .. | .bedScl .. | .azr _ => .ok (put p r)
/-- PLOT_COMMAND_DEQUEUE (R216). -/
def execPlotCommandDequeue (plot : Nat) (s : State) : Host.Outcome State Fault Refusal :=
  match s.plot? plot with
  | none => .next s
  | some p => match p.queue with
    | [] => .next s
    | r :: rest =>
      let tok := ((p.gid.bind s.group?).map (·.tok)).getD 0
      if s.seqHeld || p.st = .faulted || p.holds r || (p.gid.isSome && !tokensReady tok 2 r.tk0) then .next s
      else
        let gid := p.gid.getD 0
        let s := s.setPlot plot { p with queue := rest }
        let s := if p.gid.isSome then s.modGroup gid fun g => { g with tok := takeTokens g.tok 2 r.tk0 } else s
        let (s, ovf) := if p.gid.isSome then s.signalStation gid 2 (r.tk0 &&& 3) else (s, false)
        match { p with queue := rest }.act { r with ovf := ovf } with
        | .error n => .next ((s.plotDone gid r.by_ true).plotError plot n)
        | .ok p' =>
          let s := s.setPlot plot p'
          let s := match r.cmd with
            | .ard _ cols bf bank col0 => s.ardAnswer gid p r cols bf bank col0
            | _ => s
          .next (s.progress plot)

/-- The occupancy of an MMA (R217). -/
def occupancy : MmaFn → Nat
  | .mx6 => 86 | .mx4 => 32 | _ => 128
/-- Changes the first run in flight that satisfies a condition. -/
def modFirst (q : PlotRun → Bool) (f : PlotRun → PlotRun) : List PlotRun → List PlotRun
  | [] => []
  | r :: rest => if q r then f r :: rest else r :: modFirst q f rest
/-- The minimum gap between starts (R210). -/
def State.gap (s : State) (p : Plot) : Nat := field (s.reg (dieReg (8 + p.die) (0x10000 + 0x40 * p.num))) 0 16
/-- MMA_START (R216, R230). -/
def execMmaStart (plot : Nat) (s : State) : Host.Outcome State Fault Refusal :=
  match s.plot? plot with
  | none => .next s
  | some p =>
    let waits (r : PlotRun) : Bool := !r.started && (match r.cmd with | .mma .. => true | _ => false)
    match p.flight.find? waits with
    | some r => match r.cmd with
      | .mma f _ bank north west .. =>
        let ready := match p.sinceMma with | some (t, n) => max t (s.gap p) ≤ n | none => true
        if s.seqHeld || !ready then .next s
        else if p.claimed.contains west || p.claimed.contains (16 + north) then .next (s.plotError plot 1)
        else if p.poisoned then .next (s.plotError plot 2)
        else
          let early (w : Posted) : Bool := touchesOf p w.cmd bank north west ≠ []
          let go (r : PlotRun) : PlotRun := { r with started := true, touched := r.touched ++ p.posted.flatMap fun w => touchesOf p w.cmd bank north west }
          .next (s.setPlot plot { p with flight := modFirst waits go p.flight, sinceMma := some (occupancy f, 0)
                                         posted := p.posted.map fun w => if early w then { w with early := true } else w })
      | _ => .next s
    | none => .next s

/-- The 128 elements of a line as integers, for the MX forms, and as encodings, for the FP forms (R206). -/
def lineInts (f : MmaFn) (l : BitVec 2048) : List Int :=
  let w := match f with | .mx6 => 6 | .mx4 => 4 | _ => 8
  (List.range 128).map fun k => signedField (l.toNat / 2 ^ (w * k)) w
def lineCodes (f : MmaFn) (l : BitVec 2048) : List Nat :=
  let w := match f with | .bf16 | .f16 => 16 | _ => 8
  (List.range 128).map fun k => l.toNat / 2 ^ (w * k) % 2 ^ w
/-- The format of an FP form. -/
def mmaFmt : MmaFn → FpFmt
  | .e4m3 => fmtE4M3 | .e5m2 => fmtE5M2 | .bf16 => fmtBF16 | _ => fmtF16
/-- The part of a list from i on, n elements. -/
def part {α : Type} (l : List α) (i n : Nat) : List α := (l.drop i).take n
/-- One element of an MMA (R65, R230): four blocks, in order, over the accumulator. -/
def mmaElem (f : MmaFn) (ovr : Bool) (ea eb : Int) (acc : Word) (a b : BitVec 2048) (da db : BitVec 16) : Nat × BitVec 5 :=
  let start : Nat × BitVec 5 := (if ovr then 0 else acc.toNat, 0)
  if f.isMx then
    let xs := lineInts f a
    let ys := lineInts f b
    (List.range 4).foldl (fun r j =>
      let sum := (((part xs (32 * j) 32).zip (part ys (32 * j) 32)).map fun p => p.1 * p.2).sum
      let q := mxStep r.1 (field da (4 * j) 4) (field db (4 * j) 4) ea eb sum
      (q.1, r.2 ||| q.2)) start
  else
    let xs := lineCodes f a
    let ys := lineCodes f b
    (List.range 16).foldl (fun r j =>
      let q := fpGroup r.1 (mmaFmt f) (part xs (8 * j) 8) (part ys (8 * j) 8)
      (q.1, r.2 ||| q.2)) start
/-- The element is one that a lane write in the time of the MMA touched (R198). -/
def touchedAt (l : List Touch) (i j : Nat) : Bool := l.contains (.line 0 i) || l.contains (.line 1 j) || l.contains (.elem i j)
/-- An MMA's effect (R230): every enabled row of the plot; what lane writes touched is free, and so are the plot flags (R198). -/
def Plot.mma (p : Plot) (t : Nat) (r : PlotRun) (f : MmaFn) (ovr : Bool) (bank north west : Nat) (ea eb : Int) : Plot :=
  let st := p.store
  let one (q : PlotStore × BitVec 5) (i j : Nat) : PlotStore × BitVec 5 :=
    let key := accKey bank i j
    let ka := lineKey 0 west i
    let kb := lineKey 1 north j
    if touchedAt r.touched i j then (q.1.putAcc key (Config.freeWord t key), q.2)
    else
      let v := mmaElem f ovr ea eb (st.elem key) (st.line ka) (st.line kb) (st.side ka) (st.side kb)
      (q.1.putAcc key (BitVec.ofNat 32 v.1), q.2 ||| v.2)
  let (st', fl) := (r.rows.filter (· < p.rows)).foldl (fun q i => (List.range p.cols).foldl (fun q j => one q i j) q) (st, 0)
  let p := { p with store := st' }
  if r.touched ≠ [] then { p with nv := false, of := false, uf := false, nx := false }.raise ((Config.freeWord t (2 ^ 22)).setWidth 5)
  else if r.nf then p else p.raise fl
/-- A command before a run in flight that must act on a bank first (R198, R238). -/
def blocksBank (bank : Nat) (r : PlotRun) : Bool :=
  !r.finished && (match r.cmd with | .azr b => b = bank | .ast _ d => field (d.getD 3 0) 16 1 = bank | _ => false)
/-- MMA_COMPLETION (R216, R230): MMAs complete in queue order. -/
def execMmaCompletion (plot : Nat) (s : State) : Host.Outcome State Fault Refusal :=
  match s.plot? plot with
  | none => .next s
  | some p =>
    let live (r : PlotRun) : Bool := !r.finished && (match r.cmd with | .mma .. => true | _ => false)
    let before := p.flight.takeWhile fun r => !live r
    match p.flight.find? live with
    | some r => match r.cmd with
      | .mma f ovr bank north west ea eb =>
        if !r.started || before.any (blocksBank bank) then .next s
        else
          let (t, s) := s.free
          let p := p.mma t r f ovr bank north west ea eb
          .next ((s.setPlot plot { p with flight := modFirst live (fun r => { r with finished := true }) p.flight }).progress plot)
      | _ => .next s
    | none => .next s

/-- The storage after a posted write (R227, R234); one that met an MMA in flight may be lost (R198). -/
def Plot.write (p : Plot) (t : Nat) (w : Posted) : PlotStore :=
  let keep (key : Nat) : Bool := !w.early || Config.freeBool t key
  match w.cmd with
  | .bedLdv sb side slot line0 word v lanes =>
    (ldvLines p side line0 lanes).foldl (fun st q =>
      let key := lineKey side slot q.2
      if !keep key then st
      else if sb then st.putSide key ((lane v q.1).setWidth 16)
      else st.putLine key (putField (st.line key) (32 * word) 32 (lane v q.1).toNat)) p.store
  | .awr bank col v lanes =>
    (lanes.filter fun q => q.2 < p.rows).foldl (fun st q =>
      let key := accKey bank q.2 col
      if keep key then st.putAcc key (lane v q.1) else st) p.store
  | _ => p.store
/-- POSTED_BED_WRITE_DONE (R227, R234): an AST before it reads the bank first. -/
def execPostedBedWriteDone (plot idx : Nat) (s : State) : Host.Outcome State Fault Refusal :=
  match s.plot? plot with
  | none => .next s
  | some p => match p.posted[idx]? with
    | none => .next s
    | some w =>
      let mine := [(w.drill, w.seq)]
      let before := p.flight.takeWhile fun r => r.by_ ≠ mine
      let wait := match w.cmd with | .awr bank .. => before.any fun r => blocksBank bank r | _ => false
      if wait then .next s
      else
        let (t, s) := s.free
        let p := { p with store := p.write t w, posted := p.posted.eraseIdx idx }
        .next ((s.setPlot plot (p.finish mine)).progress plot)
/-- BED_ZERO_SCL_COMPLETION (R226). -/
def execBedZeroSclCompletion (plot : Nat) (s : State) : Host.Outcome State Fault Refusal :=
  match s.plot? plot with
  | none => .next s
  | some p =>
    let live (r : PlotRun) : Bool := !r.finished && (match r.cmd with | .bedZero .. | .bedScl .. => true | _ => false)
    match p.flight.find? live with
    | none => .next s
    | some r =>
      let keys (side slot : Nat) : List Nat := (List.range (slotLines p side)).map fun l => lineKey side slot l
      let store := match r.cmd with
        | .bedZero side first n => ((List.range n).flatMap fun j => keys side (first + j)).foldl (fun st key => (st.putLine key 0).putSide key 0) p.store
        | .bedScl side slot v => (keys side slot).foldl (fun st key => st.putSide key (v.setWidth 16)) p.store
        | _ => p.store
      .next ((s.setPlot plot { p with store := store, flight := modFirst live (fun r => { r with finished := true }) p.flight }).progress plot)

/-- PLOT_ECC_ERROR (R240). -/
def execPlotEccError (plot : Nat) (s : State) : Host.Outcome State Fault Refusal :=
  match s.plot? plot with
  | none => .next s
  | some p => if p.st = .carved || p.st = .faulted then .next s else .next (s.plotError plot 2)

/-- The codes of a plot's STATE (R222). -/
def plotCode : PlotState → Nat
  | .carved => 1 | .reserved => 2 | .running => 3 | .draining => 4 | .faulted => 5
/-- The flag word (R222). -/
def Plot.flagWord (p : Plot) : Word := BitVec.ofNat 32 (p.nv.toNat * 16 + p.of.toNat * 4 + p.uf.toNat * 2 + p.nx.toNat)
/-- The word of PLOT.QRY (R222), and the state after selector 2 has cleared the flags. -/
def State.plotQry (s : State) (g : Group) (sel : Nat) : Word × State :=
  match g.plot, s.plotOf g with
  | some key, some p =>
    match sel with
    | 0 => (BitVec.ofNat 32 (2 ^ 31 + plotCode p.st * 2 ^ 28 + p.side * 2 ^ 24 + p.num * 2 ^ 20 + p.logR * 2 ^ 18 + p.logC * 2 ^ 16 +
        p.row0 * 2 ^ 13 + p.col0 * 2 ^ 10 + p.queue.length * 2 ^ 3 + g.last), s)
    | 1 => (p.flagWord, s)
    | _ => (p.flagWord, s.setPlot key { p with nv := false, of := false, uf := false, nx := false })
  | _, _ => (if sel = 0 then BitVec.ofNat 32 g.last else 0, s)

end Sys2Proof.Machine
end

