-- ==== Sys2Proof/Machine/Groups.lean ====
section
/-!
DEFINITION. What ends a stash region (R178-R180), the exit of a group, plain or with a successor (R267-R271), the group record
and its restore (R272-R275, R282, R408).
-/
namespace Sys2Proof.Machine

/-- The first byte of a stash region in the group's local store (R179). -/
def Stash.base (t : Stash) : Nat := field t.word 7 12 * 128
/-- DIRTY entries of a region can be written back: their stacks are not in a hand-over. -/
def State.stashReady (s : State) (t : Stash) : Bool := t.entries.all fun e => s.gate (128 * e.2.1) ≠ .hold
/-- DIRTY entries of a region are written back and become CLEAN (R179). -/
def State.stashFlush (s : State) (t : Stash) : State :=
  t.entries.foldl (fun (s : State) e => if e.2.2 then s.cleanLine e.2.1 else s) s
/-- What local store holds under the filled entries of a region that is to be plain or is made INVALID: their contents where
they are kept; else what the entry's storage held, which no rule gives. -/
def State.stashSettle (s : State) (g : Group) (t : Stash) (keep : Bool) : State :=
  let (n, s) := s.free
  t.entries.foldl (fun (s : State) e =>
    let a := g.lsBase + t.base + 128 * e.1
    let bytes : List Byte := if keep then s.bytesAt (128 * e.2.1) 128
      else (List.range 128).map fun j => (Config.freeWord n (128 * e.1 + j)).setWidth 8
    s.lsWrite (coreKey g.die g.core) (runOf a bytes)) s
/-- STASH.UNMAP as it acts (R179). -/
def State.stashUnmap (s : State) (gid r : Nat) : State :=
  match s.group? gid with
  | none => s
  | some g => match tblGet? g.stash r with
    | none => s
    | some t => ((s.stashFlush t).stashSettle g t true).modGroup gid fun g => { g with stash := tblErase g.stash r }
/-- STASH.INV as it acts (R179): the data of a DIRTY entry, which the die's L2 alone holds, is lost. -/
def State.stashInv (s : State) (gid r : Nat) : State :=
  match s.group? gid with
  | none => s
  | some g => match tblGet? g.stash r with
    | none => s
    | some t =>
      let drop (s : State) (e : Nat × Nat × Bool) : State := if e.2.2 then s.dropLine e.2.1 else s
      let s := (t.entries.foldl drop s).stashSettle g t false
      s.modGroup gid fun g => { g with stash := tblMod g.stash r fun t => { t with entries := [] } }

/-- A drill has nothing left that acts on memory: its queue is empty and its atomics have been performed (R267, R268). -/
def Drill.quiet (d : Drill) : Bool :=
  d.storeQueue.isEmpty && d.ops.all fun o => match o.kind with
    | .atom _ _ _ _ _ _ got => got.isSome
    | _ => true
/-- Every drill of a group is quiet. -/
def State.drillsQuiet (s : State) (gid : Nat) : Bool := s.drills.all fun p => p.2.gid ≠ gid || p.2.quiet
/-- A station holds no command (R267). -/
def Station.empty (t : Station) : Bool := t.queue.isEmpty && t.run.isNone
/-- A station's commands have completed or aborted (R184); one stopped at a fault must be answered first (R356). -/
def Station.rested (t : Station) : Bool := t.empty || t.stopped = some true || (t.stopped.isSome && t.run.isNone)

/-- The plain end of a group's exit (R267 steps 5 and 6): a reservation still held is released. -/
def State.groupDone (s : State) (gid : Nat) : State :=
  match s.group? gid with
  | none => s
  | some g =>
    let s := s.plotRelease gid
    let s := { s with drills := s.drills.filter fun p => p.2.gid ≠ gid }
    let s := s.modGroup gid fun g => { g with st := .done, exitStep := 0, streams := [], exits := [] }
    State.launchStep { s with launches := tblMod s.launches g.launch fun l => { l with exited := l.exited + 1 } } g.launch
/-- Several groups end plainly. -/
def State.groupsDone (s : State) (l : List Nat) : State := l.foldl (fun s gid => s.groupDone gid) s

/-- The entry of a launch that is wholly started leaves the ring, wherever it stands (R315, R320). -/
def State.dropEntry (s : State) (n id : Nat) : State :=
  let q := s.queue n
  match q.entries with
  | [] => s
  | e :: _ =>
    if e.id = id then s.popHead n
    else
      let s' := s.setQueue n { q with entries := q.entries.filter (·.id ≠ id) }
      if q.entries.length = q.wmark + 1 then s'.queueMsi q else s'

/-- A group that goes on as a group of its successor (R270): local store, plot, positions, save slot and stations stay. -/
def Group.succeed (g : Group) (l croft rank idx : Nat) (x : Launch) (st : GroupState) : Group :=
  let (gx, gy, gz) := groupIndex x.gx x.gy idx
  { ctx := g.ctx, launch := l, croft := croft, rank := rank, x := gx, y := gy, z := gz, g := g.g, kcb := x.kcb, die := g.die, core := g.core
    pos := g.pos, lsBase := g.lsBase, st := st, saveSlot := g.saveSlot, gsave := g.gsave, stI := g.stI, stO := g.stO, plot := g.plot }
/-- A group starts in place; its drills keep their positions and slots, and its core acquires (R199, R259). -/
def State.startInPlace (s : State) (gid : Nat) (g : Group) (code size : Nat) (arg : DWord) : State :=
  let c := coreKey g.die g.core
  let spent := s.startsOver g.ctx
  let slots := g.drillKeys.map fun k => ((s.drill? k).map (·.slot)).getD 0
  let s := ((s.disarm g.ctx).setGroup gid g).invalL1 c
  (g.drillKeys.mapIdx fun j k => (j, k)).foldl (fun (s : State) q =>
    s.setDrill q.2 (startDrill gid q.1 (slots.getD q.1 0) g (g.kcb.entry code) (startS g arg size) spent)) s
/-- The successor of a croft whose groups all wait at step 5 with one word (R270): `none` where its selection waits for a
hand-over, else whether it has started, and the state; where it has not, the croft exits plainly. A croft takes no croft of more groups than it has (log 46, DEDUCED), and the groups of a cooperative successor that it has no place for
must all be placed at once (R280). -/
def State.startSuccessor (s : State) (croft : Nat) (t : Croft) (g : Group) (w : Word) : Option (Bool × State) :=
  let n := field w 0 13
  if (s.queue n).ctx ≠ g.ctx then some (false, s)
  else match s.pickSucc n g.launch with
  | (.held, _) => none
  | (.no, s) => some (false, s)
  | (.bad, s) => some (false, s)
  | (.got e l x, s0) =>
    if (succFits g x).isSome then some (false, s0)
    else
        let s := s0
        let members := nextCroft x x.next
        let size := members.length
        if t.members.length < size then some (false, s0)
        else
          let st : GroupState := if (s.ctx? g.ctx).any fun c => c.st = .preempting then .preempting else .running
          let (id, s) := s.stamp
          let s := { s with
            crofts := tblSet (tblErase s.crofts croft) id { launch := l, members := t.members.take size }
            launches := tblMod s.launches l fun x => { x with next := x.next + size } }
          let s := (members.zip t.members).foldl (fun (s : State) q => match s.group? q.2 with
            | some g => s.startInPlace q.2 (g.succeed l id q.1.1 q.1.2 x st) x.code size x.arg
            | none => s) s
          let s := { s with launches := tblMod s.launches g.launch fun y => { y with exited := y.exited + size } }
          let s := (s.groupsDone (t.members.drop size)).launchStep g.launch
          let q := s.queue n
          let s := if x.next = 0 then s.setQueue n { q with lastStart := some s.gtime.toNat } else s
          if x.next + size = x.total then some (true, s.dropEntry n e.id)
          else if x.kcb.coop then some (match s.findWhole l x x.total with
            | some s => (true, s.endAside.dropEntry n e.id)
            | none => (false, s0))
          else some (true, s)

/-- Step 5 of a successor exit (R267, R270, R275). -/
def State.exitStep5 (s : State) (gid : Nat) (g : Group) (w : Word) : State :=
  match tblGet? s.crofts g.croft with
  | none => s.groupDone gid
  | some t =>
    let mates := t.members.filterMap s.group?
    if mates.any (·.refuses w) then s.groupDone gid
    else if mates.all fun m => m.st = .exiting && m.exitStep = 5 then
      match s.startSuccessor g.croft t g w with
      | none => s
      | some (true, s) => s
      | some (false, s) => s.groupsDone t.members
    else if (s.ctx? g.ctx).any fun c => c.st = .preempting then s.setGroup gid { g with st := .preempting }
    else s
/-- GROUP_EXIT_SEQUENCE (R267): the next step of a group's exit, when it can be done. -/
def execGroupExitSequence (gid : Nat) (s : State) : Host.Outcome State Fault Refusal :=
  match s.group? gid with
  | none => .next s
  | some g =>
    let next (s : State) : State := s.modGroup gid fun g => { g with exitStep := g.exitStep + 1 }
    if g.st ≠ .exiting then .next s
    else match g.exitStep with
    | 1 => .next (if s.drillsQuiet gid then next s else s)
    | 2 => .next (if g.stI.empty && g.stO.empty then next s else s)
    | 3 =>
      if g.stash.all fun t => s.stashReady t.2 then .next (next ((g.stash.map (·.1)).foldl (fun s r => s.stashUnmap gid r) s)) else .next s
    | 4 =>
      if g.streams.any fun p => p.2 ≠ [] then .next s
      else match g.succWord with
        | none => .next (next (s.plotRelease gid))
        | some _ => match s.plotOf g with
          | none => .next (next s)
          | some p => .next (if p.st = .reserved && p.quiet then next s else s)
    | _ => match g.succWord with
      | none => .next (s.groupDone gid)
      | some w => .next (s.exitStep5 gid g w)

/-- Members of a croft. -/
def State.croftSize (s : State) (g : Group) : Nat := ((tblGet? s.crofts g.croft).map (·.members.length)).getD 1
/-- A drill of a group as its record shows it. -/
def State.drillAt (s : State) (gid : Nat) (g : Group) (j : Nat) : Option Drill := (s.drillOf gid g j).map (·.2)
/-- The codes of the A-kind traps that a record keeps, in the order of OTHER (R408). -/
def keptCodes : List Nat := [0x14, 0x15, 0x16, 0x1A, 0x1E, 0x1F, 0x20, 0x21, 0x25, 0x27, 0x28]
/-- The word of a drill's pending traps (R408). -/
def trapWord (l : List PendTrap) : Word :=
  match nextTrap l with
  | none => 0
  | some t =>
    let other := (keptCodes.mapIdx fun j c => if c ≠ t.code && l.any (·.code = c) then 2 ^ (20 + j) else 0).sum
    BitVec.ofNat 32 (other + t.station * 2 ^ 16 + t.sub * 2 ^ 8 + t.code)
/-- The traps of such a word. -/
def trapsIn (w : Word) : List PendTrap :=
  let first : List PendTrap := if field w 0 8 = 0 then [] else [{ code := field w 0 8, sub := field w 8 8, station := field w 16 4 }]
  first ++ (keptCodes.mapIdx fun j c => (j, c)).filterMap fun q =>
    if w.getLsbD (20 + q.1) && q.2 ≠ field w 0 8 then some { code := q.2 } else none
/-- The codes of slot states in a record (R273). -/
def slotCode : SlotState → Nat
  | .free => 0 | .claimed => 1 | .full => 2 | .held => 3
/-- A ring's 80 bytes (R273). -/
def ringBytes (r : Option Ring) : List Byte :=
  match r with
  | none => List.replicate 80 0
  | some r =>
    let n (x : Nat) : List Byte := wordBytes (BitVec.ofNat 32 x)
    wordBytes r.word ++ n r.base ++ n r.claim ++ n r.take ++
      (List.range 64).map fun b => BitVec.ofNat 8 (((List.range 4).map fun j => ((r.slots[4 * b + j]?).map slotCode).getD 0 * 4 ^ j).sum)
/-- A bit of every drill, as a mask. -/
def State.drillBits (s : State) (gid : Nat) (g : Group) (p : Drill → Bool) : Mask :=
  maskOf fun j => match s.drillAt gid g j with | some d => p d | none => false
/-- Barrier b's 52 bytes (R282). -/
def State.barBytes (s : State) (gid : Nat) (g : Group) (b : Nat) : List Byte :=
  let x := tblGet g.bars b {}
  [x.phase, 0, 0, 0] ++ wordBytes x.exp ++ wordBytes x.arrived ++ wordBytes (s.drillBits gid g fun d => d.barA.getLsbD b) ++
    wordBytes (s.drillBits gid g fun d => d.barS.getLsbD b) ++
    (List.range 32).map fun j => match s.drillAt gid g j with | some d => tblGet d.barT b 0 | none => 0
/-- The group record (R273, R282, R408). -/
def State.recordBytes (s : State) (gid : Nat) (g : Group) : List Byte :=
  let n (x : Nat) : List Byte := wordBytes (BitVec.ofNat 32 x)
  let named := g.exits.any (·.2.1)
  let cancelled := g.succCancel || g.exits.any fun e => !e.2.1 || some e.2.2 ≠ ((g.exits.find? (·.2.1)).map (·.2.2))
  let word := ((g.exits.find? (·.2.1)).map (·.2.2)).getD 0
  wordBytes g.tok ++ n (g.plot.isSome.toNat + 2 * named.toNat + 4 * (named && cancelled).toNat) ++
  wordBytes (s.drillBits gid g (·.isDone)) ++ wordBytes word ++ n g.x ++ n g.y ++ n g.z ++ n ((s.croftSize g - 1) * 16 + g.rank) ++
  List.replicate 32 (0 : Byte) ++
  ((List.range 4).flatMap fun r => match tblGet? g.stash r with
    | some t => toBytes t.v 8 ++ wordBytes t.word ++ n 1
    | none => List.replicate 16 0) ++
  ((List.range 16).flatMap fun r => ringBytes (tblGet? g.rings r)) ++
  ((List.range 8).flatMap fun b => s.barBytes gid g b) ++
  wordBytes (((((tblGet? s.crofts g.croft).map (·.phase)).getD 0 : BitVec 8)).setWidth 32) ++ wordBytes g.croftArr ++ wordBytes g.gridArr ++ List.replicate 84 (0 : Byte) ++
  (List.range 32).flatMap fun j => wordBytes (trapWord (match s.drillAt gid g j with | some d => if d.isDone then [] else d.pendTraps | none => []))
/-- The context fault of a group record (R273, R274, R295): the kind-2 entry names the group's core and its record. -/
def State.recordFault (s : State) (g : Group) : State :=
  let asid := ((s.ctx? g.ctx).map (·.asid)).getD 0
  let chip := coreChip (g.die * 128)
  s.ctxFault g.ctx 0x3E chip { posted := false, kind := 2, ctx := g.ctx
                               bytes := sysBytes asid g.ctx chip 2 true g.core 0 g.saveSlot 0 0 0 (toBytes g.gsave 8) }
/-- Where a group record stands: its physical address, a record that cannot be reached, or a stack in a hand-over. -/
inductive RecordAt where
  | ok (pa : Nat) (s : State) | bad | held
/-- The record's address translated in its context (R273, R274). -/
def State.recordAt (s : State) (g : Group) (acc : Access) : RecordAt :=
  match s.ctx? g.ctx with
  | none => .bad
  | some c => match s.translate 0 c g.gsave acc with
    | .error e => if e.cause = 0 then .held else .bad
    | .ok (pa, s) =>
      if classOf pa ≠ .cacheable || !s.backed pa || !s.grantOk g.ctx pa then .bad
      else if s.gate pa = .hold then .held else .ok pa s
/-- A PREEMPTING group can be saved (R180, R184, R239, R273). -/
def State.recordDue (s : State) (gid : Nat) (g : Group) : Bool :=
  g.st = .preempting && s.drills.all (fun p => p.2.gid ≠ gid || p.2.st = .done) && s.drillsQuiet gid && g.stI.rested && g.stO.rested &&
  !s.delivers gid g && (match s.plotOf g with | some p => p.rested | none => true) && g.stash.all fun t => s.stashReady t.2
/-- GROUP_RECORD_WRITE (R273, R275, R180): the record is written and the group leaves its core. -/
def execGroupRecordWrite (gid : Nat) (s : State) : Host.Outcome State Fault Refusal :=
  match s.group? gid with
  | none => .next s
  | some g =>
    if !s.recordDue gid g then .next s
    else match s.recordAt g { w := true } with
    | .held => .next s
    | .bad => .next (s.recordFault g)
    | .ok pa s =>
      let s := g.stash.foldl (fun (s : State) t => s.stashFlush t.2) s
      let s := s.ioWrite (runOf pa (s.recordBytes gid g))
      let s := (linesOf pa 2048).foldl (fun (s : State) l => s.unpoison l) s
      let done := s.drillBits gid g (·.isDone)
      let s0 := s
      let s := { s with drills := s.drills.filter fun p => p.2.gid ≠ gid }
      let lands := (g.drillKeys.mapIdx fun j k => (j, k)).filterMap fun p => (s0.drill? p.2).map fun d => (p.1, d.landUser, d.landUi)
      .next (s.modGroup gid fun g => { g with
        st := .saved, doneBefore := done, lands := lands, stash := g.stash.map fun t => (t.1, { t.2 with entries := [] }) })

/-- A ring from its 80 bytes; the flag tells that R173 and R174 allow it. An unconfigured ring has CNT 0. -/
def ringIn (n ls : Nat) (bs : List Byte) : Option Ring × Bool :=
  let w := wordIn bs 0
  let base := (wordIn bs 4).toNat
  let cnt := field w 8 8
  let code (j : Nat) : Nat := field ((bs.drop (16 + j / 4)).headD 0) (2 * (j % 4)) 2
  let state (c : Nat) : SlotState := match c with | 0 => .free | 1 => .claimed | 2 => .full | _ => .held
  if cnt = 0 then (none, field w 16 16 = 0)
  else
    (some { word := w, base := base, claim := (wordIn bs 8).toNat, take := (wordIn bs 12).toNat
            slots := (List.range (cnt + 1)).map fun j => state (code j) },
     field w 16 16 = 0 && field w 4 4 ≤ 10 && field w 0 4 = n && base % 128 = 0 && base + (cnt + 1) * 2 ^ (field w 4 4 + 6) ≤ ls &&
     (wordIn bs 8).toNat ≤ cnt && (wordIn bs 12).toNat ≤ cnt && (List.range 256).all fun j => j ≤ cnt || code j = 0)
/-- A stash region from its 16 bytes; the flag tells that R179 allows it. -/
def stashIn (n ls : Nat) (bs : List Byte) : Option Stash × Bool :=
  let w := wordIn bs 8
  let v := dwordIn bs 0
  let m := (wordIn bs 12).toNat
  if m = 0 then (none, w &&& 0x0008007C = 0)
  else (some { v := v, word := w },
        m = 1 && w &&& 0x0008007C = 0 && field w 0 2 = n && v.toNat % 128 = 0 && field w 7 12 * 128 + (field w 20 12 + 1) * 128 ≤ ls)
/-- What a record gives back to its group. -/
structure RecordIn where
  tok : BitVec 32
  flags : Word
  done : Mask
  word : Word
  stash : Tbl Stash
  rings : Tbl Ring
  bars : Tbl Bar
  barA : List Mask
  barS : List Mask
  barT : List (List Byte)
  croftArr : Mask
  gridArr : Mask
  traps : List Word
deriving DecidableEq, Repr
/-- Lists what is there, by place. -/
def present {α : Type} (l : List (Option α)) : Tbl α := (l.mapIdx fun j x => (j, x)).filterMap fun q => q.2.map fun x => (q.1, x)
/-- What a group's launch allows in its record: a cooperative launch, and whether the group is its croft's or its grid's only
one. -/
structure RecordFor where
  coop : Bool
  croftAlone : Bool
  gridAlone : Bool
deriving DecidableEq, Repr
/-- The record of a group of n drills from its bytes: `none` where R274, R282 or R408 refuses it. In no run has a drill arrived
in a phase without its A bit and T = PHASE, and no phase stays open when every drill that it expects has arrived or is DONE
(log 47, DEDUCED). -/
def recordIn (n ls : Nat) (f : RecordFor) (bs : List Byte) : Option RecordIn :=
  let w (a : Nat) : Word := wordIn bs a
  let zero (a k : Nat) : Bool := ((bs.drop a).take k).all (· = 0)
  let inside (m : Mask) : Bool := m.toNat < 2 ^ n
  let all : Mask := maskOf fun j => j < n
  let full (expected arrived : Mask) : Bool := expected &&& ~~~(arrived ||| w 8) = 0
  let open_ (alone : Bool) (m : Mask) : Bool := inside m && (!alone || m = 0 || !full all m)
  let stash := (List.range 4).map fun r => stashIn r ls ((bs.drop (64 + 16 * r)).take 16)
  let rings := (List.range 16).map fun r => ringIn r ls ((bs.drop (128 + 80 * r)).take 80)
  let g0 : List (Nat × Nat) := ((rings.filterMap (·.1)).map ringSpan) ++
    (stash.filterMap (·.1)).map fun t => (Stash.base t, 128 * (field t.word 20 12 + 1))
  let apart := (g0.mapIdx fun j p => (j, p)).all fun p => (g0.drop (p.1 + 1)).all fun q => p.2.1 + p.2.2 ≤ q.1 || q.1 + q.2 ≤ p.2.1
  let bar (b : Nat) : Bar := { phase := (bs.drop (1408 + 52 * b)).headD 0, exp := w (1408 + 52 * b + 4), arrived := w (1408 + 52 * b + 8) }
  let ts (b : Nat) : List Byte := (bs.drop (1408 + 52 * b + 20)).take 32
  let barOk (b : Nat) : Bool :=
    let x := bar b
    let aBits := w (1408 + 52 * b + 12)
    let sBits := w (1408 + 52 * b + 16)
    zero (1408 + 52 * b + 1) 3 && inside x.exp && inside x.arrived && inside aBits && inside sBits && ((ts b).drop n).all (· = 0) &&
    (x.exp = 0 || x.arrived &&& ~~~x.exp = 0) && (x.exp = 0 || x.arrived ≠ 0) && sBits &&& ~~~x.arrived = 0 &&
    (x.arrived = 0 || !full (if x.exp = 0 then all else x.exp) x.arrived) &&
    (maskLanes x.arrived).all fun j => inMask aBits j && (ts b).getD j 0 = x.phase
  let traps := (List.range 32).map fun j => w (1920 + 4 * j)
  let trapOk (j : Nat) : Bool := let t := traps.getD j 0; !t.getLsbD 31 && (field t 0 8 = 0 || keptCodes.contains (field t 0 8)) && (j < n || t = 0)
  let ok := field (w 4) 3 29 = 0 && inside (w 8) && field (w 12) 13 19 = 0 && field (w 28) 8 24 = 0 && zero 32 32 && stash.all (·.2) && rings.all (·.2) && apart &&
    (List.range 8).all barOk && zero 1825 3 && open_ f.croftAlone (w 1828) && open_ f.gridAlone (w 1832) && (f.coop || w 1832 = 0) && zero 1836 84 && (List.range 32).all trapOk
  if ok then some
    { tok := w 0, flags := w 4, done := w 8, word := w 12, stash := present (stash.map (·.1)), rings := present (rings.map (·.1))
      bars := (List.range 8).map fun b => (b, bar b), barA := (List.range 8).map fun b => w (1408 + 52 * b + 12)
      barS := (List.range 8).map fun b => w (1408 + 52 * b + 16), barT := (List.range 8).map ts
      croftArr := w 1828, gridArr := w 1832, traps := traps }
  else none

/-- Registers whose contents no rule gives when RESTVEC starts (R272, R274): free values, in the forms that the registers take. -/
def freeDrill (t : Nat) (k : Kcb) (d : Drill) : Drill :=
  let w (j : Nat) : Word := Config.freeWord t j
  let l (j : Nat) : Lanes := lanesOf fun i => w (32 * j + i)
  let dw (j : Nat) : DWord := w (2 * j) ++ w (2 * j + 1)
  let a : Nat := 2 ^ 16
  let tile (j : Nat) : Tile :=
    let sh := w (a + 4096 + j)
    let sh := if shapeOk sh then sh else 0
    let inside := (List.range 256).filter fun e => e / 16 < tileRows sh && e % 16 < tileCols sh
    let elems := inside.map fun e => (e, tileElem sh (w (a + 8192 + 256 * j + e)))
    { shape := sh, dirty := (w (a + 4112)).getLsbD j, elems := elems.filter fun p => p.2 ≠ 0 }
  { d with
    v := (List.range k.v).map fun r => (r, l r)
    s := (List.range 72).map fun r => (r, w (a + r))
    k := (List.range 7).map fun j => (j + 1, w (a + 128 + j))
    tiles := (List.range k.t).map fun j => (j, tile j)
    flg := (List.range 32).map fun i => (i, (w (a + 256 + i)).setWidth 5)
    rmode := BitVec.ofNat 3 (Config.freeNat t 0 % 5), srstate := w (a + 300), mxbase := w (a + 301) &&& 0xFFFF, mxsl := w (a + 302)
    uiEn := Config.freeBool t 0, uiAct := Config.freeBool t 1, uiPend := Config.freeNat t 1 % 256, uiPi := Config.freeBool t 2
    uiPo := Config.freeBool t 3, uivec := dw (a + 400) &&& 0xFFFFFFFFFFFFFFF8, uiepc := dw (a + 401) &&& 0xFFFFFFFFFFFFFFF8
    xl := (List.range 8).map fun j => (j, l (1024 + j))
    xp := (List.range 8).map fun j => (j, xpIn ((List.range 320).map fun b => (w (a + 16384 + 320 * j + b)).setWidth 8))
    xi := dw (a + 402) &&& 0xFFFFFFFFFFFFFFF8 }
/-- Stamps of plot commands of a drill that are still outstanding. -/
def State.plotDebt (s : State) (g : Group) (j : Nat) : List Nat :=
  let mine (l : List (Nat × Nat)) : List Nat := (l.filter (·.1 = j)).map (·.2)
  ((tblGet g.streams j []).map (·.seq)) ++ (match s.plotOf g with
    | some p => (p.queue ++ p.flight).flatMap fun r => mine r.by_
    | none => [])
/-- A drill of a restored group (R274): recreated in DONE, or at RESTVEC. -/
def State.restoreDrill (s : State) (gid : Nat) (g : Group) (r : RecordIn) (restvec : DWord) (lost : Bool) (j k : Nat) : State :=
  let (t, s) := s.free
  let bits (l : List Mask) : BitVec 8 := BitVec.ofNat 8 (((l.mapIdx fun b m => (inMask m j).toNat * 2 ^ b)).sum)
  let base : Drill :=
    { gid := gid, idx := j, slot := s.bindSlot (drillCore k), cm := presentLanes g.g j, barA := bits r.barA, barS := bits r.barS
      barT := r.barT.mapIdx fun b ts => (b, ts.getD j 0), plotOut := s.plotDebt g j
      landUser := (tblGet g.lands j (none, none)).1, landUi := (tblGet g.lands j (none, none)).2 }
  if inMask r.done j then s.setDrill k { base with st := .done }
  else
    let d := freeDrill t g.kcb { base with pendTraps := trapsIn (r.traps.getD j 0), pendOverrun := s.startsOver g.ctx }
    (s.setDrill k (if lost then d.addTrap 0x21 0 0 else d)).toVector k restvec 2
/-- A group whose record has been read goes on (R274, R275). -/
def State.restoreGroup (s : State) (gid : Nat) (g : Group) (c : Context) (r : RecordIn) : State :=
  let all := (List.range g.count).all fun j => inMask r.done j
  let named := r.flags.getLsbD 1
  let cancel := r.flags.getLsbD 2 || g.succCancel
  let g := { g with
    tok := r.tok, stash := r.stash, rings := r.rings, ringReqs := [], bars := r.bars, croftArr := r.croftArr, gridArr := r.gridArr
    exits := ((List.range g.count).filter (inMask r.done)).map fun j => (j, named, r.word)
    succCancel := cancel, doneBefore := 0
    st := if all then .exiting else .restoring, exitStep := if all && named && !cancel then 5 else 1 }
  let s := s.setGroup gid g
  (g.drillKeys.mapIdx fun j k => (j, k)).foldl (fun (s : State) q =>
    s.restoreDrill gid g r c.restvec (r.flags.getLsbD 0 && g.plot.isNone) q.1 q.2) s

/-- Where a restore puts a croft is allowed (R260-R264): a member that is saved needs its resources, the die next to its plot's
where it holds one; a member that is DONE needs room for its region; one that is on a core stays there (R262). -/
def State.restoreAllowed (s : State) (ctx : Nat) (members : List Nat) (c : CroftAt) : Bool :=
  c.die < 4 && s.chipUp (4 + c.die) && c.cores.length = members.length && c.pos.length = members.length && c.ls.length = members.length &&
  s.coresOk c.die c.cores [] &&
  (members.mapIdx fun j m => (j, m)).all fun q => match s.group? q.2 with
    | none => true
    | some g =>
      let core := c.cores.getD q.1 0
      let pos := c.pos.getD q.1 []
      let need := needOf g.kcb g.g
      let near := match s.plotOf g with
        | some p => (plotSides c.die).any (·.1 = p.die)
        | none => true
      let region := lsFree (s.lsTaken c.die core) (c.ls.getD q.1 0) need.ls
      if g.st = .saved then
        s.coreFits c.die core ctx need && near && pos.length = need.drills && pos.Nodup && pos.all (s.posFree c.die core) && region
      else pos.isEmpty && (g.st ≠ .done || region) && (!g.resident || (g.die = c.die && g.core = core))
/-- The bytes of a region of a DONE member move with its croft (R264). -/
def State.moveRegion (s : State) (g : Group) (die core base : Nat) : State :=
  let old := coreKey g.die g.core
  let bytes := (List.range g.kcb.ls).map fun j => s.lsByte old (g.lsBase + j)
  (s.lsTake (coreKey die core) base g.kcb.ls g.ctx).lsWrite (coreKey die core) (runOf base bytes)
/-- One member of a croft takes its new place. -/
def State.replaceMember (s : State) (c : CroftAt) (j gid : Nat) : State :=
  match s.group? gid with
  | none => s
  | some g =>
    let core := c.cores.getD j 0
    let base := c.ls.getD j 0
    let new := { g with die := c.die, core := core, lsBase := base }
    if g.st = .saved then
      ((s.lsTake (coreKey c.die core) base g.kcb.ls g.ctx).invalL1 (coreKey c.die core)).setGroup gid { new with pos := c.pos.getD j [] }
    else if g.st = .done then (s.moveRegion g c.die core base).setGroup gid { new with pos := [] }
    else s
/-- A saved croft is placed again (R406: a group without a reservation whose launch names a shape is provided a plot). -/
def State.replaceCroft (s : State) (ctx : Nat) (t : Croft) (c : CroftAt) : Option State :=
  let wants := t.members.filterMap fun m => (s.group? m).filter fun g => g.st = .saved && g.kcb.plot && g.plot.isNone
  let plots := match wants with
    | [] => some s
    | g :: _ => s.providePlots c.die ctx g.kcb.logR g.kcb.logC wants.length
  if !s.restoreAllowed ctx t.members c then none
  else plots.map fun s => (t.members.mapIdx fun j m => (j, m)).foldl (fun (s : State) q => s.replaceMember c q.1 q.2) s
/-- What a group's launch allows in its record. -/
def State.recordFor (s : State) (g : Group) : RecordFor :=
  { coop := g.kcb.coop, croftAlone := s.croftSize g = 1, gridAlone := (tblGet? s.launches g.launch).any fun l => l.total = 1 }
/-- The records of placed groups are read; one that is refused sends the context to FAULTED (R274). -/
def State.readRecords (s : State) (ctx : Nat) : List Nat → Option State
  | [] => some s
  | gid :: rest => match s.group? gid, s.ctx? ctx with
    | some g, some c =>
      if g.st ≠ .saved then s.readRecords ctx rest
      else match s.recordAt g { r := true } with
      | .held => none
      | .bad => some (s.recordFault g)
      | .ok pa s =>
        if (linesOf pa 2048).any fun l => s.poisoned (128 * l) then some (s.recordFault g)
        else match recordIn g.count g.kcb.ls (s.recordFor g) (s.bytesAt pa 2048) with
        | none => some (s.recordFault g)
        | some r => (s.restoreGroup gid g c r).readRecords ctx rest
    | _, _ => s.readRecords ctx rest
/-- The crofts that are restored with a croft: it alone, or those of its cooperative launch (R280). -/
def State.restoredWith (s : State) (croft : Nat) (t : Croft) : List (Nat × Croft) :=
  let waits (t : Croft) : Bool := t.members.any fun m => (s.group? m).any fun g => g.st = .saved
  let coop := (tblGet? s.launches t.launch).any fun l => l.kcb.coop
  if coop then s.crofts.filter fun p => p.2.launch = t.launch && waits p.2
  else if waits t then [(croft, t)] else []
/-- GROUP_RESTORE (R274, R280): the crofts take the places named, and then their records are read. -/
def execGroupRestore (croft : Nat) (where_ : Placement) (s : State) : Host.Outcome State Fault Refusal :=
  match tblGet? s.crofts croft with
  | none => .next s
  | some t => match (t.members.head?.bind s.group?).map (·.ctx) with
    | none => .next s
    | some ctx =>
      let l := s.restoredWith croft t
      let active := (s.ctx? ctx).any fun c => c.st = .active
      if !active || l.isEmpty || l.length ≠ where_.length then .next s
      else
        let placed := (l.zip where_).foldl (fun (r : Option State) q => r.bind fun s => s.replaceCroft ctx q.1.2 q.2) (some s)
        match placed.bind fun s => s.endAside.readRecords ctx (l.flatMap fun p => p.2.members) with
        | some s' => .next s'
        | none => .next s

end Sys2Proof.Machine
end

