-- ==== Sys2Proof/Machine/Queues.lean ====
section
/-!
DEFINITION. Queues at Headland: the packet check, the control block, the commands of QCMD (R314-R319, R332), tasks (R333), the
posts of the service queues (R309, R351, R355), shootdowns (R348, R349) and instruction-cache flushes (R336).
-/
namespace Sys2Proof.Machine

/-- The packet that Headland reads (R319, R324, R327): `none` where the read fails. A unit of 16 bytes of a hart's post is seen
as it was at the post or as it is now. -/
def State.packetSeen (s : State) (q : Queue) (e : QEntry) (seen : List Bool) : Option (List Byte) :=
  match e.pa with
  | none => none
  | some pa =>
    if e.hart.isNone then some e.snap
    else if !s.backed pa || !s.grantOk q.ctx pa || s.poisoned pa then none
    else some ((List.range 128).map fun j => if seen.getD (j / 16) false then s.byteAt (pa + j) else e.snap.getD j 0)
/-- PACKET_CHECK (R316, R319): the first entry that is not filled, once it is posted. -/
def execPacketCheck (q : Nat) (seen : List Bool) (s : State) : Host.Outcome State Fault Refusal :=
  let x := s.queue q
  match x.entries.find? fun e => !e.filled with
  | none => .next s
  | some e =>
    let a := x.entryAddr e.idx
    let held := s.gate a = .hold || (e.hart.isSome && e.pa.any fun pa => s.gate pa = .hold)
    if !e.posted || held || (x.st ≠ .opened && x.st ≠ .paused) then .next s
    else
      let got := s.packetSeen x e seen
      let bad : Bool := match got with | some bs => !(packetIn bs).ok | none => true
      let s : State := match got with
        | some bs => if classOf a = MemClass.cacheable && s.backed a then s.ioWrite (runOf a bs) else s
        | none => s
      let s := s.setQueue q { x with entries := x.entries.map fun (f : QEntry) => if f.id = e.id then { f with filled := true, bad := bad } else f }
      .next (if bad then s.queueError q 1 else s.refresh)

/-- A queue is named by an EXIT.SUCC whose group has not ended its exit (R269, R332). -/
def State.succNames (s : State) (n : Nat) : Bool :=
  s.groups.any fun p => p.2.alive && p.2.ctx = (s.queue n).ctx && !p.2.succCancel && p.2.exits.any fun e => e.2.1 && field e.2.2 0 13 = n
/-- KCB_READ (R316, R319, R332): the head's packet is checked again and its control block is read. A launch that is ready is
named by an EXIT.SUCC that names its queue. -/
def execKcbRead (q : Nat) (s : State) : Host.Outcome State Fault Refusal :=
  let x := s.queue q
  match x.entries with
  | [] => .next s
  | e :: _ =>
    if !e.filled || e.bad || e.launch.isSome || (x.st ≠ .opened && x.st ≠ .paused) then .next s
    else match s.fresh q e (x.ready && s.succNames q) with
    | .held => .next s
    | .bad s => .next s
    | .got _ x s => .next (if x.kcb.coop && !s.couldHold x.ctx x.kcb x.g x.total then s.failEntry q e.id 3 else s.refresh)

/-- A command of QCMD (R314, R317): it is accepted, or sets REF. -/
def State.qcmd (s : State) (n : Nat) (ok : Bool) (act : Queue → State) : State :=
  let q := s.queue n
  if n ≥ 8192 then s else if ok then act { q with ref := false } else s.setQueue n { q with ref := true }
/-- QCMD OPEN (R317): the ring is empty. -/
def State.qOpen (s : State) (n : Nat) : State :=
  let q := s.queue n
  let owner := match s.ctx? q.ctx with | some c => c.st ≠ .retired | none => false
  s.qcmd n (q.st = .disabled && owner && 1 ≤ q.depth && q.depth ≤ 12) fun q =>
    s.setQueue n { q with st := .opened, ecause := 0, tail := 0, entries := [], ready := false }
/-- QCMD PAUSE. -/
def State.qPause (s : State) (n : Nat) : State := s.qcmd n ((s.queue n).st = .opened) fun q => s.setQueue n { q with st := .paused }
/-- QCMD RESUME: from ERROR the failed entry is discarded. -/
def State.qResume (s : State) (n : Nat) : State :=
  let st := (s.queue n).st
  s.qcmd n (st = .paused || st = .error) fun q =>
    let s := s.setQueue n { q with st := .opened, ecause := 0 }
    if st = .error then (s.discardBad n).refresh else s
/-- QCMD DRAIN. -/
def State.qDrain (s : State) (n : Nat) : State :=
  let st := (s.queue n).st
  s.qcmd n (st = .opened || st = .paused || st = .error) fun q => (s.setQueue n q).drainQueue n
/-- QCMD_OPEN (R314, R317). -/
def execQcmdOpen (q : Nat) (s : State) : Host.Outcome State Fault Refusal := .next (s.qOpen q)
/-- QCMD_PAUSE (R314, R317). -/
def execQcmdPause (q : Nat) (s : State) : Host.Outcome State Fault Refusal := .next (s.qPause q)
/-- QCMD_RESUME (R314, R317). -/
def execQcmdResume (q : Nat) (s : State) : Host.Outcome State Fault Refusal := .next (s.qResume q)
/-- QCMD_DRAIN (R314, R317). -/
def execQcmdDrain (q : Nat) (s : State) : Host.Outcome State Fault Refusal := .next (s.qDrain q)
/-- QUEUE_DRAIN_DONE (R317): no launch of the queue has a group that lives, or a task. -/
def execQueueDrainDone (q : Nat) (s : State) : Host.Outcome State Fault Refusal :=
  let x := s.queue q
  let mine (l : Nat) : Bool := (tblGet? s.launches l).any fun y => y.queue = q
  let busy := (s.groups.any fun p => mine p.2.launch && p.2.alive) || s.launches.any fun p => p.2.queue = q && (p.2.taskAt.isSome || p.2.rebuild)
  if x.st = .draining && !busy then .next (s.setQueue q { x with st := .disabled }) else .next s

/-- The entry of a task (R333). -/
def taskEntry (x : Launch) (l : Nat) (asid : BitVec 16) (chip : Nat) : SysEntry :=
  { posted := false, kind := 3, ctx := x.ctx, launch := some l
    bytes := sysBytes asid x.ctx chip 3 false 0 0 0 (x.kcb.entry x.code) 0 0 (toBytes x.arg 8 ++ toBytes x.kcbVa 8) }
/-- TASK_POST (R316, R321, R333): the queue of the launch is chosen, and the task's entry joins the queue of its chiplet. -/
def execTaskPost (launch : Nat) (s : State) : Host.Outcome State Fault Refusal :=
  match tblGet? s.launches launch with
  | none => .next s
  | some x =>
    if s.offer x.queue ≠ some (.task launch) || !s.chosen x.queue then .next s
    else match s.dispatch x.queue with
    | (none, s) => .next s
    | (some o, s) => match o, tblGet? s.launches launch with
      | .task l, some x => match s.taskChip x with
        | some chip =>
          if l ≠ launch then .next s
          else
            let asid := ((s.ctx? x.ctx).map (·.asid)).getD 0
            let s := s.addSys chip (taskEntry x launch asid chip)
            let s := { s with launches := tblSet s.launches launch { x with taskAt := some chip, next := 1, rebuild := false } }
            .next (s.afterPlacing x.queue o !x.rebuild)
        | none => .next s
      | _, _ => .next s

/-- An entry can be posted: that of a SYS.SYSC waits for the writes before it (R199, R303), and holds back those after it. -/
def State.sysReady (s : State) (e : SysEntry) : Bool :=
  e.kind ≠ 0 || (match e.drill.bind s.drill? with
    | some d => d.gid ≠ e.gid || (d.storeQueue.isEmpty && d.writesDone s.stamp.1)
    | none => true)
/-- Replaces the first element that satisfies a condition. -/
def setFirst {α : Type} (p : α → Bool) (f : α → α) : List α → List α
  | [] => []
  | a :: r => if p a then f a :: r else a :: setFirst p f r
/-- SYSCALL_QUEUE_POST (R309): the entry with its time, the tail, the MSI. -/
def execSyscallQueuePost (chip : Nat) (s : State) : Host.Outcome State Fault Refusal :=
  let r := scqReg chip
  let base := s.reg r
  let head := field (s.reg (r + 8)) 0 10
  let tail := field (s.reg (r + 12)) 0 10
  let a := base.toNat / 2 ^ 16 * 2 ^ 16 + 64 * tail
  match (s.sysQ chip).find? (!·.posted) with
  | none => .next s
  | some e =>
    if !s.sysReady e || !base.getLsbD 0 || (tail + 1) % 1024 = head then .next s
    else if classOf a ≠ .cacheable || !s.backed a then .next (s.setReg r (putField base 0 1 0))
    else if s.gate a = .hold then .next s
    else
      let bytes := e.bytes.take 16 ++ toBytes s.gtime 8 ++ e.bytes.drop 24
      let l := setFirst (!·.posted) (fun e => { e with posted := true, entry := tail, bytes := bytes }) (s.sysQ chip)
      let s := ((s.ioWrite (runOf a bytes)).setReg (r + 12) (BitVec.ofNat 64 ((tail + 1) % 1024))).setSysQ chip l
      .next (s.msiFrom (r + 16) (r + 24))
/-- FAULT_RECORD_POST (R351, R354, R355): posted entries that are behind their records are rewritten, and the oldest QUEUED record of
a die is posted. -/
def execFaultRecordPost (chip : Nat) (s : State) : Host.Outcome State Fault Refusal :=
  let s := s.rewriteFaults chip
  match (s.recs chip).find? fun p => p.2.st = .queued with
  | some (n, _) => .next (s.postFault chip n)
  | none => .next s
/-- A write of the base register of a service queue (R309, R351): EN is kept only over a ring in backed cacheable memory. The bits
between base and EN are dropped (R5; log 99, DESIGN CHOICE). -/
def State.baseWrite (s : State) (a low : Nat) (val : DWord) : State :=
  let base := val.toNat / 2 ^ low * 2 ^ low
  let en := val.getLsbD 0 && s.ringBacked base (2 ^ low)
  s.setReg a (BitVec.ofNat 64 (base + en.toNat))
/-- Chiplets with a syscall queue: the compute dies, and 0 for the Coulter task queue (R309, R333). -/
def hasScq (chip : Nat) : Bool := chip = 0 || (4 ≤ chip && chip ≤ 11)
/-- Chiplets with a fault queue (R351). -/
def hasFq (chip : Nat) : Bool := 4 ≤ chip && chip ≤ 11
/-- SCQBASE_WRITE (R309). -/
def execScqbaseWrite (chip : Nat) (val : BitVec 64) (s : State) : Host.Outcome State Fault Refusal :=
  .next (if hasScq chip && s.chipUp chip then s.baseWrite (scqReg chip) 16 val else s)
/-- SCQHEAD_WRITE (R309). -/
def execScqheadWrite (chip : Nat) (val : BitVec 32) (s : State) : Host.Outcome State Fault Refusal :=
  .next (if hasScq chip && s.chipUp chip then s.setReg (scqReg chip + 8) (BitVec.ofNat 64 (field val 0 10)) else s)
/-- FQBASE_WRITE (R351). -/
def execFqbaseWrite (chip : Nat) (val : BitVec 64) (s : State) : Host.Outcome State Fault Refusal :=
  .next (if hasFq chip && s.chipUp chip then s.baseWrite (dieReg chip 0x40000) 17 val else s)
/-- FQHEAD_WRITE (R351). -/
def execFqheadWrite (chip : Nat) (val : BitVec 32) (s : State) : Host.Outcome State Fault Refusal :=
  .next (if hasFq chip && s.chipUp chip then s.setReg (dieReg chip 0x40008) (BitVec.ofNat 64 (field val 0 12)) else s)

/-- The registers of a shootdown (R348). -/
def tlbiva : Nat := 0xD0000
def tlbictl : Nat := 0xD0008
/-- A shootdown is in progress. -/
def State.tlbiBusy (s : State) : Bool := (s.reg tlbictl).getLsbD 31
/-- A write of TLBICTL (R348): ignored while BUSY. -/
def State.tlbictlWrite (s : State) (val : DWord) : State :=
  if s.tlbiBusy then s
  else
    s.setReg tlbictl (val &&& 0x8C00FFFF)
/-- The value that starts a shootdown of a kind for an ASID. -/
def tlbiValue (kind : Nat) (asid : BitVec 16) : DWord := BitVec.ofNat 64 (2 ^ 31 + kind * 2 ^ 26 + asid.toNat)
/-- TLBI_VA_ASID (R348): KIND 0. -/
def execTlbiVaAsid (asid : BitVec 16) (s : State) : Host.Outcome State Fault Refusal := .next (s.tlbictlWrite (tlbiValue 0 asid))
/-- TLBI_ASID (R348): KIND 1. -/
def execTlbiAsid (asid : BitVec 16) (s : State) : Host.Outcome State Fault Refusal := .next (s.tlbictlWrite (tlbiValue 1 asid))
/-- TLBI_VA_ALL (R348): KIND 2. -/
def execTlbiVaAll (asid : BitVec 16) (s : State) : Host.Outcome State Fault Refusal := .next (s.tlbictlWrite (tlbiValue 2 asid))
/-- TLBI_ALL (R348): KIND 3. -/
def execTlbiAll (asid : BitVec 16) (s : State) : Host.Outcome State Fault Refusal := .next (s.tlbictlWrite (tlbiValue 3 asid))
/-- A shootdown in progress reaches a range of an ASID, or a global one (R348). -/
def State.tlbiReaches (s : State) (global : Bool) (asid : BitVec 16) (base size : Nat) : Bool :=
  let ctl := s.reg tlbictl
  let va := (s.reg tlbiva).toNat
  let covers := base < va / 4096 * 4096 + 4096 && va / 4096 * 4096 < base + size
  match field ctl 26 2 with
  | 0 => covers && (global || asid = ctl.setWidth 16)
  | 1 => !global && asid = ctl.setWidth 16
  | 2 => covers
  | _ => true
/-- The entries that the shootdown in progress drops (R348). -/
def State.tlbiDrops (s : State) (e : TlbEntry) : Bool := s.tlbiReaches e.global e.asid e.va e.size
/-- The walk-cache entries that it drops. -/
def State.tlbiWalks (s : State) (e : WalkEntry) : Bool := s.tlbiReaches e.global e.asid e.va e.size
/-- An access to an address of a context went through an entry of a chiplet that the shootdown drops (R349). -/
def State.dropped (s : State) (chip : Nat) (asid : BitVec 16) (va : DWord) : Bool :=
  (tblGet s.tlb chip []).any fun e => e.serves asid va && s.tlbiDrops e
/-- The addresses that an outstanding operation or a store-queue entry was translated to. -/
def VarKind.addrs : VarKind → List DWord
  | .load _ l | .atom _ _ l _ _ _ none => l.map (·.va)
  | .loadUniform _ a | .mbarTest a _ => [a.va]
  | .block l => l.map (·.va)
  | _ => []
/-- The global address that an access to a stash range stands for (R178). -/
def stashTarget (g : Group) (l : LaneAddr) : Option DWord :=
  let a : Word := l.va.setWidth 32
  match if a.getLsbD 31 then none else stashAt g (field a 0 19) with
  | some (r, line) => (tblGet? g.stash r).map fun t => t.v + BitVec.ofNat 64 (128 * line)
  | none => none
def SqKind.addrs (g : Group) : SqKind → List DWord
  | .store w => w.map (·.1.va)
  | .storeLocal w => w.filterMap fun p => stashTarget g p.1
  | .atomLocal _ _ l _ _ => l.filterMap (stashTarget g)
  | .cache _ l => l.map (·.va)
  | .mbarInit a _ | .mbarArr a _ | .mbarInv a => [a.va]
  | _ => []
/-- Accesses translated through entries that the shootdown drops are still to be performed (R349); a remote store is performed
when it is acknowledged (R202). -/
def State.tlbiWaits (s : State) : Bool :=
  s.drills.any fun p => match s.group? p.2.gid with
    | none => false
    | some g => match s.ctx? g.ctx with
      | none => false
      | some c =>
        let hit (l : List DWord) : Bool := l.any (s.dropped (drillChip p.1) c.asid)
        (p.2.ops.any fun o => hit o.kind.addrs) || (p.2.storeQueue.any fun e => hit (e.kind.addrs g)) || hit (p.2.remoteStores.map (·.2)) ||
        p.2.fetch.any fun f => f.data.isNone && f.pline.isSome && hit [BitVec.ofNat 64 (128 * f.line)]
/-- An MBAR.WAIT whose translation is dropped looks up its object anew. -/
def State.mbarAfresh (s : State) : State :=
  { s with drills := tblMap s.drills fun k (d : Drill) =>
      match d.mbar, (s.group? d.gid).bind fun g => s.ctx? g.ctx with
      | some m, some c => if m.found.isNone && s.dropped (drillChip k) c.asid m.va then { d with mbar := none } else d
      | _, _ => d }
/-- SHOOTDOWN_DONE (R349). -/
def execShootdownDone (s : State) : Host.Outcome State Fault Refusal :=
  if !s.tlbiBusy || s.tlbiWaits then .next s
  else .next ((s.mbarAfresh.dropTlbs s.tlbiDrops s.tlbiWalks).setReg tlbictl (putField (s.reg tlbictl) 31 1 0))

/-- ICFLUSH.GO is written (R336). -/
def State.icflushGo (s : State) (die : Nat) : State :=
  if die < 4 && s.chipUp (4 + die) then { s with icflush := setAdd s.icflush die } else s
/-- ICFLUSH_GO (R336). -/
def execIcflushGo (die : Nat) (s : State) : Host.Outcome State Fault Refusal := .next (s.icflushGo die)
/-- ICFLUSH_DONE (R336): every line of every instruction cache of the die is gone; fetch buffers keep theirs. -/
def execIcflushDone (die : Nat) (s : State) : Host.Outcome State Fault Refusal :=
  if !s.icflush.contains die then .next s
  else .next { s with
    icflush := s.icflush.filter (· ≠ die)
    cores := tblMap s.cores fun c (x : Core) => if coreDie c = die then { x with icache := [] } else x }

end Sys2Proof.Machine
end

