-- ==== Sys2Proof/Machine/Links.lean ====
section
/-!
DEFINITION. Links (R359-R362, R370-R372), capability tables (R363-R365), isolation and redispatch (R366-R368).
-/
namespace Sys2Proof.Machine

/-- Changes a link's record. -/
def State.setLink (s : State) (n : Nat) (l : Link) : State := { s with links := tblSet s.links n l }
/-- A link enters a state: LINKSTAT first, then the MSI of an entry to DOWN, ACTIVE, DEGRADED or FALLOW (R360). -/
def State.linkTo (s : State) (n : Nat) (st : LinkState) (l : Link) : State :=
  let s := s.setLink n { l with st := st }
  match st with
  | .down | .active | .degraded | .fallow => s.msiFrom 0x30020 0x30028
  | .training | .enumerating | .resetting => s
/-- The full width of a link (R361): UCIe modules, or lanes. -/
def State.fullWidth (s : State) (n : Nat) : Nat :=
  match linkKind n with
  | some 0 => if 4 ≤ n && n ≤ 11 then 4 else 1
  | some 1 => 4
  | some 2 => 8
  | some 3 => (match field (s.reg 0x30040) 0 2 with | 0 => 16 | 1 => 8 | _ => 4)
  | some _ => min 16 (Config.portLanes n)
  | none => 0
/-- The width that good modules or lanes give: a Hedgerow port runs at 8 or 4 lanes (R361). -/
def State.usedWidth (s : State) (n w : Nat) : Nat :=
  let w := min w (s.fullWidth n)
  if linkKind n = some 2 then (if w = 8 then 8 else if w ≥ 4 then 4 else 0) else w
/-- The chiplets at the two ends of a side link: those at its ring positions (R11). -/
def sideEnds (n : Nat) : Nat × Nat := (ringChip (n - 16), ringChip ((n - 16 + 1) % 8))

/-- The side link of a reserved plot. -/
def plotLink (p : Plot) : Nat := 16 + 2 * p.die + (1 - p.side)
/-- An operation is a reduction (R165). -/
def VarOp.isRed (o : VarOp) : Bool := match o.kind with | .atom _ _ _ _ _ r _ => r | _ => false
/-- Counts lost remote writes and link errors (R360). -/
def State.countErr (s : State) (n k : Nat) : State := s.setLink n { s.link n with errcnt := min 0xFFFF ((s.link n).errcnt + k) }
/-- Remote lanes of an operation that go through a port and are not answered. -/
def State.unanswered (s : State) (n : Nat) (o : VarOp) : List LaneAddr :=
  o.remotes.filter fun l => s.remotePort l.pa = some n && (tblGet? o.answers l.lane).isNone
/-- Remote lanes of an operation are answered. -/
def VarOp.answer (o : VarOp) (l : List (Nat × Option (BitVec 128))) : VarOp :=
  { o with answers := l.foldl (fun t p => tblSet t p.1 p.2) o.answers }
/-- A Hedgerow port goes FALLOW (R370): lanes of loads and atomics that wait on it are poisoned, stores and lanes of reductions
that it has not acknowledged are lost. -/
def State.portLost (s : State) (n : Nat) : State :=
  let reds (d : Drill) := d.ops.filter fun o => o.isRed && s.unanswered n o ≠ []
  let lost := (s.drills.map fun p => (p.2.remoteStores.filter (·.1 = n)).length + (reds p.2).length).sum
  { s.countErr n lost with drills := tblMap s.drills fun _ (d : Drill) => { d with
      remoteStores := d.remoteStores.filter (·.1 ≠ n)
      ops := d.ops.map fun o => o.answer ((s.unanswered n o).map fun l => (l.lane, none)) } }
/-- What an entry to FALLOW cuts, besides a chiplet (R212, R370). -/
def State.cutLink (s : State) (n : Nat) : State :=
  match linkKind n with
  | some 1 => (s.plots.filter fun p => p.2.gid.isSome && plotLink p.2 = n).foldl (fun s p => s.plotCut p.1) s
  | some 2 => s.portLost n
  | _ => s
/-- An isolation trigger (R361, R362). -/
def State.trigger (s : State) (n cause : Nat) : State :=
  let l := s.link n
  match l.st with
  | .training => s.linkTo n .down { l with cause := cause }
  | .enumerating | .active | .degraded =>
    (s.linkTo n .fallow { l with cause := cause, isocnt := min 0xFFFF (l.isocnt + 1), isolated := false, resetAsked := false, since := s.gtime.toNat }).cutLink n
  | .down | .fallow | .resetting => s

/-- Step 5 of an isolation (R366): what is on a chiplet is lost. -/
def State.dieLost (s : State) (n : Nat) : State :=
  let here (g : Group) : Bool := g.resident && coreChip (g.die * 128) = n
  let s := (s.plots.filter fun p => 8 + p.2.die = n).foldl (fun s p => s.plotWiped p.1) s
  let cut := s.plots.filter fun p => (p.2.gid.bind s.group?).any fun g => coreChip (g.die * 128) = n && (plotSides g.die).any (·.1 = p.2.die)
  let s := cut.foldl (fun s p => s.plotCut p.1) s
  let s := (s.groups.filter fun p => here p.2).foldl (fun s p => s.loseGroup p.1) s
  let void (t : Station) : Station := { t with run := t.run.map fun r => match r.fault with
    | some m => if (tblGet? (s.recs n) m).isSome then { r with fault := none } else r
    | none => r }
  { s with
    groups := tblMap s.groups fun _ (g : Group) => { g with stI := void g.stI, stO := void g.stO }
    faultRecs := tblErase s.faultRecs n, sysEntries := tblErase s.sysEntries n, tlb := s.tlb.filter fun (p : Nat × List TlbEntry) => tlbChip p.1 ≠ n
    walks := s.walks.filter fun (p : Nat × List WalkEntry) => tlbChip p.1 ≠ n
    cores := s.cores.filter fun p => coreChip p.1 ≠ n
    clkOff := if 4 ≤ n && n < 8 then tblSet s.clkOff (n - 4) s.clkIdle else s.clkOff
    oldPlots := s.oldPlots.filter fun o => 8 + o.die ≠ n
    icflush := s.icflush.filter fun d => 4 + d ≠ n
    harts := s.harts.filter fun p => hartChip p.1 ≠ n
    imsics := s.imsics.filter fun p => hartChip (p.1 / 16) ≠ n
    regs := s.regs.filter fun p => !(dieReg n 0 ≤ p.1 && p.1 < dieReg (n + 1) 0) }
/-- The launches that lose something by an isolation (R368): launches whose groups the die holds, and tasks at its queue. -/
def State.losers (s : State) (n : Nat) : List Nat :=
  (s.launches.filter fun p => p.2.taskAt = some n || s.groups.any fun q =>
    q.2.launch = p.1 && q.2.resident && coreChip (q.2.die * 128) = n).map (·.1)
/-- Crofts of a launch that have a lost group. -/
def State.lostCrofts (s : State) (l : Nat) : List Nat :=
  (s.crofts.filter fun p => p.2.launch = l && p.2.members.any fun m => (s.group? m).any fun g => g.st = .lost).map (·.1)
/-- Croft mates of a launch's lost groups exit without a successor (R271). -/
def State.cancelMates (s : State) (l : Nat) : State :=
  (s.lostCrofts l).foldl (fun (s : State) c => ((tblGet? s.crofts c).map (·.members)).getD [] |>.foldl (fun (s : State) m => s.cancelSucc m) s) s
/-- Redispatch of one launch (R368). A task, and a cooperative launch as a whole, go by their own rows; what a DRAINING queue
discards are the indices of the others (R317). -/
def State.redispatch (s : State) (l : Nat) : State :=
  match tblGet? s.launches l with
  | none => s
  | some x =>
    let live := let q := (s.queue x.queue).st; q = .opened || q = .paused || q = .error
    let x := { x with redispatch := x.redispatch + 1 }
    let put (s : State) (x : Launch) : State := { s with launches := tblSet s.launches l x }
    if !x.kcb.restart || x.redispatch ≥ 5 then s.killCtx x.ctx
    else if x.code ≥ 3 then put s { x with taskAt := none, rebuild := true }
    else if x.kcb.coop then
      let s := (s.groups.filter fun p => p.2.launch = l).foldl (fun s p => s.loseGroup p.1) s
      let s := { s with groups := s.groups.filter fun p => p.2.launch ≠ l, crofts := s.crofts.filter fun p => p.2.launch ≠ l }
      let x := { x with next := 0, exited := 0, returned := [], rebuild := live && !x.cut, gridPhase := 0 }
      if live && !x.cut then put s x else (put s { x with cut := true }).launchStep l
    else if !live || x.cut then ((put s { x with cut := true, returned := [] }).cancelMates l).launchStep l
    else (put s { x with returned := (s.lostCrofts l).foldl setAdd x.returned }).cancelMates l
/-- The links that an isolation takes with it: the side links of a compute die, the ports of a Hedgerow die (R362, R366). -/
def linksOf (n : Nat) : List Nat :=
  let sides := (List.range 8).filter fun k => (sideEnds (16 + k)).1 = n || (sideEnds (16 + k)).2 = n
  if 12 ≤ n then (List.range 8).map fun p => 24 + 8 * (n - 12) + p else sides.map (16 + ·)
/-- Steps 1 to 6 of an isolation (R366). -/
def State.isolate (s : State) (n : Nat) : State :=
  let mine := s.owned.filter fun p => p.2.chip = n
  let s := mine.foldl (fun (s : State) p => if p.2.dirty then s.poisonLine p.1 else { s with owned := tblErase s.owned p.1 }) s
  let s := { s with
    sharers := (tblMap s.sharers fun _ (m : BitVec 16) => m &&& ~~~(1#16 <<< n)).filter fun p => p.2 ≠ 0
    grants := s.grants.filter fun g => g.1 ≠ n }
  let s := (List.range 8).foldl (fun (s : State) k => s.stackIsolated k n) s
  let s := (linksOf n).foldl (fun (s : State) j => s.trigger j 7) s
  let lost := s.losers n
  let s := s.dieLost n
  let s := lost.foldl (fun (s : State) l => s.redispatch l) s
  s.setLink n { s.link n with isolated := true }
/-- The chiplet whose isolation comes next (R367): in the order of the triggers, at one tick the lower identifier first. -/
def State.firstFallow (s : State) (n : Nat) : Bool :=
  let l := s.link n
  s.links.all fun p => linkKind p.1 ≠ some 0 || p.2.st ≠ .fallow || p.2.isolated || l.since < p.2.since || (l.since = p.2.since && n ≤ p.1)
/-- CHIPLET_ISOLATION (R361, R366): steps 1 to 6, then step 7 when HOLD is 0; a link of another kind has no steps before. -/
def execChipletIsolation (chip : Nat) (s : State) : Host.Outcome State Fault Refusal :=
  let l := s.link chip
  let done (s : State) : State :=
    let l := s.link chip
    if l.hold && !l.resetAsked then s else s.linkTo chip .resetting { l with resetAsked := false }
  if l.st ≠ .fallow || (linkKind chip).isNone then .next s
  else if linkKind chip ≠ some 0 || l.isolated then .next (done s)
  else if s.firstFallow chip then .next (done (s.isolate chip)) else .next s

/-- CMD ISOLATE (R360, R362). -/
def State.cmdIsolate (s : State) (n : Nat) : State := if (linkKind n).isSome then s.trigger n 3 else s
/-- CMD RESET (R361): a chiplet's isolation steps come first, in their turn (R367). -/
def State.cmdReset (s : State) (n : Nat) : State :=
  if (s.link n).st ≠ .fallow then s
  else if linkKind n = some 0 && !(s.link n).isolated then s.setLink n { s.link n with resetAsked := true }
  else s.linkTo n .resetting (s.link n)
/-- A root port that the bifurcation does not create (R372). -/
def State.noPort (s : State) (n : Nat) : Bool :=
  linkKind n = some 3 && (match field (s.reg 0x30040) 0 2 with | 0 => n ≠ 40 | 1 => n > 41 | _ => false)
/-- CMD RETRAIN (R361, R372). -/
def State.cmdRetrain (s : State) (n : Nat) : State :=
  if (linkKind n).isNone || (s.link n).st ≠ .down || s.noPort n then s else s.linkTo n .training (s.link n)
/-- A write of LINKCTL (R360). -/
def State.linkctlWrite (s : State) (n : Nat) (val : DWord) : State :=
  if (linkKind n).isNone then s
  else
    let s := s.setLink n { s.link n with hold := val.getLsbD 8 }
    match field val 0 3 with
    | 1 => s.cmdIsolate n
    | 2 => s.cmdReset n
    | 3 => s.cmdRetrain n
    | _ => s
/-- LINK_ISOLATE (R360-R362). -/
def execLinkIsolate (link : Nat) (s : State) : Host.Outcome State Fault Refusal := .next (s.cmdIsolate link)
/-- LINK_RESET (R360, R361). -/
def execLinkReset (link : Nat) (s : State) : Host.Outcome State Fault Refusal := .next (s.cmdReset link)
/-- LINK_RETRAIN (R360, R361, R372). -/
def execLinkRetrain (link : Nat) (s : State) : Host.Outcome State Fault Refusal := .next (s.cmdRetrain link)
/-- CHIPLET_RESET_DONE (R361): the reset of a link's far side is done. -/
def execChipletResetDone (link : Nat) (s : State) : Host.Outcome State Fault Refusal :=
  .next (if (s.link link).st = .resetting then s.linkTo link .training (s.link link) else s)

/-- One byte of the CRC-32 of IEEE 802.3, reflected (R363). -/
def crcByte (c : Word) (b : Byte) : Word :=
  (List.range 8).foldl (fun (c : Word) _ => if c.getLsbD 0 then c >>> 1 ^^^ 0xEDB88320 else c >>> 1) (c ^^^ b.setWidth 32)
/-- The CRC-32 of bytes. -/
def crc32 (bs : List Byte) : Word := ~~~(bs.foldl crcByte 0xFFFFFFFF)
/-- KIND of a chiplet's capability table (R363, R9). -/
def chipKind (n : Nat) : Nat := if n ≤ 2 then 1 else if n ≤ 7 then 2 else if n ≤ 11 then 3 else 4
/-- Bits of a mask of n bits that are set. -/
def onesIn (m : Nat) (n : Nat) : Nat := ((List.range n).filter m.testBit).length
/-- The floors of R20 on an enable mask, and its unused bits. -/
def maskOk (n : Nat) (m : Nat) : Bool :=
  match chipKind n with
  | 1 => m < 2 ^ 32 && 30 ≤ onesIn m 32
  | 2 => m < 2 ^ 96 && 88 ≤ onesIn m 96 && (List.range 12).all fun k => 6 ≤ onesIn (m / 2 ^ (8 * k)) 8
  | 3 => m < 2 ^ 64 && 60 ≤ onesIn m 64
  | _ => m < 2 ^ 8 && 7 ≤ onesIn m 8
/-- Modules that a chiplet's table must report fitted (R364). -/
def modules (n : Nat) : Nat := if 4 ≤ n && n ≤ 11 then 4 else 1
/-- Headland accepts a capability table (R363, R364). -/
def tableOk (n : Nat) (t : BitVec 2048) : Bool :=
  let at_ (lo k : Nat) : Nat := field t lo k
  let units := at_ 192 32
  let compute := 4 ≤ n && n ≤ 11
  crc32 (toBytes t 252) = BitVec.ofNat 32 (at_ 2016 32) &&
  at_ 24 8 = chipKind n && at_ 20 4 = n && at_ 0 16 = 256 && at_ 32 32 = modules n && maskOk n (at_ 64 128) &&
  units / 2 ^ 24 = 0 && (chipKind n ≠ 2 || units % 256 = 96) &&
  (!compute || (field (BitVec.ofNat 32 units) 8 4 = 4 && field (BitVec.ofNat 32 units) 12 4 = 3 && field (BitVec.ofNat 32 units) 21 3 = 2 &&
    field (BitVec.ofNat 32 units) 16 5 = (if n ≥ 8 then 16 else 0))) &&
  at_ 224 1792 = 0
/-- A stack whose neighbours were both lost is taken by the die that returns (R367). -/
def State.takeForced (s : State) (n : Nat) : State :=
  (List.range 8).foldl (fun (s : State) k => match sideOf k n with
    | some side => s.forcedTake k side
    | none => s) s
/-- Harts of a chiplet after its isolation (R383): a Coulter die starts all of its harts in M-mode at CREENTRY, unless that
is 0; Reeve harts wait for an MSI. -/
def State.restartHarts (s : State) (n : Nat) : State :=
  let entry := s.reg 0x70018
  (List.range 97).foldl (fun (s : State) (h : Nat) =>
    if hartChip h ≠ n || n = 0 then s
    else if n ≤ 2 then { s with harts := tblSet s.harts h { pc := entry, wait := if entry = 0 then .off else .running } }
    else { s with harts := tblSet s.harts h { pc := s.imageEntry, wait := .waiting } }) s
/-- A capability table is accepted (R361, R364, R365): recorded plots of the die are carved again where its mask still
enables their segments (R212). -/
def State.enumerate (s : State) (n w : Nat) (t : BitVec 2048) : State :=
  let l := s.link n
  let again := l.isolated
  let kept (p : Plot) : Bool := 8 + p.die ≠ n || p.segs.all fun g => t.getLsbD (64 + g)
  let s := { s with tables := tblSet s.tables n t, plots := s.plots.filter fun p => kept p.2 }
  let s := s.linkTo n (if w = modules n then .active else .degraded) { l with width := w, isolated := false }
  let s := s.takeForced n
  if again then s.restartHarts n else s
/-- The dies that a side link or a Hedgerow port joins. -/
def linkDies (n : Nat) : List Nat :=
  match linkKind n with
  | some 1 => [(sideEnds n).1, (sideEnds n).2]
  | some 2 => [12 + (n - 24) / 8]
  | _ => []
/-- A link that cannot train: a die at one of its ends is absent, or its port is not enabled (R363, R364). -/
def State.absent (s : State) (n : Nat) : Bool :=
  ((linkDies n).any fun c => (s.link c).st = .down) ||
  (linkKind n = some 2 && !(tblGet s.tables (12 + (n - 24) / 8) 0).getLsbD (64 + (n - 24) % 8))
/-- A capability table but for its enable mask and the CRC over it. -/
def unmasked (t : BitVec 2048) : BitVec 2048 := ((t.extractLsb' 192 1824).setWidth 2048 <<< 64) ||| (t.extractLsb' 0 64).setWidth 2048
/-- A table is the one that the chiplet presented before but for its mask (R365). -/
def State.sameChip (s : State) (n : Nat) (t : BitVec 2048) : Bool :=
  match tblGet? s.tables n with
  | some old => unmasked old = unmasked t
  | none => true
/-- The table of a chiplet that is ENUMERATING is judged (R361, R364): one that breaks the promise of R365 is rejected (log 97,
DEDUCED). -/
def State.enumerated (s : State) (n : Nat) (t : BitVec 2048) : State :=
  let l := s.link n
  if tableOk n t && s.sameChip n t then s.enumerate n l.width t else s.linkTo n .down { l with cause := 6 }
/-- Training of a link ends (R361): a chiplet is ENUMERATING until its table has been read. -/
def State.trained (s : State) (n w : Nat) (t : Option (BitVec 2048)) : State :=
  let l := s.link n
  let w := s.usedWidth n w
  if w = 0 || s.absent n then s.linkTo n .down { l with width := 0, cause := 4 }
  else if linkKind n = some 0 then
    let s := s.linkTo n .enumerating { l with width := w }
    match t with
    | some t => s.enumerated n t
    | none => s
  else s.linkTo n (if w = s.fullWidth n then .active else .degraded) { l with width := w }
/-- LINK_TRAINING_DONE (R361, R363-R365): the modules or lanes that trained, and the table that a chiplet presents, or none when it
has not been read yet: the chiplet stays ENUMERATING, and a later event brings its table. A side link or a Hedgerow port does not
end its training while a die that it joins is on its way back. -/
def execLinkTrainingDone (link width : Nat) (table : Option (BitVec 2048)) (s : State) : Host.Outcome State Fault Refusal :=
  let coming := (linkDies link).any fun c => !s.chipUp c && (s.link c).st ≠ .down
  .next (match (s.link link).st, table with
    | .training, _ => if (linkKind link).isSome && !coming then s.trained link width table else s
    | .enumerating, some t => s.enumerated link t
    | _, _ => s)

/-- LINK_LANE_FAILURE (R361): a module or lane fails and retrains out. -/
def execLinkLaneFailure (link width : Nat) (s : State) : Host.Outcome State Fault Refusal :=
  let l := s.link link
  let w := s.usedWidth link width
  if !s.linkUp link || w ≥ l.width then .next s
  else if w = 0 then .next ((s.setLink link { l with width := 0 }).trigger link 4)
  else .next (s.linkTo link .degraded { l with width := w })
/-- DIRECTORY_TIMEOUT (R362). -/
def execDirectoryTimeout (chip : Nat) (s : State) : Host.Outcome State Fault Refusal :=
  .next (if linkKind chip = some 0 then s.trigger chip 1 else s)
/-- HEARTBEAT_TIMEOUT (R362): a side link's trigger fires only while both of its dies answer. -/
def execHeartbeatTimeout (link : Nat) (s : State) : Host.Outcome State Fault Refusal :=
  let ends := sideEnds link
  .next (match linkKind link with
    | some 0 => s.trigger link 2
    | some 1 => if s.chipUp ends.1 && s.chipUp ends.2 then s.trigger link 2 else s
    | _ => s)
/-- LINK_UNCORRECTABLE_ERROR (R360, R362). -/
def execLinkUncorrectableError (link : Nat) (s : State) : Host.Outcome State Fault Refusal :=
  match (s.link link).st with
  | .training | .enumerating | .active | .degraded => .next (if (linkKind link).isSome then (s.countErr link 1).trigger link 4 else s)
  | .down | .fallow | .resetting => .next s
/-- PCIE_CONTAINMENT (R362). -/
def execPcieContainment (link : Nat) (s : State) : Host.Outcome State Fault Refusal :=
  .next (if linkKind link = some 3 then s.trigger link 5 else s)
/-- A write of PCIEBIF (R372). -/
def State.pciebif (s : State) (val : DWord) : State :=
  if (List.range 4).all fun n => (s.link (40 + n)).st = .down then
    s.setReg 0x30040 (if field val 0 2 = 3 then 0 else BitVec.ofNat 64 (field val 0 2))
  else s
/-- PCIEBIF_WRITE (R372). -/
def execPciebifWrite (val : BitVec 32) (s : State) : Host.Outcome State Fault Refusal := .next (s.pciebif (val.setWidth 64))

end Sys2Proof.Machine
end

