-- ==== Sys2Proof/Machine/Platform.lean ====
section
/-!
DEFINITION. Operating points and alarms (R373-R381), the three resets, the boot ROM (R382, R383) and attestation (R384).
-/
namespace Sys2Proof.Machine

/-- The registers of this chapter in Headland's block. -/
def opctl (rail : Nat) : Nat := 0x50000 + 8 * rail
def ocause : Nat := 0x70000
def uvctl : Nat := 0x70008
def rstcause : Nat := 0x70010
def creentry : Nat := 0x70018
/-- VOFS of a rail (R374). -/
def State.vofs (s : State) (rail : Nat) : Int := signedField (field (s.reg (opctl rail)) 8 8) 8
/-- CLKR of a rail (R374). -/
def State.clkr (s : State) (rail : Nat) : Nat := field (s.reg (opctl rail)) 0 5
/-- A rail takes an operating point: a transition begins where it differs from the present one (R374). -/
def State.setPoint (s : State) (rail clkr : Nat) (vofs : Int) : State :=
  let v : DWord := BitVec.ofNat 64 ((vofs % 256).toNat * 256 + clkr)
  if v = s.reg (opctl rail) then s else { s.setReg (opctl rail) v with railBusy := setAdd s.railBusy rail }
/-- A sensor reads 120 °C or above (R378). -/
def State.tooHot (s : State) : Bool :=
  (List.range 8).any fun d => (List.range 4).any fun k => 960 ≤ (s.reg (dieReg (4 + d) (0x50040 + 4 * k))).toNat
/-- A write of OPCTL (R374): of the management hart alone. While a sensor reads 120 °C or above, CLKR is not raised (R378; log 97,
DEDUCED). A CLKR above 18 and a VOFS out of its range have no stated effect:
what is written is then a free value of the range. -/
def State.opctlWrite (s : State) (rail : Nat) (val : DWord) (agent : Nat) : State :=
  if agent ≠ 96 || 4 ≤ rail then s
  else
    let (t, s) := s.free
    let c := field val 0 5
    let c := if c > 18 then 4 + Config.freeNat t 0 % 15 else c
    let c := if c < 4 then 4 else if c > 16 && s.reg ocause ≠ 0 then 16 else c
    let clkr := if rail ≥ 2 then 0 else if s.tooHot then min c (s.clkr rail) else c
    let v := signedField (field val 8 8) 8
    let v : Int := if v < -32 || 8 < v then Int.ofNat (Config.freeNat t 1 % 41) - 32 else v
    let under := rail = 2 && (s.reg uvctl).getLsbD 0 && !(s.reg ocause).getLsbD 5
    let t := s.setPoint rail clkr (if v < 0 && !under then 0 else v)
    if clkr > 16 then { t with nowBoost := tblSet t.nowBoost rail (s.reg (opctl rail), s.railBusy.contains rail) } else t
/-- OPCTL_WRITE (R374, R380). -/
def execOpctlWrite (rail : Nat) (val : BitVec 32) (agent : Nat) (s : State) : Host.Outcome State Fault Refusal :=
  .next (s.opctlWrite rail (val.setWidth 64) agent)
/-- CLOCK_TRANSITION_DONE (R374): BUSY falls, and issue goes on. -/
def execClockTransitionDone (rail : Nat) (s : State) : Host.Outcome State Fault Refusal :=
  .next { s with railBusy := s.railBusy.filter (· ≠ rail), uvRec := s.uvRec && rail ≠ 2 }
/-- A boost that was written in the same cycle as an alarm is 16 after all (R374): its rail goes back to what it held and takes 16. -/
def State.unboost (s : State) : State :=
  let s := s.nowBoost.foldl (fun (s : State) p =>
    let v := s.vofs p.1
    let s := s.setReg (opctl p.1) p.2.1
    let s := { s with railBusy := if p.2.2 then s.railBusy else s.railBusy.filter (· ≠ p.1) }
    s.setPoint p.1 16 v) s
  { s with nowBoost := [] }
/-- A bit of OCAUSE is set (R378, R379, R381). -/
def State.alarm (s : State) (bit : Nat) : State :=
  let s := s.unboost
  { s.setReg ocause (s.reg ocause ||| (1#64 <<< bit)) with nowAlarms := s.nowAlarms ||| (1#64 <<< bit) }
/-- The dies that have temperature sensors: the compute dies (R376). -/
def hasSensors (chip sensor : Nat) : Bool := 4 ≤ chip && chip ≤ 11 && sensor < 4
/-- A temperature sensor's register (R376). -/
def tsens (chip sensor : Nat) : Nat := dieReg chip (0x50040 + 4 * sensor)
/-- A thermal trip (R378). -/
def State.thermalTrip (s : State) : State :=
  { ((s.alarm 4).setPoint 0 4 (s.vofs 0)).setPoint 1 4 (s.vofs 1) with tripSince := none }
/-- TSENS_REFRESH (R376): the temperature that the sensor measures. A reading of 120 °C or above trips (R378), before any later
reading hides it. -/
def execTsensRefresh (chip sensor : Nat) (val : BitVec 12) (s : State) : Host.Outcome State Fault Refusal :=
  if !(hasSensors chip sensor && s.chipUp chip) then .next s
  else
    let s := if s.tripSince.isSome then s.thermalTrip else s
    let s := s.setReg (tsens chip sensor) (val.setWidth 64)
    .next (if 960 ≤ val.toNat then { s with tripSince := some s.gtime.toNat } else s)
/-- THERMAL_TRIP (R378): a sensor reads 120 °C or above. -/
def execThermalTrip (chip sensor : Nat) (s : State) : Host.Outcome State Fault Refusal :=
  .next (if hasSensors chip sensor && 960 ≤ (s.reg (tsens chip sensor)).toNat then s.thermalTrip else s)
/-- A trip that a reading asked for has come within 1 µs (R378): 100 ticks of GTIME. -/
def State.tripDue (s : State) : State :=
  match s.tripSince with
  | some t => if t + 100 ≤ s.gtime.toNat then s.thermalTrip else s
  | none => s
/-- OVER_CURRENT_ALARM (R379). -/
def execOverCurrentAlarm (rail : Nat) (s : State) : Host.Outcome State Fault Refusal :=
  if 4 ≤ rail then .next s
  else
    let s := s.alarm rail
    .next (if s.clkr rail > 16 then s.setPoint rail 16 (s.vofs rail) else s)
/-- A write of OCAUSE (R379): bits written as 1 are cleared, by the management hart or a Coulter hart in M-mode;
an alarm of the same cycle wins. -/
def State.ocauseWrite (s : State) (val : DWord) (agent : Nat) : State :=
  if agent = 96 || (agent < 64 && (s.hart agent).mode = .m) then s.setReg ocause (s.reg ocause &&& ~~~(val &&& ~~~s.nowAlarms)) else s
/-- OCAUSE_WRITE (R379). -/
def execOcauseWrite (val : BitVec 64) (agent : Nat) (s : State) : Host.Outcome State Fault Refusal := .next (s.ocauseWrite val agent)
/-- Chiplet identifiers that are assigned (R9). -/
def isChip (n : Nat) : Bool := n ≤ 2 || (4 ≤ n && n ≤ 13)
/-- ECCCE of a die (R380). -/
def eccce (chip : Nat) : Nat := dieReg chip 0x50060
/-- A write of ECCCE clears it (R380). -/
def State.eccceClear (s : State) (chip : Nat) : State := if isChip chip && s.chipUp chip then s.setReg (eccce chip) 0 else s
/-- ECCCE_WRITE (R380). -/
def execEccceWrite (chip : Nat) (s : State) : Host.Outcome State Fault Refusal := .next (s.eccceClear chip)
/-- SRAM_CORRECTED_ERROR (R380): the count saturates. -/
def execSramCorrectedError (chip : Nat) (s : State) : Host.Outcome State Fault Refusal :=
  .next (if isChip chip && s.chipUp chip then s.setReg (eccce chip) (BitVec.ofNat 64 (min 0xFFFFFFFF ((s.reg (eccce chip)).toNat + 1))) else s)

/-- The data that an uncorrectable error strikes is poisoned or marked (R381). -/
def State.strike (s : State) (w : SramSite) : State :=
  match w with
  | .line l => if classOf (128 * l) = .cacheable then s.poisonLine l else s
  | .vreg k r => s.modDrill k fun d => { d with regPoison := setAdd d.regPoison r.toNat }
  | .sreg k r => s.modDrill k fun d => { d with regPoison := setAdd d.regPoison (0x100 + r.toNat) }
  | .vsys k j => s.modDrill k fun d => { d with regPoison := setAdd d.regPoison (vMark (256 + j.toNat)) }
  | .ssys k j => s.modDrill k fun d => { d with regPoison := setAdd d.regPoison (sMark (72 + j.toNat)) }
  | .tile k t => s.modDrill k fun d => { d with regPoison := setAdd d.regPoison (tileMark t.toNat) }
  | .localStore core a => s.setCore core { s.core core with lsPoison := setAdd (s.core core).lsPoison a }
  | .bed key | .acc key => { s with plots := tblMod s.plots key fun (p : Plot) => { p with poisoned := true } }
/-- An uncorrectable SRAM error is of class UV (R381): VSR has a negative VOFS, or recovers from an error of the class. -/
def State.underVolt (s : State) : Bool := s.vofs 2 < 0 || s.uvRec
/-- UV_SRAM_ERROR (R381). -/
def execUvSramError (where_ : SramSite) (s : State) : Host.Outcome State Fault Refusal :=
  if s.underVolt then
    let t := ((s.alarm 5).strike where_).setPoint 2 0 0
    .next { t with uvRec := t.railBusy.contains 2 }
  else .next s

/-- The chiplets that links connect, in the order of their identifiers (R359). -/
def chiplets : List Nat := [1, 2, 4, 5, 6, 7, 8, 9, 10, 11, 12, 13]
/-- Every link but the PCIe root ports (R361). -/
def bootLinks : List Nat := (List.range 46).filter fun n => match linkKind n with | none => false | some k => k ≠ 3
/-- The state after a reset of every die (R382): registers at their reset values but for the reset-exempt ones where `warm`;
memory over a warm reset keeps what its homes held (log 45, DEDUCED). -/
def State.afterReset (s : State) (warm : Bool) : State :=
  let s0 : State := { State.reset with agenda := s.agenda, tick := s.tick, seq := s.seq, keyHash := s.keyHash }
  if warm then { s0 with mem := s.mem, poison := s.poison, regs := s.regs.filter fun p => 0x70000 ≤ p.1 && p.1 < 0x70040 } else s0
/-- The cause of the last reset (R382). -/
def State.setCause (s : State) (cause : Nat) : State := s.setReg rstcause (BitVec.ofNat 64 cause)
/-- Step 3 for one chiplet link (R383): the flag tells that no table has been rejected, which stops the boot. -/
def State.bootChip (b : BootIn) (r : State × Bool) (n : Nat) : State × Bool :=
  let w := r.1.usedWidth n (tblGet b.widths n 0)
  let t := tblGet b.tables n 0
  if !r.2 then r else (r.1.trained n w (some t), w = 0 || tableOk n t)
/-- The stacks whose die at their ring position is absent at boot are taken by the partner (log 45, DEDUCED). -/
def State.bootStacks (s : State) : State :=
  (List.range 8).foldl (fun (s : State) k =>
    if s.chipUp (stackDie k 0) then s else (s.setStack k { s.stack k with st := .forced }).forcedTake k 1) s
/-- Package reset is released: every link but the root ports trains (R361). -/
def State.released0 (s : State) : State := bootLinks.foldl (fun (s : State) n => s.linkTo n .training (s.link n)) s
/-- Step 3 (R383): every link trains, and chiplets are enumerated; links that `widths` does not list go on training. -/
def State.bootLinks (s : State) (b : BootIn) : State × Bool :=
  let s := s.released0
  let (s, ok) := chiplets.foldl (State.bootChip b) (s, true)
  let others := b.widths.filter fun p => p.1 ≥ 16 && Sys2Proof.Machine.bootLinks.contains p.1
  if ok then ((others.foldl (fun (s : State) p => if (s.link p.1).st = .training then s.trained p.1 p.2 none else s) s).bootStacks, true)
  else (s, false)
/-- A load range lies wholly in installed LPDDR6 or in stack 0's backed bytes (R383). -/
def State.loadable (s : State) (pa n : Nat) : Bool :=
  s.backed pa && s.backed (pa + n - 1) &&
  (match regionOf pa, regionOf (pa + n - 1) with
  | .lpddr _, .lpddr _ => true
  | .stack 0 _, .stack 0 _ => true
  | _, _ => false)
/-- The bytes of the image that is verified: header and body (log 22, PRESUMED). -/
def imageBytes (b : BootIn) : List Byte :=
  wordBytes b.magic ++ wordBytes b.version ++ toBytes (BitVec.ofNat 64 b.length) 8 ++ toBytes (BitVec.ofNat 64 b.loadPa) 8 ++
  toBytes (BitVec.ofNat 64 b.entryPa) 8 ++ b.body.take b.length
/-- The signature of an image verifies (R383): its public key is the fused one, and it signs the SHA-256 of header and body. -/
def State.signed (s : State) (b : BootIn) : Bool := sha256 b.publicKey = s.keyHash && ecdsaOk (sha256 (imageBytes b)) b.publicKey b.signature
/-- Steps 1 and 2 fail (R383). -/
def State.headerBad (s : State) (b : BootIn) : Bool :=
  !b.headerRead || b.magic ≠ 0x56564B50 || b.length = 0 || b.length > b.flashLeft || !s.signed b || b.version.toNat < Config.rollback.toNat
/-- The boot ROM (R383): a step that fails leaves RSTCAUSE 3 and every hart halted; links train whatever the ROM finds (R361). -/
def State.boot (s : State) (b : BootIn) : State :=
  if s.headerBad b then s.released0.setCause 3
  else
    let s := { s with image := imageBytes b, imageVersion := b.version }
    let (s, ok) := s.bootLinks b
    if !ok || !s.loadable b.loadPa b.length || s.gate b.loadPa ≠ .go || b.entryPa < b.loadPa || b.loadPa + b.length ≤ b.entryPa then s.setCause 3
    else
      let body := (List.range b.length).map fun j => b.body.getD j 0
      let entry : DWord := BitVec.ofNat 64 b.entryPa
      let harts := (List.range 97).map fun n => (n, ({ pc := entry, wait := if n = 0 then .running else .waiting } : Hart))
      { s.writeHome (runOf b.loadPa body) with imageEntry := entry, harts := harts }
/-- COLD_RESET (R382, R383). -/
def execColdReset (boot : BootIn) (s : State) : Host.Outcome State Fault Refusal := .next ((s.afterReset false).boot boot)
/-- WARM_RESET (R382, R383): of the board's reset pin, or of software that has written RSTCAUSE.WARM. -/
def execWarmReset (pin : Bool) (boot : BootIn) (s : State) : Host.Outcome State Fault Refusal :=
  if pin then .next (((s.afterReset true).setCause 1).boot boot)
  else if (s.reg rstcause).getLsbD 7 then .next (((s.afterReset true).setCause 2).boot boot)
  else .next s

/-- The attestation report (R384). -/
def State.reportFor (s : State) (nonce : BitVec 256) : List Byte :=
  let body := toBytes nonce 32 ++ sha256 s.image ++ wordBytes s.imageVersion ++ wordBytes Config.rollback ++
    chiplets.flatMap (fun n => toBytes ((tblGet s.tables n 0).extractLsb' 2016 32) 4) ++ (List.range 64).map Config.identityKey ++
    List.replicate 8 (0 : Byte)
  body ++ (List.range 64).map (Config.signature body)
/-- ATTESTATION_REQUEST (R384): of the management hart. -/
def execAttestationRequest (nonce : BitVec 256) (agent : Nat) (s : State) : Host.Outcome State Fault Refusal :=
  .next (if agent = 96 then { s with report := s.reportFor nonce } else s)

end Sys2Proof.Machine
end

