-- ==== Sys2Proof/Machine/Iommu.lean ====
section
/-!
DEFINITION. The IOMMU of Headland (R350): registers, device and process contexts, translation, the fault queue, the page-request
queue, the command queue and its interrupts. The spec names the RISC-V IOMMU architecture; what is said here of it is the family's
(log 23, PRESUMED): device contexts of 64 bytes, no T2GPA, no update of A and D, interrupts by MSI only.
-/
namespace Sys2Proof.Machine

/-- A register of the IOMMU as it is stored, and the two 32-bit registers of a pair. -/
def State.ioGet (s : State) (off : Nat) : DWord := tblGet s.iommu off 0
def State.ioLow (s : State) (off : Nat) : Nat := field (s.ioGet off) 0 32
def State.ioHigh (s : State) (off : Nat) : Nat := field (s.ioGet off) 32 32
/-- Writes a register of the IOMMU. -/
def State.ioPut (s : State) (off : Nat) (v : DWord) : State := { s with iommu := tblSet s.iommu off v }
def State.ioSet (s : State) (off bit : Nat) : State := s.ioPut off (putField (s.ioGet off) bit 1 1)
/-- The place of the base register of the command queue, the fault queue and the page-request queue; the pair of head and tail stands
after it. -/
def cqb : Nat := 24
def fqb : Nat := 40
def pqb : Nat := 56
/-- Entries of a queue, and the address of its entry `i` of n bytes. -/
def State.ioSize (s : State) (q : Nat) : Nat := 2 ^ (field (s.ioGet q) 0 5 + 1)
def State.ioSlot (s : State) (q n i : Nat) : Nat := field (s.ioGet q) 10 44 * 4096 + n * i
/-- Memory that the IOMMU itself reads and writes. -/
def State.ioMemory (s : State) (a : Nat) : Bool := classOf a = .cacheable && s.backed a

/-- n bytes of a table or queue, or the fault `cause`; tables in a stack that changes hands wait (R200). -/
def State.ioRead (s : State) (a n cause : Nat) : Except HartMiss (List DWord) :=
  if !s.ioMemory a then .error (.fault cause 0)
  else if s.gate a = .hold then .error .held
  else if s.poisoned a then .error (.fault cause 0)
  else .ok ((List.range (n / 8)).map fun j => ofBytes 64 (s.bytesAt (a + 8 * j) 8))
/-- A word that the IOMMU writes: an interrupt, or memory; none where nothing is there. -/
def State.ioPost (s : State) (a : Nat) (data : Word) : Option State :=
  match regionOf a with
  | .imsic _ => some (s.msiFor false (BitVec.ofNat 64 a) data.toNat)
  | _ => if s.ioMemory a then some (s.ioWrite (runOf a (toBytes data 4))) else none
/-- Puts a record into the fault queue or the page-request queue, whose control register stands in bits [lo + 31 : lo] of a register:
bit 16 is ON, 8 a memory fault, 9 an overflow, which stop the queue. -/
def State.ioRecord (s : State) (q csr lo : Nat) (rec : List DWord) : State :=
  let c := s.ioGet csr
  let tail := s.ioHigh (q + 8)
  let n := 8 * rec.length
  if !c.getLsbD (lo + 16) || c.getLsbD (lo + 8) || c.getLsbD (lo + 9) then s
  else if (tail + 1) % s.ioSize q = s.ioLow (q + 8) then s.ioSet csr (lo + 9)
  else if !s.ioMemory (s.ioSlot q n tail) then s.ioSet csr (lo + 8)
  else
    let s' := s.ioWrite (runOf (s.ioSlot q n tail) (rec.flatMap fun w => toBytes w 8))
    s'.ioPut (q + 8) (putField (s.ioGet (q + 8)) 32 32 ((tail + 1) % s.ioSize q))
/-- Sends the message of an interrupt vector; a masked one is kept for its unmasking, in a register that no offset names. A message
that has no place is recorded as cause 273. -/
def State.ioSend (s : State) (vec : Nat) : State :=
  let ctl := s.ioGet (768 + 16 * vec + 8)
  if ctl.getLsbD 32 then s.ioSet 4096 vec
  else (s.ioPost (s.ioGet (768 + 16 * vec)).toNat (ctl.setWidth 32)).getD (s.ioRecord fqb 72 32 [273, 0, s.ioGet (768 + 16 * vec), 0])
/-- Raises an interrupt (0 commands, 1 faults, 3 page requests) that is enabled and not pending. -/
def State.ioRaise (s : State) (src : Nat) : State :=
  let enabled := (s.ioGet (if src = 3 then 80 else 72)).getLsbD (if src = 1 then 33 else 1)
  if !enabled || (s.ioGet 80).getLsbD (32 + src) then s
  else (s.ioSet 80 (32 + src)).ioSend (field (s.ioGet 760) (4 * src) 4)
/-- Reports a fault of a device's request: cause, kind of transaction, address, guest address. -/
def State.ioFault (s : State) (r : DevReq) (cause ttyp : Nat) (addr gpa : DWord) : State :=
  let pid := match r.pasid with
    | some p => p.toNat * 2 ^ 12 + 2 ^ 32 + r.priv.toNat * 2 ^ 33
    | none => 0
  let on := (s.ioGet 72).getLsbD 48
  let s := s.ioRecord fqb 72 32 [BitVec.ofNat 64 (cause + pid + ttyp * 2 ^ 34 + r.id.toNat * 2 ^ 40), 0, addr, gpa]
  if on then s.ioRaise 1 else s

/-- A device context, or a process context and what it takes from its device's. -/
structure IoContext where
  tc : DWord
  gatp : DWord
  ta : DWord
  fsc : DWord
  msip : DWord
  mask : DWord
  pattern : DWord
deriving DecidableEq, Repr
/-- A root or table pointer with reserved bits clear and one of the modes. -/
def ioRoot (v : DWord) (modes : List Nat) : Bool := modes.contains (field v 60 4) && field v 44 16 = 0
/-- A device context without reserved bits or combinations. -/
def IoContext.ok (c : IoContext) : Bool :=
  let b (n : Nat) := c.tc.getLsbD n
  c.tc &&& ~~~(0x277 : DWord) = 0 && (b 1 || !b 2) && (b 2 || !b 6) && (b 5 || !b 9) &&
  [0, 8, 9, 10].contains (field c.gatp 60 4) && (field c.gatp 60 4 = 0 || field c.gatp 0 2 = 0) && c.ta &&& ~~~(0xFFFFF000 : DWord) = 0 &&
  ioRoot c.fsc (if b 5 then [0, 1, 2, 3] else [0, 8, 9, 10]) && ioRoot c.msip [0, 1] && field c.mask 52 12 = 0 && field c.pattern 52 12 = 0
/-- The device context below a directory table of a level. -/
def State.ddtWalk (s : State) (id : BitVec 24) : Nat → Nat → Except HartMiss IoContext
  | 0, base => match s.ioRead (base + 64 * field id 0 6) 64 257 with
    | .error e => .error e
    | .ok l =>
      let c : IoContext := ⟨l.getD 0 0, l.getD 1 0, l.getD 2 0, l.getD 3 0, l.getD 4 0, l.getD 5 0, l.getD 6 0⟩
      if !c.tc.getLsbD 0 then .error (.fault 258 0) else if c.ok && l.getD 7 0 = 0 then .ok c else .error (.fault 259 0)
  | level + 1, base => match s.ioRead (base + 8 * field id (6 + 9 * level) 9) 8 257 with
    | .error e => .error e
    | .ok l =>
      let v := l.getD 0 0
      if !v.getLsbD 0 then .error (.fault 258 0)
      else if field v 1 9 ≠ 0 || field v 54 10 ≠ 0 then .error (.fault 259 0)
      else ddtWalk s id level (field v 10 44 * 4096)
/-- The device context of a request, none where the IOMMU passes it through. -/
def State.ioDevice (s : State) (r : DevReq) (untranslated : Bool) : Except HartMiss (Option IoContext) :=
  let mode := field (s.ioGet 16) 0 4
  if mode = 0 then .error (.fault 256 0)
  else if mode = 1 then (if untranslated then .ok none else .error (.fault 260 0))
  else if (mode = 2 && field r.id 6 18 ≠ 0) || (mode = 3 && field r.id 15 9 ≠ 0) then .error (.fault 260 0)
  else (s.ddtWalk r.id (mode - 2) (field (s.ioGet 16) 10 44 * 4096)).map some

/-- The second stage of a device's address; `table` says that the access is to a table of the first stage. -/
def State.ioSecond (s : State) (c : IoContext) (acc : HartAcc) (table : Bool) (a : Nat) : Except HartMiss Nat :=
  let g := BitVec.ofNat 64 a
  let miss : HartMiss := .fault acc.guest (if table then g ||| 1 else g &&& ~~~3)
  match hartStage s (if table then .load else acc) c.gatp true .ok true false false miss g with
  | .error (.fault n gpa) => .error (.fault (if n = acc.guest then n else acc.access) gpa)
  | r => r
/-- The process context below a directory table of a level. -/
def State.pdtWalk (s : State) (c : IoContext) (acc : HartAcc) (pid : Nat) : Nat → Nat → Except HartMiss (DWord × DWord)
  | 0, base => do
    let l ← s.ioRead (← s.ioSecond c acc true (base + 16 * (pid % 256))) 16 265
    let ta := l.getD 0 0
    if !ta.getLsbD 0 then .error (.fault 266 0)
    else if ta &&& ~~~(0xFFFFF007 : DWord) = 0 && ioRoot (l.getD 1 0) [0, 8, 9, 10] then .ok (ta, l.getD 1 0) else .error (.fault 267 0)
  | level + 1, base => do
    let l ← s.ioRead (← s.ioSecond c acc true (base + 8 * (pid / 2 ^ (8 + 9 * level) % 512))) 8 265
    let v := l.getD 0 0
    if !v.getLsbD 0 then .error (.fault 266 0)
    else if field v 1 9 ≠ 0 || field v 54 10 ≠ 0 then .error (.fault 267 0)
    else pdtWalk s c acc pid level (field v 10 44 * 4096)
/-- The process context of a request, as the first stage's root with its ta: the device's own where it has no directory, none (Bare)
where the request names no process. -/
def State.ioProcess (s : State) (c : IoContext) (r : DevReq) (acc : HartAcc) : Except HartMiss (DWord × DWord) :=
  let pid := match r.pasid with
    | some p => some p.toNat
    | none => if c.tc.getLsbD 9 then some 0 else none
  if !c.tc.getLsbD 5 then (if r.pasid.isSome then .error (.fault 260 0) else .ok (c.ta, c.fsc))
  else match field c.fsc 60 4, pid with
    | 0, _ | _, none => .ok (0, 0)
    | mode, some p =>
      if p ≥ 2 ^ min 20 (9 * mode - 1) then .error (.fault 260 0)
      else match s.pdtWalk c acc p (mode - 1) (field c.fsc 0 44 * 4096) with
        | .error e => .error e
        | .ok (ta, fsc) => if r.priv && r.pasid.isSome && !ta.getLsbD 1 then .error (.fault 260 0) else .ok (ta, fsc)
/-- The bits of a number that a mask selects, close together. -/
def ioGather (x mask : Nat) : Nat := ((List.range 52).filter fun j => mask.testBit j).zipIdx.foldl (fun n p => n + (x.testBit p.1).toNat * 2 ^ p.2) 0
/-- The place of a guest page that is an interrupt file: its entry of the MSI table, of the basic mode. -/
def State.ioFile (s : State) (c : IoContext) (a : Nat) : Except HartMiss (Option Nat) :=
  let mask := field c.mask 0 52
  if field c.msip 60 4 = 0 || (BitVec.ofNat 64 (a / 4096) ^^^ c.pattern) &&& ~~~c.mask ≠ 0 then .ok none
  else match s.ioRead (field c.msip 0 44 * 4096 + 16 * ioGather (a / 4096) mask) 16 261 with
    | .error e => .error e
    | .ok l =>
      let v := l.getD 0 0
      if !v.getLsbD 0 then .error (.fault 262 0)
      else if field v 1 2 ≠ 3 || field v 3 7 ≠ 0 || field v 54 10 ≠ 0 || l.getD 1 0 ≠ 0 then .error (.fault 263 0)
      else .ok (some (field v 10 44 * 4096 + a % 4096))
/-- A translation through a device's context: the address, and the process's tag. -/
def State.ioWalk (s : State) (c : IoContext) (r : DevReq) (acc : HartAcc) : Except HartMiss (Nat × Nat) := do
  let (ta, fsc) ← s.ioProcess c r acc
  let user := !(r.priv && r.pasid.isSome)
  let a ← hartStage s acc fsc false (s.ioSecond c acc true) user (ta.getLsbD 2) false (.fault acc.page 0) r.addr
  let file ← s.ioFile c a
  match file with
  | some pa => .ok (pa, field ta 12 20)
  | none => (s.ioSecond c acc false a).map fun pa => (pa, field ta 12 20)
/-- What a request's fault leaves: the record that DTF does not suppress; a wait leaves all as it is. -/
def State.ioMiss (s : State) (r : DevReq) (c : Option IoContext) (ttyp : Nat) (m : HartMiss) : State :=
  match m with
  | .held => s
  | .fault cause gpa =>
    let s := { s with devAnswer := some .unsupported }
    if c.any fun c => c.tc.getLsbD 4 then s
    else s.ioFault r cause ttyp (if ttyp = 9 then 4 else r.addr) (if [20, 21, 23].contains cause then gpa else 0)
/-- An entry that serves a request. -/
def IoEntry.serves (e : IoEntry) (r : DevReq) (acc : HartAcc) : Bool :=
  e.id = r.id && e.pasid = r.pasid && e.priv = r.priv && e.page = r.addr.toNat / 4096 && (acc ≠ .store || e.write)
/-- The address of a device's read or write, with the translation kept, or the state that its fault leaves. A kept translation serves
or does not, by a free choice. -/
def State.ioXlate (s : State) (r : DevReq) (acc : HartAcc) : Except State (Nat × State) :=
  let ttyp := (if acc = .store then 3 else 2) + (if r.translated then 4 else 0)
  let kept := if field (s.ioGet 16) 0 4 ≥ 2 && !r.translated && Config.freeBool s.tick 0 then s.ioEntries.find? (·.serves r acc) else none
  match kept with
  | some e => .ok (e.pa + r.addr.toNat % 4096, { s with tick := s.tick + 1 })
  | none => match s.ioDevice r (!r.translated) with
    | .error m => .error (s.ioMiss r none ttyp m)
    | .ok none => .ok (r.addr.toNat, s)
    | .ok (some c) =>
      if r.translated then (if c.tc.getLsbD 1 then .ok (r.addr.toNat, s) else .error (s.ioMiss r (some c) ttyp (.fault 260 0)))
      else match s.ioWalk c r acc with
        | .error m => .error (s.ioMiss r (some c) ttyp m)
        | .ok (pa, pscid) =>
          let e : IoEntry :=
            { id := r.id, pasid := r.pasid, priv := r.priv, page := r.addr.toNat / 4096, pa := pa / 4096 * 4096, write := acc = .store
              gscid := if field c.gatp 60 4 = 0 then none else some (field c.gatp 44 16), pscid := pscid }
          .ok (pa, { s with ioEntries := e :: s.ioEntries.filter (!·.serves r acc), tick := s.tick + 1 })
/-- Faults that an ATS translation answers with no permission, and does not report. -/
def ioQuiet (cause : Nat) : Bool := [12, 13, 15, 20, 21, 23, 262, 266].contains cause
/-- An ATS translation request: the page's address with the permissions asked for. -/
def State.ioTranslate (s : State) (r : DevReq) (write : Bool) : State :=
  let none_ : State := { s with devAnswer := some (.translation 0 false false) }
  match s.ioDevice r false with
  | .error m => s.ioMiss r none 8 m
  | .ok none => s
  | .ok (some c) =>
    if !c.tc.getLsbD 1 then s.ioMiss r (some c) 8 (.fault 260 0)
    else match s.ioWalk c r .load with
      | .error .held => s
      | .error (.fault cause gpa) => if ioQuiet cause then none_ else s.ioMiss r (some c) 8 (.fault cause gpa)
      | .ok (pa, _) =>
        let w := write && (match s.ioWalk c r .store with
          | .ok _ => true
          | .error _ => false)
        { s with devAnswer := some (.translation (pa / 4096 * 4096) true w) }
/-- A PRI page request: a record of the page-request queue, never of a die's fault queue. -/
def State.ioPageRequest (s : State) (r : DevReq) (payload : DWord) : State :=
  match s.ioDevice r false with
  | .error m => s.ioMiss r none 9 m
  | .ok none => s
  | .ok (some c) =>
    let pid := match r.pasid with
      | some p => p.toNat * 2 ^ 12 + 2 ^ 32 + r.priv.toNat * 2 ^ 33
      | none => 0
    if !c.tc.getLsbD 2 then s.ioMiss r (some c) 9 (.fault 260 0)
    else if !(s.ioGet 80).getLsbD 16 || (s.ioGet 80).getLsbD 8 then { s with devAnswer := some .unsupported }
    else { (s.ioRecord pqb 80 0 [BitVec.ofNat 64 (pid + r.id.toNat * 2 ^ 40), payload]).ioRaise 3 with devAnswer := some .taken }

/-- A command without reserved bits (IOTINVAL, IOFENCE, IODIR, ATS). -/
def ioLegal (w0 w1 : DWord) : Bool :=
  match field w0 0 7, field w0 7 3 with
  | 1, f => f ≤ 1 && w0 &&& ~~~(0x00FFFF03FFFFF7FF : DWord) = 0 && field w1 0 10 = 0 && field w1 62 2 = 0 && !(f = 1 && w0.getLsbD 32)
  | 2, f => f = 0 && field w0 14 18 = 0 && !w0.getLsbD 11 && field w1 62 2 = 0
  | 3, f => f ≤ 1 && field w0 10 2 = 0 && field w0 32 1 = 0 && field w0 34 6 = 0 && w1 = 0 &&
    (if f = 0 then field w0 12 20 = 0 else w0.getLsbD 33)
  | 4, f => f ≤ 1 && field w0 10 2 = 0 && field w0 34 6 = 0
  | _, _ => false
/-- Kept translations that a command drops: those of a first stage by GSCID, PSCID and address, those of a second stage by GSCID, those
of a device, those of a process of it. -/
def ioDrops (w0 w1 : DWord) (e : IoEntry) : Bool :=
  let guest : Bool := if w0.getLsbD 33 then e.gscid = some (field w0 40 16) else e.gscid.isNone
  let device : Bool := !w0.getLsbD 33 || e.id.toNat = field w0 40 24
  match field w0 0 7, field w0 7 3 with
  | 1, 0 => guest && (!w0.getLsbD 32 || e.pscid = field w0 12 20) && (!w0.getLsbD 10 || e.page = field w1 10 52)
  | 1, _ => if w0.getLsbD 33 then e.gscid = some (field w0 40 16) else e.gscid.isSome
  | 3, 0 => device
  | 3, _ => device && e.pasid.any (·.toNat = field w0 12 20)
  | _, _ => false
/-- The IOMMU takes the next command of its queue. An IOFENCE waits for the invalidations that devices have not completed. -/
def State.ioCommand (s : State) : State :=
  let c := s.ioGet 72
  let head := s.ioLow (cqb + 8)
  let stop (s : State) (bit : Nat) : State := (s.ioSet 72 bit).ioRaise 0
  let done (s : State) : State := s.ioPut (cqb + 8) (putField (s.ioGet (cqb + 8)) 0 32 ((head + 1) % s.ioSize cqb))
  if !c.getLsbD 16 || field c 8 3 ≠ 0 || head = s.ioHigh (cqb + 8) then s
  else match s.ioRead (s.ioSlot cqb 16 head) 16 0 with
    | .error .held => s
    | .error (.fault ..) => stop s 8
    | .ok l =>
      let w0 := l.getD 0 0
      let w1 := l.getD 1 0
      if !ioLegal w0 w1 then stop s 10
      else match field w0 0 7 with
        | 2 =>
          let a := field w1 0 62 * 4
          if s.iommuInvals ≠ 0 || (w0.getLsbD 10 && s.gate a = .hold) then s
          else if !w0.getLsbD 10 then done s
          else match s.ioPost a (w0.extractLsb' 32 32) with
            | some s => done s
            | none => stop s 8
        | 4 => done (if field w0 7 3 = 0 then { s with iommuInvals := s.iommuInvals + 1 } else s)
        | _ => done { s with ioEntries := s.ioEntries.filter (!ioDrops w0 w1 ·) }

/-- A queue's control register after a write: ENABLE and the interrupt's enable take the value, ON follows, error bits clear where ones
are written, and all of them when the queue starts. -/
def ioCtl (old v : Nat) : Nat :=
  let start := old % 2 = 0 && v % 2 = 1
  v % 4 + (if start then 0 else (List.range 4).foldl (fun n j => n + (old.testBit (8 + j) && !v.testBit (8 + j)).toNat * 2 ^ (8 + j)) 0) +
    v % 2 * 2 ^ 16
/-- A write of the control register of a queue that stands at bit `lo` of a register: a queue that starts is empty. -/
def State.ioCtlWrite (s : State) (q csr lo index v : Nat) : State :=
  let old := field (s.ioGet csr) lo 32
  let s' := s.ioPut csr (putField (s.ioGet csr) lo 32 (ioCtl old v))
  if old % 2 = 0 && v % 2 = 1 then s'.ioPut (q + 8) (putField (s.ioGet (q + 8)) index 32 0) else s'
/-- Interrupts whose cause still holds are raised again. -/
def State.ioLevels (s : State) : State :=
  let c := s.ioGet 72
  let s := if field c 8 4 ≠ 0 then s.ioRaise 0 else s
  let s := if field c 40 2 ≠ 0 then s.ioRaise 1 else s
  if field (s.ioGet 80) 8 2 ≠ 0 then s.ioRaise 3 else s
/-- A write inside an aligned doubleword of the IOMMU's page; `low` and `high` say which words of it are written. -/
def State.iommuRegWrite (s : State) (off : Nat) (v : DWord) (low high : Bool) : State :=
  let half (q : Nat) (head : Bool) : State :=
    let lo := if head then 0 else 32
    if (if head then low else high) then s.ioPut (q + 8) (putField (s.ioGet (q + 8)) lo 32 (field v lo 32 % s.ioSize q)) else s
  let ctl (s : State) (q csr lo index : Nat) (written : Bool) : State := if written then s.ioCtlWrite q csr lo index (field v lo 32) else s
  if off = 16 then s.ioPut 16 (putField (v &&& 0x003FFFFFFFFFFC0F) 0 4 (if field v 0 4 ≤ 4 then field v 0 4 else field (s.ioGet 16) 0 4))
  else if off = cqb || off = fqb || off = pqb then s.ioPut off (v &&& 0x003FFFFFFFFFFC1F)
  else if off = cqb + 8 then half cqb false
  else if off = fqb + 8 then half fqb true
  else if off = pqb + 8 then half pqb true
  else if off = 72 then (ctl (ctl s cqb 72 0 0 low) fqb 72 32 32 high).ioLevels
  else if off = 80 then
    let s := ctl s pqb 80 0 32 low
    (if high then s.ioPut 80 (s.ioGet 80 &&& ~~~(v &&& 0x0000000F00000000)) else s).ioLevels
  else if off = 760 then s.ioPut 760 (v &&& 0xFFFF)
  else if 768 ≤ off && off < 1024 then
    let vec := (off - 768) / 16
    let s := s.ioPut off (v &&& (if off % 16 = 0 then 0x00FFFFFFFFFFFFFC else 0x1FFFFFFFF))
    if off % 16 = 8 && !v.getLsbD 32 && (s.ioGet 4096).getLsbD vec then (s.ioPut 4096 (putField (s.ioGet 4096) vec 1 0)).ioSend vec else s
  else s

end Sys2Proof.Machine
end

