-- ==== Sys2Proof/Machine/RegWrite.lean ====
section
/-!
DEFINITION. Writes of uncached addresses: the register blocks by the rules that give each register, and the interrupt files
(R152, R313). Reserved bits are ignored on write; a write of part of a register keeps the rest of it (log 26, DESIGN CHOICE).
-/
namespace Sys2Proof.Machine

/-- A drill or a copy engine as the agent of a register write: no hart's number. -/
def noHart : Nat := 97
/-- A doubleword with bytes of it replaced, by place. -/
def putBytes (old : DWord) (bs : List (Nat × Byte)) : DWord := bs.foldl (fun (v : DWord) p => putField v (8 * p.1) 8 p.2.toNat) old
/-- Bits of a quota entry that are kept (R261). -/
def quotaMask : DWord := 0x001F03FF03FF007F
/-- Bits of QCTL that are kept (R314). -/
def qctlMask : DWord := 0x00F01FFFFFF07FFF
/-- A write of QCTL (R314): while the queue is not DISABLED only PRIO and WMARK change. -/
def State.qctlWrite (s : State) (n : Nat) (val : DWord) : State :=
  let q := s.queue n
  let now : DWord := 0x00001FFF00007000
  s.setQueue n { q with ctl := if q.st = .disabled then val &&& qctlMask else (q.ctl &&& ~~~now) ||| (val &&& now) }
/-- A write of QBASE (R314). -/
def State.qbaseWrite (s : State) (n : Nat) (val : DWord) : State :=
  let q := s.queue n
  if q.st = .disabled then s.setQueue n { q with base := val &&& 0x0000FFFFFFFFFF80 } else s
/-- A command of QCMD (R314). -/
def State.qcmdWrite (s : State) (n cmd : Nat) : State :=
  match cmd with
  | 1 => s.qOpen n | 2 => s.qPause n | 3 => s.qResume n | 4 => s.qDrain n | _ => s
/-- A write of the registers of a service queue (R309, R351): base, head, MSI address and identity. -/
def State.serviceWrite (s : State) (r off low size : Nat) (old : DWord) (bs : List (Nat × Byte)) : State :=
  let v := putBytes old bs
  match off with
  | 0 => s.baseWrite r low v
  | 8 => if bs.any (·.1 < 4) then s.setReg (r + 8) (BitVec.ofNat 64 (field v 0 size)) else s
  | 16 => s.setReg (r + 16) v
  | 24 => if bs.any (·.1 < 4) then s.setReg (r + 24) (BitVec.ofNat 64 (field v 0 11)) else s
  | _ => s
/-- A write of RSTCAUSE (R382): a warm reset that has been asked for stays asked for. -/
def State.rstcauseWrite (s : State) (v : DWord) : State := s.setReg rstcause ((v &&& 0x8F) ||| (s.reg rstcause &&& 0x80))
/-- What a write of the IOMMU's doubleword writes: its control and pending registers, whose bits clear where ones are written, read
as zero where nothing is written. -/
def ioValue (off : Nat) (v : DWord) (bs : List (Nat × Byte)) : DWord :=
  if off % 4096 = 72 || off % 4096 = 80 then putBytes 0 bs else v
/-- A write inside an aligned doubleword of Headland's register block. -/
def State.headlandWrite (s : State) (agent off : Nat) (bs : List (Nat × Byte)) : State :=
  let low := bs.any (·.1 < 4)
  let high := bs.any (4 ≤ ·.1)
  let v := putBytes (s.headlandReg off) bs
  let keep (m : DWord) : State := s.setReg off (v &&& m)
  let keepLow (m : DWord) : State := if low then keep m else s
  if off = 0x30000 || off = 0x30010 || off = 0x30020 then keep 0xFFFFFFFFFFFFFFFF
  else if off = 0x30008 || off = 0x30028 then keepLow 0xFFFFFFFF
  else if off = 0x30040 then (if low then s.pciebif v else s)
  else if 0x40000 ≤ off && off < 0x48000 then keep quotaMask
  else if 0x50000 ≤ off && off < 0x50020 then (if low then s.opctlWrite ((off - 0x50000) / 8) v agent else s)
  else if off = 0x50060 then (if low then s.eccceClear 0 else s)
  else if off = 0x70000 then s.ocauseWrite (putBytes 0 bs) agent
  else if off = 0x70008 then keepLow 1
  else if off = 0x70010 then s.rstcauseWrite v
  else if off = 0x70018 then keep 0xFFFFFFFFFFFFFFFC
  else if 0x70020 ≤ off && off < 0x70040 then keep 0xFFFFFFFFFFFFFFFF
  else if 0x80000 ≤ off && off < 0xC0000 then
    let n := (off - 0x80000) / 32
    match off % 32 with
    | 0 => s.qctlWrite n v
    | 8 => s.qbaseWrite n v
    | 16 =>
      let s := if low then s.setQueue n { s.queue n with pace := v.setWidth 32 &&& 0xFFFF } else s
      if high then s.qcmdWrite n (field (putBytes 0 bs) 32 3) else s
    | _ => s
  else if 0xC0000 ≤ off && off < 0xC0020 then s.serviceWrite 0xC0000 (off - 0xC0000) 16 10 (s.headlandReg off) bs
  else if off = tlbiva then (if s.tlbiBusy then s else keep 0xFFFFFFFFFFFFF000)
  else if off = tlbictl then s.tlbictlWrite v
  else if 0xE0000 ≤ off && off < 0xE0400 then (if off % 16 = 8 && low then s.linkctlWrite ((off - 0xE0000) / 16) v else s)
  else if 0xF0000 ≤ off && off < 0xF0080 then keep 0x800FFF0000000000
  else if 0xF0080 ≤ off && off < 0xF0100 then keep 1
  else if s.iommuAt off then s.iommuRegWrite (off % 4096) (ioValue off v bs) low high
  else s
/-- A write inside an aligned doubleword of another chiplet's register block. -/
def State.dieWrite (s : State) (chip off : Nat) (bs : List (Nat × Byte)) : State :=
  let low := bs.any (·.1 < 4)
  let old := s.dieRegs chip off
  let v := putBytes old bs
  let compute := 4 ≤ chip && chip ≤ 11
  if 0x10000 ≤ off && off < 0x10400 && 8 ≤ chip && compute then
    (if off % 0x40 = 0 && low then s.setReg (dieReg chip off) (v &&& 0xFFFF) else s)
  else if 0x20000 ≤ off && off < 0x20020 && compute then s.serviceWrite (dieReg chip 0x20000) (off - 0x20000) 16 10 old bs
  else if off = 0x30000 && chip < 8 && compute then (if (putBytes 0 bs).getLsbD 0 then s.icflushGo (chip - 4) else s)
  else if 0x40000 ≤ off && off < 0x40020 && compute then s.serviceWrite (dieReg chip 0x40000) (off - 0x40000) 17 12 old bs
  else if (off = 0x50000 || off = 0x50010 || off = 0x50020) && compute then (if low then s.setReg (dieReg chip off) (v &&& 0xFFFF) else s)
  else if off = 0x50060 then (if low then s.eccceClear chip else s)
  else s
/-- A write of bytes that lie in one aligned doubleword of the register blocks. -/
def State.regWrite (s : State) (agent a : Nat) (bs : List (Nat × Byte)) : State :=
  if a < 0x1000000 then s.headlandWrite agent a bs else s.dieWrite (a / 0x1000000) (a % 0x1000000) bs
/-- The interrupt that a write of n bytes to an interrupt file's page sends: the identity written to its first word (R313);
hart 0's start harts that wait (R383). -/
def State.msiWrite (s : State) (agent a : Nat) (bs : List Byte) : State :=
  if a % 0x1000 = 0 && bs.length ≥ 4 then s.msiFor (agent = 0) (BitVec.ofNat 64 a) (ofBytes 32 (bs.take 4)).toNat else s
/-- A write of bytes from an uncached address on by an agent (R152): registers doubleword by doubleword; what a device behind
a root port does is its own; nothing is written to the ROM. -/
def State.deviceWrite (s : State) (agent a : Nat) (bs : List Byte) : State :=
  match regionOf a with
  | .imsic _ => s.msiWrite agent a bs
  | .regs .. =>
    let chunk (c : Nat) : List (Nat × Byte) := (runOf a bs).filterMap fun p => if p.1 / 8 = c then some (p.1 % 8, p.2) else none
    (List.range ((a + bs.length + 7) / 8 - a / 8)).foldl (fun (s : State) j =>
      let c := a / 8 + j
      if (chunk c).isEmpty || !s.backed (8 * c) then s else s.regWrite agent (8 * c) (chunk c)) s
  | _ => s
/-- A write of an agent has no place to go (R17): the address is not backed, or the boot ROM's. -/
def State.noPlace (s : State) (addr : Nat) : Bool := !s.backed addr || (match regionOf addr with | .rom _ => true | _ => false)
/-- REGISTER_WRITE: an agent, by its hart number, writes 1, 2, 4 or 8 aligned bytes of an uncached address. Where there is nothing to
write, a hart that runs takes its store access fault (R17). -/
def execRegisterWrite (agent addr size : Nat) (val : BitVec 64) (s : State) : Host.Outcome State Fault Refusal :=
  if !([1, 2, 4, 8].contains size) || addr % size ≠ 0 then .next s
  else if s.noPlace addr then
    .next (if s.hartRuns agent then s.setHart agent ((s.hart agent).trap 7 (BitVec.ofNat 64 addr)) else s)
  else .next (if classOf addr = .uncached then s.deviceWrite agent addr (toBytes val size) else s)

end Sys2Proof.Machine
end

