-- ==== Sys2Proof/Machine/Devices.lean ====
section
/-!
DEFINITION. What PCIe devices behind the IOMMU do (R15, R189, R201, R350): they read and write memory as an Acre die does, through the
translation of their contexts.
-/
namespace Sys2Proof.Machine

/-- A queue of the IOMMU, or a place its messages go to, is in a stack that changes hands: its device waits (R200). -/
def State.ioHeld (s : State) : Bool :=
  s.gate (s.ioSlot cqb 16 (s.ioLow (cqb + 8))) = .hold || s.gate (s.ioSlot fqb 32 (s.ioHigh (fqb + 8))) = .hold ||
  s.gate (s.ioSlot pqb 16 (s.ioHigh (pqb + 8))) = .hold || (List.range 16).any fun v => s.gate (s.ioGet (768 + 16 * v)).toNat = .hold
/-- An address that a device's access has no answer at: it is not backed, or another port's (log 23, DESIGN CHOICE). -/
def State.deviceLost (s : State) (a : Nat) : Bool :=
  s.noPlace a || classOf a = .remote || (match regionOf a with | .pcie => true | _ => false)
/-- A device's read at a physical address: a completion with data, with the EP bit where a line is poisoned, or Unsupported Request. -/
def State.deviceRead (s : State) (a n : Nat) : State :=
  let answer (x : DevAnswer) : State := { s with devAnswer := some x }
  if s.deviceLost a then answer .unsupported
  else if classOf a = .cacheable then
    (if s.gate a = .hold then s else if s.poisoned a then answer .poisoned else answer (.data (s.bytesAt a n)))
  else { s with devAnswer := some (.data (s.deviceBytes a n)), tick := s.tick + 1 }
/-- A device's write at a physical address. It invalidates other copies, and a poisoned line stays poisoned (R15, R201). -/
def State.deviceStore (s : State) (a : Nat) (bs : List Byte) : State :=
  let taken (s : State) : State := { s with devAnswer := some .taken }
  if s.deviceLost a then { s with devAnswer := some .unsupported }
  else if classOf a = .cacheable then (if s.gate a = .hold then s else taken (s.ioWrite (runOf a bs)))
  else taken (s.deviceWrite noHart a bs)
/-- A device's access of at most 16 bytes inside an aligned block of 16, which is what happens at one moment (R189). -/
def devicePiece (a n : Nat) : Bool := 0 < n && a % 16 + n ≤ 16
/-- What a device's request does, or what the IOMMU does with its next command. -/
def State.deviceRequest (s : State) (r : DevReq) : State :=
  if s.ioHeld || (r.op ≠ .command && (4 ≤ r.port || !s.linkUp (40 + r.port))) then s
  else match r.op with
  | .command => s.ioCommand
  | .invalidated => { s with iommuInvals := s.iommuInvals - 1 }
  | .pageRequest payload => s.ioPageRequest r payload
  | .translate write => s.ioTranslate r write
  | .read n =>
    if !devicePiece r.addr.toNat n then s
    else match s.ioXlate r .load with
      | .error s => s
      | .ok (pa, s) => s.deviceRead pa n
  | .write data =>
    if !devicePiece r.addr.toNat data.length then s
    else match s.ioXlate r .store with
      | .error s => s
      | .ok (pa, s) => s.deviceStore pa data

end Sys2Proof.Machine
end

