-- ==== Sys2Proof/Machine/Traffic.lean ====
section
/-!
DEFINITION. Memory traffic: completion of variable-latency operations (R75-R78, R142), performance of loads and atomics
(R158-R167, R191-R195), departure from the store queue (R159, R170), the directory (R15, R154), remote accesses (R202, R369,
R370). Lanes are independent accesses: an event may perform some of them before the others (log 7, DEDUCED).
-/
namespace Sys2Proof.Machine

/-- A drill with its group and context. -/
structure Who where
  k : Nat
  d : Drill
  g : Group
  c : Context
/-- The drill at a position, with its group and context. -/
def State.who? (s : State) (k : Nat) : Option Who :=
  match s.drill? k with
  | none => none
  | some d => match s.group? d.gid with
    | none => none
    | some g => (s.ctx? g.ctx).map fun c => { k := k, d := d, g := g, c := c }

/-- Where a byte of an access is: at a physical address, in a core's local store, or nowhere: a stash entry that was made
INVALID and whose line no longer translates. -/
inductive Loc where
  | mem (pa : Nat) | ls (core a : Nat) | lost (a : Nat)
deriving DecidableEq, Repr
/-- The place of a byte of local store (R156, R178): a stash entry is its line of global memory. -/
def State.localLoc (s : State) (w : Who) (a : Word) : Loc :=
  match if a.getLsbD 31 then none else stashAt w.g (field a 0 19) with
  | none => let (core, b) := localByte s w.d.gid w.g a; .ls core b
  | some (r, l) =>
    match (tblGet? w.g.stash r).bind fun t => tblGet? t.entries l with
    | some (pline, _) => .mem (128 * pline + field a 0 7)
    | none => match s.translate (drillChip w.k) w.c (stashVa w.g r l) { r := true, prefetch := true } with
      | .ok (pa, _) => .mem (pa + field a 0 7)
      | .error _ => .lost a.toNat
/-- The places of n bytes of local store. -/
def State.localLocs (s : State) (w : Who) (l : LaneAddr) (n : Nat) : List Loc :=
  (List.range n).map fun j => s.localLoc w (l.va.setWidth 32 + BitVec.ofNat 32 j)

/-- What a read of a byte gives. -/
inductive Got where
  | byte (b : Byte) | poison | wait | denied
deriving DecidableEq, Repr
/-- The stack-grant check against the holder at the moment of the access (R242). -/
def State.denied (s : State) (w : Who) (pa : Nat) : Bool := !s.grantOk w.g.ctx pa
/-- An access that passed the check at issue fails it when it is performed (R242): a trap at the next boundary. -/
def State.denyTrap (s : State) (k : Nat) (yes : Bool) : State := if yes then s.modDrill k fun d => d.addTrap 0x14 4 0 else s
/-- What an entry of the drill's own store queue holds for a byte (R159). -/
def State.entryByte (s : State) (w : Who) (e : SqEntry) (p : Loc) : Option Got :=
  match e.kind, p with
  | .store l, .mem pa => (l.reverse.findSome? fun q =>
      if classOf q.1.pa = .cacheable && q.1.pa ≤ pa then q.2[pa - q.1.pa]? else none).map Got.byte
  | .storeLocal l, p => l.reverse.findSome? fun q => ((s.localLocs w q.1 q.2.length).zip q.2).findSome? fun r =>
      if r.1 = p then some (Got.byte r.2) else none
  | .atomLocal _ _ l _ _, p => if l.any fun q => (s.localLocs w q 4).contains p then some .wait else none
  | _, _ => none
/-- The youngest entry before a stamp that holds a byte (R159, R191). -/
def State.forwarded (s : State) (w : Who) (seq : Nat) (p : Loc) : Option Got :=
  ((w.d.storeQueue.filter fun e => e.seq < seq).reverse).findSome? fun e => s.entryByte w e p
/-- A byte as a load of a drill takes it (R191): from the drill's queue, the L1D, else the latest write in package order. -/
def State.drillByte (s : State) (w : Who) (seq : Nat) (l1 : Bool) (p : Loc) : Got :=
  match s.forwarded w seq p with
  | some g => g
  | none => match p with
    | .mem pa =>
      if l1 && (tblGet? (s.core (drillCore w.k)).l1d (pa / 128)).isSome then .byte (s.loadByte (drillCore w.k) pa)
      else if s.gateFor (drillChip w.k) seq false pa = .hold then .wait
      else if s.denied w pa then .denied
      else if s.poisoned pa || !s.backed pa then .poison
      else .byte (s.byteAt pa)
    | .ls core a => if (s.core core).lsPoison.contains a then .poison else .byte (s.lsByte core a)
    | .lost a => .byte ((Config.freeWord s.tick a).setWidth 8)

/-- What a lane's access gives. -/
inductive LaneGot where
  | data (bs : List Byte) | poison | wait | denied
deriving DecidableEq, Repr
/-- The bytes of a lane together. -/
def laneGot (l : List Got) : LaneGot :=
  if l.contains .wait then .wait
  else if l.contains .denied then .denied
  else if l.contains .poison then .poison
  else .data (l.filterMap fun g => match g with | .byte b => some b | _ => none)
/-- A lane of a global load (R157, R191, R195, R370). Data of a device are taken at the stamp of their lane. -/
def State.globalLane (s : State) (w : Who) (o : VarOp) (n : Nat) (l : LaneAddr) : LaneGot :=
  match classOf l.pa with
  | .uncached =>
    if !w.d.uncachedDone o.seq then .wait
    else if !s.backed l.pa then .poison
    else .data (State.deviceBytes { s with tick := s.tick + l.lane } l.pa n)
  | .remote => match s.remoteLane o l with
    | none => .wait
    | some none => .poison
    | some (some v) => .data (toBytes v n)
  | _ => laneGot ((List.range n).map fun j => s.drillByte w o.seq true (.mem (l.pa + j)))

/-- The lanes of a load. -/
def VarOp.loadLanes (o : VarOp) : List LaneAddr :=
  match o.kind with
  | .load _ l => l
  | .loadLocal _ l => l
  | .loadUniform _ a => [a]
  | _ => []
/-- A lane of a load, performed now. -/
def State.laneFresh (s : State) (w : Who) (o : VarOp) (l : LaneAddr) : LaneGot :=
  match o.kind with
  | .load f _ => s.globalLane w o (ldBytes f) l
  | .loadLocal f _ => laneGot ((s.localLocs w l (ldBytes f)).map (s.drillByte w o.seq false))
  | .loadUniform wide _ => s.globalLane w o (if wide then 8 else 4) l
  | _ => .wait
/-- A lane of a load: as it was performed before, else now (R158). -/
def State.laneNow (s : State) (w : Who) (o : VarOp) (l : LaneAddr) : LaneGot :=
  match tblGet? o.taken l.lane with
  | some bs => .data bs
  | none => s.laneFresh w o l
/-- Old values of lanes that were performed before the others (R163). -/
def VarOp.oldTaken (o : VarOp) : DLanes := lanesOf fun i => ((tblGet? o.taken i).map (ofBytes 64)).getD 0

/-- The register and latch writes of a result: consecutive registers, each with its lanes (R29, R74, R76). -/
def Drill.landVar (d : Drill) (o : VarOp) (m : Mask) (vals : List Lanes) (flags : List (Nat × BitVec 5)) : Drill :=
  let n := vals.length
  let written : Drill := match o.into with
    | .vec r _ => let d := d.putVs r m vals; if m = 0xFFFFFFFF then d.unmark (vMark r) n else d
    | .uni r _ =>
      if m = 0 then d
      else (vals.mapIdx fun j v => (j, v)).foldl (fun (d : Drill) (q : Nat × Lanes) => d.putS (r + q.1) (lane q.2 0)) (if r < 64 then d.unmark (0x100 + r) n else d)
    | .pred r => d.putK r m (maskOf fun i => (lane (vals.headD (splat 0)) i).getLsbD 0)
    | _ => d
  let d := if o.noReg then d else written
  let d := match o.latch with
    | some l => if o.swath = d.swath && n ≤ 2 then (vals.mapIdx fun j v => (j, v)).foldl (fun (d : Drill) (q : Nat × Lanes) => d.putLatch (l + q.1) m q.2) d else d
    | none => d
  d.orFlags flags
/-- An operation completes: its result lands, its slot counts down, TK1 signals, and acquires that waited take effect. -/
def State.endOp (s : State) (k : Nat) (o : VarOp) (m : Mask) (vals : List Lanes) (flags : List (Nat × BitVec 5)) : State :=
  ((s.modDrill k fun d => { d.landVar o m vals flags with ops := d.ops.filter fun q => q.seq ≠ o.seq }).complete k o.slot o.tk1).settle k
/-- The slot of an operation is marked poisoned (R78); the first mark of a slot stays. -/
def State.markSlot (s : State) (k : Nat) (o : VarOp) (lanes : Option Mask) (addr : DWord) : State :=
  s.modDrill k fun d =>
    if (tblGet? d.poison o.slot).isSome then d
    else { d with poison := tblSet d.poison o.slot { pc := o.pc, addr := addr, lanes := lanes, system := d.sysMode } }
/-- The slot of an operation is marked where a lane met poison. -/
def State.markLanes (s : State) (k : Nat) (o : VarOp) (lanes : Mask) (addr : DWord) : State :=
  if lanes = 0 then s else s.markSlot k o (some lanes) addr

/-- The registers that the bytes of a lane fill (R160). -/
def ldWords (f : LdFn) (bs : List Byte) : List Word :=
  let v : BitVec 128 := ofBytes 128 bs
  match f with
  | .b => [(v.setWidth 8).signExtend 32]
  | .bu => [(v.setWidth 8).setWidth 32]
  | .h => [(v.setWidth 16).signExtend 32]
  | .hu => [(v.setWidth 16).setWidth 32]
  | .w => [v.setWidth 32]
  | .d => [v.setWidth 32, v.extractLsb' 32 32]
  | .q => [v.setWidth 32, v.extractLsb' 32 32, v.extractLsb' 64 32, v.extractLsb' 96 32]
/-- The registers that the data of lanes fill; a lane without data gives zero. -/
def laneRegs (f : LdFn) (data : Nat → Option (List Byte)) : List Lanes :=
  (List.range (regsOf (ldBytes f))).map fun r => lanesOf fun i => (((data i).map (ldWords f)).getD []).getD r 0
/-- Lines that a load brought into the L1D (R153, R191). -/
def State.fillLines (s : State) (w : Who) (lanes : List LaneAddr) : State :=
  (lanes.filter fun l => classOf l.pa = .cacheable).foldl (fun (s : State) l =>
    if s.gateAt (drillChip w.k) false l.pa = .go && !s.denied w l.pa && !s.poisoned l.pa && s.backed l.pa then s.fillL1 (drillCore w.k) (l.pa / 128) else s) s
/-- Lines of a load that the L1D drops before it, as it may at any moment (R191). -/
def State.evictLines (s : State) (w : Who) (lanes : List LaneAddr) : State :=
  lanes.foldl (fun (s : State) l => s.dropL1 (drillCore w.k) (l.pa / 128)) s
/-- A load lands: all lanes together (R158). Poisoned lanes write nothing and mark the slot; helper lanes that fail receive
zero (R78). Lanes that the stack-grant check refuses write nothing (R242). -/
def State.landLoad (s : State) (w : Who) (o : VarOp) (f : LdFn) (lanes : List (LaneAddr × LaneGot)) (global : Bool) : Option State :=
  if lanes.any fun q => q.2 = .wait then none
  else
    let which (x : LaneGot) : Mask := maskOf fun i => !inMask o.helper i && lanes.any fun q => q.1.lane = i && q.2 = x
    let bad := which .poison
    let refused := which .denied
    let addr := ((lanes.find? fun q => inMask bad q.1.lane).map fun q => q.1.va).getD 0
    let vals := laneRegs f fun i => match lanes.find? fun q => q.1.lane = i with
      | some (_, .data bs) => some bs
      | _ => none
    let s := { s with tick := s.tick + 32 }
    let s := if global then s.fillLines w ((lanes.map (·.1)).filter fun l => (tblGet? o.taken l.lane).isNone) else s
    some (((s.endOp w.k o (o.mask &&& ~~~bad &&& ~~~refused) vals []).markLanes w.k o bad addr).denyTrap w.k (refused ≠ 0))
/-- LDU lands (R162). A fault records no lane mask, so that of a poisoned LDU records the CM of its trap (R298; log 94, DEDUCED). -/
def State.landUniform (s : State) (w : Who) (o : VarOp) (wide : Bool) (l : LaneAddr) : Option State :=
  match s.laneNow w o l with
  | .wait => none
  | .denied => some ((s.endOp w.k o 0 [] []).denyTrap w.k true)
  | .poison => some ((State.endOp { s with tick := s.tick + 32 } w.k o 0 [] []).markSlot w.k o none l.va)
  | .data bs =>
    let vals := (ldWords (if wide then .d else .w) bs).map fun v => splat v
    some ((State.fillLines { s with tick := s.tick + 32 } w (if (tblGet? o.taken l.lane).isNone then [l] else [])).endOp w.k o o.mask vals [])
/-- A value of one register, or of a pair, lands. -/
def State.landValue (s : State) (w : Who) (o : VarOp) (v : DLanes) (flags : List (Nat × BitVec 5)) : State :=
  s.endOp w.k o o.mask (words o.into.count v) flags
/-- A word lands in every lane that the operation writes. -/
def State.landWord (s : State) (w : Who) (o : VarOp) (v : Word) : State := s.endOp w.k o o.mask [splat v] []
/-- The word of RING.QRY (R177). -/
def ringStatus (r : Option Ring) : Word :=
  match r with
  | none => 0
  | some r =>
    let n (x : SlotState) : Nat := (r.slots.filter (· = x)).length
    BitVec.ofNat 32 (2 ^ 31 + n .free * 2 ^ 18 + n .full * 2 ^ 9 + r.slots.length)
/-- VGETI and VPUTI of a drill complete in issue order (R142). -/
def Drill.indexedFirst (d : Drill) (o : VarOp) : Bool :=
  d.ops.all fun q => o.seq ≤ q.seq || (match q.kind with
    | .vget .. | .vput .. => false
    | _ => true)
/-- VPUTI writes its lanes (R142). -/
def Drill.putIndexed (d : Drill) (m : Mask) (base : Nat) (x data : Lanes) : Drill :=
  (maskLanes m).foldl (fun (e : Drill) i => e.putV (vStore d.sysMode (base + (lane x i).toNat)) (1#32 <<< i) data) d
/-- The register that a lane of VGETI reads (R142). -/
def Drill.getIndexed (d : Drill) (base : Nat) (x : Lanes) (i : Nat) : Word := lane (d.vAt (vStore d.sysMode (base + (lane x i).toNat))) i
/-- The result of an ARD lands as its command completes, in queue order (R216, R233). -/
def State.landArd (s : State) (w : Who) (o : VarOp) (vals : List Lanes) (flags : List (Nat × BitVec 5)) : Option State :=
  let mine := [(w.d.idx, o.seq)]
  let landed := (s.endOp w.k o o.mask vals flags).plotDone w.d.gid mine false
  match s.plots.find? fun p => p.2.gid = some w.d.gid && p.2.flight.any fun r => !r.finished && r.by_ = mine with
  | none => some landed
  | some (key, p) =>
    if (p.flight.head?.map (·.by_)) = some mine then some ((landed.setPlot key (p.finish mine)).progress key) else none
/-- An operation completes, where it can now (R75). -/
def State.landOp (s : State) (w : Who) (o : VarOp) : Option State :=
  match o.kind with
  | .load f l => if w.d.clearFor o.seq then s.landLoad w o f (l.map fun q => (q, s.laneNow w o q)) true else none
  | .loadLocal f l => if w.d.clearFor o.seq then s.landLoad w o f (l.map fun q => (q, s.laneNow w o q)) false else none
  | .loadUniform wide l => if w.d.clearFor o.seq then s.landUniform w o wide l else none
  | .atom _ sc _ _ _ _ (some v) =>
    let s := s.landValue w o v []
    some (if sc ≥ 3 then s.invalL1 (drillCore w.k) else s)
  | .atomLocal sc (some v) =>
    let s := s.landValue w o v []
    some (if sc ≥ 3 then s.invalL1 (drillCore w.k) else s)
  | .value v flags => some (s.landValue w o v flags)
  | .vget base x =>
    if w.d.indexedFirst o then
      some (s.endOp w.k o o.mask [lanesOf fun i => ((tblGet? o.taken i).map (ofBytes 32)).getD (w.d.getIndexed base x i)] [])
    else none
  | .vput base x data => if w.d.indexedFirst o then some ((s.modDrill w.k fun d => d.putIndexed o.mask base x data).endOp w.k o 0 [] []) else none
  | .ringTake _ _ (some v) => some (s.landWord w o v)
  | .ringWte n => match tblGet? w.g.rings n with
    | some r => if r.slots[r.claim]? = some SlotState.free then some (s.landWord w o (slotWord n r r.claim)) else none
    | none => none
  | .ringQry n => some (s.landWord w o (ringStatus (tblGet? w.g.rings n)))
  | .mbarTest l p =>
    if !w.d.clearFor o.seq || s.gateFor (drillChip w.k) o.seq false l.pa = .hold then none
    else if s.denied w l.pa || s.poisoned l.pa || !s.backed l.pa then some (s.landWord w o 0)
    else
      let b := s.mbarAt l.pa
      let s' := s.endOp w.k o o.mask [splat (if b.done p then 1 else 0)] []
      some (if b.done p && b.scope ≥ 3 then s'.invalL1 (drillCore w.k) else s')
  | .evTest ctx n mask =>
    let met := (s.ctx? ctx).any fun c => c.event n &&& mask = mask
    let s := s.landWord w o (if met then 1 else 0)
    some (if met then s.invalL1 (drillCore w.k) else s)
  | .stkQry n => some (s.landWord w o (s.stkQry n w.g.ctx))
  | .plotRsv (some ok) => some ((s.landWord w o (if ok then 1 else 0)).plotDone w.d.gid [(w.d.idx, o.seq)] false)
  | .plotQry sel => let (v, s) := s.plotQry w.g sel; some (s.landWord w o v)
  | .ard _ _ nf (some (vals, flags)) => s.landArd w o vals (if nf then [] else flags)
  | .idle => some (s.endOp w.k o 0 [] [])
  | .block units => if w.d.st ≠ .stalled && units.all fun l => (s.remoteLane o l).isSome then some (s.endOp w.k o 0 [] []) else none
  | .atom .. | .atomLocal _ none | .ringTake _ _ none | .plotRsv none | .ard _ _ _ none => none
/-- The lines of global memory that a load reads. -/
def VarKind.loads : VarKind → List LaneAddr
  | .load _ l => l
  | .loadUniform _ a => [a]
  | _ => []
/-- A result that is there and has not landed. -/
def VarOp.result (o : VarOp) : Option (List Lanes) :=
  match o.kind with
  | .atom _ _ _ _ _ _ (some v) => some (words o.into.count v)
  | .atomLocal _ (some v) => some (words o.into.count v)
  | .value v _ => some (words o.into.count v)
  | .ringTake _ _ (some v) => some [splat v]
  | .plotRsv (some ok) => some [splat (if ok then 1 else 0)]
  | .ard _ _ _ (some (vals, _)) => some vals
  | _ => none
/-- Lanes of an operation are performed before the others, and their data kept for its landing (R158). -/
def State.takeLanes (s : State) (w : Who) (o : VarOp) (data : Tbl (List Byte)) : State :=
  s.modDrill w.k fun d => { d with ops := d.ops.map fun q => if q.seq = o.seq then { q with taken := data.foldl (fun t p => tblSet t p.1 p.2) q.taken } else q }
/-- Lanes of a destination hold the new value before the operation completes (R75). -/
def State.landEarly (s : State) (w : Who) (o : VarOp) (m : Mask) (vals : List Lanes) : State :=
  s.modDrill w.k fun d => d.landVar { o with latch := none } m vals []
/-- The lanes of `m` that give data are performed now, those of devices in ascending order (R152), and where `write` says so their registers hold it from now on (R75,
R158); the operation stays outstanding. -/
def State.performEarly (s : State) (w : Who) (o : VarOp) (m : Mask) (write : Bool) : Option State :=
  match o.kind with
  | .vget base x =>
    if !w.d.indexedFirst o then none
    else
      let data := (maskLanes (o.mask &&& m)).map fun i => (i, ((tblGet? o.taken i).getD (toBytes (w.d.getIndexed base x i) 4)))
      let s := s.takeLanes w o data
      some (if write then s.landEarly w o (o.mask &&& m) [lanesOf fun i => ((tblGet? data i).map (ofBytes 32)).getD 0] else s)
  | .vput base x data => if w.d.indexedFirst o && write then some (s.modDrill w.k fun d => d.putIndexed (o.mask &&& m) base x data) else none
  | _ => match o.result with
    | some vals => if write then some (s.landEarly w o (o.mask &&& m) vals) else none
    | none =>
      if !w.d.clearFor o.seq then none
      else
        let fresh (l : LaneAddr) : Bool := (tblGet? o.taken l.lane).isNone
        let inTurn (l : LaneAddr) : Bool := classOf l.pa ≠ .uncached ||
          (o.lanesIn .uncached).all fun q => l.lane ≤ q.lane || inMask m q.lane || !fresh q
        let chosen := o.loadLanes.filter fun l => inMask m l.lane && inTurn l
        let new := chosen.filter fresh
        let data := chosen.filterMap fun l => match s.laneNow w o l with
          | .data bs => some (l.lane, bs)
          | _ => none
        let here : Mask := maskOf fun i => (tblGet? data i).isSome
        let s := { s with tick := s.tick + 32 }
        let s := (match o.kind with | .loadLocal .. => s | _ => s.fillLines w new).takeLanes w o data
        if !write || data.isEmpty then some s
        else match o.kind with
        | .load f _ => some (s.landEarly w o (o.mask &&& here) (laneRegs f fun i => tblGet? data i))
        | .loadLocal f _ => some (s.landEarly w o (o.mask &&& here) (laneRegs f fun i => tblGet? data i))
        | .loadUniform wide _ => some (s.landEarly w o o.mask ((ldWords (if wide then .d else .w) ((data.map (·.2)).headD [])).map splat))
        | _ => none
/-- VARIABLE_RESULT_LANDING (R75): an operation completes; with `early`, only the lanes named are performed, and its destination
may hold their new value before it completes. -/
def execVariableResultLanding (k seq : Nat) (evict : Bool) (early : Option (Mask × Bool)) (s : State) : Host.Outcome State Fault Refusal :=
  match s.who? k with
  | none => .next s
  | some w => match w.d.ops.find? (·.seq = seq) with
    | none => .next s
    | some o =>
      let s' := if evict then s.evictLines w o.kind.loads else s
      .next ((match early with
        | none => s'.landOp w o
        | some (m, write) => s'.performEarly w o m write).getD s)

/-- Bytes of an atomic operation. -/
def AtomOp.bytes : AtomOp → Nat
  | .int _ _ true => 8
  | _ => 4
/-- Op of R163 on n-bit integers; CAS writes nothing on a mismatch. -/
def atomInt {n : Nat} (f : AtomFn) (u : Bool) (old b d : BitVec n) : Option (BitVec n) :=
  let less (x y : BitVec n) : Bool := if u then x.ult y else x.slt y
  match f with
  | .add => some (old + b)
  | .min => some (if less b old then b else old)
  | .max => some (if less old b then b else old)
  | .and => some (old &&& b)
  | .or => some (old ||| b)
  | .xor => some (old ^^^ b)
  | .xchg => some b
  | .cas => if old = d then some b else none
/-- Op of R163 and R165. -/
def AtomOp.new (op : AtomOp) (old b d : DWord) : Option DWord :=
  let lo (x : DWord) : Word := x.setWidth 32
  let h (x : DWord) (j : Nat) : Nat := field x (16 * j) 16
  match op with
  | .int f u true => atomInt f u old b d
  | .int f u false => (atomInt f u (lo old) (lo b) (lo d)).map (·.setWidth 64)
  | .flt .add => some (BitVec.ofNat 64 (fpAdd fmtF32 .rne (lo old).toNat (lo b).toNat).1)
  | .flt .min => some (BitVec.ofNat 64 (fpMnm fmtF32 .min (lo old).toNat (lo b).toNat).1)
  | .flt .max => some (BitVec.ofNat 64 (fpMnm fmtF32 .max (lo old).toNat (lo b).toNat).1)
  | .flt .xchg => some ((lo b).setWidth 64)
  | .pairAdd => some (BitVec.ofNat 64 ((fpAdd fmtBF16 .rne (h old 0) (h b 0)).1 + 65536 * (fpAdd fmtBF16 .rne (h old 1) (h b 1)).1))
/-- Where an ATOM or RED of a core's drill executes (R167): in the requesting L2, or at the home's atomic unit. The core's L1D line,
if present, takes the new bytes: drills of one core never see each other's data stale (R191). -/
def State.atomPut (s : State) (c : Nat) (home : Bool) (pa : Nat) (bs : List Byte) : State :=
  let ws := runOf pa bs
  let s := if !home then s.cohWrite (coreChip c) ws
    else match regionOf pa with
      | .stack k _ => let o := s.stackOwner k; if 4 ≤ o && o < 8 then s.cohWrite o ws else s.ioWrite ws
      | _ => s.ioWrite ws
  s.putL1 c ws
/-- An n-byte value in memory. -/
def State.valueAt (s : State) (pa n : Nat) : DWord := ofBytes 64 (s.bytesAt pa n)
/-- The lanes of an ATOM, ascending (R163), but those that the stack-grant check refuses: the old values and the poisoned lanes
(R78, R201). -/
def atomLanes (s : State) (w : Who) (o : VarOp) (op : AtomOp) (home : Bool) (b d : DLanes) : List LaneAddr → DLanes → Mask → State × DLanes × Mask
  | [], got, bad => (s, got, bad)
  | l :: rest, got, bad =>
    let put (v : DWord) : DLanes := lanesOf fun i => if i = l.lane then v else lane got i
    let bit : Mask := 1#32 <<< l.lane
    if classOf l.pa = .remote then match s.remoteLane o l with
      | some (some v) => atomLanes s w o op home b d rest (put (ofBytes 64 (toBytes v op.bytes))) bad
      | _ => atomLanes s w o op home b d rest got (bad ||| bit)
    else if s.poisoned l.pa || !s.backed l.pa then atomLanes s w o op home b d rest got (bad ||| bit)
    else
      let old := s.valueAt l.pa op.bytes
      let s := match op.new old (lane b l.lane) (lane d l.lane) with
        | some v => s.atomPut (drillCore w.k) home l.pa (toBytes v op.bytes)
        | none => s
      atomLanes s w o op home b d rest (put old) bad
/-- RED operands of one address combine with the value in memory in an order that is not specified (R165): two at a time, by
free choice. -/
def combine (op : AtomOp) (t : Nat) : Nat → List DWord → DWord
  | 0, l => l.headD 0
  | n + 1, l =>
    if l.length ≤ 1 then l.headD 0
    else
      let i := Config.freeNat t (2 * n) % l.length
      let r := l.eraseIdx i
      let j := Config.freeNat t (2 * n + 1) % r.length
      combine op t n (r.eraseIdx j ++ [(op.new (l.getD i 0) (r.getD j 0) 0).getD 0])
/-- A RED with scope acts as though a FENCE.REL stood before it (R192); so does an ATOM. -/
def Drill.scopeOpen (d : Drill) (o : VarOp) (scope : Nat) : Bool :=
  scope = 0 || (d.relReady o.seq scope && d.storeQueue.all fun e => o.seq ≤ e.seq)
/-- An ATOM or RED can be performed now: what orders it is done, no lane is held, its remote lanes are answered. -/
def State.atomOpen (s : State) (w : Who) (o : VarOp) : Bool :=
  match o.kind with
  | .atom _ sc l _ _ _ none =>
    w.d.clearFor o.seq && w.d.scopeOpen o sc && (o.remotes.all fun q => (s.remoteLane o q).isSome) &&
    l.all fun q => classOf q.pa = .remote || s.gateFor (drillChip w.k) o.seq true q.pa ≠ .hold
  | _ => false
/-- The RED operands that an operation brings, by core and address. -/
def State.redLanes (s : State) (w : Who) (o : VarOp) : List (Nat × Nat × DWord) :=
  match o.kind with
  | .atom _ _ l b _ true _ => (l.filter fun q => classOf q.pa ≠ MemClass.remote && !s.denied w q.pa).map fun q => (drillCore w.k, q.pa, lane b q.lane)
  | _ => []
/-- The operation of an ATOM or RED. -/
def VarOp.atomOp (o : VarOp) : Option AtomOp := match o.kind with | .atom op .. => some op | _ => none
/-- The lanes that the stack-grant check refuses now (R242). -/
def State.deniedLanes (s : State) (w : Who) (l : List LaneAddr) : Mask := maskOf fun i => l.any fun q => q.lane = i && s.denied w q.pa
/-- Other RED operations that are combined with one (R165): a free choice among those that can be performed. -/
def State.redMates (s : State) (t : Nat) (k : Nat) (o : VarOp) : List (Who × VarOp) :=
  s.drills.flatMap fun p => match s.who? p.1 with
    | none => []
    | some w => (p.2.ops.filter fun q => q.isRed && !(p.1 = k && q.seq = o.seq) && q.atomOp = o.atomOp && q.remotes.isEmpty && s.atomOpen w q &&
        s.chipUp (drillChip p.1) && Config.freeBool t q.seq).map fun q => (w, q)
/-- The RED operands are added to memory (R165). -/
def State.reduce (s : State) (c : Nat) (op : AtomOp) (home : Bool) (l : List (Nat × Nat × DWord)) : State :=
  let addrs := l.foldl (fun (r : List Nat) q => setAdd r q.2.1) []
  addrs.foldl (fun (s : State) a =>
    let (t, s) := s.free
    let here := l.filter fun q => q.2.1 = a
    let xs := here.map (·.2.2)
    if !s.backed a then s
    else
      let bs := toBytes (combine op t xs.length (s.valueAt a op.bytes :: xs)) op.bytes
      here.foldl (fun (s : State) q => s.putL1 q.1 (runOf a bs)) (s.atomPut c home a bs)) s
/-- A RED that has been performed leaves the operations of its drill; what went to a port that is not up is lost (R370). -/
def State.redDone (s : State) (w : Who) (o : VarOp) : State :=
  let refused := match o.kind with | .atom _ _ l _ _ _ _ => s.deniedLanes w l ≠ 0 | _ => false
  let down := o.remotes.filterMap fun l => if (tblGet? o.answers l.lane).isNone then s.remotePort l.pa else none
  let s := (down.foldl (fun (r : List Nat) n => setAdd r n) []).foldl (fun (s : State) n => s.countErr n 1) s
  ((s.modDrill w.k fun d => { d with ops := d.ops.filter fun q => q.seq ≠ o.seq }).settle w.k).denyTrap w.k refused
/-- The first lanes of an ATOM or RED are performed before the others, each a read-modify-write of its own (R158, R163): where they
are in the package and meet neither poison nor a refusal. -/
def State.atomPart (s : State) (w : Who) (o : VarOp) (n : Nat) (home : Bool) : Option State :=
  match o.kind with
  | .atom op sc l b d isRed none =>
    let a := l.take n
    let o' : VarOp := { o with kind := .atom op sc a b d isRed none }
    if !o.remotes.isEmpty || !s.atomOpen w o' || a.any (fun q => s.denied w q.pa || s.poisoned q.pa || !s.backed q.pa) then none
    else
      let (s, old) := if isRed then (s.reduce (drillCore w.k) op home (s.redLanes w o'), splat 0)
        else let (s, got, _) := atomLanes s w o' op home b d a (splat 0) 0; (s, got)
      let s := s.takeLanes w o (if isRed then [] else a.map fun q => (q.lane, toBytes (lane old q.lane) 8))
      some (s.modDrill w.k fun e => { e with ops := e.ops.map fun q => if q.seq = o.seq then { q with kind := .atom op sc (l.drop n) b d isRed none } else q })
  | _ => none
/-- ATOM_PERFORM (R163-R167); with `part`, of the first lanes only. -/
def execAtomPerform (k seq : Nat) (home : Bool) (part : Option Nat) (s : State) : Host.Outcome State Fault Refusal :=
  match s.who? k with
  | none => .next s
  | some w => match w.d.ops.find? (·.seq = seq) with
    | none => .next s
    | some o => match part with
      | some n => .next ((s.atomPart w o n home).getD s)
      | none =>
      if !s.atomOpen w o then .next s
      else match o.kind with
      | .atom op sc l b d isRed _ =>
        if isRed then
          let (t, s) := s.free
          let mates := s.redMates t k o
          let s := s.reduce (drillCore k) op home (((w, o) :: mates).flatMap fun q => s.redLanes q.1 q.2)
          .next (((w, o) :: mates).foldl (fun (s : State) q => (s.redDone q.1 q.2).retest q.1.d.gid) s)
        else
          let refused := s.deniedLanes w l
          let (s, got, bad) := atomLanes s w o op home b d (l.filter fun q => !s.denied w q.pa) o.oldTaken 0
          let addr := ((l.find? fun q => inMask bad q.lane).map (·.va)).getD 0
          .next (((s.modDrill k fun e => { e with ops := e.ops.map fun q =>
            if q.seq = seq then { q with kind := .atom op sc l b d isRed (some got), mask := q.mask &&& ~~~bad &&& ~~~refused } else q }).markLanes
            k o bad addr).denyTrap k (refused ≠ 0))
      | _ => .next s

/-- Nothing holds the entry at the head of a store queue: acquires and scoped atomics before it, and the release of a scoped
RED before it (R170, R192). -/
def Drill.canLeave (d : Drill) (seq : Nat) : Bool :=
  (d.acquires.all fun p => seq ≤ p.1) &&
  d.ops.all fun o => seq ≤ o.seq || (!o.scoped && (match o.kind with
    | .atom _ sc _ _ _ true _ => sc = 0 || d.relReady o.seq sc
    | _ => true))
/-- Writes bytes at places of local store (R158, R178). -/
def State.putLocs (s : State) (w : Who) (l : List (Loc × Byte)) : State :=
  l.foldl (fun (s : State) q => match q.1 with
    | .mem pa => if s.denied w pa then s.denyTrap w.k true else s.storeBytes (drillCore w.k) [(pa, q.2)]
    | .ls core a => s.lsWrite core [(a, q.2)]
    | .lost _ => s) s
/-- A place takes a write now. -/
def State.locOpen (s : State) (w : Who) (seq : Nat) (p : Loc) : Bool :=
  match p with
  | .mem pa => s.gateFor (drillChip w.k) seq true pa ≠ .hold
  | _ => true
/-- The stash entries that a local access writes become DIRTY; one that a snoop made INVALID since is filled again (R178). -/
def State.dirtyStash (s : State) (w : Who) (addrs : List LaneAddr) : State :=
  addrs.foldl (fun (s : State) q =>
    let a : Word := q.va.setWidth 32
    match if a.getLsbD 31 then none else stashAt w.g (field a 0 19) with
    | some (r, l) => s.modGroup w.d.gid fun g => { g with stash := tblMod g.stash r fun t => { t with entries := match s.localLoc w a with
          | .mem pa => tblSet t.entries l (pa / 128, true)
          | _ => t.entries } }
    | none => s) s
/-- The remote package that two accesses share, by its port. -/
def State.samePort (s : State) (a b : LaneAddr) : Bool := (s.remotePort a.pa).isSome && s.remotePort a.pa = s.remotePort b.pa
/-- A remote access of the drill before a stamp that is not answered goes to the package of a lane (R202). -/
def State.remoteBefore (s : State) (d : Drill) (seq : Nat) (l : LaneAddr) : Bool :=
  d.ops.any fun o => o.seq < seq && o.remotes.any fun q => s.samePort l q && (s.remoteLane o q).isNone
/-- A store's lanes are performed, in ascending order (R158, R195, R202). -/
def State.storeLanes (s : State) (w : Who) (l : List (LaneAddr × List Byte)) : State :=
  l.foldl (fun (s : State) q =>
    let pa := q.1.pa
    match classOf pa with
    | .cacheable => if s.denied w pa then s.denyTrap w.k true else if s.backed pa then s.storeBytes (drillCore w.k) (runOf pa q.2) else s
    | .uncached => s.deviceWrite noHart pa q.2
    | .remote => match s.remotePort pa with
      | some n => if s.linkUp n then s.modDrill w.k fun d => { d with remoteStores := d.remoteStores ++ [(n, q.1.va)] } else s.countErr n 1
      | none => s
    | .none => s) s
/-- ATOMS as its entry leaves (R166): lanes ascending; the old values, and the lanes that write nothing: poisoned ones, and those
that the stack-grant check refuses. -/
def atomsLanes (s : State) (w : Who) (op : AtomOp) (b d : DLanes) : List LaneAddr → DLanes → Mask → Mask → State × DLanes × Mask × Mask
  | [], got, bad, no => (s, got, bad, no)
  | l :: rest, got, bad, no =>
    let places := s.localLocs w l 4
    match laneGot (places.map fun p => s.drillByte w 0 false p) with
    | .data bs =>
      let old : DWord := ofBytes 64 bs
      let s := match op.new old (lane b l.lane) (lane d l.lane) with
        | some v => s.putLocs w (places.zip (toBytes v 4))
        | none => s
      atomsLanes s w op b d rest (lanesOf fun i => if i = l.lane then old else lane got i) bad no
    | .denied => atomsLanes s w op b d rest got bad (no ||| 1#32 <<< l.lane)
    | _ => atomsLanes s w op b d rest got (bad ||| 1#32 <<< l.lane) no
/-- CACHE as its entry leaves (R169, R404), on the lines of its lanes that are cacheable. -/
def State.cacheLine (s : State) (op l : Nat) : State :=
  let all (s : State) : State := { s with cores := tblMap s.cores fun _ (c : Core) => { c with l1d := tblErase c.l1d l } }
  match op with
  | 0 => s.cleanLine l
  | 1 => all (s.dropLine l)
  | _ => all (s.flushLine l)
/-- A write of a memory barrier object (R283). -/
def State.putMbar (s : State) (w : Who) (pa : Nat) (o : MbarObj) : State := s.storeBytes (drillCore w.k) (runOf pa o.bytes)
/-- An operation on a memory barrier object as its entry leaves (R284, R285): poison and state errors are taken at the next
boundary. -/
def State.mbarAct (s : State) (w : Who) (seq : Nat) (l : LaneAddr) (f : MbarObj → Except Nat MbarObj) : Option State :=
  if s.gateFor (drillChip w.k) seq true l.pa = .hold then none
  else if s.denied w l.pa then some (s.denyTrap w.k true)
  else if s.poisoned l.pa || !s.backed l.pa then some (s.modDrill w.k fun d => d.addTrap 0x15 0 0)
  else match f (s.mbarAt l.pa) with
    | .ok o => some (s.putMbar w l.pa o)
    | .error n => some (s.modDrill w.k fun d => d.addTrap 0x27 n 0)
/-- Commands that a station holds (R182). -/
def Station.held (t : Station) : Nat := t.queue.length + (if t.run.isSome then 1 else 0)
/-- A station accepts a command (R182). -/
def Station.take (t : Station) (c : CopyCmd) : Station := { t with queue := t.queue ++ [c] }
/-- LNCH.POST as its entry leaves (R324): Headland takes the packet's address and bytes. -/
def State.postNow (s : State) (w : Who) (queue id : Nat) (va : DWord) : Option State :=
  match s.serviceRead w.g.ctx va 128 with
  | .held => none
  | .got bs pa s => some (s.postEntry queue id (some pa) bs)
  | .bad => some (s.postEntry queue id none [])
/-- What an entry does when it leaves the queue (R159); `none` while it cannot leave. -/
def State.leave (s : State) (w : Who) (e : SqEntry) : Option State :=
  let chip := drillChip w.k
  let when (c : Bool) (s : State) : Option State := if c then some s else none
  match e.kind with
  | .store l =>
    when ((l.all fun q => classOf q.1.pa ≠ .cacheable || s.gateFor chip e.seq true q.1.pa ≠ .hold) &&
        ((e.lanesIn .uncached).isEmpty || w.d.uncachedDone e.seq) && (e.lanesIn .remote).all fun q => !s.remoteBefore w.d e.seq q)
      (s.storeLanes w l)
  | .storeLocal l =>
    let ws := l.flatMap fun q => (s.localLocs w q.1 q.2.length).zip q.2
    when (ws.all fun q => s.locOpen w e.seq q.1) ((s.putLocs w ws).dirtyStash w (l.map (·.1)))
  | .atomLocal op sc l b d =>
    if (sc ≠ 0 && !w.d.relReady e.seq sc) || !(l.all fun q => (s.localLocs w q 4).all (s.locOpen w e.seq)) then none
    else
      let old := ((w.d.ops.find? (·.seq = e.seq)).map VarOp.oldTaken).getD (splat 0)
      let (s, got, bad, no) := atomsLanes s w op b d l old 0 0
      let s := (s.dirtyStash w l).denyTrap w.k (no ≠ 0)
      let addr := ((l.find? fun q => inMask bad q.lane).map (·.va)).getD 0
      let s := s.modDrill w.k fun d => { d with ops := d.ops.map fun q =>
        if q.seq = e.seq then { q with kind := .atomLocal sc (some got), mask := q.mask &&& ~~~bad &&& ~~~no } else q }
      some (match w.d.ops.find? (·.seq = e.seq) with | some o => s.markLanes w.k o bad addr | none => s)
  | .ringPub n j => some (s.modGroup w.d.gid fun g => { g with rings := tblMod g.rings n fun r => { r with slots := r.slots.set j .full } })
  | .ringRel n j =>
    when (w.d.readsDone e.seq) (s.modGroup w.d.gid fun g => { g with rings := tblMod g.rings n fun r => { r with slots := r.slots.set j .free } })
  | .stashOp r op => match tblGet? w.g.stash r with
    | none => some s
    | some t =>
      if !(t.entries.all fun q => s.gateFor chip e.seq true (128 * q.2.1) ≠ .hold) then none
      else match op with
      | 0 => some (s.stashUnmap w.d.gid r)
      | 1 => some ((s.stashFlush t).modGroup w.d.gid fun g => { g with
          stash := tblMod g.stash r fun t => { t with entries := tblMap t.entries fun _ (q : Nat × Bool) => (q.1, false) } })
      | _ => some (s.stashInv w.d.gid r)
  | .copy c out =>
    let c := { c with seq := e.seq }
    if out then when (w.g.stO.held < 32) (s.modGroup w.d.gid fun g => { g with stO := g.stO.take c })
    else when (w.g.stI.held < 32) (s.modGroup w.d.gid fun g => { g with stI := g.stI.take c })
  | .cache op l =>
    let ls := l.filter fun q => classOf q.pa = .cacheable
    when (ls.all fun q => s.gateFor chip e.seq true q.pa ≠ .hold) ((ls.foldl (fun (s : State) q => if s.denied w q.pa then s else s.cacheLine op (q.pa / 128)) s).denyTrap w.k (ls.any fun q => s.denied w q.pa))
  | .fence sc ar =>
    when (w.d.relReady e.seq sc) (if ar && sc ≥ 3 then s.invalL1 (drillCore w.k) else s)
  | .plot c => when (s.plotRoom w.g) (s.joinStream w.d.gid c)
  | .mbarInit l x => s.mbarAct w e.seq l fun o => .ok (o.init x)
  | .mbarArr l n =>
    if w.d.relReady e.seq (s.mbarAt l.pa).scope then s.mbarAct w e.seq l fun o => o.arrive n else none
  | .mbarInv l => s.mbarAct w e.seq l fun o => .ok { o with w3 := putField o.w3 24 8 0 }
  | .post queue id va => s.postNow w queue id va
  | .evSet ctx n mask set => some (s.setEvents ctx n mask set)
  | .cede stk side tk1 => when (w.d.readsDone e.seq) (s.cedeSend w.d.gid w.d.idx w.g.ctx stk side tk1)
/-- The first lanes of an entry, and the rest of it. -/
def SqKind.cut (n : Nat) : SqKind → Option (SqKind × SqKind)
  | .store l => some (.store (l.take n), .store (l.drop n))
  | .storeLocal l => some (.storeLocal (l.take n), .storeLocal (l.drop n))
  | .cache op l => some (.cache op (l.take n), .cache op (l.drop n))
  | _ => none
/-- The first lanes of the oldest entry are performed, and the entry stays with the others (R158); lanes of ATOMS that meet
neither poison nor a refusal. -/
def State.leavePart (s : State) (w : Who) (e : SqEntry) (n : Nat) : Option State :=
  let keep (s : State) (rest : SqKind) : State :=
    s.modDrill w.k fun d => { d with storeQueue := d.storeQueue.map fun q => if q.seq = e.seq then { q with kind := rest } else q }
  match e.kind.cut n with
  | some (a, b) => (s.leave w { e with kind := a }).map fun s => keep s b
  | none => match e.kind with
    | .atomLocal op sc l b d =>
      let a := l.take n
      if (sc ≠ 0 && !w.d.relReady e.seq sc) || !(a.all fun q => (s.localLocs w q 4).all (s.locOpen w e.seq)) then none
      else
        let (s, got, bad, no) := atomsLanes s w op b d a (splat 0) 0 0
        if bad ≠ 0 || no ≠ 0 then none
        else
          let s := match w.d.ops.find? (·.seq = e.seq) with
            | some o => s.takeLanes w o (a.map fun (q : LaneAddr) => (q.lane, toBytes (lane got q.lane) 8))
            | none => s
          some (keep (s.dirtyStash w a) (.atomLocal op sc (l.drop n) b d))
    | _ => none
/-- STORE_QUEUE_DEPARTURE (R159): the oldest entry leaves, and barriers that waited for it are tested (R193); with `part`, its first
lanes are performed and it stays. Where there is no drill, a store that a lost drill has left on its way arrives (R87). -/
def execStoreQueueDeparture (k : Nat) (part : Option Nat) (s : State) : Host.Outcome State Fault Refusal :=
  match s.who? k with
  | none => .next (match s.strays with
    | [] => s
    | (pa, bs) :: rest => { s with strays := rest }.deviceWrite noHart pa bs)
  | some w => match w.d.storeQueue with
    | [] => .next s
    | e :: _ =>
      if !w.d.canLeave e.seq then .next s
      else match part with
      | some n => .next ((s.leavePart w e n).getD s)
      | none => match s.leave w e with
        | none => .next s
        | some s => .next ((s.modDrill k fun d => { d with storeQueue := d.storeQueue.filter fun q => q.seq ≠ e.seq }).retest w.d.gid)

/-- A chiplet with a cache that takes part in coherence (R15): a Coulter or a Sower die. -/
def caches (chip : Nat) : Bool := (1 ≤ chip && chip ≤ 2) || (4 ≤ chip && chip < 8)
/-- A chiplet's cache gives up its copy of a line: what it holds modified is written back. -/
def State.evict (s : State) (chip l : Nat) : State :=
  let s := match tblGet? s.owned l with
    | some o => if o.chip = chip then let s := s.cleanLine l; { s with owned := tblErase s.owned l } else s
    | none => s
  let s := s.stashDrop chip l
  let left := tblGet s.sharers l 0 &&& ~~~(1#16 <<< chip)
  { s with sharers := if left = 0 then tblErase s.sharers l else tblSet s.sharers l left }
/-- No agent but a die holds a line of a 4 KiB region. -/
def State.regionFree (s : State) (chip region : Nat) : Bool :=
  (s.owned.all fun p => p.1 / 32 ≠ region || p.2.chip = chip) && s.sharers.all fun p => p.1 / 32 ≠ region || p.2 &&& ~~~(1#16 <<< chip) = 0
/-- DIRECTORY_REQUEST (R15, R154): a chiplet's cache takes or gives up a line, as it may at any time; or the owner of a stack
gains a region grant. No value that an agent may observe depends on that. Or a PCIe device reads from the directory, or writes and
invalidates copies (R15, R350). -/
def execDirectoryRequest (chip line : Nat) (kind : DirKind) (s : State) : Host.Outcome State Fault Refusal :=
  let a := 128 * line
  let fails := !caches chip || classOf a ≠ .cacheable || !s.backed a
  match kind with
  | .device r => .next (s.deviceRequest r)
  | .share => .next (if !fails && s.gateAt chip false a = .go && !s.poisoned a then s.shareLine chip line else s)
  | .own => .next (if !fails && s.gateAt chip true a = .go && !s.poisoned a then s.ownLine chip line else s)
  | .drop => .next (if !fails && s.gate a = .go then s.evict chip line else s)
  | .grant => match regionOf a with
    | .stack k _ =>
      .next (if !fails && s.gate a = .go && s.stackOwner k = chip && 4 ≤ chip && s.regionFree chip (line / 32) && !s.grants.contains (chip, line / 32)
        then { s with grants := s.grants ++ [(chip, line / 32)] } else s)
    | _ => .next s

/-- The response of the package beyond port n to a remote load, ATOM or RED arrives: the lanes that go there are performed there in
program order (R202, R370). -/
def State.remoteAnswer (s : State) (w : Who) (o : VarOp) (n : Nat) (ok : Bool) (data : List (BitVec 128)) : State :=
  let lanes := s.unanswered n o
  let before := (w.d.remoteStores.any (·.1 = n)) || lanes.any fun l => s.remoteBefore w.d o.seq l ||
    w.d.storeQueue.any fun e => e.seq < o.seq && (e.lanesIn .remote).any (s.samePort l)
  let scopeOk := match o.kind with
    | .atom _ sc .. => w.d.scopeOpen o sc
    | _ => true
  if lanes.isEmpty || before || !scopeOk || !s.linkUp n || !w.d.clearFor o.seq || (ok && !o.isRed && data.length ≠ lanes.length) then s
  else
    let got := lanes.mapIdx fun j l => (l.lane, if ok then some (data.getD j 0) else none)
    let s := s.modDrill w.k fun d => { d with ops := d.ops.map fun q => if q.seq = o.seq then q.answer got else q }
    if o.isRed && !ok then s.countErr n 1 else s
/-- REMOTE_RESPONSE (R202, R370): a remote access is answered, or its oldest store acknowledged. -/
def execRemoteResponse (src : RemoteSrc) (ok : Bool) (data : List (BitVec 128)) (s : State) : Host.Outcome State Fault Refusal :=
  match src with
  | .op k seq n => match s.who? k with
    | none => .next s
    | some w => match w.d.ops.find? (·.seq = seq) with
      | none => .next s
      | some o => .next (if s.chipUp (drillChip k) then s.remoteAnswer w o n ok data else s)
  | .store k => match s.drill? k with
    | none => .next s
    | some d => match d.remoteStores with
      | [] => .next s
      | (n, _) :: rest =>
        if !s.linkUp n || !s.chipUp (drillChip k) then .next s
        else
          let s := s.setDrill k { d with remoteStores := rest }
          .next (if ok then s else s.countErr n 1)

/-- Writes at home without snooping, as a Hedgerow die makes them (R15); it is none of the writes that clear poison (R201). -/
def State.hedgerowWrite (s : State) (a : Nat) (bs : List Byte) : State := s.writeHome ((runOf a bs).filter fun q => !s.deaf q.1)
/-- The bytes that an inbound access touches. -/
def inboundSize (op : InboundOp) : Nat :=
  match op with
  | .read n => n
  | .write data => data.length
  | .atomI _ _ wide _ _ => if wide then 8 else 4
  | .atomF .. | .redBf _ => 4
/-- An inbound access returns data. -/
def inboundAnswers (op : InboundOp) : Bool :=
  match op with
  | .read _ => true
  | .write _ | .redBf _ => false
  | .atomI _ _ _ red _ | .atomF _ red _ => !red
/-- An inbound access that a remote program's instructions can make (R163, R165, R369): at most a flit's 256 bytes; an atomic is
aligned, and a RED returns nothing that it would need. -/
def inboundLegal (op : InboundOp) (addr : Nat) : Bool :=
  match op with
  | .read n => 0 < n && n ≤ 256
  | .write data => 0 < data.length && data.length ≤ 256
  | .atomI f _ _ red _ => addr % inboundSize op = 0 && !(red && (f = .xchg || f = .cas))
  | .atomF f red _ => addr % inboundSize op = 0 && !(red && f = .xchg)
  | .redBf _ => addr % inboundSize op = 0
/-- What an inbound atomic writes over an old value (R163, R165); `cmp` is the DST that CAS compares with. -/
def inboundNew (op : InboundOp) (cmp old : DWord) : Option DWord :=
  match op with
  | .read _ | .write _ => none
  | .atomI f u wide _ b => (AtomOp.int f u wide).new old b cmp
  | .atomF f _ b => (AtomOp.flt f).new old (b.setWidth 64) 0
  | .redBf b => AtomOp.pairAdd.new old (b.setWidth 64) 0
/-- INBOUND_REMOTE_ACCESS (R369, R371): through a port that is up and accepts, to cacheable addresses that are backed; any other is
answered with an error. A read or an ATOM of poison is an error (R201); a RED is written beside it. -/
def execInboundRemoteAccess (port : Nat) (op : InboundOp) (addr : Nat) (cmp : DWord) (s : State) : Host.Outcome State Fault Refusal :=
  let places := (List.range (inboundSize op)).map (addr + ·)
  let fails := !(s.reg (0xF0080 + 8 * port)).getLsbD 0 || !inboundLegal op addr || places.any fun a => classOf a ≠ .cacheable || !s.backed a
  let bad := places.any s.poisoned
  let old := places.map s.homeByte
  if 16 ≤ port || !s.linkUp (24 + port) || (!fails && places.any fun a => s.gate a = .hold) then .next s
  else if fails || (bad && inboundAnswers op) then .next { s with inbound := none }
  else match op with
  | .read _ => .next { s with inbound := some old }
  | .write data => .next { s.hedgerowWrite addr data with inbound := some [] }
  | .atomI .. | .atomF .. | .redBf _ =>
    let s := match inboundNew op cmp (ofBytes 64 old) with
      | some v => s.hedgerowWrite addr (toBytes v (inboundSize op))
      | none => s
    .next { s with inbound := some (if inboundAnswers op then old else []) }

end Sys2Proof.Machine
end

