-- ==== Sys2Proof/Machine/Engines.lean ====
section
/-!
DEFINITION. The copy engines (R182-R184, R196, R228), the rings' requests (R175), and AST as its plot performs it (R235-R237). Units
of a copy and lines of an AST become visible at its completion or at events before it (log 19, DEDUCED).
-/
namespace Sys2Proof.Machine

/-- A request for a slot is served, where it can be (R175): the ring, the slot. -/
def Ring.serve (r : Ring) (claim : Bool) : Option (Ring × Nat) :=
  let n := r.slots.length
  if claim then
    if r.slots[r.claim]? = some SlotState.free then some ({ r with slots := r.slots.set r.claim .claimed, claim := (r.claim + 1) % n }, r.claim) else none
  else if r.slots[r.take]? = some SlotState.full then some ({ r with slots := r.slots.set r.take .held, take := (r.take + 1) % n }, r.take) else none
/-- The slot that a request was given reaches the operation of its drill, or station I (R182). -/
def State.slotGiven (s : State) (gid : Nat) (q : RingReq) (r : Ring) (j : Nat) : State :=
  match q.who with
  | some (k, seq) => s.modDrill k fun d => { d with ops := d.ops.map fun o =>
      if o.seq = seq then { o with kind := .ringTake q.ring q.claim (some (slotWord q.ring r j)) } else o }
  | none => s.modGroup gid fun g => { g with stI := { g.stI with claiming := false, run := g.stI.run.map fun x => { x with slot := some j } } }
/-- The oldest request of one kind at a ring. -/
def State.serveFirst (s : State) (gid ring : Nat) (claim : Bool) : Option State :=
  match s.group? gid with
  | none => none
  | some g => match g.ringReqs.find? (fun q => q.ring = ring && q.claim = claim), tblGet? g.rings ring with
    | some q, some r => (r.serve claim).map fun p =>
        (s.setGroup gid { g with rings := tblSet g.rings ring p.1, ringReqs := g.ringReqs.erase q }).slotGiven gid q p.1 p.2
    | _, _ => none
/-- RING_REQUEST_SERVED (R175, R182): claims have one order and takes another; where both can be served, a claim is. -/
def execRingRequestServed (gid ring : Nat) (s : State) : Host.Outcome State Fault Refusal :=
  .next (((s.serveFirst gid ring true).or (s.serveFirst gid ring false)).getD s)

/-- Station I or O of a group. -/
def Group.station (g : Group) (out : Bool) : Station := if out then g.stO else g.stI
/-- Changes a station. -/
def State.modStation (s : State) (gid : Nat) (out : Bool) (f : Station → Station) : State :=
  s.modGroup gid fun g => if out then { g with stO := f g.stO } else { g with stI := f g.stI }
/-- The place of a station among the counters (R80). -/
def stationNum (out : Bool) : Nat := if out then 3 else 0
/-- Signals of a station; an overflow stops it (R82). -/
def State.stationSignal (s : State) (gid : Nat) (out : Bool) (tk : BitVec 4) : State :=
  let (s, ovf) := s.signalStation gid (stationNum out) (tk &&& 3)
  if ovf then s.modStation gid out fun t => { t with stopped := some (t.stopped.getD false) } else s
/-- STATION_DEQUEUE (R171, R182): the TK0 actions; a null command completes; a copy into a ring asks for its slot. -/
def execStationDequeue (gid : Nat) (out : Bool) (engine : Nat) (s : State) : Host.Outcome State Fault Refusal :=
  match s.group? gid with
  | none => .next s
  | some g =>
    let t := g.station out
    match t.queue with
    | [] => .next s
    | c :: rest =>
      if !g.resident || t.run.isSome || t.stopped.isSome || engine ≥ 3 || !tokensReady g.tok (stationNum out) c.tk0 then .next s
      else
        let s := s.modGroup gid fun g => { g with tok := takeTokens g.tok (stationNum out) c.tk0 }
        let s := (s.modStation gid out fun t => { t with queue := rest }).stationSignal gid out c.tk0
        match c.desc with
        | none => .next (s.stationSignal gid out c.tk1)
        | some d =>
          let s := s.modStation gid out fun t => { t with run := some { cmd := c, engine := engine }, claiming := d.ring }
          .next (if d.ring then s.modGroup gid fun g => { g with
            ringReqs := g.ringReqs ++ [{ ring := field d.dst 0 4, claim := true, who := none }] } else s)

/-- The plot of a group, for its copies. -/
def State.bedPlot (s : State) (g : Group) : Option (Nat × Plot) :=
  match g.plot with
  | some key => (s.plot? key).map fun p => (key, p)
  | none => none
/-- What a bed copy meets at its slot (R225, R228): nothing, the loss of its plot, or a slot that is IDLE. -/
inductive BedCheck where
  | fine | gone | idle
deriving DecidableEq, Repr
/-- The check of a bed copy as it begins. -/
def State.bedCheck (s : State) (g : Group) (r : CopyRun) (d : CopyDesc) : BedCheck :=
  if !cpyBed d.form then .fine
  else match s.bedPlot g with
  | none => .gone
  | some (_, p) =>
    if p.st = .faulted || p.st = .draining then .gone
    else if r.doneUnits = 0 && r.early.isEmpty && !p.claimed.contains (field d.dst 24 1 * 16 + field d.dst 20 4) then .idle
    else .fine
/-- A unit of a bed copy is written (R228). -/
def Plot.putUnit (p : Plot) (d : CopyDesc) (u : Nat) (bs : List Byte) : Plot :=
  let side := field d.dst 24 1
  let slot := field d.dst 20 4
  let line0 := field d.dst 10 10
  let first := 16 * (u % d.rowUnits)
  let put (t : PlotStore) (q : Nat × Byte) : PlotStore :=
    if d.dst.getLsbD 31 then
      let key := lineKey side slot (line0 + (first + q.1) / 2)
      t.putSide key (putField (t.side key) (8 * ((first + q.1) % 2)) 8 q.2.toNat)
    else
      let key := lineKey side slot (line0 + u / d.rowUnits)
      t.putLine key (putField (t.line key) (8 * (first + q.1)) 8 q.2.toNat)
  { p with store := (bs.mapIdx fun j b => (j, b)).foldl put p.store }
/-- Moves one unit of a copy. -/
def State.copyUnit (s : State) (w : CopyAt) (d : CopyDesc) (got : Tbl (List Byte)) (u : Nat) : Except CopyStop State :=
  match s.copyBytes w d got u (fun s pa => s.deviceBytes pa 16) with
  | .error e => .error e
  | .ok (bs, s) =>
    if cpyBed d.form then
      match w.g.plot with
      | some key => .ok { s with plots := tblMod s.plots key fun p => p.putUnit d u bs }
      | none => .ok s
    else s.copyWrite w d u bs fun s pa bs => s.deviceWrite noHart pa bs
/-- Moves the units of a list until one cannot be moved: the state, the unit after the last that was moved, or that stopped it, and why. -/
def copyUnits (w : CopyAt) (d : CopyDesc) (got : Tbl (List Byte)) : List Nat → Nat → State → State × Nat × Option CopyStop
  | [], n, s => (s, n, none)
  | u :: rest, _, s => match s.copyUnit w d got u with
    | .error e => (s, u, some e)
    | .ok s => copyUnits w d got rest (u + 1) s
/-- Reads the units of a list, which are written later (R182). -/
def readUnits (w : CopyAt) (d : CopyDesc) : List Nat → Tbl (List Byte) → State → Option (State × Tbl (List Byte))
  | [], got, s => some (s, got)
  | u :: rest, got, s => match s.copyBytes w d got u (fun s pa => s.deviceBytes pa 16) with
    | .error _ => none
    | .ok (bs, s) => readUnits w d rest (tblSet got u bs) s
/-- The copy in progress at a station that may go on. -/
def State.copyNow (s : State) (gid : Nat) (out : Bool) : Option (CopyAt × CopyRun × CopyDesc) :=
  match s.group? gid with
  | none => none
  | some g =>
    let t := g.station out
    match s.ctx? g.ctx, t.run with
    | some c, some r => match r.cmd.desc with
      | some d =>
        let chip := if d.form = 3 then ((s.bedPlot g).map fun p => 8 + p.2.die).getD (coreChip (g.die * 128)) else coreChip (g.die * 128)
        if !g.resident || t.claiming || t.stopped = some true || r.fault.isSome || !(s.chipUp chip) then none
        else some ({ gid := gid, g := g, c := c, chip := chip, engine := r.engine, seq := r.cmd.seq, slot := r.slot }, r, d)
      | none => none
    | _, _ => none
/-- Runs a copy from where it stands; what it moved where its source and destination overlap is unspecified (R181). -/
def State.runCopy (s : State) (w : CopyAt) (r : CopyRun) (d : CopyDesc) : State × Nat × Option CopyStop :=
  let (s', n, stop) := copyUnits w d r.got (((List.range d.units).drop r.doneUnits).filter fun u => !r.early.contains u) r.doneUnits s
  (s'.mixUnits w d ((s.mixedUnits w d).filter fun u => r.doneUnits ≤ u && u < n && !r.early.contains u), n, stop)
/-- Units of a copy that are read, or read and written, before it completes, in any order (R182, R196). -/
def State.copyEarly (s : State) (w : CopyAt) (out : Bool) (r : CopyRun) (d : CopyDesc) (units : List Nat) (write : Bool) : Option State :=
  let us := ((List.range d.units).drop r.doneUnits).filter fun u => !r.early.contains u && units.contains u
  let set (s : State) (f : CopyRun → CopyRun) : State := s.modStation w.gid out fun t => { t with run := t.run.map f }
  if !write then (readUnits w d us r.got s).map fun (s, got) => set s fun x => { x with got := got }
  else match copyUnits w d r.got us 0 s with
  | (s', _, none) => some (set (s'.mixUnits w d ((s.mixedUnits w d).filter us.contains)) fun x => { x with early := x.early ++ us })
  | _ => none
/-- The lines that units of a list cover whole, as virtual lines. -/
def wholeLines (d : CopyDesc) (us : List Nat) : List Nat :=
  let vas := us.map fun u => (d.dstVa u).toNat / 16
  ((vas.filter fun v => v % 8 = 0).filter fun v => (List.range 8).all fun j => vas.contains (v + j)).map (· / 8)
/-- Lines that a copy writes whole in one operation lose their poison (R201): a row of it, or all of a .FILL. -/
def State.copyUnpoison (s : State) (w : CopyAt) (d : CopyDesc) : State :=
  let rows := (List.range d.rows).flatMap fun r => wholeLines d ((List.range d.rowUnits).map (r * d.rowUnits + ·))
  let lines := if !cpyOut d.form then [] else if d.form = 5 then wholeLines d (List.range d.units) else rows
  lines.foldl (fun (s : State) l => match s.translate w.tlb w.c (BitVec.ofNat 64 (128 * l)) { w := true } with
    | .ok (pa, s) => if classOf pa = .cacheable && !s.deaf pa then s.unpoison (pa / 128) else s
    | .error _ => s) s
/-- A copy with a global destination completes at CRF or wider: the L1D lines of its destination in the group's core are dropped
(R196). -/
def State.copyL1 (s : State) (w : CopyAt) (d : CopyDesc) : State :=
  if !cpyOut d.form || d.scope < 3 then s
  else (List.range d.units).foldl (fun (s : State) u => match s.translate w.tlb w.c (d.dstVa u) { w := true } with
    | .ok (pa, s) => s.dropL1 w.core (pa / 128)
    | .error _ => s) s
/-- One more completion for a drill's user-level interrupts (R185, R186); a DONE drill discards it. -/
def Drill.countUi (d : Drill) (out : Bool) : Drill :=
  if d.st = .done then d else { d with uiPend := min 255 (d.uiPend + 1), uiPi := d.uiPi || !out, uiPo := d.uiPo || out }
/-- The completion actions of a copy, in order (R182). -/
def State.copyDone (s : State) (w : CopyAt) (out : Bool) (r : CopyRun) (d : CopyDesc) : State :=
  let s := s.modStation w.gid out fun t => { t with run := none }
  let s := match r.slot with
    | some j => s.modGroup w.gid fun g => { g with rings := tblMod g.rings (field d.dst 0 4) fun x => { x with slots := x.slots.set j .full } }
    | none => s
  let s := s.stationSignal w.gid out r.cmd.tk1
  if d.ui then s.modDrill r.cmd.drill fun x => if x.gid = w.gid then x.countUi out else x else s
/-- COPY_COMPLETION (R182, R196); with `early`, units of the copy are performed before it completes. -/
def execCopyCompletion (gid : Nat) (out : Bool) (early : Option (List Nat × Bool)) (s : State) : Host.Outcome State Fault Refusal :=
  match s.copyNow gid out with
  | none => .next s
  | some (w, r, d) =>
    if s.bedCheck w.g r d ≠ .fine then .next s
    else match early with
    | some (units, write) => .next ((s.copyEarly w out r d units write).getD s)
    | none => match s.runCopy w r d with
      | (s', _, none) => .next (((s'.copyUnpoison w d).copyL1 w d).copyDone w out r d)
      | _ => .next s
/-- The fault record of a copy engine (R352). -/
def copyFault (w : CopyAt) (engine : Nat) (va : DWord) (write : Bool) (e : XlateFail) : FaultRec :=
  { st := .queued, asid := w.c.asid, ctx := w.g.ctx, agent := 1, unit := engine, pos := 0, merged := 0, va := va &&& ~~~(0x7F : DWord), cause := e.cause
    acc := if write then 2 else 1, pin := e.pin, level := e.level, saveSlot := 0, time := 0 }
/-- COPY_FAULT_STOP (R184): what comes before the faulting line has been moved, and the station waits. -/
def execCopyFaultStop (gid : Nat) (out : Bool) (s : State) : Host.Outcome State Fault Refusal :=
  match s.copyNow gid out with
  | none => .next s
  | some (w, r, d) =>
    if s.bedCheck w.g r d ≠ .fine then .next s
    else match s.runCopy w r d with
    | (s', n, some (.fault va write e)) =>
      let (m, s') := s'.faultNew w.chip (copyFault w r.engine va write e)
      .next (s'.modStation gid out fun t => { t with run := t.run.map fun x => { x with doneUnits := n, fault := some m } })
    | _ => .next s
/-- A copy is aborted: no completion action, and the station stops (R184). -/
def State.copyAborted (s : State) (gid : Nat) (out : Bool) (cause : Nat) : State :=
  (s.modStation gid out fun t => { t with stopped := some true }).trapGroup gid 0x1A cause (stationNum out + 1)
/-- COPY_ABORT (R184, R225, R228, R242): part of the destination is written; a copy into an IDLE slot is discarded, and its plot
is FAULTED. -/
def execCopyAbort (gid : Nat) (out : Bool) (s : State) : Host.Outcome State Fault Refusal :=
  match s.copyNow gid out with
  | none => .next s
  | some (w, r, d) => match s.bedCheck w.g r d with
    | .gone => .next (s.copyAborted gid out 0x1C)
    | .idle =>
      let s := s.modStation gid out fun t => { t with run := none }
      .next (match w.g.plot with | some key => s.plotError key 1 | none => s)
    | .fine => match s.runCopy w r d with
      | (s', n, some (.abort cause)) => .next ((if cpyBed d.form then s' else s'.strayUnits w d r n).copyAborted gid out cause)
      | _ => .next s

/-- One MX8 block of AST (R236): the delta, the elements and the flags. -/
def mx8Block (e : Int) (xs : List Word) : Nat × List Nat × BitVec 5 :=
  let f := fmtF32
  if xs.any fun x => f.isNan x.toNat then (8, xs.map fun _ => 0, 16)
  else
    let scale (x : Word) (d : Int) : Int × Bool :=
      match f.value x.toNat with
      | .fin neg m k => let (n, inexact) := roundAt .rne neg m (k - (e + d)) 0; (if neg then -(n : Int) else n, inexact)
      | .inf neg => (if neg then -(2 ^ 200 : Int) else 2 ^ 200, false)
      | .nan => (0, false)
    let fits (d : Int) : Bool := xs.all fun x => (scale x d).1.natAbs ≤ 127
    let d : Int := ((List.range 15).map fun (j : Nat) => (j : Int) - 7).find? fits |>.getD 7
    let q (x : Word) : Nat × BitVec 5 :=
      let (n, inexact) := scale x d
      let c := max (-127) (min 127 n)
      ((c % 256).toNat, (if c ≠ n then 5 else 0) ||| (if inexact then 1 else 0))
    ((d % 16).toNat, xs.map fun x => (q x).1, xs.foldl (fun f x => f ||| (q x).2) 0)
/-- Cuts bytes at the ends of 128-byte lines. -/
def cutLines (va : DWord) (bs : List Byte) : List (DWord × List Byte) :=
  let first := min bs.length (128 - va.toNat % 128)
  (if first = 0 then [] else [(va, bs.take first)]) ++
  (List.range ((bs.length - first + 127) / 128)).map fun j => (va + BitVec.ofNat 64 (first + 128 * j), (bs.drop (first + 128 * j)).take 128)
/-- The flags of a part go with its first line. -/
def flagged (l : List (DWord × List Byte)) (f : BitVec 5) : List (DWord × List Byte × BitVec 5) :=
  l.mapIdx fun j p => (p.1, p.2, if j = 0 then f else 0)
/-- The lines that an AST writes, in order, with the flags that come with them (R235, R236). -/
def astLines (p : Plot) (r : PlotRun) (f : AstFn) (w : List Word) : List (DWord × List Byte × BitVec 5) :=
  let g (j : Nat) : Word := w.getD j 0
  let bank := field (g 3) 16 1
  let e := signedField (field (g 3) 0 8) 8
  (r.rows.filter (· < p.rows)).flatMap fun i =>
    let va := (g 1 ++ g 0 : DWord) + BitVec.ofInt 64 ((g 2).toInt * Int.ofNat i)
    let xs := (List.range p.cols).map fun j => p.store.elem (accKey bank i j)
    let conv (fmt : FpFmt) (sat : Bool) (n : Nat) : List (DWord × List Byte × BitVec 5) :=
      let ys := xs.map fun x => fpToFp fmtF32 fmt .rne sat x.toNat
      flagged (cutLines va (ys.flatMap fun y => toBytes (BitVec.ofNat 32 y.1) n)) (ys.foldl (fun f y => f ||| y.2) 0)
    match f with
    | .f32 => flagged (cutLines va (xs.flatMap wordBytes)) 0
    | .bf16 => conv fmtBF16 false 2
    | .e4m3 => conv fmtE4M3 true 1
    | .mx8 =>
      let blocks := (List.range (p.cols / 32)).map fun b => mx8Block e (part xs (32 * b) 32)
      let sva := (g 5 ++ g 4 : DWord) + BitVec.ofInt 64 ((g 6).toInt * Int.ofNat i)
      let deltas := (List.range (p.cols / 128)).flatMap fun k =>
        toBytes (BitVec.ofNat 16 ((List.range 4).foldl (fun n j => n + (((blocks[4 * k + j]?).map (·.1)).getD 0) * 16 ^ j) 0)) 2
      flagged (cutLines va (blocks.flatMap fun b => b.2.1.map fun q => BitVec.ofNat 8 q)) (blocks.foldl (fun f b => f ||| b.2.2) 0) ++
        flagged (cutLines sva deltas) 0
/-- What a line of an AST meets (R237, R242). -/
inductive AstStop where
  | fault (va : DWord) (e : XlateFail) | abort | hold
/-- Writes lines I/O-coherently until one cannot be written; the count of those that were, and why it stopped. -/
def astWrite (s : State) (chip ctx seq : Nat) (c : Context) (nf : Bool) (key : Nat) : List (DWord × List Byte × BitVec 5) → Nat → State × Nat × Option AstStop
  | [], n => (s, n, none)
  | (va, bs, fl) :: rest, n =>
    match s.translate (plotTlb key) c va { w := true } with
    | .error e => (s, n, some (if e.cause = 0 then .hold else .fault va e))
    | .ok (pa, s') =>
      if !s'.backed pa || isRom pa || !s'.grantOk ctx pa then (s', n, some .abort)
      else if classOf pa = .cacheable && s'.gateFor chip seq true pa = .hold then (s, n, some .hold)
      else
        let s' := if classOf pa = .cacheable then s'.ioWrite (runOf pa bs) else s'.deviceWrite noHart pa bs
        let s' := if bs.length = 128 && classOf pa = .cacheable && !s'.deaf pa then s'.unpoison (pa / 128) else s'
        let s' := if nf then s' else { s' with plots := tblMod s'.plots key fun p => p.raise fl }
        astWrite s' chip ctx seq c nf key rest (n + 1)
/-- An AST that may go on: the first in flight that no MMA before it holds back. -/
def Plot.astNow (p : Plot) : Option (PlotRun × AstFn × List Word) :=
  let live (r : PlotRun) : Bool := !r.finished && (match r.cmd with | .ast .. => true | _ => false)
  match p.flight.find? live with
  | some r => match r.cmd with
    | .ast f d =>
      let before := p.flight.takeWhile fun r => !live r
      if r.fault.isSome || before.any (fun q => !q.finished && (q.mmaOf (field (d.getD 3 0) 16 1) || blocksBank (field (d.getD 3 0) 16 1) q)) then none
      else some (r, f, d)
    | _ => none
  | none => none
/-- Runs an AST as far as it goes. -/
def State.runAst (s : State) (key : Nat) (p : Plot) (r : PlotRun) (f : AstFn) (d : List Word) : Option (State × Nat × Option AstStop) :=
  match s.ctx? p.ctx with
  | none => none
  | some c => some (astWrite s (8 + p.die) p.ctx (r.by_.foldl (fun n b => min n b.2) s.seq) c r.nf key ((astLines p r f d).drop r.units) r.units)
/-- An AST writes its next lines, and goes on later (R237). -/
def State.astPart (s : State) (key : Nat) (p : Plot) (r : PlotRun) (f : AstFn) (d : List Word) (n : Nat) : Option (State × Nat) :=
  match s.ctx? p.ctx with
  | none => none
  | some c => match astWrite s (8 + p.die) p.ctx (r.by_.foldl (fun n b => min n b.2) s.seq) c r.nf key (((astLines p r f d).drop r.units).take n) r.units with
    | (s', m, none) => some (s', m)
    | _ => none
/-- The unfinished AST. -/
def isAst (r : PlotRun) : Bool := !r.finished && (match r.cmd with | .ast .. => true | _ => false)
/-- The fault record of a plot sequencer (R352). -/
def plotFault (p : Plot) (asid : BitVec 16) (va : DWord) (e : XlateFail) : FaultRec :=
  { st := .queued, asid := asid, ctx := p.ctx, agent := 2, unit := p.num, pos := 0, merged := 0, va := va &&& ~~~(0x7F : DWord), cause := e.cause, acc := 2, pin := e.pin
    level := e.level, saveSlot := 0, time := 0 }
/-- A completed AST (R196, R201, R237): the lines of its destination leave the L1D of the group's core, and those that its pieces cover
whole lose their poison. -/
def State.astDone (s : State) (key : Nat) (p : Plot) (pieces : List (DWord × Nat)) : State :=
  match s.ctx? p.ctx with
  | none => s
  | some c =>
    let core := (p.gid.bind s.group?).map fun g => coreKey g.die g.core
    let lines := pieces.foldl (fun l q => setAdd l (q.1.toNat / 128)) []
    let whole (l : Nat) : Bool := (List.range 128).all fun j => pieces.any fun q => q.1.toNat ≤ 128 * l + j && 128 * l + j < q.1.toNat + q.2
    lines.foldl (fun (s : State) l => match s.translate (plotTlb key) c (BitVec.ofNat 64 (128 * l)) { w := true } with
      | .ok (pa, s) =>
        let s := match core with | some k => s.dropL1 k (pa / 128) | none => s
        if whole l && classOf pa = .cacheable && !s.deaf pa then s.unpoison (pa / 128) else s
      | .error _ => s) s
/-- AST_COMPLETION (R235-R237); with `part`, its next lines are written before it completes. -/
def execAstCompletion (plot : Nat) (part : Option Nat) (s : State) : Host.Outcome State Fault Refusal :=
  match s.plot? plot with
  | none => .next s
  | some p => match p.astNow with
    | none => .next s
    | some (r, f, d) => match part with
      | some n => match s.astPart plot p r f d n with
        | some (s', m) => .next { s' with plots := tblMod s'.plots plot fun p => { p with flight := modFirst isAst (fun r => { r with units := m }) p.flight } }
        | none => .next s
      | none => match s.runAst plot p r f d with
      | some (s', _, none) =>
        let s' := s'.astDone plot p ((astLines p r f d).map fun q => (q.1, q.2.1.length))
        .next ({ s' with plots := tblMod s'.plots plot fun p => { p with flight := modFirst isAst (fun r => { r with finished := true }) p.flight } }.progress plot)
      | _ => .next s
/-- AST_FAULT_STOP (R237): a fault-queue entry names the sequencer, and M is held. -/
def execAstFaultStop (plot : Nat) (s : State) : Host.Outcome State Fault Refusal :=
  match s.plot? plot with
  | none => .next s
  | some p => match p.astNow with
    | none => .next s
    | some (r, f, d) => match s.runAst plot p r f d with
      | some (s', n, some (.fault va e)) =>
        let asid := ((s.ctx? p.ctx).map (·.asid)).getD 0
        let (m, s') := s'.faultNew (8 + p.die) (plotFault p asid va e)
        .next { s' with plots := tblMod s'.plots plot fun p => { p with flight := modFirst isAst (fun r => { r with units := n, fault := some m }) p.flight } }
      | _ => .next s
/-- AST_ABORT (R237, R242): part of the data is written, and the plot stops with cause 3. -/
def execAstAbort (plot : Nat) (s : State) : Host.Outcome State Fault Refusal :=
  match s.plot? plot with
  | none => .next s
  | some p => match p.astNow with
    | none => .next s
    | some (r, f, d) => match s.runAst plot p r f d with
      | some (s', _, some .abort) => .next (s'.plotError plot 3)
      | _ => .next s


end Sys2Proof.Machine
end

