-- ==== Sys2Proof/Machine/Dispatch.lean ====
section
/-!
DEFINITION. The meaning of every instruction: one arm per constructor of `Instr`.
-/
namespace Sys2Proof.Machine
def exec (i : Instr) (s : State) : Host.Outcome State Fault Refusal :=
  match i with
  | .nop c => Sys2Proof.Machine.execNop c s
  | .iadd f d a b c => Sys2Proof.Machine.execIadd f d a b c s
  | .isub f d a b c => Sys2Proof.Machine.execIsub f d a b c s
  | .imul f d a b c => Sys2Proof.Machine.execImul f d a b c s
  | .imac f d a b c => Sys2Proof.Machine.execImac f d a b c s
  | .imnx f d a b c => Sys2Proof.Machine.execImnx f d a b c s
  | .log f d a b c => Sys2Proof.Machine.execLog f d a b c s
  | .shf f x64 d a b c => Sys2Proof.Machine.execShf f x64 d a b c s
  | .bfx sgn d a b c => Sys2Proof.Machine.execBfx sgn d a b c s
  | .bfi d a b c => Sys2Proof.Machine.execBfi d a b c s
  | .bit f d a c => Sys2Proof.Machine.execBit f d a c s
  | .lea sh d a b c => Sys2Proof.Machine.execLea sh d a b c s
  | .icmp f u d a b c => Sys2Proof.Machine.execIcmp f u d a b c s
  | .sel k d a b c => Sys2Proof.Machine.execSel k d a b c s
  | .mov w64 d a c => Sys2Proof.Machine.execMov w64 d a c s
  | .kop f d a b c => Sys2Proof.Machine.execKop f d a b c s
  | .iaddi d a imm c => Sys2Proof.Machine.execIaddi d a imm c s
  | .andi d a imm c => Sys2Proof.Machine.execAndi d a imm c s
  | .ori d a imm c => Sys2Proof.Machine.execOri d a imm c s
  | .xori d a imm c => Sys2Proof.Machine.execXori d a imm c s
  | .shli d a imm c => Sys2Proof.Machine.execShli d a imm c s
  | .shri d a imm c => Sys2Proof.Machine.execShri d a imm c s
  | .sari d a imm c => Sys2Proof.Machine.execSari d a imm c s
  | .movil d imm c => Sys2Proof.Machine.execMovil d imm c s
  | .movih d imm c => Sys2Proof.Machine.execMovih d imm c s
  | .imuli d a imm c => Sys2Proof.Machine.execImuli d a imm c s
  | .srd d n c => Sys2Proof.Machine.execSrd d n c s
  | .swr n b c => Sys2Proof.Machine.execSwr n b c s
  | .sysSysc a c => Sys2Proof.Machine.execSysSysc a c s
  | .sysTrapi n c => Sys2Proof.Machine.execSysTrapi n c s
  | .sysTret c => Sys2Proof.Machine.execSysTret c s
  | .sysUiret c => Sys2Proof.Machine.execSysUiret c s
  | .sysWaiti a c => Sys2Proof.Machine.execSysWaiti a c s
  | .svldSavev a c => Sys2Proof.Machine.execSvldSavev a c s
  | .svldLoadv a c => Sys2Proof.Machine.execSvldLoadv a c s
  | .svldSaveu a c => Sys2Proof.Machine.execSvldSaveu a c s
  | .svldLoadu a c => Sys2Proof.Machine.execSvldLoadu a c s
  | .svldSavep a c => Sys2Proof.Machine.execSvldSavep a c s
  | .svldLoadp a c => Sys2Proof.Machine.execSvldLoadp a c s
  | .svldSavex a c => Sys2Proof.Machine.execSvldSavex a c s
  | .svldLoadx a c => Sys2Proof.Machine.execSvldLoadx a c s
  | .faddF32 m d a b c => Sys2Proof.Machine.execFaddF32 m d a b c s
  | .fsubF32 m d a b c => Sys2Proof.Machine.execFsubF32 m d a b c s
  | .fmulF32 m d a b c => Sys2Proof.Machine.execFmulF32 m d a b c s
  | .fmacF32 m d a b c => Sys2Proof.Machine.execFmacF32 m d a b c s
  | .fmnxF32 f d a b c => Sys2Proof.Machine.execFmnxF32 f d a b c s
  | .fcmpF32 f d a b c => Sys2Proof.Machine.execFcmpF32 f d a b c s
  | .fsgn f d a b c => Sys2Proof.Machine.execFsgn f d a b c s
  | .fcls d a c => Sys2Proof.Machine.execFcls d a c s
  | .faddiF32 d a imm c => Sys2Proof.Machine.execFaddiF32 d a imm c s
  | .fmuliF32 d a imm c => Sys2Proof.Machine.execFmuliF32 d a imm c s
  | .fmaciF32 d a imm c => Sys2Proof.Machine.execFmaciF32 d a imm c s
  | .hadd m f16 d a b c => Sys2Proof.Machine.execHadd m f16 d a b c s
  | .hmul m f16 d a b c => Sys2Proof.Machine.execHmul m f16 d a b c s
  | .hmac m f16 d a b c => Sys2Proof.Machine.execHmac m f16 d a b c s
  | .hmnx f f16 d a b c => Sys2Proof.Machine.execHmnx f f16 d a b c s
  | .hmuliBf16x2 d a imm c => Sys2Proof.Machine.execHmuliBf16x2 d a imm c s
  | .hmuliF16x2 d a imm c => Sys2Proof.Machine.execHmuliF16x2 d a imm c s
  | .cvt m sat d a j p c => Sys2Proof.Machine.execCvt m sat d a j p c s
  | .prmt d a b c => Sys2Proof.Machine.execPrmt d a b c s
  | .prmti d a imm c => Sys2Proof.Machine.execPrmti d a imm c s
  | .mxsc bs a c => Sys2Proof.Machine.execMxsc bs a c s
  | .vdot f d a b c => Sys2Proof.Machine.execVdot f d a b c s
  | .qclmp d a imm c => Sys2Proof.Machine.execQclmp d a imm c s
  | .sfuF32 f d a c => Sys2Proof.Machine.execSfuF32 f d a c s
  | .sfuBf16x2 f d a c => Sys2Proof.Machine.execSfuBf16x2 f d a c s
  | .idiv f d a b c => Sys2Proof.Machine.execIdiv f d a b c s
  | .fdivF32 m d a b c => Sys2Proof.Machine.execFdivF32 m d a b c s
  | .lxch f d a b c => Sys2Proof.Machine.execLxch f d a b c s
  | .qx f d a b c => Sys2Proof.Machine.execQx f d a b c s
  | .vote f d a c => Sys2Proof.Machine.execVote f d a c s
  | .redx f d a c => Sys2Proof.Machine.execRedx f d a c s
  | .vgeti d a imm c => Sys2Proof.Machine.execVgeti d a imm c s
  | .vputi d a imm c => Sys2Proof.Machine.execVputi d a imm c s
  | .tcfg t a c => Sys2Proof.Machine.execTcfg t a c s
  | .tmvr t a b c => Sys2Proof.Machine.execTmvr t a b c s
  | .tmvc t a b c => Sys2Proof.Machine.execTmvc t a b c s
  | .trdr d u b c => Sys2Proof.Machine.execTrdr d u b c s
  | .trdc d u b c => Sys2Proof.Machine.execTrdc d u b c s
  | .topZero t c => Sys2Proof.Machine.execTopZero t c s
  | .topTrans t u c => Sys2Proof.Machine.execTopTrans t u c s
  | .topRel t c => Sys2Proof.Machine.execTopRel t c s
  | .topCopy t u c => Sys2Proof.Machine.execTopCopy t u c s
  | .tsave t a c => Sys2Proof.Machine.execTsave t a c s
  | .tload t a c => Sys2Proof.Machine.execTload t a c s
  | .bra ofs c => Sys2Proof.Machine.execBra ofs c s
  | .brz ofs c => Sys2Proof.Machine.execBrz ofs c s
  | .call d ofs c => Sys2Proof.Machine.execCall d ofs c s
  | .ret a c => Sys2Proof.Machine.execRet a c s
  | .jmpu a c => Sys2Proof.Machine.execJmpu a c s
  | .jmpv a c => Sys2Proof.Machine.execJmpv a c s
  | .land c => Sys2Proof.Machine.execLand c s
  | .loop d ofs c => Sys2Proof.Machine.execLoop d ofs c s
  | .mpush c => Sys2Proof.Machine.execMpush c s
  | .minv c => Sys2Proof.Machine.execMinv c s
  | .mpop c => Sys2Proof.Machine.execMpop c s
  | .kmask d c => Sys2Proof.Machine.execKmask d c s
  | .prefi n ofs c => Sys2Proof.Machine.execPrefi n ofs c s
  | .exit c => Sys2Proof.Machine.execExit c s
  | .exitSucc a c => Sys2Proof.Machine.execExitSucc a c s
  | .ld f d a ofs c => Sys2Proof.Machine.execLd f d a ofs c s
  | .st f d a ofs c => Sys2Proof.Machine.execSt f d a ofs c s
  | .lds f d a ofs c => Sys2Proof.Machine.execLds f d a ofs c s
  | .sts f d a ofs c => Sys2Proof.Machine.execSts f d a ofs c s
  | .ldu f d a ofs c => Sys2Proof.Machine.execLdu f d a ofs c s
  | .atomI32 f u d a b c => Sys2Proof.Machine.execAtomI32 f u d a b c s
  | .atomI64 f u d a b c => Sys2Proof.Machine.execAtomI64 f u d a b c s
  | .atomF32 f d a b c => Sys2Proof.Machine.execAtomF32 f d a b c s
  | .redI32 f u a b c => Sys2Proof.Machine.execRedI32 f u a b c s
  | .redF32 f a b c => Sys2Proof.Machine.execRedF32 f a b c s
  | .redBf16x2 a b c => Sys2Proof.Machine.execRedBf16x2 a b c s
  | .atoms f u d a b c => Sys2Proof.Machine.execAtoms f u d a b c s
  | .fenceAcq sc c => Sys2Proof.Machine.execFenceAcq sc c s
  | .fenceRel sc c => Sys2Proof.Machine.execFenceRel sc c s
  | .fenceAr sc c => Sys2Proof.Machine.execFenceAr sc c s
  | .prefd a ofs c => Sys2Proof.Machine.execPrefd a ofs c s
  | .cacheWb a c => Sys2Proof.Machine.execCacheWb a c s
  | .cacheInv a c => Sys2Proof.Machine.execCacheInv a c s
  | .cacheWbi a c => Sys2Proof.Machine.execCacheWbi a c s
  | .ringCfg a b c => Sys2Proof.Machine.execRingCfg a b c s
  | .ringClm d a c => Sys2Proof.Machine.execRingClm d a c s
  | .ringPub a b c => Sys2Proof.Machine.execRingPub a b c s
  | .ringWtf d a c => Sys2Proof.Machine.execRingWtf d a c s
  | .ringRel a b c => Sys2Proof.Machine.execRingRel a b c s
  | .ringWte d a c => Sys2Proof.Machine.execRingWte d a c s
  | .ringQry d a c => Sys2Proof.Machine.execRingQry d a c s
  | .stashMap a b c => Sys2Proof.Machine.execStashMap a b c s
  | .stashUnmap a c => Sys2Proof.Machine.execStashUnmap a c s
  | .stashFlush a c => Sys2Proof.Machine.execStashFlush a c s
  | .stashInv a c => Sys2Proof.Machine.execStashInv a c s
  | .cpyGl a c => Sys2Proof.Machine.execCpyGl a c s
  | .cpyLg a c => Sys2Proof.Machine.execCpyLg a c s
  | .cpyGg a c => Sys2Proof.Machine.execCpyGg a c s
  | .cpyGb a c => Sys2Proof.Machine.execCpyGb a c s
  | .cpyLb a c => Sys2Proof.Machine.execCpyLb a c s
  | .cpyFill a c => Sys2Proof.Machine.execCpyFill a c s
  | .barAll a b c => Sys2Proof.Machine.execBarAll a b c s
  | .barPost a b c => Sys2Proof.Machine.execBarPost a b c s
  | .barHold a c => Sys2Proof.Machine.execBarHold a c s
  | .barCroft c => Sys2Proof.Machine.execBarCroft c s
  | .barGrid c => Sys2Proof.Machine.execBarGrid c s
  | .mbarInit a b c => Sys2Proof.Machine.execMbarInit a b c s
  | .mbarArr a b c => Sys2Proof.Machine.execMbarArr a b c s
  | .mbarWait a b c => Sys2Proof.Machine.execMbarWait a b c s
  | .mbarTest d a b c => Sys2Proof.Machine.execMbarTest d a b c s
  | .mbarInv a c => Sys2Proof.Machine.execMbarInv a c s
  | .lnchPost a b c => Sys2Proof.Machine.execLnchPost a b c s
  | .lnchEvsig a b c => Sys2Proof.Machine.execLnchEvsig a b c s
  | .lnchEvtst d a b c => Sys2Proof.Machine.execLnchEvtst d a b c s
  | .lnchEvclr a b c => Sys2Proof.Machine.execLnchEvclr a b c s
  | .stkCede sd c => Sys2Proof.Machine.execStkCede sd c s
  | .stkTake sd c => Sys2Proof.Machine.execStkTake sd c s
  | .stkQry d sd c => Sys2Proof.Machine.execStkQry d sd c s
  | .plotRsv d a c => Sys2Proof.Machine.execPlotRsv d a c s
  | .plotRel c => Sys2Proof.Machine.execPlotRel c s
  | .plotQry d which c => Sys2Proof.Machine.execPlotQry d which c s
  | .plotCarve a c => Sys2Proof.Machine.execPlotCarve a c s
  | .plotUncarve a c => Sys2Proof.Machine.execPlotUncarve a c s
  | .plotMerge a c => Sys2Proof.Machine.execPlotMerge a c s
  | .plotSplit a c => Sys2Proof.Machine.execPlotSplit a c s
  | .bedClaim sl cnt c => Sys2Proof.Machine.execBedClaim sl cnt c s
  | .bedRel sl cnt c => Sys2Proof.Machine.execBedRel sl cnt c s
  | .bedLdv a b c => Sys2Proof.Machine.execBedLdv a b c s
  | .bedZero sl cnt c => Sys2Proof.Machine.execBedZero sl cnt c s
  | .bedScl sl b c => Sys2Proof.Machine.execBedScl sl b c s
  | .mma f ovr slots b c => Sys2Proof.Machine.execMma f ovr slots b c s
  | .msyncOpf c => Sys2Proof.Machine.execMsyncOpf c s
  | .msyncWait c => Sys2Proof.Machine.execMsyncWait c s
  | .msyncDrain c => Sys2Proof.Machine.execMsyncDrain c s
  | .ard f bf d b c => Sys2Proof.Machine.execArd f bf d b c s
  | .awr a b c => Sys2Proof.Machine.execAwr a b c s
  | .ast f a c => Sys2Proof.Machine.execAst f a c s
  | .azr bank c => Sys2Proof.Machine.execAzr bank c s
  | .svlStkgrant rd rs1 rs2 => Sys2Proof.Machine.execSvlStkgrant rd rs1 rs2 s
  | .ctxBuild rd rs1 rs2 => Sys2Proof.Machine.execCtxBuild rd rs1 rs2 s
  | .ctxActivate rd rs1 rs2 => Sys2Proof.Machine.execCtxActivate rd rs1 rs2 s
  | .ctxPreempt rd rs1 rs2 => Sys2Proof.Machine.execCtxPreempt rd rs1 rs2 s
  | .ctxKill rd rs1 rs2 => Sys2Proof.Machine.execCtxKill rd rs1 rs2 s
  | .ctxRelease rd rs1 rs2 => Sys2Proof.Machine.execCtxRelease rd rs1 rs2 s
  | .ctxBudget rd rs1 rs2 => Sys2Proof.Machine.execCtxBudget rd rs1 rs2 s
  | .ctxPriority rd rs1 rs2 => Sys2Proof.Machine.execCtxPriority rd rs1 rs2 s
  | .ctxRestart rd rs1 rs2 => Sys2Proof.Machine.execCtxRestart rd rs1 rs2 s
  | .svlSysret rd rs1 rs2 => Sys2Proof.Machine.execSvlSysret rd rs1 rs2 s
  | .svlFqdone rd rs1 rs2 => Sys2Proof.Machine.execSvlFqdone rd rs1 rs2 s
  | .svlFqkill rd rs1 rs2 => Sys2Proof.Machine.execSvlFqkill rd rs1 rs2 s
  | .svlQpost rd rs1 rs2 => Sys2Proof.Machine.execSvlQpost rd rs1 rs2 s
  | .svlQfence => Sys2Proof.Machine.execSvlQfence s
  | .svlEvsig rd rs1 rs2 => Sys2Proof.Machine.execSvlEvsig rd rs1 rs2 s
  | .svlEvclr rd rs1 rs2 => Sys2Proof.Machine.execSvlEvclr rd rs1 rs2 s
  | .svlEvwait rd rs1 rs2 => Sys2Proof.Machine.execSvlEvwait rd rs1 rs2 s
  | .swathArbitration die core slot => Sys2Proof.Machine.execSwathArbitration die core slot s
  | .stallEnd k => Sys2Proof.Machine.execStallEnd k s
  | .resultLanding k => Sys2Proof.Machine.execResultLanding k s
  | .variableResultLanding k seq evict early => Sys2Proof.Machine.execVariableResultLanding k seq evict early s
  | .storeQueueDeparture k part => Sys2Proof.Machine.execStoreQueueDeparture k part s
  | .longWaitMet k => Sys2Proof.Machine.execLongWaitMet k s
  | .waitiDeadline k => Sys2Proof.Machine.execWaitiDeadline k s
  | .boundaryTrap k => Sys2Proof.Machine.execBoundaryTrap k s
  | .userInterruptDelivery k => Sys2Proof.Machine.execUserInterruptDelivery k s
  | .preempt k => Sys2Proof.Machine.execPreempt k s
  | .overrun k => Sys2Proof.Machine.execOverrun k s
  | .budgetExhausted ctx => Sys2Proof.Machine.execBudgetExhausted ctx s
  | .fetchBufferRequest k => Sys2Proof.Machine.execFetchBufferRequest k s
  | .icacheFillDone die core line => Sys2Proof.Machine.execIcacheFillDone die core line s
  | .fetchFault k => Sys2Proof.Machine.execFetchFault k s
  | .directoryRequest chip line kind => Sys2Proof.Machine.execDirectoryRequest chip line kind s
  | .atomPerform k seq home part => Sys2Proof.Machine.execAtomPerform k seq home part s
  | .ringRequestServed gid ring => Sys2Proof.Machine.execRingRequestServed gid ring s
  | .stationDequeue gid out engine => Sys2Proof.Machine.execStationDequeue gid out engine s
  | .copyCompletion gid out early => Sys2Proof.Machine.execCopyCompletion gid out early s
  | .copyFaultStop gid out => Sys2Proof.Machine.execCopyFaultStop gid out s
  | .copyAbort gid out => Sys2Proof.Machine.execCopyAbort gid out s
  | .collectiveAssembly gid => Sys2Proof.Machine.execCollectiveAssembly gid s
  | .plotCommandDequeue plot => Sys2Proof.Machine.execPlotCommandDequeue plot s
  | .mmaStart plot => Sys2Proof.Machine.execMmaStart plot s
  | .mmaCompletion plot => Sys2Proof.Machine.execMmaCompletion plot s
  | .postedBedWriteDone plot idx => Sys2Proof.Machine.execPostedBedWriteDone plot idx s
  | .astFaultStop plot => Sys2Proof.Machine.execAstFaultStop plot s
  | .plotEccError plot => Sys2Proof.Machine.execPlotEccError plot s
  | .cedeAccept stk => Sys2Proof.Machine.execCedeAccept stk s
  | .handoverDrainStep stk => Sys2Proof.Machine.execHandoverDrainStep stk s
  | .handoverPortOpen stk => Sys2Proof.Machine.execHandoverPortOpen stk s
  | .stackZeroingDone stk => Sys2Proof.Machine.execStackZeroingDone stk s
  | .groupPlacement q where_ => Sys2Proof.Machine.execGroupPlacement q where_ s
  | .groupExitSequence gid => Sys2Proof.Machine.execGroupExitSequence gid s
  | .groupRecordWrite gid => Sys2Proof.Machine.execGroupRecordWrite gid s
  | .groupRestore croft where_ => Sys2Proof.Machine.execGroupRestore croft where_ s
  | .contextRetire ctx => Sys2Proof.Machine.execContextRetire ctx s
  | .syscallQueuePost chip => Sys2Proof.Machine.execSyscallQueuePost chip s
  | .taskPost launch => Sys2Proof.Machine.execTaskPost launch s
  | .faultRecordPost chip => Sys2Proof.Machine.execFaultRecordPost chip s
  | .packetCheck q seen => Sys2Proof.Machine.execPacketCheck q seen s
  | .kcbRead q => Sys2Proof.Machine.execKcbRead q s
  | .qcmdOpen q => Sys2Proof.Machine.execQcmdOpen q s
  | .qcmdPause q => Sys2Proof.Machine.execQcmdPause q s
  | .qcmdResume q => Sys2Proof.Machine.execQcmdResume q s
  | .qcmdDrain q => Sys2Proof.Machine.execQcmdDrain q s
  | .queueDrainDone q => Sys2Proof.Machine.execQueueDrainDone q s
  | .scqbaseWrite chip val => Sys2Proof.Machine.execScqbaseWrite chip val s
  | .scqheadWrite chip val => Sys2Proof.Machine.execScqheadWrite chip val s
  | .fqbaseWrite chip val => Sys2Proof.Machine.execFqbaseWrite chip val s
  | .fqheadWrite chip val => Sys2Proof.Machine.execFqheadWrite chip val s
  | .tlbiVaAsid asid => Sys2Proof.Machine.execTlbiVaAsid asid s
  | .tlbiAsid asid => Sys2Proof.Machine.execTlbiAsid asid s
  | .tlbiVaAll asid => Sys2Proof.Machine.execTlbiVaAll asid s
  | .tlbiAll asid => Sys2Proof.Machine.execTlbiAll asid s
  | .shootdownDone => Sys2Proof.Machine.execShootdownDone s
  | .icflushGo die => Sys2Proof.Machine.execIcflushGo die s
  | .icflushDone die => Sys2Proof.Machine.execIcflushDone die s
  | .linkIsolate link => Sys2Proof.Machine.execLinkIsolate link s
  | .linkReset link => Sys2Proof.Machine.execLinkReset link s
  | .linkRetrain link => Sys2Proof.Machine.execLinkRetrain link s
  | .linkTrainingDone link width table => Sys2Proof.Machine.execLinkTrainingDone link width table s
  | .linkLaneFailure link width => Sys2Proof.Machine.execLinkLaneFailure link width s
  | .directoryTimeout chip => Sys2Proof.Machine.execDirectoryTimeout chip s
  | .heartbeatTimeout link => Sys2Proof.Machine.execHeartbeatTimeout link s
  | .linkUncorrectableError link => Sys2Proof.Machine.execLinkUncorrectableError link s
  | .pcieContainment link => Sys2Proof.Machine.execPcieContainment link s
  | .chipletIsolation chip => Sys2Proof.Machine.execChipletIsolation chip s
  | .chipletResetDone link => Sys2Proof.Machine.execChipletResetDone link s
  | .pciebifWrite val => Sys2Proof.Machine.execPciebifWrite val s
  | .remoteResponse src ok data => Sys2Proof.Machine.execRemoteResponse src ok data s
  | .inboundRemoteAccess port op addr cmp => Sys2Proof.Machine.execInboundRemoteAccess port op addr cmp s
  | .opctlWrite rail val agent => Sys2Proof.Machine.execOpctlWrite rail val agent s
  | .clockTransitionDone rail => Sys2Proof.Machine.execClockTransitionDone rail s
  | .tsensRefresh chip sensor val => Sys2Proof.Machine.execTsensRefresh chip sensor val s
  | .thermalTrip chip sensor => Sys2Proof.Machine.execThermalTrip chip sensor s
  | .overCurrentAlarm rail => Sys2Proof.Machine.execOverCurrentAlarm rail s
  | .ocauseWrite val agent => Sys2Proof.Machine.execOcauseWrite val agent s
  | .eccceWrite chip => Sys2Proof.Machine.execEccceWrite chip s
  | .uvSramError where_ => Sys2Proof.Machine.execUvSramError where_ s
  | .coldReset boot => Sys2Proof.Machine.execColdReset boot s
  | .warmReset pin boot => Sys2Proof.Machine.execWarmReset pin boot s
  | .attestationRequest nonce agent => Sys2Proof.Machine.execAttestationRequest nonce agent s
  | .registerWrite agent addr size val => Sys2Proof.Machine.execRegisterWrite agent addr size val s
  | .astCompletion plot part => Sys2Proof.Machine.execAstCompletion plot part s
  | .astAbort plot => Sys2Proof.Machine.execAstAbort plot s
  | .bedZeroSclCompletion plot => Sys2Proof.Machine.execBedZeroSclCompletion plot s
  | .sramCorrectedError chip => Sys2Proof.Machine.execSramCorrectedError chip s

end Sys2Proof.Machine
end

