-- ==== Sys2Proof/Machine/RvCompressed.lean ====
section
/-!
DEFINITION. Compressed instructions of harts (log 13, PRESUMED: the C and Zcb extensions of RVA23): the 32-bit word that each stands for.
-/
namespace Sys2Proof.Machine

/-- A word of the I form: opcode, funct3, rd, rs1, immediate. -/
def rvI (op f3 rd rs1 : Nat) (imm : Int) : BitVec 32 :=
  BitVec.ofNat 32 (op + 2 ^ 7 * rd + 2 ^ 12 * f3 + 2 ^ 15 * rs1 + 2 ^ 20 * (imm % 4096).toNat)
/-- A word of the R form: opcode, funct3, funct7, rd, rs1, rs2. -/
def rvR (op f3 f7 rd rs1 rs2 : Nat) : BitVec 32 :=
  BitVec.ofNat 32 (op + 2 ^ 7 * rd + 2 ^ 12 * f3 + 2 ^ 15 * rs1 + 2 ^ 20 * rs2 + 2 ^ 25 * f7)
/-- A word of the S form: opcode, funct3, rs1, rs2, offset. -/
def rvS (op f3 rs1 rs2 imm : Nat) : BitVec 32 := rvR op f3 (imm / 32) (imm % 32) rs1 rs2
/-- A branch against x0: funct3, rs1, offset. -/
def rvB (f3 rs1 : Nat) (imm : Int) : BitVec 32 :=
  let i := (imm % 8192).toNat
  rvR 0x63 f3 (i / 4096 * 64 + i / 32 % 64) (i / 2 % 16 * 2 + i / 2048 % 2) rs1 0
/-- JAL x0. -/
def rvJ (imm : Int) : BitVec 32 :=
  let i := (imm % 2 ^ 21).toNat
  BitVec.ofNat 32 (0x6F + 2 ^ 12 * (i / 2 ^ 12 % 256) + 2 ^ 20 * (i / 2 ^ 11 % 2) + 2 ^ 21 * (i / 2 % 1024) + 2 ^ 31 * (i / 2 ^ 20))

/-- A signed number from n bits. -/
def sNum (v n : Nat) : Int := if 2 ^ (n - 1) ≤ v then (v : Int) - 2 ^ n else v
/-- The bits of a parcel that (place, first bit, count) name, put at their places. -/
def gather (c : BitVec 16) (l : List (Nat × Nat × Nat)) : Nat := (l.map fun p => field c p.2.1 p.2.2 * 2 ^ p.1).sum

/-- Quadrant 0. -/
def expand0 (c : BitVec 16) : Option (BitVec 32) :=
  let r := 8 + field c 2 3
  let b := 8 + field c 7 3
  let w := gather c [(3, 10, 3), (2, 6, 1), (6, 5, 1)]
  let d := gather c [(3, 10, 3), (6, 5, 2)]
  let h := field c 5 1 * 2
  let by_ := gather c [(0, 6, 1), (1, 5, 1)]
  match field c 13 3 with
  | 0 =>
    let n := gather c [(4, 11, 2), (6, 7, 4), (2, 6, 1), (3, 5, 1)]
    if n = 0 then none else some (rvI 0x13 0 r 2 n)
  | 1 => some (rvI 0x07 3 r b d)
  | 2 => some (rvI 0x03 2 r b w)
  | 3 => some (rvI 0x03 3 r b d)
  | 4 => (match field c 10 3, field c 6 1 with
    | 0, _ => some (rvI 0x03 4 r b by_)
    | 1, 0 => some (rvI 0x03 5 r b h)
    | 1, _ => some (rvI 0x03 1 r b h)
    | 2, _ => some (rvS 0x23 0 b r by_)
    | 3, 0 => some (rvS 0x23 1 b r h)
    | _, _ => none)
  | 5 => some (rvS 0x27 3 b r d)
  | 6 => some (rvS 0x23 2 b r w)
  | _ => some (rvS 0x23 3 b r d)
/-- Arithmetic on the short registers, in quadrant 1. -/
def expandAlu (c : BitVec 16) : Option (BitVec 32) :=
  let r := 8 + field c 7 3
  let t := 8 + field c 2 3
  let sh := gather c [(5, 12, 1), (0, 2, 5)]
  match field c 10 2 with
  | 0 => some (rvI 0x13 5 r r sh)
  | 1 => some (rvI 0x13 5 r r (0x400 + sh))
  | 2 => some (rvI 0x13 7 r r (sNum sh 6))
  | _ => match field c 12 1, field c 5 2 with
    | 0, 0 => some (rvR 0x33 0 0x20 r r t)
    | 0, 1 => some (rvR 0x33 4 0 r r t)
    | 0, 2 => some (rvR 0x33 6 0 r r t)
    | 0, _ => some (rvR 0x33 7 0 r r t)
    | _, 0 => some (rvR 0x3B 0 0x20 r r t)
    | _, 1 => some (rvR 0x3B 0 0 r r t)
    | _, 2 => some (rvR 0x33 0 1 r r t)
    | _, _ => match field c 2 3 with
      | 0 => some (rvI 0x13 7 r r 0xFF)
      | 1 => some (rvI 0x13 1 r r 0x604)
      | 2 => some (rvR 0x3B 4 4 r r 0)
      | 3 => some (rvI 0x13 1 r r 0x605)
      | 4 => some (rvR 0x3B 0 4 r r 0)
      | 5 => some (rvI 0x13 4 r r (-1))
      | _ => none
/-- Quadrant 1. -/
def expand1 (c : BitVec 16) : Option (BitVec 32) :=
  let rd := field c 7 5
  let short := 8 + field c 7 3
  let imm := sNum (gather c [(5, 12, 1), (0, 2, 5)]) 6
  let br := sNum (gather c [(8, 12, 1), (3, 10, 2), (6, 5, 2), (1, 3, 2), (5, 2, 1)]) 9
  match field c 13 3 with
  | 0 => some (rvI 0x13 0 rd rd imm)
  | 1 => if rd = 0 then none else some (rvI 0x1B 0 rd rd imm)
  | 2 => some (rvI 0x13 0 rd 0 imm)
  | 3 =>
    if rd = 2 then
      let n := sNum (gather c [(9, 12, 1), (4, 6, 1), (6, 5, 1), (7, 3, 2), (5, 2, 1)]) 10
      (if n = 0 then none else some (rvI 0x13 0 2 2 n))
    else if imm = 0 then (if rd % 2 = 1 && rd < 16 then some (rvI 0x13 0 0 0 0) else none)
    else some (BitVec.ofNat 32 (0x37 + 2 ^ 7 * rd + 2 ^ 12 * (imm % 2 ^ 20).toNat))
  | 4 => expandAlu c
  | 5 => some (rvJ (sNum (gather c [(11, 12, 1), (4, 11, 1), (8, 9, 2), (10, 8, 1), (6, 7, 1), (7, 6, 1), (1, 3, 3), (5, 2, 1)]) 12))
  | 6 => some (rvB 0 short br)
  | _ => some (rvB 1 short br)
/-- Quadrant 2. -/
def expand2 (c : BitVec 16) : Option (BitVec 32) :=
  let rd := field c 7 5
  let rs := field c 2 5
  let d := gather c [(5, 12, 1), (3, 5, 2), (6, 2, 3)]
  match field c 13 3 with
  | 0 => some (rvI 0x13 1 rd rd (gather c [(5, 12, 1), (0, 2, 5)]))
  | 1 => some (rvI 0x07 3 rd 2 d)
  | 2 => if rd = 0 then none else some (rvI 0x03 2 rd 2 (gather c [(5, 12, 1), (2, 4, 3), (6, 2, 2)]))
  | 3 => if rd = 0 then none else some (rvI 0x03 3 rd 2 d)
  | 4 =>
    if field c 12 1 = 0 then
      (if rs ≠ 0 then some (rvR 0x33 0 0 rd 0 rs) else if rd = 0 then none else some (rvI 0x67 0 0 rd 0))
    else if rs ≠ 0 then some (rvR 0x33 0 0 rd rd rs)
    else if rd = 0 then some 0x00100073 else some (rvI 0x67 0 1 rd 0)
  | 5 => some (rvS 0x27 3 2 rs (gather c [(3, 10, 3), (6, 7, 3)]))
  | 6 => some (rvS 0x23 2 2 rs (gather c [(2, 9, 4), (6, 7, 2)]))
  | _ => some (rvS 0x23 3 2 rs (gather c [(3, 10, 3), (6, 7, 3)]))
/-- The 32-bit word of a compressed instruction; none for a reserved one. -/
def expand (c : BitVec 16) : Option (BitVec 32) :=
  match field c 0 2 with
  | 0 => expand0 c
  | 1 => expand1 c
  | _ => expand2 c

end Sys2Proof.Machine
end

