-- ==== Sys2Proof/Machine/Csr.lean ====
section
/-!
DEFINITION. Control and status registers of harts (log 13, PRESUMED: RVA23 with the hypervisor extension and AIA, which R9 names): who may
access them, what they read, what a write keeps. The table of a hart holds them by number; fields of `Hart` and of the interrupt files
hold the rest.
-/
namespace Sys2Proof.Machine

/-- The unit that FS or VS of mstatus turns on, by the place of its field; a guest's own field counts too. -/
def Hart.unitOn (h : Hart) (lo : Nat) : Bool := field (h.csrAt 0x300) lo 2 ≠ 0 && (!h.virt || field (h.csrAt 0x200) lo 2 ≠ 0)
def Hart.fpOn (h : Hart) : Bool := h.unitOn 13
def Hart.vecOn (h : Hart) : Bool := h.unitOn 9
/-- A floating-point register or fcsr has been written: FS is Dirty. -/
def Hart.fpDirty (h : Hart) : Hart :=
  let h := h.maskCsr 0x300 0x6000 0x6000
  if h.virt then h.maskCsr 0x200 0x6000 0x6000 else h
/-- A vector register or a vector CSR has been written: VS is Dirty. -/
def Hart.vecDirty (h : Hart) : Hart :=
  let h := h.maskCsr 0x300 0x600 0x600
  if h.virt then h.maskCsr 0x200 0x600 0x600 else h
/-- Bytes in a vector register. -/
def vlenb : Nat := 16 * 2 ^ (Config.vectorLog % 10)
/-- vtype: VILL from reset on. -/
def Hart.vtype (h : Hart) : DWord := tblGet h.csr 0xC21 0x8000000000000000
/-- The CSRs of the vector unit. -/
def vectorCsrs : List Nat := [0x008, 0x009, 0x00A, 0x00F, 0xC20, 0xC21, 0xC22]
/-- mstatus. -/
def Hart.mstatus (h : Hart) : DWord :=
  let c := h.csrAt 0x300
  let bit (b : Nat) (p : Bool) : DWord := if p then 1#64 <<< b else 0
  c ||| bit 3 h.mie ||| bit 7 h.mpie ||| (h.mpp.setWidth 64 <<< 11) ||| bit 18 h.sum ||| bit 39 h.mpv ||| 0xA00000000 |||
  bit 63 (field c 13 2 = 3 || field c 9 2 = 3)
/-- A write of mstatus; MPP 2 names no mode and is not taken. -/
def Hart.putMstatus (h : Hart) (v : DWord) : Hart :=
  { h.maskCsr 0x300 0x40007A6722 v with
    mie := v.getLsbD 3, mpie := v.getLsbD 7, sum := v.getLsbD 18, mpv := v.getLsbD 39
    mpp := if field v 11 2 = 2 then h.mpp else BitVec.ofNat 2 (field v 11 2) }

/-- The CSR that a supervisor's number names while the hart runs a guest. -/
def guestCsr (h : Hart) (num : Nat) : Nat :=
  if !h.virt then num
  else if [0x100, 0x104, 0x105, 0x140, 0x141, 0x142, 0x143, 0x144, 0x14D, 0x150, 0x151, 0x15C, 0x180].contains num || num = 0xDB0 then num + 0x100
  else num
/-- The file that a guest's indirect registers reach (VGEIN). -/
def Hart.vgein (h : Hart) : Nat := field (h.csrAt 0x600) 12 6
/-- The exception of an access that is denied (2, or 22 where only the guest may not), by the number as it is written. -/
def csrDeny (h : Hart) (num : Nat) (write : Bool) : Option Nat :=
  let p := num / 256 % 4
  let m := h.mode = .m
  let user := h.mode = .u || h.mode = .vu
  let off (n b : Nat) : Bool := !h.csrBit n b
  let timer : Option Nat :=
    if m then none
    else if off 0x30A 63 || off 0x306 1 then some 2
    else if h.virt && (off 0x60A 63 || off 0x606 1) then some 22 else none
  if write && num / 1024 = 3 then some 2
  else if !m && p = 3 then some 2
  else if h.mode = .u && p ≠ 0 then some 2
  else if h.virt && (p = 2 || (h.mode = .vu && p ≠ 0)) then some 22
  else if num = 0x180 && h.mode = .hs && h.csrBit 0x300 20 then some 2
  else if num = 0x680 && h.mode = .hs && h.csrBit 0x300 20 then some 2
  else if num = 0x180 && h.virt && h.csrBit 0x600 20 then some 22
  else if num = 0x14D || num = 0x24D then timer
  else if 0xC00 ≤ num && num < 0xC20 then
    let b := num - 0xC00
    if !m && off 0x306 b then some 2
    else if h.virt && (off 0x606 b || (user && off 0x106 b)) then some 22
    else if user && off 0x106 b then some 2 else none
  else if 1 ≤ num && num ≤ 3 then (if h.fpOn then none else some 2)
  else if vectorCsrs.contains num then (if h.vecOn then none else some 2)
  else if h.virt && (num = 0x15C || (num = 0x151 && 0x70 ≤ (h.csrAt 0x250).toNat)) && (h.vgein = 0 || 7 < h.vgein) then some 22
  else none

/-- The 64 bits of an interrupt file's array that a select number names; odd numbers name none. -/
def fileChunk (x : BitVec 256) (j : Nat) : DWord := if j < 8 then x.extractLsb' (32 * j) 64 else 0
/-- An indirect register of an interrupt file, by select number. -/
def Imsic.ireg (x : Imsic) (sel : Nat) : Option DWord :=
  if sel = 0x70 then some (BitVec.ofNat 64 x.deliver.toNat)
  else if sel = 0x72 then some (BitVec.ofNat 64 x.threshold)
  else if sel % 2 = 1 then none
  else if 0x80 ≤ sel && sel < 0xC0 then some (fileChunk x.pending (sel - 0x80))
  else if 0xC0 ≤ sel && sel < 0x100 then some (fileChunk x.enabled (sel - 0xC0))
  else none
/-- A write of an indirect register; identity 0 does not exist. -/
def Imsic.putIreg (x : Imsic) (sel : Nat) (v : DWord) : Imsic :=
  let put (a : BitVec 256) (j : Nat) : BitVec 256 := if j < 8 then putField a (32 * j) 64 v.toNat &&& ~~~1 else a
  if sel = 0x70 then { x with deliver := v.getLsbD 0 }
  else if sel = 0x72 then { x with threshold := v.toNat % 256 }
  else if 0x80 ≤ sel && sel < 0xC0 then { x with pending := put x.pending (sel - 0x80) }
  else if 0xC0 ≤ sel && sel < 0x100 then { x with enabled := put x.enabled (sel - 0xC0) }
  else x
/-- An identity as the top registers show it. -/
def topWord (i : Nat) : DWord := BitVec.ofNat 64 (i * 65536 + i)
/-- A major interrupt as mtopi, stopi and vstopi show it, at the default priority number 1. -/
def topiWord (v : Option Nat) : DWord := match v with | some i => BitVec.ofNat 64 (i * 65536 + 1) | none => 0
/-- The file of an indirect register or a top register: M's, S's, or the guest's that VGEIN names. -/
def iregFile (h : Hart) (num : Nat) : Option Nat :=
  match num / 256 with
  | 3 => some 0
  | 1 => some 1
  | _ => if h.vgein = 0 || 7 < h.vgein then none else some (1 + h.vgein)
/-- CSRs that the table holds whole. -/
def plainCsr (num : Nat) : Bool :=
  [0x105, 0x106, 0x10A, 0x140, 0x141, 0x142, 0x143, 0x14D, 0x150].contains num ||
  [0x205, 0x240, 0x241, 0x242, 0x243, 0x24D, 0x250].contains num ||
  [0x302, 0x304, 0x306, 0x30A, 0x320, 0x340, 0x34A, 0x34B, 0x350].contains num ||
  [0x602, 0x603, 0x605, 0x606, 0x607, 0x60A, 0x643, 0x645, 0x64A].contains num
/-- CSRs that read 0 and ignore writes: PMP entries, which harts do not have, event selectors, virtual-interrupt controls. -/
def zeroCsr (num : Nat) : Bool :=
  (0x3A0 ≤ num && num < 0x3B0 && num % 2 = 0) || (0x3B0 ≤ num && num < 0x3F0) || (0x323 ≤ num && num < 0x340) ||
  [0x308, 0x309, 0x608, 0x609, 0x646, 0x647, 0x747, 0xDA0, 0xF11, 0xF12, 0xF13, 0xF15].contains num
/-- What a CSR reads, by its own number; none where there is no such register. Counters of cycles, of instructions and of events are
free values (log 13). -/
def csrRead (s : State) (n : Nat) (h : Hart) (num : Nat) : Option DWord :=
  let mask : DWord := 0x80000003000DE762
  let mip := s.mip n
  if plainCsr num then some (h.csrAt num)
  else if zeroCsr num then some 0
  else if (0xC00 ≤ num && num < 0xC20 && num ≠ 0xC01) || (0xB00 ≤ num && num < 0xB20 && num ≠ 0xB01) then
    some (Config.freeWord s.tick 0 ++ Config.freeWord s.tick 1)
  else match num with
  | 0x001 => some (h.csrAt 0x003 &&& 0x1F)
  | 0x002 => some (h.csrAt 0x003 >>> 5 &&& 7)
  | 0x003 => some (h.csrAt 0x003)
  | 0x008 => some (h.csrAt 0x008)
  | 0x009 => some (h.csrAt 0x00F &&& 1)
  | 0x00A => some (h.csrAt 0x00F >>> 1)
  | 0x00F => some (h.csrAt 0x00F)
  | 0xC20 => some (h.csrAt 0xC20)
  | 0xC21 => some h.vtype
  | 0xC22 => some (BitVec.ofNat 64 vlenb)
  | 0x100 => some (h.mstatus &&& mask)
  | 0x104 => some (h.csrAt 0x304 &&& h.mideleg &&& 0x222)
  | 0x144 => some (mip &&& h.mideleg &&& 0x222)
  | 0x180 => some h.satp
  | 0x200 =>
    let c := h.csrAt 0x200
    some (c ||| 0x200000000 ||| (if field c 13 2 = 3 || field c 9 2 = 3 then 0x8000000000000000 else 0))
  | 0x204 => some ((h.csrAt 0x304 &&& h.csrAt 0x603) >>> 1)
  | 0x244 => some ((mip &&& h.csrAt 0x603) >>> 1)
  | 0x280 => some h.vsatp
  | 0x300 => some h.mstatus
  | 0x301 => some 0x80000000003411AF
  | 0x303 => some h.mideleg
  | 0x305 => some h.mtvec
  | 0x341 => some h.mepc
  | 0x342 => some h.mcause
  | 0x343 => some h.mtval
  | 0x344 => some mip
  | 0x600 => some (h.csrAt 0x600 ||| 0x200000000)
  | 0x604 => some (h.csrAt 0x304 &&& 0x1444)
  | 0x644 => some (mip &&& 0x1444)
  | 0x680 => some h.hgatp
  | 0xC01 => some (if h.virt then s.gtime + h.csrAt 0x605 else s.gtime)
  | 0xE12 => some (s.hgeip n)
  | 0xF14 => some (BitVec.ofNat 64 n)
  | 0xFB0 => some (topiWord (topInt (s.hartInts n).1))
  | 0xDB0 => some (topiWord (topInt (s.hartInts n).2.1))
  | 0xEB0 => some (topiWord ((topInt (s.hartInts n).2.2).map (· - 1)))
  | 0x351 | 0x151 | 0x251 =>
    let sel := (h.csrAt (num - 1)).toNat
    if 0x30 ≤ sel && sel < 0x40 && num ≠ 0x251 then (if sel % 2 = 0 then some 0 else none)
    else (iregFile h num).bind fun f => (s.file n f).ireg sel
  | 0x35C | 0x15C | 0x25C => (iregFile h num).map fun f => topWord (s.file n f).top
  | _ => none
/-- The bits of a CSR of the table that a write keeps. -/
def csrMask (num : Nat) : DWord :=
  match num with
  | 0x105 | 0x205 => ~~~2
  | 0x106 | 0x306 | 0x606 => 0xFFFFFFFF
  | 0x10A => 0x2000000F1
  | 0x141 | 0x241 => ~~~1
  | 0x302 => 0xF0B7FF
  | 0x304 => 0x1EEE
  | 0x30A => 0xC0000000000000F1
  | 0x60A => 0xC0000002000000F1
  | 0x320 => 0xFFFFFFFD
  | 0x602 => 0xB1FF
  | 0x603 | 0x645 => 0x444
  | 0x607 => 0xFE
  | _ => ~~~0
/-- A root register keeps its old value where MODE names no paging. -/
def putRoot (old v : DWord) : DWord := if [0, 8, 9, 10].contains (field v 60 4) then v else old
/-- What a write of a CSR does, by its own number; the interrupt files are the state's. -/
def csrWrite (s : State) (n : Nat) (h : Hart) (num : Nat) (v : DWord) : State × Hart :=
  let mine (h : Hart) : State × Hart := (s, h)
  let filed (f : Nat) (x : Imsic) : State × Hart := ({ s with imsics := tblSet s.imsics (n * 16 + f) x }, h)
  if plainCsr num then mine (h.putCsr num (v &&& csrMask num))
  else match num with
  | 0x001 => mine (h.maskCsr 0x003 0x1F v).fpDirty
  | 0x002 => mine (h.maskCsr 0x003 0xE0 (v <<< 5)).fpDirty
  | 0x003 => mine (h.putCsr 0x003 (v &&& 0xFF)).fpDirty
  | 0x008 => mine (h.putCsr 0x008 (BitVec.ofNat 64 (v.toNat % (8 * vlenb)))).vecDirty
  | 0x009 => mine (h.maskCsr 0x00F 1 v).vecDirty
  | 0x00A => mine (h.maskCsr 0x00F 6 (v <<< 1)).vecDirty
  | 0x00F => mine (h.putCsr 0x00F (v &&& 7)).vecDirty
  | 0x100 => mine { h.maskCsr 0x300 0x86722 v with sum := v.getLsbD 18 }
  | 0x104 => mine (h.maskCsr 0x304 (h.mideleg &&& 0x222) v)
  | 0x144 => mine (h.maskCsr 0x344 (h.mideleg &&& 2) v)
  | 0x180 => mine { h with satp := putRoot h.satp v }
  | 0x200 => mine (h.putCsr 0x200 (v &&& 0xC6722))
  | 0x204 => mine (h.maskCsr 0x304 (h.csrAt 0x603) (v <<< 1))
  | 0x244 => mine (h.maskCsr 0x645 (h.csrAt 0x603 &&& 4) (v <<< 1))
  | 0x280 => mine { h with vsatp := putRoot h.vsatp v }
  | 0x300 => mine (h.putMstatus v)
  | 0x303 => mine (h.putCsr 0x303 (v &&& 0x222))
  | 0x305 => mine { h with mtvec := v &&& ~~~2 }
  | 0x341 => mine { h with mepc := v &&& ~~~1 }
  | 0x342 => mine { h with mcause := v }
  | 0x343 => mine { h with mtval := v }
  | 0x344 => mine ((h.maskCsr 0x344 (if h.csrBit 0x30A 63 then 0x202 else 0x222) v).maskCsr 0x645 4 v)
  | 0x600 => mine (h.putCsr 0x600 (v &&& (if n < 64 then 0x7073C0 else 0x7003C0)))
  | 0x604 => mine (h.maskCsr 0x304 0x1444 v)
  | 0x644 => mine (h.maskCsr 0x645 4 v)
  | 0x680 => mine { h with hgatp := putRoot h.hgatp (v &&& 0xF3FFFFFFFFFFFFFC) }
  | 0x351 | 0x151 | 0x251 => match iregFile h num with
    | some f => filed f ((s.file n f).putIreg (h.csrAt (num - 1)).toNat v)
    | none => mine h
  | 0x35C | 0x15C | 0x25C => match iregFile h num with
    | some f => let x := s.file n f; filed f { x with pending := x.pending &&& ~~~(1#256 <<< x.top) }
    | none => mine h
  | _ => mine h

end Sys2Proof.Machine
end

