-- ==== Sys2Proof/Machine/RvFloat.lean ====
section
/-!
DEFINITION. Floating-point instructions of harts (log 13, PRESUMED: the F, D, Zfhmin and Zfa extensions of RVA23), over the
arithmetic of R46 to R61. Narrower values stand in a register under ones (NaN boxing).
-/
namespace Sys2Proof.Machine

def fmtF64 : FpFmt := ⟨64, 52, 1023, true, 0x7FEFFFFFFFFFFFFF, some 0x7FF8000000000000, some 0x7FF0000000000000⟩
/-- A value of n bits in a register. -/
def boxed (n : Nat) (v : DWord) : DWord := v ||| (if n = 64 then 0 else if n = 32 then 0xFFFFFFFF00000000 else 0xFFFFFFFFFFFF0000)
/-- A floating-point register. -/
def Hart.fAt (h : Hart) (r : BitVec 5) : DWord := tblGet h.f r.toNat 0
/-- Writes a floating-point register; FS becomes Dirty. -/
def Hart.putF (h : Hart) (r : BitVec 5) (v : DWord) : Hart :=
  let h := h.putCsr 0x300 (h.csrAt 0x300 ||| 0x6000)
  let h := if h.virt then h.putCsr 0x200 (h.csrAt 0x200 ||| 0x6000) else h
  { h with f := tblSet h.f r.toNat v }
/-- What a floating-point word gives: a value for an integer or a floating-point register and flags, or an illegal word. -/
inductive FpEff where
  | value (toX : Bool) (v : DWord) (flags : BitVec 5) | illegal
/-- The format of a word's fmt field: single, double or half precision. -/
def rvFmt (n : Nat) : Option FpFmt := match n with | 0 => some fmtF32 | 1 => some fmtF64 | 2 => some fmtF16 | _ => none
/-- An operand: a narrower one that is not boxed is the canonical NaN. -/
def fpOperand (f : FpFmt) (v : DWord) : Nat := if boxed f.bits v = v then field v 0 f.bits else f.nanEnc.getD 0
/-- The rounding mode of a word or of frm; 5 and 6 name none. -/
def rvMode (h : Hart) (rm : Nat) : Option RMode :=
  match if rm = 7 then field (h.csrAt 0x003) 5 3 else rm with
  | 0 => some .rne | 1 => some .rtz | 2 => some .rdn | 3 => some .rup | 4 => some .rna | _ => none
/-- A result in a floating-point register. -/
def fpPut (f : FpFmt) (r : Nat × BitVec 5) : FpEff :=
  .value false (boxed f.bits (BitVec.ofNat 64 r.1)) r.2
/-- A result of n bits in an integer register, sign-extended from 32. -/
def xPut (n : Nat) (r : Nat × BitVec 5) : FpEff :=
  .value true (if n = 32 then (BitVec.ofNat 32 r.1).signExtend 64 else BitVec.ofNat 64 r.1) r.2
/-- To an integer of n bits: what does not fit becomes the nearest end, a NaN the largest. -/
def fpToX (f : FpFmt) (mode : RMode) (n : Nat) (sgn : Bool) (a : Nat) : Nat × BitVec 5 :=
  let lo : Int := if sgn then -(2 ^ (n - 1) : Nat) else 0
  let hi : Int := if sgn then (2 ^ (n - 1) : Nat) - 1 else (2 ^ n : Nat) - 1
  let enc (x : Int) : Nat := (x % (2 ^ n : Nat)).toNat
  match f.value a with
  | .nan => (enc hi, 16)
  | .inf neg => (enc (if neg then lo else hi), 16)
  | .fin neg m e =>
    let (r, inexact) := roundAt mode neg m e 0
    let x : Int := if neg then -(r : Int) else r
    if x > hi then (enc hi, 16) else if x < lo then (enc lo, 16) else (enc x, if inexact then 1 else 0)
/-- From an integer. -/
def xToFp (f : FpFmt) (mode : RMode) (v : Int) : Nat × BitVec 5 := roundTo f mode false (.fin (v < 0) v.natAbs 0)
/-- Sign injection. -/
def signJoin (f : FpFmt) (f3 a b : Nat) : Nat :=
  f.signed (match f3 with | 0 => f.neg b | 1 => !f.neg b | _ => f.neg a != f.neg b) (f.mag a)
/-- Comparisons: FLE, FLT, FEQ by funct3. -/
def fpRel (f : FpFmt) (f3 a b : Nat) : Nat × BitVec 5 :=
  let un := f.isNan a || f.isNan b
  let v (x : Nat) : Int := if f.neg x then -(f.mag x : Int) else f.mag x
  let loud : BitVec 5 := if un then 16 else 0
  match f3 with
  | 0 => ((!un && decide (v a ≤ v b)).toNat, loud)
  | 1 => ((!un && decide (v a < v b)).toNat, loud)
  | _ => ((!un && decide (v a = v b)).toNat, snanFlag f [a, b])
/-- FCLASS. -/
def fpKind (f : FpFmt) (a : Nat) : Nat :=
  2 ^ (if f.isSnan a then 8 else if f.isNan a then 9
    else if f.isInf a then (if f.neg a then 0 else 7)
    else if f.mag a = 0 then (if f.neg a then 3 else 4)
    else if f.mag a < 2 ^ f.mant then (if f.neg a then 2 else 5)
    else (if f.neg a then 1 else 6))
/-- FROUND and FROUNDNX: the nearest integer of the mode, in the format; `nx` says that it may raise NX. -/
def fpIntegral (f : FpFmt) (mode : RMode) (nx : Bool) (a : Nat) : Nat × BitVec 5 :=
  match f.value a with
  | .nan => (f.nanEnc.getD 0, snanFlag f [a])
  | .inf _ => (a, 0)
  | .fin neg m e =>
    let (r, inexact) := roundAt mode neg m e 0
    ((roundTo f .rne false (.fin neg r 0)).1, if nx && inexact then 1 else 0)
/-- FCVTMOD.W.D: the low 32 bits of the truncated value. -/
def fpModular (f : FpFmt) (a : Nat) : Nat × BitVec 5 :=
  match f.value a with
  | .nan | .inf _ => (0, 16)
  | .fin neg m e =>
    let (r, inexact) := roundAt .rtz neg m e 0
    let x : Int := if neg then -(r : Int) else r
    ((x % 2 ^ 32).toNat, if x < -2 ^ 31 || x ≥ 2 ^ 31 then 16 else if inexact then 1 else 0)
/-- The constants of FLI from the third on, as m * 2^e. -/
def fliConsts : List (Nat × Int) :=
  [(1, -16), (1, -15), (1, -8), (1, -7), (1, -4), (1, -3), (4, -4), (5, -4), (6, -4), (7, -4), (4, -3), (5, -3), (6, -3), (7, -3)] ++
  [(4, -2), (5, -2), (6, -2), (7, -2), (4, -1), (5, -1), (6, -1), (1, 2), (1, 3), (1, 4), (1, 7), (1, 8), (1, 15), (1, 16)]
/-- FLI: -1, the smallest normal number, the table, infinity and the canonical NaN. -/
def fliValue (f : FpFmt) (i : Nat) : Fp :=
  if i = 0 then .fin true 1 0 else if i = 1 then .fin false 1 (1 - f.bias)
  else if i = 30 then .inf false else if i = 31 then .nan
  else let (m, e) := fliConsts.getD (i - 2) (0, 0); .fin false m e
/-- A floating-point word: the multiply-add opcodes and OP-FP by its funct5. -/
def fpExec (h : Hart) (w : BitVec 32) : FpEff :=
  let op := field w 0 7
  let f3 := field w 12 3
  let fn := field w 27 5
  let rs2 := field w 20 5
  let x := h.xAt (w.extractLsb' 15 5)
  match rvFmt (field w 25 2) with
  | none => .illegal
  | some f =>
    let half := f.bits = 16
    let reg (lo : Nat) : Nat := fpOperand f (h.fAt (w.extractLsb' lo 5))
    let a := reg 15
    let b := reg 20
    let rounded (g : RMode → FpEff) : FpEff := match rvMode h f3 with | some m => g m | none => .illegal
    if half && (op ≠ 0x53 || !(fn = 0x08 && rs2 < 2) && !((fn = 0x1C || fn = 0x1E) && rs2 = 0 && f3 = 0)) then .illegal
    else if op ≠ 0x53 then
      let c := reg 27
      rounded fun m => fpPut f (match op with
        | 0x43 => fpFma f m c a b
        | 0x47 => fpFma f m (fpNeg f c) a b
        | 0x4B => fpFma f m c (fpNeg f a) b
        | _ => fpFma f m (fpNeg f c) (fpNeg f a) b)
    else match fn with
    | 0x00 => rounded fun m => fpPut f (fpAdd f m a b)
    | 0x01 => rounded fun m => fpPut f (fpAdd f m a (fpNeg f b))
    | 0x02 => rounded fun m => fpPut f (fpMul f m a b)
    | 0x03 => rounded fun m => fpPut f (fpDiv f m a b)
    | 0x0B => if rs2 ≠ 0 then .illegal else rounded fun m => fpPut f (fpSqrt f m a)
    | 0x04 => if f3 < 3 then fpPut f (signJoin f f3 a b, 0) else .illegal
    | 0x05 => if f3 < 4 then fpPut f (fpMinMax f (f3 % 2 = 1) (f3 < 2) a b) else .illegal
    | 0x08 =>
      if rs2 = 4 || rs2 = 5 then rounded fun m => fpPut f (fpIntegral f m (rs2 = 5) a)
      else match rvFmt rs2 with
      | some g => if g.bits = f.bits then .illegal else rounded fun m => fpPut f (fpToFp g f m false (fpOperand g (h.fAt (w.extractLsb' 15 5))))
      | none => .illegal
    | 0x14 =>
      if f3 < 3 then xPut 64 (fpRel f f3 a b)
      else if f3 = 4 || f3 = 5 then xPut 64 ((fpRel f (f3 - 4) a b).1, snanFlag f [a, b])
      else .illegal
    | 0x18 =>
      if rs2 < 4 then rounded fun m => let n := if rs2 < 2 then 32 else 64; xPut n (fpToX f m n (rs2 % 2 = 0) a)
      else if rs2 = 8 && f3 = 1 && f.bits = 64 then xPut 32 (fpModular f a) else .illegal
    | 0x1A =>
      let v : Int := match rs2 with
        | 0 => (x.setWidth 32).toInt | 1 => (x.setWidth 32).toNat | 2 => x.toInt | _ => x.toNat
      if rs2 < 4 then rounded fun m => fpPut f (xToFp f m v) else .illegal
    | 0x1C =>
      let raw := h.fAt (w.extractLsb' 15 5)
      if rs2 = 0 && f3 = 0 then .value true (if f.bits = 64 then raw else if half then (raw.setWidth 16).signExtend 64 else (raw.setWidth 32).signExtend 64) 0
      else if rs2 = 0 && f3 = 1 then .value true (BitVec.ofNat 64 (fpKind f a)) 0
      else .illegal
    | 0x1E => if rs2 = 0 && f3 = 0 then .value false (boxed f.bits x) 0
      else if rs2 = 1 && f3 = 0 then fpPut f (roundTo f .rne false (fliValue f (field w 15 5))) else .illegal
    | _ => .illegal

end Sys2Proof.Machine
end

