-- ==== Sys2Proof/Machine/RvBase.lean ====
section
/-!
DEFINITION. What the RISC-V instructions of harts share (R9; log 13, PRESUMED): the word and its fields, what an instruction answers,
loads and stores, and the integer functions of scalars and vectors.
-/
namespace Sys2Proof.Machine

/-- What an instruction of a hart answers: the state and the hart's record after it, an exception, or a wait. -/
inductive RvEff where
  | next (s : State) (h : Hart) | trap (cause : Nat) (tval : DWord) (gpa : DWord := 0) | wait
/-- What an instruction sees: the hart, its word, the word as fetched, and the address of the next instruction. -/
structure Rv where
  n : Nat
  h : Hart
  w : BitVec 32
  raw : BitVec 32
  link : DWord
def Rv.rd (r : Rv) : BitVec 5 := r.w.extractLsb' 7 5
def Rv.rs1 (r : Rv) : BitVec 5 := r.w.extractLsb' 15 5
def Rv.rs2 (r : Rv) : BitVec 5 := r.w.extractLsb' 20 5
def Rv.f3 (r : Rv) : Nat := field r.w 12 3
def Rv.f7 (r : Rv) : Nat := field r.w 25 7
/-- The values of the source registers and the immediates of the I and S forms. -/
def Rv.a (r : Rv) : DWord := r.h.xAt r.rs1
def Rv.b (r : Rv) : DWord := r.h.xAt r.rs2
def Rv.immI (r : Rv) : DWord := (r.w.extractLsb' 20 12).signExtend 64
def Rv.immS (r : Rv) : DWord := ((r.w.extractLsb' 25 7 ++ r.w.extractLsb' 7 5 : BitVec 12)).signExtend 64
/-- The illegal-instruction exception; its value is the word. -/
def Rv.illegal (r : Rv) : RvEff := .trap 2 (r.raw.setWidth 64)
/-- The instruction ends with a value in rd. -/
def Rv.give (r : Rv) (s : State) (v : DWord) : RvEff := .next s { r.h.putX r.rd v with pc := r.link }
/-- The instruction ends without a value. -/
def Rv.over (r : Rv) (s : State) : RvEff := .next s { r.h with pc := r.link }
/-- A result, where there is one. -/
def Rv.value (r : Rv) (s : State) (v : Option DWord) : RvEff := match v with | some v => r.give s v | none => r.illegal

/-- Division and remainder: by zero all ones and the dividend; the overflow wraps. -/
def divS {n : Nat} (a b : BitVec n) : BitVec n := if b = 0 then BitVec.allOnes n else a.sdiv b
def divU {n : Nat} (a b : BitVec n) : BitVec n := if b = 0 then BitVec.allOnes n else a / b
def remS {n : Nat} (a b : BitVec n) : BitVec n := if b = 0 then a else a.srem b
def remU {n : Nat} (a b : BitVec n) : BitVec n := if b = 0 then a else a % b
/-- The high half of a product, by the signs of the operands. -/
def mulHigh (a b : Int) : DWord := BitVec.ofInt 64 (a * b / 2 ^ 64)
/-- Counts of zeros from the top and from the bottom, and of ones. -/
def clzN {n : Nat} (a : BitVec n) : Nat := if a = 0 then n else n - 1 - Nat.log2 a.toNat
def ctzN {n : Nat} (a : BitVec n) : Nat := ((List.range n).find? a.getLsbD).getD n
def popN {n : Nat} (a : BitVec n) : Nat := ((List.range n).filter a.getLsbD).length
/-- A load of n bytes as a number. One that is not aligned is made of memory alone; a device answers each load anew (R152, R370). -/
def hartBytes (s : State) (h : Hart) (acc : HartAcc) (va : DWord) (n : Nat) : Except (HartMiss × DWord) (State × DWord) :=
  match s.hartLoadAs h acc va n with
  | .held => .error (.held, va)
  | .fault c a g => .error (.fault c g, a)
  | .bytes bs pa =>
    if classOf pa = .cacheable then .ok (s, ofBytes 64 bs)
    else if va.toNat % n ≠ 0 then .error (.fault 4 0, va)
    else .ok ({ s with tick := s.tick + 1 }, ofBytes 64 bs)
/-- What an access that misses makes of its instruction: a wait, or an exception. -/
def missEff (m : HartMiss × DWord) : RvEff := match m with | (.held, _) => .wait | (.fault c g, a) => .trap c a g
/-- A load of n bytes, then what is done with them. -/
def hartRead (s : State) (h : Hart) (acc : HartAcc) (va : DWord) (n : Nat) (use : State → DWord → RvEff) : RvEff :=
  match hartBytes s h acc va n with
  | .error m => missEff m
  | .ok (s, v) => use s v
/-- Bytes of a hart's store reach memory: a Coulter hart's through its die's cache (R15), others' at the directory; a remote store
that meets a port that is not up is lost (R370). -/
def State.hartPut (s : State) (n : Nat) (pas : List Nat) (bs : List Byte) : State :=
  let pa := pas.headD 0
  match classOf pa with
  | .cacheable => if n < 64 then s.cohWrite (hartChip n) (pas.zip bs) else s.ioWrite (pas.zip bs)
  | .uncached => s.deviceWrite n pa bs
  | .remote => match s.remotePort pa with
    | some p => if s.linkUp p then s else s.countErr p 1
    | none => s
  | .none => s
/-- Where a hart's store or atomic of n bytes goes, or what stops it (R17, R152, R157): the ROM takes none, a device none that is not
aligned. -/
def hartSpots (s : State) (h : Hart) (acc : HartAcc) (va : DWord) (n : Nat) : Except (HartMiss × DWord) (List Nat) :=
  match s.hartPas h acc va n with
  | .error m => .error m
  | .ok pas =>
    let mem (pa : Nat) : Bool := classOf pa = .cacheable
    if (match regionOf (pas.headD 0) with | .rom _ => true | _ => false) then .error (.fault 7 0, va)
    else if !pas.all mem && va.toNat % n ≠ 0 then .error (.fault 6 0, va)
    else if pas.any fun pa => mem pa && s.gate pa = .hold then .error (.held, va)
    else .ok pas
/-- A store or atomic of n bytes, then what is done at its place. -/
def hartPlaces (s : State) (h : Hart) (acc : HartAcc) (va : DWord) (n : Nat) (use : List Nat → RvEff) : RvEff :=
  match hartSpots s h acc va n with
  | .error m => missEff m
  | .ok pas => use pas

end Sys2Proof.Machine
end

