-- ==== Sys2Proof/Machine/VecBase.lean ====
section
/-!
DEFINITION. The vector unit of harts (R9 names V; log 13, PRESUMED: the V extension 1.0 with Zvbb and Zvfhmin): vtype, register groups,
masks, elements, and how an instruction writes its result.
-/
namespace Sys2Proof.Machine

/-- What vtype, vl and vstart say: bytes in a register, SEW, log2 of LMUL, vl, vstart, and the tail and mask policies. -/
structure VCfg where
  bytes : Nat
  sew : Nat
  lm : Int
  vl : Nat
  start : Nat
  ta : Bool
  ma : Bool
/-- log2 of LMUL by its field, and elements in a group. -/
def lmulLog (f : Nat) : Int := if f < 4 then f else (f : Int) - 8
def groupLen (bytes eew : Nat) (lm : Int) : Nat := bytes * 8 * 2 ^ lm.toNat / 2 ^ (-lm).toNat / eew
/-- A vtype that names a configuration: SEW up to 64, an LMUL that holds an element of SEW for ELEN = 64, reserved bits 0. -/
def vtypeOk (v : DWord) : Bool :=
  let f := field v 0 3
  v.toNat < 256 && f ≠ 4 && field v 3 3 < 4 && 2 ^ field v 3 3 ≤ 8 / 2 ^ (-(lmulLog f)).toNat
/-- The configuration of a hart, or none where VILL is set. -/
def vcfgOf (h : Hart) (bytes : Nat) : Option VCfg :=
  let v := h.vtype
  if v.getLsbD 63 then none
  else some { bytes := bytes, sew := 8 * 2 ^ field v 3 3, lm := lmulLog (field v 0 3), vl := (h.csrAt 0xC20).toNat
              start := (h.csrAt 0x008).toNat, ta := v.getLsbD 6, ma := v.getLsbD 7 }
/-- VLMAX. -/
def VCfg.max (c : VCfg) : Nat := groupLen c.bytes c.sew c.lm

/-- A register group: its first register, log2 of its EMUL, and the width of its elements, 1 for a mask. -/
structure VGrp where
  r : Nat
  lm : Int
  eew : Nat
deriving DecidableEq
def VGrp.span (g : VGrp) : Nat := 2 ^ g.lm.toNat
/-- A mask register, and a register whose element 0 is used alone. -/
def maskGrp (r : Nat) : VGrp := ⟨r, 0, 1⟩
/-- A group that exists: EMUL from 1/8 to 8, elements up to 64 bits, the first register a multiple of EMUL. -/
def VGrp.ok (g : VGrp) : Bool := -3 ≤ g.lm && g.lm ≤ 3 && g.r % g.span = 0 && g.eew ≤ 64 && (g.eew = 1 || 8 ≤ g.eew)
def VGrp.meets (a b : VGrp) : Bool := a.r < b.r + b.span && b.r < a.r + a.span
/-- A destination may lie over a source of its own width, over the lowest part of a source of a wider one, and with its highest part over
a source of a narrower one. -/
def VGrp.over (d g : VGrp) : Bool :=
  !d.meets g || d.eew = g.eew || (d.eew < g.eew && d.r = g.r) || (g.eew < d.eew && 0 ≤ g.lm && g.r + g.span = d.r + d.span)
/-- No register is read with two widths. -/
def oneWidth (gs : List VGrp) : Bool := gs.all fun a => gs.all fun b => !a.meets b || a.eew = b.eew

/-- Bytes of the vector registers as a number. -/
def Hart.vBytes (h : Hart) (k n : Nat) : Nat := (List.range n).foldr (fun j v => v * 256 + (tblGet h.vr (k + j) 0).toNat) 0
def Hart.putVBytes (h : Hart) (k n v : Nat) : Hart :=
  { h with vr := (List.range n).foldl (fun t j => tblSet t (k + j) (BitVec.ofNat 8 (v / 256 ^ j))) h.vr }
/-- An element of a group. -/
def VCfg.elem (c : VCfg) (h : Hart) (g : VGrp) (i : Nat) : Nat := h.vBytes (g.r * c.bytes + i * (g.eew / 8)) (g.eew / 8)
def VCfg.putElem (c : VCfg) (h : Hart) (g : VGrp) (i v : Nat) : Hart := h.putVBytes (g.r * c.bytes + i * (g.eew / 8)) (g.eew / 8) v
/-- A bit of a mask register. -/
def VCfg.bit (c : VCfg) (h : Hart) (r i : Nat) : Bool := (tblGet h.vr (r * c.bytes + i / 8) 0).getLsbD (i % 8)
def VCfg.putBit (c : VCfg) (h : Hart) (r i : Nat) (b : Bool) : Hart :=
  let k := r * c.bytes + i / 8
  { h with vr := tblSet h.vr k (putField (tblGet h.vr k 0) (i % 8) 1 b.toNat) }

/-- Fields of a vector instruction. -/
def Rv.vd (r : Rv) : Nat := field r.w 7 5
def Rv.vs1 (r : Rv) : Nat := field r.w 15 5
def Rv.vs2 (r : Rv) : Nat := field r.w 20 5
def Rv.f6 (r : Rv) : Nat := field r.w 26 6
/-- The instruction is not masked. -/
def Rv.vm (r : Rv) : Bool := r.w.getLsbD 25
/-- An element is active. -/
def Rv.on (r : Rv) (c : VCfg) (i : Nat) : Bool := r.vm || c.bit r.h 0 i
/-- The mask as a source. -/
def Rv.vMask (r : Rv) : List VGrp := if r.vm then [] else [maskGrp 0]

/-- Agnostic elements: the tail and the elements that the mask leaves out are kept or set to ones, each by a free choice, where the
policy allows it. `lo` and `vl` bound the body. -/
def VCfg.agnostic (c : VCfg) (tick : Nat) (h : Hart) (d : VGrp) (lo vl : Nat) (on : Nat → Bool) : Hart :=
  (List.range (d.span * c.bytes * 8 / d.eew)).foldl (fun h i =>
    if lo ≤ i && (if i < vl then c.ma && !on i else c.ta) && Config.freeBool tick i then c.putElem h d i (2 ^ d.eew - 1) else h) h
/-- The same for the bits of a mask, whose tail is always agnostic and may hold what the operation gives there: a free value. -/
def VCfg.agnosticBits (c : VCfg) (tick : Nat) (h : Hart) (rd lo vl : Nat) (on : Nat → Bool) : Hart :=
  (List.range (8 * c.bytes)).foldl (fun h i =>
    if lo ≤ i && (if i < vl then c.ma && !on i else true) && Config.freeBool tick (2 * i) then
      c.putBit h rd i (i < vl || Config.freeBool tick (2 * i + 1)) else h) h

/-- The end of a vector instruction: flags of floating point (bits 4 to 0) and of saturation (bit 5), vstart 0, VS Dirty. -/
def Rv.vFinish (r : Rv) (s : State) (h : Hart) (flags : BitVec 6) : RvEff :=
  let fp : DWord := (flags.extractLsb' 0 5).setWidth 64
  let h := if fp = 0 then h else (h.putCsr 0x003 (h.csrAt 0x003 ||| fp)).fpDirty
  let h := if flags.getLsbD 5 then h.maskCsr 0x00F 1 1 else h
  .next { s with tick := s.tick + 1 } { (h.putCsr 0x008 0).vecDirty with pc := r.link }
/-- The flags of results. -/
def allFlags (vs : List (Nat × Nat × BitVec 6)) : BitVec 6 := vs.foldl (fun f v => f ||| v.2.2) 0
/-- The active elements of the body from `lo` on. -/
def VCfg.body (c : VCfg) (lo : Nat) (on : Nat → Bool) : List Nat := (List.range c.vl).filter fun i => c.start ≤ i && lo ≤ i && on i
/-- The groups of an instruction are legal: they exist, no register is read with two widths, the destination lies over sources as it may
(not at all where `apart`), and over the mask only where it is a mask. -/
def Rv.vLegal (r : Rv) (d : VGrp) (srcs : List VGrp) (apart : Bool) : Bool :=
  d.ok && srcs.all VGrp.ok && oneWidth (srcs ++ r.vMask) && srcs.all (if apart then fun g => !d.meets g else d.over) &&
  (r.vm || d.r ≠ 0 || d.eew = 1)
/-- An instruction that gives a group of elements: `on` names the active ones, `f` gives their values and flags from the operands as
they were. -/
def Rv.vElems (r : Rv) (s : State) (c : VCfg) (d : VGrp) (srcs : List VGrp) (f : Nat → Nat × BitVec 6) (apart : Bool := false)
    (on : Nat → Bool := r.on c) (lo : Nat := 0) : RvEff :=
  if !r.vLegal d srcs apart then r.illegal
  else if c.vl ≤ c.start then r.vFinish s r.h 0
  else
    let vals := (c.body lo on).map fun i => (i, f i)
    let h := vals.foldl (fun h v => c.putElem h d v.1 v.2.1) r.h
    r.vFinish s (c.agnostic s.tick h d (max c.start lo) c.vl on) (allFlags vals)
/-- An instruction that gives a mask. -/
def Rv.vBits (r : Rv) (s : State) (c : VCfg) (srcs : List VGrp) (f : Nat → Bool × BitVec 6) (apart : Bool := false)
    (on : Nat → Bool := r.on c) : RvEff :=
  if !r.vLegal (maskGrp r.vd) srcs apart then r.illegal
  else if c.vl ≤ c.start then r.vFinish s r.h 0
  else
    let vals := (c.body 0 on).map fun i => (i, f i)
    let h := vals.foldl (fun h v => c.putBit h r.vd v.1 v.2.1) r.h
    r.vFinish s (c.agnosticBits s.tick h r.vd c.start c.vl on) (allFlags (vals.map fun v => (v.1, 0, v.2.2)))
/-- A reduction: element 0 of vs1, of width `e`, with the active elements of vs2 in their order. -/
def Rv.vReduce (r : Rv) (s : State) (c : VCfg) (e : Nat) (f : Nat → Nat → Nat × BitVec 6) : RvEff :=
  let v2 : VGrp := ⟨r.vs2, c.lm, c.sew⟩
  let v1 : VGrp := ⟨r.vs1, 0, e⟩
  let d : VGrp := ⟨r.vd, 0, e⟩
  if c.start ≠ 0 || !(v1.ok && v2.ok && oneWidth ([v1, v2] ++ r.vMask)) then r.illegal
  else if c.vl = 0 then r.vFinish s r.h 0
  else
    let (v, fl) := (c.body 0 (r.on c)).foldl (fun (a : Nat × BitVec 6) i =>
      let (v, fl) := f a.1 (c.elem r.h v2 i)
      (v, a.2 ||| fl)) (c.elem r.h v1 0, 0)
    r.vFinish s (c.agnostic s.tick (c.putElem r.h d 0 v) d 1 1 fun _ => true) fl
/-- An instruction that gives an integer register a value. -/
def Rv.vToX (r : Rv) (s : State) (v : DWord) : RvEff := r.vFinish s (r.h.putX r.rd v) 0
/-- An instruction that writes element 0 alone. -/
def Rv.vFirst (r : Rv) (s : State) (c : VCfg) (v : Nat) : RvEff :=
  let d : VGrp := ⟨r.vd, 0, c.sew⟩
  if c.vl ≤ c.start then r.vFinish s r.h 0
  else r.vFinish s (c.agnostic s.tick (c.putElem r.h d 0 v) d 1 1 fun _ => true) 0

/-- The group of a register at SEW and LMUL, and at twice or a fraction of them. -/
def VCfg.grp (c : VCfg) (r : Nat) : VGrp := ⟨r, c.lm, c.sew⟩
def VCfg.wide (c : VCfg) (r : Nat) : VGrp := ⟨r, c.lm + 1, 2 * c.sew⟩
/-- The groups of the second operand: vs1's of the vector forms. -/
def Rv.vOther (r : Rv) (c : VCfg) : List VGrp := if r.f3 < 3 then [c.grp r.vs1] else []

end Sys2Proof.Machine
end

