-- ==== Sys2Proof/Machine/VecInt.lean ====
section
/-!
DEFINITION. Vector instructions of harts on integers, masks and whole elements (log 13, PRESUMED: the V extension 1.0 with Zvbb).
-/
namespace Sys2Proof.Machine

/-- A number of n bits with its sign, and a number in n bits. -/
def signOf (n v : Nat) : Int := if v < 2 ^ (n - 1) then v else (v : Int) - (2 ^ n : Nat)
def wrapTo (n : Nat) (x : Int) : Nat := (x % (2 ^ n : Nat)).toNat
/-- A result without a flag, and one that saturation has changed. -/
def plainRes (v : Nat) : Option (Nat × BitVec 6) := some (v, 0)
/-- A number that a range holds, or the nearest end, with the flag of saturation. -/
def satIn (n : Nat) (lo hi x : Int) : Nat × BitVec 6 :=
  if x < lo then (wrapTo n lo, 32) else if hi < x then (wrapTo n hi, 32) else (wrapTo n x, 0)
def satS (n : Nat) (x : Int) : Nat × BitVec 6 := satIn n (-(2 ^ (n - 1) : Nat)) ((2 ^ (n - 1) : Nat) - 1) x
def satU (n : Nat) (x : Int) : Nat × BitVec 6 := satIn n 0 ((2 ^ n : Nat) - 1) x
/-- x / 2^d by vxrm: to nearest up, to nearest even, down, to odd. -/
def fixRound (rm : Nat) (x : Int) (d : Nat) : Int :=
  let lo := x / (2 ^ d : Nat)
  let rest := (x % (2 ^ d : Nat)).toNat
  let up := match rm with
    | 0 => 2 ^ d ≤ 2 * rest && rest ≠ 0
    | 1 => 2 ^ d < 2 * rest || (2 ^ d = 2 * rest && lo % 2 = 1)
    | 2 => false
    | _ => rest ≠ 0 && lo % 2 = 0
  if up then lo + 1 else lo
/-- The bits of a number in reverse. -/
def reverseBits (n v : Nat) : Nat := (List.range n).foldl (fun t j => 2 * t + v / 2 ^ j % 2) 0
/-- Rotation to the left. -/
def rotateBits (n v k : Nat) : Nat := (v * 2 ^ k + v / 2 ^ (n - k)) % 2 ^ n
/-- Functions of one width in OPIVV, OPIVX and OPIVI, by funct6: `a` is vs2's element, `b` the other operand. -/
def vecIntOp (f6 n rm a b : Nat) : Option (Nat × BitVec 6) :=
  let x := signOf n a
  let y := signOf n b
  let k := b % n
  match f6 with
  | 0x00 => plainRes (wrapTo n (a + b))
  | 0x01 => plainRes (a &&& (2 ^ n - 1 - b))
  | 0x02 => plainRes (wrapTo n (x - y))
  | 0x03 => plainRes (wrapTo n (y - x))
  | 0x04 => plainRes (min a b)
  | 0x05 => plainRes (if y < x then b else a)
  | 0x06 => plainRes (max a b)
  | 0x07 => plainRes (if x < y then b else a)
  | 0x09 => plainRes (a &&& b)
  | 0x0A => plainRes (a ||| b)
  | 0x0B => plainRes (a ^^^ b)
  | 0x14 => plainRes (rotateBits n a ((n - k) % n))
  | 0x15 => plainRes (rotateBits n a k)
  | 0x20 => some (satU n ((a : Int) + b))
  | 0x21 => some (satS n (x + y))
  | 0x22 => some (satU n ((a : Int) - b))
  | 0x23 => some (satS n (x - y))
  | 0x25 => plainRes (a * 2 ^ k % 2 ^ n)
  | 0x27 => some (satS n (fixRound rm (x * y) (n - 1)))
  | 0x28 => plainRes (a / 2 ^ k)
  | 0x29 => plainRes (wrapTo n (x / (2 ^ k : Nat)))
  | 0x2A => plainRes (wrapTo n (fixRound rm a k))
  | 0x2B => plainRes (wrapTo n (fixRound rm x k))
  | _ => none
/-- The forms that the functions above have: without OPIVV, without OPIVX, without OPIVI. -/
def vecIntForm (f6 f3 : Nat) : Bool :=
  match f3 with
  | 0 => f6 ≠ 0x03
  | 4 => true
  | _ => !([0x01, 0x02, 0x04, 0x05, 0x06, 0x07, 0x22, 0x23, 0x27].contains f6)
/-- Functions of one width in OPMVV and OPMVX: `d` is the destination's old element. -/
def vecMulOp (f6 n rm a b d : Nat) : Option (Nat × BitVec 6) :=
  let x := signOf n a
  let y := signOf n b
  let high (p : Int) : Option (Nat × BitVec 6) := plainRes (wrapTo n (p / (2 ^ n : Nat)))
  match f6 with
  | 0x08 => plainRes (wrapTo n (fixRound rm (a + b) 1))
  | 0x09 => plainRes (wrapTo n (fixRound rm (x + y) 1))
  | 0x0A => plainRes (wrapTo n (fixRound rm ((a : Int) - b) 1))
  | 0x0B => plainRes (wrapTo n (fixRound rm (x - y) 1))
  | 0x20 => plainRes (divU (BitVec.ofNat n a) (BitVec.ofNat n b)).toNat
  | 0x21 => plainRes (divS (BitVec.ofNat n a) (BitVec.ofNat n b)).toNat
  | 0x22 => plainRes (remU (BitVec.ofNat n a) (BitVec.ofNat n b)).toNat
  | 0x23 => plainRes (remS (BitVec.ofNat n a) (BitVec.ofNat n b)).toNat
  | 0x24 => high (a * b : Nat)
  | 0x25 => plainRes (wrapTo n (x * y))
  | 0x26 => high (x * b)
  | 0x27 => high (x * y)
  | 0x29 => plainRes (wrapTo n (y * signOf n d + x))
  | 0x2B => plainRes (wrapTo n (x - y * signOf n d))
  | 0x2D => plainRes (wrapTo n (y * x + signOf n d))
  | 0x2F => plainRes (wrapTo n (signOf n d - y * x))
  | _ => none
/-- Widening functions of OPMVV and OPMVX, from n bits to twice as many; of 0x34 to 0x37 `a` is wide already. -/
def vecWideOp (f6 n a b d : Nat) : Option (Nat × BitVec 6) :=
  let x := signOf n a
  let y := signOf n b
  let put (v : Int) : Option (Nat × BitVec 6) := plainRes (wrapTo (2 * n) v)
  match f6 with
  | 0x30 => put ((a : Int) + b)
  | 0x31 => put (x + y)
  | 0x32 => put ((a : Int) - b)
  | 0x33 => put (x - y)
  | 0x34 => put ((a : Int) + b)
  | 0x35 => put (a + y)
  | 0x36 => put ((a : Int) - b)
  | 0x37 => put (a - y)
  | 0x38 => put ((a : Int) * b)
  | 0x3A => put (x * b)
  | 0x3B => put (x * y)
  | 0x3C => put ((a : Int) * b + d)
  | 0x3D => put (x * y + d)
  | 0x3E => put (x * b + d)
  | 0x3F => put (a * y + d)
  | _ => none
/-- Comparisons of OPIVV, OPIVX and OPIVI, from funct6 0x18 on. -/
def vecCompare (f6 n a b : Nat) : Bool :=
  let x := signOf n a
  let y := signOf n b
  match f6 with
  | 0x18 => a = b | 0x19 => a ≠ b | 0x1A => a < b | 0x1B => x < y | 0x1C => a ≤ b | 0x1D => x ≤ y | 0x1E => b < a | _ => y < x
/-- The result of a function where there is one. -/
def resOf (o : Option (Nat × BitVec 6)) : Nat × BitVec 6 := o.getD (0, 0)

/-- vxrm. -/
def Rv.vxrm (r : Rv) : Nat := field (r.h.csrAt 0x00F) 1 2
/-- The second operand of an element: vs1's, x's low bits, or the immediate, with its sign or without. -/
def Rv.vB (r : Rv) (c : VCfg) (uns : Bool) (i : Nat) : Nat :=
  match r.f3 with
  | 0 | 1 | 2 => c.elem r.h (c.grp r.vs1) i
  | 3 => if uns then r.vs1 else wrapTo c.sew (signOf 5 r.vs1)
  | _ => r.a.toNat % 2 ^ c.sew
/-- An index or an offset that is no vector. -/
def Rv.vIndex (r : Rv) : Nat := if r.f3 = 3 then r.vs1 else r.a.toNat
/-- Gathers and slides: vs2's element at a place, 0 past VLMAX. -/
def Rv.vAt (r : Rv) (c : VCfg) (k : Nat) : Nat × BitVec 6 := (if k < c.max then c.elem r.h (c.grp r.vs2) k else 0, 0)
/-- Whole registers moved: elements of SEW, from vstart on. -/
def Rv.vMoveWhole (r : Rv) (s : State) (c : VCfg) : RvEff :=
  let k := r.vs1 + 1
  if !r.vm || !([1, 2, 4, 8].contains k) || r.vd % k ≠ 0 || r.vs2 % k ≠ 0 then r.illegal
  else
    let g (x : Nat) : VGrp := ⟨x, Nat.log2 k, c.sew⟩
    r.vFinish s ((List.range (k * c.bytes * 8 / c.sew)).foldl (fun h i =>
      if c.start ≤ i then c.putElem h (g r.vd) i (c.elem r.h (g r.vs2) i) else h) r.h) 0
/-- OPIVV, OPIVX, OPIVI. -/
def Rv.vOpi (r : Rv) (s : State) (c : VCfg) : RvEff :=
  let n := c.sew
  let f := r.f6
  let imm := r.f3 = 3
  let v2 := c.grp r.vs2
  let d := c.grp r.vd
  let two := v2 :: r.vOther c
  let a (i : Nat) : Nat := c.elem r.h v2 i
  let all (_ : Nat) : Bool := true
  match f with
  | 0x0C =>
    if r.f3 = 0 then r.vElems s c d two (fun i => r.vAt c (r.vB c true i)) true
    else r.vElems s c d [v2] (fun _ => r.vAt c r.vIndex) true
  | 0x0E =>
    if r.f3 = 0 then
      let v1 : VGrp := ⟨r.vs1, c.lm + 4 - Nat.log2 n, 16⟩
      r.vElems s c d [v2, v1] (fun i => r.vAt c (c.elem r.h v1 i)) true
    else r.vElems s c d [v2] (fun i => (a (i - r.vIndex), 0)) true (lo := r.vIndex)
  | 0x0F => if r.f3 = 0 then r.illegal else r.vElems s c d [v2] fun i => r.vAt c (i + r.vIndex)
  | 0x10 | 0x12 =>
    if r.vm || (imm && f = 0x12) then r.illegal
    else r.vElems s c d two (fun i =>
      let cy := (c.bit r.h 0 i).toNat
      (wrapTo n (if f = 0x10 then a i + r.vB c false i + cy else (a i : Int) - r.vB c false i - cy), 0)) (on := all)
  | 0x11 | 0x13 =>
    if imm && f = 0x13 then r.illegal
    else r.vBits s c two (fun i =>
      let cy := (!r.vm && c.bit r.h 0 i).toNat
      (if f = 0x11 then 2 ^ n ≤ a i + r.vB c false i + cy else a i < r.vB c false i + cy, 0)) (on := all)
  | 0x17 =>
    if r.vm then (if r.vs2 ≠ 0 then r.illegal else r.vElems s c d (r.vOther c) fun i => (r.vB c false i, 0))
    else r.vElems s c d two (fun i => (if c.bit r.h 0 i then r.vB c false i else a i, 0)) (on := all)
  | 0x18 | 0x19 | 0x1A | 0x1B | 0x1C | 0x1D | 0x1E | 0x1F =>
    if (r.f3 = 0 && 0x1E ≤ f) || (imm && (f = 0x1A || f = 0x1B)) then r.illegal
    else r.vBits s c two fun i => (vecCompare f n (a i) (r.vB c false i), 0)
  | 0x2C | 0x2D | 0x2E | 0x2F =>
    let w := c.wide r.vs2
    r.vElems s c d (w :: r.vOther c) fun i =>
      let v := c.elem r.h w i
      let k := r.vB c true i % (2 * n)
      match f with
      | 0x2C => (v / 2 ^ k % 2 ^ n, 0)
      | 0x2D => (wrapTo n (signOf (2 * n) v / (2 ^ k : Nat)), 0)
      | 0x2E => satU n (fixRound r.vxrm v k)
      | _ => satS n (fixRound r.vxrm (signOf (2 * n) v) k)
  | 0x30 | 0x31 =>
    if r.f3 ≠ 0 then r.illegal
    else r.vReduce s c (2 * n) fun t e => (wrapTo (2 * n) (t + (if f = 0x30 then (e : Int) else signOf n e)), 0)
  | 0x35 => r.vElems s c (c.wide r.vd) two fun i => (a i * 2 ^ (r.vB c true i % (2 * n)) % 2 ^ (2 * n), 0)
  | _ =>
    let uns := 0x25 ≤ f
    let ror := imm && (f = 0x14 || f = 0x15)
    if imm && f = 0x27 then r.vMoveWhole s c
    else if (vecIntOp f n 0 0 0).isNone || !vecIntForm f r.f3 then r.illegal
    else r.vElems s c d two fun i =>
      if ror then resOf (vecIntOp 0x14 n 0 (a i) (r.vs1 + 32 * (f % 2))) else resOf (vecIntOp f n r.vxrm (a i) (r.vB c uns i))

/-- The set bits among the active elements of vs2's mask. -/
def Rv.vSet (r : Rv) (c : VCfg) : List Nat := (c.body 0 (r.on c)).filter (c.bit r.h r.vs2)
/-- vcpop.m, vfirst.m and vmv.x.s. -/
def Rv.vScalar (r : Rv) (s : State) (c : VCfg) : RvEff :=
  match r.vs1 with
  | 0 => if r.vm then r.vToX s (BitVec.ofInt 64 (signOf c.sew (c.elem r.h (c.grp r.vs2) 0))) else r.illegal
  | 16 => if c.start ≠ 0 then r.illegal else r.vToX s (BitVec.ofNat 64 (r.vSet c).length)
  | 17 => if c.start ≠ 0 then r.illegal else r.vToX s ((r.vSet c).head?.elim (BitVec.allOnes 64) (BitVec.ofNat 64))
  | _ => r.illegal
/-- Extensions and the functions of one operand (VXUNARY0). -/
def Rv.vUnary (r : Rv) (s : State) (c : VCfg) : RvEff :=
  let n := c.sew
  let v2 := c.grp r.vs2
  let d := c.grp r.vd
  let each (g : Nat → Nat) : RvEff := r.vElems s c d [v2] fun i => (g (c.elem r.h v2 i), 0)
  let k := r.vs1
  if 2 ≤ k && k ≤ 7 then
    let sh := 4 - k / 2
    let v : VGrp := ⟨r.vs2, c.lm - sh, n / 2 ^ sh⟩
    if n / 2 ^ sh < 8 then r.illegal
    else r.vElems s c d [v] fun i =>
      let e := c.elem r.h v i
      (if k % 2 = 1 then wrapTo n (signOf v.eew e) else e, 0)
  else match k with
  | 8 => each fun v => (List.range (n / 8)).foldr (fun j t => t * 256 + reverseBits 8 (v / 256 ^ j % 256)) 0
  | 9 => each fun v => (List.range (n / 8)).foldl (fun t j => t * 256 + v / 256 ^ j % 256) 0
  | 10 => each (reverseBits n)
  | 12 => each fun v => clzN (BitVec.ofNat n v)
  | 13 => each fun v => ctzN (BitVec.ofNat n v)
  | 14 => each fun v => popN (BitVec.ofNat n v)
  | _ => r.illegal
/-- Masks by the first set bit, viota.m and vid.v (VMUNARY0). -/
def Rv.vMaskOp (r : Rv) (s : State) (c : VCfg) : RvEff :=
  let set_ := r.vSet c
  let before (i : Nat) : Bool := set_.head?.all (i < ·)
  let first (i : Nat) : Bool := set_.head? = some i
  let bits (f : Nat → Bool) : RvEff :=
    if c.start ≠ 0 || (!r.vm && r.vd = 0) then r.illegal else r.vBits s c [maskGrp r.vs2] (fun i => (f i, 0)) true
  match r.vs1 with
  | 1 => bits before
  | 2 => bits first
  | 3 => bits fun i => before i || first i
  | 16 =>
    if c.start ≠ 0 then r.illegal
    else r.vElems s c (c.grp r.vd) [maskGrp r.vs2] (fun i => ((set_.filter (· < i)).length % 2 ^ c.sew, 0)) true
  | 17 => if r.vs2 ≠ 0 then r.illegal else r.vElems s c (c.grp r.vd) [] fun i => (i % 2 ^ c.sew, 0)
  | _ => r.illegal
/-- vcompress.vm: the elements that vs1's mask names, packed; what follows them is tail. -/
def Rv.vCompress (r : Rv) (s : State) (c : VCfg) : RvEff :=
  let picked := (List.range c.vl).filter (c.bit r.h r.vs1)
  let v2 := c.grp r.vs2
  let d := c.grp r.vd
  if !r.vm || c.start ≠ 0 || !r.vLegal d [v2, maskGrp r.vs1] true then r.illegal
  else if c.vl = 0 then r.vFinish s r.h 0
  else
    let h := (picked.zipIdx).foldl (fun h p => c.putElem h d p.2 (c.elem r.h v2 p.1)) r.h
    r.vFinish s (c.agnostic s.tick h d 0 picked.length fun _ => true) 0
/-- Logic of masks, by funct6. -/
def maskLogic (f6 : Nat) (a b : Bool) : Bool :=
  match f6 with
  | 0x18 => a && !b | 0x19 => a && b | 0x1A => a || b | 0x1B => a != b | 0x1C => a || !b | 0x1D => !(a && b) | 0x1E => !(a || b) | _ => a == b
/-- A single-width integer reduction by funct6. -/
def vecReduceOp (f6 n t e : Nat) : Nat :=
  match f6 with
  | 0 => (t + e) % 2 ^ n | 1 => t &&& e | 2 => t ||| e | 3 => t ^^^ e
  | 4 => min t e | 5 => if signOf n e < signOf n t then e else t
  | 6 => max t e | _ => if signOf n t < signOf n e then e else t
/-- OPMVV, OPMVX. -/
def Rv.vOpm (r : Rv) (s : State) (c : VCfg) : RvEff :=
  let n := c.sew
  let f := r.f6
  let vv := r.f3 = 2
  let v2 := c.grp r.vs2
  let d := c.grp r.vd
  let dw := c.wide r.vd
  let two := v2 :: r.vOther c
  let a (i : Nat) : Nat := c.elem r.h v2 i
  let x := r.a.toNat % 2 ^ n
  if f < 8 then (if vv then r.vReduce s c n fun t e => (vecReduceOp f n t e, 0) else r.illegal)
  else match f with
  | 0x0E => if vv then r.illegal else r.vElems s c d [v2] (fun i => (if i = 0 then x else a (i - 1), 0)) true
  | 0x0F => if vv then r.illegal else r.vElems s c d [v2] fun i => if i + 1 = c.vl then (x, 0) else r.vAt c (i + 1)
  | 0x10 => if vv then r.vScalar s c else if r.vm && r.vs2 = 0 then r.vFirst s c x else r.illegal
  | 0x12 => if vv then r.vUnary s c else r.illegal
  | 0x14 => if vv then r.vMaskOp s c else r.illegal
  | 0x17 => if vv then r.vCompress s c else r.illegal
  | 0x18 | 0x19 | 0x1A | 0x1B | 0x1C | 0x1D | 0x1E | 0x1F =>
    if !vv || !r.vm then r.illegal
    else r.vBits s c [maskGrp r.vs2, maskGrp r.vs1] fun i => (maskLogic f (c.bit r.h r.vs2 i) (c.bit r.h r.vs1 i), 0)
  | 0x34 | 0x35 | 0x36 | 0x37 =>
    let w := c.wide r.vs2
    r.vElems s c dw (w :: r.vOther c) fun i => resOf (vecWideOp f n (c.elem r.h w i) (r.vB c false i) 0)
  | _ =>
    if (vecMulOp f n 0 0 0 0).isSome then
      let mac := 0x29 ≤ f
      r.vElems s c d (if mac then d :: two else two) fun i => resOf (vecMulOp f n r.vxrm (a i) (r.vB c false i) (c.elem r.h d i))
    else if (vecWideOp f n 0 0 0).isSome && !(vv && f = 0x3E) then
      let mac := 0x3C ≤ f
      r.vElems s c dw (if mac then dw :: two else two) fun i => resOf (vecWideOp f n (a i) (r.vB c false i) (c.elem r.h dw i))
    else r.illegal

end Sys2Proof.Machine
end

