-- ==== Sys2Proof/Machine/VecFloat.lean ====
section
/-!
DEFINITION. Vector instructions of harts on floating-point elements (log 13, PRESUMED: the V extension 1.0 with Zvfhmin), over the
arithmetic of R46 to R61.
-/
namespace Sys2Proof.Machine

/-- The format of elements of n bits that arithmetic has. -/
def vecFmt (n : Nat) : Option FpFmt := match n with | 32 => some fmtF32 | 64 => some fmtF64 | _ => none
/-- A result and its flags as an element's. -/
def vecRes (v : Nat × BitVec 5) : Nat × BitVec 6 := (v.1, v.2.setWidth 6)
/-- Functions of one width by funct6: `a` is vs2's element, `b` the other operand, `d` the old destination. -/
def vecFpOp (f6 : Nat) (f : FpFmt) (m : RMode) (a b d : Nat) : Option (Nat × BitVec 5) :=
  let neg := fpNeg f
  match f6 with
  | 0x00 => some (fpAdd f m a b)
  | 0x02 => some (fpAdd f m a (neg b))
  | 0x27 => some (fpAdd f m b (neg a))
  | 0x04 => some (fpMinMax f false true a b)
  | 0x06 => some (fpMinMax f true true a b)
  | 0x08 => some (signJoin f 0 a b, 0)
  | 0x09 => some (signJoin f 1 a b, 0)
  | 0x0A => some (signJoin f 2 a b, 0)
  | 0x20 => some (fpDiv f m a b)
  | 0x21 => some (fpDiv f m b a)
  | 0x24 => some (fpMul f m a b)
  | 0x28 => some (fpFma f m a b d)
  | 0x29 => some (fpFma f m (neg a) (neg b) d)
  | 0x2A => some (fpFma f m (neg a) b d)
  | 0x2B => some (fpFma f m a (neg b) d)
  | 0x2C => some (fpFma f m d b a)
  | 0x2D => some (fpFma f m (neg d) (neg b) a)
  | 0x2E => some (fpFma f m (neg d) b a)
  | 0x2F => some (fpFma f m d (neg b) a)
  | _ => none
/-- Widening functions, on operands that are wide already. -/
def vecFpWide (f6 : Nat) (g : FpFmt) (m : RMode) (a b d : Nat) : Option (Nat × BitVec 5) :=
  match f6 with
  | 0x30 | 0x34 => some (fpAdd g m a b)
  | 0x32 | 0x36 => some (fpAdd g m a (fpNeg g b))
  | 0x38 => some (fpMul g m a b)
  | 0x3C => some (fpFma g m d b a)
  | 0x3D => some (fpFma g m (fpNeg g d) (fpNeg g b) a)
  | 0x3E => some (fpFma g m (fpNeg g d) b a)
  | 0x3F => some (fpFma g m d (fpNeg g b) a)
  | _ => none
/-- Comparisons: equal, less or equal, less, unequal, greater, greater or equal by funct6. -/
def vecFpCompare (f6 : Nat) (f : FpFmt) (a b : Nat) : Option (Bool × BitVec 5) :=
  let rel (k a b : Nat) : Option (Bool × BitVec 5) := let v := fpRel f k a b; some (v.1 = 1, v.2)
  match f6 with
  | 0x18 => rel 2 a b
  | 0x19 => rel 0 a b
  | 0x1B => rel 1 a b
  | 0x1C => (rel 2 a b).map fun v => (!v.1, v.2)
  | 0x1D => rel 1 b a
  | 0x1F => rel 0 b a
  | _ => none
/-- The nearest integers to 65536 / k and to the root of 2^23 / k: seven bits of a reciprocal and of a reciprocal root. -/
def recip7 (i : Nat) : Nat := (131072 / (257 + 2 * i) + 1) / 2 - 128
def rsqrt7 (i : Nat) : Nat := (isqrt (2 ^ 25 / ((if i < 64 then 2 else 1) * (129 + 2 * (i % 64)))) + 1) / 2 - 128
/-- The exponent field and the fraction of a finite number that is not 0, the exponent below 1 where it is subnormal. -/
def normParts (f : FpFmt) (a : Nat) : Int × Nat :=
  let e := f.mag a / 2 ^ f.mant
  let m := f.mag a % 2 ^ f.mant
  if e ≠ 0 then (e, m) else let z := f.mant - 1 - Nat.log2 m; (-(z : Int), m * 2 ^ (z + 1) % 2 ^ f.mant)
/-- VFRSQRT7: an estimate of 1 / sqrt a to seven bits. -/
def fpRsqrt7 (f : FpFmt) (a : Nat) : Nat × BitVec 5 :=
  let nan := f.nanEnc.getD 0
  if f.isNan a then (nan, snanFlag f [a])
  else if f.mag a = 0 then (f.signed (f.neg a) (f.infEnc.getD 0), 8)
  else if f.neg a then (nan, 16)
  else if f.isInf a then (0, 0)
  else
    let (e, m) := normParts f a
    let i := (e % 2).toNat * 64 + m / 2 ^ (f.mant - 6)
    (((3 * (f.bias : Int) - 1 - e) / 2).toNat * 2 ^ f.mant + rsqrt7 i * 2 ^ (f.mant - 7), 0)
/-- VFREC7: an estimate of 1 / a to seven bits. -/
def fpRec7 (f : FpFmt) (m : RMode) (a : Nat) : Nat × BitVec 5 :=
  let s := f.neg a
  if f.isNan a then (f.nanEnc.getD 0, snanFlag f [a])
  else if f.isInf a then (f.signed s 0, 0)
  else if f.mag a = 0 then (f.signed s (f.infEnc.getD 0), 8)
  else
    let (e, fr) := normParts f a
    if e < -1 then (overflowEnc f m false s, 5)
    else
      let out : Int := 2 * f.bias - 1 - e
      let sig := 2 ^ f.mant + recip7 (fr / 2 ^ (f.mant - 7)) * 2 ^ (f.mant - 7)
      (f.signed s (if 1 ≤ out then out.toNat * 2 ^ f.mant + sig % 2 ^ f.mant else sig / 2 ^ (1 - out).toNat), 0)
/-- A conversion to a narrower format, rounded to odd. -/
def fpToOdd (g f : FpFmt) (a : Nat) : Nat × BitVec 5 :=
  let (v, fl) := fpToFp g f .rtz false a
  (if fl.getLsbD 0 then v ||| 1 else v, fl)
/-- Conversions (VFUNARY0), by vs1: between an integer and a number of the same width (0 to 7), to twice the width (8 to 15) and to half
of it (16 to 23). Half precision converts to and from single precision only. -/
def Rv.vConvert (r : Rv) (s : State) (c : VCfg) (m : RMode) : RvEff :=
  let k := r.vs1 % 8
  let n := c.sew
  let (src, dst) : VGrp × VGrp := match r.vs1 / 8 with
    | 0 => (c.grp r.vs2, c.grp r.vd)
    | 1 => (c.grp r.vs2, c.wide r.vd)
    | _ => (c.wide r.vs2, c.grp r.vd)
  let each (g : Nat → Nat × BitVec 5) : RvEff := r.vElems s c dst [src] fun i => vecRes (g (c.elem r.h src i))
  let toInt (m : RMode) : RvEff := match vecFmt src.eew with
    | some f => each (fpToX f m dst.eew (k % 2 = 1))
    | none => r.illegal
  let halves (w : Nat) : Option FpFmt := if w = 16 then some fmtF16 else vecFmt w
  if 24 ≤ r.vs1 then r.illegal
  else match k with
  | 0 | 1 => toInt m
  | 6 | 7 => toInt .rtz
  | 2 | 3 => (match vecFmt dst.eew with
    | some f => each fun v => xToFp f m (if k = 3 then signOf src.eew v else v)
    | none => r.illegal)
  | 4 => (match halves src.eew, halves dst.eew with
    | some g, some f => if r.vs1 < 8 then r.illegal else each (fpToFp g f m false)
    | _, _ => r.illegal)
  | _ => if r.vs1 = 21 && n = 32 then each (fpToOdd fmtF64 fmtF32) else r.illegal
/-- Roots, estimates and classes (VFUNARY1). -/
def Rv.vFpUnary (r : Rv) (s : State) (c : VCfg) (f : FpFmt) (m : RMode) : RvEff :=
  let v2 := c.grp r.vs2
  let each (g : Nat → Nat × BitVec 5) : RvEff := r.vElems s c (c.grp r.vd) [v2] fun i => vecRes (g (c.elem r.h v2 i))
  match r.vs1 with
  | 0 => each (fpSqrt f m)
  | 4 => each (fpRsqrt7 f)
  | 5 => each (fpRec7 f m)
  | 16 => each fun v => (fpKind f v, 0)
  | _ => r.illegal
/-- OPFVV and OPFVF, in the mode of frm. -/
def Rv.vOpf (r : Rv) (s : State) (c : VCfg) : RvEff :=
  let n := c.sew
  let f6 := r.f6
  let vv := r.f3 = 1
  match rvMode r.h 7 with
  | none => r.illegal
  | some m =>
    if !r.h.fpOn then r.illegal
    else if f6 = 0x12 then (if vv then r.vConvert s c m else r.illegal)
    else match vecFmt n with
    | none => r.illegal
    | some f =>
      let v2 := c.grp r.vs2
      let d := c.grp r.vd
      let dw := c.wide r.vd
      let two := v2 :: r.vOther c
      let a (i : Nat) : Nat := c.elem r.h v2 i
      let x := fpOperand f (r.h.fAt r.rs1)
      let b (i : Nat) : Nat := if vv then c.elem r.h (c.grp r.vs1) i else x
      let sum (f : FpFmt) (t e : Nat) : Nat × BitVec 6 := vecRes (fpAdd f m t e)
      let up (g : FpFmt) (v : Nat) : Nat × BitVec 5 := fpToFp f g m false v
      match f6 with
      | 0x01 | 0x03 => if vv then r.vReduce s c n (sum f) else r.illegal
      | 0x05 | 0x07 => if vv then r.vReduce s c n fun t e => vecRes (fpMinMax f (f6 = 0x07) true t e) else r.illegal
      | 0x0E => if vv then r.illegal else r.vElems s c d [v2] (fun i => (if i = 0 then x else a (i - 1), 0)) true
      | 0x0F => if vv then r.illegal else r.vElems s c d [v2] fun i => if i + 1 = c.vl then (x, 0) else r.vAt c (i + 1)
      | 0x10 =>
        if !r.vm then r.illegal
        else if vv then (if r.vs1 = 0 then r.vFinish s (r.h.putF r.rd (boxed n (BitVec.ofNat 64 (a 0)))) 0 else r.illegal)
        else if r.vs2 = 0 then r.vFirst s c x else r.illegal
      | 0x13 => if vv then r.vFpUnary s c f m else r.illegal
      | 0x17 =>
        if vv then r.illegal
        else if r.vm then (if r.vs2 ≠ 0 then r.illegal else r.vElems s c d [] fun _ => (x, 0))
        else r.vElems s c d [v2] (fun i => (if c.bit r.h 0 i then x else a i, 0)) (on := fun _ => true)
      | 0x18 | 0x19 | 0x1B | 0x1C | 0x1D | 0x1F =>
        if vv && (f6 = 0x1D || f6 = 0x1F) then r.illegal
        else r.vBits s c two fun i => let v := (vecFpCompare f6 f (a i) (b i)).getD (false, 0); (v.1, v.2.setWidth 6)
      | 0x31 | 0x33 =>
        (match vecFmt (2 * n) with
        | none => r.illegal
        | some g =>
          if !vv then r.illegal
          else r.vReduce s c (2 * n) fun t e => let w := up g e; let v := sum g t w.1; (v.1, v.2 ||| w.2.setWidth 6))
      | _ =>
        if (vecFpOp f6 f m 0 0 0).isSome then
          if vv && (f6 = 0x21 || f6 = 0x27) then r.illegal
          else r.vElems s c d (if 0x28 ≤ f6 then d :: two else two) fun i => vecRes ((vecFpOp f6 f m (a i) (b i) (c.elem r.h d i)).getD (0, 0))
        else match vecFmt (2 * n) with
        | none => r.illegal
        | some g =>
          if (vecFpWide f6 g m 0 0 0).isNone then r.illegal
          else
            let already := 0x34 ≤ f6 && f6 ≤ 0x37
            let v2 := if already then c.wide r.vs2 else v2
            let srcs := v2 :: r.vOther c
            r.vElems s c dw (if 0x3C ≤ f6 then dw :: srcs else srcs) fun i =>
              let e := c.elem r.h v2 i
              let p := if already then (e, 0) else up g e
              let q := up g (b i)
              let v := (vecFpWide f6 g m p.1 q.1 (c.elem r.h dw i)).getD (0, 0)
              vecRes (v.1, v.2 ||| p.2 ||| q.2)

end Sys2Proof.Machine
end

