-- ==== Sys2Proof/Machine/RvVector.lean ====
section
/-!
DEFINITION. Vector instructions of harts (log 13, PRESUMED: the V extension 1.0): vsetvl, loads and stores, and the opcode OP-V. A vtype
that is not supported sets VILL; vl is the smaller of AVL and VLMAX.
-/
namespace Sys2Proof.Machine

/-- vsetvli, vsetivli and vsetvl. With rs1 and rd x0 vl is kept, which needs the same VLMAX. -/
def Rv.vSetVl (r : Rv) (s : State) (bytes : Nat) : RvEff :=
  let set_ (vt : DWord) (avl : Option Nat) : RvEff :=
    let max := groupLen bytes (8 * 2 ^ field vt 3 3) (lmulLog (field vt 0 3))
    let (ill, vl) : Bool × Nat := match avl with
      | some n => (!vtypeOk vt, min n max)
      | none => (match vcfgOf r.h bytes with
        | some c => (!vtypeOk vt || c.max ≠ max, c.vl)
        | none => (true, 0))
    let vl : DWord := BitVec.ofNat 64 (if ill then 0 else vl)
    let h := ((r.h.putCsr 0xC20 vl).putCsr 0xC21 (if ill then 0x8000000000000000 else vt)).putX r.rd vl
    .next s { (h.putCsr 0x008 0).vecDirty with pc := r.link }
  let avl : Option Nat := if r.rs1 ≠ 0 then some r.a.toNat else if r.rd ≠ 0 then some (2 ^ 64 - 1) else none
  if !r.w.getLsbD 31 then set_ (BitVec.ofNat 64 (field r.w 20 11)) avl
  else if r.w.getLsbD 30 then set_ (BitVec.ofNat 64 (field r.w 20 10)) (some r.vs1)
  else if r.f7 = 0x40 then set_ r.b avl
  else r.illegal

/-- What a vector load or store accesses: its data group, the groups of its fields, the elements, which of them are active, where an
element's field lies, and whether a fault past element 0 only shortens vl. -/
structure VAccess where
  d : VGrp
  fields : Nat
  count : Nat
  on : Nat → Bool
  place : Nat → Nat → DWord
  soft : Bool := false
/-- The group of a field. -/
def VAccess.grp (x : VAccess) (f : Nat) : VGrp := { x.d with r := x.d.r + f * x.d.span }
/-- One field of one element is loaded or stored. -/
def Rv.vField (r : Rv) (c : VCfg) (x : VAccess) (store : Bool) (i f : Nat) (p : State × Hart) : Except (HartMiss × DWord) (State × Hart) :=
  let n := x.d.eew / 8
  let va := x.place i f
  if store then
    (hartSpots p.1 r.h.dataMode .store va n).map fun pas =>
      (p.1.hartPut r.n pas (toBytes (BitVec.ofNat 64 (c.elem r.h (x.grp f) i)) n), p.2)
  else (hartBytes p.1 r.h.dataMode .load va n).map fun v => (v.1, c.putElem p.2 (x.grp f) i v.2.toNat)
/-- The elements in their order, up to the first that faults or waits. -/
def Rv.vRun (r : Rv) (c : VCfg) (x : VAccess) (store : Bool) : List Nat → State × Hart → (State × Hart) × Option (Nat × HartMiss × DWord)
  | [], p => (p, none)
  | i :: is, p =>
    match (List.range x.fields).foldlM (fun p f => r.vField c x store i f p) p with
    | .error (m, a) => (p, some (i, m, a))
    | .ok p => r.vRun c x store is p
/-- A vector load or store: a fault leaves vstart at its element, with the elements before it done. -/
def Rv.vMove (r : Rv) (s : State) (c : VCfg) (x : VAccess) (store : Bool) : RvEff :=
  let todo := (List.range x.count).filter fun i => c.start ≤ i && x.on i
  let rest (t : State) (h : Hart) (n : Nat) : Hart :=
    if store || n ≤ c.start then h
    else (List.range x.fields).foldl (fun h f => c.agnostic (t.tick + f) h (x.grp f) c.start n x.on) h
  match r.vRun c x store todo (s, r.h) with
  | ((t, h), none) => r.vFinish { t with tick := t.tick + x.fields } (rest t h x.count) 0
  | (_, some (_, .held, _)) => .wait
  | ((t, h), some (i, .fault e g, a)) =>
    if x.soft && 0 < i then r.vFinish { t with tick := t.tick + x.fields } ((rest t h i).putCsr 0xC20 (BitVec.ofNat 64 i)) 0
    else .next t ((h.putCsr 0x008 (BitVec.ofNat 64 i)).vecDirty.trap e a g)
/-- Loads and stores: of whole registers and masks, by unit stride, by a stride, by indices, in segments. -/
def Rv.vectorMem (r : Rv) (s : State) (store : Bool) : RvEff :=
  let bytes := vlenb
  let eew := if r.f3 = 0 then 8 else 8 * 2 ^ (r.f3 - 4)
  let mop := field r.w 26 2
  let fields := field r.w 29 3 + 1
  let at_ (k : Nat) : DWord := r.a + BitVec.ofNat 64 k
  let whole := mop = 0 && r.vs2 = 8
  let bare : VCfg := ⟨bytes, 8, 0, 0, (r.h.csrAt 0x008).toNat, false, false⟩
  if !r.h.vecOn || r.w.getLsbD 28 then r.illegal
  else if whole then
    let g : VGrp := ⟨r.vd, Nat.log2 fields, eew⟩
    if !r.vm || !([1, 2, 4, 8].contains fields) || !g.ok || (store && r.f3 ≠ 0) then r.illegal
    else r.vMove s bare { d := g, fields := 1, count := fields * bytes * 8 / eew, on := fun _ => true, place := fun i _ => at_ (i * (eew / 8)) } store
  else match vcfgOf r.h bytes with
  | none => r.illegal
  | some c =>
    if mop = 0 && r.vs2 = 11 then
      if !r.vm || fields ≠ 1 || r.f3 ≠ 0 then r.illegal
      else r.vMove s { c with ta := true }
        { d := ⟨r.vd, 0, 8⟩, fields := 1, count := (c.vl + 7) / 8, on := fun _ => true, place := fun i _ => at_ i } store
    else
      let indexed := mop % 2 = 1
      let lm : Int := c.lm + Nat.log2 eew - Nat.log2 c.sew
      let d : VGrp := if indexed then c.grp r.vd else ⟨r.vd, lm, eew⟩
      let idx : VGrp := ⟨r.vs2, lm, eew⟩
      let n := d.eew / 8
      let step := if mop = 0 then BitVec.ofNat 64 (fields * n) else r.b
      let x : VAccess :=
        { d := d, fields := fields, count := c.vl, on := r.on c
          place := fun i f => at_ (f * n) + (if indexed then BitVec.ofNat 64 (c.elem r.h idx i) else step * BitVec.ofNat 64 i)
          soft := mop = 0 && r.vs2 = 16 }
      let groups := (List.range fields).map x.grp
      let fits := d.ok && fields * d.span ≤ 8 && r.vd + fields * d.span ≤ 32 && (mop ≠ 0 || r.vs2 = 0 || (r.vs2 = 16 && !store))
      let apart :=
        if store then oneWidth (groups ++ r.vMask ++ (if indexed then [idx] else []))
        else (r.vm || r.vd ≠ 0) && oneWidth (r.vMask ++ (if indexed then [idx] else [])) &&
          (!indexed || (if fields = 1 then d.over idx else groups.all fun g => !g.meets idx))
      if !fits || !apart || (indexed && !idx.ok) then r.illegal
      else r.vMove s c x store
/-- The opcode OP-V. -/
def Rv.vector (r : Rv) (s : State) : RvEff :=
  if !r.h.vecOn then r.illegal
  else if r.f3 = 7 then r.vSetVl s vlenb
  else match vcfgOf r.h vlenb with
  | none => r.illegal
  | some c => match r.f3 with
    | 0 | 3 | 4 => r.vOpi s c
    | 2 | 6 => r.vOpm s c
    | _ => r.vOpf s c

end Sys2Proof.Machine
end

