-- ==== Sys2Proof/Machine/Riscv.lean ====
section
/-!
DEFINITION. The RISC-V instructions of harts (R9: RVA23 with the hypervisor extension; log 13, PRESUMED): integers, multiplication,
atomics, bit manipulation, floating point, vectors, CSRs, cache blocks, traps and returns. Harts are sequentially consistent, which RVWMO allows
(R189, R190; log 98, DESIGN CHOICE): a fence has nothing left to order.
-/
namespace Sys2Proof.Machine

/-- A 32-bit result, sign-extended. -/
def sx32 (v : Word) : DWord := v.signExtend 64
/-- OR-combine of each byte, and byte reversal. -/
def orcB (a : DWord) : DWord := ofBytes 64 ((toBytes a 8).map fun b => if b = 0 then 0 else 0xFF)
def rev8 (a : DWord) : DWord := ofBytes 64 (toBytes a 8).reverse
/-- Register-register operations, by funct7 and funct3 (I, M, Zba, Zbb, Zbs, Zicond). -/
def aluOp (f7 f3 : Nat) (a b : DWord) : Option DWord :=
  let n := b.toNat % 64
  let flag (p : Bool) : DWord := if p then 1 else 0
  match f7, f3 with
  | 0x00, 0 => some (a + b)
  | 0x20, 0 => some (a - b)
  | 0x00, 1 => some (a <<< n)
  | 0x00, 2 => some (flag (a.slt b))
  | 0x00, 3 => some (flag (a.ult b))
  | 0x00, 4 => some (a ^^^ b)
  | 0x00, 5 => some (a >>> n)
  | 0x20, 5 => some (a.sshiftRight n)
  | 0x00, 6 => some (a ||| b)
  | 0x00, 7 => some (a &&& b)
  | 0x01, 0 => some (a * b)
  | 0x01, 1 => some (mulHigh a.toInt b.toInt)
  | 0x01, 2 => some (mulHigh a.toInt b.toNat)
  | 0x01, 3 => some (mulHigh a.toNat b.toNat)
  | 0x01, 4 => some (divS a b)
  | 0x01, 5 => some (divU a b)
  | 0x01, 6 => some (remS a b)
  | 0x01, 7 => some (remU a b)
  | 0x10, 2 => some (b + a <<< 1)
  | 0x10, 4 => some (b + a <<< 2)
  | 0x10, 6 => some (b + a <<< 3)
  | 0x20, 7 => some (a &&& ~~~b)
  | 0x20, 6 => some (a ||| ~~~b)
  | 0x20, 4 => some (~~~(a ^^^ b))
  | 0x05, 4 => some (if a.slt b then a else b)
  | 0x05, 5 => some (if a.ult b then a else b)
  | 0x05, 6 => some (if a.slt b then b else a)
  | 0x05, 7 => some (if a.ult b then b else a)
  | 0x30, 1 => some (a.rotateLeft n)
  | 0x30, 5 => some (a.rotateRight n)
  | 0x24, 1 => some (a &&& ~~~(1#64 <<< n))
  | 0x24, 5 => some (flag (a.getLsbD n))
  | 0x34, 1 => some (a ^^^ (1#64 <<< n))
  | 0x14, 1 => some (a ||| (1#64 <<< n))
  | 0x07, 5 => some (if b = 0 then 0 else a)
  | 0x07, 7 => some (if b = 0 then a else 0)
  | _, _ => none
/-- Register-register operations on words. -/
def aluOpW (f7 f3 rs2 : Nat) (x y : DWord) : Option DWord :=
  let a : Word := x.setWidth 32
  let b : Word := y.setWidth 32
  let n := y.toNat % 32
  let u : DWord := a.setWidth 64
  match f7, f3 with
  | 0x00, 0 => some (sx32 (a + b))
  | 0x20, 0 => some (sx32 (a - b))
  | 0x00, 1 => some (sx32 (a <<< n))
  | 0x00, 5 => some (sx32 (a >>> n))
  | 0x20, 5 => some (sx32 (a.sshiftRight n))
  | 0x01, 0 => some (sx32 (a * b))
  | 0x01, 4 => some (sx32 (divS a b))
  | 0x01, 5 => some (sx32 (divU a b))
  | 0x01, 6 => some (sx32 (remS a b))
  | 0x01, 7 => some (sx32 (remU a b))
  | 0x04, 0 => some (y + u)
  | 0x10, 2 => some (y + u <<< 1)
  | 0x10, 4 => some (y + u <<< 2)
  | 0x10, 6 => some (y + u <<< 3)
  | 0x04, 4 => if rs2 = 0 then some (x &&& 0xFFFF) else none
  | 0x30, 1 => some (sx32 (a.rotateLeft n))
  | 0x30, 5 => some (sx32 (a.rotateRight n))
  | _, _ => none
/-- Operations with an immediate, by funct3; shifts and single-operand forms have their function in the immediate. -/
def aluImm (f3 imm : Nat) (a i : DWord) : Option DWord :=
  let n := imm % 64
  let flag (p : Bool) : DWord := if p then 1 else 0
  match f3 with
  | 0 => some (a + i)
  | 2 => some (flag (a.slt i))
  | 3 => some (flag (a.ult i))
  | 4 => some (a ^^^ i)
  | 6 => some (a ||| i)
  | 7 => some (a &&& i)
  | 1 => match imm with
    | 0x600 => some (BitVec.ofNat 64 (clzN a))
    | 0x601 => some (BitVec.ofNat 64 (ctzN a))
    | 0x602 => some (BitVec.ofNat 64 (popN a))
    | 0x604 => some ((a.setWidth 8).signExtend 64)
    | 0x605 => some ((a.setWidth 16).signExtend 64)
    | _ => match imm / 64 with
      | 0x00 => some (a <<< n)
      | 0x12 => some (a &&& ~~~(1#64 <<< n))
      | 0x1A => some (a ^^^ (1#64 <<< n))
      | 0x0A => some (a ||| (1#64 <<< n))
      | _ => none
  | _ =>
    if imm = 0x287 then some (orcB a)
    else if imm = 0x6B8 then some (rev8 a)
    else match imm / 64 with
      | 0x00 => some (a >>> n)
      | 0x10 => some (a.sshiftRight n)
      | 0x18 => some (a.rotateRight n)
      | 0x12 => some (flag (a.getLsbD n))
      | _ => none
/-- Operations on words with an immediate. -/
def aluImmW (f3 imm : Nat) (x i : DWord) : Option DWord :=
  let a : Word := x.setWidth 32
  let n := imm % 32
  match f3 with
  | 0 => some (sx32 (a + i.setWidth 32))
  | 1 =>
    if imm / 64 = 0x02 then some ((a.setWidth 64) <<< (imm % 64))
    else match imm with
      | 0x600 => some (BitVec.ofNat 64 (clzN a))
      | 0x601 => some (BitVec.ofNat 64 (ctzN a))
      | 0x602 => some (BitVec.ofNat 64 (popN a))
      | _ => if imm / 32 = 0 then some (sx32 (a <<< n)) else none
  | 5 => match imm / 32 with
    | 0x00 => some (sx32 (a >>> n))
    | 0x20 => some (sx32 (a.sshiftRight n))
    | 0x30 => some (sx32 (a.rotateRight n))
    | _ => none
  | _ => none
/-- A branch's condition. -/
def branchTaken (f3 : Nat) (a b : DWord) : Option Bool :=
  match f3 with
  | 0 => some (a = b) | 1 => some (a ≠ b) | 4 => some (a.slt b) | 5 => some (!a.slt b) | 6 => some (a.ult b) | 7 => some (!a.ult b) | _ => none

/-- A store of the low n bytes of a value. -/
def Rv.store (r : Rv) (s : State) (h : Hart) (va : DWord) (n : Nat) (v : DWord) : RvEff :=
  hartPlaces s h .store va n fun pas => r.over (s.hartPut r.n pas (toBytes v n))

/-- What a load gives its register, by funct3. -/
def loadValue (f3 : Nat) (v : DWord) : DWord :=
  match f3 with
  | 0 => (v.setWidth 8).signExtend 64 | 1 => (v.setWidth 16).signExtend 64 | 2 => sx32 (v.setWidth 32)
  | 4 => v &&& 0xFF | 5 => v &&& 0xFFFF | 6 => v &&& 0xFFFFFFFF | _ => v
/-- LOAD and STORE. -/
def Rv.loads (r : Rv) (s : State) : RvEff :=
  if r.f3 = 7 then r.illegal
  else hartRead s r.h.dataMode .load (r.a + r.immI) (2 ^ (r.f3 % 4)) fun s v => r.give s (loadValue r.f3 v)
def Rv.stores (r : Rv) (s : State) : RvEff :=
  if r.f3 > 3 then r.illegal else r.store s r.h.dataMode (r.a + r.immS) (2 ^ r.f3) r.b

/-- What an AMO writes: the function by funct5, on n bits. -/
def amoNew {n : Nat} (f : Nat) (old b : BitVec n) : Option (BitVec n) :=
  match f with
  | 0x00 => some (old + b) | 0x01 => some b | 0x04 => some (old ^^^ b) | 0x08 => some (old ||| b) | 0x0C => some (old &&& b)
  | 0x10 => some (if b.slt old then b else old) | 0x14 => some (if old.slt b then b else old)
  | 0x18 => some (if b.ult old then b else old) | 0x1C => some (if old.ult b then b else old)
  | _ => none
/-- The 64 bytes that a reservation covers. -/
def State.resvBytes (s : State) (pa : Nat) : List Byte := s.bytesAt (pa / 64 * 64) 64
/-- LR, SC and the AMOs, on aligned words and doublewords of memory; elsewhere they are access faults. An SC succeeds while the
bytes that LR reserved stand as they stood (log 98, DESIGN CHOICE). -/
def Rv.amo (r : Rv) (s : State) : RvEff :=
  let n := 2 ^ r.f3
  let f := field r.w 27 5
  let h := r.h.dataMode
  let va := r.a
  let wide (v : DWord) : DWord := if n = 4 then sx32 (v.setWidth 32) else v
  if (r.f3 ≠ 2 && r.f3 ≠ 3) || (f = 2 && r.rs2 ≠ 0) then r.illegal
  else if va.toNat % n ≠ 0 then .trap (if f = 2 then 4 else 6) va
  else if f = 2 then
    match s.hartLoadAs h .load va n with
    | .held => .wait
    | .fault c a g => .trap c a g
    | .bytes bs pa =>
      if classOf pa ≠ .cacheable then .trap 5 va
      else .next s { r.h.putX r.rd (wide (ofBytes 64 bs)) with pc := r.link, resv := some (pa, n, s.resvBytes pa) }
  else hartPlaces s h .store va n fun pas =>
    let pa := pas.headD 0
    if classOf pa ≠ .cacheable then .trap 7 va
    else if f = 3 then
      let good := r.h.resv = some (pa, n, s.resvBytes pa)
      .next (if good then s.hartPut r.n pas (toBytes r.b n) else s)
        { r.h.putX r.rd (if good then 0 else 1) with pc := r.link, resv := none }
    else if s.poisoned pa then .trap 7 va
    else
      let old : DWord := ofBytes 64 (s.bytesAt pa n)
      let new : Option DWord := if n = 4 then (amoNew f (old.setWidth 32 : Word) (r.b.setWidth 32)).map (·.setWidth 64) else amoNew f old r.b
      match new with
      | some v => r.give (s.hartPut r.n pas (toBytes v n)) (wide old)
      | none => r.illegal

/-- Cache-block operations on the 128-byte block of an address (R201): CBO.INVAL, CBO.CLEAN, CBO.FLUSH and CBO.ZERO, which clears
poison; the environment registers may deny them, or make CBO.INVAL a flush. A block that can be loaded from can be managed. -/
def Rv.cbo (r : Rv) (s : State) : RvEff :=
  let f := field r.w 20 12
  let va : DWord := r.a &&& ~~~127
  let bit := if f = 4 then 7 else 6
  let on (n : Nat) : Bool := if f = 0 then field (r.h.csrAt n) 4 2 ≠ 0 else r.h.csrBit n bit
  let user := r.h.mode = .u || r.h.mode = .vu
  let flush (n : Nat) : Bool := field (r.h.csrAt n) 4 2 = 1
  let soft := r.h.mode ≠ .m && (flush 0x30A || (user && flush 0x10A) || (r.h.virt && flush 0x60A))
  if r.rd ≠ 0 || !([0, 1, 2, 4].contains f) then r.illegal
  else if (r.h.mode ≠ .m && !on 0x30A) || (r.h.mode = .u && !on 0x10A) then r.illegal
  else if r.h.virt && (!on 0x60A || (user && !on 0x10A)) then .trap 22 (r.raw.setWidth 64)
  else
    let acc : HartAcc := if f ≠ 4 && (s.hartPas r.h.dataMode .load va 128).toOption.isSome then .load else .store
    hartPlaces s r.h.dataMode acc va 128 fun pas =>
    let pa := pas.headD 0
    if f = 4 then
      if classOf pa ≠ .cacheable then .trap 7 r.a
      else if s.gate pa = .dead then r.over s
      else r.over ((s.hartPut r.n pas (List.replicate 128 0)).unpoison (pa / 128))
    else if classOf pa ≠ .cacheable then r.over s
    else r.over (match f with
      | 0 => if soft then s.flushLine (pa / 128) else s.dropLine (pa / 128)
      | 1 => s.cleanLine (pa / 128)
      | _ => s.flushLine (pa / 128))

/-- The CSR instructions. A read-modify-write of mip takes the software bit of SEIP, not the file's. -/
def Rv.csr (r : Rv) (s : State) : RvEff :=
  let num := field r.w 20 12
  let src : DWord := if r.f3 ≥ 4 then r.rs1.setWidth 64 else r.a
  let f := r.f3 % 4
  let write := f = 1 || r.rs1 ≠ 0
  let own := guestCsr r.h num
  match csrDeny r.h num write with
  | some c => .trap c (r.raw.setWidth 64)
  | none => match csrRead s r.n r.h own with
    | none => r.illegal
    | some old =>
      let base := if own = 0x344 then putField old 9 1 (r.h.csrBit 0x344 9).toNat else old
      let v := if f = 1 then src else if f = 2 then base ||| src else base &&& ~~~src
      let t := { s with tick := s.tick + 1 }
      let (t, h) := if write then csrWrite t r.n r.h own v else (t, r.h)
      .next t { h.putX r.rd old with pc := r.link }

/-- MRET. -/
def Hart.mret (h : Hart) : Hart :=
  let mode := modeNamed h.mpp.toNat h.mpv
  let h := if h.mpp = 3 then h else h.maskCsr 0x300 0x20000 0
  { h with mode := mode, mie := h.mpie, mpie := true, mpp := 0, mpv := false, pc := h.mepc }
/-- SRET in M-mode and HS-mode. -/
def Hart.sret (h : Hart) : Hart :=
  let st := h.csrAt 0x300
  let st' := putField (putField (putField (putField st 1 1 (st.getLsbD 5).toNat) 5 1 1) 8 1 0) 17 1 0
  { (h.putCsr 0x300 st').maskCsr 0x600 0x80 0 with mode := modeNamed (st.getLsbD 8).toNat (h.csrBit 0x600 7), pc := h.csrAt 0x141 }
/-- SRET of a guest. -/
def Hart.vsret (h : Hart) : Hart :=
  let st := h.csrAt 0x200
  let st' := putField (putField (putField st 1 1 (st.getLsbD 5).toNat) 5 1 1) 8 1 0
  { h.putCsr 0x200 st' with mode := if st.getLsbD 8 then .vs else .vu, pc := h.csrAt 0x241 }
/-- An instruction that HS-mode and M-mode may execute, a guest not; a bit of mstatus takes it from HS-mode, a bit of hstatus from a
guest's supervisor. -/
def Rv.supervisor (r : Rv) (mbit : Option Nat) (hbit : Option Nat) (ok : RvEff) : RvEff :=
  let virtual_ : RvEff := .trap 22 (r.raw.setWidth 64)
  match r.h.mode with
  | .m => ok
  | .hs => if mbit.any (r.h.csrBit 0x300) then r.illegal else ok
  | .u => r.illegal
  | .vs => (match hbit with
    | some b => if r.h.csrBit 0x600 b then virtual_ else ok
    | none => virtual_)
  | .vu => virtual_
/-- WFI: the hart waits until an interrupt is pending and enabled for it; TW and VTW take it from the modes below. -/
def Rv.wfi (r : Rv) (s : State) : RvEff :=
  let go : RvEff := if s.hartIrq r.n then r.over s else .wait
  if r.h.mode ≠ .m && r.h.csrBit 0x300 21 then r.illegal else r.supervisor none (some 21) go
/-- Hypervisor loads and stores: in the guest's mode that SPVP names, for M-mode, HS-mode, and U-mode where HU allows it, there without
pointer masking. -/
def Rv.guestAccess (r : Rv) (s : State) : RvEff :=
  let k := r.f7 - 0x30
  let n := 2 ^ (k / 2)
  let x := field r.w 20 5
  let h := { r.h with mode := if r.h.csrBit 0x600 8 then HartMode.vs else .vu }
  let h := if r.h.mode = .u then (h.maskCsr 0x10A 0x200000000 0).maskCsr 0x60A 0x200000000 0 else h
  if r.h.virt then .trap 22 (r.raw.setWidth 64)
  else if r.h.mode = .u && !r.h.csrBit 0x600 9 then r.illegal
  else if k % 2 = 1 then (if r.rd ≠ 0 then r.illegal else r.store s h r.a n r.b)
  else
    let f3 := match k / 2, x with
      | 3, 0 => some 3 | j, 0 => some j | j, 1 => if j = 3 then none else some (j + 4) | j, 3 => if j = 1 || j = 2 then some (j + 4) else none
      | _, _ => none
    match f3 with
    | none => r.illegal
    | some f => hartRead s h (if x = 3 then .loadX else .load) r.a n fun s v => r.give s (loadValue f v)
/-- SYSTEM words that are no CSR instruction: ECALL, EBREAK, returns, waits, and fences of translations, which harts do not keep
(log 98, DESIGN CHOICE). -/
def Rv.system (r : Rv) (s : State) : RvEff :=
  let done := r.over s
  match field r.w 20 12, r.rs1 = 0 && r.rd = 0 with
  | 0x000, true => .trap (match r.h.mode with | .u | .vu => 8 | .hs => 9 | .vs => 10 | .m => 11) 0
  | 0x001, true => .trap 3 0
  | 0x302, true => if r.h.mode = .m then .next s r.h.mret else r.illegal
  | 0x102, true => r.supervisor (some 22) (some 22) (.next s (if r.h.virt then r.h.vsret else r.h.sret))
  | 0x105, true => r.wfi s
  | 0x00D, true | 0x01D, true => done
  | 0x180, true | 0x181, true => r.supervisor none (some 64) done
  | _, _ =>
    if r.rd ≠ 0 then r.illegal
    else match r.f7 with
    | 0x09 | 0x0B => r.supervisor (some 20) (some 20) done
    | 0x11 | 0x13 => r.supervisor none none done
    | 0x31 | 0x33 => r.supervisor (some 20) none done
    | _ => r.illegal
/-- May-be operations (Zimop) write 0. -/
def isMop (w : BitVec 32) : Bool := w &&& 0xB3C0707F = 0x81C04073 || w &&& 0xB200707F = 0x82004073
/-- Floating-point words. -/
def Rv.float (r : Rv) (s : State) : RvEff :=
  if !r.h.fpOn then r.illegal
  else match fpExec r.h r.w with
  | .value toX v flags =>
    let h := if flags = 0 then r.h else (r.h.putCsr 0x003 (r.h.csrAt 0x003 ||| flags.setWidth 64)).fpDirty
    .next s { (if toX then h.putX r.rd v else h.putF r.rd v) with pc := r.link }
  | .illegal => r.illegal
/-- Floating-point loads and stores; other widths of their opcodes are the vector unit's. -/
def Rv.floatMem (r : Rv) (s : State) (store : Bool) : RvEff :=
  let n := 2 ^ r.f3
  if 1 ≤ r.f3 && r.f3 ≤ 3 then
    if !r.h.fpOn then r.illegal
    else if store then r.store s r.h.dataMode (r.a + r.immS) n (r.h.fAt r.rs2)
    else hartRead s r.h.dataMode .load (r.a + r.immI) n fun s v =>
      .next s { r.h.putF r.rd (boxed (8 * n) v) with pc := r.link }
  else if [0, 5, 6, 7].contains r.f3 then r.vectorMem s store
  else r.illegal
/-- One instruction of a hart. -/
def Rv.run (r : Rv) (s : State) : RvEff :=
  match field r.w 0 7 with
  | 0x37 => r.give s (((r.w.extractLsb' 12 20) ++ (0 : BitVec 12)).signExtend 64)
  | 0x17 => r.give s (r.h.pc + ((r.w.extractLsb' 12 20) ++ (0 : BitVec 12)).signExtend 64)
  | 0x6F =>
    let ofs : BitVec 21 := r.w.extractLsb' 31 1 ++ r.w.extractLsb' 12 8 ++ r.w.extractLsb' 20 1 ++ r.w.extractLsb' 21 10 ++ (0 : BitVec 1)
    .next s { r.h.putX r.rd r.link with pc := r.h.pc + ofs.signExtend 64 }
  | 0x67 => if r.f3 = 0 then .next s { r.h.putX r.rd r.link with pc := (r.a + r.immI) &&& ~~~1 } else r.illegal
  | 0x63 =>
    let ofs : BitVec 13 := r.w.extractLsb' 31 1 ++ r.w.extractLsb' 7 1 ++ r.w.extractLsb' 25 6 ++ r.w.extractLsb' 8 4 ++ (0 : BitVec 1)
    match branchTaken r.f3 r.a r.b with
    | some true => .next s { r.h with pc := r.h.pc + ofs.signExtend 64 }
    | some false => r.over s
    | none => r.illegal
  | 0x03 => r.loads s
  | 0x23 => r.stores s
  | 0x13 => r.value s (aluImm r.f3 (field r.w 20 12) r.a r.immI)
  | 0x1B => r.value s (aluImmW r.f3 (field r.w 20 12) r.a r.immI)
  | 0x33 => r.value s (aluOp r.f7 r.f3 r.a r.b)
  | 0x3B => r.value s (aluOpW r.f7 r.f3 (field r.w 20 5) r.a r.b)
  | 0x0F => (match r.f3 with
    | 0 | 1 => r.over s
    | 2 => r.cbo s
    | _ => r.illegal)
  | 0x2F => r.amo s
  | 0x73 => if r.f3 = 0 then r.system s else if r.f3 ≠ 4 then r.csr s
    else if isMop r.w then r.give s 0
    else if 0x30 ≤ r.f7 && r.f7 ≤ 0x37 then r.guestAccess s else r.illegal
  | 0x07 => r.floatMem s false
  | 0x27 => r.floatMem s true
  | 0x43 | 0x47 | 0x4B | 0x4F | 0x53 => r.float s
  | 0x57 => r.vector s
  | _ => r.illegal

/-- A hart executes the word at its pc, when it is none of Xsvl. -/
def hartBase (s : State) (n : Nat) (w : BitVec 32) : Host.Outcome State Fault Refusal :=
  let h := s.hart n
  let short := w &&& 3 ≠ 3
  let full : Option (BitVec 32) := if short then expand (w.setWidth 16) else some w
  let eff : RvEff := match full with
    | none => .trap 2 (w.setWidth 64)
    | some x => (Rv.run { n := n, h := h, w := x, raw := w, link := h.pc + (if short then 2 else 4) } s)
  match eff with
  | .next s' h' => .next (s'.setHart n { h' with wait := (s'.hart n).wait })
  | .trap c v g => .next (s.setHart n (h.trap c v g))
  | .wait => .next s
/-- Reservations whose bytes another agent has changed are gone. -/
def State.keepResv (s : State) : State :=
  { s with harts := tblMap s.harts fun _ (h : Hart) => match h.resv with
      | some (pa, _, bs) => if s.resvBytes pa = bs then h else { h with resv := none }
      | none => h }

end Sys2Proof.Machine
end

