-- ==== Sys2Proof/Machine/Turn.lean ====
section
/-!
DEFINITION. A turn (log 1, DESIGN CHOICE): who moves executes one instruction, and what holds at every moment is brought about after it.
-/
namespace Sys2Proof.Machine

/-- The turn of a drill: it issues the instruction at its pc. A drill that is not ISSUING does nothing (log 2, DESIGN CHOICE); a line that
has not come stalls it (R70); a word that is no instruction traps (R38). -/
def stepDrill (s : State) (k : Nat) : Host.Outcome State Fault Refusal :=
  match s.drill? k with
  | none => .next s
  | some d =>
    if d.st ≠ .issuing || s.held || !s.chipUp (drillChip k) then .next s
    else match d.word with
    | none => .next (s.stallOn k .fetch)
    | some w => match decodeFurrow w with
      | .ok i => exec i s
      | .error _ => .next (s.raise k wordTrap)

/-- The turn of a hart: it takes an interrupt, or executes the instruction at its pc: one of Xsvl, or one of its RISC-V base. -/
def stepHart (s : State) (n : Nat) : Host.Outcome State Fault Refusal :=
  let h := s.hart n
  if !s.hartRuns n then .next s
  else match s.hartInt n with
  | some (to_, i) => .next (s.setHart n (h.interrupt to_ i))
  | none => match s.hartWord h with
    | .error (.held, _) => .next s
    | .error (.fault e g, va) => .next (s.setHart n (h.trap e va g))
    | .ok w => match decodeHart (field (h.xAt (w.extractLsb' 15 5)) 12 4) w with
      | .ok i => exec i s
      | .error _ => hartBase s n w

/-- An instruction that no drill or hart executes: a step of the device or its surroundings. -/
def isEvent (i : Instr) : Bool := !i.isFurrow && !isHart i

/-- What the turn of an agent executes. -/
def act (s : State) (a : Act) : Host.Outcome State Fault Refusal :=
  match a with
  | .drill k => stepDrill s k
  | .hart n => stepHart s n
  | .event i => if isEvent i && !s.mute i then exec i s else .next s
/-- What comes about at once after any change: MBAR.WAITs see their objects (R285), a context whose groups are saved is
SUSPENDED (R289), the time that queues wait for their choice runs (R321), and reservations of LR that another agent broke are gone. -/
def State.after (s : State) : State := s.watch.suspend.age.keepResv
/-- A turn that has begun: time has passed, with what must have come by then (R378), and its agent is the one that moves. -/
def State.begun (s : State) : State := let (t, s) := s.nextTurn; { (s.pass t).tripDue with cur := some t.act }
/-- What a turn answers. -/
def afterAct (o : Host.Outcome State Fault Refusal) : Host.Outcome State Fault Refusal :=
  match o with
  | .next s => .next s.after
  | .fault f => .fault f
  | .refused r => .refused r
/-- A turn. -/
def turn (s : State) : Host.Outcome State Fault Refusal := afterAct (act s.begun s.nextTurn.1.act)

/-- The state with an instruction put where the next turn runs it (log 5, DESIGN CHOICE). -/
def State.place (s : State) (nbits w : Nat) : State :=
  if nbits = 32 then s.placeHart (BitVec.ofNat 32 w) else s.placeFurrow (BitVec.ofNat 64 w)

end Sys2Proof.Machine
end

