-- ==== Sys2Proof/Machine/Step.lean ====
section
/-!
DEFINITION. One step of the machine, and how an instruction is placed as the next one.
-/
namespace Sys2Proof.Machine

/-- One step of the machine: a turn (log 1, DESIGN CHOICE). -/
def step (s : State) : Host.Outcome State Fault Refusal := turn s

/-- The state with an instruction put where the next step runs it (log 5, DESIGN CHOICE). -/
def State.withFetchWord (s : State) (nbits w : Nat) : State := s.place nbits w

end Sys2Proof.Machine
end

