-- ==== Sys2Proof/Safety.lean ====
section
/-!
DEFINITION. A safe run, and the terms that statements are made in: when an instruction of a drill issues, what it leaves as
it was, and how its result is recorded.
-/
namespace Sys2Proof
open Sys2Proof.Machine

/-- The step from a state answers a next state. -/
def StepsOn (s : State) : Prop := ∃ s', step s = .next s'

/-- n steps from a state each answer a next state. -/
def RunsFor : Nat → State → Prop
  | 0, _ => True
  | n + 1, s => ∃ s', step s = .next s' ∧ RunsFor n s'

/-- What holds between two steps (R285, R289): no context is left PREEMPTING whose groups are all SAVED or ended and whose
plots have drained, and an MBAR.WAIT that goes on has seen its object as it is. -/
def Settled (s : State) : Prop :=
  (∀ n c, (n, c) ∈ s.ctxs → c.st = .preempting →
    (∃ m g, (m, g) ∈ s.groups ∧ g.ctx = n ∧ g.st ≠ .saved ∧ g.alive = true) ∨ ∃ m p, (m, p) ∈ s.plots ∧ p.ctx = n ∧ p.quiet = false) ∧
  ∀ k d m, (k, d) ∈ s.drills → d.mbar = some m → m.found = none →
    (s.mbarAt m.pa).valid = true ∧ (s.mbarAt m.pa).gen = m.gen ∧ (s.mbarAt m.pa).done m.p = false

/-- The state without its drills, groups, contexts and stamps of program order. -/
def rest (s : State) : State := { s with drills := [], groups := [], ctxs := [], seq := 0 }
/-- What an instruction that comes to issue at drill k sees. -/
def comes (i : Instr) (k : Nat) (d : Drill) (g : Machine.Group) : Issue := { k := k, d := d, g := g, i := i, act := activeLanes d i }

/-- The instruction takes its TK0 actions as it issues (R25, R39). -/
abbrev takesTk0 (i : Instr) (d : Drill) : Prop := i.ctl.tk0 ≠ 0 ∧ i.shape.command = false ∧ d.skipTk0 = false

/-- Nothing holds instruction i back at drill k, which is the one that moves (R30, R38, R69-R71, R77, R78, R81, R82, R307,
R381): no early trap, its slots and tokens are there, the store queue has room. -/
abbrev Fires (i : Instr) (s : State) (k : Nat) (d : Drill) (g : Machine.Group) : Prop :=
  (s.cur = some (.drill k) ∧ s.drill? k = some d ∧ s.group? d.gid = some g) ∧
  (earlyTrap d g i = none ∧ d.unclear i.ctl.sbw = false ∧ poisonedWait d i.ctl.sbw = none ∧ readsMarked d g i = false) ∧
  ((i.ctl.sbs = 0 ∨ d.count i.ctl.sbs.toNat < 15) ∧ (i.shape.queue = true → d.storeQueue.length < 64) ∧
    (afterStores i = true → d.storeQueue = [])) ∧
  (takesTk0 i d → tokensReady g.tok 1 i.ctl.tk0 = true ∧ tokenQueued s g d i.ctl.tk0 = false ∧ (tk0Tokens g i.ctl.tk0).2 = false)

/-- The state in which the instruction acts: its TK0 actions taken. -/
def actsIn (i : Instr) (s : State) (k : Nat) (d : Drill) (g : Machine.Group) : State :=
  let s := s.armed (comes i k d g)
  if takesTk0 i d then s.takeTk0 (comes i k d g) else s
/-- What it sees as it acts. -/
def sees (i : Instr) (k : Nat) (d : Drill) (g : Machine.Group) : Issue :=
  if takesTk0 i d then { comes i k d g with g := { g with tok := (tk0Tokens g i.ctl.tk0).1 } } else comes i k d g

/-- An instruction that issues, in a state and with operands that meet `pre`, answers a next state that `post` describes. -/
def Completes (i : Instr) (pre : Issue → State → Prop) (post : Issue → State → State → Prop) : Prop :=
  ∀ s k d g, Fires i s k d g → pre (sees i k d g) (actsIn i s k d g) →
    ∃ t, exec i s = .next t ∧ post (sees i k d g) (actsIn i s k d g) t
/-- A long wait whose condition `pre` holds as it comes to issue and as it acts completes at once (R71). -/
def CompletesLong (i : Instr) (pre : Issue → State → Prop) (post : Issue → State → State → Prop) : Prop :=
  ∀ s k d g, Fires i s k d g → d.metWait = false → pre (comes i k d g) (s.armed (comes i k d g)) →
    pre (sees i k d g) (actsIn i s k d g) → ∃ t, exec i s = .next t ∧ post (sees i k d g) (actsIn i s k d g) t
/-- A long wait whose condition does not hold waits, nothing else changed: WAITING where the instruction ends its swath, else
STALLED (R70, R71). -/
def Waits (i : Instr) (pre : Issue → State → Prop) : Prop :=
  ∀ s k d g, Fires i s k d g → d.metWait = false → pre (comes i k d g) (s.armed (comes i k d g)) →
    ∃ t d', exec i s = .next t ∧ t.drill? k = some d' ∧ d'.pc = d.pc ∧ d'.n = d.n ∧ d'.longWait = some i ∧
      (if i.ctl.e = true then d'.st = .waiting else d'.st = .stalled ∧ d'.stall = some .cond) ∧
      d'.v = d.v ∧ d'.s = d.s ∧ d'.k = d.k ∧ d'.cm = d.cm ∧ d'.maskStack = d.maskStack ∧ rest t = rest s ∧
      ∀ j, j ≠ k → t.drill? j = s.drill? j
/-- An instruction that issues, in a state and with operands that meet `pre`, raises the trap that `trap` gives, its TK0
actions taken and none of its own effect (R38, R39, R88). -/
def TrapsWhen (i : Instr) (pre : Issue → State → Prop) (trap : Issue → State → TrapReq) : Prop :=
  ∀ s k d g, Fires i s k d g → pre (sees i k d g) (actsIn i s k d g) →
    exec i s = .next ((actsIn i s k d g).raise k
      { trap (sees i k d g) (actsIn i s k d g) with tkd := i.ctl.tk0 ≠ 0 && !i.shape.command })
/-- A long wait that raises a trap before its TK0 actions, which have been taken only where it was resumed after them (R39, R71,
R89). -/
def TrapsLong (i : Instr) (pre : Issue → State → Prop) (trap : Issue → State → TrapReq) : Prop :=
  ∀ s k d g, Fires i s k d g → d.metWait = false → pre (comes i k d g) (s.armed (comes i k d g)) →
    exec i s = .next ((s.armed (comes i k d g)).raise k { trap (comes i k d g) (s.armed (comes i k d g)) with tkd := d.skipTk0 })
/-- An instruction whose checks meet a table in a stack that is changing hands waits (R70, R200): its drill stalls at it and goes through
the checks again, its TK0 actions taken once. -/
def WalkHeld (i : Instr) (pre : Issue → State → Prop) : Prop :=
  ∀ s k d g, Fires i s k d g → pre (sees i k d g) (actsIn i s k d g) →
    ∃ t d', exec i s = .next t ∧ t.drill? k = some d' ∧ d'.pc = d.pc ∧ d'.n = d.n ∧ d'.st = .stalled ∧ d'.stall = some .walk ∧
      rest t = rest (actsIn i s k d g) ∧ (∀ n, t.group? n = (actsIn i s k d g).group? n) ∧ ∀ j, j ≠ k → t.drill? j = s.drill? j
/-- No condition on the operands. -/
def Always (_ : Issue) (_ : State) : Prop := True

/-- A group without its tokens and GSAVE. -/
def stillGroup (g : Machine.Group) : Group := { g with tok := 0, gsave := 0 }
/-- A context without its BUDGET. -/
def stillCtx (c : Context) : Context := { c with budget := 0 }

/-- A landing writes the vector register of storage r. -/
def writesV (x : Landing) (r : Nat) : Bool := !x.noReg && (match x.into with | .vec q n => q ≤ r && r < q + max n 1 | _ => false)
/-- A landing writes the uniform register of storage r; SWR reaches z0 to z7 (R301). -/
def writesS (x : Landing) (r : Nat) : Bool :=
  match x.into with
  | .uni q n => !x.noReg && q ≤ r && r < q + max n 1
  | .sys m _ => 0x30 ≤ m && m < 0x38 && r = 64 + (m - 0x30)
  | _ => false
/-- A landing writes a predicate. -/
def writesK (x : Landing) (r : Nat) : Bool := !x.noReg && (match x.into with | .pred q => q = r | _ => false)
/-- A landing writes a system register. -/
def writesSys (x : Landing) : Bool := match x.into with | .sys .. => true | _ => false
/-- A landing raises flags or writes them. -/
def writesFlags (x : Landing) : Bool := x.flags ≠ [] || writesSys x
/-- A landing writes a tile. -/
def writesTile (x : Landing) : Bool := match x.into with | .tile .. => !x.noReg | .sys .. => true | _ => false
/-- A landing writes MXSL. -/
def writesScale (x : Landing) : Bool := match x.into with | .scale => !x.noReg | .sys .. => true | _ => false
/-- Landings that the next count performs (R74). -/
def dueNow (d : Drill) : List Landing := d.landings.filter fun x => decide (x.due ≤ d.n + 1)

/-- The drill has issued its instruction, and goes on at `next` (R69, R74). -/
structure Issued (x : Issue) (t : State) (d' : Drill) (next : DWord) : Prop where
  drill : t.drill? x.k = some d'
  pc : d'.pc = next
  count : d'.n = x.d.n + 1
  swath : if x.i.ctl.e = true then d'.st = .ready ∧ d'.idxInSwath = 0 ∧ d'.swathPc = next
    else d'.st = .issuing ∧ d'.idxInSwath = x.d.idxInSwath + 1 ∧ d'.swathPc = x.d.swathPc

/-- THE FRAME of an instruction of a drill, from the state in which it acts: no byte of memory, no other drill, nothing of
another group or context changes; a register of the drill changes when an earlier instruction's landing falls due (R74). -/
structure Kept (x : Issue) (s t : State) (d' : Drill) : Prop where
  rest : rest t = rest s
  memory : ∀ a, t.homeByte a = s.homeByte a
  others : ∀ j, j ≠ x.k → t.drill? j = s.drill? j
  groups : ∀ n, n ≠ x.d.gid → t.group? n = s.group? n
  group : (t.group? x.d.gid).map stillGroup = (s.group? x.d.gid).map stillGroup
  tokens : (∀ y ∈ dueNow x.d, y.tk1 = 0 ∧ writesSys y = false) → x.i.ctl.tk1 = 0 → t.group? x.d.gid = s.group? x.d.gid
  ctxs : ∀ n, (t.ctx? n).map stillCtx = (s.ctx? n).map stillCtx
  budgets : (∀ y ∈ dueNow x.d, writesSys y = false) → ∀ n, t.ctx? n = s.ctx? n
  vectors : ∀ r, (∀ y ∈ dueNow x.d, writesV y r = false) → d'.vAt r = x.d.vAt r
  uniforms : ∀ r, (∀ y ∈ dueNow x.d, writesS y r = false) → d'.sAt r = x.d.sAt r
  predicates : ∀ r, (∀ y ∈ dueNow x.d, writesK y r = false) → d'.kAt r = x.d.kAt r
  flags : (∀ y ∈ dueNow x.d, writesFlags y = false) → d'.flg = x.d.flg
  tiles : (∀ y ∈ dueNow x.d, writesTile y = false) → d'.tiles = x.d.tiles
  scale : (∀ y ∈ dueNow x.d, writesScale y = false) → d'.mxsl = x.d.mxsl
  system : (∀ y ∈ dueNow x.d, writesSys y = false) →
    (d'.rmode, d'.srstate, d'.mxbase, d'.uiEn, d'.uiAct, d'.uiPend, d'.uiPi, d'.uiPo, d'.uivec, d'.uiepc) =
      (x.d.rmode, x.d.srstate, x.d.mxbase, x.d.uiEn, x.d.uiAct, x.d.uiPend, x.d.uiPi, x.d.uiPo, x.d.uivec, x.d.uiepc) ∧
    (d'.xi, d'.epc, d'.tcause, d'.tval, d'.tmask) = (x.d.xi, x.d.epc, x.d.tcause, x.d.tval, x.d.tmask)
  mode : (d'.gid, d'.idx, d'.slot, d'.sysMode, d'.routine) = (x.d.gid, x.d.idx, x.d.slot, x.d.sysMode, x.d.routine)
  replay : (d'.xl, d'.xp) = (x.d.xl, x.d.xp)

/-- An instruction has completed and a trap follows at once (R303, R304): the drill stands at the next instruction, and the landing
count where it was. -/
structure Completed (x : Issue) (s t : State) (d' : Drill) : Prop where
  drill : t.drill? x.k = some d'
  pc : d'.pc = x.d.pc + 8
  count : d'.n = x.d.n
  swath : if x.i.ctl.e = true then d'.idxInSwath = 0 ∧ d'.swathPc = x.d.pc + 8
    else d'.idxInSwath = x.d.idxInSwath + 1 ∧ d'.swathPc = x.d.swathPc
  same : (d'.v, d'.s, d'.k, d'.cm, d'.maskStack, d'.ops, d'.storeQueue) =
    (x.d.v, x.d.s, x.d.k, x.d.cm, x.d.maskStack, x.d.ops, x.d.storeQueue)
  rest : Sys2Proof.rest t = Sys2Proof.rest s
  others : ∀ j, j ≠ x.k → t.drill? j = s.drill? j
  groups : ∀ n, t.group? n = s.group? n
  ctxs : ∀ n, t.ctx? n = s.ctx? n

/-- Lane masks, outstanding operations and the store queue are as they were. -/
def Plain (x : Issue) (d' : Drill) : Prop :=
  d'.cm = x.d.cm ∧ d'.maskStack = x.d.maskStack ∧ d'.ops = x.d.ops ∧ d'.storeQueue = x.d.storeQueue

/-- The instruction has no effect but to go on at `next`. -/
def GoesOn (next : Issue → DWord) (x : Issue) (s t : State) : Prop :=
  ∃ d', Issued x t d' (next x) ∧ Kept x s t d' ∧ Plain x d'
/-- The instruction has an effect `f` on the rest of the machine, and goes on. -/
def Effects (f : Issue → State → State) (x : Issue) (s t : State) : Prop :=
  ∃ d', Issued x t d' (x.d.pc + 8) ∧ Kept x (f x s) t d' ∧ Plain x d'
/-- The instruction after this one. -/
def after (x : Issue) : DWord := x.d.pc + 8

/-- Lanes in which an instruction computes: the active lanes; in the uniform form lane 0, for all (R27). -/
def computes (x : Issue) (j : Nat) : Prop := if x.uniform = true then j = 0 else j < 32 ∧ inMask x.act j = true

/-- The result of an instruction is pending: `lat` counts after its issue, `val` is written in each lane in which it
computes, to `into` in the lanes of `mask`, with its flags (R27, R62, R72, R74). -/
structure Pending (x : Issue) (d' : Drill) (lat : Nat) (into : LandTo) (mask : Mask) (val : Nat → DWord)
    (fl : Nat → BitVec 5) (y : Landing) : Prop where
  mem : y ∈ d'.landings
  due : y.due = x.d.n + lat
  into : y.into = into
  mask : y.mask = mask
  control : y.noReg = x.i.ctl.nw ∧ y.latch = x.latch ∧ y.slot = x.i.ctl.sbs.toNat ∧ y.tk1 = x.i.ctl.tk1 ∧ y.swath = x.d.swath
  values : ∀ j, computes x j → lane y.val j = val j
  flags : ∀ j f, (j, f) ∈ y.flags ↔ x.i.ctl.nf = false ∧ x.uniform = false ∧ j < 32 ∧ inMask x.act j = true ∧ f = fl j ∧ f ≠ 0

/-- A lane instruction completes: its result and flags are pending, nothing else changes. -/
def Result (lat : Nat) (into : Issue → LandTo) (mask : Issue → Mask) (val : Issue → Nat → DWord) (fl : Issue → Nat → BitVec 5)
    (x : Issue) (s t : State) : Prop :=
  ∃ d' y, Issued x t d' (x.d.pc + 8) ∧ Kept x s t d' ∧ Plain x d' ∧ Pending x d' lat (into x) (mask x) (val x) (fl x) y

/-- Raises no flag. -/
def noFlags (_ : Issue) (_ : Nat) : BitVec 5 := 0
/-- A lane or uniform destination of n registers, by the form (R27, R28). -/
def toReg (d : BitVec 8) (n : Nat) (x : Issue) : LandTo :=
  if x.i.ctl.uniformForm then .uni (sStore x.d.sysMode d.toNat) n else .vec (vStore x.d.sysMode d.toNat) n
/-- A uniform destination. -/
def toUni (d : BitVec 8) (n : Nat) (x : Issue) : LandTo := .uni (sStore x.d.sysMode d.toNat) n
/-- A predicate destination. -/
def toPred (d : BitVec 8) (_ : Issue) : LandTo := .pred d.toNat
/-- Lanes written: the active lanes; for a uniform form all, when CM holds a lane (R27, R133). -/
def inLanes (x : Issue) : Mask := if x.i.ctl.uniformForm then (if x.d.cm = 0 then 0 else 0xFFFFFFFF) else x.act
/-- Lanes written of a uniform register. -/
def inUni (x : Issue) : Mask := if x.d.cm = 0 then 0 else 0xFFFFFFFF
/-- The active lanes. -/
def inAct (x : Issue) : Mask := x.act

/-- A lane instruction of latency `lat` whose 32-bit value in lane j is `val x j`, to a register by its form. -/
def Result32 (lat : Nat) (d : BitVec 8) (val : Issue → Nat → Word) : Issue → State → State → Prop :=
  Result lat (toReg d 1) inLanes (fun x j => (val x j).setWidth 64) noFlags
/-- One whose 64-bit value goes to a pair. -/
def Result64 (lat : Nat) (d : BitVec 8) (val : Issue → Nat → DWord) : Issue → State → State → Prop :=
  Result lat (toReg d 2) inLanes val noFlags
/-- One that writes a predicate. -/
def ResultK (lat : Nat) (d : BitVec 8) (val : Issue → Nat → Bool) : Issue → State → State → Prop :=
  Result lat (toPred d) inLanes (fun x j => if val x j then 1 else 0) noFlags

/-- Lane j of the register that DST names, as read at issue: a uniform register in the uniform form (R27, R28). -/
def oldReg (x : Issue) (d : BitVec 8) (j : Nat) : Word :=
  if x.i.ctl.uniformForm then x.d.sAt (sStore x.d.sysMode d.toNat) else lane (x.d.vAt (vStore x.d.sysMode d.toNat)) j
/-- A lane that counts: active, and no helper lane (R140). -/
def counts (x : Issue) (l : Nat) : Bool := inMask x.act l && 32 * x.d.idx + l < x.g.g
/-- One value for the whole drill, into a uniform register, whatever lanes are active. -/
def Whole (lat : Nat) (d : BitVec 8) (val : Issue → DWord) (fl : Issue → Nat → BitVec 5) (x : Issue) (s t : State) : Prop :=
  ∃ d' y, Issued x t d' (x.d.pc + 8) ∧ Kept x s t d' ∧ Plain x d' ∧
    Pending x d' lat (toUni d 1 x) (inUni x) (fun _ => val x) (fl x) y ∧ ∀ j < 32, lane y.val j = val x
/-- The fixed tree of REDX (R141): 2^n lanes from lane j on. -/
def treeSum (f : RedxFn) (v : Nat → Nat) : Nat → Nat → Nat × BitVec 5
  | 0, j => (v j, 0)
  | n + 1, j =>
    let a := treeSum f v n j
    let b := treeSum f v n (j + 2 ^ n)
    let r := redxStep f a.1 b.1
    (r.1, a.2 ||| b.2 ||| r.2)
/-- A tile takes a shape word and elements four counts after issue (R145): with a shape, elements not given are zero;
without, they are kept. `clean` clears its bit of TDIRTY, which is set otherwise (R144). -/
def ToTile (n : BitVec 3) (shape : Issue → Option Word) (clean : Bool) (elem : Issue → Nat → Nat → Option Word)
    (x : Issue) (s t : State) : Prop :=
  ∃ d' y es, Issued x t d' (x.d.pc + 8) ∧ Kept x s t d' ∧ Plain x d' ∧ y ∈ d'.landings ∧ y.due = x.d.n + 4 ∧
    y.into = .tile n.toNat (shape x) clean es ∧ y.noReg = false ∧ y.latch = none ∧ y.slot = x.i.ctl.sbs.toNat ∧ y.tk1 = x.i.ctl.tk1 ∧
    ∀ r c, r < 16 → c < 16 → tblGet? es (16 * r + c) = elem x r c
/-- A tile whose elements are listed once each, in order. -/
def canonicalTile (t : Tile) : Prop := t.elems.Pairwise (·.1 < ·.1) ∧ ∀ p ∈ t.elems, p.1 < 256
/-- A floating-point result with flags. -/
def ResultF (lat : Nat) (d : BitVec 8) (val : Issue → Nat → Nat × BitVec 5) : Issue → State → State → Prop :=
  Result lat (toReg d 1) inLanes (fun x j => BitVec.ofNat 64 (val x j).1) fun x j => (val x j).2
/-- An exact result rounded once into a format, NV raised where an operand is a signalling NaN (R48, R105). -/
def rounded (f : FpFmt) (mode : RMode) (operands : List Nat) (exact : Fp × BitVec 5) : Nat × BitVec 5 :=
  ((roundTo f mode false exact.1).1, (if operands.any f.isSnan then 16 else 0) ||| exact.2 ||| (roundTo f mode false exact.1).2)
/-- d + a b, rounded once; 0 times an infinity raises NV (R105). -/
def fused (f : FpFmt) (mode : RMode) (d a b : Nat) : Nat × BitVec 5 :=
  let p := fpProd (f.value a) (f.value b)
  let t := fpSum mode (f.value d) p.1
  rounded f mode [a, b, d] (t.1, p.2 ||| t.2)
/-- A value with its sign inverted. -/
def minus : Fp → Fp
  | .nan => .nan | .inf n => .inf !n | .fin n m e => .fin (!n) m e
/-- The number that a finite value stands for. -/
def numeric (n : Bool) (m : Nat) (e : Int) : ℚ := (if n then -1 else 1) * m * 2 ^ e
/-- Both elements of a packed result, flags ORed (R110). -/
def both (f : Nat → Nat × BitVec 5) : Nat × BitVec 5 := ((f 0).1 + 65536 * (f 1).1, (f 0).2 ||| (f 1).2)
/-- Four bytes of a word. -/
def fourBytes (f : Nat → Nat) : Word := ofBytes 32 ((List.range 4).map fun l => BitVec.ofNat 8 (f l))
/-- VDOT on an MX block (R65, R117): block sum t in lane j, base exponents from MXBASE, deltas of lane group j / 8 from MXSL. -/
def blockSum (acc : Nat) (x : Issue) (j : Nat) (t : Int) : Nat × BitVec 5 :=
  let da := x.d.mxsl.extractLsb' (8 * (j / 8)) 4
  let db := x.d.mxsl.extractLsb' (8 * (j / 8) + 4) 4
  if da = 8 ∨ db = 8 then (0x7FC00000, 16)
  else if t = 0 then (acc, 0)
  else accStep acc (.fin (t < 0) t.natAbs ((x.d.mxbase.extractLsb' 0 8).toInt + da.toInt + ((x.d.mxbase.extractLsb' 8 8).toInt + db.toInt)))
/-- A result that goes to MXSL `lat` counts after issue (R116). -/
def ToScale (lat : Nat) (val : Issue → Word) (x : Issue) (s t : State) : Prop :=
  ∃ d' y, Issued x t d' (x.d.pc + 8) ∧ Kept x s t d' ∧ Plain x d' ∧ y ∈ d'.landings ∧ y.due = x.d.n + lat ∧ y.into = .scale ∧
    y.noReg = x.i.ctl.nw ∧ (lane y.val 0).setWidth 32 = val x ∧ y.slot = x.i.ctl.sbs.toNat ∧ y.tk1 = x.i.ctl.tk1
/-- The length of the field that BFX reads: trimmed at bit 31 (R99). -/
def fieldLength (b : Word) : Nat := if 32 ≤ b.toNat % 256 then 0 else min (b.toNat / 256 % 256) (32 - b.toNat % 256)

/-- The instruction becomes an outstanding operation of kind `kind`, stamped in program order; its result goes to `into` in
the lanes of `mask` when it lands (R72, R75). -/
def Starts (kind : Issue → State → VarKind) (into : Issue → LandTo) (mask : Issue → Mask) (x : Issue) (s t : State) : Prop :=
  ∃ d' o, Issued x t d' (x.d.pc + 8) ∧ Kept x s t d' ∧ d'.cm = x.d.cm ∧ d'.maskStack = x.d.maskStack ∧
    d'.storeQueue = x.d.storeQueue ∧ d'.ops = x.d.ops ++ [o] ∧ t.seq = s.seq + 1 ∧
    o.seq = s.seq ∧ o.kind = kind x s ∧ o.into = into x ∧ o.mask = mask x ∧ o.noReg = x.i.ctl.nw ∧ o.latch = x.latch ∧
    o.slot = x.i.ctl.sbs.toNat ∧ o.tk1 = x.i.ctl.tk1 ∧ o.pc = x.d.pc

/-- A variable-latency lane instruction whose result is fixed at issue (R118-R122). -/
def Slow (d : BitVec 8) (val : Issue → Nat → Nat × BitVec 5) (x : Issue) (s t : State) : Prop :=
  ∃ v fl, Starts (fun _ _ => .value v fl) (fun x => .vec (vStore x.d.sysMode d.toNat) 1) inAct x s t ∧
    (∀ j, j < 32 → inMask x.act j = true → lane v j = BitVec.ofNat 64 (val x j).1) ∧
    ∀ j f, (j, f) ∈ fl ↔ x.i.ctl.nf = false ∧ j < 32 ∧ inMask x.act j = true ∧ f = (val x j).2 ∧ f ≠ 0

/-- The instruction enters the store queue, in program order (R159); `s1` is what its checks leave (R343). -/
def Enqueues (kind : Issue → State → SqKind) (x : Issue) (s t : State) : Prop :=
  ∃ d', Issued x t d' (x.d.pc + 8) ∧ Kept x s t d' ∧ d'.cm = x.d.cm ∧ d'.maskStack = x.d.maskStack ∧ d'.ops = x.d.ops ∧
    d'.storeQueue = x.d.storeQueue ++ [{ seq := s.seq, kind := kind x s, pc := x.d.pc }] ∧ t.seq = s.seq + 1

/-- An instruction of plots enters the store queue with the drill's copy of its command, and becomes an operation where it has a
result (R214, R220, R233). -/
def EntersPlot (collective : Bool) (cmd : Issue → State → PlotCmd) (op : Issue → Option (VarKind × LandTo)) (x : Issue) (s t : State) : Prop :=
  ∃ d' e, Issued x t d' (x.d.pc + 8) ∧ Kept x s t d' ∧ d'.cm = x.d.cm ∧ d'.maskStack = x.d.maskStack ∧ t.seq = s.seq + 1 ∧
    d'.plotOut = x.d.plotOut ++ [s.seq] ∧ d'.storeQueue = x.d.storeQueue ++ [{ seq := s.seq, kind := .plot e, pc := x.d.pc }] ∧
    e.cmd = cmd x s ∧ e.collective = collective ∧ e.drill = x.d.idx ∧ e.seq = s.seq ∧ e.cm = x.d.cm ∧ e.nf = x.i.ctl.nf ∧
    (x.i.shape.command = true → e.tk0 = x.i.ctl.tk0 ∧ e.tk1 = x.i.ctl.tk1) ∧ (x.i.shape.command = false → e.tk0 = 0 ∧ e.tk1 = 0) ∧
    (op x = none → d'.ops = x.d.ops) ∧
    ∀ kind into, op x = some (kind, into) → ∃ o, d'.ops = x.d.ops ++ [o] ∧ o.seq = s.seq ∧ o.kind = kind ∧ o.into = into ∧ o.slot = x.i.ctl.sbs.toNat ∧
      o.noReg = x.i.ctl.nw ∧ o.mask = if collective then 0xFFFFFFFF else x.act

/-- An event that finds nothing to do leaves the machine as it is (log 2, DESIGN CHOICE). -/
def Idle (i : Instr) (s : State) : Prop := exec i s = .next s
/-- An event takes place: its next state is described by `post`. -/
def Happens (i : Instr) (s : State) (post : State → Prop) : Prop := ∃ t, exec i s = .next t ∧ post t
/-- What a drill's step or an event leaves of memory and of every drill. -/
def SameDrills (s t : State) : Prop := ∀ j, t.drill? j = s.drill? j
/-- Home memory, its poison and the caches' copies are as they were. -/
def SameMemory (s t : State) : Prop := t.mem = s.mem ∧ t.poison = s.poison ∧ t.owned = s.owned ∧ t.sharers = s.sharers

/-- Hart n executes its instruction: rd takes v, its pc moves on, its other registers and its mode stay; the rest as `post` says. -/
def HartAnswers (i : Instr) (s : State) (n : Nat) (rd : BitVec 5) (v : DWord) (post : State → Prop) : Prop :=
  ∃ t, exec i s = .next t ∧ (t.hart n).pc = (s.hart n).pc + 4 ∧ (t.hart n).mode = (s.hart n).mode ∧
    (∀ r, (t.hart n).xAt r = if r = rd ∧ r ≠ 0 then v else (s.hart n).xAt r) ∧ (∀ m r, m ≠ n → (t.hart m).xAt r = (s.hart m).xAt r) ∧ post t
/-- Hart n takes an exception (log 12, PRESUMED), nothing else changed. -/
def HartTraps (i : Instr) (s : State) (n cause : Nat) (tval : DWord) (gpa : DWord := 0) : Prop :=
  exec i s = .next (s.setHart n ((s.hart n).trap cause tval gpa))
/-- A hart in a mode in which the forms of M and HS mode act (R257). -/
def privileged (h : Hart) : Prop := h.mode = .m ∨ h.mode = .hs
/-- What an instruction that concerns harts and Headland alone leaves: memory and every drill, group and plot. -/
def Aside (s t : State) : Prop := SameMemory s t ∧ t.drills = s.drills ∧ t.groups = s.groups ∧ t.plots = s.plots

/-- n bytes of memory from an address on can be written (R151, R367). -/
def Writable (s : State) (a n : Nat) : Prop := Memory.wf s = true ∧ ∀ j < n, classOf (a + j) = .cacheable ∧ s.gate (a + j) ≠ .dead
/-- The bytes from an address on are these; where no cache held a copy of their lines, no other byte has changed. -/
def Stored (s t : State) (a : Nat) (bs : List Byte) : Prop :=
  (∀ j < bs.length, some (t.byteAt (a + j)) = bs[j]?) ∧
  ((∀ j < bs.length, tblGet? s.owned ((a + j) / 128) = none) → ∀ b, b < a ∨ a + bs.length ≤ b → t.byteAt b = s.byteAt b)

end Sys2Proof
end

