-- ==== Sys2Proof/Certificates/Slice0/Obligations.lean ====
section
/-!
DEFINITION. The statements for the provers.
-/
open Sys2Proof Sys2Proof.Machine

/-! ### The machine -/

/-- The state after a cold reset (R382 with R11, R241, R360): no context, group, drill, queue or plot exists, no line is
cached, every link is DOWN, every stack is HELD by its west die, its grant shared. -/
def Obligations.ResetState : Prop :=
  let s := State.reset
  s.drills = [] ∧ s.groups = [] ∧ s.crofts = [] ∧ s.launches = [] ∧ s.ctxs = [] ∧ s.queues = [] ∧ s.plots = [] ∧
  s.owned = [] ∧ s.tlb = [] ∧ s.mem = [] ∧ s.poison = [] ∧ s.faultRecs = [] ∧ s.sysEntries = [] ∧ s.gtime = 0 ∧
  (∀ n, (s.link n).st = .down ∧ (s.link n).cause = 0) ∧
  (∀ n, (s.stack n).st = .held ∧ (s.stack n).owner = 0 ∧ (s.stack n).holder = none ∧ (s.stack n).cedeRight = false ∧
    (s.stack n).epoch = 0) ∧
  (∀ n, (s.hart n).wait = .off)

/-- What holds between two steps holds after reset. -/
def Obligations.ResetSettled : Prop := Settled State.reset

/-- What holds between two steps (R285, R289): no context is left PREEMPTING whose groups are all SAVED or ended and whose
plots have drained; an MBAR.WAIT that goes on has seen the object as it is, and the object has not ended its phase. -/
def Obligations.StepKeepsSettled : Prop := ∀ s s', Settled s → step s = .next s' → Settled s'

/-- EVERY STEP KEEPS THE CANONICAL FORM of home memory and of each core's local store (the model's own form, log 3, DESIGN CHOICE): addresses strictly
rising, no byte listed that equals what an unlisted address reads as. -/
def Obligations.StepKeepsMemory : Prop :=
  ∀ s s', Memory.wf s = true → (∀ c, cellsWf (s.core c).ls = true) → step s = .next s' →
    Memory.wf s' = true ∧ ∀ c, cellsWf (s'.core c).ls = true

/-- A step of the machine answers a next state, except where a drill's group has no record (every issue of a drill presumes the group
that holds it, R67); no step is refused. -/
def Obligations.StepAnswers : Prop :=
  ∀ s, (∃ t, step s = .next t) ∨
    (step s = .fault .noDrill ∧ ∃ k d, s.begun.cur = some (.drill k) ∧ s.begun.drill? k = some d ∧ s.begun.group? d.gid = none)

/-- DECODING UNDOES ENCODING, for every well-formed Furrow instruction (R23-R34, R37, R38). -/
def Obligations.FurrowRoundTrip : Prop :=
  ∀ i : Instr, i.isFurrow = true → i.wf = true → ∃ w0 w1, encode i = [w0, w1] ∧ decodeFurrow (w1 ++ w0) = .ok i

/-- Decoding undoes encoding, for every hart instruction (R257, R291, R311, R326, R357); the operations of CTXCTL share a
word and are told apart by their operand. -/
def Obligations.HartRoundTrip : Prop :=
  ∀ i : Instr, isHart i = true → ∃ op w, op < 16 ∧ encode i = [w] ∧ decodeHart op w = .ok i

/-- Each Furrow word has one meaning: a word that decodes is the encoding of what it decodes to. -/
def Obligations.FurrowWordUnique : Prop :=
  ∀ w i, decodeFurrow w = .ok i → i.isFurrow = true ∧ i.wf = true ∧ encode i = [w.extractLsb' 0 32, w.extractLsb' 32 32]

/-- Words written out in the spec decode to what they stand for, and are what it encodes to (R253): the forms of STK. -/
def Obligations.DecodedWords : Prop :=
  let stands (w0 w1 : Word) (i : Instr) : Prop := decodeFurrow (w1 ++ w0) = .ok i ∧ encode i = [w0, w1]
  stands 0x07600000 0x00000014 (.stkCede 0xA {}) ∧
  stands 0x07600000 0x10000004 (.stkCede 0x2 { tk1 := 1 }) ∧
  stands 0x0F600000 0x00080014 (.stkTake 0xA { e := true }) ∧
  stands 0x07600502 0x00100004 (.stkQry 5 2 { sbs := 1 })

/-- A STEP RUNS THE DECODED INSTRUCTION (R69, R123): a drill that is ISSUING and whose buffer holds the word at its pc
executes what the word decodes to; a word that is no instruction traps.

A hart takes an interrupt that is due before its next instruction (log 88, PRESUMED); else a step runs what its word decodes to
(R257, R291, R311, R326, R357), or its RISC-V base where the word is none of Xsvl; a fetch that fails is an exception, and one that
Headland holds is repeated.

A step runs an event of the device or its surroundings, unless the event's chiplet is not up (R366). -/
def Obligations.StepRuns : Prop :=
  (
  ∀ s k d w, s.begun.cur = some (.drill k) → s.begun.drill? k = some d → d.st = .issuing → s.begun.held = false →
    s.begun.chipUp (drillChip k) = true → d.word = some w →
    (∀ i, decodeFurrow w = .ok i → step s = afterAct (exec i s.begun)) ∧
    (∀ e, decodeFurrow w = .error e → step s = .next (s.begun.raise k wordTrap).after)) ∧
  (
  ∀ s n, s.begun.cur = some (.hart n) → s.begun.hartRuns n = true →
    let h : Hart := s.begun.hart n
    (∀ to_ c, s.begun.hartInt n = some (to_, c) → step s = .next (s.begun.setHart n (h.interrupt to_ c)).after) ∧
    (s.begun.hartInt n = none →
      (∀ w, s.begun.hartWord h = .ok w →
        (∀ i, decodeHart (field (h.xAt (w.extractLsb' 15 5)) 12 4) w = .ok i → step s = afterAct (exec i s.begun)) ∧
        (∀ e, decodeHart (field (h.xAt (w.extractLsb' 15 5)) 12 4) w = .error e → step s = afterAct (hartBase s.begun n w))) ∧
      (∀ c g va, s.begun.hartWord h = .error (.fault c g, va) → step s = .next (s.begun.setHart n (h.trap c va g)).after) ∧
      (∀ va, s.begun.hartWord h = .error (.held, va) → step s = .next s.begun.after))) ∧
  (
  ∀ s i, s.begun.cur = some (.event i) → isEvent i = true →
    (s.begun.mute i = false → step s = afterAct (exec i s.begun)) ∧ (s.begun.mute i = true → step s = .next s.begun.after))

/-- THE DECODE TRAPS (R38): an instruction that has one raises it, whatever its meaning; the first check that fails decides. The
check of a transfer's target comes after them (R137). -/
def Obligations.DecodeTraps : Prop :=
  (∀ i s k d g t, i.isFurrow = true → s.cur = some (.drill k) → s.drill? k = some d → s.group? d.gid = some g →
    earlyTrap d g i = some t → exec i s = .next (s.raise k t)) ∧
  (∀ d g i, i.wf = false → (earlyTrap d g i).map (·.code) = some 0x01) ∧
  (∀ d g i, i.wf = true → i.isFurrow = true → needsSystem d i = true →
    (earlyTrap d g i).map (·.code) = some 0x02) ∧
  (∀ d g i, i.wf = true → i.isFurrow = true → needsSystem d i = false →
    ((d.idxInSwath ≥ 23 ∧ i.ctl.e = false) ∨ (i.shape.control = true ∧ i.ctl.e = false)) →
    (earlyTrap d g i).map (·.code) = some 0x03) ∧
  (∀ d g i p m, d.needLand = some (p, m) → earlyTrap { d with needLand := none } g i = none →
    earlyTrap d g i = if p = d.pc ∧ isLand i = false then some { code := 0x06, tval := p, mask := some m } else none)

/-- AN INSTRUCTION THAT CANNOT ISSUE YET STALLS (R30, R70, R77, R159): a slot of its wait field is not clear, its own slot's
count is 15, or the store queue is full; nothing but the drill's state changes. -/
def Obligations.IssueStalls : Prop :=
  ∀ i s k d g, i.isFurrow = true → s.cur = some (.drill k) → s.drill? k = some d → s.group? d.gid = some g → earlyTrap d g i = none →
    (d.unclear i.ctl.sbw = true → exec i s = .next (s.stallOn k (.slots i.ctl.sbw))) ∧
    (d.unclear i.ctl.sbw = false → poisonedWait d i.ctl.sbw = none → i.ctl.sbs ≠ 0 → 15 ≤ d.count i.ctl.sbs.toNat →
      exec i s = .next (s.stallOn k (.count i.ctl.sbs.toNat))) ∧
    (d.unclear i.ctl.sbw = false → poisonedWait d i.ctl.sbw = none →
      (i.ctl.sbs = 0 ∨ d.count i.ctl.sbs.toNat < 15) → i.shape.queue = true → 64 ≤ d.storeQueue.length →
      exec i s = .next (s.stallOn k .queue))

/-! ### Lane arithmetic -/

/-- IADD, ISUB, IMUL and IMAC (R96): wrapped and clamped sums, both halves of products, and the accumulator read from DST. -/
def Obligations.IntegerArithmetic : Prop :=
  ∀ (d : BitVec 8) (a b : Src) (c : Ctl),
    Completes (.iadd .i32 d a b c) Always (Result32 4 d fun x j => BitVec.ofInt 32 ((src32 x a j).toInt + (src32 x b j).toInt)) ∧
    Completes (.iadd .i32Sat d a b c) Always (Result32 4 d fun x j =>
      BitVec.ofInt 32 (max (-2147483648) (min 2147483647 ((src32 x a j).toInt + (src32 x b j).toInt)))) ∧
    Completes (.iadd .ui32Sat d a b c) Always (Result32 4 d fun x j =>
      BitVec.ofNat 32 (min 4294967295 ((src32 x a j).toNat + (src32 x b j).toNat))) ∧
    Completes (.iadd .i64 d a b c) Always (Result64 4 d fun x j => BitVec.ofInt 64 ((src64 x a j).toInt + (src64 x b j).toInt)) ∧
    Completes (.isub .i32 d a b c) Always (Result32 4 d fun x j => BitVec.ofInt 32 ((src32 x a j).toInt - (src32 x b j).toInt)) ∧
    Completes (.isub .i32Sat d a b c) Always (Result32 4 d fun x j =>
      BitVec.ofInt 32 (max (-2147483648) (min 2147483647 ((src32 x a j).toInt - (src32 x b j).toInt)))) ∧
    Completes (.isub .ui32Sat d a b c) Always (Result32 4 d fun x j =>
      BitVec.ofNat 32 ((src32 x a j).toNat - (src32 x b j).toNat)) ∧
    Completes (.isub .i64 d a b c) Always (Result64 4 d fun x j => BitVec.ofInt 64 ((src64 x a j).toInt - (src64 x b j).toInt)) ∧
    Completes (.imul .lo d a b c) Always (Result32 4 d fun x j => BitVec.ofInt 32 ((src32 x a j).toInt * (src32 x b j).toInt)) ∧
    Completes (.imul .hiI d a b c) Always (Result32 4 d fun x j =>
      BitVec.ofInt 32 ((src32 x a j).toInt * (src32 x b j).toInt / 4294967296)) ∧
    Completes (.imul .hiU d a b c) Always (Result32 4 d fun x j =>
      BitVec.ofNat 32 ((src32 x a j).toNat * (src32 x b j).toNat / 4294967296)) ∧
    Completes (.imul .wideI d a b c) Always (Result64 4 d fun x j => BitVec.ofInt 64 ((src32 x a j).toInt * (src32 x b j).toInt)) ∧
    Completes (.imul .wideU d a b c) Always (Result64 4 d fun x j => BitVec.ofNat 64 ((src32 x a j).toNat * (src32 x b j).toNat)) ∧
    Completes (.imac .lo d a b c) Always (Result32 4 d fun x j =>
      BitVec.ofNat 32 ((oldReg x d j).toNat + (src32 x a j).toNat * (src32 x b j).toNat)) ∧
    Completes (.imac .wideU d a b c) Always (Result64 4 d fun x j =>
      BitVec.ofNat 64 ((oldReg x (d + 1) j ++ oldReg x d j : BitVec 64).toNat + (src32 x a j).toNat * (src32 x b j).toNat))

/-- ICMP (R102): a predicate, four counts after issue, in each active lane a comparison by FN, signed unless X = 1, which is legal with FN 2 to 5
only; no uniform form; the latch takes 1 or 0 while the swath is open; k0 discards the write. -/
def Obligations.IntegerCompare : Prop :=
  ∀ (d : BitVec 8) (a b : Src) (c : Ctl),
    Completes (.icmp .eq false d a b c) Always (ResultK 4 d fun x j => src32 x a j = src32 x b j) ∧
    Completes (.icmp .ne false d a b c) Always (ResultK 4 d fun x j => src32 x a j ≠ src32 x b j) ∧
    Completes (.icmp .lt false d a b c) Always (ResultK 4 d fun x j => (src32 x a j).toInt < (src32 x b j).toInt) ∧
    Completes (.icmp .le false d a b c) Always (ResultK 4 d fun x j => (src32 x a j).toInt ≤ (src32 x b j).toInt) ∧
    Completes (.icmp .gt false d a b c) Always (ResultK 4 d fun x j => (src32 x b j).toInt < (src32 x a j).toInt) ∧
    Completes (.icmp .ge false d a b c) Always (ResultK 4 d fun x j => (src32 x b j).toInt ≤ (src32 x a j).toInt) ∧
    Completes (.icmp .lt true d a b c) Always (ResultK 4 d fun x j => (src32 x a j).toNat < (src32 x b j).toNat) ∧
    Completes (.icmp .le true d a b c) Always (ResultK 4 d fun x j => (src32 x a j).toNat ≤ (src32 x b j).toNat) ∧
    Completes (.icmp .gt true d a b c) Always (ResultK 4 d fun x j => (src32 x b j).toNat < (src32 x a j).toNat) ∧
    Completes (.icmp .ge true d a b c) Always (ResultK 4 d fun x j => (src32 x b j).toNat ≤ (src32 x a j).toNat) ∧
    (∀ f u w0 w1, encode (.icmp f u d a b c) = [w0, w1] → w1.extractLsb' 19 3 =
      match f with | .eq => 0#3 | .ne => 1#3 | .lt => 2#3 | .le => 3#3 | .gt => 4#3 | .ge => 5#3) ∧
    (∀ u w0 w1 f, encode (.icmp f u d a b c) = [w0, w1] → w1.getLsbD 0 = u) ∧
    (Instr.icmp .eq true d a b c).wf = false ∧ (Instr.icmp .ne true d a b c).wf = false ∧
    (∀ f u, c.uniformForm = true → (Instr.icmp f u d a b c).wf = false) ∧
    ∀ (s : State) (k : Nat) (e : Drill) (y : Landing), s.drill? k = some e → e.landings = [y] → y.due ≤ e.n + 1 → y.into = .pred d.toNat →
      ∃ e', (s.advance k).drill? k = some e' ∧
        (y.noReg = false → ∀ j < 32, inMask (e'.kAt d.toNat) j = if d = 0 then true else if inMask y.mask j then (lane y.val j).getLsbD 0 else inMask (e.kAt d.toNat) j) ∧
        (∀ l, y.latch = some l → ∀ j < 32, lane (e'.latch l) j = if y.swath = e.swath ∧ inMask y.mask j = true then (lane y.val j).setWidth 32 else lane (e.latch l) j) ∧
        (y.latch = none → e'.latches = e.latches)

/-- SEL, MOV and KOP (R103). -/
def Obligations.SelectAndPredicates : Prop :=
  ∀ (d : BitVec 8) (a b : Src) (c : Ctl),
    (∀ k : BitVec 3, Completes (.sel k d a b c) Always (Result32 4 d fun x j =>
      if k = 0 ∨ inMask (x.d.kAt k.toNat) j = true then src32 x a j else src32 x b j)) ∧
    Completes (.mov false d a c) Always (Result32 4 d fun x j => src32 x a j) ∧
    Completes (.mov true d a c) Always (Result64 4 d fun x j => src64 x a j) ∧
    (∀ m n : BitVec 3,
      Completes (.kop .and d (.k m) (.k n) c) Always (ResultK 4 d fun x j => inMask (x.d.kAt m.toNat) j && inMask (x.d.kAt n.toNat) j) ∧
      Completes (.kop .or d (.k m) (.k n) c) Always (ResultK 4 d fun x j => inMask (x.d.kAt m.toNat) j || inMask (x.d.kAt n.toNat) j) ∧
      Completes (.kop .xor d (.k m) (.k n) c) Always (ResultK 4 d fun x j => inMask (x.d.kAt m.toNat) j ^^ inMask (x.d.kAt n.toNat) j) ∧
      Completes (.kop .andn d (.k m) (.k n) c) Always (ResultK 4 d fun x j => inMask (x.d.kAt m.toNat) j && !inMask (x.d.kAt n.toNat) j) ∧
      Completes (.kop .not d (.k m) b c) Always (ResultK 4 d fun x j => !inMask (x.d.kAt m.toNat) j))

/-- IMNX, LOG, SHF, BFX, BFI, BIT and LEA (R97-R101).

The immediate forms (R104) and the permutes (R113). -/
def Obligations.IntegerLogic : Prop :=
  (
  ∀ (d : BitVec 8) (a b : Src) (c : Ctl),
    Completes (.imnx .minI d a b c) Always (Result32 4 d fun x j => BitVec.ofInt 32 (min (src32 x a j).toInt (src32 x b j).toInt)) ∧
    Completes (.imnx .maxI d a b c) Always (Result32 4 d fun x j => BitVec.ofInt 32 (max (src32 x a j).toInt (src32 x b j).toInt)) ∧
    Completes (.imnx .minU d a b c) Always (Result32 4 d fun x j => BitVec.ofNat 32 (min (src32 x a j).toNat (src32 x b j).toNat)) ∧
    Completes (.imnx .maxU d a b c) Always (Result32 4 d fun x j => BitVec.ofNat 32 (max (src32 x a j).toNat (src32 x b j).toNat)) ∧
    Completes (.imnx .abs d a b c) Always (Result32 4 d fun x j => BitVec.ofNat 32 (src32 x a j).toInt.natAbs) ∧
    Completes (.imnx .neg d a b c) Always (Result32 4 d fun x j => BitVec.ofInt 32 (-(src32 x a j).toInt)) ∧
    Completes (.log .and d a b c) Always (Result32 4 d fun x j => src32 x a j &&& src32 x b j) ∧
    Completes (.log .or d a b c) Always (Result32 4 d fun x j => src32 x a j ||| src32 x b j) ∧
    Completes (.log .xor d a b c) Always (Result32 4 d fun x j => src32 x a j ^^^ src32 x b j) ∧
    Completes (.log .andn d a b c) Always (Result32 4 d fun x j => src32 x a j &&& ~~~src32 x b j) ∧
    Completes (.log .orn d a b c) Always (Result32 4 d fun x j => src32 x a j ||| ~~~src32 x b j) ∧
    Completes (.log .xnor d a b c) Always (Result32 4 d fun x j => ~~~(src32 x a j ^^^ src32 x b j)) ∧
    Completes (.shf .shl false d a b c) Always (Result32 4 d fun x j => src32 x a j <<< ((src32 x b j).toNat % 32)) ∧
    Completes (.shf .shr false d a b c) Always (Result32 4 d fun x j => src32 x a j >>> ((src32 x b j).toNat % 32)) ∧
    Completes (.shf .sar false d a b c) Always (Result32 4 d fun x j =>
      BitVec.ofInt 32 ((src32 x a j).toInt / 2 ^ ((src32 x b j).toNat % 32))) ∧
    Completes (.shf .rol false d a b c) Always (Result32 4 d fun x j => (src32 x a j).rotateLeft ((src32 x b j).toNat % 32)) ∧
    Completes (.shf .ror false d a b c) Always (Result32 4 d fun x j => (src32 x a j).rotateRight ((src32 x b j).toNat % 32)) ∧
    Completes (.shf .shl true d a b c) Always (Result64 4 d fun x j => src64 x a j <<< ((src32 x b j).toNat % 64)) ∧
    Completes (.shf .shr true d a b c) Always (Result64 4 d fun x j => src64 x a j >>> ((src32 x b j).toNat % 64)) ∧
    Completes (.shf .sar true d a b c) Always (Result64 4 d fun x j =>
      BitVec.ofInt 64 ((src64 x a j).toInt / 2 ^ ((src32 x b j).toNat % 64))) ∧
    Completes (.shf .rol true d a b c) Always (Result64 4 d fun x j => (src64 x a j).rotateLeft ((src32 x b j).toNat % 64)) ∧
    Completes (.shf .ror true d a b c) Always (Result64 4 d fun x j => (src64 x a j).rotateRight ((src32 x b j).toNat % 64)) ∧
    Completes (.bfx false d a b c) Always (Result32 4 d fun x j =>
      let n := fieldLength (src32 x b j)
      BitVec.ofNat 32 ((src32 x a j).toNat / 2 ^ ((src32 x b j).toNat % 256) % 2 ^ n)) ∧
    Completes (.bfx true d a b c) Always (Result32 4 d fun x j =>
      let n := fieldLength (src32 x b j)
      let f := (src32 x a j).toNat / 2 ^ ((src32 x b j).toNat % 256) % 2 ^ n
      BitVec.ofInt 32 (if n ≠ 0 ∧ 2 ^ (n - 1) ≤ f then (f : Int) - 2 ^ n else f)) ∧
    (∀ x : Issue, ∀ j l, l < 32 → (bfiValue (src32 x a j) (src32 x b j)).getLsbD l =
      let p := (src32 x b j).toNat % 32
      let n := min ((src32 x b j).toNat / 256 % 32) 16
      if p ≤ l ∧ l < p + n then (src32 x b j).getLsbD (16 + (l - p)) else (src32 x a j).getLsbD l) ∧
    Completes (.bfi d a b c) Always (Result32 4 d fun x j => bfiValue (src32 x a j) (src32 x b j)) ∧
    Completes (.bit .popc d a c) Always (Result32 4 d fun x j => BitVec.ofNat 32 ((List.range 32).countP fun l => (src32 x a j).getLsbD l)) ∧
    Completes (.bit .clz d a c) Always (Result32 4 d fun x j =>
      if src32 x a j = 0 then 32 else BitVec.ofNat 32 (31 - Nat.log2 (src32 x a j).toNat)) ∧
    Completes (.bit .ctz d a c) Always (Result32 4 d fun x j =>
      BitVec.ofNat 32 (((List.range 32).find? fun l => (src32 x a j).getLsbD l).getD 32)) ∧
    Completes (.bit .brev d a c) Always (Result32 4 d fun x j => (src32 x a j).reverse) ∧
    Completes (.bit .ffs d a c) Always (Result32 4 d fun x j =>
      if src32 x a j = 0 then 0xFFFFFFFF else BitVec.ofNat 32 (Nat.log2 (src32 x a j).toNat)) ∧
    ∀ sh : BitVec 3, Completes (.lea sh d a b c) Always (Result64 4 d fun x j =>
      BitVec.ofInt 64 ((src64 x a j).toInt + (src32 x b j).toInt * 2 ^ sh.toNat))) ∧
  (
  ∀ (d : BitVec 8) (a b : Src) (imm : BitVec 16) (c : Ctl),
    Completes (.iaddi d a imm c) Always (Result32 4 d fun x j => BitVec.ofInt 32 ((src32 x a j).toInt + imm.toInt)) ∧
    Completes (.andi d a imm c) Always (Result32 4 d fun x j => src32 x a j &&& imm.setWidth 32) ∧
    Completes (.ori d a imm c) Always (Result32 4 d fun x j => src32 x a j ||| imm.setWidth 32) ∧
    Completes (.xori d a imm c) Always (Result32 4 d fun x j => src32 x a j ^^^ imm.setWidth 32) ∧
    Completes (.shli d a imm c) Always (Result32 4 d fun x j => src32 x a j <<< (imm.toNat % 32)) ∧
    Completes (.shri d a imm c) Always (Result32 4 d fun x j => BitVec.ofNat 32 ((src32 x a j).toNat / 2 ^ (imm.toNat % 32))) ∧
    Completes (.sari d a imm c) Always (Result32 4 d fun x j => BitVec.ofInt 32 ((src32 x a j).toInt / 2 ^ (imm.toNat % 32))) ∧
    Completes (.movil d imm c) Always (Result32 4 d fun _ _ => BitVec.ofNat 32 imm.toNat) ∧
    Completes (.movih d imm c) Always (Result32 4 d fun x j => BitVec.ofNat 32 (imm.toNat * 65536 + (oldReg x d j).toNat % 65536)) ∧
    Completes (.imuli d a imm c) Always (Result32 4 d fun x j => BitVec.ofInt 32 ((src32 x a j).toInt * imm.toInt)) ∧
    (∀ k, k < 4 → ∀ (v : Word) (sel : BitVec 16), (prmtValue v sel).extractLsb' (8 * k) 8 =
      let q := sel.extractLsb' (4 * k) 4
      let e := v.extractLsb' (8 * (q.toNat % 4)) 8
      if q.getLsbD 3 then 0#8 else if q.getLsbD 2 then (if e.getLsbD 7 then 0xFF#8 else 0#8) else e) ∧
    Completes (.prmt d a b c) Always (Result32 4 d fun x j => prmtValue (src32 x a j) ((src32 x b j).extractLsb' 0 16)) ∧
    Completes (.prmti d a imm c) Always (Result32 4 d fun x j => prmtValue (src32 x a j) imm))

/-! ### Floating point -/

/-- FP32 arithmetic (R105, R106): the exact sum, product or fused sum rounded once; NV for signalling operands and invalid
operations. Selection, comparison, sign and class (R107-R109).

FMNX and FCMP (R107, R108), on numbers: minimum and maximum by value with -0 < +0, a NaN as the form says, and the
relations by value. -/
def Obligations.Float32 : Prop :=
  (
  ∀ (d : BitVec 8) (a b : Src) (imm : BitVec 16) (m : Rnd) (c : Ctl),
    let va (x : Issue) (j : Nat) : Nat := (src32 x a j).toNat
    let vb (x : Issue) (j : Nat) : Nat := (src32 x b j).toNat
    let vd (x : Issue) (j : Nat) : Nat := (oldReg x d j).toNat
    let vi : Nat := imm.toNat * 65536
    let dyn (x : Issue) : RMode := rmodeOf x.d.rmode
    let mode (x : Issue) : RMode := modeOf m x.d.rmode 0
    Completes (.faddF32 m d a b c) Always (ResultF 6 d fun x j => rounded fmtF32 (mode x) [va x j, vb x j]
      (fpSum (mode x) (fmtF32.value (va x j)) (fmtF32.value (vb x j)))) ∧
    Completes (.fsubF32 m d a b c) Always (ResultF 6 d fun x j => rounded fmtF32 (mode x) [va x j, vb x j]
      (fpSum (mode x) (fmtF32.value (va x j)) (minus (fmtF32.value (vb x j))))) ∧
    Completes (.fmulF32 m d a b c) Always (ResultF 6 d fun x j => rounded fmtF32 (mode x) [va x j, vb x j]
      (fpProd (fmtF32.value (va x j)) (fmtF32.value (vb x j)))) ∧
    Completes (.fmacF32 m d a b c) Always (ResultF 6 d fun x j => fused fmtF32 (mode x) (vd x j) (va x j) (vb x j)) ∧
    Completes (.faddiF32 d a imm c) Always (ResultF 6 d fun x j => rounded fmtF32 (dyn x) [va x j, vi]
      (fpSum (dyn x) (fmtF32.value (va x j)) (fmtF32.value vi))) ∧
    Completes (.fmuliF32 d a imm c) Always (ResultF 6 d fun x j => rounded fmtF32 (dyn x) [va x j, vi]
      (fpProd (fmtF32.value (va x j)) (fmtF32.value vi))) ∧
    Completes (.fmaciF32 d a imm c) Always (ResultF 6 d fun x j => fused fmtF32 (dyn x) (vd x j) (va x j) vi) ∧
    (∀ f, Completes (.fmnxF32 f d a b c) Always (ResultF 4 d fun x j => fpMnm fmtF32 f (va x j) (vb x j))) ∧
    (∀ f, Completes (.fcmpF32 f d a b c) Always (Result 4 (toPred d) inLanes
      (fun x j => if (fpCmp f (va x j) (vb x j)).1 then 1 else 0) fun x j => (fpCmp f (va x j) (vb x j)).2)) ∧
    Completes (.fsgn .abs d a b c) Always (Result32 4 d fun x j => BitVec.ofNat 32 (va x j % 2 ^ 31)) ∧
    Completes (.fsgn .neg d a b c) Always (Result32 4 d fun x j => src32 x a j + 0x80000000) ∧
    Completes (.fsgn .cpys d a b c) Always (Result32 4 d fun x j => BitVec.ofNat 32 (va x j % 2 ^ 31 + vb x j / 2 ^ 31 * 2 ^ 31)) ∧
    Completes (.fcls d a c) Always (Result32 4 d fun x j => BitVec.ofNat 32 (fpClass (va x j)))) ∧
  (
  (∀ a b, a < 2 ^ 32 → b < 2 ^ 32 → fmtF32.isNan a = false → fmtF32.isNan b = false →
    (fpMnm fmtF32 .min a b).1 = (if fmtF32.key a ≤ fmtF32.key b then a else b) ∧
    (fpMnm fmtF32 .minnum a b).1 = (if fmtF32.key a ≤ fmtF32.key b then a else b) ∧
    (fpMnm fmtF32 .max a b).1 = (if fmtF32.key b ≤ fmtF32.key a then a else b) ∧
    (fpMnm fmtF32 .maxnum a b).1 = (if fmtF32.key b ≤ fmtF32.key a then a else b)) ∧
  (∀ a b, fmtF32.isNan a = true → (fpMnm fmtF32 .min a b).1 = 0x7FC00000 ∧ (fpMnm fmtF32 .max a b).1 = 0x7FC00000 ∧
    (fpMnm fmtF32 .min b a).1 = 0x7FC00000 ∧ (fpMnm fmtF32 .max b a).1 = 0x7FC00000 ∧
    (fmtF32.isNan b = false → (fpMnm fmtF32 .minnum a b).1 = b ∧ (fpMnm fmtF32 .maxnum a b).1 = b ∧
      (fpMnm fmtF32 .minnum b a).1 = b ∧ (fpMnm fmtF32 .maxnum b a).1 = b) ∧
    (fmtF32.isNan b = true → (fpMnm fmtF32 .minnum a b).1 = 0x7FC00000 ∧ (fpMnm fmtF32 .maxnum a b).1 = 0x7FC00000)) ∧
  (∀ a b n m e n' m' e', fmtF32.value a = .fin n m e → fmtF32.value b = .fin n' m' e' →
    ((fpCmp .eq a b).1 = true ↔ numeric n m e = numeric n' m' e') ∧ ((fpCmp .ne a b).1 = true ↔ numeric n m e ≠ numeric n' m' e') ∧
    ((fpCmp .lt a b).1 = true ↔ numeric n m e < numeric n' m' e') ∧ ((fpCmp .le a b).1 = true ↔ numeric n m e ≤ numeric n' m' e') ∧
    ((fpCmp .gt a b).1 = true ↔ numeric n' m' e' < numeric n m e) ∧ ((fpCmp .ge a b).1 = true ↔ numeric n' m' e' ≤ numeric n m e)) ∧
  (∀ a b, (fpCmp .un a b).1 = (fmtF32.isNan a || fmtF32.isNan b) ∧ (fpCmp .ord a b).1 = !(fmtF32.isNan a || fmtF32.isNan b) ∧
    (fmtF32.isNan a = true ∨ fmtF32.isNan b = true →
      (fpCmp .eq a b).1 = false ∧ (fpCmp .ne a b).1 = true ∧ (fpCmp .lt a b) = (false, 16) ∧ (fpCmp .le a b) = (false, 16) ∧
      (fpCmp .gt a b) = (false, 16) ∧ (fpCmp .ge a b) = (false, 16))))

/-- Sums and products are exact before they are rounded (R105): the value of a finite result is the sum or the product of the
values of the finite operands. -/
def Obligations.ExactArithmetic : Prop :=
  ∀ (mode : RMode) (n1 n2 : Bool) (m1 m2 : Nat) (e1 e2 : Int),
    (∃ n m e, fpSum mode (.fin n1 m1 e1) (.fin n2 m2 e2) = (.fin n m e, 0) ∧
      numeric n m e = numeric n1 m1 e1 + numeric n2 m2 e2) ∧
    (∃ n m e, fpProd (.fin n1 m1 e1) (.fin n2 m2 e2) = (.fin n m e, 0) ∧
      numeric n m e = numeric n1 m1 e1 * numeric n2 m2 e2)

/-- Rounding a magnitude m 2^e to a multiple of 2^q, for a value with sign `neg` (R55): the multiple is the one that the mode
names, and the inexact flag says whether it differs. -/
def Obligations.RoundingModes : Prop :=
  ∀ (neg : Bool) (m : Nat) (e q : Int),
    let v : ℚ := m * 2 ^ e
    let at_ (mode : RMode) : ℚ := (roundAt mode neg m e q).1 * 2 ^ q
    (∀ mode, (roundAt mode neg m e q).2 = true ↔ at_ .rtz ≠ v) ∧
    (at_ .rtz ≤ v ∧ v < at_ .rtz + 2 ^ q) ∧
    (at_ .rdn = if neg = true ∧ at_ .rtz ≠ v then at_ .rtz + 2 ^ q else at_ .rtz) ∧
    (at_ .rup = if neg = false ∧ at_ .rtz ≠ v then at_ .rtz + 2 ^ q else at_ .rtz) ∧
    (at_ .rne = if v < at_ .rtz + 2 ^ q / 2 ∨ (v = at_ .rtz + 2 ^ q / 2 ∧ (roundAt .rtz neg m e q).1 % 2 = 0) then at_ .rtz
      else at_ .rtz + 2 ^ q) ∧
    (at_ .rna = if v < at_ .rtz + 2 ^ q / 2 then at_ .rtz else at_ .rtz + 2 ^ q)

/-- Packed 16-bit arithmetic (R110), conversions (R111, R112, R58), the clamp (R114) and VDOT (R117). -/
def Obligations.PackedArithmetic : Prop :=
  ∀ (d : BitVec 8) (a b : Src) (imm : BitVec 16) (m : Rnd) (f16 : Bool) (c : Ctl),
    let fmt : FpFmt := if f16 then fmtF16 else fmtBF16
    let mode (x : Issue) : RMode := modeOf m x.d.rmode 0
    let dyn (x : Issue) : RMode := rmodeOf x.d.rmode
    let ea (x : Issue) (j l : Nat) : Nat := ((src32 x a j).extractLsb' (16 * l) 16).toNat
    let eb (x : Issue) (j l : Nat) : Nat := ((src32 x b j).extractLsb' (16 * l) 16).toNat
    let ed (x : Issue) (j l : Nat) : Nat := ((oldReg x d j).extractLsb' (16 * l) 16).toNat
    Completes (.hadd m f16 d a b c) Always (ResultF 6 d fun x j => both fun l => rounded fmt (mode x) [ea x j l, eb x j l]
      (fpSum (mode x) (fmt.value (ea x j l)) (fmt.value (eb x j l)))) ∧
    Completes (.hmul m f16 d a b c) Always (ResultF 6 d fun x j => both fun l => rounded fmt (mode x) [ea x j l, eb x j l]
      (fpProd (fmt.value (ea x j l)) (fmt.value (eb x j l)))) ∧
    Completes (.hmac m f16 d a b c) Always (ResultF 6 d fun x j => both fun l => fused fmt (mode x) (ed x j l) (ea x j l) (eb x j l)) ∧
    (∀ f, Completes (.hmnx f f16 d a b c) Always (ResultF 4 d fun x j => both fun l => fpMnm fmt f (ea x j l) (eb x j l))) ∧
    Completes (.hmuliBf16x2 d a imm c) Always (ResultF 6 d fun x j => both fun l => rounded fmtBF16 (dyn x) [ea x j l, imm.toNat]
      (fpProd (fmtBF16.value (ea x j l)) (fmtBF16.value imm.toNat))) ∧
    Completes (.hmuliF16x2 d a imm c) Always (ResultF 6 d fun x j => both fun l => rounded fmtF16 (dyn x) [ea x j l, imm.toNat]
      (fpProd (fmtF16.value (ea x j l)) (fmtF16.value imm.toNat))) ∧
    Completes (.qclmp d a imm c) Always (Result32 4 d fun x j => fourBytes fun l =>
      clampE4M3 ((src32 x a j).extractLsb' (8 * l) 8).toNat (imm.extractLsb' 0 8).toNat (imm.extractLsb' 8 8).toNat) ∧
    (∀ f, Completes (.vdot f d a b c) Always (ResultF 6 d fun x j =>
      let p (w : Nat) : Int := ((List.range 4).map fun l =>
        ((src32 x a j).extractLsb' (w * l) w).toInt * ((src32 x b j).extractLsb' (w * l) w).toInt).sum
      let acc := (oldReg x d j).toNat
      match f with
      | .i8 => ((BitVec.ofInt 32 ((oldReg x d j).toInt + p 8)).toNat, 0)
      | .mx8 => blockSum acc x j (p 8)
      | .mx6 => blockSum acc x j (p 6)
      | .mx4 => blockSum acc x j (p 4))) ∧
    (∀ bs : BitVec 2, Completes (.mxsc bs a c) Always (ToScale 4 fun x => ofBytes 32 ((List.range 4).map fun j =>
      if 32 * x.d.idx + 8 * j < (x.g.g + 3) / 4 * 4 then (src32 x a (8 * j)).extractLsb' (8 * bs.toNat) 8 else 0)))

/-- CVT COMPLETES (R111, R112), in every form: the element read, its conversion, and where it is placed; a stochastic form takes
its random value from SRSTATE and the lane of the group, and advances SRSTATE (R58).

WHAT A CONVERSION GIVES (R56, R112): a finite number is rounded once into a floating-point format; a NaN becomes the canonical one and an
infinity stays one, or saturates, as R56 tells; into an integer type the rounded value, or what R56 gives outside its range, with NV;
an integer is rounded once into FP32. -/
def Obligations.Conversion : Prop :=
  (
  ∀ (d : BitVec 8) (a : Src) (m : Rnd) (sat : Bool) (j : BitVec 3) (p : BitVec 6) (c : Ctl),
    let mode (x : Issue) (l : Nat) : RMode := modeOf m x.d.rmode (srNext x.d.srstate (32 * x.d.idx + l) 0)
    let source (x : Issue) (l : Nat) : Nat :=
      if cvtSrcWidth p < 32 then (src32 x a l).toNat / 2 ^ (cvtSrcWidth p * (if cvtDstWidth p < 32 then 0 else j.toNat)) % 2 ^ cvtSrcWidth p
      else if cvtSrcWidth p = 64 then (src64 x a l).toNat else (src32 x a l).toNat
    let value (x : Issue) (l : Nat) : Nat × BitVec 5 := cvtValue p (mode x l) sat (source x l)
    let placed (x : Issue) (l : Nat) : DWord :=
      if cvtDstWidth p < 32 then
        (putField (oldReg x d l) (cvtDstWidth p * j.toNat) (cvtDstWidth p) (value x l).1).setWidth 64
      else BitVec.ofNat 64 (value x l).1
    (m ≠ .sr → Completes (.cvt m sat d a j p c) Always
      (Result 6 (toReg d (if cvtDstWidth p = 64 then 2 else 1)) inLanes placed fun x l => (value x l).2)) ∧
    (m = .sr → Completes (.cvt m sat d a j p c) Always fun x s t =>
      let x' := { x with d := { x.d with srstate := x.d.srstate + 0x6D2B79F5 } }
      ∃ d' y, Issued x t d' (x.d.pc + 8) ∧ Kept x' s t d' ∧ Plain x d' ∧
        Pending x d' 6 (toReg d (if cvtDstWidth p = 64 then 2 else 1) x) x.act (placed x) (fun l => (value x l).2) y)) ∧
  (
  ∀ (p : BitVec 6) (mode : RMode) (sat : Bool) (x : Nat) (neg : Bool) (m : Nat) (e : Int),
    let src : FpFmt := fmtOf (p.toNat % 6)
    let dst : FpFmt := fmtOf (p.toNat / 6)
    let r : Nat × BitVec 5 := cvtValue p mode sat x
    (p.toNat ≤ 0x23 → src.value x = .fin neg m e → r = roundTo dst mode sat (.fin neg m e)) ∧
    (p.toNat ≤ 0x23 → src.isNan x = true →
      r = if p.toNat / 6 = 5 then (0, 16) else (dst.nanEnc.getD 0, if src.isSnan x = true then 16 else 0)) ∧
    (p.toNat ≤ 0x23 → src.value x = .inf neg →
      r = if sat = true ∨ p.toNat / 6 = 5 then (dst.signed neg dst.maxEnc, 0)
        else if p.toNat / 6 = 3 then (0x7F, 16) else (dst.signed neg (dst.infEnc.getD 0), 0)) ∧
    (∀ n < 8, p.toNat = 0x24 + n →
      let w : Nat := if n < 2 then 8 else if n < 4 then 16 else if n < 6 then 32 else 64
      let lo : Int := if n % 2 = 0 then -2 ^ (w - 1) else 0
      let hi : Int := if n % 2 = 0 then 2 ^ (w - 1) - 1 else 2 ^ w - 1
      let word (i : Int) : Nat := (BitVec.ofInt w i).toNat
      let near : Int := (if neg = true then -1 else 1) * (roundAt mode neg m e 0).1
      (fmtF32.isNan x = true → r = (word (if sat = true then 0 else lo), 16)) ∧
      (fmtF32.value x = .inf neg → r = (word (if sat = false then lo else if neg = true then lo else hi), 16)) ∧
      (fmtF32.value x = .fin neg m e → r =
        if hi < near then (word (if sat = true then hi else lo), 16)
        else if near < lo then (word lo, 16)
        else (word near, if (roundAt mode neg m e 0).2 = true then 1 else 0))) ∧
    (∀ n < 8, p.toNat = 0x2C + n →
      let w : Nat := if n < 2 then 8 else if n < 4 then 16 else if n < 6 then 32 else 64
      let v : Int := if n % 2 = 0 then (BitVec.ofNat w x).toInt else x
      x < 2 ^ w → r = roundTo fmtF32 mode false (.fin (v < 0) v.natAbs 0)))

/-- SFU, IDIV and FDIV (R118-R122) become outstanding with the result of their operands: the approximation within its bound,
the quotient or remainder, the quotient rounded once.

An approximation of the special functions keeps the bound of R118, whatever the device's value is; where the function's value is a
multiple of a power of two, the result raises no flag exactly when it is that value. -/
def Obligations.SlowArithmetic : Prop :=
  (
  ∀ (d : BitVec 8) (a b : Src) (m : Rnd) (c : Ctl),
    let va (x : Issue) (j : Nat) : Nat := (src32 x a j).toNat
    (∀ f, Completes (.sfuF32 f d a c) Always (Slow d fun x j => sfuValue f (rmodeOf x.d.rmode) (va x j))) ∧
    (∀ f, Completes (.sfuBf16x2 f d a c) Always (Slow d fun x j => both fun l =>
      bsfuValue f ((src32 x a j).extractLsb' (16 * l) 16).toNat)) ∧
    Completes (.idiv .divI d a b c) Always (Slow d fun x j =>
      ((if src32 x b j = 0 then 0xFFFFFFFF else BitVec.ofInt 32 ((src32 x a j).toInt.tdiv (src32 x b j).toInt) : Word).toNat, 0)) ∧
    Completes (.idiv .divU d a b c) Always (Slow d fun x j =>
      ((if src32 x b j = 0 then 0xFFFFFFFF else BitVec.ofNat 32 ((src32 x a j).toNat / (src32 x b j).toNat) : Word).toNat, 0)) ∧
    Completes (.idiv .remI d a b c) Always (Slow d fun x j =>
      ((if src32 x b j = 0 then src32 x a j else BitVec.ofInt 32 ((src32 x a j).toInt.tmod (src32 x b j).toInt)).toNat, 0)) ∧
    Completes (.idiv .remU d a b c) Always (Slow d fun x j =>
      ((if src32 x b j = 0 then src32 x a j else BitVec.ofNat 32 ((src32 x a j).toNat % (src32 x b j).toNat)).toNat, 0)) ∧
    Completes (.fdivF32 m d a b c) Always (Slow d fun x j => fpDiv fmtF32 (modeOf m x.d.rmode 0) (va x j) (src32 x b j).toNat)) ∧
  (
  ∀ (f : SfuFn) (a : Nat) (neg : Bool) (m : Nat) (e : Int) (relative : Bool) (n : Nat), f ≠ .sqrt →
    sfuSpec fmtF32 f a = .near neg m e relative n →
    withinBound (fmtF32.value (sfuValue f .rne a).1) neg m e relative n = true ∨
      (sfuValue f .rne a).1 = (roundTo fmtF32 .rne false (.fin neg m e)).1) ∧
  (
  ∀ (f : SfuFn) (a : Nat) (neg : Bool) (m : Nat) (e : Int) (relative : Bool) (n : Nat), f ≠ .sqrt →
    sfuSpec fmtF32 f a = .dyadic neg m e relative n →
    (withinBound (fmtF32.value (sfuValue f .rne a).1) neg m e relative n = true ∨
      (sfuValue f .rne a).1 = (roundTo fmtF32 .rne false (.fin neg m e)).1) ∧
    ((sfuValue f .rne a).2 = 0 ↔ fmtF32.isValue (sfuValue f .rne a).1 neg m e = true))

/-! ### Exchange, tiles, landings -/

/-- LXCH, QX, VOTE and REDX (R138-R141). -/
def Obligations.LaneExchange : Prop :=
  ∀ (d : BitVec 8) (a b : Src) (c : Ctl),
    let n (x : Issue) (j : Nat) : Nat := (src32 x b j).toNat % 32
    let read (x : Issue) (j : Nat) : Word := if 32 * x.d.idx + j < (x.g.g + 3) / 4 * 4 then src32 x a j else 0
    Completes (.lxch .from d a b c) Always (Result32 4 d fun x j => read x (n x j)) ∧
    Completes (.lxch .back d a b c) Always (Result32 4 d fun x j => read x ((j + 32 - n x j) % 32)) ∧
    Completes (.lxch .ahead d a b c) Always (Result32 4 d fun x j => read x ((j + n x j) % 32)) ∧
    Completes (.lxch .flip d a b c) Always (Result32 4 d fun x j => read x (j ^^^ n x j)) ∧
    Completes (.qx .h d a b c) Always (Result32 4 d fun x j => src32 x a (j ^^^ 1)) ∧
    Completes (.qx .v d a b c) Always (Result32 4 d fun x j => src32 x a (j ^^^ 2)) ∧
    Completes (.qx .d d a b c) Always (Result32 4 d fun x j => src32 x a (j ^^^ 3)) ∧
    Completes (.qx .bc d a b c) Always (Result32 4 d fun x j => src32 x a (4 * (j / 4) + (src32 x b j).toNat % 4)) ∧
    Completes (.vote .all d a c) Always (ResultK 4 d fun x _ => (List.range 32).all fun l => !counts x l || src32 x a l ≠ 0) ∧
    Completes (.vote .any d a c) Always (ResultK 4 d fun x _ => (List.range 32).any fun l => counts x l && src32 x a l ≠ 0) ∧
    Completes (.vote .uni d a c) Always (ResultK 4 d fun x _ =>
      (List.range 32).all fun l => (List.range 32).all fun l' => !counts x l || !counts x l' || src32 x a l = src32 x a l') ∧
    Completes (.vote .ballot d a c) Always (Whole 4 d (fun x => (maskOf fun l => counts x l && src32 x a l ≠ 0).setWidth 64) noFlags) ∧
    ∀ f, Completes (.redx f d a c) Always (Whole 8 d
      (fun x => BitVec.ofNat 64 (treeSum f (fun l => if counts x l then (src32 x a l).toNat else redxIdentity f) 5 0).1)
      fun x _ => (treeSum f (fun l => if counts x l then (src32 x a l).toNat else redxIdentity f) 5 0).2)

/-- Indexed registers (R142): VGETI and VPUTI become outstanding with the lanes' indices, VPUTI with its data as read at issue; a lane whose register is not
declared raises REG_INDEX and nothing happens. -/
def Obligations.IndexedRegisters : Prop :=
  ∀ (d : BitVec 8) (a : Src) (imm : BitVec 16) (c : Ctl),
    let reach (x : Issue) (_ : State) : Prop := ∀ j < 32, inMask x.act j = true →
      vNamed x.d x.g (imm.toNat % 256 + (src32 x a j).toNat) 1 = true
    let beyond_ (x : Issue) (s : State) : Prop := ¬reach x s
    Completes (.vgeti d a imm c) reach (Starts (fun x _ => .vget (imm.toNat % 256) (lanesOf fun j => src32 x a j))
      (fun x => .vec (vStore x.d.sysMode d.toNat) 1) inAct) ∧
    Completes (.vputi d a imm c) reach (Starts (fun x _ => .vput (imm.toNat % 256) (lanesOf fun j => src32 x a j)
      (lanesOf fun j => lane (x.d.vAt (vStore x.d.sysMode d.toNat)) j)) (fun _ => .nothing) inAct) ∧
    TrapsWhen (.vgeti d a imm c) beyond_ (fun _ _ => { code := 0x04 }) ∧
    TrapsWhen (.vputi d a imm c) beyond_ (fun _ _ => { code := 0x04 })

/-- Tiles (R143-R148): what each form writes of its tile, and its traps. An element reads narrowed to the size and the shape of its tile
(R147); TOP.ZERO keeps the shape. -/
def Obligations.Tiles : Prop :=
  ∀ (t u : BitVec 3) (d : BitVec 8) (a b : Src) (c : Ctl),
    let shape (x : Issue) (n : BitVec 3) : Word := (x.d.tile n.toNat).shape
    let rows (x : Issue) (n : BitVec 3) : Nat := (shape x n).toNat % 32
    let cols (x : Issue) (n : BitVec 3) : Nat := (shape x n).toNat / 256 % 32
    let narrow (x : Issue) (n : BitVec 3) (v : Word) : Word := if (shape x n).getLsbD 16 then v &&& 0xFFFF else v
    let elem (x : Issue) (n : BitVec 3) (r k : Nat) : Word := if r < 16 ∧ k < 16 ∧ r < rows x n ∧ k < cols x n then
      narrow x n ((tblGet? (x.d.tile n.toNat).elems (16 * r + k)).getD 0) else 0
    let set (x : Issue) (n : BitVec 3) : Prop := rows x n ≠ 0
    let legal (x : Issue) (n : BitVec 3) : Prop := rows x n ≤ 16 ∧ cols x n ≤ 16
    let release (x : Issue) : Prop := (srcU x a).toNat % 32 = 0 ∧ srcU x a &&& 0xFFFEE0E0 = 0
    let fits (x : Issue) : Prop := srcU x a &&& 0xFFFEE0E0 = 0 ∧ 1 ≤ (srcU x a).toNat % 32 ∧ (srcU x a).toNat % 32 ≤ 16 ∧
      1 ≤ (srcU x a).toNat / 256 % 32 ∧ (srcU x a).toNat / 256 % 32 ≤ 16
    Completes (.tcfg t a c) (fun x _ => release x) (ToTile t (fun _ => some 0) true fun _ _ _ => none) ∧
    Completes (.tcfg t a c) (fun x _ => fits x) (ToTile t (fun x => some (srcU x a)) false fun _ _ _ => none) ∧
    TrapsWhen (.tcfg t a c) (fun x _ => ¬release x ∧ ¬fits x) (fun _ _ => { code := 0x0B }) ∧
    Completes (.tmvr t a b c) (fun x _ => set x t ∧ legal x t ∧ (srcU x b).toNat < rows x t) (ToTile t (fun _ => none) false fun x r k =>
      if r = (srcU x b).toNat ∧ k < cols x t ∧ inMask x.act k = true then some (narrow x t (src32 x a k)) else none) ∧
    Completes (.tmvc t a b c) (fun x _ => set x t ∧ legal x t ∧ (srcU x b).toNat < cols x t) (ToTile t (fun _ => none) false fun x r k =>
      if k = (srcU x b).toNat ∧ r < rows x t ∧ inMask x.act r = true then some (narrow x t (src32 x a r)) else none) ∧
    Completes (.trdr d u b c) (fun x _ => set x u ∧ (srcU x b).toNat < rows x u) (Result32 4 d fun x j =>
      elem x u (srcU x b).toNat j) ∧
    Completes (.trdc d u b c) (fun x _ => set x u ∧ (srcU x b).toNat < cols x u) (Result32 4 d fun x j =>
      elem x u j (srcU x b).toNat) ∧
    Completes (.topZero t c) (fun x _ => set x t) (ToTile t (fun _ => none) false fun _ _ _ => some 0) ∧
    Completes (.topTrans t u c) (fun x _ => set x u) (ToTile t
      (fun x => some (putField (putField (shape x u) 0 5 (cols x u)) 8 5 (rows x u))) false fun x r k => some (elem x u k r)) ∧
    Completes (.topRel t c) Always (ToTile t (fun _ => some 0) true fun _ _ _ => none) ∧
    Completes (.topCopy t u c) (fun x _ => set x u) (ToTile t (fun x => some (shape x u)) false fun x r k => some (elem x u r k)) ∧
    TrapsWhen (.tmvr t a b c) (fun x _ => ¬set x t) (fun _ _ => { code := 0x0A }) ∧
    TrapsWhen (.tmvr t a b c) (fun x _ => set x t ∧ rows x t ≤ (srcU x b).toNat) (fun _ _ => { code := 0x0C }) ∧
    TrapsWhen (.tmvc t a b c) (fun x _ => ¬set x t) (fun _ _ => { code := 0x0A }) ∧
    TrapsWhen (.tmvc t a b c) (fun x _ => set x t ∧ cols x t ≤ (srcU x b).toNat) (fun _ _ => { code := 0x0C }) ∧
    TrapsWhen (.trdr d u b c) (fun x _ => ¬set x u) (fun _ _ => { code := 0x0A }) ∧
    TrapsWhen (.trdr d u b c) (fun x _ => set x u ∧ rows x u ≤ (srcU x b).toNat) (fun _ _ => { code := 0x0C }) ∧
    TrapsWhen (.trdc d u b c) (fun x _ => ¬set x u) (fun _ _ => { code := 0x0A }) ∧
    TrapsWhen (.trdc d u b c) (fun x _ => set x u ∧ cols x u ≤ (srcU x b).toNat) (fun _ _ => { code := 0x0C }) ∧
    TrapsWhen (.topZero t c) (fun x _ => ¬set x t) (fun _ _ => { code := 0x0A }) ∧
    TrapsWhen (.topTrans t u c) (fun x _ => ¬set x u) (fun _ _ => { code := 0x0A }) ∧
    TrapsWhen (.topCopy t u c) (fun x _ => ¬set x u) (fun _ _ => { code := 0x0A })

/-- A LANDING (R27, R29, R62, R74, R76): when the landing count reaches it, the lanes of its mask of the register it names take
its value, k0 discards it, the latch takes it while its swath is open, and its flags are ORed into FLG; other lanes keep theirs. -/
def Obligations.LandingWrites : Prop :=
  ∀ (s : State) (k : Nat) (d : Drill) (y : Landing), s.drill? k = some d → d.landings = [y] → y.due ≤ d.n + 1 →
    ∃ d', (s.advance k).drill? k = some d' ∧ d'.n = d.n + 1 ∧ d'.landings = [] ∧
      (∀ r j, j < 32 → y.into = .vec r 1 → y.noReg = false →
        lane (d'.vAt r) j = if inMask y.mask j then (lane y.val j).setWidth 32 else lane (d.vAt r) j) ∧
      (∀ r j, j < 32 → y.into = .vec r 2 → y.noReg = false → inMask y.mask j = true →
        lane (d'.vAt r) j = (lane y.val j).setWidth 32 ∧ lane (d'.vAt (r + 1)) j = (lane y.val j).extractLsb' 32 32) ∧
      (∀ r, y.into = .uni r 1 → y.noReg = false → d'.sAt r = if y.mask = 0 then d.sAt r else (lane y.val 0).setWidth 32) ∧
      (∀ r, y.into = .uni r 2 → y.noReg = false → y.mask ≠ 0 →
        d'.sAt r = (lane y.val 0).setWidth 32 ∧ d'.sAt (r + 1) = (lane y.val 0).extractLsb' 32 32) ∧
      (∀ r j, j < 32 → y.into = .pred r → y.noReg = false → inMask (d'.kAt r) j =
        if r = 0 then true else if inMask y.mask j then (lane y.val j).getLsbD 0 else inMask (d.kAt r) j) ∧
      (y.noReg = true → writesSys y = false → d'.v = d.v ∧ d'.s = d.s ∧ d'.k = d.k) ∧
      (∀ l j, j < 32 → y.latch = some l → writesSys y = false → y.into.count ≠ 2 → lane (d'.latch l) j =
        if y.swath = d.swath ∧ inMask y.mask j = true then (lane y.val j).setWidth 32 else lane (d.latch l) j) ∧
      (∀ j, writesSys y = false → d'.flgAt j = (y.flags.filter (·.1 = j)).foldl (fun f p => f ||| p.2) (d.flgAt j))

/-! ### Traps and system registers -/

/-- TRAP ENTRY (R88, R89, R293, R294, R298): a precise trap of a drill in user mode whose outstanding results have come, where
TRAPVEC is set, goes to TRAPVEC in system mode: the record, the replay state and the bank are written; the current mask, the
mask stack and the user's registers stay, and what the target of a transfer still has to meet is kept for the return (R136). -/
def Obligations.TrapEntry : Prop :=
  ∀ (s : State) (k : Nat) (d : Drill) (g : Sys2Proof.Machine.Group) (c : Context) (t : TrapReq), s.drill? k = some d → s.group? d.gid = some g → s.ctx? g.ctx = some c → d.sysMode = false →
    d.drained = true → t.faults = [] → t.code ≠ 0x30 → t.code ≠ 0x32 → t.completed = false → c.trapvec ≠ 0 →
    ∃ d', (s.raise k t).drill? k = some d' ∧ d'.sysMode = true ∧ d'.routine = 0 ∧ d'.pc = c.trapvec ∧ d'.swathPc = c.trapvec ∧
      d'.idxInSwath = 0 ∧ d'.st = .ready ∧ d'.cm = d.cm ∧ d'.maskStack = d.maskStack ∧ d'.landings = [] ∧
      d'.needLand = none ∧ d'.landUser = d.needLand ∧
      d'.tcause = BitVec.ofNat 32 (t.sub * 2 ^ 24 + t.station * 2 ^ 20 + t.code) ∧ d'.tval = t.tval ∧ d'.tmask = t.mask.getD d.cm ∧
      d'.epc = t.epc.getD d.pc ∧ d'.xi = packXi true t.tkd d.idxInSwath d.swathPc ∧
      (∀ j < 8, (∀ y ∈ d.landings, landsAtSnapshot y = false ∨ y.latch = none) → tblGet d'.xl j (splat 0) = d.latch j) ∧
      (∀ j < 8, tblGet? d'.xp j = ((d.landings.filter fun y => !landsAtSnapshot y)[j]?).map (xpOf d.n)) ∧
      (d'.sAt 72 = (drillArea g c d.idx).setWidth 32 ∧ d'.sAt 73 = (drillArea g c d.idx).extractLsb' 32 32 ∧
        d'.sAt 74 = g.gsave.setWidth 32 ∧ d'.sAt 75 = g.gsave.extractLsb' 32 32 ∧ d'.sAt 76 = d'.tcause ∧
        d'.sAt 77 = BitVec.ofNat 32 (g.kcb.t * 2 ^ 24 + (g.kcb.s - 1) * 2 ^ 16 + (g.kcb.v - 1) * 2 ^ 8 + d.idx) ∧
        d'.sAt 78 = 0 ∧ d'.sAt 79 = 0 ∧ ∀ r, 256 ≤ r → r < 260 → ∀ j < 32, lane (d'.vAt r) j = 0) ∧
      (∀ r, r < 256 → d'.vAt r = d.vAt r) ∧ (∀ r, r < 72 → d'.sAt r = d.sAt r) ∧ (∀ r, d'.kAt r = d.kAt r)

/-- Where a trap parks (R84, R293, R295): with TRAPVEC 0, and for a system call, the drill stops until a hart answers; in system mode
any trap but a system call faults the context, with SAVE_FAULT in a save or restore routine and DOUBLE_TRAP elsewhere.

A precise trap waits until the results of earlier instructions have come (R88). -/
def Obligations.TrapParks : Prop :=
  (
  ∀ (s : State) (k : Nat) (d : Drill) (g : Sys2Proof.Machine.Group) (c : Context) (t : TrapReq), s.drill? k = some d → s.group? d.gid = some g → s.ctx? g.ctx = some c → d.drained = true →
    (d.sysMode = false → t.faults = [] → t.code ≠ 0x30 → t.code ≠ 0x32 → c.trapvec = 0 →
      ∃ d', (s.raise k t).drill? k = some d' ∧ d'.st = .parked ∧ d'.park = some (.syscall 1) ∧ d'.pc = d.pc ∧ d'.sysMode = false ∧
        d'.tcause = BitVec.ofNat 32 (t.sub * 2 ^ 24 + t.station * 2 ^ 20 + t.code) ∧ d'.epc = t.epc.getD d.pc) ∧
    (t.code = 0x30 → t.faults = [] →
      ∃ d', (s.raise k t).drill? k = some d' ∧ d'.st = .parked ∧ d'.park = some (.syscall 0 t.self) ∧ d'.sysMode = d.sysMode) ∧
    (d.sysMode = true → t.code ≠ 0x30 → (c.st = .active ∨ c.st = .preempting) →
      ∃ c', (s.raise k t).ctx? g.ctx = some c' ∧ c'.st = .faulted ∧ c'.fcode = if d.routine = 0 then 0x3F else 0x3E)) ∧
  (
  ∀ (s : State) (k : Nat) (d : Drill) (t : TrapReq), s.drill? k = some d → d.drained = false →
    ∃ d', (s.raise k t).drill? k = some d' ∧ d'.st = .stalled ∧ d'.stall = some .drain ∧ d'.trap = some t ∧
      d'.pc = d.pc ∧ d'.sysMode = d.sysMode ∧ d'.tcause = d.tcause ∧ rest (s.raise k t) = rest s)

/-- SYS.TRET (R89, R305): a routine's return leaves system mode; with XI.V = 1 the recorded swath goes on at XI.IDX, its latches
and landings back in place, which count from the issue of the resumed instruction, else a new swath starts at EPC. -/
def Obligations.TrapReturn : Prop :=
  ∀ (s : State) (k : Nat) (d : Drill), s.drill? k = some d →
    (xiV d.xi = true → ∃ d', (s.resume k).drill? k = some d' ∧ d'.st = .ready ∧ d'.swathPc = xiPc d.xi ∧ d'.idxInSwath = xiIdx d.xi ∧
      d'.pc = xiPc d.xi + BitVec.ofNat 64 (8 * xiIdx d.xi) ∧ d'.skipTk0 = xiTkd d.xi ∧ d'.xi.getLsbD 63 = false ∧
      (∀ j < 8, d'.latch j = tblGet d.xl j (splat 0)) ∧
      (∀ p ∈ d.xp, p.2.v = true → ∃ y ∈ d'.landings, y.due = d.n + p.2.rem ∧ y.val = p.2.val ∧ y.mask = p.2.mask ∧ y.flags = p.2.flags ∧
        y.noReg = p.2.nw ∧ y.swath = d'.swath) ∧ d'.resumed = true ∧ d'.landings.length = (d.xp.filter fun p => p.2.v).length) ∧
    (xiV d.xi = false → ∃ d', (s.resume k).drill? k = some d' ∧ d'.st = .ready ∧ d'.pc = d.epc ∧ d'.swathPc = d.epc ∧ d'.idxInSwath = 0 ∧
      d'.resumed = false ∧ d'.landings = []) ∧
    ∀ d', (s.resume k).drill? k = some d' → d'.cm = d.cm ∧ d'.maskStack = d.maskStack ∧ d'.v = d.v ∧ d'.s = d.s ∧ d'.k = d.k ∧
      d'.swath = d.swath + 1 ∧ rest (s.resume k) = rest s

/-- SYS (R187, R303-R306): a system call and TRAPI complete and then trap, at the next pc; TRET returns; UIRET swaps the banks back,
pops the mask and goes to UIEPC; WAITI goes on once an interrupt is pending, delivery is off or its deadline has passed. -/
def Obligations.SystemCalls : Prop :=
  ∀ (a : Src) (n : BitVec 8) (c : Ctl),
    Completes (.sysSysc a c) Always (fun x s t => ∃ s1 d1, t = s1.raise x.k { code := 0x30, completed := true, mask := some x.d.cm, args := srcWindow x a ++ [match a with | .s m => BitVec.ofNat 32 (m.toNat / 8) | _ => 0], self := some (x.d.pc, x.d.swathPc, x.d.idxInSwath) } ∧ Completed x s s1 d1) ∧
    Completes (.sysTrapi n c) Always (fun x s t => ∃ s1 d1, t = s1.raise x.k { code := 0x2B, sub := n.toNat, completed := true } ∧
      Completed x s s1 d1) ∧
    Completes (.sysTret c) (fun x _ => (∀ y ∈ x.d.landings, writesSys y = false) ∧
        (xiV x.d.xi = true → ∀ p ∈ x.d.xp, xpOk { x.d with sysMode := false } x.g p.2 = true)) (fun x s t =>
      ∃ d', t.drill? x.k = some d' ∧ d'.sysMode = false ∧ d'.routine = 0 ∧ d'.st = .ready ∧ d'.cm = x.d.cm ∧ d'.maskStack = x.d.maskStack ∧
        d'.needLand = x.d.landUser ∧
        (x.d.landings = [] → d'.v = x.d.v ∧ d'.s = x.d.s ∧ d'.k = x.d.k) ∧ rest t = rest s ∧
        d'.pc = (if xiV x.d.xi then xiPc x.d.xi + BitVec.ofNat 64 (8 * xiIdx x.d.xi) else x.d.epc) ∧
        d'.idxInSwath = (if xiV x.d.xi then xiIdx x.d.xi else 0)) ∧
    Completes (.sysUiret c) (fun x _ => x.d.uiAct = true ∧ x.d.maskStack ≠ []) (fun x s t =>
      ∃ d', t.drill? x.k = some d' ∧ d'.pc = x.d.uiepc ∧ d'.uiAct = false ∧ some d'.cm = x.d.maskStack.head? ∧
        d'.maskStack = x.d.maskStack.tail ∧ d'.needLand = x.d.landUi ∧ rest t = rest s ∧
        (x.d.landings = [] → (∀ j < 8, d'.sAt j = x.d.sAt (64 + j) ∧ d'.sAt (64 + j) = x.d.sAt j) ∧
          (∀ r, 8 ≤ r → (r < 64 ∨ 72 ≤ r) → d'.sAt r = x.d.sAt r) ∧ d'.v = x.d.v ∧ d'.k = x.d.k)) ∧
    TrapsWhen (.sysUiret c) (fun x _ => x.d.uiAct = false) (fun _ _ => { code := 0x1B }) ∧
    TrapsWhen (.sysUiret c) (fun x _ => x.d.uiAct = true ∧ x.d.maskStack = []) (fun _ _ => { code := 0x09 }) ∧
    CompletesLong (.sysWaiti a c) (fun x s => x.d.uiEn = false ∨ x.d.uiPend > 0 ∨ (srcU64 x a ≠ 0 ∧ (srcU64 x a).toNat ≤ s.gtime.toNat))
      (GoesOn after)

/-- SRD and SWR (R299-R301): SRD's result is the register as read at issue, a lane at a time for FLG; SWR's write is pending
with the value and the mode it issued in, and SWR itself completes one cycle after issue: its slot is clear and its token signalled
(R25, R30).

What SWR's landing writes (R62, R83, R185, R299, R301, R308): the fields of each register, reserved ones as zero; modes 5 to 7
leave RMODE as it is; in user mode UIMASK's fields but EN stay. -/
def Obligations.SystemRegisters : Prop :=
  (
  ∀ (d : BitVec 8) (n : BitVec 9) (b : Src) (c : Ctl),
    Completes (.srd d n c) Always (fun x s t =>
      Result 4 (toReg d 1) inLanes (fun x j => (sysRead s x n.toNat j).setWidth 64) noFlags x s t) ∧
    Completes (.swr n b c) Always (fun x s t => ∃ d' y, Issued x t d' (x.d.pc + 8) ∧ Kept x s t d' ∧ Plain x d' ∧ y ∈ d'.landings ∧
      y.due = x.d.n + 4 ∧ y.into = .sys n.toNat x.d.sysMode ∧ y.mask = x.d.cm ∧ y.slot = 0 ∧ y.tk1 = 0 ∧
      (∀ j < 32, lane y.val j = (src32 x b j).setWidth 64) ∧
      (dueNow x.d = [] → (∀ j, d'.count j = x.d.count j) ∧
        (t.group? x.d.gid).map (·.tok) = some (signalTokens x.g.tok 1 x.i.ctl.tk1).1)) ∧
    ∀ (s : State) (x : Issue) (j : Nat),
      sysRead s x 0x000 j = (x.d.flgAt j).setWidth 32 ∧ sysRead s x 0x001 j = x.d.rmode.setWidth 32 ∧
      sysRead s x 0x002 j = x.d.srstate ∧ sysRead s x 0x003 j = x.d.mxbase ∧ sysRead s x 0x004 j = x.d.mxsl ∧
      sysRead s x 0x005 j = BitVec.ofNat 32 (x.d.uiPo.toNat * 2 ^ 17 + x.d.uiPi.toNat * 2 ^ 16 + x.d.uiPend % 256 * 2 ^ 8 +
        x.d.uiAct.toNat * 2 + x.d.uiEn.toNat) ∧
      sysRead s x 0x007 j ++ sysRead s x 0x006 j = x.d.uivec ∧ sysRead s x 0x009 j ++ sysRead s x 0x008 j = x.d.uiepc ∧
      sysRead s x 0x00B j ++ sysRead s x 0x00A j = (s.core (drillCore x.k)).clk ∧
      sysRead s x 0x00D j ++ sysRead s x 0x00C j = s.gtime ∧ sysRead s x 0x00E j = x.g.tok ∧
      (∀ m < 8, (sysRead s x 0x00F j).getLsbD m = (x.d.tile m).dirty ∧ sysRead s x (0x010 + m) j = (x.d.tile m).shape ∧
        sysRead s x (0x030 + m) j = x.d.sAt (64 + m)) ∧
      sysRead s x 0x018 j = BitVec.ofNat 32 (x.g.lsBase % 2 ^ 19) ∧ sysRead s x 0x019 j = BitVec.ofNat 32 x.d.maskStack.length ∧
      (∀ cx, s.ctx? x.g.ctx = some cx → (sysRead s x 0x01B j ++ sysRead s x 0x01A j : BitVec 64) = BitVec.ofNat 64 cx.budget) ∧
      sysRead s x 0x021 j ++ sysRead s x 0x020 j = x.d.xi ∧ sysRead s x 0x023 j ++ sysRead s x 0x022 j = x.d.epc ∧
      sysRead s x 0x024 j = x.d.tcause ∧ sysRead s x 0x025 j = x.d.tmask ∧ sysRead s x 0x027 j ++ sysRead s x 0x026 j = x.d.tval ∧
      sysRead s x 0x029 j ++ sysRead s x 0x028 j = x.g.gsave ∧
      sysRead s x 0x02A j = BitVec.ofNat 32 (x.d.sysMode.toNat + 2 * x.d.routine)) ∧
  (
  ∀ (s : State) (k : Nat) (d : Drill) (b : Bool) (m : Mask) (v : DLanes), s.drill? k = some d →
    let w : Word := (lane v 0).setWidth 32
    let w64 : DWord := w.setWidth 64
    let at_ (n : Nat) (P : Drill → Prop) : Prop := ∃ d', (s.sysWrite k n b m v).drill? k = some d' ∧ P d' ∧ d'.v = d.v ∧ d'.k = d.k ∧ d'.cm = d.cm ∧
      rest (s.sysWrite k n b m v) = rest s
    at_ 0x000 (fun d' => ∀ j < 32, d'.flgAt j = if inMask m j then (lane v j).setWidth 5 else d.flgAt j) ∧
    at_ 0x001 (fun d' => d'.rmode = if w.toNat % 8 < 5 then w.setWidth 3 else d.rmode) ∧
    at_ 0x002 (fun d' => d'.srstate = w) ∧ at_ 0x003 (fun d' => d'.mxbase = w &&& 0xFFFF) ∧ at_ 0x004 (fun d' => d'.mxsl = w) ∧
    at_ 0x005 (fun d' => d'.uiEn = w.getLsbD 0 ∧
      (b = false → d'.uiAct = d.uiAct ∧ d'.uiPend = d.uiPend ∧ d'.uiPi = d.uiPi ∧ d'.uiPo = d.uiPo) ∧
      (b = true → d'.uiAct = w.getLsbD 1 ∧ d'.uiPend = w.toNat / 256 % 256 ∧ d'.uiPi = w.getLsbD 16 ∧ d'.uiPo = w.getLsbD 17)) ∧
    at_ 0x006 (fun d' => d'.uivec = (d.uivec &&& 0xFFFFFFFF00000000) ||| (w64 &&& 0xFFFFFFF8)) ∧
    at_ 0x00F (fun d' => ∀ t < 8, (d'.tile t).dirty = w.getLsbD t ∧ (d'.tile t).shape = (d.tile t).shape ∧ (d'.tile t).elems = (d.tile t).elems) ∧
    (∀ t < 8, at_ (0x010 + t) (fun d' => (d'.tile t).shape = w &&& 0x00011F1F ∧ (d'.tile t).dirty = (d.tile t).dirty)) ∧
    at_ 0x022 (fun d' => d'.epc = (d.epc &&& 0xFFFFFFFF00000000) ||| w64) ∧
    at_ 0x023 (fun d' => d'.epc = (d.epc &&& 0xFFFFFFFF) ||| (w64 <<< 32)) ∧
    at_ 0x024 (fun d' => d'.tcause = w &&& 0xFFF080FF) ∧ at_ 0x025 (fun d' => d'.tmask = w) ∧
    (∀ j < 8, at_ (0x030 + j) (fun d' => d'.sAt (64 + j) = w ∧ ∀ r, r ≠ 64 + j → d'.sAt r = d.sAt r)) ∧
    (∀ g, s.group? d.gid = some g → (s.sysWrite k 0x00E b m v).group? d.gid = some { g with tok := w }) ∧
    ∀ g cx, s.group? d.gid = some g → s.ctx? g.ctx = some cx →
      (s.sysWrite k 0x01A b m v).ctx? g.ctx = some { cx with budget := cx.budget / 2 ^ 32 * 2 ^ 32 + w.toNat })

/-- SVLD and the tile images (R92, R149, R307): a save enters the store queue with the whole block, cut at pages; a load, whose
block can be read, puts the block's registers in place at once. A remote block is read by accesses that are outstanding until the
port answers (R202); `o` is the operation that they belong to. An address that fails its checks traps, and a block that is no image
raises ILLEGAL_REPLAY or TILE_SHAPE (R5, R92, R149). -/
def Obligations.SaveAndLoad : Prop :=
  ∀ (a : Src) (n : BitVec 3) (c : Ctl) (parts : List (LaneAddr × Nat)) (s1 : State) (o : VarOp) (tr : TrapReq),
    let far (x : Issue) : List LaneAddr := parts.flatMap (blockUnits (srcU64 x a))
    let clear (x : Issue) : Prop := x.d.clearFor s1.seq = true ∧
      ((∃ p ∈ parts, classOf p.1.pa = .uncached) → x.d.uncachedDone s1.seq = true) ∧
      ∀ p ∈ parts, s1.gateAt (drillChip x.k) false p.1.pa ≠ .hold ∧ ∀ l ∈ linesOf p.1.pa p.2, s1.poisoned (128 * l) = false
    let may (w : Bool) (len : Issue → Nat) (x : Issue) (s : State) : Prop :=
      checkBlock x s { w := w, r := !w } (srcU64 x a) (len x) = .ok (parts, s1) ∧
      (w = false → clear x ∧ (far x = [] ∨ (x.d.ops.find? (fun o => o.kind = .block (far x)) = some o ∧
        ∀ l ∈ far x, ∃ b, s1.remoteLane o l = some (some b))))
    let image (x : Issue) : List Byte := parts.flatMap fun p =>
      if classOf p.1.pa = .remote then s1.remotePart o (blockUnits (srcU64 x a) p) p.2 else s1.readFor (drillCore x.k) p.1.pa p.2
    let faults (i : Instr) (w : Bool) (len : Issue → Nat) : Prop := TrapsWhen i
      (fun x s => tr.code ≠ 0 ∧ checkBlock x s { w := w, r := !w } (srcU64 x a) (len x) = .error tr) fun _ _ => tr
    let saves (block : Issue → List Byte) (x : Issue) (_ t : State) : Prop :=
      Enqueues (fun _ _ => .store (cutBlock parts (block x))) x s1 t
    let loads (f : Issue → Drill → Drill) (x : Issue) (_ t : State) : Prop :=
      let s2 := parts.foldl (fun s p => s.fillFor (drillCore x.k) p.1.pa p.2) s1
      let x' := { x with d := f x x.d }
      ∃ d', Issued x t d' (x.d.pc + 8) ∧ Kept x' { s2 with tick := s2.tick + 1 } t d' ∧ d'.cm = x'.d.cm ∧ d'.maskStack = x'.d.maskStack ∧
        d'.storeQueue = x'.d.storeQueue ∧ d'.ops = if far x = [] then x.d.ops else x.d.ops.filter fun o => o.kind ≠ .block (far x)
    Completes (.svldSavev a c) (may true fun x => 128 * x.g.kcb.v) (saves fun x =>
      (List.range x.g.kcb.v).flatMap fun r => laneBytes (x.d.vAt r)) ∧
    Completes (.svldSaveu a c) (may true fun x => 4 * svldS x) (saves fun x => (List.range (svldS x)).flatMap fun r => wordBytes (x.d.sAt r)) ∧
    Completes (.svldSavep a c) (may true fun _ => 256) (saves fun x => predBlock x.d) ∧
    Completes (.svldSavex a c) (may true fun _ => 3592) (saves fun x => replayBlock x.d) ∧
    Completes (.svldLoadv a c) (may false fun x => 128 * x.g.kcb.v) (loads fun x d =>
      d.putVs 0 0xFFFFFFFF ((List.range x.g.kcb.v).map fun r => lanesIn (image x) (128 * r))) ∧
    Completes (.svldLoadu a c) (may false fun x => 4 * svldS x) (loads fun x d =>
      (List.range (svldS x)).foldl (fun d r => d.putS r (wordIn (image x) (4 * r))) d) ∧
    Completes (.svldLoadp a c) (fun x s => may false (fun _ => 256) x s ∧ (wordIn (image x) 36).toNat ≤ 32 ∧
        ∀ b ∈ (image x).drop 176, b = 0) (loads fun x d => { d with
      k := (List.range 7).map fun j => (j + 1, wordIn (image x) (4 * (j + 1)))
      cm := wordIn (image x) 32
      maskStack := ((List.range (wordIn (image x) 36).toNat).map fun e => wordIn (image x) (48 + 4 * e)).reverse
      epc := dwordIn (image x) 40 }) ∧
    Completes (.svldLoadx a c) (may false fun _ => 3592) (loads fun x d => { d with
      xl := (List.range 8).map fun j => (j, lanesIn (image x) (128 * j))
      xp := (List.range 8).map fun j => (j, xpIn (((image x).drop (1024 + 320 * j)).take 320))
      xi := dwordIn (image x) 3584 &&& 0xFFFFFFFFFFFFFFF8 }) ∧
    Completes (.tload n a c) (fun x s => may false (fun _ => 1152) x s ∧ (∀ b ∈ (image x).drop 1028, b = 0) ∧
        (shapeOk (wordIn (image x) 1024) = true ∨
          ((wordIn (image x) 1024).toNat % 32 = 0 ∧ wordIn (image x) 1024 &&& 0xFFFEE0E0 = 0)))
      (loads fun x d => { d with tiles := tblSet d.tiles n.toNat (tileIn (image x)) }) ∧
    Completes (.tsave n a c) (fun x s => tileRows (x.d.tile n.toNat).shape ≠ 0 ∧
        ∃ s2, s2 = x.update s (fun d => { d with tiles := tblSet d.tiles n.toNat { d.tile n.toNat with dirty := false } }) ∧
          checkBlock x s2 { w := true } (srcU64 x a) 1152 = .ok (parts, s1))
      (fun x _ t => Enqueues (fun _ _ => .store (cutBlock parts (tileImage (x.d.tile n.toNat))))
        { x with d := { x.d with tiles := tblSet x.d.tiles n.toNat { x.d.tile n.toNat with dirty := false } } } s1 t) ∧
    TrapsWhen (.tsave n a c) (fun x _ => tileRows (x.d.tile n.toNat).shape = 0) (fun _ _ => { code := 0x0A }) ∧
    TrapsWhen (.svldLoadp a c) (fun x s => may false (fun _ => 256) x s ∧
      (32 < (wordIn (image x) 36).toNat ∨ ∃ b ∈ (image x).drop 176, b ≠ 0)) (fun _ _ => { code := 0x2A }) ∧
    TrapsWhen (.tload n a c) (fun x s => may false (fun _ => 1152) x s ∧ ((∃ b ∈ (image x).drop 1028, b ≠ 0) ∨
        (shapeOk (wordIn (image x) 1024) = false ∧
          ¬((wordIn (image x) 1024).toNat % 32 = 0 ∧ wordIn (image x) 1024 &&& 0xFFFEE0E0 = 0)))) (fun _ _ => { code := 0x0B }) ∧
    (faults (.svldSavev a c) true (fun x => 128 * x.g.kcb.v) ∧ faults (.svldSaveu a c) true (fun x => 4 * svldS x) ∧
      faults (.svldSavep a c) true (fun _ => 256) ∧ faults (.svldSavex a c) true (fun _ => 3592) ∧
      faults (.svldLoadv a c) false (fun x => 128 * x.g.kcb.v) ∧ faults (.svldLoadu a c) false (fun x => 4 * svldS x) ∧
      faults (.svldLoadp a c) false (fun _ => 256) ∧ faults (.svldLoadx a c) false (fun _ => 3592) ∧
      faults (.tload n a c) false (fun _ => 1152))

/-! ### Control flow -/

/-- TRANSFERS (R36, R127-R130, R134): where the drill goes on, what is written, and the traps. `counts_` are the lanes of CM
that are no helper lanes; `chosen` is the guard.

THE MASK STACK (R132): MPUSH, MINV and MPOP change the current mask at issue; KMASK copies it into a predicate, all lanes. -/
def Obligations.ControlFlow : Prop :=
  (
  ∀ (ofs : BitVec 19) (d : BitVec 8) (a : Src) (c : Ctl),
    let target (x : Issue) : DWord := x.d.pc + BitVec.ofInt 64 (8 * ofs.toInt)
    let lane_ (x : Issue) (l : Nat) : Prop := l < 32 ∧ inMask x.d.cm l = true ∧ 32 * x.d.idx + l < x.g.g
    let chosen (x : Issue) (l : Nat) : Prop := inMask (x.d.kAt c.gp.toNat) l ≠ c.gn
    let jumps (next : Issue → DWord) (check : Issue → Option (DWord × Mask)) (x : Issue) (s t : State) : Prop :=
      ∃ d', Issued x t d' (next x) ∧ Kept x s t d' ∧ Plain x d' ∧ ∀ p, check x = some p → d'.needLand = some p
    let links (next : Issue → DWord) (n : Nat) (val : Issue → DWord) (x : Issue) (s t : State) : Prop :=
      ∃ d' y, Issued x t d' (next x) ∧ Kept x s t d' ∧ Plain x d' ∧ y ∈ d'.landings ∧ y.due = x.d.n + 4 ∧ y.into = toUni d n x ∧
        y.mask ≠ 0 ∧ lane y.val 0 = val x ∧ y.noReg = x.i.ctl.nw ∧ y.latch = x.latch ∧ y.slot = x.i.ctl.sbs.toNat ∧ y.tk1 = x.i.ctl.tk1
    let count (x : Issue) : Word := x.d.sAt (sStore x.d.sysMode d.toNat) - 1
    let odd (x : Issue) (_ : State) : Prop := (srcU64 x a).toNat % 8 ≠ 0
    let even (x : Issue) (_ : State) : Prop := (srcU64 x a).toNat % 8 = 0
    let lead (x : Issue) (l : Nat) : Prop := l < 32 ∧ inMask x.act l = true ∧ ∀ j < l, inMask x.act j = false
    let together (x : Issue) (l : Nat) : Mask := maskOf fun j => inMask x.act j && src64 x a j = src64 x a l
    Completes (.bra ofs c) (fun x _ => c.gp = 0 ∨ ((∃ l, lane_ x l) ∧ ∀ l, lane_ x l → chosen x l)) (GoesOn target) ∧
    Completes (.bra ofs c) (fun x _ => c.gp ≠ 0 ∧ ∀ l, lane_ x l → ¬chosen x l) (GoesOn after) ∧
    TrapsWhen (.bra ofs c) (fun x _ => c.gp ≠ 0 ∧ (∃ l, lane_ x l ∧ chosen x l) ∧ ∃ l, lane_ x l ∧ ¬chosen x l)
      (fun _ _ => { code := 0x07 }) ∧
    Completes (.brz ofs c) (fun x _ => x.d.cm = 0) (GoesOn target) ∧
    Completes (.brz ofs c) (fun x _ => x.d.cm ≠ 0) (GoesOn after) ∧
    Completes (.call d ofs c) Always (links target 2 fun x => x.d.pc + 8) ∧
    Completes (.ret a c) even (GoesOn fun x => srcU64 x a) ∧
    TrapsWhen (.ret a c) odd (fun x _ => { code := 0x05, tval := srcU64 x a }) ∧
    Completes (.jmpu a c) even (jumps (fun x => srcU64 x a) fun x => some (srcU64 x a, x.d.cm)) ∧
    TrapsWhen (.jmpu a c) odd (fun x _ => { code := 0x05, tval := srcU64 x a }) ∧
    Completes (.jmpv a c) (fun x _ => x.act = 0) (GoesOn after) ∧
    (∀ l, Completes (.jmpv a c) (fun x _ => lead x l ∧ (src64 x a l).toNat % 8 = 0 ∧ x.d.maskStack.length < 32) (fun x s t =>
      ∃ d', Issued x t d' (src64 x a l) ∧ Kept x s t d' ∧ d'.cm = together x l ∧ d'.maskStack = x.d.cm :: x.d.maskStack ∧
        d'.needLand = some (src64 x a l, together x l) ∧ d'.ops = x.d.ops ∧ d'.storeQueue = x.d.storeQueue)) ∧
    (∀ l, TrapsWhen (.jmpv a c) (fun x _ => lead x l ∧ (src64 x a l).toNat % 8 ≠ 0)
      (fun x _ => { code := 0x05, tval := src64 x a l, mask := some (together x l) })) ∧
    (∀ l, TrapsWhen (.jmpv a c) (fun x _ => lead x l ∧ (src64 x a l).toNat % 8 = 0 ∧ 32 ≤ x.d.maskStack.length)
      (fun x _ => { code := 0x08, mask := some (together x l) })) ∧
    Completes (.land c) Always (GoesOn after) ∧
    Completes (.loop d ofs c) (fun x _ => count x ≠ 0) (links target 1 fun x => (count x).setWidth 64) ∧
    Completes (.loop d ofs c) (fun x _ => count x = 0) (links after 1 fun x => (count x).setWidth 64) ∧
    Completes (.nop c) Always (GoesOn after)) ∧
  (
  ∀ (d : BitVec 8) (c : Ctl),
    let masks (cm : Issue → Mask) (st : Issue → List Mask) (x : Issue) (s t : State) : Prop :=
      ∃ d', Issued x t d' (x.d.pc + 8) ∧ Kept x s t d' ∧ d'.cm = cm x ∧ d'.maskStack = st x ∧ d'.ops = x.d.ops ∧
        d'.storeQueue = x.d.storeQueue
    Completes (.mpush c) (fun x _ => x.d.maskStack.length < 32)
      (masks (fun x => maskOf fun l => inMask x.d.cm l && (c.gp = 0 || inMask (x.d.kAt c.gp.toNat) l != c.gn)) fun x => x.d.cm :: x.d.maskStack) ∧
    Completes (.minv c) (fun x _ => x.d.maskStack ≠ [])
      (masks (fun x => x.d.maskStack.headD 0 &&& ~~~x.d.cm) fun x => x.d.maskStack) ∧
    Completes (.mpop c) (fun x _ => x.d.maskStack ≠ []) (masks (fun x => x.d.maskStack.headD 0) fun x => x.d.maskStack.tail) ∧
    Completes (.kmask d c) Always (fun x s t => ∃ d' y, Issued x t d' (x.d.pc + 8) ∧ Kept x s t d' ∧ Plain x d' ∧ y ∈ d'.landings ∧
      y.due = x.d.n + 4 ∧ y.into = .pred d.toNat ∧ (∀ l < 32, inMask y.mask l = true ∧ (lane y.val l).getLsbD 0 = inMask x.d.cm l) ∧
      y.noReg = x.i.ctl.nw ∧ y.slot = x.i.ctl.sbs.toNat ∧ y.tk1 = x.i.ctl.tk1) ∧
    TrapsWhen (.mpush c) (fun x _ => 32 ≤ x.d.maskStack.length) (fun _ _ => { code := 0x08 }) ∧
    TrapsWhen (.minv c) (fun x _ => x.d.maskStack = []) (fun _ _ => { code := 0x09 }) ∧
    TrapsWhen (.mpop c) (fun x _ => x.d.maskStack = []) (fun _ _ => { code := 0x09 }))

/-- EXIT (R268, R269, R272): the drill is DONE, its registers and queued stores as they were, its exit recorded with its group;
in a save routine it is SAVED instead; EXIT.SUCC without a successor raises SUCC_INVALID with its cause, after Headland's read of the
control block (R332), and waits while that read does (R200). -/
def Obligations.DrillExit : Prop :=
  ∀ (a : Src) (c : Ctl),
    let done (fn : Bool) (w : Issue → Word) (read : Issue → State → State) (x : Issue) (s t : State) : Prop :=
      ∃ d', t.drill? x.k = some d' ∧ d'.st = .done ∧ d'.saved = x.d.saved ∧ d'.sysMode = false ∧ d'.landings = [] ∧
        d'.storeQueue = x.d.storeQueue ∧ d'.ops.length = x.d.ops.length ∧ (∀ o ∈ d'.ops, o.into = .nothing) ∧ d'.cm = x.d.cm ∧
        d'.pc = x.d.pc + 8 ∧ (t.group? x.d.gid).map (·.exits) = some (x.g.exits ++ [(x.d.idx, fn, w x)]) ∧
        (∀ j, j ≠ x.k → t.drill? j = s.drill? j) ∧ (∀ b, t.homeByte b = (read x s).homeByte b) ∧ t.owned = (read x s).owned
    Completes (.exit c) (fun x _ => x.d.sysMode = false ∨ x.d.routine ≠ 1) (done false (fun _ => 0) fun _ s => s) ∧
    Completes (.exit c) (fun x _ => x.d.sysMode = true ∧ x.d.routine = 1) (fun x s t =>
      ∃ d', t.drill? x.k = some d' ∧ d'.st = .done ∧ d'.saved = true ∧ d'.sysMode = false ∧ d'.storeQueue = x.d.storeQueue ∧
        rest t = rest s ∧ (t.group? x.d.gid).map (·.exits) = some x.g.exits) ∧
    Completes (.exitSucc a c) (fun x s => checkSucc x s (srcU x a) = none)
      (done true (fun x => srcU x a) fun x s => (succCheck x s (srcU x a)).2) ∧
    (∀ n s k d g, n ≠ 0 → Fires (.exitSucc a c) s k d g →
      let x : Issue := sees (.exitSucc a c) k d g
      let r : Option Nat × State := succCheck x (actsIn (.exitSucc a c) s k d g) (srcU x a)
      r.1 = some n → exec (.exitSucc a c) s = .next (r.2.raise k { code := 0x29, sub := n, tkd := c.tk0 ≠ 0 })) ∧
    (∀ s k d g, Fires (.exitSucc a c) s k d g →
      checkSucc (sees (.exitSucc a c) k d g) (actsIn (.exitSucc a c) s k d g) (srcU (sees (.exitSucc a c) k d g) a) = some 0 →
      Happens (.exitSucc a c) s fun t => ∃ d', t.drill? k = some d' ∧ d'.pc = d.pc ∧ d'.st = .stalled ∧ d'.stall = some .walk ∧
        rest t = rest s) ∧
    ∀ (x : Issue) (s : State) (w : Word),
      (x.d.sysMode = true → checkSucc x s w = some 1) ∧
      (x.d.sysMode = false → (w.toNat ≥ 2 ^ 13 ∨ (s.queue (w.toNat % 2 ^ 13)).ctx ≠ x.g.ctx) → checkSucc x s w = some 2)

/-! ### Memory -/

/-- GLOBAL ACCESSES AS THEY ISSUE (R157, R160-R165, R169, R171): where the checks of the lanes pass, a load or an atomic operation
becomes outstanding with its lanes' addresses, a store or CACHE enters the store queue with its bytes; where they fail, the
instruction traps, and where a table walk is held (code 0, which no trap has) it waits (R200). `s1` is what translation leaves (A and D bits, cached translations). -/
def Obligations.GlobalAccess : Prop :=
  ∀ (d : BitVec 8) (a b : Src) (ofs : BitVec 10) (c : Ctl) (cx : Context) (real help : List LaneAddr) (s1 : State) (tr : TrapReq),
    let at_ (n : Nat) (x : Issue) (l : Nat) : DWord := src64 x a l + ofs.signExtend 64 * BitVec.ofNat 64 n
    let here (n : Nat) (x : Issue) : List (Nat × DWord) := ((List.range 32).filter (counts x)).map fun l => (l, at_ n x l)
    let there (n : Nat) (x : Issue) : List (Nat × DWord) :=
      ((List.range 32).filter fun l => inMask x.act l && !counts x l).map fun l => (l, at_ n x l)
    let direct (x : Issue) : List (Nat × DWord) := ((List.range 32).filter (counts x)).map fun l => (l, src64 x a l)
    let pass (acc : Access) (atomic : Bool) (n : Nat) (l h : Issue → List (Nat × DWord)) (x : Issue) (s : State) : Prop :=
      s.ctx? x.g.ctx = some cx ∧ checkAccess s x.k x.g.ctx cx acc atomic n (l x) (h x) true = .ok (real, help, s1)
    let fail (acc : Access) (atomic : Bool) (n : Nat) (l h : Issue → List (Nat × DWord)) (x : Issue) (s : State) : Prop :=
      s.ctx? x.g.ctx = some cx ∧ checkAccess s x.k x.g.ctx cx acc atomic n (l x) (h x) true = .error tr ∧ tr.code ≠ 0
    let held (acc : Access) (atomic : Bool) (n : Nat) (l h : Issue → List (Nat × DWord)) (x : Issue) (s : State) : Prop :=
      s.ctx? x.g.ctx = some cx ∧ checkAccess s x.k x.g.ctx cx acc atomic n (l x) (h x) true = .error tr ∧ tr.code = 0
    let none_ (_ : Issue) : List (Nat × DWord) := []
    let first (x : Issue) (n : Nat) : List (Nat × DWord) := [(0, at_ n x 0)]
    let lanes_ (x : Issue) : Mask := maskOf (counts x)
    let reg (n : Nat) (x : Issue) : LandTo := .vec (vStore x.d.sysMode d.toNat) n
    let bytes (n : Nat) (x : Issue) (l : Nat) : List Byte :=
      ((List.range (regsOf n)).flatMap fun r => wordBytes (lane (x.d.vAt (vStore x.d.sysMode (d.toNat + r))) l)).take n
    let atom (op : AtomOp) (x : Issue) : VarKind := .atom op x.i.ctl.ld.toNat real
      (lanesOf fun l => if op.bytes = 8 then src64 x b l else (src32 x b l).setWidth 64)
      (lanesOf fun l => if op.bytes = 8 then lane (x.d.vAt (vStore x.d.sysMode (d.toNat + 1))) l ++ lane (x.d.vAt (vStore x.d.sysMode d.toNat)) l
        else (lane (x.d.vAt (vStore x.d.sysMode d.toNat)) l).setWidth 64) false none
    let red (op : AtomOp) (x : Issue) (_ t : State) : Prop := ∃ d' o, Issued x t d' (x.d.pc + 8) ∧ Kept x s1 t d' ∧ d'.cm = x.d.cm ∧
      d'.maskStack = x.d.maskStack ∧ d'.storeQueue = x.d.storeQueue ∧ d'.ops = x.d.ops ++ [o] ∧ t.seq = s1.seq + 1 ∧ o.seq = s1.seq ∧
      o.kind = .atom op x.i.ctl.ld.toNat real (lanesOf fun l => (src32 x b l).setWidth 64) (splat 0) true none ∧ o.into = .nothing ∧ o.slot = 0 ∧ o.tk1 = 0
    let rw : Access := { r := true, w := true }
    (∀ f, let n := ldBytes f
      Completes (.ld f d a ofs c) (pass { r := true } false n (here n) (there n)) (fun x _ t =>
        Starts (fun _ _ => .load f (real ++ help)) (reg (regsOf n)) inAct x s1 t) ∧
      TrapsWhen (.ld f d a ofs c) (fail { r := true } false n (here n) (there n)) (fun _ _ => tr) ∧
      WalkHeld (.ld f d a ofs c) (held { r := true } false n (here n) (there n))) ∧
    (∀ f, let n := stBytes f
      Completes (.st f d a ofs c) (pass { w := true } false n (here n) none_) (fun x _ t =>
        Enqueues (fun _ _ => .store (real.map fun l => (l, bytes n x l.lane))) x s1 t) ∧
      TrapsWhen (.st f d a ofs c) (fail { w := true } false n (here n) none_) (fun _ _ => tr) ∧
      WalkHeld (.st f d a ofs c) (held { w := true } false n (here n) none_)) ∧
    (∀ f, let n := if f = .d then 8 else 4
      Completes (.ldu f d a ofs c) (fun x s => x.acts = true ∧ s.ctx? x.g.ctx = some cx ∧ ∃ l,
          checkAccess s x.k x.g.ctx cx { r := true } false n (first x n) [] false = .ok ([l], help, s1) ∧ real = [l]) (fun x _ t =>
        ∃ l, real = [l] ∧ Starts (fun _ _ => .loadUniform (f = .d) l) (fun x => .uni (sStore x.d.sysMode d.toNat) (n / 4))
          (fun _ => 0xFFFFFFFF) x s1 t) ∧
      Completes (.ldu f d a ofs c) (fun x s => x.acts = false ∧ s.ctx? x.g.ctx = some cx)
        (Starts (fun _ _ => .idle) (fun _ => .nothing) fun _ => 0) ∧
      TrapsWhen (.ldu f d a ofs c) (fun x s => x.acts = true ∧ s.ctx? x.g.ctx = some cx ∧
        checkAccess s x.k x.g.ctx cx { r := true } false n (first x n) [] false = .error tr ∧ tr.code ≠ 0) fun _ _ => tr) ∧
    (∀ f u, Completes (.atomI32 f u d a b c) (pass rw true 4 direct none_) (fun x _ t => Starts (fun x _ => atom (.int f u false) x) (reg 1) lanes_ x s1 t) ∧
      TrapsWhen (.atomI32 f u d a b c) (fail rw true 4 direct none_) fun _ _ => tr) ∧
    (∀ f u, Completes (.atomI64 f u d a b c) (pass rw true 8 direct none_) (fun x _ t => Starts (fun x _ => atom (.int f u true) x) (reg 2) lanes_ x s1 t) ∧
      TrapsWhen (.atomI64 f u d a b c) (fail rw true 8 direct none_) fun _ _ => tr) ∧
    (∀ f, Completes (.atomF32 f d a b c) (pass rw true 4 direct none_) (fun x _ t => Starts (fun x _ => atom (.flt f) x) (reg 1) lanes_ x s1 t) ∧
      TrapsWhen (.atomF32 f d a b c) (fail rw true 4 direct none_) fun _ _ => tr) ∧
    (∀ f u, Completes (.redI32 f u a b c) (pass rw true 4 direct none_) (red (.int (redAtom f) u false)) ∧
      TrapsWhen (.redI32 f u a b c) (fail rw true 4 direct none_) fun _ _ => tr) ∧
    (∀ f, Completes (.redF32 f a b c) (pass rw true 4 direct none_) (red (.flt (fredAtom f))) ∧
      TrapsWhen (.redF32 f a b c) (fail rw true 4 direct none_) fun _ _ => tr) ∧
    Completes (.redBf16x2 a b c) (pass rw true 4 direct none_) (red .pairAdd) ∧
    TrapsWhen (.redBf16x2 a b c) (fail rw true 4 direct none_) (fun _ _ => tr) ∧
    Completes (.cacheWb a c) (pass { r := true } false 1 direct none_) (fun x _ t => Enqueues (fun _ _ => .cache 0 real) x s1 t) ∧
    Completes (.cacheInv a c) (pass { w := true } false 1 direct none_) (fun x _ t => Enqueues (fun _ _ => .cache 1 real) x s1 t) ∧
    Completes (.cacheWbi a c) (pass { w := true } false 1 direct none_) (fun x _ t => Enqueues (fun _ _ => .cache 2 real) x s1 t) ∧
    TrapsWhen (.cacheWb a c) (fail { r := true } false 1 direct none_) (fun _ _ => tr) ∧
    TrapsWhen (.cacheInv a c) (fail { w := true } false 1 direct none_) (fun _ _ => tr) ∧
    TrapsWhen (.cacheWbi a c) (fail { w := true } false 1 direct none_) fun _ _ => tr

/-- THE CHECKS OF AN ACCESS (R157, R242, R353), for one lane: alignment first, then translation, backing (the boot ROM takes no
write), the stack grant, and the class of an atomic target.

TRANSLATION (R341-R345, R353): a cached translation that serves the address decides; without one the tables do, from the root at level
4 down, or from a table of the walk cache: a table entry that cannot be read, one in a stack that is changing hands, for which the
walk waits (CAUSE 0; R200), one with V = 0, a pointer, whose G holds for what lies below it, a leaf. -/
def Obligations.AccessChecks : Prop :=
  (
  ∀ (s : State) (k ctx n l : Nat) (cx : Context) (acc : Access) (atomic per : Bool) (va : DWord),
    let r := checkAccess s k ctx cx acc atomic n [(l, va)] [] per
    let traps (code : Nat) : Prop := ∃ t, r = .error t ∧ t.code = code ∧ t.tval = va ∧ (per = true → l < 32 → t.mask = some (1#32 <<< l)) ∧
      (per = false → t.mask = none) ∧ (code ≠ 0x10 → t.faults = [])
    (va.toNat % n ≠ 0 → l < 32 → traps 0x0D) ∧
    (va.toNat % n = 0 → ∀ e, s.translate (drillChip k) cx va acc = .error e → e.cause = 0 → ∃ t, r = .error t ∧ t.code = 0) ∧
    (va.toNat % n = 0 → ∀ e, s.translate (drillChip k) cx va acc = .error e → e.cause ≠ 0 → traps 0x10 ∧
      ∃ t, r = .error t ∧ t.faults = [(va, e.cause, e.level, e.pin, acc.r.toNat + 2 * acc.w.toNat + 4 * acc.x.toNat + 8 * atomic.toNat)]) ∧
    (va.toNat % n = 0 → l < 32 → ∀ pa s1, s.translate (drillChip k) cx va acc = .ok (pa, s1) →
      let lost := s.backed pa = false ∨ (acc.w = true ∧ isRom pa = true)
      let barred := s.grantOk ctx pa = false
      let device := atomic = true ∧ classOf pa = .uncached
      (lost → traps 0x12) ∧ (¬lost → barred → traps 0x14) ∧ (¬lost → ¬barred → device → traps 0x13) ∧
      (¬lost → ¬barred → ¬device → r = .ok ([{ lane := l, va := va, pa := pa }], [], s1)))) ∧
  (
  ∀ (s : State) (chip : Nat) (cx : Context) (va : DWord) (acc : Access),
    (vaInRange va = false → s.translate chip cx va acc = .error { cause := 4, level := 4 }) ∧
    (vaInRange va = true → ∀ e, (tblGet s.tlb chip []).find? (·.serves cx.asid va) = some e →
      (permsOk e.perms acc = false → s.translate chip cx va acc = .error { cause := 2, level := e.level, pin := e.pin }) ∧
      (permsOk e.perms acc = true → e.rep = false → e.perms.getLsbD 6 = true → (acc.w = true → e.perms.getLsbD 7 = true) →
        s.translate chip cx va acc = .ok (e.pa + (va.toNat - e.va), s))) ∧
    (vaInRange va = true → (tblGet s.tlb chip []).find? (·.serves cx.asid va) = none →
      ∀ e, walkFrom s true some va (s.walkStart chip cx va).1 (s.walkStart chip cx va).2.1 = .error e → s.translate chip cx va acc = .error e) ∧
    ((∀ w ∈ tblGet s.walks chip [], w.serves cx.asid va = false) → s.walkStart chip cx va = (4, cx.satp.toNat % 2 ^ 44 * 4096, false)) ∧
    (∀ l base g, s.walkStart chip cx va = (l, base, g) → (l, base, g) = (4, cx.satp.toNat % 2 ^ 44 * 4096, false) ∨
      ∃ w ∈ tblGet s.walks chip [], w.serves cx.asid va = true ∧ (l, base, g) = (w.level, w.base, w.global)) ∧
    (∀ (at_ : Nat → Option Nat) (level base a : Nat), at_ (base + 8 * (va.toNat / 2 ^ (12 + 9 * level) % 512)) = some a →
      let pte : DWord := ofBytes 64 (s.bytesAt a 8)
      let walk := walkFrom s true at_ va level base
      let readable := s.backed a = true ∧ s.gate a ≠ .hold ∧ s.poisoned a = false
      (s.backed a = true → s.gate a = .hold → walk = .error { cause := 0, level := level }) ∧
      (¬readable → (s.backed a = true → s.gate a ≠ .hold) → walk = .error { cause := 6, level := level }) ∧
      (readable → pte.getLsbD 0 = false → walk = .error { cause := 1, level := level }) ∧
      (readable → pte.getLsbD 0 = true → pte.toNat / 2 % 8 ≠ 0 → leafMalformed true pte level = true →
        walk = .error { cause := 3, level := level, pin := pte.getLsbD 59 }) ∧
      (readable → pte.getLsbD 0 = true → pte.toNat / 2 % 8 ≠ 0 → leafMalformed true pte level = false → walk = .ok (pte, level, a)) ∧
      (readable → pte.getLsbD 0 = true → pte.toNat / 2 % 8 = 0 → pte.toNat / 2 ^ 54 = 0 → pte.toNat / 16 % 2 = 0 → pte.toNat / 64 % 4 = 0 →
        walk = if level = 0 then .error { cause := 3, level := 0 }
          else (walkFrom s true at_ va (level - 1) (pte.toNat / 2 ^ 10 % 2 ^ 44 * 4096)).map fun r => (r.1 ||| (pte &&& 0x20), r.2))))

/-- LOCAL STORE (R156, R157, R160, R161, R166): LDS, STS and ATOMS as they issue, and the checks of a local address; a helper lane of
LDS fills the stash entry that it touches, or receives zero where its checks fail. -/
def Obligations.LocalAccess : Prop :=
  ∀ (d : BitVec 8) (a b : Src) (ofs : BitVec 10) (c : Ctl) (cx : Context) (s1 : State) (tr : TrapReq),
    let at_ (n : Nat) (x : Issue) (l : Nat) : Word := src32 x a l + ofs.signExtend 32 * BitVec.ofNat 32 n
    let here (n : Nat) (x : Issue) : List (Nat × Word) := ((List.range 32).filter (counts x)).map fun l => (l, at_ n x l)
    let direct (x : Issue) : List (Nat × Word) := ((List.range 32).filter (counts x)).map fun l => (l, src32 x a l)
    let acc (q : Nat × Word) : LaneAddr := { lane := q.1, va := q.2.setWidth 64, pa := 0 }
    let pass (ac : Access) (n : Nat) (l : Issue → List (Nat × Word)) (x : Issue) (s : State) : Prop :=
      s.ctx? x.g.ctx = some cx ∧ checkLocal s x cx ac n (l x) = .ok s1
    let fail (ac : Access) (n : Nat) (l : Issue → List (Nat × Word)) (x : Issue) (s : State) : Prop :=
      s.ctx? x.g.ctx = some cx ∧ checkLocal s x cx ac n (l x) = .error tr ∧ tr.code ≠ 0
    let bytes (n : Nat) (x : Issue) (l : Nat) : List Byte :=
      ((List.range (regsOf n)).flatMap fun r => wordBytes (lane (x.d.vAt (vStore x.d.sysMode (d.toNat + r))) l)).take n
    let rw : Access := { r := true, w := true }
    let entry (f : AtomFn) (u : Bool) (x : Issue) : SqKind := .atomLocal (.int f u false) x.i.ctl.ld.toNat ((direct x).map acc)
      (lanesOf fun l => (src32 x b l).setWidth 64) (lanesOf fun l => (lane (x.d.vAt (vStore x.d.sysMode d.toNat)) l).setWidth 64)
    let fine (n : Nat) (x : Issue) : List (Nat × Word) × State :=
      (((List.range 32).filter fun l => inMask x.act l && !counts x l).map fun l => (l, at_ n x l)).foldl (fun p q =>
        match checkLocal p.2 x cx { r := true } n [q] with
        | .ok s' => (p.1 ++ [q], s')
        | .error _ => p) ([], s1)
    (∀ f, let n := ldBytes f
      Completes (.lds f d a ofs c) (pass { r := true } n (here n)) (fun x _ t =>
        Starts (fun x _ => .loadLocal f ((here n x ++ (fine n x).1).map acc)) (fun x => .vec (vStore x.d.sysMode d.toNat) (regsOf n)) inAct x
          (fine n x).2 t) ∧
      TrapsWhen (.lds f d a ofs c) (fail { r := true } n (here n)) fun _ _ => tr) ∧
    (∀ f, let n := stBytes f
      Completes (.sts f d a ofs c) (pass { w := true } n (here n)) (fun x _ t =>
        Enqueues (fun x _ => .storeLocal ((here n x).map fun q => (acc q, bytes n x q.1))) x s1 t) ∧
      TrapsWhen (.sts f d a ofs c) (fail { w := true } n (here n)) fun _ _ => tr) ∧
    (∀ f u, Completes (.atoms f u d a b c) (pass rw 4 direct) (fun x _ t => ∃ d' o, Issued x t d' (x.d.pc + 8) ∧ Kept x s1 t d' ∧
        d'.cm = x.d.cm ∧ d'.maskStack = x.d.maskStack ∧ t.seq = s1.seq + 1 ∧ d'.ops = x.d.ops ++ [o] ∧ o.seq = s1.seq ∧
        o.kind = .atomLocal x.i.ctl.ld.toNat none ∧ o.into = .vec (vStore x.d.sysMode d.toNat) 1 ∧ o.mask = maskOf (counts x) ∧
        d'.storeQueue = x.d.storeQueue ++ [{ seq := s1.seq, pc := x.d.pc, kind := entry f u x }]) ∧
      TrapsWhen (.atoms f u d a b c) (fail rw 4 direct) fun _ _ => tr) ∧
    (∀ (x : Issue) (s : State) (ac : Access) (n l : Nat) (w : Word), l < 32 → 0 < n →
      let r := checkLocal s x cx ac n [(l, w)]
      let traps (code : Nat) : Prop := r = .error { code := code, mask := some (1#32 <<< l), tval := w.setWidth 64 }
      let out : Prop := w.toNat / 2 ^ 19 % 2 ^ 9 ≠ 0 ∨ (w.getLsbD 31 = false ∧ w.toNat / 2 ^ 28 % 8 ≠ 0) ∨ w.toNat % 2 ^ 19 + n > x.g.kcb.ls
      (w.toNat % n ≠ 0 → traps 0x0D) ∧ (w.toNat % n = 0 → out → traps 0x0E) ∧
      (w.toNat % n = 0 → ¬out → w.getLsbD 31 = false → x.g.stash = [] → r = .ok s))

/-- FENCES (R153, R170): an acquire acts once the drill's earlier reads are done, at CRF or wider on the L1D as a whole; a
release enters the store queue.

Prefetches (R126, R168) have no result: the registers and memory are as they were; what a prefetch brings in is a copy of what
is there. -/
def Obligations.Fences : Prop :=
  (
  ∀ (sc : Scope) (c : Ctl),
    let num : Nat := match sc with | .drl => 1 | .grp => 2 | .crf => 3 | .die => 4 | .pkg => 5 | .sys => 6
    let before (x : Issue) : Prop := ∀ o ∈ x.d.ops, isRead o = false
    Completes (.fenceAcq sc c) (fun x s => before x ∧ x.d.acquires = [] ∧ ∀ o ∈ x.d.ops, o.seq < s.seq) (fun x s t =>
      ∃ d', Issued x t d' (x.d.pc + 8) ∧ Plain x d' ∧ d'.acquires = [] ∧ t.mem = s.mem ∧ t.owned = s.owned ∧
        (t.core (drillCore x.k)).l1d = if 3 ≤ num then [] else (s.core (drillCore x.k)).l1d) ∧
    Completes (.fenceAcq sc c) (fun x s => x.d.acquires = [] ∧ ∃ o ∈ x.d.ops, (∃ f l, o.kind = .load f l) ∧ o.seq < s.seq) (fun x s t =>
      ∃ d', Issued x t d' (x.d.pc + 8) ∧ Kept x s t d' ∧ Plain x d' ∧ d'.acquires = [(s.seq, num)]) ∧
    Completes (.fenceRel sc c) Always (Enqueues fun _ _ => .fence num false) ∧
    Completes (.fenceAr sc c) Always (Enqueues fun _ _ => .fence num true)) ∧
  (
  ∀ (n : BitVec 3) (ofs : BitVec 19) (o : BitVec 10) (a : Src) (c : Ctl),
    let same (x : Issue) (s t : State) : Prop := ∃ s1 d', Issued x t d' (x.d.pc + 8) ∧ Kept x s1 t d' ∧ Plain x d' ∧
      s1.drills = s.drills ∧ s1.groups = s.groups ∧ s1.ctxs = s.ctxs ∧ s1.mem = s.mem ∧ s1.poison = s.poison
    Completes (.prefi n ofs c) Always same ∧ Completes (.prefd a o c) Always same)

/-! ### Rings, stash, copies -/

/-- RINGS (R171, R174-R177): CFG configures or removes a ring; CLM and WTF ask for a slot and WTE watches one; PUB and REL enter the store
queue; the traps. -/
def Obligations.Rings : Prop :=
  ∀ (d : BitVec 8) (a b : Src) (c : Ctl) (r : Sys2Proof.Machine.Ring),
    let w (x : Issue) : Word := srcU x a
    let n (x : Issue) : Nat := (w x).toNat % 16
    let log (x : Issue) : Nat := (w x).toNat / 16 % 16
    let cnt (x : Issue) : Nat := (w x).toNat / 256 % 256
    let base (x : Issue) : Nat := (srcU x b).toNat
    let size (x : Issue) : Nat := (cnt x + 1) * 2 ^ (log x + 6)
    let old (x : Issue) : Option Sys2Proof.Machine.Ring := tblGet? x.g.rings (n x)
    let descOk (x : Issue) : Prop := (w x).toNat < 2 ^ 16 ∧ log x ≤ 10 ∧ base x % 128 = 0
    let inside (x : Issue) : Prop := cnt x = 0 ∨ base x + size x ≤ x.g.kcb.ls
    let apart (x : Issue) : Prop := cnt x = 0 ∨ (inRing x.g (base x) (size x) (some (n x)) = false ∧ inStash x.g (base x) (size x) none = false)
    let unused (x : Issue) (s : State) : Prop := (∀ q, old x = some q → ∀ y ∈ q.slots, y = .free) ∧ s.ringCopies x.d.gid x.g (n x) = false
    let asked (claim : Bool) (x : Issue) (s : State) : State := s.modGroup x.d.gid fun g =>
      { g with ringReqs := g.ringReqs ++ [{ ring := n x, claim := claim, who := some (x.k, s.seq) }] }
    let made (x : Issue) : Tbl Sys2Proof.Machine.Ring :=
      tblSet x.g.rings (n x) { word := w x, base := base x, slots := List.replicate (cnt x + 1) .free }
    let word (_ : Issue) : Mask := 0xFFFFFFFF
    let slot (x : Issue) : Nat := (srcU x b).toNat / 2 ^ 20 % 256
    let idle (i : Instr) : Prop := Completes i (fun x _ => x.acts = false) (Starts (fun _ _ => .idle) (fun _ => .nothing) fun _ => 0)
    Completes (.ringCfg a b c) (fun x _ => x.acts = false) (GoesOn after) ∧
    Completes (.ringCfg a b c) (fun x s => x.acts = true ∧ descOk x ∧ inside x ∧ apart x ∧ unused x s)
      (Effects fun x s => s.modGroup x.d.gid fun g => { g with rings := if cnt x = 0 then tblErase x.g.rings (n x) else made x }) ∧
    TrapsWhen (.ringCfg a b c) (fun x _ => x.acts = true ∧ ¬descOk x) (fun _ _ => { code := 0x17 }) ∧
    TrapsWhen (.ringCfg a b c) (fun x _ => x.acts = true ∧ descOk x ∧ ¬inside x) (fun _ _ => { code := 0x0E }) ∧
    TrapsWhen (.ringCfg a b c) (fun x _ => x.acts = true ∧ descOk x ∧ inside x ∧ ¬apart x) (fun _ _ => { code := 0x0F }) ∧
    TrapsWhen (.ringCfg a b c) (fun x s => x.acts = true ∧ descOk x ∧ inside x ∧ apart x ∧ ¬unused x s) (fun _ _ => { code := 0x17 }) ∧
    Completes (.ringClm d a c) (fun x _ => x.acts = true ∧ old x = some r) (fun x s t =>
      Starts (fun x _ => .ringTake (n x) true none) (toUni d 1) word x (asked true x s) t) ∧
    Completes (.ringWtf d a c) (fun x _ => x.acts = true ∧ old x = some r) (fun x s t =>
      Starts (fun x _ => .ringTake (n x) false none) (toUni d 1) word x (asked false x s) t) ∧
    Completes (.ringWte d a c) (fun x _ => x.acts = true ∧ old x = some r) (Starts (fun x _ => .ringWte (n x)) (toUni d 1) word) ∧
    Completes (.ringQry d a c) (fun x _ => x.acts = true) (Starts (fun x _ => .ringQry (n x)) (toUni d 1) word) ∧
    (idle (.ringClm d a c) ∧ idle (.ringWtf d a c) ∧ idle (.ringWte d a c) ∧ idle (.ringQry d a c)) ∧
    (TrapsWhen (.ringClm d a c) (fun x _ => x.acts = true ∧ old x = none) (fun _ _ => { code := 0x17 }) ∧
      TrapsWhen (.ringWtf d a c) (fun x _ => x.acts = true ∧ old x = none) (fun _ _ => { code := 0x17 }) ∧
      TrapsWhen (.ringWte d a c) (fun x _ => x.acts = true ∧ old x = none) (fun _ _ => { code := 0x17 })) ∧
    Completes (.ringPub a b c) (fun x s => x.acts = true ∧ old x = some r ∧ s.slotSeen x.d.gid (n x) r (slot x) = some .claimed)
      (Enqueues fun x _ => .ringPub (n x) (slot x)) ∧
    Completes (.ringRel a b c) (fun x s => x.acts = true ∧ old x = some r ∧ s.slotSeen x.d.gid (n x) r (slot x) = some .held)
      (Enqueues fun x _ => .ringRel (n x) (slot x)) ∧
    (Completes (.ringPub a b c) (fun x _ => x.acts = false) (GoesOn after) ∧ Completes (.ringRel a b c) (fun x _ => x.acts = false) (GoesOn after)) ∧
    TrapsWhen (.ringPub a b c) (fun x s => x.acts = true ∧ (old x = none ∨ old x = some r ∧ s.slotSeen x.d.gid (n x) r (slot x) ≠ some .claimed))
      (fun _ _ => { code := 0x17 }) ∧
    TrapsWhen (.ringRel a b c) (fun x s => x.acts = true ∧ (old x = none ∨ old x = some r ∧ s.slotSeen x.d.gid (n x) r (slot x) ≠ some .held))
      (fun _ _ => { code := 0x17 })

/-- STASH AND CPY AS THEY ISSUE (R171, R178-R183): MAP maps a region whose entries are all INVALID; the other forms and the copies enter
the store queue; a copy that CM leaves without a lane is a null command. -/
def Obligations.StashAndCopies : Prop :=
  ∀ (a b : Src) (c : Ctl) (tr : TrapReq),
    let w (x : Issue) : Word := srcU x b
    let region (x : Issue) : Nat := (w x).toNat % 4
    let base (x : Issue) : Nat := (w x).toNat / 128 % 2 ^ 12 * 128
    let size (x : Issue) : Nat := ((w x).toNat / 2 ^ 20 + 1) * 128
    let good (x : Issue) : Prop := tblGet? x.g.stash (region x) = none ∧ (w x).toNat / 4 % 32 = 0 ∧ (w x).getLsbD 19 = false ∧ (srcU64 x a).toNat % 128 = 0
    let inside (x : Issue) : Prop := base x + size x ≤ x.g.kcb.ls
    let apart (x : Issue) : Prop := inRing x.g (base x) (size x) none = false ∧ inStash x.g (base x) (size x) none = false
    let mapped (x : Issue) : Prop := (tblGet? x.g.stash ((srcU x a).toNat % 4)).isSome = true
    let op (i : Instr) (n : Nat) : Prop :=
      Completes i (fun x _ => x.acts = false) (GoesOn after) ∧
      Completes i (fun x _ => x.acts = true ∧ mapped x) (Enqueues fun x _ => .stashOp ((srcU x a).toNat % 4) n) ∧
      TrapsWhen i (fun x _ => x.acts = true ∧ ¬mapped x) fun _ _ => { code := 0x18 }
    let cmd (x : Issue) (e : Option CopyDesc) : CopyCmd := { desc := e, drill := x.k, tk0 := x.i.ctl.tk0, tk1 := x.i.ctl.tk1 }
    let copy (i : Instr) (form : Nat) (out : Bool) : Prop :=
      Completes i (fun x _ => x.acts = false) (Enqueues fun x _ => .copy (cmd x none) out) ∧
      Completes i (fun x s => x.acts = true ∧ copyCheck s x.g (copyDesc form (srcWindow x a)) (srcWindow x a) = none)
        (Enqueues fun x _ => .copy (cmd x (some (copyDesc form (srcWindow x a)))) out) ∧
      TrapsWhen i (fun x s => x.acts = true ∧ copyCheck s x.g (copyDesc form (srcWindow x a)) (srcWindow x a) = some tr) fun _ _ => tr
    Completes (.stashMap a b c) (fun x _ => x.acts = false) (GoesOn after) ∧
    Completes (.stashMap a b c) (fun x _ => x.acts = true ∧ good x ∧ inside x ∧ apart x) (Effects fun x s =>
      s.modGroup x.d.gid fun g => { g with stash := tblSet g.stash (region x) { v := srcU64 x a, word := w x, entries := [] } }) ∧
    TrapsWhen (.stashMap a b c) (fun x _ => x.acts = true ∧ ¬good x) (fun _ _ => { code := 0x18 }) ∧
    TrapsWhen (.stashMap a b c) (fun x _ => x.acts = true ∧ good x ∧ ¬inside x) (fun _ _ => { code := 0x0E }) ∧
    TrapsWhen (.stashMap a b c) (fun x _ => x.acts = true ∧ good x ∧ inside x ∧ ¬apart x) (fun _ _ => { code := 0x0F }) ∧
    op (.stashUnmap a c) 0 ∧ op (.stashFlush a c) 1 ∧ op (.stashInv a c) 2 ∧
    copy (.cpyGl a c) 0 false ∧ copy (.cpyLg a c) 1 true ∧ copy (.cpyGg a c) 2 true ∧ copy (.cpyGb a c) 3 false ∧ copy (.cpyLb a c) 4 false ∧
    copy (.cpyFill a c) 5 true ∧
    ∀ (r : List Word), r.length = 8 → ∀ form < 6,
      let e := copyDesc form r
      e.form = form ∧ e.src = r.getD 1 0 ++ r.getD 0 0 ∧ e.dst = r.getD 3 0 ++ r.getD 2 0 ∧ e.len = (r.getD 4 0).toNat ∧
      e.rows = (r.getD 5 0).toNat % 2 ^ 16 + 1 ∧ e.ring = (r.getD 5 0).getLsbD 27 ∧ e.ui = (r.getD 5 0).getLsbD 31 ∧
      e.scope = (r.getD 5 0).toNat / 2 ^ 28 % 8 ∧ (form ≠ 5 → e.srcStride = (r.getD 6 0).toInt) ∧ e.dstStride = (r.getD 7 0).toInt

/-- A ring's requests (R173, R175): the oldest claim takes the slot at the claim pointer when it is FREE, else the oldest take the
FULL slot at the take pointer; the pointer moves on, and the requester's operation has the slot word.

THE COPY ENGINES (R171, R182, R184, R196): a station takes its commands in order once their tokens are there; a copy completes, stops
at a fault, or is aborted, by what its units meet; units may be read, or read and written, before it completes, and are not written
again (log 19, DEDUCED). -/
def Obligations.RingsAndCopies : Prop :=
  (
  ∀ (s : State) (gid n k seq : Nat) (g : Sys2Proof.Machine.Group) (r : Sys2Proof.Machine.Ring) (q : RingReq), s.group? gid = some g →
    tblGet? g.rings n = some r → q.who = some (k, seq) →
    let first (claim : Bool) : Prop := g.ringReqs.find? (fun p => p.ring = n && p.claim = claim) = some q
    let slotWord_ (j : Nat) : Word := BitVec.ofNat 32 (q.ring * 2 ^ 28 + j * 2 ^ 20 + (r.base + j * 2 ^ (r.word.toNat / 16 % 16 + 6)) % 2 ^ 19)
    let served (r' : Sys2Proof.Machine.Ring) (j : Nat) (t : State) : Prop :=
      t.group? gid = some { g with rings := tblSet g.rings n r', ringReqs := g.ringReqs.erase q } ∧ SameMemory s t ∧
      (∀ m, m ≠ k → t.drill? m = s.drill? m) ∧ ∀ d, s.drill? k = some d → ∃ d', t.drill? k = some d' ∧ d'.ops.length = d.ops.length ∧
        ∀ (o : VarOp), o ∈ d.ops → (o.seq ≠ seq → o ∈ d'.ops) ∧ 
          (o.seq = seq → { o with kind := .ringTake q.ring q.claim (some (slotWord_ j)) } ∈ d'.ops)
    (first true → r.slots[r.claim]? = some .free → Happens (.ringRequestServed gid n) s (served
      { r with slots := r.slots.set r.claim .claimed, claim := (r.claim + 1) % r.slots.length } r.claim)) ∧
    (first false → (∀ p ∈ g.ringReqs, p.ring = n → p.claim = false) → r.slots[r.take]? = some .full → Happens (.ringRequestServed gid n) s (served
      { r with slots := r.slots.set r.take .held, take := (r.take + 1) % r.slots.length } r.take)) ∧
    (r.slots[r.claim]? ≠ some .free → r.slots[r.take]? ≠ some .full → Idle (.ringRequestServed gid n) s)) ∧
  (
  ∀ (s : State) (gid : Nat) (out : Bool) (engine : Nat) (g : Sys2Proof.Machine.Group), s.group? gid = some g →
    let st := g.station out
    let with_ (y : Station) (tk : BitVec 4) : Sys2Proof.Machine.Group :=
      { g with stO := if out then y else g.stO, stI := if out then g.stI else y, tok := takeTokens g.tok (stationNum out) tk }
    (∀ c rest, st.queue = c :: rest → st.run = none → st.stopped = none → g.resident = true → engine < 3 →
      (tokensReady g.tok (stationNum out) c.tk0 = true → c.tk0 &&& 3 = 0 →
        (c.desc = none → c.tk1 &&& 3 = 0 → Happens (.stationDequeue gid out engine) s fun t => SameMemory s t ∧ SameDrills s t ∧
          t.group? gid = some (with_ { st with queue := rest } c.tk0)) ∧
        (∀ e, c.desc = some e → Happens (.stationDequeue gid out engine) s fun t => SameMemory s t ∧ SameDrills s t ∧
          (∃ g', t.group? gid = some g' ∧ g'.station out = { st with queue := rest, run := some { cmd := c, engine := engine }, claiming := e.ring } ∧
            g'.tok = takeTokens g.tok (stationNum out) c.tk0 ∧
            g'.ringReqs = g.ringReqs ++ (if e.ring then [{ ring := field e.dst 0 4, claim := true, who := none }] else [])))) ∧
      (tokensReady g.tok (stationNum out) c.tk0 = false → Idle (.stationDequeue gid out engine) s)) ∧
    (st.run ≠ none → Idle (.stationDequeue gid out engine) s) ∧
    ∀ w r e, s.copyNow gid out = some (w, r, e) → s.bedCheck w.g r e = .fine → ∀ s' n stop, s.runCopy w r e = (s', n, stop) →
      (∃ g1, s'.group? gid = some g1 ∧ (g1.station out).run = some r) →
      (stop = none → Happens (.copyCompletion gid out none) s fun t => ∃ g', t.group? gid = some g' ∧ (g'.station out).run = none) ∧
      (∀ va wr x, stop = some (.fault va wr x) → Happens (.copyFaultStop gid out) s fun t => ∃ g' r', t.group? gid = some g' ∧
        (g'.station out).run = some r' ∧ r'.doneUnits = n ∧ r'.fault.isSome = true ∧ r'.cmd = r.cmd) ∧
      (∀ cause, stop = some (.abort cause) → Happens (.copyAbort gid out) s fun t => ∃ g', t.group? gid = some g' ∧
        (g'.station out).stopped = some true) ∧
      (stop ≠ none → Idle (.copyCompletion gid out none) s) ∧
      ∀ (units : List Nat),
        let us := ((List.range e.units).drop r.doneUnits).filter fun u => !r.early.contains u && units.contains u
        (∀ s1 m g1 r1, copyUnits w e r.got us 0 s = (s1, m, none) → (s.mixedUnits w e).filter us.contains = [] →
          s1.group? gid = some g1 → (g1.station out).run = some r1 → Happens (.copyCompletion gid out (some (units, true))) s fun t =>
            t.mem = s1.mem ∧ ∃ g', t.group? gid = some g' ∧ (g'.station out).run = some { r1 with early := r1.early ++ us }) ∧
        (∀ s1 got g1 r1, readUnits w e us r.got s = some (s1, got) → s1.group? gid = some g1 → (g1.station out).run = some r1 →
          Happens (.copyCompletion gid out (some (units, false))) s fun t =>
            t.mem = s1.mem ∧ ∃ g', t.group? gid = some g' ∧ (g'.station out).run = some { r1 with got := got }))

/-- What a unit of a copy does (R15, R181, R182): what it reads, by form, and the 16 bytes that it writes: to global memory for .LG,
.GG and .FILL, to the group's local store for .GL, and nothing else there. A unit that was read before writes what it read then. -/
def Obligations.CopyUnits : Prop :=
  ∀ (s : State) (w : CopyAt) (e : CopyDesc) (u : Nat),
    let read := s.copyRead w e u fun s pa => s.deviceBytes pa 16
    let from_ : Nat := w.ls ((e.src.toNat % 2 ^ 19 : Nat) + e.offset e.srcStride u)
    (e.form = 5 → read = .ok ((List.range 16).map fun j => (e.src.setWidth 32 : Word).extractLsb' (8 * (j % 4)) 8, s)) ∧
    (e.form = 1 ∨ e.form = 4 → (∀ j < 16, from_ + j ∉ (s.core w.core).lsPoison) →
      read = .ok ((List.range 16).map fun j => s.lsByte w.core (from_ + j), s)) ∧
    (e.form = 1 ∨ e.form = 4 → (∃ j < 16, from_ + j ∈ (s.core w.core).lsPoison) → read = .error (.abort 0x15)) ∧
    (e.form = 0 ∨ e.form = 2 ∨ e.form = 3 → ∀ pa s1, s.copyPa w (e.srcVa u) false = .ok (pa, s1) → classOf pa = .cacheable →
      (s1.poisoned pa = false → read = .ok ((List.range 16).map fun j => s1.byteAt (pa + j), s1)) ∧
      (s1.poisoned pa = true → read = .error (.abort 0x15))) ∧
    ∀ got bs s0, s.copyBytes w e got u (fun s pa => s.deviceBytes pa 16) = .ok (bs, s0) → bs.length = 16 →
      (tblGet? got u = none → read = .ok (bs, s0)) ∧ (∀ x, tblGet? got u = some x → bs = x ∧ s0 = s) ∧
      (e.form = 1 ∨ e.form = 2 ∨ e.form = 5 → ∀ pa s1, s0.copyPa w (e.dstVa u) true = .ok (pa, s1) → classOf pa = .cacheable → Memory.wf s1 = true →
        ∃ t, s.copyUnit w e got u = .ok t ∧ (∀ j < 16, s1.deaf (pa + j) = false → isRom (pa + j) = false → some (t.byteAt (pa + j)) = bs[j]?) ∧
          (∀ b, (∀ j < 16, (pa + j) / 128 ≠ b / 128) → t.byteAt b = s1.byteAt b) ∧
          ∀ b, pa % 16 = 0 → s1.deaf pa = false → b / 128 = pa / 128 → (b < pa ∨ pa + 16 ≤ b) → isRom b = false → t.byteAt b =
            match tblGet? s1.owned (b / 128) with | some o => if o.dirty then s1.byteAt b else s1.homeByte b | none => s1.homeByte b) ∧
      (e.form = 0 → cellsWf (s0.core w.core).ls = true → ∃ t, s.copyUnit w e got u = .ok t ∧
        (∀ j < 16, some (t.lsByte w.core (w.dstLs e u + j)) = bs[j]?) ∧
        ∀ b, b < w.dstLs e u ∨ w.dstLs e u + 16 ≤ b → t.lsByte w.core b = s0.lsByte w.core b)

/-! ### Barriers, memory barrier objects, events, stacks -/

/-- GROUP BARRIERS (R276-R278, R193): an arrival is recorded, and completes the phase when it is the last; BAR.ALL and BAR.HOLD go on once
the phase has moved past the one they wait for and what its arrivals release is visible; the errors of the barrier word and of the arrival.

CROFT AND GRID BARRIERS (R279, R281): a drill that has arrived goes on once the phase has moved on, and acquires; one that has not
yet arrives; BAR.GRID needs COOP. -/
def Obligations.Barriers : Prop :=
  (
  ∀ (a b : Src) (c : Ctl),
    let n (x : Issue) : Nat := (srcU x a).toNat % 8
    let m (x : Issue) : Mask := srcU x b
    let y (x : Issue) : Bar := tblGet x.g.bars (n x) {}
    let i (x : Issue) : Nat := x.d.idx
    let word (x : Issue) : Prop := (srcU x a).toNat < 8
    let desc (x : Issue) : Prop := word x ∧ ∀ j < 32, (m x).getLsbD j = true → j < x.g.count
    let fits (x : Issue) : Prop := (y x).arrived.getLsbD (i x) = false ∧ (m x = 0 ∨ (m x).getLsbD (i x) = true) ∧ ((y x).arrived = 0 ∨ m x = (y x).exp)
    let now (x : Issue) : Bar := { y x with exp := m x, arrived := (y x).arrived ||| (1#32 <<< i x) }
    let over_ (x : Issue) : Bar := { phase := (y x).phase + 1, exp := 0, arrived := 0 }
    let alone (x : Issue) : Prop := i x < 32 ∧ i x < x.g.count ∧ m x = 1#32 <<< i x
    let short (x : Issue) (s : State) : Prop := ∃ j < x.g.count, (m x = 0 ∨ (m x).getLsbD j = true) ∧ (now x).arrived.getLsbD j = false ∧
      s.drillDone x.d.gid x.g j = false
    let away (x : Issue) : Prop := 1 ≤ ((y x).phase - tblGet x.d.barT (n x) 0).toNat ∧ ((y x).phase - tblGet x.d.barT (n x) 0).toNat ≤ 127
    let home (x : Issue) (s : State) : Prop := (s.drillOf x.d.gid x.g (i x)).map (·.1) = some x.k
    let seen (x : Issue) (s : State) : Prop := ∀ r ∈ x.g.barRel, r.1 = n x → r.2.1 = tblGet x.d.barT (n x) 0 →
      s.released x.d.gid x.g r.2.2.1 r.2.2.2 = true
    let clean (x : Issue) : Prop := (y x).arrived = 0 ∧ x.d.storeQueue = [] ∧ (∀ o ∈ x.d.ops, ∀ f c l v w r y, o.kind ≠ .atom f c l v w r y) ∧
      ∀ r ∈ x.g.barRel, r.1 ≠ n x ∨ r.2.1 ≠ (y x).phase
    let posted (bar : Issue → Bar) (x : Issue) (s t : State) : Prop := ∃ d' g', Issued x t d' (x.d.pc + 8) ∧ Plain x d' ∧ rest t = rest s ∧
      t.group? x.d.gid = some g' ∧ tblGet g'.bars (n x) {} = bar x ∧ (∀ j < 8, j ≠ n x → tblGet g'.bars j {} = tblGet x.g.bars j {}) ∧
      d'.barA.getLsbD (n x) = true ∧ tblGet d'.barT (n x) 0 = (y x).phase ∧ d'.barS = x.d.barS
    let left (x : Issue) (s t : State) : Prop := ∃ d', Issued x t d' (x.d.pc + 8) ∧ Kept x s t d' ∧ Plain x d' ∧
      d'.barA.getLsbD (n x) = false ∧ d'.barS.getLsbD (n x) = false ∧ ∀ j < 8, j ≠ n x → d'.barA.getLsbD j = x.d.barA.getLsbD j
    Completes (.barPost a b c) (fun x _ => desc x ∧ fits x ∧ alone x) (posted over_) ∧
    Completes (.barPost a b c) (fun x s => desc x ∧ fits x ∧ short x s) (posted now) ∧
    TrapsWhen (.barPost a b c) (fun x _ => ¬desc x) (fun _ _ => { code := 0x23 }) ∧
    TrapsWhen (.barPost a b c) (fun x _ => desc x ∧ ¬fits x) (fun _ _ => { code := 0x22 }) ∧
    CompletesLong (.barAll a b c) (fun x s => desc x ∧ x.d.barS.getLsbD (n x) = true ∧ away x ∧ seen x s) left ∧
    CompletesLong (.barAll a b c) (fun x s => desc x ∧ x.d.barS.getLsbD (n x) = false ∧ fits x ∧ alone x ∧ clean x ∧ home x s) (fun x s t => ∃ d' g',
      Issued x t d' (x.d.pc + 8) ∧ Plain x d' ∧ rest t = rest s ∧ t.group? x.d.gid = some g' ∧ tblGet g'.bars (n x) {} = over_ x ∧
      d'.barA.getLsbD (n x) = false ∧ d'.barS.getLsbD (n x) = false) ∧
    Waits (.barAll a b c) (fun x s => desc x ∧ x.d.barS.getLsbD (n x) = true ∧ ¬(away x ∧ seen x s)) ∧
    Waits (.barAll a b c) (fun x s => desc x ∧ x.d.barS.getLsbD (n x) = false ∧ fits x ∧ short x s) ∧
    TrapsLong (.barAll a b c) (fun x _ => ¬desc x) (fun _ _ => { code := 0x23 }) ∧
    TrapsLong (.barAll a b c) (fun x _ => desc x ∧ x.d.barS.getLsbD (n x) = false ∧ ¬fits x) (fun _ _ => { code := 0x22 }) ∧
    CompletesLong (.barHold a c) (fun x s => word x ∧ (x.d.barA.getLsbD (n x) = true ∨ x.d.longWait = some x.i) ∧ away x ∧ seen x s) left ∧
    Waits (.barHold a c) (fun x s => word x ∧ (x.d.barA.getLsbD (n x) = true ∨ x.d.longWait = some x.i) ∧ ¬(away x ∧ seen x s)) ∧
    Waits (.barHold a c) (fun x _ => word x ∧ x.d.barA.getLsbD (n x) = false ∧ x.d.longWait ≠ some x.i) ∧
    TrapsLong (.barHold a c) (fun x _ => ¬word x) (fun _ _ => { code := 0x23 })) ∧
  (
  ∀ (c : Ctl),
    let i (x : Issue) : Nat := x.d.idx
    let crofts (x : Issue) (s : State) : BitVec 8 := ((tblGet? s.crofts x.g.croft).map (·.phase)).getD 0
    let grids (x : Issue) (s : State) : BitVec 8 := ((tblGet? s.launches x.g.launch).map (·.gridPhase)).getD 0
    let goes (f : Issue → Sys2Proof.Machine.Group → Sys2Proof.Machine.Group) : Issue → State → State → Prop :=
      Effects fun x s => (s.modGroup x.d.gid (f x)).invalL1 (drillCore x.k)
    CompletesLong (.barCroft c) (fun x s => x.g.croftLost = false ∧ x.g.croftArr.getLsbD (i x) = true ∧ crofts x s ≠ tblGet x.g.croftT (i x) 0)
      (goes fun x g => { g with croftArr := g.croftArr &&& ~~~(1#32 <<< i x) }) ∧
    Waits (.barCroft c) (fun x s => x.g.croftLost = false ∧ x.g.croftArr.getLsbD (i x) = true ∧ crofts x s = tblGet x.g.croftT (i x) 0) ∧
    CompletesLong (.barGrid c) (fun x s => x.g.kcb.coop = true ∧ x.g.gridLost = false ∧ x.g.gridArr.getLsbD (i x) = true ∧
        grids x s ≠ tblGet x.g.gridT (i x) 0)
      (goes fun x g => { g with gridArr := g.gridArr &&& ~~~(1#32 <<< i x) }) ∧
    Waits (.barGrid c) (fun x s => x.g.kcb.coop = true ∧ x.g.gridLost = false ∧ x.g.gridArr.getLsbD (i x) = true ∧
      grids x s = tblGet x.g.gridT (i x) 0) ∧
    TrapsLong (.barGrid c) (fun x _ => x.g.kcb.coop = false) (fun _ _ => { code := 0x24 }) ∧
    (∀ s k d g, Fires (.barCroft c) s k d g → d.metWait = false → g.croftLost = false → g.croftArr.getLsbD d.idx = false → d.idx < 32 →
      (∃ m cr, tblGet? s.crofts g.croft = some cr ∧ m ∈ cr.members ∧ m ≠ d.gid ∧ s.arrivedAll false cr.phase m = false) →
      Happens (.barCroft c) s fun t => ∃ g', t.group? d.gid = some g' ∧ g'.croftArr = g.croftArr ||| (1#32 <<< d.idx) ∧
        tblGet? t.crofts g.croft = tblGet? s.crofts g.croft ∧ t.mem = s.mem))

/-- MEMORY BARRIER OBJECTS AS THEY ISSUE (R153, R283-R285): INIT, ARR and INV enter the store queue; TEST becomes outstanding; WAIT goes on when
its phase is done, waits while it is not, and raises MBAR_STATE on an object that is not valid.

WHAT AN OBJECT BECOMES (R283-R285): INIT counts up from PEND = COUNT in phase 0, with a new generation on a valid object; an arrival counts
down and ends the phase at zero; too large an arrival and an object that is not valid are errors; a phase is done within 2^31. -/
def Obligations.MemoryBarriers : Prop :=
  (
  ∀ (d : BitVec 8) (a b : Src) (c : Ctl) (l : LaneAddr) (s1 : State) (tr : TrapReq),
    let passes (acc : Access) (x : Issue) (s : State) : Prop := mbarCheck x s a acc = .ok (l, s1)
    let fails (acc : Access) (x : Issue) (s : State) : Prop := mbarCheck x s a acc = .error tr ∧ tr.code ≠ 0
    let held (acc : Access) (x : Issue) (s : State) : Prop := mbarCheck x s a acc = .error tr ∧ tr.code = 0
    let rw : Access := { r := true, w := true }
    let w (x : Issue) : Word := srcU x b
    let initOk (x : Issue) : Prop := (w x).toNat / 2 ^ 27 = 0 ∧ 1 ≤ (w x).toNat / 2 ^ 24 % 8 ∧ (w x).toNat / 2 ^ 24 % 8 ≤ 6 ∧ (w x).toNat % 2 ^ 24 ≠ 0
    let arrOk (x : Issue) : Prop := 1 ≤ (w x).toNat ∧ (w x).toNat < 2 ^ 24
    let o : MbarObj := s1.mbarAt l.pa
    let there (x : Issue) (s : State) : Prop := x.d.mbar = none ∧ passes { r := true } x s ∧ x.d.clearFor s1.seq = true ∧
      s1.gateAt (drillChip x.k) false l.pa ≠ .hold
    let open_ (x : Issue) (s : State) : Prop := there x s ∧ s1.poisoned l.pa = false
    let acquire (n : Nat) (x : Issue) (s : State) : State := if 3 ≤ n then s.invalL1 (drillCore x.k) else s
    Completes (.mbarInit a b c) (fun x s => passes rw x s ∧ initOk x) (fun x _ t => Enqueues (fun _ _ => .mbarInit l (w x)) x s1 t) ∧
    Completes (.mbarArr a b c) (fun x s => passes rw x s ∧ arrOk x) (fun x _ t => Enqueues (fun _ _ => .mbarArr l (w x).toNat) x s1 t) ∧
    Completes (.mbarInv a c) (passes rw) (fun x _ t => Enqueues (fun _ _ => .mbarInv l) x s1 t) ∧
    Completes (.mbarTest d a b c) (passes { r := true }) (fun x _ t =>
      Starts (fun x _ => .mbarTest l (w x)) (toPred d) (fun _ => 0xFFFFFFFF) x s1 t) ∧
    TrapsWhen (.mbarInit a b c) (fun x s => passes rw x s ∧ ¬initOk x) (fun _ _ => { code := 0x26 }) ∧
    TrapsWhen (.mbarArr a b c) (fun x s => passes rw x s ∧ ¬arrOk x) (fun _ _ => { code := 0x26 }) ∧
    (TrapsWhen (.mbarInit a b c) (fails rw) (fun _ _ => tr) ∧ TrapsWhen (.mbarArr a b c) (fails rw) (fun _ _ => tr) ∧
      TrapsWhen (.mbarInv a c) (fails rw) (fun _ _ => tr) ∧ TrapsWhen (.mbarTest d a b c) (fails { r := true }) fun _ _ => tr) ∧
    (WalkHeld (.mbarInit a b c) (held rw) ∧ WalkHeld (.mbarArr a b c) (held rw) ∧ WalkHeld (.mbarInv a c) (held rw) ∧
      WalkHeld (.mbarTest d a b c) (held { r := true })) ∧
    (∀ (x : Issue) (s : State) (cx : Context) (acc : Access) (real help : List LaneAddr), s.ctx? x.g.ctx = some cx →
      checkAccess s x.k x.g.ctx cx acc acc.w 16 [(0, srcU64 x a)] [] false = .ok (l :: real, help, s1) →
      mbarCheck x s a acc = if classOf l.pa = .cacheable then .ok (l, s1) else .error { code := 0x13, tval := srcU64 x a }) ∧
    CompletesLong (.mbarWait a b c) (fun x s => ∃ l s1, x.d.mbar = none ∧ mbarCheck x s a { r := true } = .ok (l, s1) ∧
        x.d.clearFor s1.seq = true ∧ s1.gateAt (drillChip x.k) false l.pa ≠ .hold ∧ s1.poisoned l.pa = false ∧ (s1.mbarAt l.pa).valid = true ∧ (s1.mbarAt l.pa).done (w x) = true)
      (fun x s t => ∃ d' l s1, mbarCheck x s a { r := true } = .ok (l, s1) ∧ Issued x t d' (x.d.pc + 8) ∧
        Kept x (acquire (s1.mbarAt l.pa).scope x s1) t d' ∧ Plain x d') ∧
    CompletesLong (.mbarWait a b c) (fun x _ => ∃ m, x.d.mbar = some m ∧ m.found = some 0)
      (fun x s t => ∃ d' m, x.d.mbar = some m ∧ Issued x t d' (x.d.pc + 8) ∧ Kept x (acquire m.scope x s) t d' ∧ Plain x d') ∧
    Waits (.mbarWait a b c) (fun x _ => ∃ m, x.d.mbar = some m ∧ m.found = none) ∧
    TrapsLong (.mbarWait a b c) (fun x s => open_ x s ∧ o.valid = false) (fun _ _ => { code := 0x27, sub := 2 }) ∧
    TrapsLong (.mbarWait a b c) (fun x s => there x s ∧ s1.poisoned l.pa = true) (fun _ _ => { code := 0x15, tval := l.va }) ∧
    TrapsLong (.mbarWait a b c) (fun x s => x.d.mbar = none ∧ fails { r := true } x s) (fun _ _ => tr) ∧
    (∀ n, n ≠ 0 → TrapsLong (.mbarWait a b c) (fun x _ => ∃ m, x.d.mbar = some m ∧ m.found = some n) fun _ _ => { code := 0x27, sub := n }) ∧
    (∀ s k d g, Fires (.mbarWait a b c) s k d g → d.metWait = false →
      open_ (comes (.mbarWait a b c) k d g) (s.armed (comes (.mbarWait a b c) k d g)) → o.valid = true → o.done (w (comes (.mbarWait a b c) k d g)) = false →
      Happens (.mbarWait a b c) s fun t => ∃ d', t.drill? k = some d' ∧ d'.pc = d.pc ∧ d'.longWait = some (.mbarWait a b c) ∧
        d'.mbar = some { pa := l.pa, gen := o.gen, p := w (comes (.mbarWait a b c) k d g), va := l.va, scope := o.scope })) ∧
  (
  ∀ (o : MbarObj) (w p : Word) (n : Nat),
    let z := o.init w
    (1 ≤ w.toNat / 2 ^ 24 → w.toNat / 2 ^ 24 ≤ 6 → w.toNat % 2 ^ 24 ≠ 0 →
      z.valid = true ∧ z.pend = w.toNat % 2 ^ 24 ∧ z.count = w.toNat % 2 ^ 24 ∧ z.scope = w.toNat / 2 ^ 24 ∧ z.phase = 0 ∧
      z.gen = if o.valid then (o.gen + 1) % 256 else 0) ∧
    (o.valid = false → o.arrive n = .error 1) ∧
    (o.valid = true → o.pend < n → o.arrive n = .error 4) ∧
    (o.valid = true → 1 ≤ n → n < o.pend → ∃ q, o.arrive n = .ok q ∧ q.valid = true ∧ q.pend = o.pend - n ∧ q.phase = o.phase ∧ q.count = o.count ∧
      q.gen = o.gen ∧ q.scope = o.scope) ∧
    (o.valid = true → n = o.pend → ∃ q, o.arrive n = .ok q ∧ q.valid = true ∧ q.pend = o.count ∧ q.phase = o.phase + 1 ∧ q.count = o.count ∧
      q.gen = o.gen ∧ q.scope = o.scope ∧ q.done o.phase = true) ∧
    (o.valid = true → (o.done p = true ↔ 1 ≤ (o.phase - p).toNat ∧ (o.phase - p).toNat < 2 ^ 31)))

/-- LNCH (R323-R325): POST reserves the next entry of a queue of its context and enters the store queue; the event vector's set and clear do;
EVTST becomes outstanding; the causes of the trap.

STK (R252-R256): CEDE enters the store queue where its context holds the stack with C; TAKE goes on where its port is open, else waits; QRY becomes
outstanding; the causes of STACK_DENIED and STACK_LOST. -/
def Obligations.LaunchCommands : Prop :=
  (
  ∀ (d : BitVec 8) (a b : Src) (c : Ctl) (cx : Context) (real help : List LaneAddr) (s1 : State) (tr : TrapReq),
    let w (x : Issue) : Word := srcU x b
    let n (x : Issue) : Nat := (w x).toNat % 2 ^ 13
    let word (x : Issue) : Prop := (w x).toNat < 2 ^ 13
    let ev (x : Issue) : Prop := (w x).toNat < 4
    let read (x : Issue) (s : State) : Prop := x.acts = true ∧ word x ∧ s.ctx? x.g.ctx = some cx ∧
      checkAccess s x.k x.g.ctx cx { r := true } false 128 [(0, srcU64 x a)] [] false = .ok (real, help, s1)
    let q (x : Issue) : Queue := s1.queue (n x)
    let mine (x : Issue) : Prop := (q x).ctx = x.g.ctx
    let up (x : Issue) : Prop := (q x).st = .opened ∨ (q x).st = .paused
    let stop (n : Nat) (_ : Issue) (_ : State) : TrapReq := { code := 0x02, sub := n }
    let entry (x : Issue) : QEntry := { id := s1.seq, idx := (q x).tail }
    let taken (x : Issue) : State := ({ s1 with seq := s1.seq + 1 } : State).setQueue (n x)
      { q x with entries := (q x).entries ++ [entry x], tail := ((q x).tail + 1) % (q x).size }
    Completes (.lnchPost a b c) (fun x _ => x.acts = false) (GoesOn after) ∧
    Completes (.lnchPost a b c) (fun x s => read x s ∧ mine x ∧ up x ∧ (q x).full = false) (fun x _ t =>
      Enqueues (fun _ _ => .post (n x) s1.seq (srcU64 x a)) x (taken x) t) ∧
    TrapsWhen (.lnchPost a b c) (fun x _ => x.acts = true ∧ ¬word x) (stop 4) ∧
    TrapsWhen (.lnchPost a b c) (fun x s => x.acts = true ∧ word x ∧ s.ctx? x.g.ctx = some cx ∧
      checkAccess s x.k x.g.ctx cx { r := true } false 128 [(0, srcU64 x a)] [] false = .error tr ∧ tr.code ≠ 0) (fun _ _ => tr) ∧
    WalkHeld (.lnchPost a b c) (fun x s => x.acts = true ∧ word x ∧ s.ctx? x.g.ctx = some cx ∧
      checkAccess s x.k x.g.ctx cx { r := true } false 128 [(0, srcU64 x a)] [] false = .error tr ∧ tr.code = 0) ∧
    TrapsWhen (.lnchPost a b c) (fun x s => read x s ∧ ¬mine x) (stop 1) ∧
    TrapsWhen (.lnchPost a b c) (fun x s => read x s ∧ mine x ∧ ¬up x) (stop 2) ∧
    TrapsWhen (.lnchPost a b c) (fun x s => read x s ∧ mine x ∧ up x ∧ (q x).full = true) (stop 3) ∧
    Completes (.lnchEvsig a b c) (fun x _ => x.acts = true ∧ ev x) (Enqueues fun x _ => .evSet x.g.ctx (w x).toNat (srcU64 x a) true) ∧
    Completes (.lnchEvclr a b c) (fun x _ => x.acts = true ∧ ev x) (Enqueues fun x _ => .evSet x.g.ctx (w x).toNat (srcU64 x a) false) ∧
    Completes (.lnchEvtst d a b c) (fun x _ => x.acts = true ∧ ev x)
      (Starts (fun x _ => .evTest x.g.ctx (w x).toNat (srcU64 x a)) (toPred d) fun _ => 0xFFFFFFFF) ∧
    (Completes (.lnchEvsig a b c) (fun x _ => x.acts = false) (GoesOn after) ∧ Completes (.lnchEvclr a b c) (fun x _ => x.acts = false) (GoesOn after) ∧
      Completes (.lnchEvtst d a b c) (fun x _ => x.acts = false) (Starts (fun _ _ => .idle) (fun _ => .nothing) fun _ => 0)) ∧
    (TrapsWhen (.lnchEvsig a b c) (fun x _ => x.acts = true ∧ ¬ev x) (stop 4) ∧
      TrapsWhen (.lnchEvclr a b c) (fun x _ => x.acts = true ∧ ¬ev x) (stop 4) ∧
      TrapsWhen (.lnchEvtst d a b c) (fun x _ => x.acts = true ∧ ¬ev x) (stop 4))) ∧
  (
  ∀ (d : BitVec 8) (sd : BitVec 4) (sk : BitVec 3) (c : Ctl),
    let k : Nat := sd.toNat % 8
    let side : Nat := sd.toNat / 8
    let holds (x : Issue) (s : State) : Prop := (s.stack k).holder = some x.g.ctx
    let up (s : State) : Prop := s.chipUp (stackDie k side) = true
    let fresh (x : Issue) : Prop := x.acts = true ∧ x.d.longWait ≠ some x.i
    let here (s : State) : Prop := (s.stack k).open_ = true ∧ (s.stack k).owner = side
    Completes (.stkCede sd c) (fun x _ => x.acts = false) (GoesOn after) ∧
    Completes (.stkCede sd c) (fun x s => x.acts = true ∧ holds x s ∧ (s.stack k).cedeRight = true) (Enqueues fun x _ => .cede k side x.i.ctl.tk1) ∧
    TrapsWhen (.stkCede sd c) (fun x s => x.acts = true ∧ ¬holds x s) (fun _ _ => { code := 0x14, sub := 1 }) ∧
    TrapsWhen (.stkCede sd c) (fun x s => x.acts = true ∧ holds x s ∧ (s.stack k).cedeRight = false) (fun _ _ => { code := 0x14, sub := 2 }) ∧
    CompletesLong (.stkTake sd c) (fun x s => fresh x ∧ holds x s ∧ up s ∧ here s) (Effects fun x s => s.invalL1 (drillCore x.k)) ∧
    CompletesLong (.stkTake sd c) (fun x _ => x.acts = false) (GoesOn after) ∧
    Waits (.stkTake sd c) (fun x s => fresh x ∧ holds x s ∧ up s ∧ ¬here s) ∧
    Waits (.stkTake sd c) (fun x _ => x.acts = true ∧ x.d.longWait = some x.i) ∧
    TrapsLong (.stkTake sd c) (fun x s => fresh x ∧ ¬holds x s) (fun _ _ => { code := 0x14, sub := 1 }) ∧
    TrapsLong (.stkTake sd c) (fun x s => fresh x ∧ holds x s ∧ ¬up s) (fun _ _ => { code := 0x28, sub := 2 }) ∧
    Completes (.stkQry d sk c) (fun x _ => x.acts = true) (Starts (fun _ _ => .stkQry sk.toNat) (toUni d 1) fun _ => 0xFFFFFFFF) ∧
    Completes (.stkQry d sk c) (fun x _ => x.acts = false) (Starts (fun _ _ => .idle) (fun _ => .nothing) fun _ => 0))

/-! ### Plots -/

/-- THE COMMANDS OF PLOTS AS THEY ISSUE (R213-R215, R218-R229, R231-R235, R238): each enters the store queue; RSV and ARD have a result; the traps
PLOT_STATE and PLOT_DESC; the waits of MSYNC.

CARVING (R208, R209, R223): PLOT.CARVE makes a plot of free, aligned, enabled segments for a context that may have one, and uncarves
one; it refuses anything else with PLOT_STATE. -/
def Obligations.PlotCommands : Prop :=
  (
  ∀ (d : BitVec 8) (a b : Src) (c : Ctl) (sl : BitVec 5) (cnt : BitVec 4) (slots : BitVec 9) (which : BitVec 2) (bank : Bool),
    let w (x : Issue) : Word := srcU x a
    let v (x : Issue) : Word := srcU x b
    let owns (x : Issue) : Prop := x.g.plot.isSome = true
    let none_ (_ : Issue) : Option (VarKind × LandTo) := none
    let lacks (i : Instr) : Prop := TrapsWhen i (fun x _ => ¬owns x) fun _ _ => { code := 0x1C }
    let m (i : Instr) (collective : Bool) (cmd : Issue → PlotCmd) : Prop :=
      Completes i (fun x _ => owns x) (EntersPlot collective (fun x _ => cmd x) none_) ∧ lacks i
    let worded (i : Instr) (collective : Bool) (ok : Issue → State → Prop) (cmd : Issue → State → PlotCmd) (op : Issue → Option (VarKind × LandTo)) : Prop :=
      Completes i (fun x s => owns x ∧ ok x s) (EntersPlot collective cmd op) ∧ lacks i ∧
      TrapsWhen i (fun x s => owns x ∧ ¬ok x s) fun _ _ => { code := 0x1D }
    let side : Nat := sl.toNat / 16
    let first : Nat := sl.toNat % 16
    let lanes_ (x : Issue) : List (Nat × Nat) := ((List.range 32).filter (counts x)).map fun l => (l, 32 * x.d.idx + l)
    let column (x : Issue) (s : State) (n : Nat) : Prop := (v x).toNat / 2 ^ 17 = 0 ∧ (v x).toNat / 2 ^ 10 % 2 ^ 6 = 0 ∧
      ∀ p, s.plotOf x.g = some p → (v x).toNat % 2 ^ 10 + n ≤ 256 * 2 ^ p.logC
    let sb (x : Issue) : Bool := (v x).getLsbD 31
    let ldvOk (x : Issue) (_ : State) : Prop := (v x).toNat / 2 ^ 25 % 2 ^ 6 = 0 ∧ (v x).toNat / 2 ^ 6 % 2 ^ 4 = 0 ∧
      (sb x = true → (v x).toNat % 2 ^ 6 = 0)
    let rsvOk (x : Issue) : Prop := (w x).toNat < 2 ^ 9 ∧ (w x).toNat / 2 ^ 5 % 8 = 0
    Completes (.plotRsv d a c) (fun x _ => rsvOk x) (EntersPlot true (fun x _ => .rsv (w x)) fun x => some (.plotRsv none, toPred d x)) ∧
    TrapsWhen (.plotRsv d a c) (fun x _ => ¬rsvOk x) (fun _ _ => { code := 0x1D }) ∧
    m (.plotRel c) true (fun _ => .rel) ∧
    Completes (.plotQry d which c) Always (Starts (fun _ _ => .plotQry which.toNat) (toUni d 1) inUni) ∧
    worded (.plotMerge a c) true (fun x _ => (w x).toNat < 16) (fun x _ => .merge (w x).toNat) none_ ∧
    worded (.plotSplit a c) true (fun x _ => (w x).toNat < 32) (fun x _ => .split ((w x).toNat / 16) ((w x).toNat % 16)) none_ ∧
    m (.bedClaim sl cnt c) true (fun _ => .bedClaim side first (cnt.toNat + 1)) ∧
    m (.bedRel sl cnt c) true (fun _ => .bedRel side first (cnt.toNat + 1)) ∧
    m (.bedZero sl cnt c) true (fun _ => .bedZero side first (cnt.toNat + 1)) ∧
    m (.bedScl sl b c) true (fun x => .bedScl side first (v x)) ∧
    worded (.bedLdv a b c) false ldvOk (fun x _ => .bedLdv (sb x) ((v x).toNat / 2 ^ 24 % 2) ((v x).toNat / 2 ^ 20 % 16) ((v x).toNat / 2 ^ 10 % 2 ^ 10)
      ((v x).toNat % 2 ^ 6) (lanesOf fun l => src32 x a l) (lanes_ x)) none_ ∧
    (∀ f ovr, m (.mma f ovr slots b c) true fun x =>
      let e (n : Nat) : Int := if f.isMx then ((v x).extractLsb' (8 * n) 8).toInt else 0
      .mma f ovr (slots.toNat / 256) (slots.toNat / 16 % 16) (slots.toNat % 16) (e 0) (e 1)) ∧
    m (.msyncOpf c) false (fun _ => .opf) ∧ m (.msyncDrain c) true (fun _ => .drain) ∧
    CompletesLong (.msyncWait c) (fun x _ => x.d.plotOut = []) (Effects fun x s => s.invalL1 (drillCore x.k)) ∧
    Waits (.msyncWait c) (fun x _ => x.d.plotOut ≠ []) ∧
    (∀ f bf, worded (.ard f bf d b c) false (fun x s => column x s f.columns ∧ (v x).toNat % 2 ^ 10 % f.columns = 0)
      (fun x s => .ard s.seq f.columns bf ((v x).toNat / 2 ^ 16 % 2) ((v x).toNat % 2 ^ 10))
      fun x => some (.ard f.columns bf c.nf none, .vec (vStore x.d.sysMode d.toNat) (ardRegs f bf))) ∧
    worded (.awr a b c) false (fun x s => column x s 1) (fun x _ => .awr ((v x).toNat / 2 ^ 16 % 2) ((v x).toNat % 2 ^ 10)
      (lanesOf fun l => src32 x a l) (lanes_ x)) none_ ∧
    (∀ f, worded (.ast f a c) true (fun x _ => astDescOk f (srcWindow x a) = true) (fun x _ => .ast f (srcWindow x a)) none_) ∧
    m (.azr bank c) true fun _ => .azr bank.toNat) ∧
  (
  ∀ (a : Src) (c : Ctl),
    let w (x : Issue) : Nat := (srcU x a).toNat
    let die (x : Issue) : Nat := w x / 2 ^ 18 % 4
    let num (x : Issue) : Nat := w x / 2 ^ 14 % 16
    let logR (x : Issue) : Nat := w x / 2 ^ 12 % 4
    let logC (x : Issue) : Nat := w x / 2 ^ 10 % 4
    let row0 (x : Issue) : Nat := w x / 2 ^ 7 % 8
    let col0 (x : Issue) : Nat := w x / 2 ^ 4 % 8
    let ctx (x : Issue) : Nat := w x / 2 ^ 20
    let key (x : Issue) : Nat := die x * 16 + num x
    let free_ (x : Issue) (s : State) : Prop := logR x ≤ 2 ∧ logC x ≤ 2 ∧ row0 x % 2 ^ logR x = 0 ∧ col0 x % 2 ^ logC x = 0 ∧
      ∀ i < 2 ^ logR x, ∀ j < 2 ^ logC x, let g := 8 * (row0 x + i) + (col0 x + j)
        (tblGet s.tables (8 + die x) 0).getLsbD (64 + g) = true ∧ ∀ n p, (n, p) ∈ s.plots → p.die = die x → g ∉ p.segs
    let ok (x : Issue) (s : State) : Prop := s.plot? (key x) = none ∧ free_ x s ∧ (∃ cx, s.ctx? (ctx x) = some cx ∧ cx.carve = true) ∧ w x % 16 = 0
    Completes (.plotCarve a c) ok (fun x s t => ∃ s1 d' p, Issued x t d' (x.d.pc + 8) ∧ Kept x s1 t d' ∧ Plain x d' ∧ s1.drills = s.drills ∧
      s1.groups = s.groups ∧ s1.ctxs = s.ctxs ∧ s1.mem = s.mem ∧ s1.plot? (key x) = some p ∧ (∀ n, n ≠ key x → s1.plot? n = s.plot? n) ∧
      p.die = die x ∧ p.num = num x ∧ p.logR = logR x ∧ p.logC = logC x ∧ p.row0 = row0 x ∧ p.col0 = col0 x ∧ p.ctx = ctx x ∧ p.st = .carved ∧
      p.gid = none ∧ p.queue = [] ∧ p.flight = [] ∧ (s.oldPlots = [] → p.store = {})) ∧
    TrapsWhen (.plotCarve a c) (fun x s => ¬ok x s) (fun _ _ => { code := 0x1C }) ∧
    Completes (.plotUncarve a c) (fun x s => ∃ p, s.plot? (key x) = some p ∧ p.gid = none) (fun x s t => ∃ s1 d' p, Issued x t d' (x.d.pc + 8) ∧
      Kept x s1 t d' ∧ Plain x d' ∧ s.plot? (key x) = some p ∧ s1.plot? (key x) = none ∧ (∀ n, n ≠ key x → s1.plot? n = s.plot? n) ∧ s1.mem = s.mem ∧
      ∃ o, s1.oldPlots = o :: s.oldPlots ∧ o.ctx = p.ctx ∧ o.store = p.store ∧ (o.die, o.logR, o.logC, o.row0, o.col0) = (p.die, p.logR, p.logC, p.row0, p.col0)) ∧
    Completes (.plotUncarve a c) (fun x s => ∃ p, s.plot? (key x) = some p) (fun x _ t => ∃ d', Issued x t d' (x.d.pc + 8) ∧ t.plot? (key x) = none) ∧
    TrapsWhen (.plotUncarve a c) (fun x s => s.plot? (key x) = none) fun _ _ => { code := 0x1C })

/-- THE STORAGE OF A PLOT (R205, R206, R226, R227, R230, R234): what an MMA, a lane write, BED.ZERO and BED.SCL leave in it. -/
def Obligations.PlotStorage : Prop :=
  ∀ (s : State) (plot : Nat) (p : Plot), s.plot? plot = some p → p.logR ≤ 2 → p.logC ≤ 2 →
    (∀ q ∈ p.flight, q.tk1 = 0 ∧ ∀ b, q.cmd ≠ .azr b) → p.st ≠ .draining →
    let acc (st : PlotStore) (bank i j : Nat) : Word := st.elem ((bank * 512 + i) * 1024 + j)
    let key (side slot l : Nat) : Nat := (side * 16 + slot) * 1024 + l
    let becomes (i : Instr) (P : Plot → Prop) : Prop := Happens i s fun t => ∃ p', t.plot? plot = some p' ∧ P p' ∧ t.mem = s.mem
    (∀ r rest f ovr bank north west ea eb, p.flight = r :: rest → r.cmd = .mma f ovr bank north west ea eb → r.finished = false → r.started = true →
      r.touched = [] → bank < 2 → becomes (.mmaCompletion plot) fun p' =>
        (∀ i ∈ r.rows, i < 128 * 2 ^ p.logR → ∀ j < 256 * 2 ^ p.logC, acc p'.store bank i j = BitVec.ofNat 32 (mmaElem f ovr ea eb
          (acc p.store bank i j) (p.store.line (key 0 west i)) (p.store.line (key 1 north j)) (p.store.side (key 0 west i)) (p.store.side (key 1 north j))).1) ∧
        (∀ b i j, b < 2 → i < 512 → j < 1024 → (b ≠ bank ∨ i ∉ r.rows ∨ 128 * 2 ^ p.logR ≤ i ∨ 256 * 2 ^ p.logC ≤ j) → acc p'.store b i j = acc p.store b i j) ∧
        p'.store.lines = p.store.lines ∧ p'.store.sides = p.store.sides) ∧
    (∀ w idx bank col v lanes, p.posted[idx]? = some w → w.cmd = .awr bank col v lanes → w.early = false → bank < 2 → col < 1024 →
      (∀ q ∈ p.flight, ∀ f e, q.cmd ≠ .ast f e) → (lanes.map (·.2)).Nodup → becomes (.postedBedWriteDone plot idx) fun p' =>
        (∀ q ∈ lanes, q.2 < 128 * 2 ^ p.logR → acc p'.store bank q.2 col = lane v q.1) ∧
        ∀ b i j, b < 2 → i < 512 → j < 1024 → (b ≠ bank ∨ j ≠ col ∨ i ∉ lanes.map (·.2)) → acc p'.store b i j = acc p.store b i j) ∧
    (∀ w idx side slot line0 word v lanes, p.posted[idx]? = some w → w.cmd = .bedLdv false side slot line0 word v lanes → w.early = false → word < 64 →
      (lanes.map (·.2)).Nodup → becomes (.postedBedWriteDone plot idx) fun p' =>
        (∀ q ∈ lanes, line0 + q.2 < slotLines p side → ∀ n < 64, (p'.store.line (key side slot (line0 + q.2))).extractLsb' (32 * n) 32 =
          if n = word then lane v q.1 else (p.store.line (key side slot (line0 + q.2))).extractLsb' (32 * n) 32) ∧ p'.store.acc = p.store.acc) ∧
    (∀ r rest side first n, p.flight = r :: rest → r.cmd = .bedZero side first n → r.finished = false → becomes (.bedZeroSclCompletion plot) fun p' =>
      (∀ m < n, ∀ l < slotLines p side, p'.store.line (key side (first + m) l) = 0 ∧ p'.store.side (key side (first + m) l) = 0) ∧ p'.store.acc = p.store.acc) ∧
    (∀ r rest side slot v, p.flight = r :: rest → r.cmd = .bedScl side slot v → r.finished = false → becomes (.bedZeroSclCompletion plot) fun p' =>
      (∀ l < slotLines p side, p'.store.side (key side slot l) = v.setWidth 16) ∧ p'.store.lines = p.store.lines ∧ p'.store.acc = p.store.acc)

/-- THE QUEUE OF A PLOT (R216, R217, R226, R229, R240): a command at its head is taken once nothing holds it; claims and releases act at
once; an MMA starts where its slots are IDLE; an execution error stops the plot.

AST (R235-R237, R242): it completes when its lines are written, stops at a fault with what came before written, and stops the plot
where a line cannot be written. -/
def Obligations.PlotQueue : Prop :=
  (
  ∀ (s : State) (plot : Nat) (p : Plot), s.plot? plot = some p → s.seqHeld = false →
    (∀ q ∈ p.flight, q.tk1 = 0 ∧ ∀ b, q.cmd ≠ .azr b) →
    let named (side first n : Nat) : List Nat := (List.range n).map fun j => side * 16 + first + j
    let halted (p' : Plot) : Prop := if p.st = .draining then p'.st = .carved ∧ p'.gid = none ∧ p'.store = {} else p'.st = .faulted ∧ p'.store = p.store
    let stops (i : Instr) : Prop := Happens i s fun t => ∃ p', t.plot? plot = some p' ∧ halted p' ∧ p'.queue = [] ∧ p'.flight = [] ∧ p'.posted = [] ∧ t.mem = s.mem
    (∀ r rest, p.queue = r :: rest → p.st ≠ .faulted → p.holds r = false → r.tk0 = 0 → r.tk1 = 0 →
      (∀ side first n, r.cmd = .bedClaim side first n →
        ((∀ k ∈ named side first n, k ∉ p.claimed) → Happens (.plotCommandDequeue plot) s fun t => ∃ p', t.plot? plot = some p' ∧
          p'.claimed = p.claimed ++ named side first n ∧ p'.store = p.store ∧ t.mem = s.mem) ∧
        ((∃ k ∈ named side first n, k ∈ p.claimed) → stops (.plotCommandDequeue plot))) ∧
      (∀ side first n, r.cmd = .bedRel side first n →
        ((∀ k ∈ named side first n, k ∈ p.claimed) → Happens (.plotCommandDequeue plot) s fun t => ∃ p', t.plot? plot = some p' ∧
          (∀ k, k ∈ p'.claimed ↔ k ∈ p.claimed ∧ k ∉ named side first n) ∧ p'.store = p.store ∧ t.mem = s.mem) ∧
        ((∃ k ∈ named side first n, k ∉ p.claimed) → stops (.plotCommandDequeue plot))) ∧
      (∀ f ovr bank north west ea eb, r.cmd = .mma f ovr bank north west ea eb → r.finished = false →
        Happens (.plotCommandDequeue plot) s fun t => ∃ p', t.plot? plot = some p' ∧ { r with ovf := false } ∈ p'.flight ∧ p'.store = p.store ∧ t.mem = s.mem)) ∧
    (∀ r rest, p.queue = r :: rest → p.holds r = true → Idle (.plotCommandDequeue plot) s) ∧
    (∀ r f ovr bank north west ea eb, p.flight = [r] → r.started = false → r.cmd = .mma f ovr bank north west ea eb →
      (p.sinceMma = none ∨ ∃ u n, p.sinceMma = some (u, n) ∧ u ≤ n ∧ s.gap p ≤ n) →
      (west ∉ p.claimed → 16 + north ∉ p.claimed → p.poisoned = false → Happens (.mmaStart plot) s fun t => ∃ p' r', t.plot? plot = some p' ∧
        p'.flight = [r'] ∧ r'.started = true ∧ r'.cmd = r.cmd ∧ p'.store = p.store ∧ t.mem = s.mem ∧
        p'.sinceMma = some (match f with | .mx6 => 86 | .mx4 => 32 | _ => 128, 0)) ∧
      (west ∈ p.claimed ∨ 16 + north ∈ p.claimed ∨ p.poisoned = true → stops (.mmaStart plot))) ∧
    (p.st ≠ .carved → p.st ≠ .faulted → stops (.plotEccError plot)) ∧
    (p.st = .carved ∨ p.st = .faulted → Idle (.plotEccError plot) s)) ∧
  (
  ∀ (s : State) (plot : Nat) (p : Plot) (r : PlotRun) (f : AstFn) (w : List Word) (s' : State) (n : Nat) (stop : Option AstStop),
    s.plot? plot = some p → p.astNow = some (r, f, w) → s.runAst plot p r f w = some (s', n, stop) →
    (∃ p1, s'.plot? plot = some p1 ∧ p1.flight = p.flight ∧ p1.st = p.st) →
    (stop = none → Happens (.astCompletion plot none) s fun t =>
      t.mem = (s'.astDone plot p ((astLines p r f w).map fun q => (q.1, q.2.1.length))).mem ∧ ∃ p', t.plot? plot = some p') ∧
    (∀ va e, stop = some (.fault va e) → Happens (.astFaultStop plot) s fun t =>
      ((s'.reg (dieReg (8 + p.die) 0x40000)).getLsbD 0 = false → (∀ x ∈ s'.recs (8 + p.die), x.2.st ≠ .pending ∧ x.2.stale = false) → t.mem = s'.mem) ∧ ∃ p' q, t.plot? plot = some p' ∧ q ∈ p'.flight ∧
      q.cmd = .ast f w ∧ q.units = n ∧ q.fault.isSome = true) ∧
    (stop = some .abort → p.st ≠ .draining → Happens (.astAbort plot) s fun t => t.mem = s'.mem ∧ ∃ p', t.plot? plot = some p' ∧ p'.st = .faulted ∧ p'.queue = [] ∧
      p'.flight = []) ∧
    (stop ≠ none → Idle (.astCompletion plot none) s) ∧
    ∀ j s1 m p1, s.astPart plot p r f w j = some (s1, m) → s1.plot? plot = some p1 → p1.flight = p.flight → Happens (.astCompletion plot (some j)) s fun t => t.mem = s1.mem ∧ ∃ p' q,
      t.plot? plot = some p' ∧ q ∈ p'.flight ∧ q.cmd = .ast f w ∧ q.units = m ∧ q.finished = false)

/-- COLLECTIVES (R212-R215, R220): where every drill's copy is at the head of its stream, agreeing copies act as one command whose rows are
the drills' current masks; copies that disagree stop the plot. -/
def Obligations.Collectives : Prop :=
  ∀ (s : State) (gid : Nat) (g : Sys2Proof.Machine.Group) (c : PlotCopy) (cs : List PlotCopy), s.group? gid = some g → s.nextCollective gid g = c :: cs →
    let all := c :: cs
    let agrees : Prop := ∀ q ∈ all, q.cmd = c.cmd ∧ q.sig = c.sig ∧ q.vals = c.vals ∧ q.nf = c.nf
    (agrees → c.cmd.isM = true → ∀ key p, g.plot = some key → s.plot? key = some p → p.st ≠ .faulted →
      Happens (.collectiveAssembly gid) s fun t => ∃ p' run, t.plot? key = some p' ∧ run ∈ p'.queue ∧ run.cmd = c.cmd ∧ run.nf = c.nf ∧ run.tk0 = c.tk0 ∧
        run.tk1 = c.tk1 ∧ (∀ i, i ∈ run.rows ↔ i < g.g ∧ ∃ q ∈ all, q.drill = i / 32 ∧ inMask q.cm (i % 32) = true) ∧ t.mem = s.mem) ∧
    (agrees → ∀ w key, c.cmd = .rsv w → s.rsvChoice g w = .ok key → (s.plot? key).isSome = true →
      Happens (.collectiveAssembly gid) s fun t => (t.group? gid).map (·.plot) = some (some key) ∧ ∃ p', t.plot? key = some p' ∧ p'.gid = some gid ∧
        (p'.st = .reserved ∨ p'.st = .running) ∧ p'.claimed = []) ∧
    (agrees → ∀ w n, c.cmd = .rsv w → s.rsvChoice g w = .error n → Happens (.collectiveAssembly gid) s fun t =>
      (t.group? gid).map (·.plot) = some g.plot ∧ (t.group? gid).map (·.last) = some n) ∧
    (¬agrees → ∀ key p, g.plot = some key → s.plot? key = some p → p.st ≠ .draining →
      Happens (.collectiveAssembly gid) s fun t => ∃ p', t.plot? key = some p' ∧ p'.st = .faulted ∧ p'.queue = [] ∧ t.mem = s.mem)

/-! ### The events of drills and of memory -/

/-- WHAT IS TAKEN AT A BOUNDARY (R85, R86, R186, R272, R275, R293, R297, R298, R308): asynchronous traps in their order, the pre-emption trap, OVERRUN,
a user-level interrupt. -/
def Obligations.BoundaryEvents : Prop :=
  ∀ (s : State) (k : Nat) (d : Drill) (g : Sys2Proof.Machine.Group) (c : Context), s.drill? k = some d → s.group? d.gid = some g → s.ctx? g.ctx = some c →
    let record (code sub station : Nat) : Word := BitVec.ofNat 32 (sub * 2 ^ 24 + station * 2 ^ 20 + 2 ^ 15 + code)
    let vectors (i : Instr) (vec : DWord) (routine : Nat) (cause : Word) (P : Drill → Prop) : Prop := Happens i s fun t => ∃ d', t.drill? k = some d' ∧
      d'.sysMode = true ∧ d'.routine = routine ∧ d'.pc = vec ∧ d'.swathPc = vec ∧ d'.idxInSwath = 0 ∧ d'.st = .ready ∧ d'.cm = d.cm ∧
      d'.maskStack = d.maskStack ∧ d'.tcause = cause ∧ P d' ∧ ∀ j, j ≠ k → t.drill? j = s.drill? j
    let calm : Prop := s.atBoundary k d = true ∧ d.poisonDue = none ∧ d.sysMode = false
    let xi (d' : Drill) : Prop := d'.epc = d.pc ∧ d'.xi = if d.mid then packXi true d.skipTk0 d.idxInSwath d.swathPc else 0
    (∀ t, t ∈ d.pendTraps → calm → (∀ q ∈ d.pendTraps, q.code = t.code → q = t) → t.code ≠ 0x30 → t.code ≠ 0x32 → c.trapvec ≠ 0 →
      (t.code = 0x15 ∨ ((∀ q ∈ d.pendTraps, q.code ≠ 0x15) ∧ ∀ q ∈ d.pendTraps, t.code ≤ q.code)) →
      vectors (.boundaryTrap k) c.trapvec 0 (record t.code t.sub t.station) fun d' =>
        xi d' ∧ ∀ q ∈ d.pendTraps, q ≠ t → q ∈ d'.pendTraps) ∧
    (calm → d.pendTraps = [] → Idle (.boundaryTrap k) s) ∧
    (calm → d.pendTraps = [] → d.pendOverrun = true → g.st ≠ .preempting → c.trapvec ≠ 0 →
      vectors (.overrun k) c.trapvec 0 (record 0x31 0 0) fun d' => xi d' ∧ d'.pendOverrun = false) ∧
    (d.pendOverrun = false → Idle (.overrun k) s) ∧
    (calm → d.pendTraps = [] → g.st = .preempting → d.st ≠ .done → vectors (.preempt k) c.savevec 1 (record 0x32 0 0) xi) ∧
    (∀ recs, d.st = .parked → d.park = some (.faults recs) → s.held = false → d.sysMode = false → g.st = .preempting →
      vectors (.preempt k) c.savevec 1 (record 0x32 0 0) fun d' => d'.epc = d.epc ∧ d'.xi = d.xi) ∧
    (g.st ≠ .preempting → Idle (.preempt k) s) ∧
    (∀ n cx, s.ctx? n = some cx → cx.st = .active → cx.budget = 0 → cx.armed = true → Happens (.budgetExhausted n) s fun t =>
      t.ctx? n = some { cx with armed := false } ∧ SameMemory s t ∧ ∀ j e h, s.drill? j = some e → s.group? e.gid = some h →
        t.drill? j = some (if e.st ≠ .done ∧ h.ctx = n ∧ (h.st = .running ∨ h.st = .restoring) then { e with pendOverrun := true } else e)) ∧
    (∀ n cx, s.ctx? n = some cx → (cx.budget ≠ 0 ∨ cx.armed = false ∨ cx.st ≠ .active) → Idle (.budgetExhausted n) s) ∧
    (d.st = .ready → d.idxInSwath = 0 → d.landings = [] → d.longWait = none → d.skipTk0 = false → s.held = false → d.uiDue = true → d.errorDue = false →
      s.overrunDue d = false → s.preemptDue d = false → Happens (.userInterruptDelivery k) s fun t => ∃ d', t.drill? k = some d' ∧ d'.pc = d.uivec ∧
        d'.uiepc = d.pc ∧ d'.uiAct = true ∧ d'.uiPend = 0 ∧ d'.uiPi = false ∧ d'.uiPo = false ∧ d'.maskStack = d.cm :: d.maskStack ∧
        d'.cm = presentLanes g.g d.idx ∧ d'.sAt 0 = BitVec.ofNat 32 (d.uiPend + d.uiPi.toNat * 256 + d.uiPo.toNat * 512) ∧
        (∀ j < 8, d'.sAt (64 + j) = d.sAt j ∧ (1 ≤ j → d'.sAt j = d.sAt (64 + j))) ∧ (∀ r, 8 ≤ r → r < 64 → d'.sAt r = d.sAt r) ∧ d'.v = d.v ∧ d'.k = d.k ∧
        d'.sysMode = d.sysMode ∧ SameMemory s t ∧ ∀ j, j ≠ k → t.drill? j = s.drill? j) ∧
    (d.uiDue = false → Idle (.userInterruptDelivery k) s)

/-- ARBITRATION, STALLS AND WAITS (R69-R71, R74, R85, R306): a READY drill wins a free slot; a stall ends when what it waits for has come; a
cycle passes; a WAITING drill whose condition is met is READY.

INSTRUCTION FETCH (R123, R124, R399, R401): a drill's buffer asks for a line by its virtual address; a line that comes goes to the cache and to every
buffer that waits for it; a line that cannot come is a FETCH_FAULT. -/
def Obligations.DrillEvents : Prop :=
  (
  ∀ (s : State) (k : Nat) (d : Drill), s.drill? k = some d →
    let moves (i : Instr) (e : Drill) : Prop := Happens i s fun t => t.drill? k = some e ∧ (∀ j, j ≠ k → t.drill? j = s.drill? j) ∧ SameMemory s t
    (∀ die core slot, let c := die * 128 + core
      let busy : Prop := ∃ p ∈ s.drills, drillCore p.1 = c ∧ p.2.slot = slot ∧ (p.2.st = .issuing ∨ p.2.st = .stalled)
      let can (p : Nat × Drill) : Prop := drillCore p.1 = c ∧ s.eligible p.2 slot = true
      (s.held = false → ¬busy → (∃ p ∈ s.drills, can p) → Happens (.swathArbitration die core slot) s fun t => ∃ p ∈ s.drills, can p ∧
        t.drill? p.1 = some { p.2 with st := .issuing, stall := none } ∧ (∀ j, j ≠ p.1 → t.drill? j = s.drill? j) ∧
        tblGet (t.core c).rr slot 63 = drillPos p.1 ∧ SameMemory s t) ∧
      (busy ∨ (∀ p ∈ s.drills, ¬can p) → Idle (.swathArbitration die core slot) s)) ∧
    (∀ w, d.st = .stalled → d.stall = some w → s.held = false →
      (s.stallOver k d w = true → w ≠ .drain → d.lostTrap = none → moves (.stallEnd k) { d with st := .issuing, stall := none }) ∧
      (s.stallOver k d w = true → w = .cond → s.longMet k d = false → ∀ t, d.lostTrap = some t → Happens (.stallEnd k) s fun s' => ∃ d', s'.drill? k = some d' ∧
        d'.st = .issuing ∧ d'.pc = d.pc + 8 ∧ d'.longWait = none ∧ t ∈ d'.pendTraps ∧ SameMemory s s' ∧ ∀ j, j ≠ k → s'.drill? j = s.drill? j) ∧
      (s.stallOver k d w = true → w = .drain → ∀ t, d.trap = some t →
        exec (.stallEnd k) s = .next (s.takeTrap k t (!(t.completed && d.idxInSwath = 0)) false d.idxInSwath)) ∧
      (s.stallOver k d w = false → Idle (.stallEnd k) s)) ∧
    (d.st ≠ .stalled → Idle (.stallEnd k) s) ∧
    (d.st ≠ .issuing → d.st ≠ .stalled → d.resumed = false → Happens (.resultLanding k) s fun t => t = s.advance k ∧ ∃ d', t.drill? k = some d' ∧ d'.n = d.n + 1 ∧
      d'.landings = d.landings.filter (fun y => decide (d.n + 1 < y.due)) ∧ d'.pc = d.pc ∧ d'.st = d.st) ∧
    (d.st = .issuing ∨ d.st = .stalled ∨ d.resumed = true → Idle (.resultLanding k) s) ∧
    (d.st = .waiting → s.longMet k d = true → moves (.longWaitMet k) { d with st := .ready }) ∧
    (d.st = .waiting → s.longMet k d = false → d.sysMode = false ∨ d.lostTrap = none → Idle (.longWaitMet k) s) ∧
    (d.st = .waiting → s.longMet k d = false → d.sysMode = true → ∀ t, d.lostTrap = some t → Happens (.longWaitMet k) s fun s' => ∃ d', s'.drill? k = some d' ∧
      d'.st = .ready ∧ d'.pc = d.pc + 8 ∧ d'.longWait = none ∧ t ∈ d'.pendTraps ∧ SameMemory s s' ∧ ∀ j, j ≠ k → s'.drill? j = s.drill? j) ∧
    (d.st ≠ .waiting → Idle (.longWaitMet k) s) ∧
    (∀ a c g, s.group? d.gid = some g → d.longWait = some (.sysWaiti a c) →
      let t := srcU64 { k := k, d := d, g := g, i := .sysWaiti a c, act := d.cm } a
      (t ≠ 0 → t.toNat ≤ s.gtime.toNat → d.st = .waiting → moves (.waitiDeadline k) { d with st := .ready }) ∧
      (t ≠ 0 → t.toNat ≤ s.gtime.toNat → d.st = .stalled → d.stall = some .cond → s.held = false →
        moves (.waitiDeadline k) { d with st := .issuing, stall := none }) ∧
      (t = 0 ∨ s.gtime.toNat < t.toNat → Idle (.waitiDeadline k) s))) ∧
  (
  ∀ (s : State) (k : Nat) (d : Drill) (g : Sys2Proof.Machine.Group) (cx : Context), s.drill? k = some d → s.group? d.gid = some g → s.ctx? g.ctx = some cx →
    let c := drillCore k
    (∀ line rest, d.fetchWant = line :: rest →
      let go := (s.setDrill k { d with fetchWant := rest }).translate (drillChip k) cx (BitVec.ofNat 64 (128 * line)) { x := true }
      let hit (s1 : State) (pa : Nat) : Option Line := tblGet? (s1.core c).icache (pa / 128)
      (∀ e, go = .error e → e.cause = 0 → Happens (.fetchBufferRequest k) s fun t => t.drill? k = some d ∧ SameMemory s t) ∧
      (∀ e, go = .error e → e.cause ≠ 0 → Happens (.fetchBufferRequest k) s fun t => ∃ d', t.drill? k = some d' ∧ d'.fetchWant = rest ∧
        { line := line, data := none, pline := none } ∈ d'.fetch ∧ d'.pc = d.pc ∧ d'.st = d.st ∧ SameMemory s t) ∧
      (∀ pa s1, go = .ok (pa, s1) → s1.fetchable g.ctx pa = true → Happens (.fetchBufferRequest k) s fun t => ∃ d', t.drill? k = some d' ∧
        d'.fetchWant = rest ∧ { line := line, data := hit s1 pa, pline := some (pa / 128) } ∈ d'.fetch ∧ d'.pc = d.pc ∧ d'.st = d.st ∧ SameMemory s1 t ∧
        (hit s1 pa = none → pa / 128 ∈ (t.core c).ifills))) ∧
    (d.fetchWant = [] → Idle (.fetchBufferRequest k) s) ∧
    (∀ die core line, let q := die * 128 + core
      (line ∈ (s.core q).ifills → s.gateAt (4 + die) false (128 * line) ≠ .hold → classOf (128 * line) = .cacheable → s.poisoned (128 * line) = false → core < 128 →
        Happens (.icacheFillDone die core line) s fun t => tblGet? (t.core q).icache line = some (s.lineAt line) ∧ line ∉ (t.core q).ifills ∧ t.mem = s.mem ∧
          ∀ j e, s.drill? j = some e → drillCore j = q → ∃ e', t.drill? j = some e' ∧ e'.pc = e.pc ∧ ∀ f ∈ e.fetch, f.pline = some line → f.data = none → f.poisoned = false →
            { f with data := some (s.lineAt line) } ∈ e'.fetch) ∧
      (line ∉ (s.core q).ifills → Idle (.icacheFillDone die core line) s)) ∧
    (∀ e, s.fetching d = true → d.st = .issuing → d.fetch = [] → d.fetchWant = [] → d.drained = true → d.sysMode = false →
      s.translate (drillChip k) cx d.pc { x := true } = .error e →
      (e.cause = 0 → Idle (.fetchFault k) s) ∧
      (e.cause ≠ 0 → Happens (.fetchFault k) s fun t => ∃ d', t.drill? k = some d' ∧ d'.st = .parked ∧
        (∃ recs, d'.park = some (.faults recs)) ∧ d'.tcause = 0x11 ∧ d'.tval = d.pc ∧ d'.epc = d.pc ∧ d'.sysMode = false ∧
        ((s.reg (dieReg (drillChip k) 0x40000)).getLsbD 0 = false → (∀ x ∈ s.recs (drillChip k), x.2.st ≠ .pending ∧ x.2.stale = false) → t.mem = s.mem))) ∧
    (∀ pa s1, s.fetching d = true → d.fetch = [] → d.fetchWant = [] → s.translate (drillChip k) cx d.pc { x := true } = .ok (pa, s1) →
      s1.backed pa = true → s1.grantOk g.ctx pa = true → Happens (.fetchFault k) s fun t => ∃ d', t.drill? k = some d' ∧ d'.pc = d.pc ∧ d'.st = d.st ∧
        { line := d.pc.toNat / 128, data := tblGet? (s1.core c).icache (pa / 128), pline := some (pa / 128) } ∈ d'.fetch) ∧
    (d.lineMissing = false → Idle (.fetchFault k) s))

/-- MEMORY ACCESSES AS THEY ARE PERFORMED (R75, R153, R158-R160, R163, R191, R201): the bytes that a load finds, that a store leaves and that an atomic operation
reads and writes; what completes leaves its list. Lanes are independent accesses: an event may perform some before the others, and a
destination may hold the new value of some lanes before it lands (log 7, DEDUCED).

A PCIe DEVICE (R15, R189, R201, R350) reads what is in memory, or poison, and writes; its copies elsewhere are invalidated.

TRAFFIC BETWEEN PACKAGES (R202, R369-R371): a response reaches the operation that waits for it, or acknowledges the oldest store; an access from
another package, an atomic one too, is performed at home, or refused. -/
def Obligations.MemoryTraffic : Prop :=
  (
  ∀ (s : State) (k : Nat) (d : Drill) (g : Sys2Proof.Machine.Group) (cx : Context) (o : VarOp) (l : LaneAddr),
    s.drill? k = some d → s.group? d.gid = some g → s.ctx? g.ctx = some cx → l.lane < 32 →
    let quiet : Prop := d.ops = [o] ∧ d.storeQueue = [] ∧ d.acquires = []
    let near (n : Nat) (write : Bool) : Prop := ∀ j < n, classOf (l.pa + j) = .cacheable ∧ s.backed (l.pa + j) = true ∧
      s.poisoned (l.pa + j) = false ∧ s.grantOk g.ctx (l.pa + j) = true ∧ s.gateFor (drillChip k) o.seq write (l.pa + j) = .go ∧
      tblGet? (s.core (drillCore k)).l1d ((l.pa + j) / 128) = none
    let word : Word := ofBytes 32 ((List.range 4).map fun j => s.byteAt (l.pa + j))
    (quiet → near 4 false → o.kind = .load .w [l] → o.taken = [] → o.helper = 0 → ∀ r, o.into = .vec r 1 → o.noReg = false →
      Happens (.variableResultLanding k o.seq false none) s fun t => ∃ d', t.drill? k = some d' ∧ d'.ops = [] ∧ d'.count o.slot = d.count o.slot - (if o.slot = 0 then 0 else 1) ∧
        (∀ i < 32, lane (d'.vAt r) i = if inMask o.mask i then (if i = l.lane then word else 0) else lane (d.vAt r) i) ∧
        (∀ q, q ≠ r → d'.vAt q = d.vAt q) ∧ t.mem = s.mem) ∧
    (∀ v fl r, o ∈ d.ops → (d.ops.find? fun q => q.seq = o.seq) = some o → o.kind = .value v fl → o.into = .vec r 1 → o.noReg = false →
      Happens (.variableResultLanding k o.seq false none) s fun t => ∃ d', t.drill? k = some d' ∧ (∀ q, q ∈ d'.ops ↔ q ∈ d.ops ∧ q.seq ≠ o.seq) ∧
        (∀ i < 32, lane (d'.vAt r) i = if inMask o.mask i then (lane v i).setWidth 32 else lane (d.vAt r) i) ∧ (∀ q, q ≠ r → d'.vAt q = d.vAt q) ∧ t.mem = s.mem) ∧
    (∀ bs r, quiet → o.kind = .load .w [l] → tblGet? o.taken l.lane = some bs → bs.length = 4 → o.into = .vec r 1 → o.noReg = false →
      Happens (.variableResultLanding k o.seq false none) s fun t => ∃ d', t.drill? k = some d' ∧ d'.ops = [] ∧
        (∀ i < 32, lane (d'.vAt r) i = if inMask o.mask i then (if i = l.lane then ofBytes 32 bs else 0) else lane (d.vAt r) i) ∧
        (∀ q, q ≠ r → d'.vAt q = d.vAt q) ∧ t.mem = s.mem) ∧
    (∀ m write r, quiet → near 4 false → o.kind = .load .w [l] → o.taken = [] → o.into = .vec r 1 → o.noReg = false → inMask m l.lane = true →
      Happens (.variableResultLanding k o.seq false (some (m, write))) s fun t => ∃ d' o', t.drill? k = some d' ∧ d'.ops = [o'] ∧ o'.kind = o.kind ∧
        o'.seq = o.seq ∧ tblGet? o'.taken l.lane = some ((List.range 4).map fun j => s.byteAt (l.pa + j)) ∧ d'.count o.slot = d.count o.slot ∧
        (∀ i < 32, lane (d'.vAt r) i = if write = true ∧ inMask o.mask i = true ∧ i = l.lane then word else lane (d.vAt r) i) ∧
        (∀ q, q ≠ r → d'.vAt q = d.vAt q) ∧ t.mem = s.mem) ∧
    (∀ v fl r m, (d.ops.find? fun q => q.seq = o.seq) = some o → o.kind = .value v fl → o.into = .vec r 1 → o.noReg = false →
      Happens (.variableResultLanding k o.seq false (some (m, true))) s fun t => ∃ d', t.drill? k = some d' ∧ d'.ops = d.ops ∧
        (∀ i < 32, lane (d'.vAt r) i = if inMask o.mask i && inMask m i then (lane v i).setWidth 32 else lane (d.vAt r) i) ∧
        (∀ q, q ≠ r → d'.vAt q = d.vAt q) ∧ t.mem = s.mem) ∧
    (∀ n early, (d.ops.find? fun q => q.seq = n) = none → Idle (.variableResultLanding k n false early) s) ∧
    (∀ bs sq pc, d.ops = [] → d.acquires = [] → d.storeQueue = [{ seq := sq, kind := .store [(l, bs)], pc := pc }] → bs ≠ [] → bs.length ≤ 16 → l.pa % bs.length = 0 →
      (∀ j < bs.length, classOf (l.pa + j) = .cacheable ∧ s.backed (l.pa + j) = true ∧ s.grantOk g.ctx (l.pa + j) = true ∧ s.gate (l.pa + j) = .go) →
      Happens (.storeQueueDeparture k none) s fun t => ∃ d', t.drill? k = some d' ∧ d'.storeQueue = [] ∧ d'.v = d.v ∧ d'.s = d.s ∧ d'.pc = d.pc ∧
        (∀ j < bs.length, some (t.byteAt (l.pa + j)) = bs[j]?) ∧ ∀ b, b < l.pa ∨ l.pa + bs.length ≤ b → t.byteAt b = s.byteAt b) ∧
    (∀ bs sq pc x, d.ops = [] → d.acquires = [] → d.storeQueue = [{ seq := sq, kind := .store [(l, bs), x], pc := pc }] → bs ≠ [] → bs.length ≤ 16 →
      l.pa % bs.length = 0 →
      (∀ j < bs.length, classOf (l.pa + j) = .cacheable ∧ s.backed (l.pa + j) = true ∧ s.grantOk g.ctx (l.pa + j) = true ∧ s.gate (l.pa + j) = .go) →
      Happens (.storeQueueDeparture k (some 1)) s fun t => ∃ d', t.drill? k = some d' ∧
        d'.storeQueue = [{ seq := sq, kind := .store [x], pc := pc }] ∧ d'.v = d.v ∧ d'.s = d.s ∧ d'.pc = d.pc ∧
        (∀ j < bs.length, some (t.byteAt (l.pa + j)) = bs[j]?) ∧ ∀ b, b < l.pa ∨ l.pa + bs.length ≤ b → t.byteAt b = s.byteAt b) ∧
    (∀ part, d.storeQueue = [] → Idle (.storeQueueDeparture k part) s) ∧
    (∀ f u b e, quiet → near 4 true → l.pa % 4 = 0 → o.kind = .atom (.int f u false) 0 [l] b e false none →
      Happens (.atomPerform k o.seq false none) s fun t =>
        (∃ d' o' got, t.drill? k = some d' ∧ d'.ops = [o'] ∧ o'.kind = .atom (.int f u false) 0 [l] b e false (some got) ∧ (lane got l.lane).setWidth 32 = word) ∧
        (∀ j < 4, t.byteAt (l.pa + j) = (((atomInt f u word ((lane b l.lane).setWidth 32) ((lane e l.lane).setWidth 32)).getD word).extractLsb' (8 * j) 8)) ∧
        ∀ a, a < l.pa ∨ l.pa + 4 ≤ a → t.byteAt a = s.byteAt a) ∧
    (∀ f u b e x, quiet → near 4 true → l.pa % 4 = 0 → o.kind = .atom (.int f u false) 0 [l, x] b e false none → classOf x.pa ≠ .remote →
      Happens (.atomPerform k o.seq false (some 1)) s fun t =>
        (∃ d' o' bs, t.drill? k = some d' ∧ d'.ops = [o'] ∧ o'.kind = .atom (.int f u false) 0 [x] b e false none ∧
          tblGet? o'.taken l.lane = some bs ∧ (ofBytes 64 bs).setWidth 32 = word) ∧
        (∀ j < 4, t.byteAt (l.pa + j) = (((atomInt f u word ((lane b l.lane).setWidth 32) ((lane e l.lane).setWidth 32)).getD word).extractLsb' (8 * j) 8)) ∧
        ∀ a, a < l.pa ∨ l.pa + 4 ≤ a → t.byteAt a = s.byteAt a) ∧
    (∀ chip line, caches chip = true → classOf (128 * line) = .cacheable → s.backed (128 * line) = true →
      (s.gateAt chip true (128 * line) = .go → s.poisoned (128 * line) = false → Happens (.directoryRequest chip line .own) s fun t =>
        SameDrills s t ∧ t.mem = s.mem ∧ t.lineAt line = s.lineAt line ∧ ∃ w, tblGet? t.owned line = some w ∧ w.chip = chip ∧ w.excl = true) ∧
      Happens (.directoryRequest chip line .share) s (fun t => SameDrills s t ∧ t.mem = s.mem) ∧
      Happens (.directoryRequest chip line .drop) s (SameDrills s) ∧
      Happens (.directoryRequest chip line .grant) s fun t => SameDrills s t ∧ SameMemory s t) ∧
    (∀ chip line r pa s1, s.ioHeld = false → r.port < 4 → s.linkUp (40 + r.port) = true → classOf pa = .cacheable → s1.backed pa = true → s1.gate pa = .go →
      (∀ n, r.op = .read n → 0 < n → r.addr.toNat % 16 + n ≤ 16 → s.ioXlate r .load = .ok (pa, s1) →
        Happens (.directoryRequest chip line (.device r)) s fun t => t = { s1 with devAnswer := t.devAnswer } ∧
          t.devAnswer = some (if s1.poisoned pa then .poisoned else .data ((List.range n).map fun j => s1.byteAt (pa + j)))) ∧
      (∀ bs, r.op = .write bs → bs ≠ [] → r.addr.toNat % 16 + bs.length ≤ 16 → s.ioXlate r .store = .ok (pa, s1) → Memory.wf s1 = true →
        Happens (.directoryRequest chip line (.device r)) s fun t => t.devAnswer = some .taken ∧ t.poison = s1.poison ∧
          (∀ j < bs.length, classOf (pa + j) = .cacheable → s1.deaf (pa + j) = false → some (t.byteAt (pa + j)) = bs[j]?) ∧
          ∀ b, (∀ j < bs.length, (pa + j) / 128 ≠ b / 128) → t.byteAt b = s1.byteAt b))) ∧
  (
  ∀ (s : State) (k : Nat) (d : Drill), s.drill? k = some d →
    (∀ g cx o f l v, s.group? d.gid = some g → s.ctx? g.ctx = some cx → d.ops = [o] → d.storeQueue = [] → d.acquires = [] → d.remoteStores = [] →
      o.kind = .load f [l] → classOf l.pa = .remote → o.answers = [] → ∀ n, s.remotePort l.pa = some n → s.linkUp n = true →
      s.chipUp (drillChip k) = true →
      Happens (.remoteResponse (.op k o.seq n) true [v]) s (fun t => t.drill? k = some { d with ops := [{ o with answers := [(l.lane, some v)] }] } ∧ SameMemory s t) ∧
      Happens (.remoteResponse (.op k o.seq n) false []) s fun t => t.drill? k = some { d with ops := [{ o with answers := [(l.lane, none)] }] } ∧ SameMemory s t) ∧
    (∀ n va rest data, d.remoteStores = (n, va) :: rest → s.linkUp n = true → s.chipUp (drillChip k) = true →
      Happens (.remoteResponse (.store k) true data) s (fun t => t.drill? k = some { d with remoteStores := rest } ∧ (t.link n).errcnt = (s.link n).errcnt) ∧
      Happens (.remoteResponse (.store k) false data) s fun t => t.drill? k = some { d with remoteStores := rest } ∧
        (t.link n).errcnt = min 0xFFFF ((s.link n).errcnt + 1)) ∧
    (d.remoteStores = [] → ∀ ok data, Idle (.remoteResponse (.store k) ok data) s) ∧
    ∀ (port a : Nat) (op : InboundOp) (e : DWord), port < 16 → s.linkUp (24 + port) = true →
      let n : Nat := inboundSize op
      let i : Instr := .inboundRemoteAccess port op a e
      let legal : Prop := match op with
        | .read m => 0 < m ∧ m ≤ 256
        | .write bs => bs ≠ [] ∧ bs.length ≤ 256
        | .atomI f _ wide red _ => a % (if wide then 8 else 4) = 0 ∧ (red = true → f ≠ .xchg ∧ f ≠ .cas)
        | .atomF f red _ => a % 4 = 0 ∧ (red = true → f ≠ .xchg)
        | .redBf _ => a % 4 = 0
      let open_ : Prop := (s.reg (0xF0080 + 8 * port)).getLsbD 0 = true ∧ legal ∧ ∀ j < n, classOf (a + j) = .cacheable ∧ s.backed (a + j) = true
      let ready : Prop := ∀ j < n, s.gate (a + j) = .go
      let pure_ : Prop := ∀ j < n, s.poisoned (a + j) = false
      let leaves (t : State) (bs : List Byte) : Prop := SameDrills s t ∧ t.poison = s.poison ∧
        (∀ j < bs.length, some (t.homeByte (a + j)) = bs[j]?) ∧ ∀ b, b < a ∨ a + bs.length ≤ b → t.homeByte b = s.homeByte b
      let old : List Byte := (List.range n).map fun j => s.homeByte (a + j)
      (∀ bs, op = .write bs → open_ → ready → Memory.wf s = true → Happens i s fun t => t.inbound = some [] ∧ leaves t bs) ∧
      (∀ m, op = .read m → open_ → ready → pure_ → Happens i s fun t => t = { s with inbound := some old }) ∧
      (∀ f u red b, op = .atomI f u false red b → open_ → ready → (red = false → pure_) → Memory.wf s = true → Happens i s fun t =>
        t.inbound = some (if red then [] else old) ∧
        leaves t (toBytes ((atomInt f u (ofBytes 32 old) (b.setWidth 32) (e.setWidth 32)).getD (ofBytes 32 old)) 4)) ∧
      (∀ f u red b, op = .atomI f u true red b → open_ → ready → (red = false → pure_) → Memory.wf s = true → Happens i s fun t =>
        t.inbound = some (if red then [] else old) ∧ leaves t (toBytes ((atomInt f u (ofBytes 64 old) b e).getD (ofBytes 64 old)) 8)) ∧
      (inboundAnswers op = true → open_ → ready → ¬pure_ → Happens i s fun t => t = { s with inbound := none }) ∧
      (¬open_ → Happens i s fun t => t = { s with inbound := none }))

/-! ### Stacks, groups and queues -/

/-- STACKS (R241-R250, R254, R257): what becomes of a CEDE that Headland takes; the steps of a hand-over, each when the one before is done; the port
opens for the target; zeroing leaves a stack of zeros; svl.stkgrant. -/
def Obligations.Stacks : Prop :=
  ∀ (s : State) (k : Nat), k < 8 →
    let t := s.stack k
    let chip := stackDie k t.owner
    let becomes (i : Instr) (x : Stack) : Prop := Happens i s fun u => u.stack k = x ∧ (∀ j, j ≠ k → u.stack j = s.stack j) ∧ u.mem = s.mem
    let keeps (i : Instr) (x : Stack) : Prop := Happens i s fun u => u.stack k = x ∧ (∀ j, j ≠ k → u.stack j = s.stack j) ∧ SameDrills s u ∧ SameMemory s u
    (t.sent = [] → Idle (.cedeAccept k) s) ∧
    (∀ c r, t.sent = c :: r →
      let sent : Stack := { t with sent := r }
      let refused (code sub : Nat) : Prop := ∀ g j d, s.group? c.gid = some g → s.drillOf c.gid g c.drill = some (j, d) → d.st ≠ .done →
        (∀ q ∈ d.pendTraps, q.code ≠ code) → Happens (.cedeAccept k) s fun u =>
          u.drill? j = some { d with pendTraps := d.pendTraps ++ [{ code := code, sub := sub, station := 0 }] } ∧ u.stack k = sent ∧ SameMemory s u
      let up : Prop := s.chipUp (stackDie k c.side) = true
      let ours : Prop := t.holder = some c.ctx ∧ t.cedeRight = true
      let home : Nat := if t.st = .forced then 1 - t.owner else t.owner
      let last : Nat := match t.queued.getLast? with | some q => q.side | none => if t.st = .draining then t.target else home
      let ready : Prop := t.st = .draining ∨ t.queued ≠ [] ∨ c.side ≠ home → up
      (¬ours → becomes (.cedeAccept k) sent ∧ refused 0x14 3) ∧
      (ours → t.queued = [] → t.st = .held → c.side ≠ t.owner → up → keeps (.cedeAccept k) { sent with
        st := .draining, target := c.side, step := 1, since := s.seq, carried := [c] }) ∧
      (ours → ¬ready → becomes (.cedeAccept k) sent ∧ refused 0x28 3) ∧
      (ours → t.queued = [] → t.st = .held → c.side = t.owner → becomes (.cedeAccept k) sent ∧ ∀ g, s.group? c.gid = some g → g.alive = true →
        (signalTokens g.tok 1 c.tk1).2 = false → Happens (.cedeAccept k) s fun u => u.group? c.gid = some { g with tok := (signalTokens g.tok 1 c.tk1).1 }) ∧
      (ours → ready → c.side = last → t.st = .draining → keeps (.cedeAccept k) { sent with carried := t.carried ++ [c] }) ∧
      (ours → ready → c.side = last → t.st = .zeroing ∨ t.st = .forced → keeps (.cedeAccept k) { sent with nulls := t.nulls ++ [c] }) ∧
      (ours → ready → c.side ≠ last → t.st ≠ .held → keeps (.cedeAccept k) { sent with queued := t.queued ++ [c] })) ∧
    (t.st ≠ .draining ∨ s.chipUp chip = false → Idle (.handoverDrainStep k) s) ∧
    (t.st ≠ .draining ∨ s.chipUp (stackDie k t.target) = false → Idle (.handoverPortOpen k) s) ∧
    (t.st = .draining → s.chipUp chip = true → t.step = 1 ∨ t.step = 2 ∧ s.drained2 k t = true → keeps (.handoverDrainStep k) { t with step := t.step + 1 }) ∧
    (t.st = .draining → t.step = 2 → s.drained2 k t = false → Idle (.handoverDrainStep k) s) ∧
    (t.st = .draining → s.chipUp chip = true → t.step = 3 → Happens (.handoverDrainStep k) s fun u => u.stack k = { t with step := 4 } ∧ SameDrills s u ∧ u.poison = s.poison ∧
      (∀ l o, inStack k (128 * l) = true → tblGet? u.owned l = some o → o.chip ≠ chip) ∧ ∀ l, inStack k (128 * l) = false → tblGet? u.owned l = tblGet? s.owned l) ∧
    (t.st = .draining → s.chipUp chip = true → t.step = 4 → Happens (.handoverDrainStep k) s fun u => u.stack k = { t with step := 5 } ∧ SameDrills s u ∧ SameMemory s u ∧
      ∀ key, tlbChip key = chip → ∀ e ∈ tblGet u.tlb key [], inStack k e.pa = true → e.path = false) ∧
    (t.st = .draining → s.chipUp chip = true → t.step = 5 → Happens (.handoverDrainStep k) s fun u => u.stack k = { t with step := 6 } ∧ SameDrills s u ∧ SameMemory s u ∧
      ∀ g, g ∈ u.grants ↔ g ∈ s.grants ∧ ¬(g.1 = chip ∧ inStack k (4096 * g.2) = true)) ∧
    (t.step ≠ 6 → Idle (.handoverPortOpen k) s) ∧
    (t.st = .draining → t.step = 6 → s.chipUp (stackDie k t.target) = true → Happens (.handoverPortOpen k) s fun u => (u.stack k).epoch = t.epoch + 1 ∧ (u.stack k).owner = t.target ∧ u.mem = s.mem ∧
      (∀ j d, s.drill? j = some d → waitsTake k t.target d.longWait = true → ∃ d', u.drill? j = some d' ∧ d'.metWait = true) ∧
      (t.shareAfter = false → t.zeroAfter = false → t.queued = [] → u.stack k = { t with
        owner := t.target, epoch := t.epoch + 1, st := .held, step := 0, carried := [], queued := [], nulls := [] }) ∧
      (t.shareAfter = true → (u.stack k).st = .zeroing ∧ (u.stack k).holder = none)) ∧
    (t.st ≠ .zeroing → Idle (.stackZeroingDone k) s) ∧
    (t.st = .zeroing → Happens (.stackZeroingDone k) s fun u => (∀ a, u.homeByte a = if inStack k a = true then 0 else s.homeByte a) ∧
      (t.shareAfter = false → t.zeroAfter = false → t.queued = [] → u.stack k = { t with st := .held, step := 0, carried := [], queued := [], nulls := [] })) ∧
    ∀ (n : Nat) (rd rs1 rs2 : BitVec 5), s.cur = some (.hart n) → privileged (s.hart n) →
      let a := ((s.hart n).xAt rs1).toNat
      let b := ((s.hart n).xAt rs2).toNat
      let right : Bool := decide (8 ≤ a)
      let i : Instr := .svlStkgrant rd rs1 rs2
      let idle (v : DWord) : Prop := HartAnswers i s n rd v fun u => Aside s u ∧ u.stackTbl = s.stackTbl
      let shared : Prop := b = 2 ^ 63
      let to_ (c : Option Nat) : Prop := (c = none ∧ shared) ∨ ∃ j, c = some j ∧ b = j ∧ j < 4096 ∧ ∃ x, s.ctx? j = some x ∧ x.st ≠ .retired
      (a % 8 = k → (16 ≤ a ∨ (4096 ≤ b ∧ ¬shared)) → idle 3) ∧
      (a % 8 = k → a < 16 → b < 4096 → (∀ x, s.ctx? b = some x → x.st = .retired) → idle 2) ∧
      (∀ c, a % 8 = k → a < 16 → to_ c → c ≠ t.holder → t.open_ = false → idle 1) ∧
      (∀ c, a % 8 = k → a < 16 → to_ c → c = t.holder → HartAnswers i s n rd 0 fun u => Aside s u ∧
        u.stack k = { t with cedeRight := right && c.isSome } ∧ ∀ j, j ≠ k → u.stack j = s.stack j) ∧
      (∀ c, a % 8 = k → a < 16 → to_ c → c ≠ t.holder → t.open_ = true → HartAnswers i s n rd 0 fun u =>
        u.stack k = { t with holder := c, cedeRight := right && c.isSome, st := .zeroing, shareAfter := false } ∧ u.mem = s.mem ∧ u.drills = s.drills ∧
        (∀ l, inStack k (128 * l) = true → tblGet? u.owned l = none ∧ l ∉ u.poison) ∧ (∀ g ∈ u.grants, inStack k (4096 * g.2) = false) ∧
        ∀ l, inStack k (128 * l) = false → tblGet? u.owned l = tblGet? s.owned l ∧ (l ∈ u.poison ↔ l ∈ s.poison))

/-- GROUPS START AND END (R259, R260, R267, R268, R289, R316, R320, R322): the packet of a launch is read once more before its first group starts (log 95,
DEDUCED); a croft of one group is placed where its launch allows; the steps of an exit; a launch
whose groups have all ended applies its set mask; a DRAINING context without groups is RETIRED.

A GROUP IS SAVED AND RESTORED (R272-R275): a PREEMPTING group whose drills are DONE leaves its record at GSAVE and is SAVED; a record that cannot be
written or is refused sends the context to FAULTED; a restored group is RESTORING with what its record gives, its drills at RESTVEC. -/
def Obligations.GroupLife : Prop :=
  (
  ∀ (s : State),
    let i (q : Nat) (p : Placement) : Instr := .groupPlacement q p
    (∀ q p, s.rejectImpossible = s → s.chosen q = false → Idle (i q p) s) ∧
    (∀ q p, s.rejectImpossible = s → s.offer q = none → Idle (i q p) s) ∧
    (∀ q e rest l x, s.offer q = some (.head l) → (s.queue q).entries = e :: rest → e.launch = some l → tblGet? s.launches l = some x → x.next = 0 →
      (s.gate ((s.queue q).entryAddr e.idx) = .hold → s.dispatch q = (none, s)) ∧
      (s.gate ((s.queue q).entryAddr e.idx) ≠ .hold → s.packetAt (s.queue q) e = none ∨ (∃ p, s.packetAt (s.queue q) e = some p ∧ p.ok = false) →
        ∃ u, s.dispatch q = (none, u) ∧ (u.queue q).st = .error ∧ (u.queue q).ecause = 1)) ∧
    (∀ q l x, s.offer q = some (.head l) → tblGet? s.launches l = some x → x.next ≠ 0 → s.dispatch q = (some (.head l), s)) ∧
    (∀ q l x c s1, s.rejectImpossible = s → s.chosen q = true → s.dispatch q = (some (.head l), s1) → tblGet? s1.launches l = some x →
      x.kcb.coop = false → x.kcb.plot = false → (nextCroft x x.next).length = 1 →
      let allowed : Bool := s1.placeAllowed x.ctx (needOf x.kcb x.g) 1 (s1.mateCores s1.seq) c
      (allowed = false → Happens (i q [c]) s (· = s1)) ∧
      (∀ cx slot, s1.ctx? x.ctx = some cx → s1.freeSlot x.ctx cx = some slot → allowed = true → Happens (i q [c]) s fun t =>
        ∃ g, t.group? (s1.seq + 1) = some g ∧ g.ctx = x.ctx ∧ g.launch = l ∧ g.rank = 0 ∧ g.g = x.g ∧
          (g.x, g.y, g.z) = (x.next % x.gx, x.next / x.gx % x.gy, x.next / (x.gx * x.gy)) ∧ g.st = .running ∧ g.die = c.die ∧ c.cores = [g.core] ∧
          c.pos = [g.pos] ∧ c.ls = [g.lsBase] ∧ g.saveSlot = slot ∧ g.gsave = cx.saveBase + BitVec.ofNat 64 (slot * cx.garea) ∧ g.tok = 0 ∧ g.plot = none ∧
          SameMemory s1 t ∧ (∀ m h, s1.group? m = some h → m < s1.seq → t.group? m = some h) ∧
          ∀ j k, g.drillKeys[j]? = some k → ∃ d, t.drill? k = some d ∧ d.gid = s1.seq + 1 ∧ d.idx = j ∧ d.st = .ready ∧ d.pc = x.kcb.entry x.code ∧
            (∀ n < 32, inMask d.cm n = decide (32 * j + n < (x.g + 3) / 4 * 4)) ∧ d.maskStack = [] ∧ d.v = [] ∧ d.k = [] ∧ d.sysMode = false ∧
            (2 ≤ x.kcb.s → d.sAt 0 = x.arg.setWidth 32 ∧ d.sAt 1 = x.arg.extractLsb' 32 32))) ∧
    (∀ gid, s.group? gid = none → Idle (.groupExitSequence gid) s) ∧
    (∀ gid g, s.group? gid = some g →
      let e : Instr := .groupExitSequence gid
      let next (n : Nat) : Prop := Happens e s fun t => t.group? gid = some { g with exitStep := n } ∧ SameDrills s t ∧ SameMemory s t ∧
        ∀ m, m ≠ gid → t.group? m = s.group? m
      let on (n : Nat) : Prop := g.st = .exiting ∧ g.exitStep = n
      (g.st ≠ .exiting → Idle e s) ∧
      (on 1 → if s.drillsQuiet gid = true then next 2 else Idle e s) ∧
      (on 2 → if g.stI.empty = true ∧ g.stO.empty = true then next 3 else Idle e s) ∧
      (on 3 → (∃ r ∈ g.stash, s.stashReady r.2 = false) → Idle e s) ∧
      (on 3 → g.stash = [] → next 4) ∧
      (on 3 → (∀ r ∈ g.stash, s.stashReady r.2 = true) → Happens e s fun t => SameDrills s t ∧ ∃ g', t.group? gid = some g' ∧ g'.exitStep = 4 ∧ g'.stash = []) ∧
      (on 4 → (∃ r ∈ g.streams, r.2 ≠ []) → Idle e s) ∧
      (on 4 → g.streams = [] → g.plot = none → next 5) ∧
      (on 5 → g.succWord = none → g.plot = none → ∀ x, tblGet? s.launches g.launch = some x →
        (x.exited + 1 ≠ x.total → x.cut = false → Happens e s fun t => t.group? gid = some { g with st := .done, exitStep := 0, streams := [], exits := [] } ∧
          (∀ k d, t.drill? k = some d → d.gid ≠ gid) ∧ (∀ k d, s.drill? k = some d → d.gid ≠ gid → t.drill? k = some d) ∧ SameMemory s t ∧
          tblGet? t.launches g.launch = some { x with exited := x.exited + 1 }) ∧
        (x.exited + 1 = x.total → Happens e s fun t => (∀ k d, t.drill? k = some d → d.gid ≠ gid) ∧ SameMemory s t ∧ tblGet? t.launches g.launch = none ∧
          (∀ m h, t.group? m = some h → h.launch ≠ g.launch) ∧ ∀ cx, s.ctx? x.ctx = some cx → ∃ cy, t.ctx? x.ctx = some cy ∧ cy.st = cx.st ∧
            ∀ w < 4, cy.event w = if x.cut = true then cx.event w else cx.event w ||| x.setMask.getD w 0))) ∧
    (∀ n, (∀ cx, s.ctx? n = some cx → cx.st ≠ .draining ∨ (∃ m g, (m, g) ∈ s.groups ∧ g.ctx = n ∧ g.alive = true)) → Idle (.contextRetire n) s) ∧
    ∀ n cx, s.ctx? n = some cx → cx.st = .draining → (∀ p ∈ s.groups, p.2.ctx = n → p.2.alive = false) → Happens (.contextRetire n) s fun t =>
      (∃ cy, t.ctx? n = some cy ∧ cy.st = .retired) ∧ (∀ m g, t.group? m = some g → g.ctx ≠ n) ∧ t.mem = s.mem ∧ SameDrills s t ∧
      ∀ k < 8, (t.stack k).holder = some n → (t.stack k).shareAfter = true) ∧
  (
  ∀ (s : State),
    (∀ gid, s.group? gid = none → Idle (.groupRecordWrite gid) s) ∧
    (∀ gid g, s.group? gid = some g →
      let e : Instr := .groupRecordWrite gid
      (s.recordDue gid g = false → Idle e s) ∧
      (s.recordDue gid g = true → s.recordAt g { w := true } = .held → Idle e s) ∧
      (∀ cx, s.recordDue gid g = true → s.recordAt g { w := true } = .bad → s.ctx? g.ctx = some cx → cx.st = .active ∨ cx.st = .preempting →
        Happens e s fun t => ∃ cy, t.ctx? g.ctx = some cy ∧ cy.st = .faulted ∧ cy.fcode = 0x3E) ∧
      (∀ pa s1, s.recordDue gid g = true → s.recordAt g { w := true } = .ok pa s1 → g.stash = [] → Writable s1 pa 2048 → Happens e s fun t =>
        (∃ g', t.group? gid = some g' ∧ g'.st = .saved ∧ g'.tok = g.tok ∧ g'.rings = g.rings ∧ g'.bars = g.bars ∧ g'.plot = g.plot ∧ g'.saveSlot = g.saveSlot) ∧
        (∀ k d, t.drill? k = some d → d.gid ≠ gid) ∧ (∀ k d, s.drill? k = some d → d.gid ≠ gid → t.drill? k = some d) ∧
        Stored s1 t pa (s1.recordBytes gid g) ∧ (s1.recordBytes gid g).length = 2048 ∧ ∀ j < 2048, (pa + j) / 128 ∉ t.poison)) ∧
    (∀ croft w, tblGet? s.crofts croft = none → Idle (.groupRestore croft w) s) ∧
    ∀ croft x gid g cx, tblGet? s.crofts croft = some x → x.members = [gid] → s.group? gid = some g → s.ctx? g.ctx = some cx →
      (∀ y, tblGet? s.launches x.launch = some y → y.kcb.coop = false) →
      (cx.st ≠ .active → ∀ w, Idle (.groupRestore croft w) s) ∧
      (g.st ≠ .saved → ∀ w, Idle (.groupRestore croft w) s) ∧
      (∀ c, cx.st = .active → g.st = .saved → s.restoreAllowed g.ctx [gid] c = false → Idle (.groupRestore croft [c]) s) ∧
      ∀ c s1 g1, cx.st = .active → g.st = .saved → s.replaceCroft g.ctx x c = some s1 → s1.group? gid = some g1 →
        (∀ s2 pa, s1.endAside.recordAt g1 { r := true } = .ok pa s2 → (∃ l ∈ linesOf pa 2048, s2.poisoned (128 * l) = true) ∨
          recordIn g1.count g1.kcb.ls (s2.recordFor g1) (s2.bytesAt pa 2048) = none → Happens (.groupRestore croft [c]) s fun t => ∃ cy, t.ctx? g.ctx = some cy ∧ cy.st = .faulted ∧ cy.fcode = 0x3E) ∧
        ∀ s2 pa r, s1.endAside.recordAt g1 { r := true } = .ok pa s2 → (∀ l ∈ linesOf pa 2048, s2.poisoned (128 * l) = false) →
          recordIn g1.count g1.kcb.ls (s2.recordFor g1) (s2.bytesAt pa 2048) = some r → g1.pos.Nodup → Happens (.groupRestore croft [c]) s fun t => t.mem = s2.mem ∧
            (∃ g2, t.group? gid = some g2 ∧ g2.tok = r.tok ∧ g2.rings = r.rings ∧ g2.bars = r.bars ∧ g2.stash = r.stash ∧ g2.croftArr = r.croftArr ∧ g2.gridArr = r.gridArr ∧
              g2.die = c.die ∧ ((∃ j < g1.count, inMask r.done j = false) → g2.st = .restoring) ∧ ((∀ j < g1.count, inMask r.done j = true) → g2.st = .exiting)) ∧
            ∀ j k, g1.drillKeys[j]? = some k → ∃ d, t.drill? k = some d ∧ d.gid = gid ∧ d.idx = j ∧
              (inMask r.done j = true → d.st = .done) ∧ (inMask r.done j = false → d.st = .ready ∧ d.sysMode = true ∧ d.routine = 2 ∧ d.pc = cx.restvec))

/-- QUEUES AT HEADLAND (R314-R319, R332): a posted packet is checked, and a bad one sends its queue to ERROR; the head's control block is read; the commands
of QCMD are accepted or set REF; a drained queue is DISABLED. -/
def Obligations.Queues : Prop :=
  ∀ (s : State) (n : Nat), n < 8192 →
    let q := s.queue n
    let live : Prop := q.st = .opened ∨ q.st = .paused
    let others (t : State) : Prop := ∀ j, j ≠ n → t.queue j = s.queue j
    let becomes (i : Instr) (x : Queue) : Prop := Happens i s fun t => t.queue n = x ∧ others t ∧ SameMemory s t ∧ SameDrills s t
    let refused (i : Instr) : Prop := becomes i { q with ref := true }
    let drained (i : Instr) : Prop := Happens i s fun t => (t.queue n).st = .draining ∧ (t.queue n).entries = [] ∧ (t.queue n).ref = false ∧ SameDrills s t
    let busy : Prop := (∃ p ∈ s.groups, p.2.alive = true ∧ ∃ l, tblGet? s.launches p.2.launch = some l ∧ l.queue = n) ∨
      ∃ p ∈ s.launches, p.2.queue = n ∧ (p.2.taskAt ≠ none ∨ p.2.rebuild = true)
    (q.st = .disabled → (∃ c, s.ctx? q.ctx = some c ∧ c.st ≠ .retired) → 1 ≤ q.depth → q.depth ≤ 12 →
      becomes (.qcmdOpen n) { q with st := .opened, ecause := 0, tail := 0, entries := [], ready := false, ref := false }) ∧
    (q.st ≠ .disabled ∨ (∀ c, s.ctx? q.ctx = some c → c.st = .retired) ∨ q.depth = 0 ∨ 12 < q.depth → refused (.qcmdOpen n)) ∧
    (q.st = .opened → becomes (.qcmdPause n) { q with st := .paused, ref := false }) ∧
    (q.st ≠ .opened → refused (.qcmdPause n)) ∧
    (q.st = .paused → becomes (.qcmdResume n) { q with st := .opened, ecause := 0, ref := false }) ∧
    (∀ e rest, q.st = .error → q.entries = e :: rest → e.bad = true → Happens (.qcmdResume n) s fun t =>
      (t.queue n).st = .opened ∧ (t.queue n).ecause = 0 ∧ (t.queue n).ref = false ∧ (t.queue n).entries = rest ∧ SameMemory s t ∧ SameDrills s t) ∧
    (q.st ≠ .paused → q.st ≠ .error → refused (.qcmdResume n)) ∧
    (live ∨ q.st = .error → drained (.qcmdDrain n)) ∧
    (q.st = .disabled ∨ q.st = .draining → refused (.qcmdDrain n)) ∧
    (q.st = .draining → ¬busy → becomes (.queueDrainDone n) { q with st := .disabled }) ∧ (q.st ≠ .draining ∨ busy → Idle (.queueDrainDone n) s) ∧
    (∀ seen, (∀ e ∈ q.entries, e.filled = true) ∨ ¬live → Idle (.packetCheck n seen) s) ∧
    (∀ seen e rest, q.entries = e :: rest → e.filled = false → live → (∀ f ∈ rest, f.id ≠ e.id) →
      let a := q.entryAddr e.idx
      (e.posted = false → Idle (.packetCheck n seen) s) ∧
      (s.gate a = .hold → Idle (.packetCheck n seen) s) ∧
      (∀ bs, e.posted = true → s.gate a = .go → (e.hart = none ∨ ∀ pa, e.pa = some pa → s.gate pa ≠ .hold) → s.packetSeen q e seen = some bs → bs.length = 128 →
        s.backed a = true → Writable s a 128 → Happens (.packetCheck n seen) s fun t => Stored s t a bs ∧ SameDrills s t ∧
          (t.queue n).entries = { e with filled := true, bad := !(packetIn bs).ok } :: rest ∧
          ((packetIn bs).ok = false → (t.queue n).st = .error ∧ (t.queue n).ecause = 1) ∧ ((packetIn bs).ok = true → (t.queue n).st = q.st)) ∧
      (e.posted = true → s.gate a = .go → (e.hart = none ∨ ∀ pa, e.pa = some pa → s.gate pa ≠ .hold) → s.packetSeen q e seen = none →
        Happens (.packetCheck n seen) s fun t => (t.queue n).st = .error ∧ (t.queue n).ecause = 1 ∧
          (t.queue n).entries = { e with filled := true, bad := true } :: rest ∧ SameMemory s t ∧ SameDrills s t)) ∧
    (q.entries = [] ∨ ¬live → Idle (.kcbRead n) s) ∧
    (∀ e rest, q.entries = e :: rest → live → (∀ f ∈ rest, f.id ≠ e.id) →
      let fails (p : State → Prop) : Prop := Happens (.kcbRead n) s fun t => (t.queue n).st = .error ∧ p t ∧ (t.queue n).entries = { e with bad := true } :: rest ∧ SameDrills s t
      let named : Bool := q.ready && s.succNames n
      (e.filled = false ∨ e.bad = true ∨ e.launch ≠ none ∨ s.gate (q.entryAddr e.idx) = .hold → Idle (.kcbRead n) s) ∧
      (e.filled = true → e.bad = false → e.launch = none → s.gate (q.entryAddr e.idx) ≠ .hold →
        (s.packetAt q e = none ∨ (∃ p, s.packetAt q e = some p ∧ p.ok = false) → fails fun t => (t.queue n).ecause = 1) ∧
        (∀ p c, s.packetAt q e = some p → p.ok = true → s.kcbFor q.ctx p named = .error c →
          if c = 0 then Idle (.kcbRead n) s else fails fun t => (t.queue n).ecause = c) ∧
        (∀ p b pa s1, s.packetAt q e = some p → p.ok = true → s.serviceRead q.ctx p.kcb 128 = .got b pa s1 → (∀ k, kcbIn b = some k → k.runs p.code = false) →
          fails fun t => (t.queue n).ecause = 2) ∧
        (∀ p k s1, s.packetAt q e = some p → p.ok = true → s.kcbFor q.ctx p named = .ok (k, s1) → k.coop = false →
          Happens (.kcbRead n) s fun t => SameDrills s t ∧ (t.queue n).st = q.st ∧ (t.queue n).entries = { e with launch := some s1.seq } :: rest ∧
            ∃ x, tblGet? t.launches s1.seq = some x ∧ x.queue = n ∧ x.ctx = q.ctx ∧ x.code = p.code ∧ x.kcb = k ∧ x.kcbVa = p.kcb ∧ (x.gx, x.gy, x.gz, x.g) = (p.x, p.y, p.z, p.g) ∧
              x.arg = p.arg ∧ x.setMask = p.setMask ∧ x.next = 0)))

/-- SERVICE QUEUES (R309, R310, R333, R351, R352, R355): an entry is written at the tail of an enabled ring with room, and the tail moves on; a task joins
the queue of its chiplet; the writes of BASE and HEAD.

SHOOTDOWNS AND FLUSHES (R336, R348, R349): a write of TLBICTL that does not meet BUSY starts a shootdown; it ends when no access translated before
is left, and then no cache holds a translation that it covers; ICFLUSH empties the instruction caches of its die. -/
def Obligations.ServiceQueues : Prop :=
  (
  ∀ (s : State) (chip : Nat),
    let r := scqReg chip
    let base (a : Nat) : DWord := s.reg a
    let low (a n : Nat) : Nat := (s.reg a).toNat % 2 ^ n
    let at_ (n size : Nat) : Nat := (base r).toNat / 2 ^ n * 2 ^ n + size * low (r + 12) 10
    let full : Prop := (low (r + 12) 10 + 1) % 1024 = low (r + 8) 10
    let q := dieReg chip 0x40000
    let fat : Nat := (base q).toNat / 2 ^ 17 * 2 ^ 17 + 32 * low (q + 12) 12
    let ffull : Prop := (low (q + 12) 12 + 1) % 4096 = low (q + 8) 12
    let i : Instr := .syscallQueuePost chip
    ((∀ e ∈ s.sysQ chip, e.posted = true) → Idle i s) ∧
    (∀ e l₁ l₂, s.sysQ chip = l₁ ++ e :: l₂ → (∀ x ∈ l₁, x.posted = true) → e.posted = false → s.sysReady e = false → Idle i s) ∧
    ((base r).getLsbD 0 = false ∨ full → Idle i s) ∧
    (∀ e l₁ l₂, s.sysQ chip = l₁ ++ e :: l₂ → (∀ x ∈ l₁, x.posted = true) → e.posted = false → s.sysReady e = true → (base r).getLsbD 0 = true → ¬full →
      let bytes := e.bytes.take 16 ++ toBytes s.gtime 8 ++ e.bytes.drop 24
      (s.backed (at_ 16 64) = true → classOf (at_ 16 64) = .cacheable → s.gate (at_ 16 64) = .hold → Idle i s) ∧
      (s.backed (at_ 16 64) = false ∨ classOf (at_ 16 64) ≠ .cacheable → Happens i s fun t => (t.reg r).getLsbD 0 = false ∧ t.sysQ chip = s.sysQ chip ∧ SameMemory s t ∧ SameDrills s t) ∧
      (e.bytes.length = 64 → s.backed (at_ 16 64) = true → s.gate (at_ 16 64) ≠ .hold → Writable s (at_ 16 64) 64 → Happens i s fun t =>
        t.sysQ chip = l₁ ++ { e with posted := true, entry := low (r + 12) 10, bytes := bytes } :: l₂ ∧
        t.reg (r + 12) = BitVec.ofNat 64 ((low (r + 12) 10 + 1) % 1024) ∧ Stored s t (at_ 16 64) bytes ∧ SameDrills s t)) ∧
    ((∀ n f, (n, f) ∈ s.recs chip → f.st ≠ .queued ∧ f.stale = false) → Idle (.faultRecordPost chip) s) ∧
    ((∀ n f, (n, f) ∈ s.recs chip → f.stale = false) → (base q).getLsbD 0 = false ∨ ffull → Idle (.faultRecordPost chip) s) ∧
    (∀ n f, s.recs chip = [(n, f)] → f.st = .pending → f.stale = true →
      let old : Nat := (base q).toNat / 2 ^ 17 * 2 ^ 17 + 32 * f.entry
      (s.gate old = .hold → Idle (.faultRecordPost chip) s) ∧
      (s.gate old ≠ .hold → Writable s (old + 4) 16 → Happens (.faultRecordPost chip) s fun t =>
        tblGet? (t.recs chip) n = some { f with stale := false } ∧ SameDrills s t ∧ (∀ a, t.reg a = s.reg a) ∧
        ∀ j < 4, some (t.byteAt (old + 4 + j)) = (wordBytes (faultWord4 f))[j]? ∧ some (t.byteAt (old + 16 + j)) = (wordBytes (faultWord16 f))[j]?)) ∧
    (∀ n f rest, s.recs chip = (n, f) :: rest → (∀ m h, (m, h) ∈ s.recs chip → h.stale = false) → f.st = .queued → (base q).getLsbD 0 = true → ¬ffull → s.backed fat = true → s.gate fat ≠ .hold → Writable s fat 32 →
      Happens (.faultRecordPost chip) s fun t => tblGet? (t.recs chip) n = some { f with st := .pending, entry := low (q + 12) 12 } ∧
        t.reg (q + 12) = BitVec.ofNat 64 ((low (q + 12) 12 + 1) % 4096) ∧ Stored s t fat (faultBytes chip f) ∧ SameDrills s t) ∧
    (∀ l, tblGet? s.launches l = none → Idle (.taskPost l) s) ∧
    (∀ l x, tblGet? s.launches l = some x →
      (s.offer x.queue ≠ some (.task l) ∨ s.chosen x.queue = false → Idle (.taskPost l) s) ∧
      (s.offer x.queue = some (.task l) → x.next ≠ 0 → s.dispatch x.queue = (some (.task l), s)) ∧
      (∀ s1 y, s.offer x.queue = some (.task l) → s.chosen x.queue = true → s.dispatch x.queue = (some (.task l), s1) → tblGet? s1.launches l = some y →
        (s1.taskChip y = none → Happens (.taskPost l) s (· = s1)) ∧
        (∀ c cx, s1.taskChip y = some c → s1.ctx? y.ctx = some cx → Happens (.taskPost l) s fun t =>
          t.sysQ c = s1.sysQ c ++ [taskEntry y l cx.asid c] ∧ tblGet? t.launches l = some { y with taskAt := some c, next := 1, rebuild := false } ∧
          SameMemory s1 t ∧ SameDrills s1 t))) ∧
    ∀ (v : BitVec 64) (w : BitVec 32),
      let only (i : Instr) (a : Nat) (d : DWord) : Prop := Happens i s fun t => t.reg a = d ∧ (∀ b, b ≠ a → t.reg b = s.reg b) ∧ SameMemory s t ∧ SameDrills s t
      let en (n : Nat) : Bool := v.getLsbD 0 && s.ringBacked (v.toNat / 2 ^ n * 2 ^ n) (2 ^ n)
      (hasScq chip = true → s.chipUp chip = true → only (.scqbaseWrite chip v) r (BitVec.ofNat 64 (v.toNat / 2 ^ 16 * 2 ^ 16 + (en 16).toNat)) ∧
        only (.scqheadWrite chip w) (r + 8) (BitVec.ofNat 64 (w.toNat % 2 ^ 10))) ∧
      (hasScq chip = false ∨ s.chipUp chip = false → Idle (.scqbaseWrite chip v) s ∧ Idle (.scqheadWrite chip w) s) ∧
      (hasFq chip = true → s.chipUp chip = true → only (.fqbaseWrite chip v) q (BitVec.ofNat 64 (v.toNat / 2 ^ 17 * 2 ^ 17 + (en 17).toNat)) ∧
        only (.fqheadWrite chip w) (q + 8) (BitVec.ofNat 64 (w.toNat % 2 ^ 12))) ∧
      (hasFq chip = false ∨ s.chipUp chip = false → Idle (.fqbaseWrite chip v) s ∧ Idle (.fqheadWrite chip w) s)) ∧
  (
  ∀ (s : State) (asid : BitVec 16),
    let busy : Prop := (s.reg 0xD0008).getLsbD 31 = true
    let ctl (kind : Nat) : DWord := BitVec.ofNat 64 (2 ^ 31 + kind * 2 ^ 26 + asid.toNat)
    let starts (i : Instr) (kind : Nat) : Prop :=
      (¬busy → Happens i s fun t => t.reg 0xD0008 = ctl kind ∧ (∀ a, a ≠ 0xD0008 → t.reg a = s.reg a) ∧ t.tlb = s.tlb ∧
        SameMemory s t ∧ SameDrills s t) ∧ (busy → Idle i s)
    let va : Nat := (s.reg 0xD0000).toNat / 4096 * 4096
    let here (e : TlbEntry) : Prop := e.va < va + 4096 ∧ va < e.va + e.size
    let gone (kind : Nat) (e : TlbEntry) : Prop := match kind with
      | 0 => here e ∧ (e.global = true ∨ e.asid = asid) | 1 => e.global = false ∧ e.asid = asid | 2 => here e | _ => True
    starts (.tlbiVaAsid asid) 0 ∧ starts (.tlbiAsid asid) 1 ∧ starts (.tlbiVaAll asid) 2 ∧ starts (.tlbiAll asid) 3 ∧
    (¬busy → Idle .shootdownDone s) ∧
    (s.tlbiWaits = true → Idle .shootdownDone s) ∧
    (∀ kind, kind < 4 → s.reg 0xD0008 = ctl kind → s.tlbiWaits = false → Happens .shootdownDone s fun t =>
      (t.reg 0xD0008).getLsbD 31 = false ∧ SameMemory s t ∧ (∀ chip e, e ∈ tblGet t.tlb chip [] ↔ e ∈ tblGet s.tlb chip [] ∧ ¬gone kind e)) ∧
    ∀ die,
      (die < 4 → s.chipUp (4 + die) = true → Happens (.icflushGo die) s fun t => die ∈ t.icflush ∧ t = { s with icflush := t.icflush }) ∧
      (4 ≤ die ∨ s.chipUp (4 + die) = false → Idle (.icflushGo die) s) ∧
      (die ∉ s.icflush → Idle (.icflushDone die) s) ∧
      (die ∈ s.icflush → Happens (.icflushDone die) s fun t => die ∉ t.icflush ∧ (∀ d, d ≠ die → (d ∈ t.icflush ↔ d ∈ s.icflush)) ∧
        (∀ c line, c / 128 = die → tblGet? (t.core c).icache line = none) ∧ (∀ c, c / 128 ≠ die → t.core c = s.core c) ∧ SameMemory s t ∧ SameDrills s t))

/-! ### Links, the platform and harts -/

/-- LINKS (R360-R367, R372): the triggers of an isolation; RESET, RETRAIN, training and the loss of lanes; a chiplet is ENUMERATING until its table is
judged, and one that presented another table before is rejected (log 97, DEDUCED); what an isolated chiplet held is gone; a write of PCIEBIF. -/
def Obligations.Links : Prop :=
  ∀ (s : State) (n : Nat),
    let l := s.link n
    let kind := linkKind n
    let others (t : State) : Prop := ∀ j, j ≠ n → t.link j = s.link j
    let becomes (i : Instr) (x : Link) : Prop := Happens i s fun t => t.link n = x ∧ others t ∧ SameMemory s t ∧ SameDrills s t
    let live : Prop := l.st = .enumerating ∨ l.st = .active ∨ l.st = .degraded
    let triggers (i : Instr) (cause errors : Nat) : Prop :=
      (l.st = .training → Happens i s fun t => (t.link n).st = .down ∧ (t.link n).cause = cause ∧ others t) ∧
      (live → Happens i s fun t => (t.link n).st = .fallow ∧ (t.link n).cause = cause ∧ (t.link n).isocnt = min 0xFFFF (l.isocnt + 1) ∧
        (t.link n).isolated = false ∧ (t.link n).width = l.width ∧ (t.link n).hold = l.hold ∧ others t ∧ t.mem = s.mem ∧
        (kind ≠ some 2 → (t.link n).errcnt = if errors = 0 then l.errcnt else min 0xFFFF (l.errcnt + 1))) ∧
      (l.st = .down ∨ l.st = .fallow ∨ l.st = .resetting → Idle i s)
    let ends := sideEnds n
    let stays : Bool := l.hold && !l.resetAsked
    (kind ≠ none → triggers (.linkIsolate n) 3 0 ∧ triggers (.linkUncorrectableError n) 4 1) ∧
    (kind = none → Idle (.linkIsolate n) s ∧ Idle (.linkUncorrectableError n) s) ∧
    (if kind = some 0 then triggers (.directoryTimeout n) 1 0 else Idle (.directoryTimeout n) s) ∧
    (kind = some 0 ∨ kind = some 1 ∧ s.chipUp ends.1 = true ∧ s.chipUp ends.2 = true → triggers (.heartbeatTimeout n) 2 0) ∧
    (kind ≠ some 0 → ¬(kind = some 1 ∧ s.chipUp ends.1 = true ∧ s.chipUp ends.2 = true) → Idle (.heartbeatTimeout n) s) ∧
    (if kind = some 3 then triggers (.pcieContainment n) 5 0 else Idle (.pcieContainment n) s) ∧
    (l.st ≠ .fallow → Idle (.linkReset n) s ∧ Idle (.chipletIsolation n) s) ∧
    (l.st = .fallow → kind ≠ some 0 ∨ l.isolated = true → becomes (.linkReset n) { l with st := .resetting }) ∧
    (l.st = .fallow → kind = some 0 → l.isolated = false → becomes (.linkReset n) { l with resetAsked := true }) ∧
    (l.st = .fallow → kind ≠ none → kind ≠ some 0 ∨ l.isolated = true →
      if stays = true then Idle (.chipletIsolation n) s else becomes (.chipletIsolation n) { l with st := .resetting, resetAsked := false }) ∧
    (l.st = .fallow → kind = some 0 → l.isolated = false →
      (s.firstFallow n = false → Idle (.chipletIsolation n) s) ∧
      (s.firstFallow n = true → Happens (.chipletIsolation n) s fun t => (t.link n).st = (if stays = true then .fallow else .resetting) ∧ (t.link n).isolated = true ∧
        (∀ line o, tblGet? t.owned line = some o → o.chip ≠ n) ∧
        (∀ line o, tblGet? s.owned line = some o → o.chip = n → o.dirty = true → (∀ k < 8, inStack k (128 * line) = false) → line ∈ t.poison) ∧
        (∀ m g, s.group? m = some g → g.resident = true → coreChip (g.die * 128) = n → ∀ h, t.group? m = some h → h.st = .lost) ∧
        (∀ k d, t.drill? k = some d → ∀ g, s.group? d.gid = some g → g.resident = true → coreChip (g.die * 128) ≠ n) ∧
        ∀ off < 0x1000000, t.reg (dieReg n off) = 0)) ∧
    (l.st ≠ .down ∨ kind = none ∨ s.noPort n = true → Idle (.linkRetrain n) s) ∧
    (l.st = .down → kind ≠ none → s.noPort n = false → becomes (.linkRetrain n) { l with st := .training }) ∧
    (if l.st = .resetting then becomes (.chipletResetDone n) { l with st := .training } else Idle (.chipletResetDone n) s) ∧
    (∀ w tb,
      let u := s.usedWidth n w
      let i : Instr := .linkTrainingDone n w tb
      let coming : Prop := ∃ c ∈ linkDies n, s.chipUp c = false ∧ (s.link c).st ≠ .down
      let st : LinkState := if u = s.fullWidth n then .active else .degraded
      let judged (u : Nat) (st : LinkState) (v : BitVec 2048) : Prop :=
        (tableOk n v = false ∨ s.sameChip n v = false → becomes i { l with st := .down, width := u, cause := 6 }) ∧
        (tableOk n v = true → s.sameChip n v = true → Happens i s fun t => t.link n = { l with st := st, width := u, isolated := false } ∧ others t ∧
          tblGet? t.tables n = some v ∧ t.mem = s.mem)
      (l.st ≠ .training → l.st ≠ .enumerating ∨ tb = none → Idle i s) ∧
      (l.st = .training → kind = none ∨ coming → Idle i s) ∧
      (l.st = .training → kind ≠ none → ¬coming →
        (u = 0 ∨ s.absent n = true → becomes i { l with st := .down, width := 0, cause := 4 }) ∧
        (u ≠ 0 → s.absent n = false → kind ≠ some 0 → becomes i { l with st := st, width := u }) ∧
        (u ≠ 0 → kind = some 0 → tb = none → becomes i { l with st := .enumerating, width := u }) ∧
        (u ≠ 0 → kind = some 0 → ∀ v, tb = some v → judged u st v)) ∧
      (l.st = .enumerating → ∀ v, tb = some v → judged l.width (if l.width = modules n then .active else .degraded) v)) ∧
    (∀ w,
      let u := s.usedWidth n w
      (s.linkUp n = false ∨ l.width ≤ u → Idle (.linkLaneFailure n w) s) ∧
      (s.linkUp n = true → u < l.width → u ≠ 0 → becomes (.linkLaneFailure n w) { l with st := .degraded, width := u }) ∧
      (s.linkUp n = true → 0 < l.width → u = 0 → Happens (.linkLaneFailure n w) s fun t => (t.link n).st = .fallow ∧ (t.link n).cause = 4 ∧ (t.link n).width = 0 ∧ others t)) ∧
    ∀ v : BitVec 32,
      let down : Prop := ∀ j < 4, (s.link (40 + j)).st = .down
      (down → Happens (.pciebifWrite v) s fun t => t.reg 0x30040 = (if v.toNat % 4 = 3 then 0 else BitVec.ofNat 64 (v.toNat % 4)) ∧
        (∀ a, a ≠ 0x30040 → t.reg a = s.reg a) ∧ t.links = s.links ∧ SameMemory s t ∧ SameDrills s t) ∧ (¬down → Idle (.pciebifWrite v) s)

/-- OPERATING POINTS AND ALARMS (R374, R376, R378-R381): what a write of OPCTL leaves and when it begins a transition; temperature, current and SRAM
errors set their bits of OCAUSE and bring the rails down; attestation; writes of registers.

RESETS AND THE BOOT ROM (R382, R383): a header that fails leaves cause 3 and every hart halted; an image that is loaded starts hart 0 at its entry in
M-mode; a warm reset keeps memory and the exempt registers. -/
def Obligations.Platform : Prop :=
  (
  ∀ (s : State),
    let point (rail : Nat) : DWord := s.reg (0x50000 + 8 * rail)
    let ocause : DWord := s.reg 0x70000
    let clkr (rail : Nat) : Nat := (point rail).toNat % 32
    let vofs (rail : Nat) : Int := (((point rail).extractLsb' 8 8 : BitVec 8)).toInt
    let word (v : Int) (c : Nat) : DWord := BitVec.ofNat 64 ((v % 256).toNat * 256 + c)
    let is (t : State) (rail : Nat) (w : DWord) : Prop := t.reg (0x50000 + 8 * rail) = w ∧ (w ≠ point rail → rail ∈ t.railBusy) ∧ (w = point rail → t.railBusy = s.railBusy)
    let only (t : State) (l : List Nat) : Prop := (∀ a, a ∉ l → t.reg a = s.reg a) ∧ SameDrills s t ∧ SameMemory s t
    let uv : Prop := vofs 2 < 0 ∨ s.uvRec = true
    let calm : Prop := s.nowBoost = []
    (∀ rail v agent, agent ≠ 96 ∨ 4 ≤ rail → Idle (.opctlWrite rail v agent) s) ∧
    (∀ rail (v : BitVec 32), rail < 4 →
      let c := v.toNat % 32
      let o : Int := ((v.extractLsb' 8 8 : BitVec 8)).toInt
      let under : Prop := rail = 2 ∧ (s.reg 0x70008).getLsbD 0 = true ∧ ocause.getLsbD 5 = false
      let offset : Int := if o < 0 ∧ ¬under then 0 else o
      (c ≤ 18 → -32 ≤ o → o ≤ 8 → s.tooHot = false → Happens (.opctlWrite rail v 96) s fun t => only t [0x50000 + 8 * rail] ∧
        is t rail (word offset (if 2 ≤ rail then 0 else if c < 4 then 4 else if 16 < c ∧ ocause ≠ 0 then 16 else c))) ∧
      Happens (.opctlWrite rail v 96) s fun t => only t [0x50000 + 8 * rail] ∧ ∃ x y, is t rail (word y x) ∧ (2 ≤ rail → x = 0) ∧
        (rail < 2 → x ≤ 18 ∧ (s.tooHot = false → 4 ≤ x) ∧ (s.tooHot = true → x ≤ clkr rail) ∧ (ocause ≠ 0 → x ≤ 16)) ∧ -32 ≤ y ∧ y ≤ 8 ∧ (¬under → 0 ≤ y)) ∧
    (∀ rail, Happens (.clockTransitionDone rail) s fun t => (∀ r, r ∈ t.railBusy ↔ r ∈ s.railBusy ∧ r ≠ rail) ∧
      t.uvRec = (s.uvRec && decide (rail ≠ 2)) ∧ t = { s with railBusy := t.railBusy, uvRec := t.uvRec }) ∧
    (∀ chip sensor (v : BitVec 12),
      let a := chip * 0x1000000 + 0x50040 + 4 * sensor
      let there : Prop := hasSensors chip sensor = true
      let trips (t : State) (more : List Nat) : Prop := t.reg 0x50000 = word (vofs 0) 4 ∧ t.reg 0x50008 = word (vofs 1) 4 ∧
        t.reg 0x70000 = ocause ||| 16 ∧ only t ([0x50000, 0x50008, 0x70000] ++ more) ∧ ∀ r, r ∈ t.railBusy ↔ r ∈ s.railBusy ∨ r < 2 ∧ point r ≠ word (vofs r) 4
      (there → s.chipUp chip = true → s.tripSince = none → Happens (.tsensRefresh chip sensor v) s fun t => t.reg a = v.setWidth 64 ∧ only t [a] ∧
        t.tripSince = if 960 ≤ v.toNat then some s.gtime.toNat else none) ∧
      (there → s.chipUp chip = true → s.tripSince ≠ none → calm → Happens (.tsensRefresh chip sensor v) s fun t => t.reg a = v.setWidth 64 ∧ trips t [a]) ∧
      (¬there ∨ s.chipUp chip = false → Idle (.tsensRefresh chip sensor v) s) ∧
      (there → 960 ≤ (s.reg a).toNat → calm → Happens (.thermalTrip chip sensor) s fun t => trips t []) ∧
      (¬there ∨ (s.reg a).toNat < 960 → Idle (.thermalTrip chip sensor) s)) ∧
    (∀ rail, rail < 4 → calm → Happens (.overCurrentAlarm rail) s fun t => t.reg 0x70000 = ocause ||| (1#64 <<< rail) ∧ only t [0x50000 + 8 * rail, 0x70000] ∧
      (16 < clkr rail → is t rail (word (vofs rail) 16)) ∧ (clkr rail ≤ 16 → t.reg (0x50000 + 8 * rail) = point rail ∧ t.railBusy = s.railBusy)) ∧
    (∀ rail w x b, rail < 2 → s.nowBoost = [(rail, w, b)] → Happens (.overCurrentAlarm x) s fun t => x < 4 → (t.reg (0x50000 + 8 * rail)).toNat % 32 ≤ 16) ∧
    (∀ rail, 4 ≤ rail → Idle (.overCurrentAlarm rail) s) ∧
    (∀ v agent, if agent = 96 ∨ agent < 64 ∧ (s.hart agent).mode = .m then
        Happens (.ocauseWrite v agent) s fun t => t.reg 0x70000 = ocause &&& ~~~(v &&& ~~~s.nowAlarms) ∧ only t [0x70000] else Idle (.ocauseWrite v agent) s) ∧
    (∀ chip,
      let a := chip * 0x1000000 + 0x50060
      let there : Prop := isChip chip = true ∧ s.chipUp chip = true
      (there → (Happens (.eccceWrite chip) s fun t => t.reg a = 0 ∧ only t [a]) ∧
        Happens (.sramCorrectedError chip) s fun t => t.reg a = BitVec.ofNat 64 (min 0xFFFFFFFF ((s.reg a).toNat + 1)) ∧ only t [a]) ∧
      (¬there → Idle (.eccceWrite chip) s ∧ Idle (.sramCorrectedError chip) s)) ∧
    (∀ w, ¬uv → Idle (.uvSramError w) s) ∧
    (∀ w, uv → calm → Happens (.uvSramError w) s fun t => t.reg 0x70000 = ocause ||| 32 ∧ t.reg 0x50010 = 0 ∧ (t.uvRec = true ↔ 2 ∈ t.railBusy) ∧
        (∀ a, a ≠ 0x70000 → a ≠ 0x50010 → t.reg a = s.reg a) ∧ (∀ line, w = .line line → classOf (128 * line) = .cacheable → line ∈ t.poison) ∧
        (∀ k r d, w = .vreg k r → s.drill? k = some d → ∃ d', t.drill? k = some d' ∧ r.toNat ∈ d'.regPoison ∧ d'.v = d.v) ∧
        (∀ k r d, w = .sreg k r → s.drill? k = some d → ∃ d', t.drill? k = some d' ∧ 0x100 + r.toNat ∈ d'.regPoison ∧ d'.s = d.s) ∧
        (∀ c a, w = .localStore c a → a ∈ (t.core c).lsPoison) ∧
        ∀ k p, (w = .bed k ∨ w = .acc k) → tblGet? s.plots k = some p → tblGet? t.plots k = some { p with poisoned := true }) ∧
    (∀ nonce agent, agent ≠ 96 → Idle (.attestationRequest nonce agent) s) ∧
    (∀ nonce, Happens (.attestationRequest nonce 96) s fun t => t = { s with report := t.report } ∧ t.report.length = 256 ∧
      t.report.take 32 = toBytes nonce 32 ∧ (t.report.drop 32).take 32 = sha256 s.image) ∧
    (∀ agent a size v,
      let i : Instr := .registerWrite agent a size v
      let whole : Prop := (size = 1 ∨ size = 2 ∨ size = 4 ∨ size = 8) ∧ a % size = 0
      (¬whole → Idle i s) ∧ (s.noPlace a = false → classOf a ≠ .uncached → Idle i s) ∧ (s.noPlace a = true → s.hartRuns agent = false → Idle i s) ∧
      (whole → s.noPlace a = true → s.hartRuns agent = true → HartTraps i s agent 7 (BitVec.ofNat 64 a))) ∧
    ∀ agent (v : DWord) n,
      (n < 4096 → Happens (.registerWrite agent (0x40000 + 8 * n) 8 v) s fun t => t.reg (0x40000 + 8 * n) = v &&& 0x001F03FF03FF007F ∧ only t [0x40000 + 8 * n]) ∧
      (n < 16 → Happens (.registerWrite agent (0xF0000 + 8 * n) 8 v) s fun t => t.reg (0xF0000 + 8 * n) = v &&& 0x800FFF0000000000 ∧ only t [0xF0000 + 8 * n]) ∧
      (n < 8192 → v.toNat % 8 = 1 → exec (.registerWrite agent (0x80000 + 32 * n + 20) 4 v) s = exec (.qcmdOpen n) s) ∧
      (n < 8192 → v.toNat % 8 = 4 → exec (.registerWrite agent (0x80000 + 32 * n + 20) 4 v) s = exec (.qcmdDrain n) s) ∧
      (linkKind n ≠ none → v.toNat % 8 = 3 → exec (.registerWrite agent (0xE0008 + 16 * n) 4 v) s =
        exec (.linkRetrain n) (s.setLink n { s.link n with hold := v.getLsbD 8 })) ∧
      exec (.registerWrite agent 0x70000 8 v) s = exec (.ocauseWrite v agent) s) ∧
  (
  ∀ (s : State) (b : BootIn),
    let cause (t : State) : Nat := (t.reg 0x70010).toNat
    let bare (t : State) : Prop := t.drills = [] ∧ t.groups = [] ∧ t.ctxs = [] ∧ t.queues = [] ∧ t.plots = [] ∧ t.owned = [] ∧ t.tlb = [] ∧ t.cores = [] ∧
      t.gtime = 0 ∧ (∀ a, a ≠ 0x70010 → (a < 0x70000 ∨ 0x70040 ≤ a) → t.reg a = regReset a) ∧ ∀ k, (t.stack k).st = .held ∨ (t.stack k).st = .forced
    let halted (t : State) : Prop := (∀ n, (t.hart n).wait = .off) ∧ cause t = 3
    let fresh (warm : Bool) : State := { s.afterReset warm with image := imageBytes b, imageVersion := b.version }
    let reached (n : Nat) (warm : Bool) : State := { (s.afterReset warm).setCause n with image := imageBytes b, imageVersion := b.version }
    let loads (s1 : State) : Prop := 0 < b.length ∧ s1.loadable b.loadPa b.length = true ∧ s1.gate b.loadPa = .go ∧ b.loadPa ≤ b.entryPa ∧ b.entryPa < b.loadPa + b.length
    let started (s1 t : State) : Prop := (t.hart 0).wait = .running ∧ (t.hart 0).pc = BitVec.ofNat 64 b.entryPa ∧ (t.hart 0).mode = .m ∧
      (∀ n, 1 ≤ n → n < 97 → (t.hart n).wait = .waiting ∧ (t.hart n).mode = .m) ∧ t.imageVersion = b.version ∧
      (∀ j < b.length, t.homeByte (b.loadPa + j) = b.body.getD j 0) ∧ ∀ a, a < b.loadPa ∨ b.loadPa + b.length ≤ a → t.homeByte a = s1.homeByte a
    let warmed (i : Instr) (n : Nat) : Prop :=
      (s.headerBad b = true → Happens i s fun t => bare t ∧ halted t ∧ t.mem = s.mem ∧ t.poison = s.poison ∧
        ∀ a, 0x70000 ≤ a → a < 0x70040 → a ≠ 0x70010 → t.reg a = s.reg a) ∧
      (s.headerBad b = false → ∀ s1, (reached n true).bootLinks b = (s1, true) → loads s1 → Memory.wf s = true → Happens i s fun t => started s1 t ∧ cause t = n)
    (s.headerBad b = true → Happens (.coldReset b) s fun t => bare t ∧ halted t ∧ t.mem = [] ∧ t.poison = []) ∧
    (s.headerBad b = false → ∀ s1, (fresh false).bootLinks b = (s1, false) → Happens (.coldReset b) s fun t => (∀ n, (t.hart n).wait = .off) ∧ cause t = 3) ∧
    (s.headerBad b = false → ∀ s1, (fresh false).bootLinks b = (s1, true) → loads s1 → Happens (.coldReset b) s fun t => started s1 t ∧ cause t = 0) ∧
    warmed (.warmReset true b) 1 ∧
    ((s.reg 0x70010).getLsbD 7 = true → warmed (.warmReset false b) 2) ∧
    ((s.reg 0x70010).getLsbD 7 = false → Idle (.warmReset false b) s))

/-- CONTEXTS (R257, R286, R289-R291, R308): each op of svl.ctxctl, its results and what it changes; a hart in a mode below takes the exception of its mode. -/
def Obligations.ContextCommands : Prop :=
  ∀ (s : State) (n : Nat) (rd rs1 rs2 : BitVec 5), s.cur = some (.hart n) → privileged (s.hart n) →
    let a := ((s.hart n).xAt rs1).toNat
    let b := ((s.hart n).xAt rs2).toNat
    let m := a % 4096
    let answers (i : Instr) (v : DWord) : (State → Prop) → Prop := HartAnswers i s n rd v
    let gives (i : Instr) (v : DWord) : Prop := answers i v fun t => Aside s t ∧ t.ctxs = s.ctxs
    let bad : Prop := 65536 ≤ a
    let sets (i : Instr) (x : Context) : Prop := answers i 0 fun t => t.ctx? m = some x ∧ (∀ j, j ≠ m → t.ctx? j = s.ctx? j) ∧ Aside s t
    let build : Instr := .ctxBuild rd rs1 rs2
    (bad ∨ 8 ≤ a / 4096 → gives build 4) ∧
    (a < 32768 → s.ctx? m ≠ none → gives build 1) ∧
    (a < 32768 → s.ctx? m = none → b % 256 ≠ 0 → gives build 2) ∧
    (a < 32768 → s.ctx? m = none → b % 256 = 0 → s.physHeld b 256 = true → Idle build s) ∧
    (a < 32768 → s.ctx? m = none → s.physHeld b 256 = false → s.physRead b 256 = none ∨ (∃ bs, s.physRead b 256 = some bs ∧ ctxIn bs = none) → gives build 2) ∧
    (∀ bs x, a < 32768 → s.ctx? m = none → b % 256 = 0 → s.physHeld b 256 = false → s.physRead b 256 = some bs → ctxIn bs = some x →
      ((∃ p ∈ s.ctxs, p.2.asid = x.asid) → gives build 2) ∧ ((∀ p ∈ s.ctxs, p.2.asid ≠ x.asid) → x.st = .built ∧ sets build x)) ∧
    (bad ∨ b ≠ 0 → gives (.ctxActivate rd rs1 rs2) 4 ∧ gives (.ctxPreempt rd rs1 rs2) 4 ∧ gives (.ctxKill rd rs1 rs2) 4 ∧ gives (.ctxRelease rd rs1 rs2) 4) ∧
    (bad → gives (.ctxBudget rd rs1 rs2) 4) ∧
    (bad ∨ 8 ≤ b → gives (.ctxPriority rd rs1 rs2) 4) ∧
    (bad ∨ 2 ^ 17 ≤ b → gives (.ctxRestart rd rs1 rs2) 4) ∧
    (¬bad → b = 0 → s.ctx? m = none → gives (.ctxActivate rd rs1 rs2) 1 ∧ gives (.ctxPreempt rd rs1 rs2) 1 ∧ gives (.ctxKill rd rs1 rs2) 1 ∧ gives (.ctxRelease rd rs1 rs2) 1) ∧
    (¬bad → s.ctx? m = none → gives (.ctxBudget rd rs1 rs2) 1 ∧ (b < 8 → gives (.ctxPriority rd rs1 rs2) 1)) ∧
    (∀ x, ¬bad → s.ctx? m = some x →
      sets (.ctxBudget rd rs1 rs2) { x with budget := b, armed := true } ∧
      (b < 8 → sets (.ctxPriority rd rs1 rs2) { x with prio := b }) ∧
      (b = 0 →
        let i : Instr := .ctxActivate rd rs1 rs2
        (x.st ≠ .built → x.st ≠ .suspended → gives i 1) ∧
        let held : Prop := ∃ va ∈ pagesOf x.saveBase (x.slots * x.garea), s.pinHeld x va = true
        (x.st = .built ∨ x.st = .suspended → held → Idle i s) ∧
        (x.st = .built ∨ x.st = .suspended → ¬held → if s.pinCheck x = true then sets i { x with st := .active } else gives i 3)) ∧
      (b = 0 → x.st ≠ .active → gives (.ctxPreempt rd rs1 rs2) 1) ∧
      (b = 0 → x.st = .active → answers (.ctxPreempt rd rs1 rs2) 0 fun t => t.ctx? m = some { x with st := .preempting } ∧ (∀ j, j ≠ m → t.ctx? j = s.ctx? j) ∧
        SameMemory s t ∧ SameDrills s t ∧ ∀ j g, s.group? j = some g → t.group? j = some
          (if g.ctx = m ∧ (g.st = .running ∨ s.waitsMates g = true) then { g with st := .preempting } else g)) ∧
      (b = 0 → x.st = .draining ∨ x.st = .retired → gives (.ctxKill rd rs1 rs2) 1) ∧
      (b = 0 → x.st = .built → answers (.ctxKill rd rs1 rs2) 0 fun t => (∃ y, t.ctx? m = some y ∧ y.st = .retired) ∧ t.mem = s.mem ∧ SameDrills s t) ∧
      (b = 0 → x.st ≠ .built → x.st ≠ .draining → x.st ≠ .retired → answers (.ctxKill rd rs1 rs2) 0 fun t => (∃ y, t.ctx? m = some y ∧ y.st = .draining) ∧
        (∀ j g, t.group? j = some g → g.ctx = m → g.alive = false) ∧ (∀ k d g, t.drill? k = some d → s.group? d.gid = some g → g.ctx = m → g.alive = false) ∧
        (∀ j p, tblGet? t.plots j = some p → p.ctx ≠ m) ∧ (∀ c e, e ∈ t.sysQ c → e.ctx ≠ m) ∧
        ∀ j, (t.queue j).ctx = m → (t.queue j).st = .disabled ∨ (t.queue j).st = .draining) ∧
      (b = 0 → x.st ≠ .retired → gives (.ctxRelease rd rs1 rs2) 1) ∧
      (b = 0 → x.st = .retired → answers (.ctxRelease rd rs1 rs2) 0 fun t => t.ctx? m = none ∧ (∀ j, j ≠ m → t.ctx? j = s.ctx? j) ∧ Aside s t ∧
        ∀ o ∈ t.oldPlots, o.ctx ≠ m)) ∧
    (let i : Instr := .ctxRestart rd rs1 rs2
     let mine (g : Sys2Proof.Machine.Group) : Prop := g.ctx = m ∧ g.alive = true ∧ g.saveSlot = b % 65536
     (¬bad → b < 2 ^ 17 → (∀ p ∈ s.groups, ¬mine p.2) → gives i 1) ∧
     ∀ j g rest, s.groups = (j, g) :: rest → mine g → ¬bad →
       let stays : Prop := answers i 1 fun t => Aside s t ∧ t.ctxs = s.ctxs
       (b < 65536 → if g.stI.stopped = none then stays else answers i 0 fun t =>
         t.group? j = some { g with stI := { g.stI with stopped := none, run := if g.stI.stopped = some true then none else g.stI.run } } ∧
         (∀ k, k ≠ j → t.group? k = s.group? k) ∧ t.ctxs = s.ctxs ∧ SameMemory s t ∧ SameDrills s t) ∧
       (65536 ≤ b → b < 2 ^ 17 → if g.stO.stopped = none then stays else answers i 0 fun t =>
         t.group? j = some { g with stO := { g.stO with stopped := none, run := if g.stO.stopped = some true then none else g.stO.run } } ∧
         (∀ k, k ≠ j → t.group? k = s.group? k) ∧ t.ctxs = s.ctxs ∧ SameMemory s t ∧ SameDrills s t))

/-- HARTS (R257, R311, R325-R328, R334, R355-R357): the results of a call reach its drill; a fault is answered by a replay or a kill; a packet is posted; events are set,
cleared and awaited; the exceptions (their entry is the model's reading of the family, log 12, PRESUMED). -/
def Obligations.HartCommands : Prop :=
  ∀ (s : State) (n : Nat) (rd rs1 rs2 : BitVec 5), s.cur = some (.hart n) →
    let h := s.hart n
    let a := (h.xAt rs1).toNat
    let b := (h.xAt rs2).toNat
    let gives (i : Instr) (v : DWord) : Prop := HartAnswers i s n rd v fun t => Aside s t ∧ t.sysEntries = s.sysEntries ∧ t.faultRecs = s.faultRecs ∧ t.ctxs = s.ctxs ∧ t.queues = s.queues
    let forms : List Instr := [.svlStkgrant rd rs1 rs2, .ctxBuild rd rs1 rs2, .ctxActivate rd rs1 rs2, .ctxPreempt rd rs1 rs2, .ctxKill rd rs1 rs2, .ctxRelease rd rs1 rs2,
      .ctxBudget rd rs1 rs2, .ctxPriority rd rs1 rs2, .ctxRestart rd rs1 rs2, .svlSysret rd rs1 rs2, .svlFqdone rd rs1 rs2, .svlFqkill rd rs1 rs2, .svlEvsig rd rs1 rs2,
      .svlEvclr rd rs1 rs2, .svlEvwait rd rs1 rs2]
    (∀ i ∈ forms, (h.mode = .u → HartTraps i s n 2 (s.wordValue h)) ∧ (h.mode = .vs ∨ h.mode = .vu → HartTraps i s n 22 (s.wordValue h))) ∧
    (∀ c v gpa, c < 64 → h.takes c = .hs → let t := h.trap c v gpa
      t.csrAt 0x141 = h.pc ∧ t.csrAt 0x142 = BitVec.ofNat 64 c ∧ t.csrAt 0x143 = v ∧ t.mode = .hs ∧ t.pc = h.csrAt 0x105 &&& 0xFFFFFFFFFFFFFFFC ∧ t.x = h.x) ∧
    (∀ c, h.mode = .m ∨ h.csrBit 0x302 c = false → h.takes c = .m) ∧
    (∀ c v gpa, c < 64 → h.takes c = .m → let t := h.trap c v gpa
      t.mepc = h.pc ∧ t.mcause = BitVec.ofNat 64 c ∧ t.mtval = v ∧ t.mode = .m ∧ t.pc = h.mtvec &&& 0xFFFFFFFFFFFFFFFC ∧ t.mpie = h.mie ∧ t.mie = false ∧ t.x = h.x ∧
      (h.mode = .m → t.mpp = 3) ∧ (h.mode = .hs ∨ h.mode = .vs → t.mpp = 1) ∧ (h.mode = .u ∨ h.mode = .vu → t.mpp = 0) ∧
      (t.mpv = true ↔ h.mode = .vs ∨ h.mode = .vu)) ∧
    (privileged h →
      let i : Instr := .svlSysret rd rs1 rs2
      let q := sysretChip n
      let found (e : SysEntry) : Prop := s.sysQ q = [e] ∧ e.posted = true ∧ e.entry = a
      let load : HartLoad := s.hartLoad h (h.xAt rs2) 32
      (1024 ≤ a → gives i 4) ∧
      (a < 1024 → (∀ e ∈ s.sysQ q, e.posted = false ∨ e.entry ≠ a) → gives i 1) ∧
      (∀ e, a < 1024 → found e → e.kind < 2 → s.entryDrill e = none → gives i 1) ∧
      (∀ e k d g, a < 1024 → found e → s.entryDrill e = some (k, d, g) →
        let back (P : Drill → Prop) : Prop := HartAnswers i s n rd 0 fun t => t.sysQ q = [] ∧ SameMemory s t ∧ (∀ j, j ≠ k → t.drill? j = s.drill? j) ∧ ∃ d', t.drill? k = some d' ∧
          d'.st = .ready ∧ d'.park = none ∧ d'.v = d.v ∧ d'.k = d.k ∧ d'.cm = d.cm ∧ d'.pc = (if xiV d.xi = true then xiPc d.xi + BitVec.ofNat 64 (8 * xiIdx d.xi) else d.epc) ∧ P d'
        (∀ bs pa, e.kind = 0 → load = .bytes bs pa → let m := field (wordIn e.bytes 28) 0 3
          back fun d' => (∀ j < 8, sNamed d g (8 * m + j) 1 = true → d'.sAt (sStore d.sysMode (8 * m + j)) = wordIn bs (4 * j)) ∧
            ∀ r, (∀ j < 8, sNamed d g (8 * m + j) 1 = true → r ≠ sStore d.sysMode (8 * m + j)) → d'.sAt r = d.sAt r) ∧
        (∀ c va gpa, e.kind = 0 → load = .fault c va gpa → HartTraps i s n c va gpa) ∧
        (e.kind = 0 → load = .held → Idle i s) ∧
        (e.kind = 1 → back fun d' => d'.s = d.s)) ∧
      (∀ e l x, a < 1024 → found e → e.kind = 3 → e.launch = some l → tblGet? s.launches l = some x → x.exited + 1 ≠ x.total → x.cut = false →
        HartAnswers i s n rd 0 fun t => t.sysQ q = [] ∧ tblGet? t.launches l = some { x with taskAt := none, exited := x.exited + 1 } ∧ SameMemory s t ∧ SameDrills s t)) ∧
    (privileged h →
      let chip := a / 4096 % 16
      let done : Instr := .svlFqdone rd rs1 rs2
      let kill : Instr := .svlFqkill rd rs1 rs2
      (65536 ≤ a ∨ chip < 4 ∨ 11 < chip ∨ b ≠ 0 → gives done 4 ∧ gives kill 4) ∧
      (a < 65536 → 4 ≤ chip → chip ≤ 11 → b = 0 → s.recAt chip (a % 4096) = none → gives done 1 ∧ gives kill 1) ∧
      (∀ m r, a < 65536 → 4 ≤ chip → chip ≤ 11 → b = 0 → s.recAt chip (a % 4096) = some (m, r) →
        (HartAnswers done s n rd 0 fun t => tblGet? (t.recs chip) m = none ∧ SameMemory s t ∧ t.ctxs = s.ctxs ∧ (∀ j, j ≠ m → tblGet? (t.recs chip) j = tblGet? (s.recs chip) j) ∧
          ∀ k d, s.drill? k = some d → let waits (d : Drill) : Prop := drillChip k = chip ∧ ∃ l, d.park = some (.faults l) ∧ m ∈ l
            (waits d → ∃ d', t.drill? k = some d' ∧ d'.st = .ready ∧ d'.park = none ∧ d'.v = d.v ∧ d'.s = d.s) ∧
            ((∀ e, (k, e) ∈ s.drills → ¬waits e) → t.drill? k = some d)) ∧
        (∀ x, s.ctx? r.ctx = some x → x.st = .active ∨ x.st = .preempting → HartAnswers kill s n rd 0 fun t => tblGet? (t.recs chip) m = none ∧
          ∃ y, t.ctx? r.ctx = some y ∧ y.st = .draining))) ∧
    (let i : Instr := .svlQpost rd rs1 rs2
     let q := s.queue (b % 8192)
     let may : Prop := h.mode = .m ∨ h.mode = .hs ∨ q.ctl.getLsbD 20 = true
     let up : Prop := q.st = .opened ∨ q.st = .paused
     (a % 128 ≠ 0 → HartTraps i s n 4 (h.xAt rs1)) ∧
     (∀ c va gpa, a % 128 = 0 → s.hartLoad h (h.xAt rs1) 128 = .fault c va gpa → HartTraps i s n c va gpa) ∧
     (a % 128 = 0 → s.hartLoad h (h.xAt rs1) 128 = .held → Idle i s) ∧
     ∀ bs pa, a % 128 = 0 → s.hartLoad h (h.xAt rs1) 128 = .bytes bs pa →
       (8192 ≤ b → gives i 4) ∧ (b < 8192 → ¬may → gives i 3) ∧ (b < 8192 → may → ¬up → gives i 2) ∧ (b < 8192 → may → up → q.full = true → gives i 1) ∧
       (b < 8192 → may → up → q.full = false → (∀ e ∈ q.entries, e.id ≠ s.seq) → HartAnswers i s n rd 0 fun t => Aside s t ∧ t.seq = s.seq + 1 ∧ t.queue b = { q with
           entries := q.entries ++ [{ id := s.seq, idx := q.tail, posted := true, pa := some pa, snap := bs, hart := some n }], tail := (q.tail + 1) % q.size } ∧
         ∀ j, j ≠ b → t.queue j = s.queue j)) ∧
    (let waits : Prop := ∃ p ∈ s.queues, ∃ e ∈ p.2.entries, e.hart = some n ∧ e.filled = false
     (waits → Idle .svlQfence s) ∧ (¬waits → HartAnswers .svlQfence s n 0 0 fun t => Aside s t ∧ t.queues = s.queues)) ∧
    (privileged h →
      let c := b / 4 % 4096
      let w := b % 4
      let sig : Instr := .svlEvsig rd rs1 rs2
      let clr : Instr := .svlEvclr rd rs1 rs2
      let wait : Instr := .svlEvwait rd rs1 rs2
      let there (x : Context) : Prop := s.ctx? c = some x ∧ x.st ≠ .retired
      let writes (i : Instr) (x : Context) (v : DWord) : Prop := HartAnswers i s n rd 0 fun t => Aside s t ∧ ∃ y, t.ctx? c = some y ∧ y.event w = v ∧ y.st = x.st ∧
        (∀ j < 4, j ≠ w → y.event j = x.event j) ∧ ∀ j, j ≠ c → t.ctx? j = s.ctx? j
      (16384 ≤ b → gives sig 4 ∧ gives clr 4 ∧ gives wait 0) ∧
      (b < 16384 → (∀ x, ¬there x) → gives sig 2 ∧ gives clr 2 ∧ gives wait 0) ∧
      ∀ x, b < 16384 → there x →
        writes sig x (x.event w ||| h.xAt rs1) ∧ writes clr x (x.event w &&& ~~~h.xAt rs1) ∧
        (x.event w &&& h.xAt rs1 = h.xAt rs1 ∨ s.hartIrq n = true → gives wait (x.event w)) ∧
        (x.event w &&& h.xAt rs1 ≠ h.xAt rs1 → s.hartIrq n = false → Idle wait s))
end

