-- ==== Sys2Proof/Laws/Table.lean ====
section
/-!
SUPPORT. Tables: what a lookup finds after a change.
-/
namespace Sys2Proof.Laws
open Sys2Proof.Machine

@[simp] theorem tblGet?_nil {α : Type} (i : Nat) : tblGet? ([] : Tbl α) i = none := rfl

@[simp] theorem tblGet?_set {α : Type} (t : Tbl α) (i j : Nat) (a : α) :
    tblGet? (tblSet t i a) j = if i = j then some a else tblGet? t j := by
  induction t with
  | nil => simp [tblSet, tblGet?]
  | cons p r ih =>
    obtain ⟨x, b⟩ := p
    simp only [tblSet]
    split
    · simp [tblGet?]
    · split
      · subst_vars; by_cases hj : x = j <;> simp_all [tblGet?]
      · by_cases hj : x = j
        · subst hj; simp_all [tblGet?]
        · simp_all [tblGet?]

@[simp] theorem tblGet?_mod {α : Type} (t : Tbl α) (i j : Nat) (f : α → α) :
    tblGet? (tblMod t i f) j = if i = j then (tblGet? t j).map f else tblGet? t j := by
  induction t with
  | nil => simp [tblMod, tblGet?]
  | cons p r ih =>
    obtain ⟨x, b⟩ := p
    simp only [tblMod] at ih
    simp only [tblMod, List.map_cons]
    by_cases hx : x = i <;> by_cases hj : x = j <;> (simp_all [tblGet?]; try omega)

@[simp] theorem tblGet?_erase {α : Type} (t : Tbl α) (i j : Nat) :
    tblGet? (tblErase t i) j = if i = j then none else tblGet? t j := by
  induction t with
  | nil => simp [tblErase, tblGet?]
  | cons p r ih =>
    obtain ⟨x, b⟩ := p
    simp only [tblErase] at ih
    by_cases hx : x = i <;> by_cases hj : x = j <;> (simp_all [tblErase, tblGet?]; try omega)

@[simp] theorem tblGet?_map {α : Type} (t : Tbl α) (j : Nat) (f : Nat → α → α) :
    tblGet? (tblMap t f) j = (tblGet? t j).map (f j) := by
  induction t with
  | nil => rfl
  | cons p r ih =>
    obtain ⟨x, b⟩ := p
    simp only [tblMap] at ih
    by_cases hj : x = j <;> simp_all [tblMap, tblGet?]

theorem tblGet?_mapSnd {α : Type} (t : Tbl α) (j : Nat) (f : Nat → α → α) :
    tblGet? (t.map fun p => (p.1, f p.1 p.2)) j = (tblGet? t j).map (f j) := tblGet?_map t j f

theorem mem_of_tblGet? {α : Type} {t : Tbl α} {i : Nat} {a : α} (h : tblGet? t i = some a) : (i, a) ∈ t := by
  induction t with
  | nil => simp at h
  | cons p r ih =>
    obtain ⟨x, b⟩ := p
    by_cases hx : x = i <;> simp_all [tblGet?]

@[simp] theorem lane_lanesOf {w : Nat} (f : Nat → BitVec w) (i : Nat) (h : i < 32) : lane (lanesOf f) i = f i := by
  simp [lane, lanesOf, Vector.getD, h]

@[simp] theorem lane_splat {w : Nat} (x : BitVec w) (i : Nat) (h : i < 32) : lane (splat x) i = x := by
  simp [lane, splat, Vector.getD, h]

theorem lane_merge {w : Nat} (m : Mask) (a b : Vector (BitVec w) 32) (i : Nat) (h : i < 32) :
    lane (merge m a b) i = if inMask m i then lane a i else lane b i := by
  simp [merge, h]

theorem mem_maskLanes (m : Mask) (i : Nat) : i ∈ maskLanes m ↔ i < 32 ∧ inMask m i = true := by
  simp [maskLanes]

@[simp] theorem inMask_maskOf (p : Nat → Bool) (i : Nat) (h : i < 32) : inMask (maskOf p) i = p i := by
  simp only [inMask, maskOf, BitVec.getLsbD_setWidth, BitVec.getLsbD_ofBoolListLE]
  simp [h]

end Sys2Proof.Laws
end

