-- ==== Sys2Proof/Laws/State.lean ====
section
/-!
SUPPORT. What each update of the state leaves alone: one lemma a field, by rfl.
-/
namespace Sys2Proof.Laws
open Sys2Proof.Machine

/-! `State.setDrill` changes `drills` only. -/
@[simp] theorem setDrill_agenda (s : State) (k : Nat) (d : Drill) : (s.setDrill k d).agenda = s.agenda := rfl
@[simp] theorem setDrill_cur (s : State) (k : Nat) (d : Drill) : (s.setDrill k d).cur = s.cur := rfl
@[simp] theorem setDrill_tick (s : State) (k : Nat) (d : Drill) : (s.setDrill k d).tick = s.tick := rfl
@[simp] theorem setDrill_seq (s : State) (k : Nat) (d : Drill) : (s.setDrill k d).seq = s.seq := rfl
@[simp] theorem setDrill_gtime (s : State) (k : Nat) (d : Drill) : (s.setDrill k d).gtime = s.gtime := rfl
@[simp] theorem setDrill_mem (s : State) (k : Nat) (d : Drill) : (s.setDrill k d).mem = s.mem := rfl
@[simp] theorem setDrill_poison (s : State) (k : Nat) (d : Drill) : (s.setDrill k d).poison = s.poison := rfl
@[simp] theorem setDrill_owned (s : State) (k : Nat) (d : Drill) : (s.setDrill k d).owned = s.owned := rfl
@[simp] theorem setDrill_sharers (s : State) (k : Nat) (d : Drill) : (s.setDrill k d).sharers = s.sharers := rfl
@[simp] theorem setDrill_grants (s : State) (k : Nat) (d : Drill) : (s.setDrill k d).grants = s.grants := rfl
@[simp] theorem setDrill_tlb (s : State) (k : Nat) (d : Drill) : (s.setDrill k d).tlb = s.tlb := rfl
@[simp] theorem setDrill_cores (s : State) (k : Nat) (d : Drill) : (s.setDrill k d).cores = s.cores := rfl
@[simp] theorem setDrill_groups (s : State) (k : Nat) (d : Drill) : (s.setDrill k d).groups = s.groups := rfl
@[simp] theorem setDrill_crofts (s : State) (k : Nat) (d : Drill) : (s.setDrill k d).crofts = s.crofts := rfl
@[simp] theorem setDrill_launches (s : State) (k : Nat) (d : Drill) : (s.setDrill k d).launches = s.launches := rfl
@[simp] theorem setDrill_queues (s : State) (k : Nat) (d : Drill) : (s.setDrill k d).queues = s.queues := rfl
@[simp] theorem setDrill_lastChosen (s : State) (k : Nat) (d : Drill) : (s.setDrill k d).lastChosen = s.lastChosen := rfl
@[simp] theorem setDrill_ctxs (s : State) (k : Nat) (d : Drill) : (s.setDrill k d).ctxs = s.ctxs := rfl
@[simp] theorem setDrill_plots (s : State) (k : Nat) (d : Drill) : (s.setDrill k d).plots = s.plots := rfl
@[simp] theorem setDrill_oldPlots (s : State) (k : Nat) (d : Drill) : (s.setDrill k d).oldPlots = s.oldPlots := rfl
@[simp] theorem setDrill_stackTbl (s : State) (k : Nat) (d : Drill) : (s.setDrill k d).stackTbl = s.stackTbl := rfl
@[simp] theorem setDrill_links (s : State) (k : Nat) (d : Drill) : (s.setDrill k d).links = s.links := rfl
@[simp] theorem setDrill_tables (s : State) (k : Nat) (d : Drill) : (s.setDrill k d).tables = s.tables := rfl
@[simp] theorem setDrill_faultRecs (s : State) (k : Nat) (d : Drill) : (s.setDrill k d).faultRecs = s.faultRecs := rfl
@[simp] theorem setDrill_sysEntries (s : State) (k : Nat) (d : Drill) : (s.setDrill k d).sysEntries = s.sysEntries := rfl
@[simp] theorem setDrill_harts (s : State) (k : Nat) (d : Drill) : (s.setDrill k d).harts = s.harts := rfl
@[simp] theorem setDrill_imsics (s : State) (k : Nat) (d : Drill) : (s.setDrill k d).imsics = s.imsics := rfl
@[simp] theorem setDrill_regs (s : State) (k : Nat) (d : Drill) : (s.setDrill k d).regs = s.regs := rfl
@[simp] theorem setDrill_icflush (s : State) (k : Nat) (d : Drill) : (s.setDrill k d).icflush = s.icflush := rfl
@[simp] theorem setDrill_railBusy (s : State) (k : Nat) (d : Drill) : (s.setDrill k d).railBusy = s.railBusy := rfl
@[simp] theorem setDrill_image (s : State) (k : Nat) (d : Drill) : (s.setDrill k d).image = s.image := rfl
@[simp] theorem setDrill_imageVersion (s : State) (k : Nat) (d : Drill) : (s.setDrill k d).imageVersion = s.imageVersion := rfl
@[simp] theorem setDrill_imageEntry (s : State) (k : Nat) (d : Drill) : (s.setDrill k d).imageEntry = s.imageEntry := rfl
@[simp] theorem setDrill_report (s : State) (k : Nat) (d : Drill) : (s.setDrill k d).report = s.report := rfl
@[simp] theorem setDrill_inbound (s : State) (k : Nat) (d : Drill) : (s.setDrill k d).inbound = s.inbound := rfl
@[simp] theorem setDrill_walks (s : State) (k : Nat) (d : Drill) : (s.setDrill k d).walks = s.walks := rfl
@[simp] theorem setDrill_clkIdle (s : State) (k : Nat) (d : Drill) : (s.setDrill k d).clkIdle = s.clkIdle := rfl
@[simp] theorem setDrill_clkOff (s : State) (k : Nat) (d : Drill) : (s.setDrill k d).clkOff = s.clkOff := rfl
@[simp] theorem setDrill_nowAlarms (s : State) (k : Nat) (d : Drill) : (s.setDrill k d).nowAlarms = s.nowAlarms := rfl
@[simp] theorem setDrill_nowBoost (s : State) (k : Nat) (d : Drill) : (s.setDrill k d).nowBoost = s.nowBoost := rfl
@[simp] theorem setDrill_tripSince (s : State) (k : Nat) (d : Drill) : (s.setDrill k d).tripSince = s.tripSince := rfl
@[simp] theorem setDrill_uvRec (s : State) (k : Nat) (d : Drill) : (s.setDrill k d).uvRec = s.uvRec := rfl
@[simp] theorem setDrill_keyHash (s : State) (k : Nat) (d : Drill) : (s.setDrill k d).keyHash = s.keyHash := rfl
@[simp] theorem setDrill_strays (s : State) (k : Nat) (d : Drill) : (s.setDrill k d).strays = s.strays := rfl
@[simp] theorem setDrill_iommu (s : State) (k : Nat) (d : Drill) : (s.setDrill k d).iommu = s.iommu := rfl
@[simp] theorem setDrill_iommuInvals (s : State) (k : Nat) (d : Drill) : (s.setDrill k d).iommuInvals = s.iommuInvals := rfl
@[simp] theorem setDrill_ioEntries (s : State) (k : Nat) (d : Drill) : (s.setDrill k d).ioEntries = s.ioEntries := rfl
@[simp] theorem setDrill_devAnswer (s : State) (k : Nat) (d : Drill) : (s.setDrill k d).devAnswer = s.devAnswer := rfl

/-! `State.modDrill` changes `drills` only. -/
@[simp] theorem modDrill_agenda (s : State) (k : Nat) (f : Drill → Drill) : (s.modDrill k f).agenda = s.agenda := rfl
@[simp] theorem modDrill_cur (s : State) (k : Nat) (f : Drill → Drill) : (s.modDrill k f).cur = s.cur := rfl
@[simp] theorem modDrill_tick (s : State) (k : Nat) (f : Drill → Drill) : (s.modDrill k f).tick = s.tick := rfl
@[simp] theorem modDrill_seq (s : State) (k : Nat) (f : Drill → Drill) : (s.modDrill k f).seq = s.seq := rfl
@[simp] theorem modDrill_gtime (s : State) (k : Nat) (f : Drill → Drill) : (s.modDrill k f).gtime = s.gtime := rfl
@[simp] theorem modDrill_mem (s : State) (k : Nat) (f : Drill → Drill) : (s.modDrill k f).mem = s.mem := rfl
@[simp] theorem modDrill_poison (s : State) (k : Nat) (f : Drill → Drill) : (s.modDrill k f).poison = s.poison := rfl
@[simp] theorem modDrill_owned (s : State) (k : Nat) (f : Drill → Drill) : (s.modDrill k f).owned = s.owned := rfl
@[simp] theorem modDrill_sharers (s : State) (k : Nat) (f : Drill → Drill) : (s.modDrill k f).sharers = s.sharers := rfl
@[simp] theorem modDrill_grants (s : State) (k : Nat) (f : Drill → Drill) : (s.modDrill k f).grants = s.grants := rfl
@[simp] theorem modDrill_tlb (s : State) (k : Nat) (f : Drill → Drill) : (s.modDrill k f).tlb = s.tlb := rfl
@[simp] theorem modDrill_cores (s : State) (k : Nat) (f : Drill → Drill) : (s.modDrill k f).cores = s.cores := rfl
@[simp] theorem modDrill_groups (s : State) (k : Nat) (f : Drill → Drill) : (s.modDrill k f).groups = s.groups := rfl
@[simp] theorem modDrill_crofts (s : State) (k : Nat) (f : Drill → Drill) : (s.modDrill k f).crofts = s.crofts := rfl
@[simp] theorem modDrill_launches (s : State) (k : Nat) (f : Drill → Drill) : (s.modDrill k f).launches = s.launches := rfl
@[simp] theorem modDrill_queues (s : State) (k : Nat) (f : Drill → Drill) : (s.modDrill k f).queues = s.queues := rfl
@[simp] theorem modDrill_lastChosen (s : State) (k : Nat) (f : Drill → Drill) : (s.modDrill k f).lastChosen = s.lastChosen := rfl
@[simp] theorem modDrill_ctxs (s : State) (k : Nat) (f : Drill → Drill) : (s.modDrill k f).ctxs = s.ctxs := rfl
@[simp] theorem modDrill_plots (s : State) (k : Nat) (f : Drill → Drill) : (s.modDrill k f).plots = s.plots := rfl
@[simp] theorem modDrill_oldPlots (s : State) (k : Nat) (f : Drill → Drill) : (s.modDrill k f).oldPlots = s.oldPlots := rfl
@[simp] theorem modDrill_stackTbl (s : State) (k : Nat) (f : Drill → Drill) : (s.modDrill k f).stackTbl = s.stackTbl := rfl
@[simp] theorem modDrill_links (s : State) (k : Nat) (f : Drill → Drill) : (s.modDrill k f).links = s.links := rfl
@[simp] theorem modDrill_tables (s : State) (k : Nat) (f : Drill → Drill) : (s.modDrill k f).tables = s.tables := rfl
@[simp] theorem modDrill_faultRecs (s : State) (k : Nat) (f : Drill → Drill) : (s.modDrill k f).faultRecs = s.faultRecs := rfl
@[simp] theorem modDrill_sysEntries (s : State) (k : Nat) (f : Drill → Drill) : (s.modDrill k f).sysEntries = s.sysEntries := rfl
@[simp] theorem modDrill_harts (s : State) (k : Nat) (f : Drill → Drill) : (s.modDrill k f).harts = s.harts := rfl
@[simp] theorem modDrill_imsics (s : State) (k : Nat) (f : Drill → Drill) : (s.modDrill k f).imsics = s.imsics := rfl
@[simp] theorem modDrill_regs (s : State) (k : Nat) (f : Drill → Drill) : (s.modDrill k f).regs = s.regs := rfl
@[simp] theorem modDrill_icflush (s : State) (k : Nat) (f : Drill → Drill) : (s.modDrill k f).icflush = s.icflush := rfl
@[simp] theorem modDrill_railBusy (s : State) (k : Nat) (f : Drill → Drill) : (s.modDrill k f).railBusy = s.railBusy := rfl
@[simp] theorem modDrill_image (s : State) (k : Nat) (f : Drill → Drill) : (s.modDrill k f).image = s.image := rfl
@[simp] theorem modDrill_imageVersion (s : State) (k : Nat) (f : Drill → Drill) : (s.modDrill k f).imageVersion = s.imageVersion := rfl
@[simp] theorem modDrill_imageEntry (s : State) (k : Nat) (f : Drill → Drill) : (s.modDrill k f).imageEntry = s.imageEntry := rfl
@[simp] theorem modDrill_report (s : State) (k : Nat) (f : Drill → Drill) : (s.modDrill k f).report = s.report := rfl
@[simp] theorem modDrill_inbound (s : State) (k : Nat) (f : Drill → Drill) : (s.modDrill k f).inbound = s.inbound := rfl
@[simp] theorem modDrill_walks (s : State) (k : Nat) (f : Drill → Drill) : (s.modDrill k f).walks = s.walks := rfl
@[simp] theorem modDrill_clkIdle (s : State) (k : Nat) (f : Drill → Drill) : (s.modDrill k f).clkIdle = s.clkIdle := rfl
@[simp] theorem modDrill_clkOff (s : State) (k : Nat) (f : Drill → Drill) : (s.modDrill k f).clkOff = s.clkOff := rfl
@[simp] theorem modDrill_nowAlarms (s : State) (k : Nat) (f : Drill → Drill) : (s.modDrill k f).nowAlarms = s.nowAlarms := rfl
@[simp] theorem modDrill_nowBoost (s : State) (k : Nat) (f : Drill → Drill) : (s.modDrill k f).nowBoost = s.nowBoost := rfl
@[simp] theorem modDrill_tripSince (s : State) (k : Nat) (f : Drill → Drill) : (s.modDrill k f).tripSince = s.tripSince := rfl
@[simp] theorem modDrill_uvRec (s : State) (k : Nat) (f : Drill → Drill) : (s.modDrill k f).uvRec = s.uvRec := rfl
@[simp] theorem modDrill_keyHash (s : State) (k : Nat) (f : Drill → Drill) : (s.modDrill k f).keyHash = s.keyHash := rfl
@[simp] theorem modDrill_strays (s : State) (k : Nat) (f : Drill → Drill) : (s.modDrill k f).strays = s.strays := rfl
@[simp] theorem modDrill_iommu (s : State) (k : Nat) (f : Drill → Drill) : (s.modDrill k f).iommu = s.iommu := rfl
@[simp] theorem modDrill_iommuInvals (s : State) (k : Nat) (f : Drill → Drill) : (s.modDrill k f).iommuInvals = s.iommuInvals := rfl
@[simp] theorem modDrill_ioEntries (s : State) (k : Nat) (f : Drill → Drill) : (s.modDrill k f).ioEntries = s.ioEntries := rfl
@[simp] theorem modDrill_devAnswer (s : State) (k : Nat) (f : Drill → Drill) : (s.modDrill k f).devAnswer = s.devAnswer := rfl

/-! `State.setGroup` changes `groups` only. -/
@[simp] theorem setGroup_agenda (s : State) (k : Nat) (g : Group) : (s.setGroup k g).agenda = s.agenda := rfl
@[simp] theorem setGroup_cur (s : State) (k : Nat) (g : Group) : (s.setGroup k g).cur = s.cur := rfl
@[simp] theorem setGroup_tick (s : State) (k : Nat) (g : Group) : (s.setGroup k g).tick = s.tick := rfl
@[simp] theorem setGroup_seq (s : State) (k : Nat) (g : Group) : (s.setGroup k g).seq = s.seq := rfl
@[simp] theorem setGroup_gtime (s : State) (k : Nat) (g : Group) : (s.setGroup k g).gtime = s.gtime := rfl
@[simp] theorem setGroup_mem (s : State) (k : Nat) (g : Group) : (s.setGroup k g).mem = s.mem := rfl
@[simp] theorem setGroup_poison (s : State) (k : Nat) (g : Group) : (s.setGroup k g).poison = s.poison := rfl
@[simp] theorem setGroup_owned (s : State) (k : Nat) (g : Group) : (s.setGroup k g).owned = s.owned := rfl
@[simp] theorem setGroup_sharers (s : State) (k : Nat) (g : Group) : (s.setGroup k g).sharers = s.sharers := rfl
@[simp] theorem setGroup_grants (s : State) (k : Nat) (g : Group) : (s.setGroup k g).grants = s.grants := rfl
@[simp] theorem setGroup_tlb (s : State) (k : Nat) (g : Group) : (s.setGroup k g).tlb = s.tlb := rfl
@[simp] theorem setGroup_drills (s : State) (k : Nat) (g : Group) : (s.setGroup k g).drills = s.drills := rfl
@[simp] theorem setGroup_cores (s : State) (k : Nat) (g : Group) : (s.setGroup k g).cores = s.cores := rfl
@[simp] theorem setGroup_crofts (s : State) (k : Nat) (g : Group) : (s.setGroup k g).crofts = s.crofts := rfl
@[simp] theorem setGroup_launches (s : State) (k : Nat) (g : Group) : (s.setGroup k g).launches = s.launches := rfl
@[simp] theorem setGroup_queues (s : State) (k : Nat) (g : Group) : (s.setGroup k g).queues = s.queues := rfl
@[simp] theorem setGroup_lastChosen (s : State) (k : Nat) (g : Group) : (s.setGroup k g).lastChosen = s.lastChosen := rfl
@[simp] theorem setGroup_ctxs (s : State) (k : Nat) (g : Group) : (s.setGroup k g).ctxs = s.ctxs := rfl
@[simp] theorem setGroup_plots (s : State) (k : Nat) (g : Group) : (s.setGroup k g).plots = s.plots := rfl
@[simp] theorem setGroup_oldPlots (s : State) (k : Nat) (g : Group) : (s.setGroup k g).oldPlots = s.oldPlots := rfl
@[simp] theorem setGroup_stackTbl (s : State) (k : Nat) (g : Group) : (s.setGroup k g).stackTbl = s.stackTbl := rfl
@[simp] theorem setGroup_links (s : State) (k : Nat) (g : Group) : (s.setGroup k g).links = s.links := rfl
@[simp] theorem setGroup_tables (s : State) (k : Nat) (g : Group) : (s.setGroup k g).tables = s.tables := rfl
@[simp] theorem setGroup_faultRecs (s : State) (k : Nat) (g : Group) : (s.setGroup k g).faultRecs = s.faultRecs := rfl
@[simp] theorem setGroup_sysEntries (s : State) (k : Nat) (g : Group) : (s.setGroup k g).sysEntries = s.sysEntries := rfl
@[simp] theorem setGroup_harts (s : State) (k : Nat) (g : Group) : (s.setGroup k g).harts = s.harts := rfl
@[simp] theorem setGroup_imsics (s : State) (k : Nat) (g : Group) : (s.setGroup k g).imsics = s.imsics := rfl
@[simp] theorem setGroup_regs (s : State) (k : Nat) (g : Group) : (s.setGroup k g).regs = s.regs := rfl
@[simp] theorem setGroup_icflush (s : State) (k : Nat) (g : Group) : (s.setGroup k g).icflush = s.icflush := rfl
@[simp] theorem setGroup_railBusy (s : State) (k : Nat) (g : Group) : (s.setGroup k g).railBusy = s.railBusy := rfl
@[simp] theorem setGroup_image (s : State) (k : Nat) (g : Group) : (s.setGroup k g).image = s.image := rfl
@[simp] theorem setGroup_imageVersion (s : State) (k : Nat) (g : Group) : (s.setGroup k g).imageVersion = s.imageVersion := rfl
@[simp] theorem setGroup_imageEntry (s : State) (k : Nat) (g : Group) : (s.setGroup k g).imageEntry = s.imageEntry := rfl
@[simp] theorem setGroup_report (s : State) (k : Nat) (g : Group) : (s.setGroup k g).report = s.report := rfl
@[simp] theorem setGroup_inbound (s : State) (k : Nat) (g : Group) : (s.setGroup k g).inbound = s.inbound := rfl
@[simp] theorem setGroup_walks (s : State) (k : Nat) (g : Group) : (s.setGroup k g).walks = s.walks := rfl
@[simp] theorem setGroup_clkIdle (s : State) (k : Nat) (g : Group) : (s.setGroup k g).clkIdle = s.clkIdle := rfl
@[simp] theorem setGroup_clkOff (s : State) (k : Nat) (g : Group) : (s.setGroup k g).clkOff = s.clkOff := rfl
@[simp] theorem setGroup_nowAlarms (s : State) (k : Nat) (g : Group) : (s.setGroup k g).nowAlarms = s.nowAlarms := rfl
@[simp] theorem setGroup_nowBoost (s : State) (k : Nat) (g : Group) : (s.setGroup k g).nowBoost = s.nowBoost := rfl
@[simp] theorem setGroup_tripSince (s : State) (k : Nat) (g : Group) : (s.setGroup k g).tripSince = s.tripSince := rfl
@[simp] theorem setGroup_uvRec (s : State) (k : Nat) (g : Group) : (s.setGroup k g).uvRec = s.uvRec := rfl
@[simp] theorem setGroup_keyHash (s : State) (k : Nat) (g : Group) : (s.setGroup k g).keyHash = s.keyHash := rfl
@[simp] theorem setGroup_strays (s : State) (k : Nat) (g : Group) : (s.setGroup k g).strays = s.strays := rfl
@[simp] theorem setGroup_iommu (s : State) (k : Nat) (g : Group) : (s.setGroup k g).iommu = s.iommu := rfl
@[simp] theorem setGroup_iommuInvals (s : State) (k : Nat) (g : Group) : (s.setGroup k g).iommuInvals = s.iommuInvals := rfl
@[simp] theorem setGroup_ioEntries (s : State) (k : Nat) (g : Group) : (s.setGroup k g).ioEntries = s.ioEntries := rfl
@[simp] theorem setGroup_devAnswer (s : State) (k : Nat) (g : Group) : (s.setGroup k g).devAnswer = s.devAnswer := rfl

/-! `State.modGroup` changes `groups` only. -/
@[simp] theorem modGroup_agenda (s : State) (k : Nat) (f : Group → Group) : (s.modGroup k f).agenda = s.agenda := rfl
@[simp] theorem modGroup_cur (s : State) (k : Nat) (f : Group → Group) : (s.modGroup k f).cur = s.cur := rfl
@[simp] theorem modGroup_tick (s : State) (k : Nat) (f : Group → Group) : (s.modGroup k f).tick = s.tick := rfl
@[simp] theorem modGroup_seq (s : State) (k : Nat) (f : Group → Group) : (s.modGroup k f).seq = s.seq := rfl
@[simp] theorem modGroup_gtime (s : State) (k : Nat) (f : Group → Group) : (s.modGroup k f).gtime = s.gtime := rfl
@[simp] theorem modGroup_mem (s : State) (k : Nat) (f : Group → Group) : (s.modGroup k f).mem = s.mem := rfl
@[simp] theorem modGroup_poison (s : State) (k : Nat) (f : Group → Group) : (s.modGroup k f).poison = s.poison := rfl
@[simp] theorem modGroup_owned (s : State) (k : Nat) (f : Group → Group) : (s.modGroup k f).owned = s.owned := rfl
@[simp] theorem modGroup_sharers (s : State) (k : Nat) (f : Group → Group) : (s.modGroup k f).sharers = s.sharers := rfl
@[simp] theorem modGroup_grants (s : State) (k : Nat) (f : Group → Group) : (s.modGroup k f).grants = s.grants := rfl
@[simp] theorem modGroup_tlb (s : State) (k : Nat) (f : Group → Group) : (s.modGroup k f).tlb = s.tlb := rfl
@[simp] theorem modGroup_drills (s : State) (k : Nat) (f : Group → Group) : (s.modGroup k f).drills = s.drills := rfl
@[simp] theorem modGroup_cores (s : State) (k : Nat) (f : Group → Group) : (s.modGroup k f).cores = s.cores := rfl
@[simp] theorem modGroup_crofts (s : State) (k : Nat) (f : Group → Group) : (s.modGroup k f).crofts = s.crofts := rfl
@[simp] theorem modGroup_launches (s : State) (k : Nat) (f : Group → Group) : (s.modGroup k f).launches = s.launches := rfl
@[simp] theorem modGroup_queues (s : State) (k : Nat) (f : Group → Group) : (s.modGroup k f).queues = s.queues := rfl
@[simp] theorem modGroup_lastChosen (s : State) (k : Nat) (f : Group → Group) : (s.modGroup k f).lastChosen = s.lastChosen := rfl
@[simp] theorem modGroup_ctxs (s : State) (k : Nat) (f : Group → Group) : (s.modGroup k f).ctxs = s.ctxs := rfl
@[simp] theorem modGroup_plots (s : State) (k : Nat) (f : Group → Group) : (s.modGroup k f).plots = s.plots := rfl
@[simp] theorem modGroup_oldPlots (s : State) (k : Nat) (f : Group → Group) : (s.modGroup k f).oldPlots = s.oldPlots := rfl
@[simp] theorem modGroup_stackTbl (s : State) (k : Nat) (f : Group → Group) : (s.modGroup k f).stackTbl = s.stackTbl := rfl
@[simp] theorem modGroup_links (s : State) (k : Nat) (f : Group → Group) : (s.modGroup k f).links = s.links := rfl
@[simp] theorem modGroup_tables (s : State) (k : Nat) (f : Group → Group) : (s.modGroup k f).tables = s.tables := rfl
@[simp] theorem modGroup_faultRecs (s : State) (k : Nat) (f : Group → Group) : (s.modGroup k f).faultRecs = s.faultRecs := rfl
@[simp] theorem modGroup_sysEntries (s : State) (k : Nat) (f : Group → Group) : (s.modGroup k f).sysEntries = s.sysEntries := rfl
@[simp] theorem modGroup_harts (s : State) (k : Nat) (f : Group → Group) : (s.modGroup k f).harts = s.harts := rfl
@[simp] theorem modGroup_imsics (s : State) (k : Nat) (f : Group → Group) : (s.modGroup k f).imsics = s.imsics := rfl
@[simp] theorem modGroup_regs (s : State) (k : Nat) (f : Group → Group) : (s.modGroup k f).regs = s.regs := rfl
@[simp] theorem modGroup_icflush (s : State) (k : Nat) (f : Group → Group) : (s.modGroup k f).icflush = s.icflush := rfl
@[simp] theorem modGroup_railBusy (s : State) (k : Nat) (f : Group → Group) : (s.modGroup k f).railBusy = s.railBusy := rfl
@[simp] theorem modGroup_image (s : State) (k : Nat) (f : Group → Group) : (s.modGroup k f).image = s.image := rfl
@[simp] theorem modGroup_imageVersion (s : State) (k : Nat) (f : Group → Group) : (s.modGroup k f).imageVersion = s.imageVersion := rfl
@[simp] theorem modGroup_imageEntry (s : State) (k : Nat) (f : Group → Group) : (s.modGroup k f).imageEntry = s.imageEntry := rfl
@[simp] theorem modGroup_report (s : State) (k : Nat) (f : Group → Group) : (s.modGroup k f).report = s.report := rfl
@[simp] theorem modGroup_inbound (s : State) (k : Nat) (f : Group → Group) : (s.modGroup k f).inbound = s.inbound := rfl
@[simp] theorem modGroup_walks (s : State) (k : Nat) (f : Group → Group) : (s.modGroup k f).walks = s.walks := rfl
@[simp] theorem modGroup_clkIdle (s : State) (k : Nat) (f : Group → Group) : (s.modGroup k f).clkIdle = s.clkIdle := rfl
@[simp] theorem modGroup_clkOff (s : State) (k : Nat) (f : Group → Group) : (s.modGroup k f).clkOff = s.clkOff := rfl
@[simp] theorem modGroup_nowAlarms (s : State) (k : Nat) (f : Group → Group) : (s.modGroup k f).nowAlarms = s.nowAlarms := rfl
@[simp] theorem modGroup_nowBoost (s : State) (k : Nat) (f : Group → Group) : (s.modGroup k f).nowBoost = s.nowBoost := rfl
@[simp] theorem modGroup_tripSince (s : State) (k : Nat) (f : Group → Group) : (s.modGroup k f).tripSince = s.tripSince := rfl
@[simp] theorem modGroup_uvRec (s : State) (k : Nat) (f : Group → Group) : (s.modGroup k f).uvRec = s.uvRec := rfl
@[simp] theorem modGroup_keyHash (s : State) (k : Nat) (f : Group → Group) : (s.modGroup k f).keyHash = s.keyHash := rfl
@[simp] theorem modGroup_strays (s : State) (k : Nat) (f : Group → Group) : (s.modGroup k f).strays = s.strays := rfl
@[simp] theorem modGroup_iommu (s : State) (k : Nat) (f : Group → Group) : (s.modGroup k f).iommu = s.iommu := rfl
@[simp] theorem modGroup_iommuInvals (s : State) (k : Nat) (f : Group → Group) : (s.modGroup k f).iommuInvals = s.iommuInvals := rfl
@[simp] theorem modGroup_ioEntries (s : State) (k : Nat) (f : Group → Group) : (s.modGroup k f).ioEntries = s.ioEntries := rfl
@[simp] theorem modGroup_devAnswer (s : State) (k : Nat) (f : Group → Group) : (s.modGroup k f).devAnswer = s.devAnswer := rfl

/-! `State.modCtx` changes `ctxs` only. -/
@[simp] theorem modCtx_agenda (s : State) (k : Nat) (f : Context → Context) : (s.modCtx k f).agenda = s.agenda := rfl
@[simp] theorem modCtx_cur (s : State) (k : Nat) (f : Context → Context) : (s.modCtx k f).cur = s.cur := rfl
@[simp] theorem modCtx_tick (s : State) (k : Nat) (f : Context → Context) : (s.modCtx k f).tick = s.tick := rfl
@[simp] theorem modCtx_seq (s : State) (k : Nat) (f : Context → Context) : (s.modCtx k f).seq = s.seq := rfl
@[simp] theorem modCtx_gtime (s : State) (k : Nat) (f : Context → Context) : (s.modCtx k f).gtime = s.gtime := rfl
@[simp] theorem modCtx_mem (s : State) (k : Nat) (f : Context → Context) : (s.modCtx k f).mem = s.mem := rfl
@[simp] theorem modCtx_poison (s : State) (k : Nat) (f : Context → Context) : (s.modCtx k f).poison = s.poison := rfl
@[simp] theorem modCtx_owned (s : State) (k : Nat) (f : Context → Context) : (s.modCtx k f).owned = s.owned := rfl
@[simp] theorem modCtx_sharers (s : State) (k : Nat) (f : Context → Context) : (s.modCtx k f).sharers = s.sharers := rfl
@[simp] theorem modCtx_grants (s : State) (k : Nat) (f : Context → Context) : (s.modCtx k f).grants = s.grants := rfl
@[simp] theorem modCtx_tlb (s : State) (k : Nat) (f : Context → Context) : (s.modCtx k f).tlb = s.tlb := rfl
@[simp] theorem modCtx_drills (s : State) (k : Nat) (f : Context → Context) : (s.modCtx k f).drills = s.drills := rfl
@[simp] theorem modCtx_cores (s : State) (k : Nat) (f : Context → Context) : (s.modCtx k f).cores = s.cores := rfl
@[simp] theorem modCtx_groups (s : State) (k : Nat) (f : Context → Context) : (s.modCtx k f).groups = s.groups := rfl
@[simp] theorem modCtx_crofts (s : State) (k : Nat) (f : Context → Context) : (s.modCtx k f).crofts = s.crofts := rfl
@[simp] theorem modCtx_launches (s : State) (k : Nat) (f : Context → Context) : (s.modCtx k f).launches = s.launches := rfl
@[simp] theorem modCtx_queues (s : State) (k : Nat) (f : Context → Context) : (s.modCtx k f).queues = s.queues := rfl
@[simp] theorem modCtx_lastChosen (s : State) (k : Nat) (f : Context → Context) : (s.modCtx k f).lastChosen = s.lastChosen := rfl
@[simp] theorem modCtx_plots (s : State) (k : Nat) (f : Context → Context) : (s.modCtx k f).plots = s.plots := rfl
@[simp] theorem modCtx_oldPlots (s : State) (k : Nat) (f : Context → Context) : (s.modCtx k f).oldPlots = s.oldPlots := rfl
@[simp] theorem modCtx_stackTbl (s : State) (k : Nat) (f : Context → Context) : (s.modCtx k f).stackTbl = s.stackTbl := rfl
@[simp] theorem modCtx_links (s : State) (k : Nat) (f : Context → Context) : (s.modCtx k f).links = s.links := rfl
@[simp] theorem modCtx_tables (s : State) (k : Nat) (f : Context → Context) : (s.modCtx k f).tables = s.tables := rfl
@[simp] theorem modCtx_faultRecs (s : State) (k : Nat) (f : Context → Context) : (s.modCtx k f).faultRecs = s.faultRecs := rfl
@[simp] theorem modCtx_sysEntries (s : State) (k : Nat) (f : Context → Context) : (s.modCtx k f).sysEntries = s.sysEntries := rfl
@[simp] theorem modCtx_harts (s : State) (k : Nat) (f : Context → Context) : (s.modCtx k f).harts = s.harts := rfl
@[simp] theorem modCtx_imsics (s : State) (k : Nat) (f : Context → Context) : (s.modCtx k f).imsics = s.imsics := rfl
@[simp] theorem modCtx_regs (s : State) (k : Nat) (f : Context → Context) : (s.modCtx k f).regs = s.regs := rfl
@[simp] theorem modCtx_icflush (s : State) (k : Nat) (f : Context → Context) : (s.modCtx k f).icflush = s.icflush := rfl
@[simp] theorem modCtx_railBusy (s : State) (k : Nat) (f : Context → Context) : (s.modCtx k f).railBusy = s.railBusy := rfl
@[simp] theorem modCtx_image (s : State) (k : Nat) (f : Context → Context) : (s.modCtx k f).image = s.image := rfl
@[simp] theorem modCtx_imageVersion (s : State) (k : Nat) (f : Context → Context) : (s.modCtx k f).imageVersion = s.imageVersion := rfl
@[simp] theorem modCtx_imageEntry (s : State) (k : Nat) (f : Context → Context) : (s.modCtx k f).imageEntry = s.imageEntry := rfl
@[simp] theorem modCtx_report (s : State) (k : Nat) (f : Context → Context) : (s.modCtx k f).report = s.report := rfl
@[simp] theorem modCtx_inbound (s : State) (k : Nat) (f : Context → Context) : (s.modCtx k f).inbound = s.inbound := rfl
@[simp] theorem modCtx_walks (s : State) (k : Nat) (f : Context → Context) : (s.modCtx k f).walks = s.walks := rfl
@[simp] theorem modCtx_clkIdle (s : State) (k : Nat) (f : Context → Context) : (s.modCtx k f).clkIdle = s.clkIdle := rfl
@[simp] theorem modCtx_clkOff (s : State) (k : Nat) (f : Context → Context) : (s.modCtx k f).clkOff = s.clkOff := rfl
@[simp] theorem modCtx_nowAlarms (s : State) (k : Nat) (f : Context → Context) : (s.modCtx k f).nowAlarms = s.nowAlarms := rfl
@[simp] theorem modCtx_nowBoost (s : State) (k : Nat) (f : Context → Context) : (s.modCtx k f).nowBoost = s.nowBoost := rfl
@[simp] theorem modCtx_tripSince (s : State) (k : Nat) (f : Context → Context) : (s.modCtx k f).tripSince = s.tripSince := rfl
@[simp] theorem modCtx_uvRec (s : State) (k : Nat) (f : Context → Context) : (s.modCtx k f).uvRec = s.uvRec := rfl
@[simp] theorem modCtx_keyHash (s : State) (k : Nat) (f : Context → Context) : (s.modCtx k f).keyHash = s.keyHash := rfl
@[simp] theorem modCtx_strays (s : State) (k : Nat) (f : Context → Context) : (s.modCtx k f).strays = s.strays := rfl
@[simp] theorem modCtx_iommu (s : State) (k : Nat) (f : Context → Context) : (s.modCtx k f).iommu = s.iommu := rfl
@[simp] theorem modCtx_iommuInvals (s : State) (k : Nat) (f : Context → Context) : (s.modCtx k f).iommuInvals = s.iommuInvals := rfl
@[simp] theorem modCtx_ioEntries (s : State) (k : Nat) (f : Context → Context) : (s.modCtx k f).ioEntries = s.ioEntries := rfl
@[simp] theorem modCtx_devAnswer (s : State) (k : Nat) (f : Context → Context) : (s.modCtx k f).devAnswer = s.devAnswer := rfl

/-! `State.setReg` changes `regs` only. -/
@[simp] theorem setReg_agenda (s : State) (k : Nat) (v : DWord) : (s.setReg k v).agenda = s.agenda := rfl
@[simp] theorem setReg_cur (s : State) (k : Nat) (v : DWord) : (s.setReg k v).cur = s.cur := rfl
@[simp] theorem setReg_tick (s : State) (k : Nat) (v : DWord) : (s.setReg k v).tick = s.tick := rfl
@[simp] theorem setReg_seq (s : State) (k : Nat) (v : DWord) : (s.setReg k v).seq = s.seq := rfl
@[simp] theorem setReg_gtime (s : State) (k : Nat) (v : DWord) : (s.setReg k v).gtime = s.gtime := rfl
@[simp] theorem setReg_mem (s : State) (k : Nat) (v : DWord) : (s.setReg k v).mem = s.mem := rfl
@[simp] theorem setReg_poison (s : State) (k : Nat) (v : DWord) : (s.setReg k v).poison = s.poison := rfl
@[simp] theorem setReg_owned (s : State) (k : Nat) (v : DWord) : (s.setReg k v).owned = s.owned := rfl
@[simp] theorem setReg_sharers (s : State) (k : Nat) (v : DWord) : (s.setReg k v).sharers = s.sharers := rfl
@[simp] theorem setReg_grants (s : State) (k : Nat) (v : DWord) : (s.setReg k v).grants = s.grants := rfl
@[simp] theorem setReg_tlb (s : State) (k : Nat) (v : DWord) : (s.setReg k v).tlb = s.tlb := rfl
@[simp] theorem setReg_drills (s : State) (k : Nat) (v : DWord) : (s.setReg k v).drills = s.drills := rfl
@[simp] theorem setReg_cores (s : State) (k : Nat) (v : DWord) : (s.setReg k v).cores = s.cores := rfl
@[simp] theorem setReg_groups (s : State) (k : Nat) (v : DWord) : (s.setReg k v).groups = s.groups := rfl
@[simp] theorem setReg_crofts (s : State) (k : Nat) (v : DWord) : (s.setReg k v).crofts = s.crofts := rfl
@[simp] theorem setReg_launches (s : State) (k : Nat) (v : DWord) : (s.setReg k v).launches = s.launches := rfl
@[simp] theorem setReg_queues (s : State) (k : Nat) (v : DWord) : (s.setReg k v).queues = s.queues := rfl
@[simp] theorem setReg_lastChosen (s : State) (k : Nat) (v : DWord) : (s.setReg k v).lastChosen = s.lastChosen := rfl
@[simp] theorem setReg_ctxs (s : State) (k : Nat) (v : DWord) : (s.setReg k v).ctxs = s.ctxs := rfl
@[simp] theorem setReg_plots (s : State) (k : Nat) (v : DWord) : (s.setReg k v).plots = s.plots := rfl
@[simp] theorem setReg_oldPlots (s : State) (k : Nat) (v : DWord) : (s.setReg k v).oldPlots = s.oldPlots := rfl
@[simp] theorem setReg_stackTbl (s : State) (k : Nat) (v : DWord) : (s.setReg k v).stackTbl = s.stackTbl := rfl
@[simp] theorem setReg_links (s : State) (k : Nat) (v : DWord) : (s.setReg k v).links = s.links := rfl
@[simp] theorem setReg_tables (s : State) (k : Nat) (v : DWord) : (s.setReg k v).tables = s.tables := rfl
@[simp] theorem setReg_faultRecs (s : State) (k : Nat) (v : DWord) : (s.setReg k v).faultRecs = s.faultRecs := rfl
@[simp] theorem setReg_sysEntries (s : State) (k : Nat) (v : DWord) : (s.setReg k v).sysEntries = s.sysEntries := rfl
@[simp] theorem setReg_harts (s : State) (k : Nat) (v : DWord) : (s.setReg k v).harts = s.harts := rfl
@[simp] theorem setReg_imsics (s : State) (k : Nat) (v : DWord) : (s.setReg k v).imsics = s.imsics := rfl
@[simp] theorem setReg_icflush (s : State) (k : Nat) (v : DWord) : (s.setReg k v).icflush = s.icflush := rfl
@[simp] theorem setReg_railBusy (s : State) (k : Nat) (v : DWord) : (s.setReg k v).railBusy = s.railBusy := rfl
@[simp] theorem setReg_image (s : State) (k : Nat) (v : DWord) : (s.setReg k v).image = s.image := rfl
@[simp] theorem setReg_imageVersion (s : State) (k : Nat) (v : DWord) : (s.setReg k v).imageVersion = s.imageVersion := rfl
@[simp] theorem setReg_imageEntry (s : State) (k : Nat) (v : DWord) : (s.setReg k v).imageEntry = s.imageEntry := rfl
@[simp] theorem setReg_report (s : State) (k : Nat) (v : DWord) : (s.setReg k v).report = s.report := rfl
@[simp] theorem setReg_inbound (s : State) (k : Nat) (v : DWord) : (s.setReg k v).inbound = s.inbound := rfl
@[simp] theorem setReg_walks (s : State) (k : Nat) (v : DWord) : (s.setReg k v).walks = s.walks := rfl
@[simp] theorem setReg_clkIdle (s : State) (k : Nat) (v : DWord) : (s.setReg k v).clkIdle = s.clkIdle := rfl
@[simp] theorem setReg_clkOff (s : State) (k : Nat) (v : DWord) : (s.setReg k v).clkOff = s.clkOff := rfl
@[simp] theorem setReg_nowAlarms (s : State) (k : Nat) (v : DWord) : (s.setReg k v).nowAlarms = s.nowAlarms := rfl
@[simp] theorem setReg_nowBoost (s : State) (k : Nat) (v : DWord) : (s.setReg k v).nowBoost = s.nowBoost := rfl
@[simp] theorem setReg_tripSince (s : State) (k : Nat) (v : DWord) : (s.setReg k v).tripSince = s.tripSince := rfl
@[simp] theorem setReg_uvRec (s : State) (k : Nat) (v : DWord) : (s.setReg k v).uvRec = s.uvRec := rfl
@[simp] theorem setReg_keyHash (s : State) (k : Nat) (v : DWord) : (s.setReg k v).keyHash = s.keyHash := rfl
@[simp] theorem setReg_strays (s : State) (k : Nat) (v : DWord) : (s.setReg k v).strays = s.strays := rfl
@[simp] theorem setReg_iommu (s : State) (k : Nat) (v : DWord) : (s.setReg k v).iommu = s.iommu := rfl
@[simp] theorem setReg_iommuInvals (s : State) (k : Nat) (v : DWord) : (s.setReg k v).iommuInvals = s.iommuInvals := rfl
@[simp] theorem setReg_ioEntries (s : State) (k : Nat) (v : DWord) : (s.setReg k v).ioEntries = s.ioEntries := rfl
@[simp] theorem setReg_devAnswer (s : State) (k : Nat) (v : DWord) : (s.setReg k v).devAnswer = s.devAnswer := rfl

/-! `State.setCore` changes `cores` only. -/
@[simp] theorem setCore_agenda (s : State) (k : Nat) (c : Core) : (s.setCore k c).agenda = s.agenda := rfl
@[simp] theorem setCore_cur (s : State) (k : Nat) (c : Core) : (s.setCore k c).cur = s.cur := rfl
@[simp] theorem setCore_tick (s : State) (k : Nat) (c : Core) : (s.setCore k c).tick = s.tick := rfl
@[simp] theorem setCore_seq (s : State) (k : Nat) (c : Core) : (s.setCore k c).seq = s.seq := rfl
@[simp] theorem setCore_gtime (s : State) (k : Nat) (c : Core) : (s.setCore k c).gtime = s.gtime := rfl
@[simp] theorem setCore_mem (s : State) (k : Nat) (c : Core) : (s.setCore k c).mem = s.mem := rfl
@[simp] theorem setCore_poison (s : State) (k : Nat) (c : Core) : (s.setCore k c).poison = s.poison := rfl
@[simp] theorem setCore_owned (s : State) (k : Nat) (c : Core) : (s.setCore k c).owned = s.owned := rfl
@[simp] theorem setCore_sharers (s : State) (k : Nat) (c : Core) : (s.setCore k c).sharers = s.sharers := rfl
@[simp] theorem setCore_grants (s : State) (k : Nat) (c : Core) : (s.setCore k c).grants = s.grants := rfl
@[simp] theorem setCore_tlb (s : State) (k : Nat) (c : Core) : (s.setCore k c).tlb = s.tlb := rfl
@[simp] theorem setCore_drills (s : State) (k : Nat) (c : Core) : (s.setCore k c).drills = s.drills := rfl
@[simp] theorem setCore_groups (s : State) (k : Nat) (c : Core) : (s.setCore k c).groups = s.groups := rfl
@[simp] theorem setCore_crofts (s : State) (k : Nat) (c : Core) : (s.setCore k c).crofts = s.crofts := rfl
@[simp] theorem setCore_launches (s : State) (k : Nat) (c : Core) : (s.setCore k c).launches = s.launches := rfl
@[simp] theorem setCore_queues (s : State) (k : Nat) (c : Core) : (s.setCore k c).queues = s.queues := rfl
@[simp] theorem setCore_lastChosen (s : State) (k : Nat) (c : Core) : (s.setCore k c).lastChosen = s.lastChosen := rfl
@[simp] theorem setCore_ctxs (s : State) (k : Nat) (c : Core) : (s.setCore k c).ctxs = s.ctxs := rfl
@[simp] theorem setCore_plots (s : State) (k : Nat) (c : Core) : (s.setCore k c).plots = s.plots := rfl
@[simp] theorem setCore_oldPlots (s : State) (k : Nat) (c : Core) : (s.setCore k c).oldPlots = s.oldPlots := rfl
@[simp] theorem setCore_stackTbl (s : State) (k : Nat) (c : Core) : (s.setCore k c).stackTbl = s.stackTbl := rfl
@[simp] theorem setCore_links (s : State) (k : Nat) (c : Core) : (s.setCore k c).links = s.links := rfl
@[simp] theorem setCore_tables (s : State) (k : Nat) (c : Core) : (s.setCore k c).tables = s.tables := rfl
@[simp] theorem setCore_faultRecs (s : State) (k : Nat) (c : Core) : (s.setCore k c).faultRecs = s.faultRecs := rfl
@[simp] theorem setCore_sysEntries (s : State) (k : Nat) (c : Core) : (s.setCore k c).sysEntries = s.sysEntries := rfl
@[simp] theorem setCore_harts (s : State) (k : Nat) (c : Core) : (s.setCore k c).harts = s.harts := rfl
@[simp] theorem setCore_imsics (s : State) (k : Nat) (c : Core) : (s.setCore k c).imsics = s.imsics := rfl
@[simp] theorem setCore_regs (s : State) (k : Nat) (c : Core) : (s.setCore k c).regs = s.regs := rfl
@[simp] theorem setCore_icflush (s : State) (k : Nat) (c : Core) : (s.setCore k c).icflush = s.icflush := rfl
@[simp] theorem setCore_railBusy (s : State) (k : Nat) (c : Core) : (s.setCore k c).railBusy = s.railBusy := rfl
@[simp] theorem setCore_image (s : State) (k : Nat) (c : Core) : (s.setCore k c).image = s.image := rfl
@[simp] theorem setCore_imageVersion (s : State) (k : Nat) (c : Core) : (s.setCore k c).imageVersion = s.imageVersion := rfl
@[simp] theorem setCore_imageEntry (s : State) (k : Nat) (c : Core) : (s.setCore k c).imageEntry = s.imageEntry := rfl
@[simp] theorem setCore_report (s : State) (k : Nat) (c : Core) : (s.setCore k c).report = s.report := rfl
@[simp] theorem setCore_inbound (s : State) (k : Nat) (c : Core) : (s.setCore k c).inbound = s.inbound := rfl
@[simp] theorem setCore_walks (s : State) (k : Nat) (c : Core) : (s.setCore k c).walks = s.walks := rfl
@[simp] theorem setCore_clkIdle (s : State) (k : Nat) (c : Core) : (s.setCore k c).clkIdle = s.clkIdle := rfl
@[simp] theorem setCore_clkOff (s : State) (k : Nat) (c : Core) : (s.setCore k c).clkOff = s.clkOff := rfl
@[simp] theorem setCore_nowAlarms (s : State) (k : Nat) (c : Core) : (s.setCore k c).nowAlarms = s.nowAlarms := rfl
@[simp] theorem setCore_nowBoost (s : State) (k : Nat) (c : Core) : (s.setCore k c).nowBoost = s.nowBoost := rfl
@[simp] theorem setCore_tripSince (s : State) (k : Nat) (c : Core) : (s.setCore k c).tripSince = s.tripSince := rfl
@[simp] theorem setCore_uvRec (s : State) (k : Nat) (c : Core) : (s.setCore k c).uvRec = s.uvRec := rfl
@[simp] theorem setCore_keyHash (s : State) (k : Nat) (c : Core) : (s.setCore k c).keyHash = s.keyHash := rfl
@[simp] theorem setCore_strays (s : State) (k : Nat) (c : Core) : (s.setCore k c).strays = s.strays := rfl
@[simp] theorem setCore_iommu (s : State) (k : Nat) (c : Core) : (s.setCore k c).iommu = s.iommu := rfl
@[simp] theorem setCore_iommuInvals (s : State) (k : Nat) (c : Core) : (s.setCore k c).iommuInvals = s.iommuInvals := rfl
@[simp] theorem setCore_ioEntries (s : State) (k : Nat) (c : Core) : (s.setCore k c).ioEntries = s.ioEntries := rfl
@[simp] theorem setCore_devAnswer (s : State) (k : Nat) (c : Core) : (s.setCore k c).devAnswer = s.devAnswer := rfl

/-! `State.invalL1` changes `cores` only. -/
@[simp] theorem invalL1_agenda (s : State) (k : Nat) : (s.invalL1 k).agenda = s.agenda := rfl
@[simp] theorem invalL1_cur (s : State) (k : Nat) : (s.invalL1 k).cur = s.cur := rfl
@[simp] theorem invalL1_tick (s : State) (k : Nat) : (s.invalL1 k).tick = s.tick := rfl
@[simp] theorem invalL1_seq (s : State) (k : Nat) : (s.invalL1 k).seq = s.seq := rfl
@[simp] theorem invalL1_gtime (s : State) (k : Nat) : (s.invalL1 k).gtime = s.gtime := rfl
@[simp] theorem invalL1_mem (s : State) (k : Nat) : (s.invalL1 k).mem = s.mem := rfl
@[simp] theorem invalL1_poison (s : State) (k : Nat) : (s.invalL1 k).poison = s.poison := rfl
@[simp] theorem invalL1_owned (s : State) (k : Nat) : (s.invalL1 k).owned = s.owned := rfl
@[simp] theorem invalL1_sharers (s : State) (k : Nat) : (s.invalL1 k).sharers = s.sharers := rfl
@[simp] theorem invalL1_grants (s : State) (k : Nat) : (s.invalL1 k).grants = s.grants := rfl
@[simp] theorem invalL1_tlb (s : State) (k : Nat) : (s.invalL1 k).tlb = s.tlb := rfl
@[simp] theorem invalL1_drills (s : State) (k : Nat) : (s.invalL1 k).drills = s.drills := rfl
@[simp] theorem invalL1_groups (s : State) (k : Nat) : (s.invalL1 k).groups = s.groups := rfl
@[simp] theorem invalL1_crofts (s : State) (k : Nat) : (s.invalL1 k).crofts = s.crofts := rfl
@[simp] theorem invalL1_launches (s : State) (k : Nat) : (s.invalL1 k).launches = s.launches := rfl
@[simp] theorem invalL1_queues (s : State) (k : Nat) : (s.invalL1 k).queues = s.queues := rfl
@[simp] theorem invalL1_lastChosen (s : State) (k : Nat) : (s.invalL1 k).lastChosen = s.lastChosen := rfl
@[simp] theorem invalL1_ctxs (s : State) (k : Nat) : (s.invalL1 k).ctxs = s.ctxs := rfl
@[simp] theorem invalL1_plots (s : State) (k : Nat) : (s.invalL1 k).plots = s.plots := rfl
@[simp] theorem invalL1_oldPlots (s : State) (k : Nat) : (s.invalL1 k).oldPlots = s.oldPlots := rfl
@[simp] theorem invalL1_stackTbl (s : State) (k : Nat) : (s.invalL1 k).stackTbl = s.stackTbl := rfl
@[simp] theorem invalL1_links (s : State) (k : Nat) : (s.invalL1 k).links = s.links := rfl
@[simp] theorem invalL1_tables (s : State) (k : Nat) : (s.invalL1 k).tables = s.tables := rfl
@[simp] theorem invalL1_faultRecs (s : State) (k : Nat) : (s.invalL1 k).faultRecs = s.faultRecs := rfl
@[simp] theorem invalL1_sysEntries (s : State) (k : Nat) : (s.invalL1 k).sysEntries = s.sysEntries := rfl
@[simp] theorem invalL1_harts (s : State) (k : Nat) : (s.invalL1 k).harts = s.harts := rfl
@[simp] theorem invalL1_imsics (s : State) (k : Nat) : (s.invalL1 k).imsics = s.imsics := rfl
@[simp] theorem invalL1_regs (s : State) (k : Nat) : (s.invalL1 k).regs = s.regs := rfl
@[simp] theorem invalL1_icflush (s : State) (k : Nat) : (s.invalL1 k).icflush = s.icflush := rfl
@[simp] theorem invalL1_railBusy (s : State) (k : Nat) : (s.invalL1 k).railBusy = s.railBusy := rfl
@[simp] theorem invalL1_image (s : State) (k : Nat) : (s.invalL1 k).image = s.image := rfl
@[simp] theorem invalL1_imageVersion (s : State) (k : Nat) : (s.invalL1 k).imageVersion = s.imageVersion := rfl
@[simp] theorem invalL1_imageEntry (s : State) (k : Nat) : (s.invalL1 k).imageEntry = s.imageEntry := rfl
@[simp] theorem invalL1_report (s : State) (k : Nat) : (s.invalL1 k).report = s.report := rfl
@[simp] theorem invalL1_inbound (s : State) (k : Nat) : (s.invalL1 k).inbound = s.inbound := rfl
@[simp] theorem invalL1_walks (s : State) (k : Nat) : (s.invalL1 k).walks = s.walks := rfl
@[simp] theorem invalL1_clkIdle (s : State) (k : Nat) : (s.invalL1 k).clkIdle = s.clkIdle := rfl
@[simp] theorem invalL1_clkOff (s : State) (k : Nat) : (s.invalL1 k).clkOff = s.clkOff := rfl
@[simp] theorem invalL1_nowAlarms (s : State) (k : Nat) : (s.invalL1 k).nowAlarms = s.nowAlarms := rfl
@[simp] theorem invalL1_nowBoost (s : State) (k : Nat) : (s.invalL1 k).nowBoost = s.nowBoost := rfl
@[simp] theorem invalL1_tripSince (s : State) (k : Nat) : (s.invalL1 k).tripSince = s.tripSince := rfl
@[simp] theorem invalL1_uvRec (s : State) (k : Nat) : (s.invalL1 k).uvRec = s.uvRec := rfl
@[simp] theorem invalL1_keyHash (s : State) (k : Nat) : (s.invalL1 k).keyHash = s.keyHash := rfl
@[simp] theorem invalL1_strays (s : State) (k : Nat) : (s.invalL1 k).strays = s.strays := rfl
@[simp] theorem invalL1_iommu (s : State) (k : Nat) : (s.invalL1 k).iommu = s.iommu := rfl
@[simp] theorem invalL1_iommuInvals (s : State) (k : Nat) : (s.invalL1 k).iommuInvals = s.iommuInvals := rfl
@[simp] theorem invalL1_ioEntries (s : State) (k : Nat) : (s.invalL1 k).ioEntries = s.ioEntries := rfl
@[simp] theorem invalL1_devAnswer (s : State) (k : Nat) : (s.invalL1 k).devAnswer = s.devAnswer := rfl

/-! `State.setHart` changes `harts` only. -/
@[simp] theorem setHart_agenda (s : State) (k : Nat) (h : Hart) : (s.setHart k h).agenda = s.agenda := rfl
@[simp] theorem setHart_cur (s : State) (k : Nat) (h : Hart) : (s.setHart k h).cur = s.cur := rfl
@[simp] theorem setHart_tick (s : State) (k : Nat) (h : Hart) : (s.setHart k h).tick = s.tick := rfl
@[simp] theorem setHart_seq (s : State) (k : Nat) (h : Hart) : (s.setHart k h).seq = s.seq := rfl
@[simp] theorem setHart_gtime (s : State) (k : Nat) (h : Hart) : (s.setHart k h).gtime = s.gtime := rfl
@[simp] theorem setHart_mem (s : State) (k : Nat) (h : Hart) : (s.setHart k h).mem = s.mem := rfl
@[simp] theorem setHart_poison (s : State) (k : Nat) (h : Hart) : (s.setHart k h).poison = s.poison := rfl
@[simp] theorem setHart_owned (s : State) (k : Nat) (h : Hart) : (s.setHart k h).owned = s.owned := rfl
@[simp] theorem setHart_sharers (s : State) (k : Nat) (h : Hart) : (s.setHart k h).sharers = s.sharers := rfl
@[simp] theorem setHart_grants (s : State) (k : Nat) (h : Hart) : (s.setHart k h).grants = s.grants := rfl
@[simp] theorem setHart_tlb (s : State) (k : Nat) (h : Hart) : (s.setHart k h).tlb = s.tlb := rfl
@[simp] theorem setHart_drills (s : State) (k : Nat) (h : Hart) : (s.setHart k h).drills = s.drills := rfl
@[simp] theorem setHart_cores (s : State) (k : Nat) (h : Hart) : (s.setHart k h).cores = s.cores := rfl
@[simp] theorem setHart_groups (s : State) (k : Nat) (h : Hart) : (s.setHart k h).groups = s.groups := rfl
@[simp] theorem setHart_crofts (s : State) (k : Nat) (h : Hart) : (s.setHart k h).crofts = s.crofts := rfl
@[simp] theorem setHart_launches (s : State) (k : Nat) (h : Hart) : (s.setHart k h).launches = s.launches := rfl
@[simp] theorem setHart_queues (s : State) (k : Nat) (h : Hart) : (s.setHart k h).queues = s.queues := rfl
@[simp] theorem setHart_lastChosen (s : State) (k : Nat) (h : Hart) : (s.setHart k h).lastChosen = s.lastChosen := rfl
@[simp] theorem setHart_ctxs (s : State) (k : Nat) (h : Hart) : (s.setHart k h).ctxs = s.ctxs := rfl
@[simp] theorem setHart_plots (s : State) (k : Nat) (h : Hart) : (s.setHart k h).plots = s.plots := rfl
@[simp] theorem setHart_oldPlots (s : State) (k : Nat) (h : Hart) : (s.setHart k h).oldPlots = s.oldPlots := rfl
@[simp] theorem setHart_stackTbl (s : State) (k : Nat) (h : Hart) : (s.setHart k h).stackTbl = s.stackTbl := rfl
@[simp] theorem setHart_links (s : State) (k : Nat) (h : Hart) : (s.setHart k h).links = s.links := rfl
@[simp] theorem setHart_tables (s : State) (k : Nat) (h : Hart) : (s.setHart k h).tables = s.tables := rfl
@[simp] theorem setHart_faultRecs (s : State) (k : Nat) (h : Hart) : (s.setHart k h).faultRecs = s.faultRecs := rfl
@[simp] theorem setHart_sysEntries (s : State) (k : Nat) (h : Hart) : (s.setHart k h).sysEntries = s.sysEntries := rfl
@[simp] theorem setHart_imsics (s : State) (k : Nat) (h : Hart) : (s.setHart k h).imsics = s.imsics := rfl
@[simp] theorem setHart_regs (s : State) (k : Nat) (h : Hart) : (s.setHart k h).regs = s.regs := rfl
@[simp] theorem setHart_icflush (s : State) (k : Nat) (h : Hart) : (s.setHart k h).icflush = s.icflush := rfl
@[simp] theorem setHart_railBusy (s : State) (k : Nat) (h : Hart) : (s.setHart k h).railBusy = s.railBusy := rfl
@[simp] theorem setHart_image (s : State) (k : Nat) (h : Hart) : (s.setHart k h).image = s.image := rfl
@[simp] theorem setHart_imageVersion (s : State) (k : Nat) (h : Hart) : (s.setHart k h).imageVersion = s.imageVersion := rfl
@[simp] theorem setHart_imageEntry (s : State) (k : Nat) (h : Hart) : (s.setHart k h).imageEntry = s.imageEntry := rfl
@[simp] theorem setHart_report (s : State) (k : Nat) (h : Hart) : (s.setHart k h).report = s.report := rfl
@[simp] theorem setHart_inbound (s : State) (k : Nat) (h : Hart) : (s.setHart k h).inbound = s.inbound := rfl
@[simp] theorem setHart_walks (s : State) (k : Nat) (h : Hart) : (s.setHart k h).walks = s.walks := rfl
@[simp] theorem setHart_clkIdle (s : State) (k : Nat) (h : Hart) : (s.setHart k h).clkIdle = s.clkIdle := rfl
@[simp] theorem setHart_clkOff (s : State) (k : Nat) (h : Hart) : (s.setHart k h).clkOff = s.clkOff := rfl
@[simp] theorem setHart_nowAlarms (s : State) (k : Nat) (h : Hart) : (s.setHart k h).nowAlarms = s.nowAlarms := rfl
@[simp] theorem setHart_nowBoost (s : State) (k : Nat) (h : Hart) : (s.setHart k h).nowBoost = s.nowBoost := rfl
@[simp] theorem setHart_tripSince (s : State) (k : Nat) (h : Hart) : (s.setHart k h).tripSince = s.tripSince := rfl
@[simp] theorem setHart_uvRec (s : State) (k : Nat) (h : Hart) : (s.setHart k h).uvRec = s.uvRec := rfl
@[simp] theorem setHart_keyHash (s : State) (k : Nat) (h : Hart) : (s.setHart k h).keyHash = s.keyHash := rfl
@[simp] theorem setHart_strays (s : State) (k : Nat) (h : Hart) : (s.setHart k h).strays = s.strays := rfl
@[simp] theorem setHart_iommu (s : State) (k : Nat) (h : Hart) : (s.setHart k h).iommu = s.iommu := rfl
@[simp] theorem setHart_iommuInvals (s : State) (k : Nat) (h : Hart) : (s.setHart k h).iommuInvals = s.iommuInvals := rfl
@[simp] theorem setHart_ioEntries (s : State) (k : Nat) (h : Hart) : (s.setHart k h).ioEntries = s.ioEntries := rfl
@[simp] theorem setHart_devAnswer (s : State) (k : Nat) (h : Hart) : (s.setHart k h).devAnswer = s.devAnswer := rfl

/-! `State.setQueue` changes `queues` only. -/
@[simp] theorem setQueue_agenda (s : State) (k : Nat) (q : Queue) : (s.setQueue k q).agenda = s.agenda := rfl
@[simp] theorem setQueue_cur (s : State) (k : Nat) (q : Queue) : (s.setQueue k q).cur = s.cur := rfl
@[simp] theorem setQueue_tick (s : State) (k : Nat) (q : Queue) : (s.setQueue k q).tick = s.tick := rfl
@[simp] theorem setQueue_seq (s : State) (k : Nat) (q : Queue) : (s.setQueue k q).seq = s.seq := rfl
@[simp] theorem setQueue_gtime (s : State) (k : Nat) (q : Queue) : (s.setQueue k q).gtime = s.gtime := rfl
@[simp] theorem setQueue_mem (s : State) (k : Nat) (q : Queue) : (s.setQueue k q).mem = s.mem := rfl
@[simp] theorem setQueue_poison (s : State) (k : Nat) (q : Queue) : (s.setQueue k q).poison = s.poison := rfl
@[simp] theorem setQueue_owned (s : State) (k : Nat) (q : Queue) : (s.setQueue k q).owned = s.owned := rfl
@[simp] theorem setQueue_sharers (s : State) (k : Nat) (q : Queue) : (s.setQueue k q).sharers = s.sharers := rfl
@[simp] theorem setQueue_grants (s : State) (k : Nat) (q : Queue) : (s.setQueue k q).grants = s.grants := rfl
@[simp] theorem setQueue_tlb (s : State) (k : Nat) (q : Queue) : (s.setQueue k q).tlb = s.tlb := rfl
@[simp] theorem setQueue_drills (s : State) (k : Nat) (q : Queue) : (s.setQueue k q).drills = s.drills := rfl
@[simp] theorem setQueue_cores (s : State) (k : Nat) (q : Queue) : (s.setQueue k q).cores = s.cores := rfl
@[simp] theorem setQueue_groups (s : State) (k : Nat) (q : Queue) : (s.setQueue k q).groups = s.groups := rfl
@[simp] theorem setQueue_crofts (s : State) (k : Nat) (q : Queue) : (s.setQueue k q).crofts = s.crofts := rfl
@[simp] theorem setQueue_launches (s : State) (k : Nat) (q : Queue) : (s.setQueue k q).launches = s.launches := rfl
@[simp] theorem setQueue_lastChosen (s : State) (k : Nat) (q : Queue) : (s.setQueue k q).lastChosen = s.lastChosen := rfl
@[simp] theorem setQueue_ctxs (s : State) (k : Nat) (q : Queue) : (s.setQueue k q).ctxs = s.ctxs := rfl
@[simp] theorem setQueue_plots (s : State) (k : Nat) (q : Queue) : (s.setQueue k q).plots = s.plots := rfl
@[simp] theorem setQueue_oldPlots (s : State) (k : Nat) (q : Queue) : (s.setQueue k q).oldPlots = s.oldPlots := rfl
@[simp] theorem setQueue_stackTbl (s : State) (k : Nat) (q : Queue) : (s.setQueue k q).stackTbl = s.stackTbl := rfl
@[simp] theorem setQueue_links (s : State) (k : Nat) (q : Queue) : (s.setQueue k q).links = s.links := rfl
@[simp] theorem setQueue_tables (s : State) (k : Nat) (q : Queue) : (s.setQueue k q).tables = s.tables := rfl
@[simp] theorem setQueue_faultRecs (s : State) (k : Nat) (q : Queue) : (s.setQueue k q).faultRecs = s.faultRecs := rfl
@[simp] theorem setQueue_sysEntries (s : State) (k : Nat) (q : Queue) : (s.setQueue k q).sysEntries = s.sysEntries := rfl
@[simp] theorem setQueue_harts (s : State) (k : Nat) (q : Queue) : (s.setQueue k q).harts = s.harts := rfl
@[simp] theorem setQueue_imsics (s : State) (k : Nat) (q : Queue) : (s.setQueue k q).imsics = s.imsics := rfl
@[simp] theorem setQueue_regs (s : State) (k : Nat) (q : Queue) : (s.setQueue k q).regs = s.regs := rfl
@[simp] theorem setQueue_icflush (s : State) (k : Nat) (q : Queue) : (s.setQueue k q).icflush = s.icflush := rfl
@[simp] theorem setQueue_railBusy (s : State) (k : Nat) (q : Queue) : (s.setQueue k q).railBusy = s.railBusy := rfl
@[simp] theorem setQueue_image (s : State) (k : Nat) (q : Queue) : (s.setQueue k q).image = s.image := rfl
@[simp] theorem setQueue_imageVersion (s : State) (k : Nat) (q : Queue) : (s.setQueue k q).imageVersion = s.imageVersion := rfl
@[simp] theorem setQueue_imageEntry (s : State) (k : Nat) (q : Queue) : (s.setQueue k q).imageEntry = s.imageEntry := rfl
@[simp] theorem setQueue_report (s : State) (k : Nat) (q : Queue) : (s.setQueue k q).report = s.report := rfl
@[simp] theorem setQueue_inbound (s : State) (k : Nat) (q : Queue) : (s.setQueue k q).inbound = s.inbound := rfl
@[simp] theorem setQueue_walks (s : State) (k : Nat) (q : Queue) : (s.setQueue k q).walks = s.walks := rfl
@[simp] theorem setQueue_clkIdle (s : State) (k : Nat) (q : Queue) : (s.setQueue k q).clkIdle = s.clkIdle := rfl
@[simp] theorem setQueue_clkOff (s : State) (k : Nat) (q : Queue) : (s.setQueue k q).clkOff = s.clkOff := rfl
@[simp] theorem setQueue_nowAlarms (s : State) (k : Nat) (q : Queue) : (s.setQueue k q).nowAlarms = s.nowAlarms := rfl
@[simp] theorem setQueue_nowBoost (s : State) (k : Nat) (q : Queue) : (s.setQueue k q).nowBoost = s.nowBoost := rfl
@[simp] theorem setQueue_tripSince (s : State) (k : Nat) (q : Queue) : (s.setQueue k q).tripSince = s.tripSince := rfl
@[simp] theorem setQueue_uvRec (s : State) (k : Nat) (q : Queue) : (s.setQueue k q).uvRec = s.uvRec := rfl
@[simp] theorem setQueue_keyHash (s : State) (k : Nat) (q : Queue) : (s.setQueue k q).keyHash = s.keyHash := rfl
@[simp] theorem setQueue_strays (s : State) (k : Nat) (q : Queue) : (s.setQueue k q).strays = s.strays := rfl
@[simp] theorem setQueue_iommu (s : State) (k : Nat) (q : Queue) : (s.setQueue k q).iommu = s.iommu := rfl
@[simp] theorem setQueue_iommuInvals (s : State) (k : Nat) (q : Queue) : (s.setQueue k q).iommuInvals = s.iommuInvals := rfl
@[simp] theorem setQueue_ioEntries (s : State) (k : Nat) (q : Queue) : (s.setQueue k q).ioEntries = s.ioEntries := rfl
@[simp] theorem setQueue_devAnswer (s : State) (k : Nat) (q : Queue) : (s.setQueue k q).devAnswer = s.devAnswer := rfl

/-! `State.setSysQ` changes `sysEntries` only. -/
@[simp] theorem setSysQ_agenda (s : State) (k : Nat) (l : List SysEntry) : (s.setSysQ k l).agenda = s.agenda := rfl
@[simp] theorem setSysQ_cur (s : State) (k : Nat) (l : List SysEntry) : (s.setSysQ k l).cur = s.cur := rfl
@[simp] theorem setSysQ_tick (s : State) (k : Nat) (l : List SysEntry) : (s.setSysQ k l).tick = s.tick := rfl
@[simp] theorem setSysQ_seq (s : State) (k : Nat) (l : List SysEntry) : (s.setSysQ k l).seq = s.seq := rfl
@[simp] theorem setSysQ_gtime (s : State) (k : Nat) (l : List SysEntry) : (s.setSysQ k l).gtime = s.gtime := rfl
@[simp] theorem setSysQ_mem (s : State) (k : Nat) (l : List SysEntry) : (s.setSysQ k l).mem = s.mem := rfl
@[simp] theorem setSysQ_poison (s : State) (k : Nat) (l : List SysEntry) : (s.setSysQ k l).poison = s.poison := rfl
@[simp] theorem setSysQ_owned (s : State) (k : Nat) (l : List SysEntry) : (s.setSysQ k l).owned = s.owned := rfl
@[simp] theorem setSysQ_sharers (s : State) (k : Nat) (l : List SysEntry) : (s.setSysQ k l).sharers = s.sharers := rfl
@[simp] theorem setSysQ_grants (s : State) (k : Nat) (l : List SysEntry) : (s.setSysQ k l).grants = s.grants := rfl
@[simp] theorem setSysQ_tlb (s : State) (k : Nat) (l : List SysEntry) : (s.setSysQ k l).tlb = s.tlb := rfl
@[simp] theorem setSysQ_drills (s : State) (k : Nat) (l : List SysEntry) : (s.setSysQ k l).drills = s.drills := rfl
@[simp] theorem setSysQ_cores (s : State) (k : Nat) (l : List SysEntry) : (s.setSysQ k l).cores = s.cores := rfl
@[simp] theorem setSysQ_groups (s : State) (k : Nat) (l : List SysEntry) : (s.setSysQ k l).groups = s.groups := rfl
@[simp] theorem setSysQ_crofts (s : State) (k : Nat) (l : List SysEntry) : (s.setSysQ k l).crofts = s.crofts := rfl
@[simp] theorem setSysQ_launches (s : State) (k : Nat) (l : List SysEntry) : (s.setSysQ k l).launches = s.launches := rfl
@[simp] theorem setSysQ_queues (s : State) (k : Nat) (l : List SysEntry) : (s.setSysQ k l).queues = s.queues := rfl
@[simp] theorem setSysQ_lastChosen (s : State) (k : Nat) (l : List SysEntry) : (s.setSysQ k l).lastChosen = s.lastChosen := rfl
@[simp] theorem setSysQ_ctxs (s : State) (k : Nat) (l : List SysEntry) : (s.setSysQ k l).ctxs = s.ctxs := rfl
@[simp] theorem setSysQ_plots (s : State) (k : Nat) (l : List SysEntry) : (s.setSysQ k l).plots = s.plots := rfl
@[simp] theorem setSysQ_oldPlots (s : State) (k : Nat) (l : List SysEntry) : (s.setSysQ k l).oldPlots = s.oldPlots := rfl
@[simp] theorem setSysQ_stackTbl (s : State) (k : Nat) (l : List SysEntry) : (s.setSysQ k l).stackTbl = s.stackTbl := rfl
@[simp] theorem setSysQ_links (s : State) (k : Nat) (l : List SysEntry) : (s.setSysQ k l).links = s.links := rfl
@[simp] theorem setSysQ_tables (s : State) (k : Nat) (l : List SysEntry) : (s.setSysQ k l).tables = s.tables := rfl
@[simp] theorem setSysQ_faultRecs (s : State) (k : Nat) (l : List SysEntry) : (s.setSysQ k l).faultRecs = s.faultRecs := rfl
@[simp] theorem setSysQ_harts (s : State) (k : Nat) (l : List SysEntry) : (s.setSysQ k l).harts = s.harts := rfl
@[simp] theorem setSysQ_imsics (s : State) (k : Nat) (l : List SysEntry) : (s.setSysQ k l).imsics = s.imsics := rfl
@[simp] theorem setSysQ_regs (s : State) (k : Nat) (l : List SysEntry) : (s.setSysQ k l).regs = s.regs := rfl
@[simp] theorem setSysQ_icflush (s : State) (k : Nat) (l : List SysEntry) : (s.setSysQ k l).icflush = s.icflush := rfl
@[simp] theorem setSysQ_railBusy (s : State) (k : Nat) (l : List SysEntry) : (s.setSysQ k l).railBusy = s.railBusy := rfl
@[simp] theorem setSysQ_image (s : State) (k : Nat) (l : List SysEntry) : (s.setSysQ k l).image = s.image := rfl
@[simp] theorem setSysQ_imageVersion (s : State) (k : Nat) (l : List SysEntry) : (s.setSysQ k l).imageVersion = s.imageVersion := rfl
@[simp] theorem setSysQ_imageEntry (s : State) (k : Nat) (l : List SysEntry) : (s.setSysQ k l).imageEntry = s.imageEntry := rfl
@[simp] theorem setSysQ_report (s : State) (k : Nat) (l : List SysEntry) : (s.setSysQ k l).report = s.report := rfl
@[simp] theorem setSysQ_inbound (s : State) (k : Nat) (l : List SysEntry) : (s.setSysQ k l).inbound = s.inbound := rfl
@[simp] theorem setSysQ_walks (s : State) (k : Nat) (l : List SysEntry) : (s.setSysQ k l).walks = s.walks := rfl
@[simp] theorem setSysQ_clkIdle (s : State) (k : Nat) (l : List SysEntry) : (s.setSysQ k l).clkIdle = s.clkIdle := rfl
@[simp] theorem setSysQ_clkOff (s : State) (k : Nat) (l : List SysEntry) : (s.setSysQ k l).clkOff = s.clkOff := rfl
@[simp] theorem setSysQ_nowAlarms (s : State) (k : Nat) (l : List SysEntry) : (s.setSysQ k l).nowAlarms = s.nowAlarms := rfl
@[simp] theorem setSysQ_nowBoost (s : State) (k : Nat) (l : List SysEntry) : (s.setSysQ k l).nowBoost = s.nowBoost := rfl
@[simp] theorem setSysQ_tripSince (s : State) (k : Nat) (l : List SysEntry) : (s.setSysQ k l).tripSince = s.tripSince := rfl
@[simp] theorem setSysQ_uvRec (s : State) (k : Nat) (l : List SysEntry) : (s.setSysQ k l).uvRec = s.uvRec := rfl
@[simp] theorem setSysQ_keyHash (s : State) (k : Nat) (l : List SysEntry) : (s.setSysQ k l).keyHash = s.keyHash := rfl
@[simp] theorem setSysQ_strays (s : State) (k : Nat) (l : List SysEntry) : (s.setSysQ k l).strays = s.strays := rfl
@[simp] theorem setSysQ_iommu (s : State) (k : Nat) (l : List SysEntry) : (s.setSysQ k l).iommu = s.iommu := rfl
@[simp] theorem setSysQ_iommuInvals (s : State) (k : Nat) (l : List SysEntry) : (s.setSysQ k l).iommuInvals = s.iommuInvals := rfl
@[simp] theorem setSysQ_ioEntries (s : State) (k : Nat) (l : List SysEntry) : (s.setSysQ k l).ioEntries = s.ioEntries := rfl
@[simp] theorem setSysQ_devAnswer (s : State) (k : Nat) (l : List SysEntry) : (s.setSysQ k l).devAnswer = s.devAnswer := rfl

/-! `State.setRec` changes `faultRecs` only. -/
@[simp] theorem setRec_agenda (s : State) (k n : Nat) (r : FaultRec) : (s.setRec k n r).agenda = s.agenda := rfl
@[simp] theorem setRec_cur (s : State) (k n : Nat) (r : FaultRec) : (s.setRec k n r).cur = s.cur := rfl
@[simp] theorem setRec_tick (s : State) (k n : Nat) (r : FaultRec) : (s.setRec k n r).tick = s.tick := rfl
@[simp] theorem setRec_seq (s : State) (k n : Nat) (r : FaultRec) : (s.setRec k n r).seq = s.seq := rfl
@[simp] theorem setRec_gtime (s : State) (k n : Nat) (r : FaultRec) : (s.setRec k n r).gtime = s.gtime := rfl
@[simp] theorem setRec_mem (s : State) (k n : Nat) (r : FaultRec) : (s.setRec k n r).mem = s.mem := rfl
@[simp] theorem setRec_poison (s : State) (k n : Nat) (r : FaultRec) : (s.setRec k n r).poison = s.poison := rfl
@[simp] theorem setRec_owned (s : State) (k n : Nat) (r : FaultRec) : (s.setRec k n r).owned = s.owned := rfl
@[simp] theorem setRec_sharers (s : State) (k n : Nat) (r : FaultRec) : (s.setRec k n r).sharers = s.sharers := rfl
@[simp] theorem setRec_grants (s : State) (k n : Nat) (r : FaultRec) : (s.setRec k n r).grants = s.grants := rfl
@[simp] theorem setRec_tlb (s : State) (k n : Nat) (r : FaultRec) : (s.setRec k n r).tlb = s.tlb := rfl
@[simp] theorem setRec_drills (s : State) (k n : Nat) (r : FaultRec) : (s.setRec k n r).drills = s.drills := rfl
@[simp] theorem setRec_cores (s : State) (k n : Nat) (r : FaultRec) : (s.setRec k n r).cores = s.cores := rfl
@[simp] theorem setRec_groups (s : State) (k n : Nat) (r : FaultRec) : (s.setRec k n r).groups = s.groups := rfl
@[simp] theorem setRec_crofts (s : State) (k n : Nat) (r : FaultRec) : (s.setRec k n r).crofts = s.crofts := rfl
@[simp] theorem setRec_launches (s : State) (k n : Nat) (r : FaultRec) : (s.setRec k n r).launches = s.launches := rfl
@[simp] theorem setRec_queues (s : State) (k n : Nat) (r : FaultRec) : (s.setRec k n r).queues = s.queues := rfl
@[simp] theorem setRec_lastChosen (s : State) (k n : Nat) (r : FaultRec) : (s.setRec k n r).lastChosen = s.lastChosen := rfl
@[simp] theorem setRec_ctxs (s : State) (k n : Nat) (r : FaultRec) : (s.setRec k n r).ctxs = s.ctxs := rfl
@[simp] theorem setRec_plots (s : State) (k n : Nat) (r : FaultRec) : (s.setRec k n r).plots = s.plots := rfl
@[simp] theorem setRec_oldPlots (s : State) (k n : Nat) (r : FaultRec) : (s.setRec k n r).oldPlots = s.oldPlots := rfl
@[simp] theorem setRec_stackTbl (s : State) (k n : Nat) (r : FaultRec) : (s.setRec k n r).stackTbl = s.stackTbl := rfl
@[simp] theorem setRec_links (s : State) (k n : Nat) (r : FaultRec) : (s.setRec k n r).links = s.links := rfl
@[simp] theorem setRec_tables (s : State) (k n : Nat) (r : FaultRec) : (s.setRec k n r).tables = s.tables := rfl
@[simp] theorem setRec_sysEntries (s : State) (k n : Nat) (r : FaultRec) : (s.setRec k n r).sysEntries = s.sysEntries := rfl
@[simp] theorem setRec_harts (s : State) (k n : Nat) (r : FaultRec) : (s.setRec k n r).harts = s.harts := rfl
@[simp] theorem setRec_imsics (s : State) (k n : Nat) (r : FaultRec) : (s.setRec k n r).imsics = s.imsics := rfl
@[simp] theorem setRec_regs (s : State) (k n : Nat) (r : FaultRec) : (s.setRec k n r).regs = s.regs := rfl
@[simp] theorem setRec_icflush (s : State) (k n : Nat) (r : FaultRec) : (s.setRec k n r).icflush = s.icflush := rfl
@[simp] theorem setRec_railBusy (s : State) (k n : Nat) (r : FaultRec) : (s.setRec k n r).railBusy = s.railBusy := rfl
@[simp] theorem setRec_image (s : State) (k n : Nat) (r : FaultRec) : (s.setRec k n r).image = s.image := rfl
@[simp] theorem setRec_imageVersion (s : State) (k n : Nat) (r : FaultRec) : (s.setRec k n r).imageVersion = s.imageVersion := rfl
@[simp] theorem setRec_imageEntry (s : State) (k n : Nat) (r : FaultRec) : (s.setRec k n r).imageEntry = s.imageEntry := rfl
@[simp] theorem setRec_report (s : State) (k n : Nat) (r : FaultRec) : (s.setRec k n r).report = s.report := rfl
@[simp] theorem setRec_inbound (s : State) (k n : Nat) (r : FaultRec) : (s.setRec k n r).inbound = s.inbound := rfl
@[simp] theorem setRec_walks (s : State) (k n : Nat) (r : FaultRec) : (s.setRec k n r).walks = s.walks := rfl
@[simp] theorem setRec_clkIdle (s : State) (k n : Nat) (r : FaultRec) : (s.setRec k n r).clkIdle = s.clkIdle := rfl
@[simp] theorem setRec_clkOff (s : State) (k n : Nat) (r : FaultRec) : (s.setRec k n r).clkOff = s.clkOff := rfl
@[simp] theorem setRec_nowAlarms (s : State) (k n : Nat) (r : FaultRec) : (s.setRec k n r).nowAlarms = s.nowAlarms := rfl
@[simp] theorem setRec_nowBoost (s : State) (k n : Nat) (r : FaultRec) : (s.setRec k n r).nowBoost = s.nowBoost := rfl
@[simp] theorem setRec_tripSince (s : State) (k n : Nat) (r : FaultRec) : (s.setRec k n r).tripSince = s.tripSince := rfl
@[simp] theorem setRec_uvRec (s : State) (k n : Nat) (r : FaultRec) : (s.setRec k n r).uvRec = s.uvRec := rfl
@[simp] theorem setRec_keyHash (s : State) (k n : Nat) (r : FaultRec) : (s.setRec k n r).keyHash = s.keyHash := rfl
@[simp] theorem setRec_strays (s : State) (k n : Nat) (r : FaultRec) : (s.setRec k n r).strays = s.strays := rfl
@[simp] theorem setRec_iommu (s : State) (k n : Nat) (r : FaultRec) : (s.setRec k n r).iommu = s.iommu := rfl
@[simp] theorem setRec_iommuInvals (s : State) (k n : Nat) (r : FaultRec) : (s.setRec k n r).iommuInvals = s.iommuInvals := rfl
@[simp] theorem setRec_ioEntries (s : State) (k n : Nat) (r : FaultRec) : (s.setRec k n r).ioEntries = s.ioEntries := rfl
@[simp] theorem setRec_devAnswer (s : State) (k n : Nat) (r : FaultRec) : (s.setRec k n r).devAnswer = s.devAnswer := rfl

/-! `State.setStack` changes `stackTbl` only. -/
@[simp] theorem setStack_agenda (s : State) (k : Nat) (t : Stack) : (s.setStack k t).agenda = s.agenda := rfl
@[simp] theorem setStack_cur (s : State) (k : Nat) (t : Stack) : (s.setStack k t).cur = s.cur := rfl
@[simp] theorem setStack_tick (s : State) (k : Nat) (t : Stack) : (s.setStack k t).tick = s.tick := rfl
@[simp] theorem setStack_seq (s : State) (k : Nat) (t : Stack) : (s.setStack k t).seq = s.seq := rfl
@[simp] theorem setStack_gtime (s : State) (k : Nat) (t : Stack) : (s.setStack k t).gtime = s.gtime := rfl
@[simp] theorem setStack_mem (s : State) (k : Nat) (t : Stack) : (s.setStack k t).mem = s.mem := rfl
@[simp] theorem setStack_poison (s : State) (k : Nat) (t : Stack) : (s.setStack k t).poison = s.poison := rfl
@[simp] theorem setStack_owned (s : State) (k : Nat) (t : Stack) : (s.setStack k t).owned = s.owned := rfl
@[simp] theorem setStack_sharers (s : State) (k : Nat) (t : Stack) : (s.setStack k t).sharers = s.sharers := rfl
@[simp] theorem setStack_grants (s : State) (k : Nat) (t : Stack) : (s.setStack k t).grants = s.grants := rfl
@[simp] theorem setStack_tlb (s : State) (k : Nat) (t : Stack) : (s.setStack k t).tlb = s.tlb := rfl
@[simp] theorem setStack_drills (s : State) (k : Nat) (t : Stack) : (s.setStack k t).drills = s.drills := rfl
@[simp] theorem setStack_cores (s : State) (k : Nat) (t : Stack) : (s.setStack k t).cores = s.cores := rfl
@[simp] theorem setStack_groups (s : State) (k : Nat) (t : Stack) : (s.setStack k t).groups = s.groups := rfl
@[simp] theorem setStack_crofts (s : State) (k : Nat) (t : Stack) : (s.setStack k t).crofts = s.crofts := rfl
@[simp] theorem setStack_launches (s : State) (k : Nat) (t : Stack) : (s.setStack k t).launches = s.launches := rfl
@[simp] theorem setStack_queues (s : State) (k : Nat) (t : Stack) : (s.setStack k t).queues = s.queues := rfl
@[simp] theorem setStack_lastChosen (s : State) (k : Nat) (t : Stack) : (s.setStack k t).lastChosen = s.lastChosen := rfl
@[simp] theorem setStack_ctxs (s : State) (k : Nat) (t : Stack) : (s.setStack k t).ctxs = s.ctxs := rfl
@[simp] theorem setStack_plots (s : State) (k : Nat) (t : Stack) : (s.setStack k t).plots = s.plots := rfl
@[simp] theorem setStack_oldPlots (s : State) (k : Nat) (t : Stack) : (s.setStack k t).oldPlots = s.oldPlots := rfl
@[simp] theorem setStack_links (s : State) (k : Nat) (t : Stack) : (s.setStack k t).links = s.links := rfl
@[simp] theorem setStack_tables (s : State) (k : Nat) (t : Stack) : (s.setStack k t).tables = s.tables := rfl
@[simp] theorem setStack_faultRecs (s : State) (k : Nat) (t : Stack) : (s.setStack k t).faultRecs = s.faultRecs := rfl
@[simp] theorem setStack_sysEntries (s : State) (k : Nat) (t : Stack) : (s.setStack k t).sysEntries = s.sysEntries := rfl
@[simp] theorem setStack_harts (s : State) (k : Nat) (t : Stack) : (s.setStack k t).harts = s.harts := rfl
@[simp] theorem setStack_imsics (s : State) (k : Nat) (t : Stack) : (s.setStack k t).imsics = s.imsics := rfl
@[simp] theorem setStack_regs (s : State) (k : Nat) (t : Stack) : (s.setStack k t).regs = s.regs := rfl
@[simp] theorem setStack_icflush (s : State) (k : Nat) (t : Stack) : (s.setStack k t).icflush = s.icflush := rfl
@[simp] theorem setStack_railBusy (s : State) (k : Nat) (t : Stack) : (s.setStack k t).railBusy = s.railBusy := rfl
@[simp] theorem setStack_image (s : State) (k : Nat) (t : Stack) : (s.setStack k t).image = s.image := rfl
@[simp] theorem setStack_imageVersion (s : State) (k : Nat) (t : Stack) : (s.setStack k t).imageVersion = s.imageVersion := rfl
@[simp] theorem setStack_imageEntry (s : State) (k : Nat) (t : Stack) : (s.setStack k t).imageEntry = s.imageEntry := rfl
@[simp] theorem setStack_report (s : State) (k : Nat) (t : Stack) : (s.setStack k t).report = s.report := rfl
@[simp] theorem setStack_inbound (s : State) (k : Nat) (t : Stack) : (s.setStack k t).inbound = s.inbound := rfl
@[simp] theorem setStack_walks (s : State) (k : Nat) (t : Stack) : (s.setStack k t).walks = s.walks := rfl
@[simp] theorem setStack_clkIdle (s : State) (k : Nat) (t : Stack) : (s.setStack k t).clkIdle = s.clkIdle := rfl
@[simp] theorem setStack_clkOff (s : State) (k : Nat) (t : Stack) : (s.setStack k t).clkOff = s.clkOff := rfl
@[simp] theorem setStack_nowAlarms (s : State) (k : Nat) (t : Stack) : (s.setStack k t).nowAlarms = s.nowAlarms := rfl
@[simp] theorem setStack_nowBoost (s : State) (k : Nat) (t : Stack) : (s.setStack k t).nowBoost = s.nowBoost := rfl
@[simp] theorem setStack_tripSince (s : State) (k : Nat) (t : Stack) : (s.setStack k t).tripSince = s.tripSince := rfl
@[simp] theorem setStack_uvRec (s : State) (k : Nat) (t : Stack) : (s.setStack k t).uvRec = s.uvRec := rfl
@[simp] theorem setStack_keyHash (s : State) (k : Nat) (t : Stack) : (s.setStack k t).keyHash = s.keyHash := rfl
@[simp] theorem setStack_strays (s : State) (k : Nat) (t : Stack) : (s.setStack k t).strays = s.strays := rfl
@[simp] theorem setStack_iommu (s : State) (k : Nat) (t : Stack) : (s.setStack k t).iommu = s.iommu := rfl
@[simp] theorem setStack_iommuInvals (s : State) (k : Nat) (t : Stack) : (s.setStack k t).iommuInvals = s.iommuInvals := rfl
@[simp] theorem setStack_ioEntries (s : State) (k : Nat) (t : Stack) : (s.setStack k t).ioEntries = s.ioEntries := rfl
@[simp] theorem setStack_devAnswer (s : State) (k : Nat) (t : Stack) : (s.setStack k t).devAnswer = s.devAnswer := rfl

/-! `State.setPlot` changes `plots` only. -/
@[simp] theorem setPlot_agenda (s : State) (k : Nat) (p : Plot) : (s.setPlot k p).agenda = s.agenda := rfl
@[simp] theorem setPlot_cur (s : State) (k : Nat) (p : Plot) : (s.setPlot k p).cur = s.cur := rfl
@[simp] theorem setPlot_tick (s : State) (k : Nat) (p : Plot) : (s.setPlot k p).tick = s.tick := rfl
@[simp] theorem setPlot_seq (s : State) (k : Nat) (p : Plot) : (s.setPlot k p).seq = s.seq := rfl
@[simp] theorem setPlot_gtime (s : State) (k : Nat) (p : Plot) : (s.setPlot k p).gtime = s.gtime := rfl
@[simp] theorem setPlot_mem (s : State) (k : Nat) (p : Plot) : (s.setPlot k p).mem = s.mem := rfl
@[simp] theorem setPlot_poison (s : State) (k : Nat) (p : Plot) : (s.setPlot k p).poison = s.poison := rfl
@[simp] theorem setPlot_owned (s : State) (k : Nat) (p : Plot) : (s.setPlot k p).owned = s.owned := rfl
@[simp] theorem setPlot_sharers (s : State) (k : Nat) (p : Plot) : (s.setPlot k p).sharers = s.sharers := rfl
@[simp] theorem setPlot_grants (s : State) (k : Nat) (p : Plot) : (s.setPlot k p).grants = s.grants := rfl
@[simp] theorem setPlot_tlb (s : State) (k : Nat) (p : Plot) : (s.setPlot k p).tlb = s.tlb := rfl
@[simp] theorem setPlot_drills (s : State) (k : Nat) (p : Plot) : (s.setPlot k p).drills = s.drills := rfl
@[simp] theorem setPlot_cores (s : State) (k : Nat) (p : Plot) : (s.setPlot k p).cores = s.cores := rfl
@[simp] theorem setPlot_groups (s : State) (k : Nat) (p : Plot) : (s.setPlot k p).groups = s.groups := rfl
@[simp] theorem setPlot_crofts (s : State) (k : Nat) (p : Plot) : (s.setPlot k p).crofts = s.crofts := rfl
@[simp] theorem setPlot_launches (s : State) (k : Nat) (p : Plot) : (s.setPlot k p).launches = s.launches := rfl
@[simp] theorem setPlot_queues (s : State) (k : Nat) (p : Plot) : (s.setPlot k p).queues = s.queues := rfl
@[simp] theorem setPlot_lastChosen (s : State) (k : Nat) (p : Plot) : (s.setPlot k p).lastChosen = s.lastChosen := rfl
@[simp] theorem setPlot_ctxs (s : State) (k : Nat) (p : Plot) : (s.setPlot k p).ctxs = s.ctxs := rfl
@[simp] theorem setPlot_oldPlots (s : State) (k : Nat) (p : Plot) : (s.setPlot k p).oldPlots = s.oldPlots := rfl
@[simp] theorem setPlot_stackTbl (s : State) (k : Nat) (p : Plot) : (s.setPlot k p).stackTbl = s.stackTbl := rfl
@[simp] theorem setPlot_links (s : State) (k : Nat) (p : Plot) : (s.setPlot k p).links = s.links := rfl
@[simp] theorem setPlot_tables (s : State) (k : Nat) (p : Plot) : (s.setPlot k p).tables = s.tables := rfl
@[simp] theorem setPlot_faultRecs (s : State) (k : Nat) (p : Plot) : (s.setPlot k p).faultRecs = s.faultRecs := rfl
@[simp] theorem setPlot_sysEntries (s : State) (k : Nat) (p : Plot) : (s.setPlot k p).sysEntries = s.sysEntries := rfl
@[simp] theorem setPlot_harts (s : State) (k : Nat) (p : Plot) : (s.setPlot k p).harts = s.harts := rfl
@[simp] theorem setPlot_imsics (s : State) (k : Nat) (p : Plot) : (s.setPlot k p).imsics = s.imsics := rfl
@[simp] theorem setPlot_regs (s : State) (k : Nat) (p : Plot) : (s.setPlot k p).regs = s.regs := rfl
@[simp] theorem setPlot_icflush (s : State) (k : Nat) (p : Plot) : (s.setPlot k p).icflush = s.icflush := rfl
@[simp] theorem setPlot_railBusy (s : State) (k : Nat) (p : Plot) : (s.setPlot k p).railBusy = s.railBusy := rfl
@[simp] theorem setPlot_image (s : State) (k : Nat) (p : Plot) : (s.setPlot k p).image = s.image := rfl
@[simp] theorem setPlot_imageVersion (s : State) (k : Nat) (p : Plot) : (s.setPlot k p).imageVersion = s.imageVersion := rfl
@[simp] theorem setPlot_imageEntry (s : State) (k : Nat) (p : Plot) : (s.setPlot k p).imageEntry = s.imageEntry := rfl
@[simp] theorem setPlot_report (s : State) (k : Nat) (p : Plot) : (s.setPlot k p).report = s.report := rfl
@[simp] theorem setPlot_inbound (s : State) (k : Nat) (p : Plot) : (s.setPlot k p).inbound = s.inbound := rfl
@[simp] theorem setPlot_walks (s : State) (k : Nat) (p : Plot) : (s.setPlot k p).walks = s.walks := rfl
@[simp] theorem setPlot_clkIdle (s : State) (k : Nat) (p : Plot) : (s.setPlot k p).clkIdle = s.clkIdle := rfl
@[simp] theorem setPlot_clkOff (s : State) (k : Nat) (p : Plot) : (s.setPlot k p).clkOff = s.clkOff := rfl
@[simp] theorem setPlot_nowAlarms (s : State) (k : Nat) (p : Plot) : (s.setPlot k p).nowAlarms = s.nowAlarms := rfl
@[simp] theorem setPlot_nowBoost (s : State) (k : Nat) (p : Plot) : (s.setPlot k p).nowBoost = s.nowBoost := rfl
@[simp] theorem setPlot_tripSince (s : State) (k : Nat) (p : Plot) : (s.setPlot k p).tripSince = s.tripSince := rfl
@[simp] theorem setPlot_uvRec (s : State) (k : Nat) (p : Plot) : (s.setPlot k p).uvRec = s.uvRec := rfl
@[simp] theorem setPlot_keyHash (s : State) (k : Nat) (p : Plot) : (s.setPlot k p).keyHash = s.keyHash := rfl
@[simp] theorem setPlot_strays (s : State) (k : Nat) (p : Plot) : (s.setPlot k p).strays = s.strays := rfl
@[simp] theorem setPlot_iommu (s : State) (k : Nat) (p : Plot) : (s.setPlot k p).iommu = s.iommu := rfl
@[simp] theorem setPlot_iommuInvals (s : State) (k : Nat) (p : Plot) : (s.setPlot k p).iommuInvals = s.iommuInvals := rfl
@[simp] theorem setPlot_ioEntries (s : State) (k : Nat) (p : Plot) : (s.setPlot k p).ioEntries = s.ioEntries := rfl
@[simp] theorem setPlot_devAnswer (s : State) (k : Nat) (p : Plot) : (s.setPlot k p).devAnswer = s.devAnswer := rfl

/-! `State.setLink` changes `links` only. -/
@[simp] theorem setLink_agenda (s : State) (k : Nat) (l : Link) : (s.setLink k l).agenda = s.agenda := rfl
@[simp] theorem setLink_cur (s : State) (k : Nat) (l : Link) : (s.setLink k l).cur = s.cur := rfl
@[simp] theorem setLink_tick (s : State) (k : Nat) (l : Link) : (s.setLink k l).tick = s.tick := rfl
@[simp] theorem setLink_seq (s : State) (k : Nat) (l : Link) : (s.setLink k l).seq = s.seq := rfl
@[simp] theorem setLink_gtime (s : State) (k : Nat) (l : Link) : (s.setLink k l).gtime = s.gtime := rfl
@[simp] theorem setLink_mem (s : State) (k : Nat) (l : Link) : (s.setLink k l).mem = s.mem := rfl
@[simp] theorem setLink_poison (s : State) (k : Nat) (l : Link) : (s.setLink k l).poison = s.poison := rfl
@[simp] theorem setLink_owned (s : State) (k : Nat) (l : Link) : (s.setLink k l).owned = s.owned := rfl
@[simp] theorem setLink_sharers (s : State) (k : Nat) (l : Link) : (s.setLink k l).sharers = s.sharers := rfl
@[simp] theorem setLink_grants (s : State) (k : Nat) (l : Link) : (s.setLink k l).grants = s.grants := rfl
@[simp] theorem setLink_tlb (s : State) (k : Nat) (l : Link) : (s.setLink k l).tlb = s.tlb := rfl
@[simp] theorem setLink_drills (s : State) (k : Nat) (l : Link) : (s.setLink k l).drills = s.drills := rfl
@[simp] theorem setLink_cores (s : State) (k : Nat) (l : Link) : (s.setLink k l).cores = s.cores := rfl
@[simp] theorem setLink_groups (s : State) (k : Nat) (l : Link) : (s.setLink k l).groups = s.groups := rfl
@[simp] theorem setLink_crofts (s : State) (k : Nat) (l : Link) : (s.setLink k l).crofts = s.crofts := rfl
@[simp] theorem setLink_launches (s : State) (k : Nat) (l : Link) : (s.setLink k l).launches = s.launches := rfl
@[simp] theorem setLink_queues (s : State) (k : Nat) (l : Link) : (s.setLink k l).queues = s.queues := rfl
@[simp] theorem setLink_lastChosen (s : State) (k : Nat) (l : Link) : (s.setLink k l).lastChosen = s.lastChosen := rfl
@[simp] theorem setLink_ctxs (s : State) (k : Nat) (l : Link) : (s.setLink k l).ctxs = s.ctxs := rfl
@[simp] theorem setLink_plots (s : State) (k : Nat) (l : Link) : (s.setLink k l).plots = s.plots := rfl
@[simp] theorem setLink_oldPlots (s : State) (k : Nat) (l : Link) : (s.setLink k l).oldPlots = s.oldPlots := rfl
@[simp] theorem setLink_stackTbl (s : State) (k : Nat) (l : Link) : (s.setLink k l).stackTbl = s.stackTbl := rfl
@[simp] theorem setLink_tables (s : State) (k : Nat) (l : Link) : (s.setLink k l).tables = s.tables := rfl
@[simp] theorem setLink_faultRecs (s : State) (k : Nat) (l : Link) : (s.setLink k l).faultRecs = s.faultRecs := rfl
@[simp] theorem setLink_sysEntries (s : State) (k : Nat) (l : Link) : (s.setLink k l).sysEntries = s.sysEntries := rfl
@[simp] theorem setLink_harts (s : State) (k : Nat) (l : Link) : (s.setLink k l).harts = s.harts := rfl
@[simp] theorem setLink_imsics (s : State) (k : Nat) (l : Link) : (s.setLink k l).imsics = s.imsics := rfl
@[simp] theorem setLink_regs (s : State) (k : Nat) (l : Link) : (s.setLink k l).regs = s.regs := rfl
@[simp] theorem setLink_icflush (s : State) (k : Nat) (l : Link) : (s.setLink k l).icflush = s.icflush := rfl
@[simp] theorem setLink_railBusy (s : State) (k : Nat) (l : Link) : (s.setLink k l).railBusy = s.railBusy := rfl
@[simp] theorem setLink_image (s : State) (k : Nat) (l : Link) : (s.setLink k l).image = s.image := rfl
@[simp] theorem setLink_imageVersion (s : State) (k : Nat) (l : Link) : (s.setLink k l).imageVersion = s.imageVersion := rfl
@[simp] theorem setLink_imageEntry (s : State) (k : Nat) (l : Link) : (s.setLink k l).imageEntry = s.imageEntry := rfl
@[simp] theorem setLink_report (s : State) (k : Nat) (l : Link) : (s.setLink k l).report = s.report := rfl
@[simp] theorem setLink_inbound (s : State) (k : Nat) (l : Link) : (s.setLink k l).inbound = s.inbound := rfl
@[simp] theorem setLink_walks (s : State) (k : Nat) (l : Link) : (s.setLink k l).walks = s.walks := rfl
@[simp] theorem setLink_clkIdle (s : State) (k : Nat) (l : Link) : (s.setLink k l).clkIdle = s.clkIdle := rfl
@[simp] theorem setLink_clkOff (s : State) (k : Nat) (l : Link) : (s.setLink k l).clkOff = s.clkOff := rfl
@[simp] theorem setLink_nowAlarms (s : State) (k : Nat) (l : Link) : (s.setLink k l).nowAlarms = s.nowAlarms := rfl
@[simp] theorem setLink_nowBoost (s : State) (k : Nat) (l : Link) : (s.setLink k l).nowBoost = s.nowBoost := rfl
@[simp] theorem setLink_tripSince (s : State) (k : Nat) (l : Link) : (s.setLink k l).tripSince = s.tripSince := rfl
@[simp] theorem setLink_uvRec (s : State) (k : Nat) (l : Link) : (s.setLink k l).uvRec = s.uvRec := rfl
@[simp] theorem setLink_keyHash (s : State) (k : Nat) (l : Link) : (s.setLink k l).keyHash = s.keyHash := rfl
@[simp] theorem setLink_strays (s : State) (k : Nat) (l : Link) : (s.setLink k l).strays = s.strays := rfl
@[simp] theorem setLink_iommu (s : State) (k : Nat) (l : Link) : (s.setLink k l).iommu = s.iommu := rfl
@[simp] theorem setLink_iommuInvals (s : State) (k : Nat) (l : Link) : (s.setLink k l).iommuInvals = s.iommuInvals := rfl
@[simp] theorem setLink_ioEntries (s : State) (k : Nat) (l : Link) : (s.setLink k l).ioEntries = s.ioEntries := rfl
@[simp] theorem setLink_devAnswer (s : State) (k : Nat) (l : Link) : (s.setLink k l).devAnswer = s.devAnswer := rfl

/-! `State.writeHome` changes `mem` only. -/
@[simp] theorem writeHome_agenda (s : State) (w : List (Nat × Byte)) : (s.writeHome w).agenda = s.agenda := rfl
@[simp] theorem writeHome_cur (s : State) (w : List (Nat × Byte)) : (s.writeHome w).cur = s.cur := rfl
@[simp] theorem writeHome_tick (s : State) (w : List (Nat × Byte)) : (s.writeHome w).tick = s.tick := rfl
@[simp] theorem writeHome_seq (s : State) (w : List (Nat × Byte)) : (s.writeHome w).seq = s.seq := rfl
@[simp] theorem writeHome_gtime (s : State) (w : List (Nat × Byte)) : (s.writeHome w).gtime = s.gtime := rfl
@[simp] theorem writeHome_poison (s : State) (w : List (Nat × Byte)) : (s.writeHome w).poison = s.poison := rfl
@[simp] theorem writeHome_owned (s : State) (w : List (Nat × Byte)) : (s.writeHome w).owned = s.owned := rfl
@[simp] theorem writeHome_sharers (s : State) (w : List (Nat × Byte)) : (s.writeHome w).sharers = s.sharers := rfl
@[simp] theorem writeHome_grants (s : State) (w : List (Nat × Byte)) : (s.writeHome w).grants = s.grants := rfl
@[simp] theorem writeHome_tlb (s : State) (w : List (Nat × Byte)) : (s.writeHome w).tlb = s.tlb := rfl
@[simp] theorem writeHome_drills (s : State) (w : List (Nat × Byte)) : (s.writeHome w).drills = s.drills := rfl
@[simp] theorem writeHome_cores (s : State) (w : List (Nat × Byte)) : (s.writeHome w).cores = s.cores := rfl
@[simp] theorem writeHome_groups (s : State) (w : List (Nat × Byte)) : (s.writeHome w).groups = s.groups := rfl
@[simp] theorem writeHome_crofts (s : State) (w : List (Nat × Byte)) : (s.writeHome w).crofts = s.crofts := rfl
@[simp] theorem writeHome_launches (s : State) (w : List (Nat × Byte)) : (s.writeHome w).launches = s.launches := rfl
@[simp] theorem writeHome_queues (s : State) (w : List (Nat × Byte)) : (s.writeHome w).queues = s.queues := rfl
@[simp] theorem writeHome_lastChosen (s : State) (w : List (Nat × Byte)) : (s.writeHome w).lastChosen = s.lastChosen := rfl
@[simp] theorem writeHome_ctxs (s : State) (w : List (Nat × Byte)) : (s.writeHome w).ctxs = s.ctxs := rfl
@[simp] theorem writeHome_plots (s : State) (w : List (Nat × Byte)) : (s.writeHome w).plots = s.plots := rfl
@[simp] theorem writeHome_oldPlots (s : State) (w : List (Nat × Byte)) : (s.writeHome w).oldPlots = s.oldPlots := rfl
@[simp] theorem writeHome_stackTbl (s : State) (w : List (Nat × Byte)) : (s.writeHome w).stackTbl = s.stackTbl := rfl
@[simp] theorem writeHome_links (s : State) (w : List (Nat × Byte)) : (s.writeHome w).links = s.links := rfl
@[simp] theorem writeHome_tables (s : State) (w : List (Nat × Byte)) : (s.writeHome w).tables = s.tables := rfl
@[simp] theorem writeHome_faultRecs (s : State) (w : List (Nat × Byte)) : (s.writeHome w).faultRecs = s.faultRecs := rfl
@[simp] theorem writeHome_sysEntries (s : State) (w : List (Nat × Byte)) : (s.writeHome w).sysEntries = s.sysEntries := rfl
@[simp] theorem writeHome_harts (s : State) (w : List (Nat × Byte)) : (s.writeHome w).harts = s.harts := rfl
@[simp] theorem writeHome_imsics (s : State) (w : List (Nat × Byte)) : (s.writeHome w).imsics = s.imsics := rfl
@[simp] theorem writeHome_regs (s : State) (w : List (Nat × Byte)) : (s.writeHome w).regs = s.regs := rfl
@[simp] theorem writeHome_icflush (s : State) (w : List (Nat × Byte)) : (s.writeHome w).icflush = s.icflush := rfl
@[simp] theorem writeHome_railBusy (s : State) (w : List (Nat × Byte)) : (s.writeHome w).railBusy = s.railBusy := rfl
@[simp] theorem writeHome_image (s : State) (w : List (Nat × Byte)) : (s.writeHome w).image = s.image := rfl
@[simp] theorem writeHome_imageVersion (s : State) (w : List (Nat × Byte)) : (s.writeHome w).imageVersion = s.imageVersion := rfl
@[simp] theorem writeHome_imageEntry (s : State) (w : List (Nat × Byte)) : (s.writeHome w).imageEntry = s.imageEntry := rfl
@[simp] theorem writeHome_report (s : State) (w : List (Nat × Byte)) : (s.writeHome w).report = s.report := rfl
@[simp] theorem writeHome_inbound (s : State) (w : List (Nat × Byte)) : (s.writeHome w).inbound = s.inbound := rfl
@[simp] theorem writeHome_walks (s : State) (w : List (Nat × Byte)) : (s.writeHome w).walks = s.walks := rfl
@[simp] theorem writeHome_clkIdle (s : State) (w : List (Nat × Byte)) : (s.writeHome w).clkIdle = s.clkIdle := rfl
@[simp] theorem writeHome_clkOff (s : State) (w : List (Nat × Byte)) : (s.writeHome w).clkOff = s.clkOff := rfl
@[simp] theorem writeHome_nowAlarms (s : State) (w : List (Nat × Byte)) : (s.writeHome w).nowAlarms = s.nowAlarms := rfl
@[simp] theorem writeHome_nowBoost (s : State) (w : List (Nat × Byte)) : (s.writeHome w).nowBoost = s.nowBoost := rfl
@[simp] theorem writeHome_tripSince (s : State) (w : List (Nat × Byte)) : (s.writeHome w).tripSince = s.tripSince := rfl
@[simp] theorem writeHome_uvRec (s : State) (w : List (Nat × Byte)) : (s.writeHome w).uvRec = s.uvRec := rfl
@[simp] theorem writeHome_keyHash (s : State) (w : List (Nat × Byte)) : (s.writeHome w).keyHash = s.keyHash := rfl
@[simp] theorem writeHome_strays (s : State) (w : List (Nat × Byte)) : (s.writeHome w).strays = s.strays := rfl
@[simp] theorem writeHome_iommu (s : State) (w : List (Nat × Byte)) : (s.writeHome w).iommu = s.iommu := rfl
@[simp] theorem writeHome_iommuInvals (s : State) (w : List (Nat × Byte)) : (s.writeHome w).iommuInvals = s.iommuInvals := rfl
@[simp] theorem writeHome_ioEntries (s : State) (w : List (Nat × Byte)) : (s.writeHome w).ioEntries = s.ioEntries := rfl
@[simp] theorem writeHome_devAnswer (s : State) (w : List (Nat × Byte)) : (s.writeHome w).devAnswer = s.devAnswer := rfl

/-! What a record reads as after an update. -/
@[simp] theorem drill_setDrill (s : State) (k : Nat) (d : Drill) (j : Nat) : (s.setDrill k d).drill? j = if k = j then some d else s.drill? j := tblGet?_set _ _ _ _
@[simp] theorem drill_modDrill (s : State) (k : Nat) (f : Drill → Drill) (j : Nat) : (s.modDrill k f).drill? j = if k = j then (s.drill? j).map f else s.drill? j := tblGet?_mod _ _ _ _
@[simp] theorem drill_setGroup (s : State) (k : Nat) (g : Group) (j : Nat) : (s.setGroup k g).drill? j = s.drill? j := rfl
@[simp] theorem drill_modGroup (s : State) (k : Nat) (f : Group → Group) (j : Nat) : (s.modGroup k f).drill? j = s.drill? j := rfl
@[simp] theorem drill_modCtx (s : State) (k : Nat) (f : Context → Context) (j : Nat) : (s.modCtx k f).drill? j = s.drill? j := rfl
@[simp] theorem drill_setReg (s : State) (k : Nat) (v : DWord) (j : Nat) : (s.setReg k v).drill? j = s.drill? j := rfl
@[simp] theorem drill_setCore (s : State) (k : Nat) (c : Core) (j : Nat) : (s.setCore k c).drill? j = s.drill? j := rfl
@[simp] theorem drill_invalL1 (s : State) (k : Nat) (j : Nat) : (s.invalL1 k).drill? j = s.drill? j := rfl
@[simp] theorem drill_setHart (s : State) (k : Nat) (h : Hart) (j : Nat) : (s.setHart k h).drill? j = s.drill? j := rfl
@[simp] theorem drill_setQueue (s : State) (k : Nat) (q : Queue) (j : Nat) : (s.setQueue k q).drill? j = s.drill? j := rfl
@[simp] theorem drill_setSysQ (s : State) (k : Nat) (l : List SysEntry) (j : Nat) : (s.setSysQ k l).drill? j = s.drill? j := rfl
@[simp] theorem drill_setRec (s : State) (k n : Nat) (r : FaultRec) (j : Nat) : (s.setRec k n r).drill? j = s.drill? j := rfl
@[simp] theorem drill_setStack (s : State) (k : Nat) (t : Stack) (j : Nat) : (s.setStack k t).drill? j = s.drill? j := rfl
@[simp] theorem drill_setPlot (s : State) (k : Nat) (p : Plot) (j : Nat) : (s.setPlot k p).drill? j = s.drill? j := rfl
@[simp] theorem drill_setLink (s : State) (k : Nat) (l : Link) (j : Nat) : (s.setLink k l).drill? j = s.drill? j := rfl
@[simp] theorem drill_writeHome (s : State) (w : List (Nat × Byte)) (j : Nat) : (s.writeHome w).drill? j = s.drill? j := rfl
@[simp] theorem group_setDrill (s : State) (k : Nat) (d : Drill) (j : Nat) : (s.setDrill k d).group? j = s.group? j := rfl
@[simp] theorem group_modDrill (s : State) (k : Nat) (f : Drill → Drill) (j : Nat) : (s.modDrill k f).group? j = s.group? j := rfl
@[simp] theorem group_setGroup (s : State) (k : Nat) (g : Group) (j : Nat) : (s.setGroup k g).group? j = if k = j then some g else s.group? j := tblGet?_set _ _ _ _
@[simp] theorem group_modGroup (s : State) (k : Nat) (f : Group → Group) (j : Nat) : (s.modGroup k f).group? j = if k = j then (s.group? j).map f else s.group? j := tblGet?_mod _ _ _ _
@[simp] theorem group_modCtx (s : State) (k : Nat) (f : Context → Context) (j : Nat) : (s.modCtx k f).group? j = s.group? j := rfl
@[simp] theorem group_setReg (s : State) (k : Nat) (v : DWord) (j : Nat) : (s.setReg k v).group? j = s.group? j := rfl
@[simp] theorem group_setCore (s : State) (k : Nat) (c : Core) (j : Nat) : (s.setCore k c).group? j = s.group? j := rfl
@[simp] theorem group_invalL1 (s : State) (k : Nat) (j : Nat) : (s.invalL1 k).group? j = s.group? j := rfl
@[simp] theorem group_setHart (s : State) (k : Nat) (h : Hart) (j : Nat) : (s.setHart k h).group? j = s.group? j := rfl
@[simp] theorem group_setQueue (s : State) (k : Nat) (q : Queue) (j : Nat) : (s.setQueue k q).group? j = s.group? j := rfl
@[simp] theorem group_setSysQ (s : State) (k : Nat) (l : List SysEntry) (j : Nat) : (s.setSysQ k l).group? j = s.group? j := rfl
@[simp] theorem group_setRec (s : State) (k n : Nat) (r : FaultRec) (j : Nat) : (s.setRec k n r).group? j = s.group? j := rfl
@[simp] theorem group_setStack (s : State) (k : Nat) (t : Stack) (j : Nat) : (s.setStack k t).group? j = s.group? j := rfl
@[simp] theorem group_setPlot (s : State) (k : Nat) (p : Plot) (j : Nat) : (s.setPlot k p).group? j = s.group? j := rfl
@[simp] theorem group_setLink (s : State) (k : Nat) (l : Link) (j : Nat) : (s.setLink k l).group? j = s.group? j := rfl
@[simp] theorem group_writeHome (s : State) (w : List (Nat × Byte)) (j : Nat) : (s.writeHome w).group? j = s.group? j := rfl
@[simp] theorem ctx_setDrill (s : State) (k : Nat) (d : Drill) (j : Nat) : (s.setDrill k d).ctx? j = s.ctx? j := rfl
@[simp] theorem ctx_modDrill (s : State) (k : Nat) (f : Drill → Drill) (j : Nat) : (s.modDrill k f).ctx? j = s.ctx? j := rfl
@[simp] theorem ctx_setGroup (s : State) (k : Nat) (g : Group) (j : Nat) : (s.setGroup k g).ctx? j = s.ctx? j := rfl
@[simp] theorem ctx_modGroup (s : State) (k : Nat) (f : Group → Group) (j : Nat) : (s.modGroup k f).ctx? j = s.ctx? j := rfl
@[simp] theorem ctx_modCtx (s : State) (k : Nat) (f : Context → Context) (j : Nat) : (s.modCtx k f).ctx? j = if k = j then (s.ctx? j).map f else s.ctx? j := tblGet?_mod _ _ _ _
@[simp] theorem ctx_setReg (s : State) (k : Nat) (v : DWord) (j : Nat) : (s.setReg k v).ctx? j = s.ctx? j := rfl
@[simp] theorem ctx_setCore (s : State) (k : Nat) (c : Core) (j : Nat) : (s.setCore k c).ctx? j = s.ctx? j := rfl
@[simp] theorem ctx_invalL1 (s : State) (k : Nat) (j : Nat) : (s.invalL1 k).ctx? j = s.ctx? j := rfl
@[simp] theorem ctx_setHart (s : State) (k : Nat) (h : Hart) (j : Nat) : (s.setHart k h).ctx? j = s.ctx? j := rfl
@[simp] theorem ctx_setQueue (s : State) (k : Nat) (q : Queue) (j : Nat) : (s.setQueue k q).ctx? j = s.ctx? j := rfl
@[simp] theorem ctx_setSysQ (s : State) (k : Nat) (l : List SysEntry) (j : Nat) : (s.setSysQ k l).ctx? j = s.ctx? j := rfl
@[simp] theorem ctx_setRec (s : State) (k n : Nat) (r : FaultRec) (j : Nat) : (s.setRec k n r).ctx? j = s.ctx? j := rfl
@[simp] theorem ctx_setStack (s : State) (k : Nat) (t : Stack) (j : Nat) : (s.setStack k t).ctx? j = s.ctx? j := rfl
@[simp] theorem ctx_setPlot (s : State) (k : Nat) (p : Plot) (j : Nat) : (s.setPlot k p).ctx? j = s.ctx? j := rfl
@[simp] theorem ctx_setLink (s : State) (k : Nat) (l : Link) (j : Nat) : (s.setLink k l).ctx? j = s.ctx? j := rfl
@[simp] theorem ctx_writeHome (s : State) (w : List (Nat × Byte)) (j : Nat) : (s.writeHome w).ctx? j = s.ctx? j := rfl
@[simp] theorem plot_setDrill (s : State) (k : Nat) (d : Drill) (j : Nat) : (s.setDrill k d).plot? j = s.plot? j := rfl
@[simp] theorem plot_modDrill (s : State) (k : Nat) (f : Drill → Drill) (j : Nat) : (s.modDrill k f).plot? j = s.plot? j := rfl
@[simp] theorem plot_setGroup (s : State) (k : Nat) (g : Group) (j : Nat) : (s.setGroup k g).plot? j = s.plot? j := rfl
@[simp] theorem plot_modGroup (s : State) (k : Nat) (f : Group → Group) (j : Nat) : (s.modGroup k f).plot? j = s.plot? j := rfl
@[simp] theorem plot_modCtx (s : State) (k : Nat) (f : Context → Context) (j : Nat) : (s.modCtx k f).plot? j = s.plot? j := rfl
@[simp] theorem plot_setReg (s : State) (k : Nat) (v : DWord) (j : Nat) : (s.setReg k v).plot? j = s.plot? j := rfl
@[simp] theorem plot_setCore (s : State) (k : Nat) (c : Core) (j : Nat) : (s.setCore k c).plot? j = s.plot? j := rfl
@[simp] theorem plot_invalL1 (s : State) (k : Nat) (j : Nat) : (s.invalL1 k).plot? j = s.plot? j := rfl
@[simp] theorem plot_setHart (s : State) (k : Nat) (h : Hart) (j : Nat) : (s.setHart k h).plot? j = s.plot? j := rfl
@[simp] theorem plot_setQueue (s : State) (k : Nat) (q : Queue) (j : Nat) : (s.setQueue k q).plot? j = s.plot? j := rfl
@[simp] theorem plot_setSysQ (s : State) (k : Nat) (l : List SysEntry) (j : Nat) : (s.setSysQ k l).plot? j = s.plot? j := rfl
@[simp] theorem plot_setRec (s : State) (k n : Nat) (r : FaultRec) (j : Nat) : (s.setRec k n r).plot? j = s.plot? j := rfl
@[simp] theorem plot_setStack (s : State) (k : Nat) (t : Stack) (j : Nat) : (s.setStack k t).plot? j = s.plot? j := rfl
@[simp] theorem plot_setPlot (s : State) (k : Nat) (p : Plot) (j : Nat) : (s.setPlot k p).plot? j = if k = j then some p else s.plot? j := tblGet?_set _ _ _ _
@[simp] theorem plot_setLink (s : State) (k : Nat) (l : Link) (j : Nat) : (s.setLink k l).plot? j = s.plot? j := rfl
@[simp] theorem plot_writeHome (s : State) (w : List (Nat × Byte)) (j : Nat) : (s.writeHome w).plot? j = s.plot? j := rfl
@[simp] theorem reg_setDrill (s : State) (k : Nat) (d : Drill) (j : Nat) : (s.setDrill k d).reg j = s.reg j := rfl
@[simp] theorem reg_modDrill (s : State) (k : Nat) (f : Drill → Drill) (j : Nat) : (s.modDrill k f).reg j = s.reg j := rfl
@[simp] theorem reg_setGroup (s : State) (k : Nat) (g : Group) (j : Nat) : (s.setGroup k g).reg j = s.reg j := rfl
@[simp] theorem reg_modGroup (s : State) (k : Nat) (f : Group → Group) (j : Nat) : (s.modGroup k f).reg j = s.reg j := rfl
@[simp] theorem reg_modCtx (s : State) (k : Nat) (f : Context → Context) (j : Nat) : (s.modCtx k f).reg j = s.reg j := rfl
@[simp] theorem reg_setReg (s : State) (k : Nat) (v : DWord) (j : Nat) : (s.setReg k v).reg j = if k = j then v else s.reg j := by
  simp only [State.reg, State.setReg, tblGet, tblGet?_set]; split <;> rfl
@[simp] theorem reg_setCore (s : State) (k : Nat) (c : Core) (j : Nat) : (s.setCore k c).reg j = s.reg j := rfl
@[simp] theorem reg_invalL1 (s : State) (k : Nat) (j : Nat) : (s.invalL1 k).reg j = s.reg j := rfl
@[simp] theorem reg_setHart (s : State) (k : Nat) (h : Hart) (j : Nat) : (s.setHart k h).reg j = s.reg j := rfl
@[simp] theorem reg_setQueue (s : State) (k : Nat) (q : Queue) (j : Nat) : (s.setQueue k q).reg j = s.reg j := rfl
@[simp] theorem reg_setSysQ (s : State) (k : Nat) (l : List SysEntry) (j : Nat) : (s.setSysQ k l).reg j = s.reg j := rfl
@[simp] theorem reg_setRec (s : State) (k n : Nat) (r : FaultRec) (j : Nat) : (s.setRec k n r).reg j = s.reg j := rfl
@[simp] theorem reg_setStack (s : State) (k : Nat) (t : Stack) (j : Nat) : (s.setStack k t).reg j = s.reg j := rfl
@[simp] theorem reg_setPlot (s : State) (k : Nat) (p : Plot) (j : Nat) : (s.setPlot k p).reg j = s.reg j := rfl
@[simp] theorem reg_setLink (s : State) (k : Nat) (l : Link) (j : Nat) : (s.setLink k l).reg j = s.reg j := rfl
@[simp] theorem reg_writeHome (s : State) (w : List (Nat × Byte)) (j : Nat) : (s.writeHome w).reg j = s.reg j := rfl
@[simp] theorem queue_setDrill (s : State) (k : Nat) (d : Drill) (j : Nat) : (s.setDrill k d).queue j = s.queue j := rfl
@[simp] theorem queue_modDrill (s : State) (k : Nat) (f : Drill → Drill) (j : Nat) : (s.modDrill k f).queue j = s.queue j := rfl
@[simp] theorem queue_setGroup (s : State) (k : Nat) (g : Group) (j : Nat) : (s.setGroup k g).queue j = s.queue j := rfl
@[simp] theorem queue_modGroup (s : State) (k : Nat) (f : Group → Group) (j : Nat) : (s.modGroup k f).queue j = s.queue j := rfl
@[simp] theorem queue_modCtx (s : State) (k : Nat) (f : Context → Context) (j : Nat) : (s.modCtx k f).queue j = s.queue j := rfl
@[simp] theorem queue_setReg (s : State) (k : Nat) (v : DWord) (j : Nat) : (s.setReg k v).queue j = s.queue j := rfl
@[simp] theorem queue_setCore (s : State) (k : Nat) (c : Core) (j : Nat) : (s.setCore k c).queue j = s.queue j := rfl
@[simp] theorem queue_invalL1 (s : State) (k : Nat) (j : Nat) : (s.invalL1 k).queue j = s.queue j := rfl
@[simp] theorem queue_setHart (s : State) (k : Nat) (h : Hart) (j : Nat) : (s.setHart k h).queue j = s.queue j := rfl
@[simp] theorem queue_setQueue (s : State) (k : Nat) (q : Queue) (j : Nat) : (s.setQueue k q).queue j = if k = j then q else s.queue j := by
  simp only [State.queue, State.setQueue, tblGet, tblGet?_set]; split <;> rfl
@[simp] theorem queue_setSysQ (s : State) (k : Nat) (l : List SysEntry) (j : Nat) : (s.setSysQ k l).queue j = s.queue j := rfl
@[simp] theorem queue_setRec (s : State) (k n : Nat) (r : FaultRec) (j : Nat) : (s.setRec k n r).queue j = s.queue j := rfl
@[simp] theorem queue_setStack (s : State) (k : Nat) (t : Stack) (j : Nat) : (s.setStack k t).queue j = s.queue j := rfl
@[simp] theorem queue_setPlot (s : State) (k : Nat) (p : Plot) (j : Nat) : (s.setPlot k p).queue j = s.queue j := rfl
@[simp] theorem queue_setLink (s : State) (k : Nat) (l : Link) (j : Nat) : (s.setLink k l).queue j = s.queue j := rfl
@[simp] theorem queue_writeHome (s : State) (w : List (Nat × Byte)) (j : Nat) : (s.writeHome w).queue j = s.queue j := rfl
@[simp] theorem stack_setDrill (s : State) (k : Nat) (d : Drill) (j : Nat) : (s.setDrill k d).stack j = s.stack j := rfl
@[simp] theorem stack_modDrill (s : State) (k : Nat) (f : Drill → Drill) (j : Nat) : (s.modDrill k f).stack j = s.stack j := rfl
@[simp] theorem stack_setGroup (s : State) (k : Nat) (g : Group) (j : Nat) : (s.setGroup k g).stack j = s.stack j := rfl
@[simp] theorem stack_modGroup (s : State) (k : Nat) (f : Group → Group) (j : Nat) : (s.modGroup k f).stack j = s.stack j := rfl
@[simp] theorem stack_modCtx (s : State) (k : Nat) (f : Context → Context) (j : Nat) : (s.modCtx k f).stack j = s.stack j := rfl
@[simp] theorem stack_setReg (s : State) (k : Nat) (v : DWord) (j : Nat) : (s.setReg k v).stack j = s.stack j := rfl
@[simp] theorem stack_setCore (s : State) (k : Nat) (c : Core) (j : Nat) : (s.setCore k c).stack j = s.stack j := rfl
@[simp] theorem stack_invalL1 (s : State) (k : Nat) (j : Nat) : (s.invalL1 k).stack j = s.stack j := rfl
@[simp] theorem stack_setHart (s : State) (k : Nat) (h : Hart) (j : Nat) : (s.setHart k h).stack j = s.stack j := rfl
@[simp] theorem stack_setQueue (s : State) (k : Nat) (q : Queue) (j : Nat) : (s.setQueue k q).stack j = s.stack j := rfl
@[simp] theorem stack_setSysQ (s : State) (k : Nat) (l : List SysEntry) (j : Nat) : (s.setSysQ k l).stack j = s.stack j := rfl
@[simp] theorem stack_setRec (s : State) (k n : Nat) (r : FaultRec) (j : Nat) : (s.setRec k n r).stack j = s.stack j := rfl
@[simp] theorem stack_setStack (s : State) (k : Nat) (t : Stack) (j : Nat) : (s.setStack k t).stack j = if k = j then t else s.stack j := by
  simp only [State.stack, State.setStack, tblGet, tblGet?_set]; split <;> rfl
@[simp] theorem stack_setPlot (s : State) (k : Nat) (p : Plot) (j : Nat) : (s.setPlot k p).stack j = s.stack j := rfl
@[simp] theorem stack_setLink (s : State) (k : Nat) (l : Link) (j : Nat) : (s.setLink k l).stack j = s.stack j := rfl
@[simp] theorem stack_writeHome (s : State) (w : List (Nat × Byte)) (j : Nat) : (s.writeHome w).stack j = s.stack j := rfl
@[simp] theorem link_setDrill (s : State) (k : Nat) (d : Drill) (j : Nat) : (s.setDrill k d).link j = s.link j := rfl
@[simp] theorem link_modDrill (s : State) (k : Nat) (f : Drill → Drill) (j : Nat) : (s.modDrill k f).link j = s.link j := rfl
@[simp] theorem link_setGroup (s : State) (k : Nat) (g : Group) (j : Nat) : (s.setGroup k g).link j = s.link j := rfl
@[simp] theorem link_modGroup (s : State) (k : Nat) (f : Group → Group) (j : Nat) : (s.modGroup k f).link j = s.link j := rfl
@[simp] theorem link_modCtx (s : State) (k : Nat) (f : Context → Context) (j : Nat) : (s.modCtx k f).link j = s.link j := rfl
@[simp] theorem link_setReg (s : State) (k : Nat) (v : DWord) (j : Nat) : (s.setReg k v).link j = s.link j := rfl
@[simp] theorem link_setCore (s : State) (k : Nat) (c : Core) (j : Nat) : (s.setCore k c).link j = s.link j := rfl
@[simp] theorem link_invalL1 (s : State) (k : Nat) (j : Nat) : (s.invalL1 k).link j = s.link j := rfl
@[simp] theorem link_setHart (s : State) (k : Nat) (h : Hart) (j : Nat) : (s.setHart k h).link j = s.link j := rfl
@[simp] theorem link_setQueue (s : State) (k : Nat) (q : Queue) (j : Nat) : (s.setQueue k q).link j = s.link j := rfl
@[simp] theorem link_setSysQ (s : State) (k : Nat) (l : List SysEntry) (j : Nat) : (s.setSysQ k l).link j = s.link j := rfl
@[simp] theorem link_setRec (s : State) (k n : Nat) (r : FaultRec) (j : Nat) : (s.setRec k n r).link j = s.link j := rfl
@[simp] theorem link_setStack (s : State) (k : Nat) (t : Stack) (j : Nat) : (s.setStack k t).link j = s.link j := rfl
@[simp] theorem link_setPlot (s : State) (k : Nat) (p : Plot) (j : Nat) : (s.setPlot k p).link j = s.link j := rfl
@[simp] theorem link_setLink (s : State) (k : Nat) (l : Link) (j : Nat) : (s.setLink k l).link j = if k = j then l else s.link j := by
  simp only [State.link, State.setLink, tblGet, tblGet?_set]; split <;> rfl
@[simp] theorem link_writeHome (s : State) (w : List (Nat × Byte)) (j : Nat) : (s.writeHome w).link j = s.link j := rfl
@[simp] theorem hart_setDrill (s : State) (k : Nat) (d : Drill) (j : Nat) : (s.setDrill k d).hart j = s.hart j := rfl
@[simp] theorem hart_modDrill (s : State) (k : Nat) (f : Drill → Drill) (j : Nat) : (s.modDrill k f).hart j = s.hart j := rfl
@[simp] theorem hart_setGroup (s : State) (k : Nat) (g : Group) (j : Nat) : (s.setGroup k g).hart j = s.hart j := rfl
@[simp] theorem hart_modGroup (s : State) (k : Nat) (f : Group → Group) (j : Nat) : (s.modGroup k f).hart j = s.hart j := rfl
@[simp] theorem hart_modCtx (s : State) (k : Nat) (f : Context → Context) (j : Nat) : (s.modCtx k f).hart j = s.hart j := rfl
@[simp] theorem hart_setReg (s : State) (k : Nat) (v : DWord) (j : Nat) : (s.setReg k v).hart j = s.hart j := rfl
@[simp] theorem hart_setCore (s : State) (k : Nat) (c : Core) (j : Nat) : (s.setCore k c).hart j = s.hart j := rfl
@[simp] theorem hart_invalL1 (s : State) (k : Nat) (j : Nat) : (s.invalL1 k).hart j = s.hart j := rfl
@[simp] theorem hart_setHart (s : State) (k : Nat) (h : Hart) (j : Nat) : (s.setHart k h).hart j = if k = j then h else s.hart j := by
  simp only [State.hart, State.setHart, tblGet, tblGet?_set]; split <;> rfl
@[simp] theorem hart_setQueue (s : State) (k : Nat) (q : Queue) (j : Nat) : (s.setQueue k q).hart j = s.hart j := rfl
@[simp] theorem hart_setSysQ (s : State) (k : Nat) (l : List SysEntry) (j : Nat) : (s.setSysQ k l).hart j = s.hart j := rfl
@[simp] theorem hart_setRec (s : State) (k n : Nat) (r : FaultRec) (j : Nat) : (s.setRec k n r).hart j = s.hart j := rfl
@[simp] theorem hart_setStack (s : State) (k : Nat) (t : Stack) (j : Nat) : (s.setStack k t).hart j = s.hart j := rfl
@[simp] theorem hart_setPlot (s : State) (k : Nat) (p : Plot) (j : Nat) : (s.setPlot k p).hart j = s.hart j := rfl
@[simp] theorem hart_setLink (s : State) (k : Nat) (l : Link) (j : Nat) : (s.setLink k l).hart j = s.hart j := rfl
@[simp] theorem hart_writeHome (s : State) (w : List (Nat × Byte)) (j : Nat) : (s.writeHome w).hart j = s.hart j := rfl
@[simp] theorem core_setDrill (s : State) (k : Nat) (d : Drill) (j : Nat) : (s.setDrill k d).core j = s.core j := rfl
@[simp] theorem core_modDrill (s : State) (k : Nat) (f : Drill → Drill) (j : Nat) : (s.modDrill k f).core j = s.core j := rfl
@[simp] theorem core_setGroup (s : State) (k : Nat) (g : Group) (j : Nat) : (s.setGroup k g).core j = s.core j := rfl
@[simp] theorem core_modGroup (s : State) (k : Nat) (f : Group → Group) (j : Nat) : (s.modGroup k f).core j = s.core j := rfl
@[simp] theorem core_modCtx (s : State) (k : Nat) (f : Context → Context) (j : Nat) : (s.modCtx k f).core j = s.core j := rfl
@[simp] theorem core_setReg (s : State) (k : Nat) (v : DWord) (j : Nat) : (s.setReg k v).core j = s.core j := rfl
@[simp] theorem core_setCore (s : State) (k : Nat) (c : Core) (j : Nat) : (s.setCore k c).core j = if k = j then c else s.core j := by
  simp only [State.core, State.setCore, tblGet, tblGet?_set]; split <;> rfl
@[simp] theorem core_setHart (s : State) (k : Nat) (h : Hart) (j : Nat) : (s.setHart k h).core j = s.core j := rfl
@[simp] theorem core_setQueue (s : State) (k : Nat) (q : Queue) (j : Nat) : (s.setQueue k q).core j = s.core j := rfl
@[simp] theorem core_setSysQ (s : State) (k : Nat) (l : List SysEntry) (j : Nat) : (s.setSysQ k l).core j = s.core j := rfl
@[simp] theorem core_setRec (s : State) (k n : Nat) (r : FaultRec) (j : Nat) : (s.setRec k n r).core j = s.core j := rfl
@[simp] theorem core_setStack (s : State) (k : Nat) (t : Stack) (j : Nat) : (s.setStack k t).core j = s.core j := rfl
@[simp] theorem core_setPlot (s : State) (k : Nat) (p : Plot) (j : Nat) : (s.setPlot k p).core j = s.core j := rfl
@[simp] theorem core_setLink (s : State) (k : Nat) (l : Link) (j : Nat) : (s.setLink k l).core j = s.core j := rfl
@[simp] theorem core_writeHome (s : State) (w : List (Nat × Byte)) (j : Nat) : (s.writeHome w).core j = s.core j := rfl
@[simp] theorem sysQ_setDrill (s : State) (k : Nat) (d : Drill) (j : Nat) : (s.setDrill k d).sysQ j = s.sysQ j := rfl
@[simp] theorem sysQ_modDrill (s : State) (k : Nat) (f : Drill → Drill) (j : Nat) : (s.modDrill k f).sysQ j = s.sysQ j := rfl
@[simp] theorem sysQ_setGroup (s : State) (k : Nat) (g : Group) (j : Nat) : (s.setGroup k g).sysQ j = s.sysQ j := rfl
@[simp] theorem sysQ_modGroup (s : State) (k : Nat) (f : Group → Group) (j : Nat) : (s.modGroup k f).sysQ j = s.sysQ j := rfl
@[simp] theorem sysQ_modCtx (s : State) (k : Nat) (f : Context → Context) (j : Nat) : (s.modCtx k f).sysQ j = s.sysQ j := rfl
@[simp] theorem sysQ_setReg (s : State) (k : Nat) (v : DWord) (j : Nat) : (s.setReg k v).sysQ j = s.sysQ j := rfl
@[simp] theorem sysQ_setCore (s : State) (k : Nat) (c : Core) (j : Nat) : (s.setCore k c).sysQ j = s.sysQ j := rfl
@[simp] theorem sysQ_invalL1 (s : State) (k : Nat) (j : Nat) : (s.invalL1 k).sysQ j = s.sysQ j := rfl
@[simp] theorem sysQ_setHart (s : State) (k : Nat) (h : Hart) (j : Nat) : (s.setHart k h).sysQ j = s.sysQ j := rfl
@[simp] theorem sysQ_setQueue (s : State) (k : Nat) (q : Queue) (j : Nat) : (s.setQueue k q).sysQ j = s.sysQ j := rfl
@[simp] theorem sysQ_setSysQ (s : State) (k : Nat) (l : List SysEntry) (j : Nat) : (s.setSysQ k l).sysQ j = if k = j then l else s.sysQ j := by
  simp only [State.sysQ, State.setSysQ, tblGet, tblGet?_set]; split <;> rfl
@[simp] theorem sysQ_setRec (s : State) (k n : Nat) (r : FaultRec) (j : Nat) : (s.setRec k n r).sysQ j = s.sysQ j := rfl
@[simp] theorem sysQ_setStack (s : State) (k : Nat) (t : Stack) (j : Nat) : (s.setStack k t).sysQ j = s.sysQ j := rfl
@[simp] theorem sysQ_setPlot (s : State) (k : Nat) (p : Plot) (j : Nat) : (s.setPlot k p).sysQ j = s.sysQ j := rfl
@[simp] theorem sysQ_setLink (s : State) (k : Nat) (l : Link) (j : Nat) : (s.setLink k l).sysQ j = s.sysQ j := rfl
@[simp] theorem sysQ_writeHome (s : State) (w : List (Nat × Byte)) (j : Nat) : (s.writeHome w).sysQ j = s.sysQ j := rfl

end Sys2Proof.Laws
end

