-- ==== Sys2Proof/Laws/Landing.lean ====
section
/-!
SUPPORT. What a landing can change (R74, R299): registers of its drill, tokens and GSAVE of its group, BUDGET of its context.
-/
namespace Sys2Proof.Laws
open Sys2Proof.Machine

/-- The state without its drills, groups and contexts. -/
def beyond (s : State) : State := { s with drills := [], groups := [], ctxs := [] }
/-- A drill without what a landing can change. -/
def still (d : Drill) : Drill :=
  { d with v := [], s := [], k := [], tiles := [], regPoison := [], latches := [], flg := [], rmode := 0, srstate := 0, mxbase := 0
           mxsl := 0, uiEn := false, uiAct := false, uiPend := 0, uiPi := false, uiPo := false, uivec := 0, uiepc := 0, xi := 0
           epc := 0, tcause := 0, tmask := 0, tval := 0, sb := [], pendTraps := [] }
/-- `t` differs from `s` by landings of drill `k` at most. -/
structure Landed (k : Nat) (s t : State) : Prop where
  beyond : beyond t = beyond s
  other : ∀ j, j ≠ k → t.drill? j = s.drill? j
  own : (t.drill? k).map still = (s.drill? k).map still
  others : ∀ d, s.drill? k = some d → ∀ n, n ≠ d.gid → t.group? n = s.group? n
  groups : ∀ g, (t.group? g).map stillGroup = (s.group? g).map stillGroup
  ctxs : ∀ n, (t.ctx? n).map stillCtx = (s.ctx? n).map stillCtx

theorem Landed_refl (k : Nat) (s : State) : Landed k s s := ⟨rfl, fun _ _ => rfl, rfl, fun _ _ _ _ => rfl, fun _ => rfl, fun _ => rfl⟩
theorem still_gid {d d' : Drill} (h : still d' = still d) : d'.gid = d.gid := by
  have := congrArg Drill.gid h
  exact this
/-- What a drill shows that no landing changes. -/
theorem Landed_get {k : Nat} {s t : State} (h : Landed k s t) {d : Drill} (hd : s.drill? k = some d) :
    ∃ d', t.drill? k = some d' ∧ still d' = still d := by
  have := h.own
  rw [hd] at this
  cases ht : t.drill? k with
  | none => simp [ht] at this
  | some d' => exact ⟨d', rfl, by simpa [ht] using this⟩
theorem Landed_trans {k : Nat} {s t u : State} (h : Landed k s t) (g : Landed k t u) : Landed k s u :=
  ⟨g.beyond.trans h.beyond, fun j hj => (g.other j hj).trans (h.other j hj), g.own.trans h.own,
   fun d hd n hn => by
    obtain ⟨d', h1, h2⟩ := Landed_get h hd
    exact (g.others d' h1 n (by rwa [still_gid h2])).trans (h.others d hd n hn),
   fun n => (g.groups n).trans (h.groups n), fun n => (g.ctxs n).trans (h.ctxs n)⟩

/-- Changing the drill's own record by a function that keeps what is still. -/
theorem Landed_modDrill {k : Nat} (s : State) {f : Drill → Drill} (h : ∀ d, still (f d) = still d) : Landed k s (s.modDrill k f) := by
  refine ⟨rfl, fun j hj => by simp [Ne.symm hj], ?_, fun _ _ _ _ => rfl, fun _ => rfl, fun _ => rfl⟩
  cases hd : s.drill? k <;> simp [hd, h]
theorem Landed_modGroup {k : Nat} {s : State} {d : Drill} (hd : s.drill? k = some d) {f : Group → Group}
    (h : ∀ g, stillGroup (f g) = stillGroup g) : Landed k s (s.modGroup d.gid f) := by
  refine ⟨rfl, fun _ _ => rfl, rfl, fun e he n hn => ?_, fun j => ?_, fun _ => rfl⟩
  · obtain rfl : d = e := by simpa [hd] using he
    simp [Ne.symm hn]
  · by_cases hj : d.gid = j
    · subst hj; cases hg : s.group? d.gid <;> simp [hg, h]
    · simp [hj]
theorem Landed_modCtx {k : Nat} (s : State) (n : Nat) {f : Context → Context} (h : ∀ c, stillCtx (f c) = stillCtx c) :
    Landed k s (s.modCtx n f) := by
  refine ⟨rfl, fun _ _ => rfl, rfl, fun _ _ _ _ => rfl, fun _ => rfl, fun j => ?_⟩
  by_cases hj : n = j
  · subst hj; cases hg : s.ctx? n <;> simp [hg, h]
  · simp [hj]
theorem Landed_setDrill {k : Nat} {s : State} {d d' : Drill} (hd : s.drill? k = some d) (h : still d' = still d) :
    Landed k s (s.setDrill k d') := by
  refine ⟨rfl, fun j hj => by simp [Ne.symm hj], by simp [hd, h], fun _ _ _ _ => rfl, fun _ => rfl, fun _ => rfl⟩
theorem Landed_setGroup {k : Nat} {s : State} {d : Drill} {g g' : Group} (hd : s.drill? k = some d)
    (hg : s.group? d.gid = some g) (h : stillGroup g' = stillGroup g) : Landed k s (s.setGroup d.gid g') := by
  refine ⟨rfl, fun _ _ => rfl, rfl, fun e he n hn => ?_, fun j => ?_, fun _ => rfl⟩
  · obtain rfl : d = e := by simpa [hd] using he
    simp [Ne.symm hn]
  · by_cases hj : d.gid = j
    · subst hj; simp [hg, h]
    · simp [hj]

theorem still_clearSlot (d : Drill) (n : Nat) : still (d.clearSlot n) = still d := by unfold Drill.clearSlot; split <;> rfl
theorem still_addTrap (d : Drill) (c u n : Nat) : still (d.addTrap c u n) = still d := by unfold Drill.addTrap; split <;> rfl

/-- The completion of an instruction (R77, R82). -/
theorem Landed_complete (s : State) (k slot : Nat) (tk1 : BitVec 4) : Landed k s (s.complete k slot tk1) := by
  have h1 : Landed k s (s.modDrill k (·.clearSlot slot)) := Landed_modDrill s fun d => still_clearSlot d slot
  simp only [State.complete]
  split
  · exact h1
  · refine Landed_trans h1 ?_
    split
    · exact Landed_refl _ _
    · rename_i d hd
      split
      · exact Landed_refl _ _
      · rename_i g hg
        split
        · refine Landed_trans ?_ (Landed_modDrill _ fun d => still_addTrap d _ _ _)
          exact Landed_setGroup hd hg rfl
        · exact Landed_setGroup hd hg rfl

theorem still_putV (d : Drill) (r : Nat) (m : Mask) (x : Lanes) : still (d.putV r m x) = still d := rfl
theorem still_putVs (d : Drill) (r : Nat) (m : Mask) (xs : List Lanes) : still (d.putVs r m xs) = still d := by
  induction xs generalizing d r with
  | nil => rfl
  | cons x xs ih => exact ih _ _
theorem still_putS (d : Drill) (r : Nat) (x : Word) : still (d.putS r x) = still d := rfl
theorem still_putK (d : Drill) (n : Nat) (m x : Mask) : still (d.putK n m x) = still d := by unfold Drill.putK; split <;> rfl
theorem still_unmark (d : Drill) (a n : Nat) : still (d.unmark a n) = still d := rfl
theorem still_putLatch (d : Drill) (n : Nat) (m : Mask) (x : Lanes) : still (d.putLatch n m x) = still d := rfl
theorem still_orFlags (d : Drill) (l : List (Nat × BitVec 5)) : still (d.orFlags l) = still d := rfl
theorem still_landReg (d : Drill) (x : Landing) : still (d.landReg x) = still d := by
  unfold Drill.landReg
  split
  · dsimp only; split <;> simp [still_unmark, still_putVs]
  · split
    · rfl
    · dsimp only; split <;> rfl
  · exact still_putK _ _ _ _
  · rfl
  · dsimp only; split <;> rfl
  · rfl
  · rfl
theorem still_landLatch (d : Drill) (x : Landing) : still (d.landLatch x) = still d := by
  unfold Drill.landLatch
  split
  · rfl
  · split
    · rfl
    · split <;> rfl
theorem still_ite {c : Prop} [Decidable c] {a b d : Drill} (ha : still a = still d) (hb : still b = still d) :
    still (if c then a else b) = still d := by split <;> assumption
theorem still_sysWrite (d : Drill) (n : Nat) (b : Bool) (m : Mask) (v : DLanes) : still (d.sysWrite n b m v) = still d := by
  unfold Drill.sysWrite
  dsimp only
  repeat' refine still_ite ?_ ?_
  all_goals simp only [still, Drill.putS]

/-- The write of a system register (R299, R301). -/
theorem Landed_sysWrite (s : State) (k n : Nat) (b : Bool) (m : Mask) (v : DLanes) : Landed k s (s.sysWrite k n b m v) := by
  unfold State.sysWrite
  split
  · exact Landed_refl _ _
  · rename_i d hd
    dsimp only
    split
    · exact Landed_modGroup hd fun _ => by simp only [stillGroup]
    split
    · exact Landed_modGroup hd fun _ => by simp only [stillGroup]
    split
    · exact Landed_modGroup hd fun _ => by simp only [stillGroup]
    split
    · split
      · exact Landed_refl _ _
      · exact Landed_modCtx _ _ fun _ => by simp only [stillCtx]
    split
    · split
      · exact Landed_refl _ _
      · exact Landed_modCtx _ _ fun _ => by simp only [stillCtx]
    · exact Landed_setDrill hd (still_sysWrite _ _ _ _ _)

/-- One landing (R74). -/
theorem Landed_landOne (s : State) (k : Nat) (x : Landing) : Landed k s (s.landOne k x) := by
  unfold State.landOne
  refine Landed_trans ?_ (Landed_complete _ _ _ _)
  split
  · exact Landed_sysWrite _ _ _ _ _ _
  · refine Landed_modDrill s fun d => ?_
    rw [still_orFlags, still_landLatch]
    split
    · rfl
    · exact still_landReg _ _
theorem Landed_foldLand (l : List Landing) (s : State) (k : Nat) : Landed k s (l.foldl (fun s x => s.landOne k x) s) := by
  induction l generalizing s with
  | nil => exact Landed_refl _ _
  | cons x r ih => exact Landed_trans (Landed_landOne s k x) (ih _)

/-- The landing count advances (R74): what is due lands, what is not stays pending, nothing else changes. -/
theorem advance_spec {s : State} {k : Nat} {d : Drill} (hd : s.drill? k = some d) :
    ∃ d', (s.advance k).drill? k = some d' ∧
      still d' = still { d with n := d.n + 1, landings := d.landings.filter fun x => decide (d.n + 1 < x.due) } ∧
      beyond (s.advance k) = beyond s ∧ (∀ j, j ≠ k → (s.advance k).drill? j = s.drill? j) ∧
      (∀ g, ((s.advance k).group? g).map stillGroup = (s.group? g).map stillGroup) ∧
      (∀ n, ((s.advance k).ctx? n).map stillCtx = (s.ctx? n).map stillCtx) := by
  simp only [State.advance, hd]
  have L := Landed_foldLand
    ((d.landings.filter fun x => decide (x.due ≤ d.n + 1)).filter isFlagWrite ++ (d.landings.filter fun x => decide (x.due ≤ d.n + 1)).filter fun x => !isFlagWrite x)
    (s.setDrill k { d with n := d.n + 1, landings := d.landings.filter fun x => decide (d.n + 1 < x.due) }) k
  obtain ⟨d', h1, h2⟩ := Landed_get L (d := { d with n := d.n + 1, landings := d.landings.filter fun x => decide (d.n + 1 < x.due) }) (by simp)
  exact ⟨d', h1, h2, L.beyond.trans rfl, fun j hj => (L.other j hj).trans (by simp [Ne.symm hj]), fun g => L.groups g, fun n => L.ctxs n⟩

end Sys2Proof.Laws
end

