-- ==== Sys2Proof/Laws/Registers.lean ====
section
/-!
SUPPORT. What landings leave as it is, register by register (R74, R301).
-/
namespace Sys2Proof.Laws
open Sys2Proof.Machine

/-- A drill without its scoreboard and pending traps, which a completion changes. -/
def inner (d : Drill) : Drill := { d with sb := [], pendTraps := [] }

theorem inner_clearSlot (d : Drill) (n : Nat) : inner (d.clearSlot n) = inner d := by unfold Drill.clearSlot; split <;> rfl
theorem inner_addTrap (d : Drill) (c u n : Nat) : inner (d.addTrap c u n) = inner d := by unfold Drill.addTrap; split <;> rfl

/-- Landings `l` bring drill `d` of `s` to `d'` of `t`: each register that none of them writes is as it was. -/
structure Effect (l : List Landing) (k : Nat) (s t : State) (d d' : Drill) : Prop where
  before : s.drill? k = some d
  after : t.drill? k = some d'
  landed : Landed k s t
  still : still d' = still d
  tokens : (∀ y ∈ l, y.tk1 = 0 ∧ writesSys y = false) → t.groups = s.groups
  budgets : (∀ y ∈ l, writesSys y = false) → t.ctxs = s.ctxs
  vectors : ∀ r, (∀ y ∈ l, writesV y r = false) → d'.vAt r = d.vAt r
  uniforms : ∀ r, (∀ y ∈ l, writesS y r = false) → d'.sAt r = d.sAt r
  predicates : ∀ r, (∀ y ∈ l, writesK y r = false) → d'.kAt r = d.kAt r
  flags : (∀ y ∈ l, writesFlags y = false) → d'.flg = d.flg
  tiles : (∀ y ∈ l, writesTile y = false) → d'.tiles = d.tiles
  scale : (∀ y ∈ l, writesScale y = false) → d'.mxsl = d.mxsl
  system : (∀ y ∈ l, writesSys y = false) →
    (d'.rmode, d'.srstate, d'.mxbase, d'.uiEn, d'.uiAct, d'.uiPend, d'.uiPi, d'.uiPo, d'.uivec, d'.uiepc) =
      (d.rmode, d.srstate, d.mxbase, d.uiEn, d.uiAct, d.uiPend, d.uiPi, d.uiPo, d.uivec, d.uiepc) ∧
    (d'.xi, d'.epc, d'.tcause, d'.tval, d'.tmask) = (d.xi, d.epc, d.tcause, d.tval, d.tmask)

theorem Effect_refl {k : Nat} {s : State} {d : Drill} (hd : s.drill? k = some d) : Effect [] k s s d d :=
  ⟨hd, hd, Landed_refl k s, rfl, fun _ => rfl, fun _ => rfl, fun _ _ => rfl, fun _ _ => rfl, fun _ _ => rfl, fun _ => rfl,
   fun _ => rfl, fun _ => rfl, fun _ => ⟨rfl, rfl⟩⟩

theorem Effect_trans {l m : List Landing} {k : Nat} {s t u : State} {d e f : Drill} (h : Effect l k s t d e)
    (g : Effect m k t u e f) : Effect (l ++ m) k s u d f where
  before := h.before
  after := g.after
  landed := Landed_trans h.landed g.landed
  still := g.still.trans h.still
  tokens := fun p => (g.tokens fun y hy => p y (by simp [hy])).trans (h.tokens fun y hy => p y (by simp [hy]))
  budgets := fun p => (g.budgets fun y hy => p y (by simp [hy])).trans (h.budgets fun y hy => p y (by simp [hy]))
  vectors := fun r p => (g.vectors r fun y hy => p y (by simp [hy])).trans (h.vectors r fun y hy => p y (by simp [hy]))
  uniforms := fun r p => (g.uniforms r fun y hy => p y (by simp [hy])).trans (h.uniforms r fun y hy => p y (by simp [hy]))
  predicates := fun r p => (g.predicates r fun y hy => p y (by simp [hy])).trans (h.predicates r fun y hy => p y (by simp [hy]))
  flags := fun p => (g.flags fun y hy => p y (by simp [hy])).trans (h.flags fun y hy => p y (by simp [hy]))
  tiles := fun p => (g.tiles fun y hy => p y (by simp [hy])).trans (h.tiles fun y hy => p y (by simp [hy]))
  scale := fun p => (g.scale fun y hy => p y (by simp [hy])).trans (h.scale fun y hy => p y (by simp [hy]))
  system := fun p => by
    have a := g.system fun y hy => p y (by simp [hy])
    have b := h.system fun y hy => p y (by simp [hy])
    exact ⟨a.1.trans b.1, a.2.trans b.2⟩

/-- The completion of an instruction changes no register (R77, R82). -/
theorem complete_spec {s : State} {k : Nat} {d : Drill} (hd : s.drill? k = some d) (slot : Nat) (tk1 : BitVec 4) :
    ∃ d', (s.complete k slot tk1).drill? k = some d' ∧ inner d' = inner d ∧
      (s.complete k slot tk1).ctxs = s.ctxs ∧ (tk1 = 0 → (s.complete k slot tk1).groups = s.groups) := by
  simp only [State.complete]
  split
  · exact ⟨d.clearSlot slot, by simp [hd], inner_clearSlot _ _, rfl, fun _ => rfl⟩
  · rename_i h0
    have h1 : (s.modDrill k fun x => x.clearSlot slot).drill? k = some (d.clearSlot slot) := by simp [hd]
    split
    · rename_i e; rw [h1] at e; cases e
    · rename_i e he
      obtain rfl : d.clearSlot slot = e := by rw [h1] at he; exact Option.some.inj he
      split
      · exact ⟨_, h1, inner_clearSlot _ _, rfl, fun h => absurd h h0⟩
      · split
        · refine ⟨(d.clearSlot slot).addTrap 0x16 0 2, ?_, ?_, rfl, fun h => absurd h h0⟩
          · simp [hd]
          · rw [inner_addTrap, inner_clearSlot]
        · exact ⟨d.clearSlot slot, by simp [hd], inner_clearSlot _ _, rfl, fun h => absurd h h0⟩

theorem inner_v {d e : Drill} (h : inner d = inner e) : d.v = e.v := by have := congrArg Drill.v h; exact this
theorem inner_s {d e : Drill} (h : inner d = inner e) : d.s = e.s := by have := congrArg Drill.s h; exact this
theorem inner_k {d e : Drill} (h : inner d = inner e) : d.k = e.k := by have := congrArg Drill.k h; exact this

theorem putVs_eq (d : Drill) (r : Nat) (m : Mask) (xs : List Lanes) : d.putVs r m xs = { d with v := (d.putVs r m xs).v } := by
  induction xs generalizing d r with
  | nil => rfl
  | cons x xs ih => simp only [Drill.putVs]; rw [ih]; rfl
theorem vAt_putV (d : Drill) (r q : Nat) (m : Mask) (x : Lanes) :
    (d.putV r m x).vAt q = if r = q then merge m x (d.vAt r) else d.vAt q := by
  simp only [Drill.putV, Drill.vAt, tblGet, tblGet?_set]
  split <;> rfl
theorem vAt_putVs (d : Drill) (r q : Nat) (m : Mask) (xs : List Lanes) (h : q < r ∨ r + xs.length ≤ q) :
    (d.putVs r m xs).vAt q = d.vAt q := by
  induction xs generalizing d r with
  | nil => rfl
  | cons x xs ih =>
    simp only [List.length_cons] at h
    simp only [Drill.putVs]
    rw [ih _ _ (by omega), vAt_putV, if_neg (by omega)]
theorem sAt_putS (d : Drill) (r q : Nat) (x : Word) : (d.putS r x).sAt q = if r = q then x else d.sAt q := by
  simp only [Drill.putS, Drill.sAt, tblGet, tblGet?_set]
  split <;> rfl
theorem kAt_putK (d : Drill) (n q : Nat) (m x : Mask) (h : n ≠ q) : (d.putK n m x).kAt q = d.kAt q := by
  unfold Drill.putK
  split
  · rfl
  · simp [Drill.kAt, tblGet, h]

/-- A drill without its vector, uniform and predicate registers, tiles, MXSL and the marks of SRAM errors. -/
def bare (d : Drill) : Drill := { d with v := [], s := [], k := [], tiles := [], mxsl := 0, regPoison := [] }

theorem bare_putVs (d : Drill) (r : Nat) (m : Mask) (xs : List Lanes) : bare (d.putVs r m xs) = bare d := by rw [putVs_eq]; rfl
theorem bare_putK (d : Drill) (n : Nat) (m x : Mask) : bare (d.putK n m x) = bare d := by unfold Drill.putK; split <;> rfl

theorem bare_unmark (d : Drill) (a n : Nat) : bare (d.unmark a n) = bare d := rfl
theorem bare_putS (d : Drill) (r : Nat) (x : Word) : bare (d.putS r x) = bare d := rfl
/-- Writing one or two uniform registers. -/
def putU (d : Drill) (q n : Nat) (x y : Word) : Drill := if n = 2 then (d.putS q x).putS (q + 1) y else d.putS q x
theorem putU_spec (d e : Drill) (q n : Nat) (x y : Word) (hb : bare e = bare d) (hv : e.v = d.v) (hs : e.s = d.s) (hk : e.k = d.k)
    (ht : e.tiles = d.tiles) (hm : e.mxsl = d.mxsl) :
    bare (putU e q n x y) = bare d ∧ (putU e q n x y).v = d.v ∧ (putU e q n x y).k = d.k ∧ (putU e q n x y).tiles = d.tiles ∧
      (putU e q n x y).mxsl = d.mxsl ∧ ∀ r, (r < q ∨ q + max n 1 ≤ r) → (putU e q n x y).sAt r = d.sAt r := by
  unfold putU
  split
  · refine ⟨by rw [bare_putS, bare_putS, hb], hv, hk, ht, hm, fun r h => ?_⟩
    rw [sAt_putS, sAt_putS, if_neg (by omega), if_neg (by omega)]
    simp only [Drill.sAt, hs]
  · refine ⟨by rw [bare_putS, hb], hv, hk, ht, hm, fun r h => ?_⟩
    rw [sAt_putS, if_neg (by omega)]
    simp only [Drill.sAt, hs]
theorem landReg_uni (d : Drill) (due q n : Nat) (latch : Option Nat) (mask : Mask) (val : DLanes) (flags : List (Nat × BitVec 5))
    (swath slot : Nat) (tk1 : BitVec 4) :
    let x : Landing := ⟨due, .uni q n, false, latch, mask, val, flags, swath, slot, tk1⟩
    bare (d.landReg x) = bare d ∧ (∀ r, writesV x r = false → (d.landReg x).vAt r = d.vAt r) ∧
    (∀ r, writesS x r = false → (d.landReg x).sAt r = d.sAt r) ∧ (∀ r, writesK x r = false → (d.landReg x).kAt r = d.kAt r) ∧
    (writesTile x = false → (d.landReg x).tiles = d.tiles) ∧ (writesScale x = false → (d.landReg x).mxsl = d.mxsl) := by
  intro x
  by_cases hm : mask = 0
  · have : d.landReg x = d := by simp only [Drill.landReg, x, hm, if_true]
    rw [this]
    exact ⟨rfl, fun _ _ => rfl, fun _ _ => rfl, fun _ _ => rfl, fun _ => rfl, fun _ => rfl⟩
  · have key : d.landReg x = putU (d.unmark (sMark q) n) q n (lane (loHalf val) 0) (lane (hiHalf val) 0) := by
      simp only [Drill.landReg, x, hm, if_false, putU]
    obtain ⟨h1, h2, h3, h4, h5, h6⟩ := putU_spec d (d.unmark (sMark q) n) q n (lane (loHalf val) 0)
      (lane (hiHalf val) 0) (bare_unmark _ _ _) rfl rfl rfl rfl rfl
    rw [key]
    refine ⟨h1, fun r _ => by simp only [Drill.vAt, h2], fun r h => h6 r ?_, fun r _ => by simp only [Drill.kAt, h3], fun _ => h4, fun _ => h5⟩
    simp only [x, writesS, Bool.not_false, Bool.true_and, Bool.and_eq_false_iff, decide_eq_false_iff_not] at h
    omega

/-- What the register write of a landing leaves. -/
theorem landReg_spec (d : Drill) (x : Landing) (hx : x.noReg = false) :
    bare (d.landReg x) = bare d ∧ (∀ r, writesV x r = false → (d.landReg x).vAt r = d.vAt r) ∧
    (∀ r, writesS x r = false → (d.landReg x).sAt r = d.sAt r) ∧ (∀ r, writesK x r = false → (d.landReg x).kAt r = d.kAt r) ∧
    (writesTile x = false → (d.landReg x).tiles = d.tiles) ∧ (writesScale x = false → (d.landReg x).mxsl = d.mxsl) := by
  obtain ⟨due, into, noReg, latch, mask, val, flags, swath, slot, tk1⟩ := x
  cases into with
  | vec q n =>
    have key : ∀ e : Drill, e = d.putVs q mask (words n val) →
        bare e = bare d ∧ (∀ r, writesV ⟨due, .vec q n, noReg, latch, mask, val, flags, swath, slot, tk1⟩ r = false → e.vAt r = d.vAt r) ∧
        e.s = d.s ∧ e.k = d.k ∧ e.tiles = d.tiles ∧ e.mxsl = d.mxsl := by
      rintro e rfl
      refine ⟨bare_putVs _ _ _ _, fun r h => ?_, by rw [putVs_eq], by rw [putVs_eq], by rw [putVs_eq], by rw [putVs_eq]⟩
      refine vAt_putVs _ _ _ _ _ ?_
      simp only [writesV] at h hx
      simp only [hx, Bool.not_false, Bool.true_and, Bool.and_eq_false_iff, decide_eq_false_iff_not] at h
      have : (words n val).length ≤ max n 1 := by unfold words; split <;> simp_all
      omega
    obtain ⟨h1, h2, h3, h4, h5, h6⟩ := key _ rfl
    simp only [Drill.landReg]
    split
    · exact ⟨h1, h2, fun r _ => by simp [Drill.sAt, Drill.unmark, h3], fun r _ => by simp [Drill.kAt, Drill.unmark, h4],
        fun _ => h5, fun _ => h6⟩
    · exact ⟨h1, h2, fun r _ => by simp [Drill.sAt, h3], fun r _ => by simp [Drill.kAt, h4], fun _ => h5, fun _ => h6⟩
  | uni q n => simp only at hx; subst hx; exact landReg_uni d due q n latch mask val flags swath slot tk1
  | pred q =>
    simp only [Drill.landReg]
    refine ⟨bare_putK _ _ _ _, fun r _ => ?_, fun r _ => ?_, fun r h => ?_, fun _ => ?_, fun _ => ?_⟩
    · unfold Drill.putK; split <;> rfl
    · unfold Drill.putK; split <;> rfl
    · simp only at hx
      subst hx
      refine kAt_putK _ _ _ _ _ ?_
      simpa [writesK] using h
    · unfold Drill.putK; split <;> rfl
    · unfold Drill.putK; split <;> rfl
  | sys m b => exact ⟨rfl, fun _ _ => rfl, fun _ _ => rfl, fun _ _ => rfl, fun _ => rfl, fun _ => rfl⟩
  | nothing => exact ⟨rfl, fun _ _ => rfl, fun _ _ => rfl, fun _ _ => rfl, fun _ => rfl, fun _ => rfl⟩
  | scale =>
    refine ⟨rfl, fun _ _ => rfl, fun _ _ => rfl, fun _ _ => rfl, fun _ => rfl, fun h => ?_⟩
    simp only at hx
    simp [writesScale, hx] at h
  | tile a b c e =>
    refine ⟨?_, fun _ _ => ?_, fun _ _ => ?_, fun _ _ => ?_, fun h => ?_, fun _ => ?_⟩
    any_goals (simp only [Drill.landReg, Option.isSome]; split <;> rfl)
    simp only at hx
    simp [writesTile, hx] at h

/-- A drill without its latches and flags. -/
def dry (d : Drill) : Drill := { d with latches := [], flg := [] }
theorem dry_landLatch (d : Drill) (x : Landing) : dry (d.landLatch x) = dry d ∧ (d.landLatch x).flg = d.flg := by
  unfold Drill.landLatch
  split
  · exact ⟨rfl, rfl⟩
  · split
    · exact ⟨rfl, rfl⟩
    · split <;> exact ⟨rfl, rfl⟩
theorem dry_orFlags (d : Drill) (l : List (Nat × BitVec 5)) : dry (d.orFlags l) = dry d := rfl

/-- What a landing leaves of its drill, unless it writes a system register. -/
theorem landDrill_spec (d : Drill) (x : Landing) :
    let e := ((if x.noReg then d else d.landReg x).landLatch x).orFlags x.flags
    (∀ r, writesV x r = false → e.vAt r = d.vAt r) ∧ (writesSys x = false → ∀ r, writesS x r = false → e.sAt r = d.sAt r) ∧
    (∀ r, writesK x r = false → e.kAt r = d.kAt r) ∧ (writesFlags x = false → e.flg = d.flg) ∧
    (writesTile x = false → e.tiles = d.tiles) ∧ (writesScale x = false → e.mxsl = d.mxsl) ∧
    (e.rmode, e.srstate, e.mxbase, e.uiEn, e.uiAct, e.uiPend, e.uiPi, e.uiPo, e.uivec, e.uiepc) =
      (d.rmode, d.srstate, d.mxbase, d.uiEn, d.uiAct, d.uiPend, d.uiPi, d.uiPo, d.uivec, d.uiepc) ∧
    (e.xi, e.epc, e.tcause, e.tval, e.tmask) = (d.xi, d.epc, d.tcause, d.tval, d.tmask) := by
  intro e
  have h0 : ∃ c, c = (if x.noReg then d else d.landReg x) ∧ bare c = bare d ∧ (∀ r, writesV x r = false → c.vAt r = d.vAt r) ∧
      (writesSys x = false → ∀ r, writesS x r = false → c.sAt r = d.sAt r) ∧ (∀ r, writesK x r = false → c.kAt r = d.kAt r) ∧
      (writesTile x = false → c.tiles = d.tiles) ∧ (writesScale x = false → c.mxsl = d.mxsl) := by
    refine ⟨_, rfl, ?_⟩
    cases hx : x.noReg
    · obtain ⟨h1, h2, h3, h4, h5, h6⟩ := landReg_spec d x hx
      exact ⟨h1, h2, fun _ => h3, h4, h5, h6⟩
    · exact ⟨rfl, fun _ _ => rfl, fun _ _ _ => rfl, fun _ _ => rfl, fun _ => rfl, fun _ => rfl⟩
  obtain ⟨c, hc, hb, hv, hs, hk, ht, hm⟩ := h0
  obtain ⟨hl, hf⟩ := dry_landLatch c x
  have he : e = (c.landLatch x).orFlags x.flags := by rw [hc]
  have hd : dry e = dry c := by rw [he, dry_orFlags, hl]
  have v1 : e.v = c.v := by have := congrArg Drill.v hd; exact this
  have s1 : e.s = c.s := by have := congrArg Drill.s hd; exact this
  have k1 : e.k = c.k := by have := congrArg Drill.k hd; exact this
  have t1 : e.tiles = c.tiles := by have := congrArg Drill.tiles hd; exact this
  have m1 : e.mxsl = c.mxsl := by have := congrArg Drill.mxsl hd; exact this
  refine ⟨fun r h => ?_, fun h0 r h => ?_, fun r h => ?_, fun h => ?_, fun h => t1.trans (ht h), fun h => m1.trans (hm h), ?_, ?_⟩
  · rw [← hv r h]; simp only [Drill.vAt, v1]
  · rw [← hs h0 r h]; simp only [Drill.sAt, s1]
  · rw [← hk r h]; simp only [Drill.kAt, k1]
  · have hfl : x.flags = [] := by simp [writesFlags] at h; exact h.1
    have f2 : c.flg = d.flg := by have := congrArg Drill.flg hb; exact this
    rw [he, hfl, ← f2, ← hf]; rfl
  · have a := congrArg (fun d : Drill => (d.rmode, d.srstate, d.mxbase, d.uiEn, d.uiAct, d.uiPend, d.uiPi, d.uiPo, d.uivec, d.uiepc)) hd
    have b := congrArg (fun d : Drill => (d.rmode, d.srstate, d.mxbase, d.uiEn, d.uiAct, d.uiPend, d.uiPi, d.uiPo, d.uivec, d.uiepc)) hb
    exact a.trans b
  · have a := congrArg (fun d : Drill => (d.xi, d.epc, d.tcause, d.tval, d.tmask)) hd
    have b := congrArg (fun d : Drill => (d.xi, d.epc, d.tcause, d.tval, d.tmask)) hb
    exact a.trans b

/-- What SWR's landing leaves of the registers. -/
theorem swrDrill_spec (d : Drill) (n : Nat) (b : Bool) (m : Mask) (v : DLanes) :
    (d.sysWrite n b m v).v = d.v ∧ (d.sysWrite n b m v).k = d.k ∧
    ∀ r, (0x30 ≤ n && n < 0x38 && decide (r = 64 + (n - 0x30))) = false → (d.sysWrite n b m v).sAt r = d.sAt r := by
  let P : Drill → Prop := fun e => e.v = d.v ∧ e.k = d.k ∧
    ∀ r, (0x30 ≤ n && n < 0x38 && decide (r = 64 + (n - 0x30))) = false → e.sAt r = d.sAt r
  have key : ∀ {c : Prop} [Decidable c] {x y : Drill}, (c → P x) → (¬c → P y) → P (if c then x else y) := by
    intro c _ x y h g; split <;> [exact h ‹_›; exact g ‹_›]
  have plain : ∀ e : Drill, e.v = d.v → e.k = d.k → e.s = d.s → P e := by
    intro e h1 h2 h3
    exact ⟨h1, h2, fun r _ => by simp only [Drill.sAt, h3]⟩
  show P _
  unfold Drill.sysWrite
  dsimp only
  refine key (fun _ => plain _ rfl rfl rfl) fun _ => ?_
  refine key (fun _ => key (fun _ => plain _ rfl rfl rfl) fun _ => plain _ rfl rfl rfl) fun _ => ?_
  iterate 3 refine key (fun _ => plain _ rfl rfl rfl) fun _ => ?_
  refine key (fun _ => key (fun _ => plain _ rfl rfl rfl) fun _ => plain _ rfl rfl rfl) fun _ => ?_
  iterate 13 refine key (fun _ => plain _ rfl rfl rfl) fun _ => ?_
  refine key (fun _ => plain _ rfl rfl rfl) fun _ => ?_
  refine key (fun hn => ⟨rfl, rfl, fun r hr => ?_⟩) fun _ => plain _ rfl rfl rfl
  rw [sAt_putS, if_neg]
  rintro rfl
  simp at hr
  omega

/-- ONE LANDING (R74). -/
theorem Effect_landOne {s : State} {k : Nat} {d : Drill} (hd : s.drill? k = some d) (x : Landing) :
    ∃ d', Effect [x] k s (s.landOne k x) d d' := by
  have hL := Landed_landOne s k x
  obtain ⟨d', h1, h2⟩ := Landed_get hL hd
  refine ⟨d', ?_⟩
  by_cases hx : writesSys x = true
  · obtain ⟨due, into, noReg, latch, mask, val, flags, swath, slot, tk1⟩ := x
    cases into <;> simp [writesSys] at hx
    rename_i m b
    have hs : ∃ e, (s.sysWrite k m b mask val).drill? k = some e ∧ e.v = d.v ∧ e.k = d.k ∧
        ∀ r, (0x30 ≤ m && m < 0x38 && decide (r = 64 + (m - 0x30))) = false → e.sAt r = d.sAt r := by
      unfold State.sysWrite
      simp only [hd]
      split
      · simp [hd]
      split
      · simp [hd]
      split
      · simp [hd]
      split
      · split <;> simp [hd]
      split
      · split <;> simp [hd]
      · exact ⟨_, by simp, swrDrill_spec d m b mask val⟩
    obtain ⟨e, he, ev, ek, es⟩ := hs
    obtain ⟨e', he', hi, -, -⟩ := complete_spec he slot tk1
    have : d' = e' := by
      have := h1.symm.trans (show (s.landOne k ⟨due, .sys m b, noReg, latch, mask, val, flags, swath, slot, tk1⟩).drill? k = some e' from he')
      exact Option.some.inj this
    subst this
    refine ⟨hd, h1, hL, h2, ?_, ?_, fun r _ => ?_, fun r h => ?_, fun r _ => ?_, ?_, ?_, ?_, ?_⟩
    · intro h; simp [writesSys] at h
    · intro h; simp [writesSys] at h
    · simp only [Drill.vAt, inner_v hi, ev]
    · rw [← es r (by simpa [writesS] using h)]; simp only [Drill.sAt, inner_s hi]
    · simp only [Drill.kAt, inner_k hi, ek]
    · intro h; simp [writesFlags, writesSys] at h
    · intro h; simp [writesTile] at h
    · intro h; simp [writesScale] at h
    · intro h; simp [writesSys] at h
  · have hx : writesSys x = false := by simpa using hx
    have hland : s.landOne k x = (s.modDrill k fun d => (((if x.noReg then d else d.landReg x).landLatch x).orFlags x.flags)).complete k x.slot x.tk1 := by
      unfold State.landOne
      split
      · rename_i heq; simp [writesSys, heq] at hx
      · rfl
    have he : (s.modDrill k fun d => (((if x.noReg then d else d.landReg x).landLatch x).orFlags x.flags)).drill? k =
        some (((if x.noReg then d else d.landReg x).landLatch x).orFlags x.flags) := by simp [hd]
    obtain ⟨e', he', hi, hc, hg⟩ := complete_spec he x.slot x.tk1
    have : d' = e' := by
      rw [hland] at h1
      exact Option.some.inj (h1.symm.trans he')
    subst this
    obtain ⟨q1, q2, q3, q4, q5, q6, q7, q8⟩ := landDrill_spec d x
    refine ⟨hd, h1, hL, h2, fun h => ?_, fun h => ?_, fun r h => ?_, fun r h => ?_, fun r h => ?_, fun h => ?_, fun h => ?_, fun h => ?_, fun h => ?_⟩
    · rw [hland]; exact hg (h x (by simp)).1
    · rw [hland]; exact hc
    · rw [← q1 r (h x (by simp))]; simp only [Drill.vAt, inner_v hi]
    · rw [← q2 hx r (h x (by simp))]; simp only [Drill.sAt, inner_s hi]
    · rw [← q3 r (h x (by simp))]; simp only [Drill.kAt, inner_k hi]
    · have a := congrArg Drill.flg hi; exact Eq.trans a (q4 (h x (by simp)))
    · have a := congrArg Drill.tiles hi; exact Eq.trans a (q5 (h x (by simp)))
    · have a := congrArg Drill.mxsl hi; exact Eq.trans a (q6 (h x (by simp)))
    · have a := congrArg (fun d : Drill => (d.rmode, d.srstate, d.mxbase, d.uiEn, d.uiAct, d.uiPend, d.uiPi, d.uiPo, d.uivec, d.uiepc)) hi
      have b := congrArg (fun d : Drill => (d.xi, d.epc, d.tcause, d.tval, d.tmask)) hi
      exact ⟨Eq.trans a q7, Eq.trans b q8⟩

/-- SEVERAL LANDINGS, in order. -/
theorem Effect_fold (l : List Landing) {s : State} {k : Nat} {d : Drill} (hd : s.drill? k = some d) :
    ∃ d', Effect l k s (l.foldl (fun s x => s.landOne k x) s) d d' := by
  induction l generalizing s d with
  | nil => exact ⟨d, Effect_refl hd⟩
  | cons x r ih =>
    obtain ⟨e, he⟩ := Effect_landOne hd x
    obtain ⟨f, hf⟩ := ih he.after
    exact ⟨f, Effect_trans he hf⟩

/-- The landing count advances (R74): what is due lands, what is not stays pending. -/
theorem Effect_advance {s : State} {k : Nat} {d : Drill} (hd : s.drill? k = some d) :
    ∃ l d', (∀ y, y ∈ l ↔ y ∈ dueNow d) ∧
      Effect l k (s.setDrill k { d with n := d.n + 1, landings := d.landings.filter fun x => decide (d.n + 1 < x.due) }) (s.advance k)
        { d with n := d.n + 1, landings := d.landings.filter fun x => decide (d.n + 1 < x.due) } d' := by
  simp only [State.advance, hd]
  have h : (s.setDrill k { d with n := d.n + 1, landings := d.landings.filter fun x => decide (d.n + 1 < x.due) }).drill? k =
      some { d with n := d.n + 1, landings := d.landings.filter fun x => decide (d.n + 1 < x.due) } := by simp
  obtain ⟨d', hd'⟩ := Effect_fold ((d.landings.filter fun x => decide (x.due ≤ d.n + 1)).filter isFlagWrite ++
    (d.landings.filter fun x => decide (x.due ≤ d.n + 1)).filter fun x => !isFlagWrite x) h
  refine ⟨_, d', fun y => ?_, hd'⟩
  cases hy : isFlagWrite y <;> simp [dueNow, hy]

end Sys2Proof.Laws
end

