-- ==== Sys2Proof/Laws/Issue.lean ====
section
/-!
SUPPORT. What the issue of an instruction does, once for all: `issue_ok` for what acts, `finish_spec` for what follows (R25,
R30, R69, R74).
-/
namespace Sys2Proof.Laws
open Sys2Proof.Machine

theorem drill?_armed (s : State) (x : Issue) (j : Nat) :
    (s.armed x).drill? j = if x.k = j then (s.drill? j).map fun d =>
      { d with needLand := none } else s.drill? j := by
  simp [State.armed]

theorem drill?_invalL1 (s : State) (c j : Nat) : (s.invalL1 c).drill? j = s.drill? j := rfl
theorem group?_invalL1 (s : State) (c j : Nat) : (s.invalL1 c).group? j = s.group? j := rfl
theorem ctx?_invalL1 (s : State) (c j : Nat) : (s.invalL1 c).ctx? j = s.ctx? j := rfl

theorem drill?_takeTk0 (s : State) (x : Issue) (j : Nat) : (s.takeTk0 x).drill? j = s.drill? j := by
  simp only [State.takeTk0]; split <;> rfl
theorem ctx?_takeTk0 (s : State) (x : Issue) (j : Nat) : (s.takeTk0 x).ctx? j = s.ctx? j := by
  simp only [State.takeTk0]; split <;> rfl
theorem group?_takeTk0 (s : State) (x : Issue) (j : Nat) :
    (s.takeTk0 x).group? j = if x.d.gid = j then some { x.g with tok := (tk0Tokens x.g x.i.ctl.tk0).1 } else s.group? j := by
  simp only [State.takeTk0]; split <;> simp

theorem tokenQueued_armed (s : State) (x : Issue) (g : Group) (d : Drill) (tk : BitVec 4) :
    tokenQueued (s.armed x) g d tk = tokenQueued s g d tk := by
  unfold tokenQueued
  congr 1
  funext k'
  rw [drill?_armed]
  by_cases h : x.k = k'
  · rw [if_pos h]; cases s.drill? k' <;> rfl
  · rw [if_neg h]

/-- What is marked does not depend on tokens. -/
theorem readsMarked_tok (d : Drill) (g : Group) (i : Instr) (t : BitVec 32) : readsMarked d { g with tok := t } i = readsMarked d g i := rfl

/-- What the instruction sees as it acts. -/
theorem sees_fields (i : Instr) (k : Nat) (d : Drill) (g : Group) :
    (sees i k d g).k = k ∧ (sees i k d g).d = d ∧ (sees i k d g).i = i ∧ (sees i k d g).act = activeLanes d i := by
  unfold sees; split <;> exact ⟨rfl, rfl, rfl, rfl⟩
@[simp] theorem sees_k (i : Instr) (k : Nat) (d : Drill) (g : Group) : (sees i k d g).k = k := (sees_fields i k d g).1
@[simp] theorem sees_d (i : Instr) (k : Nat) (d : Drill) (g : Group) : (sees i k d g).d = d := (sees_fields i k d g).2.1
@[simp] theorem sees_i (i : Instr) (k : Nat) (d : Drill) (g : Group) : (sees i k d g).i = i := (sees_fields i k d g).2.2.1
@[simp] theorem sees_act (i : Instr) (k : Nat) (d : Drill) (g : Group) : (sees i k d g).act = activeLanes d i := (sees_fields i k d g).2.2.2

/-- The drill in the state in which its instruction acts: only the check of a transfer's target is over (R135). -/
theorem actsIn_drill {i : Instr} {s : State} {k : Nat} {d : Drill} (g : Group) (h : s.drill? k = some d) :
    ∃ nl, (actsIn i s k d g).drill? k = some { d with needLand := nl } := by
  unfold actsIn
  dsimp only
  split
  · rw [drill?_takeTk0, drill?_armed]; simp [comes, h]
  · rw [drill?_armed]; simp [comes, h]

/-- AN INSTRUCTION THAT FIRES ACTS (R39): its body's effect, then the advance. -/
theorem issue_ok {i : Instr} {s : State} {k : Nat} {d : Drill} {g : Group} (h : Fires i s k d g) (hl : i.shape.long = false)
    {body : Issue → State → Eff} {fx : Fx} (hb : body (sees i k d g) (actsIn i s k d g) = .ok fx) :
    issue i s body = .next (fx.s.finish k i fx) := by
  obtain ⟨⟨h1, h2, h3⟩, ⟨h4, h5, h6, h7⟩, ⟨h8, h9, h10⟩, h11⟩ := h
  simp only [issue, h1, h2, h3]
  congr 1
  have q8 : (decide (i.ctl.sbs ≠ 0) && decide (d.count i.ctl.sbs.toNat ≥ 15)) = false := by
    rcases h8 with h8 | h8
    · simp [h8]
    · simp; intro; omega
  have q9 : (i.shape.queue && decide (d.storeQueue.length ≥ 64)) = false := by
    cases hq : i.shape.queue
    · rfl
    · simp only [Bool.true_and, decide_eq_false_iff_not]
      have := h9 hq; omega
  have q10 : (afterStores i && decide (d.storeQueue ≠ [])) = false := by
    cases hq : afterStores i
    · rfl
    · simp [h10 hq]
  simp only [State.issueAt, h4, h5, h6, h7, q8, q9, q10, hl, if_false, Bool.false_eq_true, State.actTokens, tokenQueued_armed]
  unfold takesTk0 at h11
  by_cases ht : i.ctl.tk0 ≠ 0 ∧ i.shape.command = false ∧ d.skipTk0 = false
  · obtain ⟨a1, a2, a3⟩ := h11 ht
    obtain ⟨b1, b2, b3⟩ := ht
    have e1 : sees i k d g = { comes i k d g with g := { g with tok := (tk0Tokens g i.ctl.tk0).1 } } := by
      unfold sees; rw [if_pos ⟨b1, b2, b3⟩]
    have e2 : actsIn i s k d g = (s.armed (comes i k d g)).takeTk0 (comes i k d g) := by
      unfold actsIn; dsimp only; rw [if_pos ⟨b1, b2, b3⟩]
    rw [e1, e2] at hb
    simp only [b1, b2, b3, a1, a2, a3, decide_false, Bool.or_false, Bool.not_true, if_false, Bool.false_eq_true, State.act,
      readsMarked_tok, h7]
    simp only [comes] at hb ⊢
    rw [hb]
  · have e1 : sees i k d g = comes i k d g := by unfold sees; rw [if_neg ht]
    have e2 : actsIn i s k d g = s.armed (comes i k d g) := by unfold actsIn; dsimp only; rw [if_neg ht]
    rw [e1, e2] at hb
    simp only [comes] at hb
    by_cases b1 : i.ctl.tk0 = 0
    · simp only [b1, decide_true, Bool.true_or, if_true, State.act, h7, if_false, Bool.false_eq_true]
      rw [hb]
    · cases b2 : i.shape.command
      · have b3 : d.skipTk0 = true := by
          cases hs : d.skipTk0
          · exact absurd ⟨b1, b2, hs⟩ ht
          · rfl
        simp only [b1, b3, decide_false, Bool.or_false, if_true, if_false, Bool.false_eq_true, State.act, h7]
        rw [hb]
      · simp only [Bool.or_true, if_true, State.act, h7, if_false, Bool.false_eq_true]
        rw [hb]

/-- A drill without what an instruction's own effect may change at issue. -/
def base (d : Drill) : Drill :=
  { d with needLand := none, ops := [], storeQueue := [], cm := 0, maskStack := [], acquires := [], plotOut := [], remoteStores := []
           poison := [], barA := 0, barS := 0, barT := [], relSeq := [], latches := [], fetch := [], fetchWant := [], st := .ready
           stall := none, skipTk0 := false, trap := none, longWait := none, metWait := false, mbar := none, park := none
           saved := false, sb := [], pendTraps := [], pendOverrun := false, regPoison := []
           tokWait := none, resumed := false }

theorem base_setSlot (d : Drill) (n : Nat) : base (d.setSlot n) = base d := by unfold Drill.setSlot; split <;> rfl
theorem setSlot_cm (d : Drill) (n : Nat) : (d.setSlot n).cm = d.cm ∧ (d.setSlot n).maskStack = d.maskStack ∧ (d.setSlot n).ops = d.ops ∧
    (d.setSlot n).storeQueue = d.storeQueue ∧ (d.setSlot n).acquires = d.acquires ∧ (d.setSlot n).plotOut = d.plotOut ∧
    (d.setSlot n).barA = d.barA ∧ (d.setSlot n).barS = d.barS ∧ (d.setSlot n).barT = d.barT ∧ (d.setSlot n).relSeq = d.relSeq ∧
    (d.setSlot n).saved = d.saved ∧ (d.setSlot n).poison = d.poison := by
  unfold Drill.setSlot; split <;> simp

/-- A drill's record after issue, field by field (R69, R74). -/
theorem issued_spec (d : Drill) (c : Ctl) (lands : List (Nat × Landing)) (jump : Option DWord) :
    (d.issued c lands jump).pc = jump.getD (d.pc + 8) ∧
    (if c.e = true then (d.issued c lands jump).st = .ready ∧ (d.issued c lands jump).idxInSwath = 0 ∧
        (d.issued c lands jump).swathPc = jump.getD (d.pc + 8)
      else (d.issued c lands jump).st = .issuing ∧ (d.issued c lands jump).idxInSwath = d.idxInSwath + 1 ∧
        (d.issued c lands jump).swathPc = d.swathPc) ∧
    (d.issued c lands jump).landings = d.landings ++ lands.map (fun p => { p.2 with due := d.n + p.1, swath := d.swath }) ∧
    { base (d.issued c lands jump) with pc := 0, swathPc := 0, idxInSwath := 0, swath := 0, landings := [] } =
      { base d with pc := 0, swathPc := 0, idxInSwath := 0, swath := 0, landings := [] } ∧
    ((d.issued c lands jump).cm = d.cm ∧ (d.issued c lands jump).maskStack = d.maskStack ∧ (d.issued c lands jump).ops = d.ops ∧
      (d.issued c lands jump).storeQueue = d.storeQueue) ∧
    ((d.issued c lands jump).acquires = d.acquires ∧ (d.issued c lands jump).plotOut = d.plotOut ∧ (d.issued c lands jump).barA = d.barA ∧
      (d.issued c lands jump).barS = d.barS ∧ (d.issued c lands jump).barT = d.barT ∧ (d.issued c lands jump).relSeq = d.relSeq ∧
      (d.issued c lands jump).saved = d.saved ∧ (d.issued c lands jump).poison = d.poison) := by
  unfold Drill.issued Drill.stepOn Drill.fetchOn Drill.setSlot
  cases jump <;> cases c.e <;> by_cases h : c.sbs.toNat = 0 <;> simp [h, base]

theorem mem_ownLanding {i : Instr} {a : Bool} {p : Nat × Landing} (h : p ∈ ownLanding i a) :
    p.1 = 1 ∧ p.2.into = .nothing ∧ p.2.noReg = false ∧ p.2.flags = [] ∧ (p.2.tk1 = i.ctl.tk1 ∨ p.2.tk1 = 0) := by
  simp only [ownLanding] at h
  have ht : (if i.shape.command = true then (0 : BitVec 4) else i.ctl.tk1) = i.ctl.tk1 ∨
      (if i.shape.command = true then (0 : BitVec 4) else i.ctl.tk1) = 0 := by split <;> simp
  generalize (if i.shape.command = true then (0 : BitVec 4) else i.ctl.tk1) = tk at h ht
  by_cases hc : (a || decide (i.ctl.sbs.toNat = 0) && decide (tk = 0)) = true
  · rw [if_pos hc] at h; cases h
  · rw [if_neg hc, List.mem_singleton] at h
    subst h
    exact ⟨rfl, rfl, rfl, rfl, ht⟩

theorem homeByte_rest {s t : State} (h : rest t = rest s) (a : Nat) : t.homeByte a = s.homeByte a :=
  show (rest t).homeByte a = (rest s).homeByte a by rw [h]

theorem rest_of_beyond {s t : State} (h : beyond t = beyond s) : rest t = rest s := by
  have : rest t = { beyond t with seq := 0 } := rfl
  rw [this, h]; rfl

/-- WHAT FOLLOWS AN INSTRUCTION'S OWN EFFECT (R69, R74): `fx` is its effect on the state `s0` in which it acts, and changes
of its drill no more than `base` leaves open; its landings take two counts or more. -/
theorem finish_spec {s0 : State} {x : Issue} {i : Instr} {fx : Fx} {d1 : Drill} (hi : x.i = i) (h1 : fx.s.drill? x.k = some d1)
    (hb : base d1 = base x.d) (hr : rest fx.s = rest s0) (ho : ∀ j, j ≠ x.k → fx.s.drill? j = s0.drill? j)
    (hg : ∀ n, fx.s.group? n = s0.group? n) (hc : ∀ n, fx.s.ctx? n = s0.ctx? n) (hl : ∀ p ∈ fx.lands, 2 ≤ p.1)
    (ha : fx.after = id) (hh : fx.hold = false) :
    ∃ d', Issued x (fx.s.finish x.k i fx) d' (fx.jump.getD (x.d.pc + 8)) ∧ Kept x s0 (fx.s.finish x.k i fx) d' ∧
      (d'.cm = d1.cm ∧ d'.maskStack = d1.maskStack ∧ d'.ops = d1.ops ∧ d'.storeQueue = d1.storeQueue) ∧
      (d'.acquires = d1.acquires ∧ d'.plotOut = d1.plotOut ∧ d'.barA = d1.barA ∧ d'.barS = d1.barS ∧ d'.barT = d1.barT ∧
        d'.relSeq = d1.relSeq ∧ d'.saved = d1.saved ∧ d'.poison = d1.poison) ∧
      (fx.s.finish x.k i fx).seq = fx.s.seq ∧
      ∀ p ∈ fx.lands, { p.2 with due := x.d.n + p.1, swath := x.d.swath } ∈ d'.landings := by
  subst hi
  have bget : ∀ {α : Type} (f : Drill → α), (∀ e, f (base e) = f e) → f d1 = f x.d := fun f hf => by rw [← hf d1, hb, hf]
  obtain ⟨p1, p2, p3, p4, p5, p6⟩ := issued_spec d1 x.i.ctl (fx.lands ++ ownLanding x.i fx.attached) fx.jump
  have e1 : d1.pc = x.d.pc := bget Drill.pc fun _ => rfl
  have e2 : d1.idxInSwath = x.d.idxInSwath := bget Drill.idxInSwath fun _ => rfl
  have e3 : d1.swathPc = x.d.swathPc := bget Drill.swathPc fun _ => rfl
  have e4 : d1.n = x.d.n := bget Drill.n fun _ => rfl
  have e5 : d1.swath = x.d.swath := bget Drill.swath fun _ => rfl
  have e6 : d1.landings = x.d.landings := bget Drill.landings fun _ => rfl
  generalize hd2 : d1.issued x.i.ctl (fx.lands ++ ownLanding x.i fx.attached) fx.jump = d2 at p1 p2 p3 p4 p5 p6
  have hf : fx.s.finish x.k x.i fx = (fx.s.modDrill x.k fun d => d.issued x.i.ctl (fx.lands ++ ownLanding x.i fx.attached) fx.jump).advance x.k := by
    simp only [State.finish, ha, hh, id, if_false, Bool.false_eq_true]
  have h2 : (fx.s.modDrill x.k fun d => d.issued x.i.ctl (fx.lands ++ ownLanding x.i fx.attached) fx.jump).drill? x.k = some d2 := by
    simp [h1, hd2]
  rw [hf]
  generalize hs2 : (fx.s.modDrill x.k fun d => d.issued x.i.ctl (fx.lands ++ ownLanding x.i fx.attached) fx.jump) = s2 at h2
  have r2 : rest s2 = rest fx.s := by rw [← hs2]; rfl
  have o2 : ∀ j, j ≠ x.k → s2.drill? j = fx.s.drill? j := fun j hj => by rw [← hs2]; simp [Ne.symm hj]
  have g2 : ∀ n, s2.group? n = fx.s.group? n := fun n => by rw [← hs2]; rfl
  have c2 : ∀ n, s2.ctx? n = fx.s.ctx? n := fun n => by rw [← hs2]; rfl
  have q2 : s2.seq = fx.s.seq := by rw [← hs2]; rfl
  obtain ⟨l, d', hm, E⟩ := Effect_advance h2
  have n2 : d2.n = x.d.n := by
    have := congrArg Drill.n p4; exact Eq.trans this e4
  have b2 : ∀ {α : Type} (f : Drill → α), (∀ e : Drill, f { base e with pc := 0, swathPc := 0, idxInSwath := 0, swath := 0, landings := [] } = f e) →
      f d2 = f x.d := fun f hf => by
    rw [← hf d2, p4, hf, ← hf d1, hb, hf]
  -- what is due: landings of earlier instructions, and the instruction's own completion
  have due : ∀ y ∈ l, y ∈ dueNow x.d ∨ (y.into = .nothing ∧ y.noReg = false ∧ y.flags = [] ∧ y.tk1 = x.i.ctl.tk1) ∨
      (y.into = .nothing ∧ y.noReg = false ∧ y.flags = [] ∧ y.tk1 = 0) := by
    intro y hy
    have hy := (hm y).1 hy
    simp only [dueNow, List.mem_filter, p3, n2, e6, e4, e5, List.mem_append, List.mem_map, decide_eq_true_eq] at hy
    obtain ⟨hy | ⟨p, hp | hp, rfl⟩, hn⟩ := hy
    · exact .inl (by simp [dueNow, hy, hn])
    · have := hl p hp
      simp only at hn; omega
    · right
      obtain ⟨-, m1, m2, m3, m4 | m4⟩ := mem_ownLanding hp
      · exact .inl ⟨m1, m2, m3, m4⟩
      · exact .inr ⟨m1, m2, m3, m4⟩
  have dueP : ∀ (P : Landing → Bool), (∀ y : Landing, y.into = .nothing → y.noReg = false → y.flags = [] → P y = false) →
      (∀ y ∈ dueNow x.d, P y = false) → ∀ y ∈ l, P y = false := by
    intro P h0 h y hy
    rcases due y hy with h' | ⟨a, b, c, -⟩ | ⟨a, b, c, -⟩
    · exact h y h'
    · exact h0 y a b c
    · exact h0 y a b c
  have L := E.landed
  have st : still d' = still { d2 with n := d2.n + 1, landings := d2.landings.filter fun y => decide (d2.n + 1 < y.due) } := E.still
  have sget : ∀ {α : Type} (f : Drill → α), (∀ e, f (still e) = f e) →
      f d' = f { d2 with n := d2.n + 1, landings := d2.landings.filter fun y => decide (d2.n + 1 < y.due) } := fun f hf => by
    rw [← hf d', st, hf]
  have rest_eq : rest (s2.advance x.k) = rest s0 := by
    rw [rest_of_beyond L.beyond, ← hr, ← r2]; rfl
  refine ⟨d', ⟨E.after, ?_, ?_, ?_⟩, ⟨rest_eq, homeByte_rest rest_eq, ?_, ?_, ?_, ?_, ?_, ?_, ?_, ?_, ?_, ?_, ?_, ?_, ?_, ?_, ?_⟩, ?_, ?_, ?_, ?_⟩
  · rw [sget Drill.pc fun _ => rfl]; exact p1.trans (by rw [e1])
  · rw [sget Drill.n fun _ => rfl]; exact congrArg (· + 1) n2
  · have a := sget Drill.st fun _ => rfl
    have b := sget Drill.idxInSwath fun _ => rfl
    have c := sget Drill.swathPc fun _ => rfl
    rw [a, b, c]
    rw [e1, e2, e3] at p2
    exact p2
  · intro j hj; exact (L.other j hj).trans ((by simp [Ne.symm hj] : _ = s2.drill? j).trans ((o2 j hj).trans (ho j hj)))
  · intro n hn
    have gid2 : d2.gid = x.d.gid := b2 Drill.gid fun _ => rfl
    exact (L.others _ E.before n (by simpa [gid2] using hn)).trans ((g2 n).trans (hg n))
  · have := L.groups x.d.gid
    rw [this]; exact congrArg _ ((g2 _).trans (hg _))
  · intro h htk
    have : (s2.advance x.k).groups = s2.groups := E.tokens fun y hy => by
      rcases due y hy with h' | ⟨a, b, c, e⟩ | ⟨a, b, c, e⟩
      · exact h y h'
      · exact ⟨e.trans htk, by simp [writesSys, a]⟩
      · exact ⟨e, by simp [writesSys, a]⟩
    show tblGet? (s2.advance x.k).groups x.d.gid = _
    rw [this]; exact (g2 _).trans (hg _)
  · intro n; rw [L.ctxs n]; exact congrArg _ ((c2 n).trans (hc n))
  · intro h n
    have : (s2.advance x.k).ctxs = s2.ctxs := E.budgets (dueP writesSys (fun y a _ _ => by simp [writesSys, a]) h)
    show tblGet? (s2.advance x.k).ctxs n = _
    rw [this]; exact (c2 n).trans (hc n)
  · intro r h
    exact (E.vectors r (dueP (writesV · r) (fun y a _ _ => by simp [writesV, a]) h)).trans (b2 (fun e => e.vAt r) fun _ => rfl)
  · intro r h
    exact (E.uniforms r (dueP (writesS · r) (fun y a _ _ => by simp [writesS, a]) h)).trans (b2 (fun e => e.sAt r) fun _ => rfl)
  · intro r h
    exact (E.predicates r (dueP (writesK · r) (fun y a _ _ => by simp [writesK, a]) h)).trans (b2 (fun e => e.kAt r) fun _ => rfl)
  · intro h
    exact (E.flags (dueP writesFlags (fun y a _ c => by simp [writesFlags, writesSys, a, c]) h)).trans (b2 Drill.flg fun _ => rfl)
  · intro h
    exact (E.tiles (dueP writesTile (fun y a _ _ => by simp [writesTile, a]) h)).trans (b2 Drill.tiles fun _ => rfl)
  · intro h
    exact (E.scale (dueP writesScale (fun y a _ _ => by simp [writesScale, a]) h)).trans (b2 Drill.mxsl fun _ => rfl)
  · intro h
    have := E.system (dueP writesSys (fun y a _ _ => by simp [writesSys, a]) h)
    refine ⟨this.1.trans ?_, this.2.trans ?_⟩
    · exact b2 (fun d => (d.rmode, d.srstate, d.mxbase, d.uiEn, d.uiAct, d.uiPend, d.uiPi, d.uiPo, d.uivec, d.uiepc)) fun _ => rfl
    · exact b2 (fun d => (d.xi, d.epc, d.tcause, d.tval, d.tmask)) fun _ => rfl
  · rw [sget (fun d => (d.gid, d.idx, d.slot, d.sysMode, d.routine)) fun _ => rfl]
    exact b2 (fun d => (d.gid, d.idx, d.slot, d.sysMode, d.routine)) fun _ => rfl
  · rw [sget (fun d => (d.xl, d.xp)) fun _ => rfl]
    exact b2 (fun d => (d.xl, d.xp)) fun _ => rfl
  · rw [sget Drill.cm fun _ => rfl, sget Drill.maskStack fun _ => rfl, sget Drill.ops fun _ => rfl, sget Drill.storeQueue fun _ => rfl]
    exact p5
  · rw [sget Drill.acquires fun _ => rfl, sget Drill.plotOut fun _ => rfl, sget Drill.barA fun _ => rfl, sget Drill.barS fun _ => rfl,
      sget Drill.barT fun _ => rfl, sget Drill.relSeq fun _ => rfl, sget Drill.saved fun _ => rfl, sget Drill.poison fun _ => rfl]
    exact p6
  · have := congrArg State.seq L.beyond
    exact Eq.trans this q2
  · intro p hp
    rw [sget Drill.landings fun _ => rfl]
    simp only [List.mem_filter, p3, n2, e4, e5, e6, List.mem_append, List.mem_map, decide_eq_true_eq]
    have := hl p hp
    exact ⟨.inr ⟨p, .inl hp, rfl⟩, by omega⟩

end Sys2Proof.Laws
end

