-- ==== Sys2Proof/Laws/Lane.lean ====
section
/-!
SUPPORT. What the shared operations of instructions complete with: a fixed-latency result, an outstanding operation, a
store-queue entry, a command of a plot, nothing.
-/
namespace Sys2Proof.Laws
open Sys2Proof.Machine

/-- The effect of an instruction that changes no more of the state than its drill, and no more of its drill than `base` leaves
open, and whose landings take two counts or more. -/
structure Modest (x : Issue) (s : State) (fx : Fx) (d1 : Drill) : Prop where
  drill : fx.s.drill? x.k = some d1
  base : base d1 = base x.d
  rest : rest fx.s = rest s
  others : ∀ j, j ≠ x.k → fx.s.drill? j = s.drill? j
  groups : ∀ n, fx.s.group? n = s.group? n
  ctxs : ∀ n, fx.s.ctx? n = s.ctx? n
  lands : ∀ p ∈ fx.lands, 2 ≤ p.1
  after : fx.after = id
  hold : fx.hold = false

/-- An instruction whose body answers a modest effect completes with it. -/
theorem completes {i : Instr} (hl : i.shape.long = false) {s : State} {k : Nat} {d : Drill} {g : Group} (F : Fires i s k d g)
    {body : Issue → State → Eff} {fx : Fx} {d1 : Drill} (hb : body (sees i k d g) (actsIn i s k d g) = .ok fx)
    (M : Modest (sees i k d g) (actsIn i s k d g) fx d1) :
    ∃ t d', issue i s body = .next t ∧ Issued (sees i k d g) t d' (fx.jump.getD (d.pc + 8)) ∧
      Kept (sees i k d g) (actsIn i s k d g) t d' ∧
      (d'.cm = d1.cm ∧ d'.maskStack = d1.maskStack ∧ d'.ops = d1.ops ∧ d'.storeQueue = d1.storeQueue) ∧
      (d'.acquires = d1.acquires ∧ d'.plotOut = d1.plotOut ∧ d'.barA = d1.barA ∧ d'.barS = d1.barS ∧ d'.barT = d1.barT ∧
        d'.relSeq = d1.relSeq ∧ d'.saved = d1.saved ∧ d'.poison = d1.poison) ∧ t.seq = fx.s.seq ∧
      ∀ p ∈ fx.lands, { p.2 with due := d.n + p.1, swath := d.swath } ∈ d'.landings := by
  obtain ⟨m1, m2, m3, m4, m5, m6, m7, m8, m9⟩ := M
  obtain ⟨d', q1, q2, q3, q4, q5, q6⟩ := finish_spec (i := i) (x := sees i k d g) (by simp) m1 m2 m3 m4 m5 m6 m7 m8 m9
  simp only [sees_k, sees_d] at q1 q2 q3 q4 q5 q6
  exact ⟨_, d', issue_ok F hl hb, q1, q2, q3, q4, q5, q6⟩

/-- The drill in the state in which its instruction acts. -/
theorem actsIn_base {i : Instr} {s : State} {k : Nat} {d : Drill} {g : Group} (F : Fires i s k d g) :
    ∃ d1, (actsIn i s k d g).drill? k = some d1 ∧ base d1 = base d ∧ d1.cm = d.cm ∧ d1.maskStack = d.maskStack ∧ d1.ops = d.ops ∧
      d1.storeQueue = d.storeQueue ∧ d1.acquires = d.acquires ∧ d1.plotOut = d.plotOut ∧ d1.barA = d.barA ∧ d1.barS = d.barS ∧
      d1.barT = d.barT ∧ d1.relSeq = d.relSeq ∧ d1.saved = d.saved ∧ d1.poison = d.poison := by
  obtain ⟨nl, h⟩ := actsIn_drill (i := i) g F.1.2.1
  exact ⟨_, h, rfl, rfl, rfl, rfl, rfl, rfl, rfl, rfl, rfl, rfl, rfl, rfl, rfl⟩

/-- An effect that leaves the state as it is. -/
theorem modest_same {i : Instr} {s : State} {k : Nat} {d : Drill} {g : Group} (F : Fires i s k d g) {fx : Fx}
    (hs : fx.s = actsIn i s k d g) (hl : ∀ p ∈ fx.lands, 2 ≤ p.1) (ha : fx.after = id) (hh : fx.hold = false) :
    ∃ d1, Modest (sees i k d g) (actsIn i s k d g) fx d1 ∧ d1.cm = d.cm ∧ d1.maskStack = d.maskStack ∧ d1.ops = d.ops ∧
      d1.storeQueue = d.storeQueue := by
  obtain ⟨d1, h1, h2, c1, c2, c3, c4, -⟩ := actsIn_base F
  exact ⟨d1, ⟨by rw [hs]; simpa using h1, by simpa using h2, by rw [hs], fun _ _ => by rw [hs], fun _ => by rw [hs], fun _ => by rw [hs],
    hl, ha, hh⟩, c1, c2, c3, c4⟩

/-- FIXED-LATENCY RESULTS (R27, R62, R72, R74). -/
theorem laneOp_result {i : Instr} (hl : i.shape.long = false) (h2 : 2 ≤ i.shape.lat) (n : Nat) (op : Issue → Nat → DWord × BitVec 5)
    {s : State} {k : Nat} {d : Drill} {g : Group} (F : Fires i s k d g) :
    ∃ t, laneOp i s n op = .next t ∧
      Result i.shape.lat (·.dest n) (fun x => x.wmask (match x.i.shape.dst with | .s | .sPair => true | _ => x.uniform))
        (fun x j => (op x j).1) (fun x j => (op x j).2) (sees i k d g) (actsIn i s k d g) t := by
  unfold laneOp
  generalize hx : sees i k d g = x
  generalize hv : (Vector.ofFn fun j : Fin 32 => if x.uniform then op x 0 else if inMask x.act j.val then op x j.val else (0, 0)) = vals
  have hval : ∀ j, j < 32 → vals.getD j (0, 0) = if x.uniform then op x 0 else if inMask x.act j then op x j else (0, 0) := by
    intro j hj; rw [← hv]; simp [Vector.getD, hj]
  obtain ⟨d1, M, c1, c2, c3, c4⟩ := modest_same F (fx := { s := actsIn i s k d g, attached := true, lands := [(i.shape.lat,
    x.landing (x.dest n) (x.wmask (match x.i.shape.dst with | .s | .sPair => true | _ => x.uniform)) (vals.map (·.1))
    ((List.range 32).filterMap fun j => if !x.uniform && (vals.getD j (0, 0)).2 ≠ 0 then some (j, (vals.getD j (0, 0)).2) else none))] })
    rfl (by simpa using h2) rfl rfl
  obtain ⟨t, d', q0, q1, q2, q3, -, -, q6⟩ := completes hl F (body := fun x s =>
    let vals : Vector (DWord × BitVec 5) 32 := Vector.ofFn fun j =>
      if x.uniform then op x 0 else if inMask x.act j.val then op x j.val else (0, 0)
    let flags := (List.range 32).filterMap fun j =>
      let f := (vals.getD j (0, 0)).2
      if !x.uniform && f ≠ 0 then some (j, f) else none
    let uni := match x.i.shape.dst with | .s | .sPair => true | _ => x.uniform
    .ok { s := s, attached := true, lands := [(i.shape.lat, x.landing (x.dest n) (x.wmask uni) (vals.map (·.1)) flags)] })
    (by rw [hx]; simp only [hv]) M
  rw [hx] at q1 q2
  have xd : x.d = d := by rw [← hx]; simp
  have xi : x.i = i := by rw [← hx]; simp
  refine ⟨t, q0, d', _, by simpa [xd] using q1, q2, ⟨q3.1.trans (c1.trans (by rw [xd])), q3.2.1.trans (c2.trans (by rw [xd])),
    q3.2.2.1.trans (c3.trans (by rw [xd])), q3.2.2.2.trans (c4.trans (by rw [xd]))⟩, q6 _ (List.mem_singleton.2 rfl), by simp [xd], rfl, rfl,
    ⟨rfl, rfl, rfl, rfl, by simp [xd]⟩, ?_, ?_⟩
  · intro j hj
    have hj32 : j < 32 := by
      unfold computes at hj; split at hj
      · omega
      · exact hj.1
    have : lane (vals.map (·.1)) j = (vals.getD j (0, 0)).1 := by simp [lane, Vector.getD, hj32]
    show lane (vals.map (·.1)) j = _
    rw [this, hval j hj32]
    unfold computes at hj
    split at hj
    · subst hj; simp [*]
    · rename_i hu; simp [hu, hj.2]
  · intro j f
    simp only [Issue.landing]
    by_cases hnf : x.i.ctl.nf = true
    · simp [hnf]
    · simp only [hnf, if_false, Bool.false_eq_true, List.mem_filterMap, List.mem_range]
      constructor
      · rintro ⟨a, ha, hf⟩
        rw [hval a ha] at hf
        cases hu : x.uniform
        · by_cases hm : inMask x.act a = true
          · simp [hu, hm] at hf
            obtain ⟨h1, rfl, rfl⟩ := hf
            exact ⟨trivial, rfl, ha, hm, rfl, h1⟩
          · simp [hu, hm] at hf
        · simp [hu] at hf
      · rintro ⟨-, hu, ha, hm, hf, h0⟩
        refine ⟨j, ha, ?_⟩
        have e : vals.getD j (0, 0) = op x j := by rw [hval j ha, if_neg (by rw [hu]; exact Bool.false_ne_true), if_pos hm]
        rw [e, if_pos (by rw [hu, ← hf]; simpa using h0), hf]

/-- An effect that goes on from the state that its checks leave completes from that state. -/
theorem completes_from {i : Instr} (hl : i.shape.long = false) {s : State} {k : Nat} {d : Drill} {g : Group} (F : Fires i s k d g)
    {body : Issue → State → Eff} {fx : Fx} {d1 : Drill} {s1 : State} (hb : body (sees i k d g) (actsIn i s k d g) = .ok fx)
    (M : Modest (sees i k d g) s1 fx d1) :
    ∃ t d', issue i s body = .next t ∧ Issued (sees i k d g) t d' (fx.jump.getD (d.pc + 8)) ∧
      Kept (sees i k d g) s1 t d' ∧
      (d'.cm = d1.cm ∧ d'.maskStack = d1.maskStack ∧ d'.ops = d1.ops ∧ d'.storeQueue = d1.storeQueue) ∧ t.seq = fx.s.seq := by
  obtain ⟨m1, m2, m3, m4, m5, m6, m7, m8, m9⟩ := M
  obtain ⟨d', q1, q2, q3, -, q5, -⟩ := finish_spec (i := i) (x := sees i k d g) (by simp) m1 m2 m3 m4 m5 m6 m7 m8 m9
  simp only [sees_k, sees_d] at q1 q2 q3 q5
  exact ⟨_, d', issue_ok F hl hb, q1, q2, q3, q5⟩

/-- OUTSTANDING OPERATIONS (R72, R75): what `startOp` starts, from the state that its checks leave. -/
theorem startOp_starts {i : Instr} (hl : i.shape.long = false) {s s1 : State} {k : Nat} {d : Drill} {g : Group} (F : Fires i s k d g)
    (h1 : SameDrills (actsIn i s k d g) s1) {body : Issue → State → Eff} {kind : VarKind} {into : LandTo} {mask : Mask}
    (hb : body (sees i k d g) (actsIn i s k d g) = startOp (sees i k d g) s1 kind into mask) :
    ∃ t, issue i s body = .next t ∧ Starts (fun _ _ => kind) (fun _ => into) (fun _ => mask) (sees i k d g) s1 t := by
  obtain ⟨d1, h, hbase, c1, c2, c3, c4, -⟩ := actsIn_base F
  have hd : ({ s1 with seq := s1.seq + 1 } : State).drill? k = some d1 := (h1 k).trans h
  obtain ⟨t, d', q0, q1, q2, q3, q4⟩ := completes_from (s1 := s1) hl F hb (d1 := { d1 with ops := d1.ops ++ [(sees i k d g).varOp s1.seq kind into mask] })
    ⟨by simp [hd], (show base d1 = _ by rw [sees_d]; exact hbase), rfl, fun j hj => by simp at hj; simp [Ne.symm hj]; rfl, fun n => rfl, fun n => rfl, by simp, rfl, rfl⟩
  refine ⟨t, q0, d', _, by simpa using q1, q2, by simp [q3.1, c1], by simp [q3.2.1, c2], by simp [q3.2.2.2, c4],
    by rw [q3.2.2.1, sees_d, ← c3], q4, rfl, rfl, rfl, rfl, rfl, rfl, by simp [Issue.varOp], by simp [Issue.varOp], by simp [Issue.varOp]⟩

/-- STORE-QUEUE ENTRIES (R159): what `enqueue` enters, from the state that its checks leave. -/
theorem enqueue_enqueues {i : Instr} (hl : i.shape.long = false) {s s1 : State} {k : Nat} {d : Drill} {g : Group} (F : Fires i s k d g)
    (h1 : SameDrills (actsIn i s k d g) s1) {body : Issue → State → Eff} {kind : SqKind}
    (hb : body (sees i k d g) (actsIn i s k d g) = enqueue (sees i k d g) s1 kind) :
    ∃ t, issue i s body = .next t ∧ Enqueues (fun _ _ => kind) (sees i k d g) s1 t := by
  obtain ⟨d1, h, hbase, c1, c2, c3, c4, -⟩ := actsIn_base F
  have hd : ({ s1 with seq := s1.seq + 1 } : State).drill? k = some d1 := (h1 k).trans h
  obtain ⟨t, d', q0, q1, q2, q3, q4⟩ := completes_from (s1 := s1) hl F hb
    (d1 := { d1 with storeQueue := d1.storeQueue ++ [{ seq := s1.seq, kind := kind, pc := d.pc }] })
    ⟨by simp [hd], (show base d1 = _ by rw [sees_d]; exact hbase), rfl, fun j hj => by simp at hj; simp [Ne.symm hj]; rfl, fun n => rfl, fun n => rfl, by simp, rfl, rfl⟩
  exact ⟨t, q0, d', by simpa using q1, q2, by simp [q3.1, c1], by simp [q3.2.1, c2], by simp [q3.2.2.1, c3],
    by simp [q3.2.2.2, c4], q4⟩

/-- A command of a plot as its copy carries it: an ARD is known by its stamp (R233). -/
def stamped (seq : Nat) (cmd : PlotCmd) : PlotCmd := match cmd with | .ard _ c b k l => .ard seq c b k l | c => c
/-- COMMANDS OF PLOTS (R213-R215): what `plotEntry` enters, where the group owns a plot or the command needs none. -/
theorem plotEntry_enters {i : Instr} (hl : i.shape.long = false) {s : State} {k : Nat} {d : Drill} {g : Group} (F : Fires i s k d g)
    {body : Issue → State → Eff} {needs coll : Bool} {cmd : PlotCmd} {vals : List Word} {op : Option (VarKind × LandTo)}
    (hn : (needs && g.plot.isNone) = false)
    (hb : body (sees i k d g) (actsIn i s k d g) = plotEntry (sees i k d g) (actsIn i s k d g) needs coll cmd vals op) :
    ∃ t, issue i s body = .next t ∧ EntersPlot coll (fun _ _ => stamped (actsIn i s k d g).seq cmd) (fun _ => op) (sees i k d g) (actsIn i s k d g) t := by
  obtain ⟨d1, h, hbase, c1, c2, c3, c4, -, c5, -⟩ := actsIn_base F
  have hp : (needs && (sees i k d g).g.plot.isNone) = false := by
    rw [← hn]; unfold sees; split <;> rfl
  have hd : ({ actsIn i s k d g with seq := (actsIn i s k d g).seq + 1 } : State).drill? k = some d1 := h
  unfold plotEntry at hb
  rw [if_neg (by rw [hp]; exact Bool.false_ne_true)] at hb
  dsimp only [State.stamp] at hb
  obtain ⟨t, d', q0, q1, q2, ⟨r1, r2, r3, r4⟩, ⟨-, r5, -⟩, q4, -⟩ := completes hl F hb
    ⟨by simp [hd]; rfl, (show base _ = _ by rw [sees_d]; exact hbase), rfl, fun j hj => by simp at hj; simp [Ne.symm hj]; rfl, fun n => rfl, fun n => rfl, by simp, rfl, rfl⟩
  refine ⟨t, q0, d', _, by simpa using q1, q2, by simp [r1, c1], by simp [r2, c2], q4, by simp [r5, c5], by simp only [r4, c4, sees_d]; rfl,
    by cases cmd <;> rfl, rfl, by simp, rfl, by simp, by simp, fun h => ?_, fun h => ?_, fun h => ?_, fun kind into h => ?_⟩
  · rw [sees_i] at h; simp [h]
  · rw [sees_i] at h; simp [h]
  · subst h; simp [r3, c3]
  · subst h; exact ⟨_, by rw [r3]; simp only [sees_d]; rw [← c3], rfl, rfl, rfl, by simp [Issue.varOp], by simp [Issue.varOp], by simp [Issue.varOp]⟩

/-- An instruction that does nothing but advance. -/
theorem noEffect_goes {i : Instr} (hl : i.shape.long = false) {s : State} {k : Nat} {d : Drill} {g : Group} (F : Fires i s k d g)
    {body : Issue → State → Eff} (hb : body (sees i k d g) (actsIn i s k d g) = noEffect (actsIn i s k d g)) :
    ∃ t, issue i s body = .next t ∧ GoesOn after (sees i k d g) (actsIn i s k d g) t := by
  obtain ⟨d1, M, c1, c2, c3, c4⟩ := modest_same F (fx := { s := actsIn i s k d g }) rfl (by simp) rfl rfl
  obtain ⟨t, d', q0, q1, q2, q3, -⟩ := completes hl F hb M
  exact ⟨t, q0, d', by simpa [after] using q1, q2, by simp [q3.1, c1], by simp [q3.2.1, c2], by simp [q3.2.2.1, c3], by simp [q3.2.2.2, c4]⟩

end Sys2Proof.Laws
end

