-- ==== Sys2Proof/Laws/Access.lean ====
section
/-!
SUPPORT. What the checks of an access leave: no drill changes.
-/
namespace Sys2Proof.Laws
open Sys2Proof.Machine

theorem drills_writeHomeLine (s : State) (l : Nat) (d : Line) : (s.writeHomeLine l d).drills = s.drills := by
  unfold State.writeHomeLine State.writeHome; rfl
theorem drills_flushLine (s : State) (l : Nat) : (s.flushLine l).drills = s.drills := by
  show (s.cleanLine l).drills = _
  unfold State.cleanLine
  split
  · rename_i o _
    generalize ho : s.writeHomeLine l o.data = u
    have h : u.drills = s.drills := by rw [← ho]; exact drills_writeHomeLine s l o.data
    split
    · exact h
    · rfl
  · rfl
theorem drill?_ioWrite (ws : List (Nat × Byte)) (s : State) (j : Nat) : (s.ioWrite ws).drill? j = s.drill? j := by
  unfold State.ioWrite
  induction ws generalizing s with
  | nil => rfl
  | cons w ws ih =>
    rw [List.foldl_cons, ih]
    split
    · rfl
    · exact congrArg (fun t => tblGet? t j) (drills_flushLine s (w.1 / 128))

/-- A translation changes no drill (R343, R345). -/
theorem drill?_translate {s s1 : State} {key : Nat} {c : Context} {va : DWord} {acc : Access} {pa : Nat}
    (h : s.translate key c va acc = .ok (pa, s1)) (j : Nat) : s1.drill? j = s.drill? j := by
  have walk {e s'} (h : s.walk key c va acc (s.walkStart key c va) = .ok (e, s')) : s'.drill? j = s.drill? j := by
    generalize s.walkStart key c va = from_ at h
    unfold State.walk at h
    split at h
    · cases h
    cases hw : walkFrom s true some va from_.1 from_.2.1 with
    | error f => rw [hw] at h; cases h
    | ok q =>
      obtain ⟨pte, level, a⟩ := q
      rw [hw] at h
      dsimp only at h
      generalize entryOf s key c.asid va (if from_.2.2 = true then pte ||| 32 else pte) level = e0 at h
      split at h
      · cases h
      split at h
      · cases h
      obtain ⟨-, rfl⟩ := by simpa using h
      unfold State.touchLeaf
      generalize (64 ||| if acc.w = true then 128 else 0 : DWord) = set
      dsimp only
      split
      · rfl
      · exact drill?_ioWrite _ _ _
  have tables {q : Nat × State} (h : (match s.walk key c va acc (s.walkStart key c va) with
      | .error e => (.error e : Except XlateFail (Nat × State))
      | .ok (e, s') =>
        let old := (tblGet s'.tlb key []).filter fun (x : TlbEntry) => !(x.asid = e.asid && x.va = e.va)
        let new := walkEntries c.asid va (walkTables s va (s.walkStart key c va).2.2 (s.walkStart key c va).1 (s.walkStart key c va).2.1)
        let kept := (tblGet s'.walks key []).filter fun (x : WalkEntry) => !new.any fun y => y.asid = x.asid && y.va = x.va && y.size = x.size
        .ok (entryPa e (tlbChip key) acc va,
          { s' with tlb := tblSet s'.tlb key (e :: old), walks := tblSet s'.walks key (new ++ kept), tick := s'.tick + 1 })) = .ok q) :
      q.2.drill? j = s.drill? j := by
    split at h
    · cases h
    · rename_i e s' hw
      obtain rfl := by simpa using h
      exact (walk hw : s'.drill? j = s.drill? j)
  unfold State.translate at h
  split at h
  · cases h
  dsimp only at h
  split at h
  · split at h
    · cases h
    split at h
    · cases h
    split at h
    · obtain ⟨-, rfl⟩ := by simpa using h
      rfl
    · exact tables h
  · exact tables h

/-- Nor does the translation of a list of addresses. -/
theorem drill?_xlateAll (chip : Nat) (c : Context) (acc : Access) (l : List (Nat × DWord)) (s : State) (j : Nat) :
    (xlateAll s chip c acc l).2.2.drill? j = s.drill? j := by
  induction l generalizing s with
  | nil => rfl
  | cons q l ih =>
    obtain ⟨i, va⟩ := q
    unfold xlateAll
    split
    · rename_i h
      exact (ih _).trans (drill?_translate h j)
    · exact ih s

/-- THE CHECKS OF A GLOBAL ACCESS change no drill (R157). -/
theorem checkAccess_drills {s s1 : State} {k ctx : Nat} {c : Context} {acc : Access} {atomic : Bool} {align : Nat}
    {real helper : List (Nat × DWord)} {perLane : Bool} {l m : List LaneAddr}
    (h : checkAccess s k ctx c acc atomic align real helper perLane = .ok (l, m, s1)) : SameDrills s s1 := by
  intro j
  unfold checkAccess at h
  dsimp only at h
  split at h
  · cases h
  split at h
  · cases h
  split at h
  · cases h
  split at h
  · cases h
  split at h
  · cases h
  obtain ⟨-, -, rfl⟩ := by simpa using h
  exact (drill?_xlateAll _ _ _ _ _ j).trans (drill?_xlateAll _ _ _ _ _ j)

/-- Nor do those of a memory barrier object (R153, R284). -/
theorem mbarCheck_drills {x : Issue} {s s1 : State} {a : Src} {acc : Access} {l : LaneAddr} (h : mbarCheck x s a acc = .ok (l, s1)) :
    SameDrills s s1 := by
  unfold mbarCheck at h
  dsimp only at h
  split at h
  · cases h
  split at h
  · cases h
  · rename_i hc
    split at h
    · obtain ⟨-, rfl⟩ := by simpa using h
      exact checkAccess_drills hc
    · cases h
  · cases h

end Sys2Proof.Laws
end

