-- ==== Sys2Proof/Laws/Memory.lean ====
section
/-!
SUPPORT. Home memory: a byte reads as what was written last, and every memory operation keeps the canonical form.
-/
namespace Sys2Proof.Laws
open Sys2Proof.Machine

/-- Every address of a list of cells is above a bound. -/
def CellsAbove (n : Nat) (l : List Host.Cell) : Prop := ∀ p ∈ l, n < p.1

theorem cellsWf_cons (a : Nat) (b : Byte) (r : List Host.Cell) :
    cellsWf ((a, b) :: r) = true ↔ b ≠ 0 ∧ CellsAbove a r ∧ cellsWf r = true := by
  induction r generalizing a b with
  | nil => simp [cellsWf, CellsAbove]
  | cons p r ih =>
    obtain ⟨c, e⟩ := p
    simp only [cellsWf, Bool.and_eq_true, bne_iff_ne, ne_eq, decide_eq_true_eq] at ih ⊢
    constructor
    · rintro ⟨⟨hb, hac⟩, h⟩
      refine ⟨hb, ?_, h⟩
      have := (ih c e).1 h
      intro p hp
      rcases List.mem_cons.1 hp with rfl | hp
      · exact hac
      · exact Nat.lt_trans hac (this.2.1 p hp)
    · rintro ⟨hb, ha, h⟩
      exact ⟨⟨hb, ha _ (List.mem_cons_self ..)⟩, h⟩

theorem cellsAbove_set {n : Nat} {l : List Host.Cell} (h : CellsAbove n l) {a : Nat} (ha : n < a) (b : Byte) :
    CellsAbove n (cellSet l a b) := by
  induction l with
  | nil => by_cases hb : b = 0 <;> simp_all [cellSet, CellsAbove]
  | cons p r ih =>
    obtain ⟨x, c⟩ := p
    have hr : CellsAbove n r := fun q hq => h q (List.mem_cons_of_mem _ hq)
    have hx : n < x := h _ (List.mem_cons_self ..)
    have ih := ih hr
    simp only [cellSet]
    split
    · split
      · exact h
      · intro q hq
        rcases List.mem_cons.1 hq with rfl | hq
        · exact ha
        · exact h q hq
    · split
      · split
        · exact hr
        · intro q hq
          rcases List.mem_cons.1 hq with rfl | hq
          · exact ha
          · exact hr q hq
      · intro q hq
        rcases List.mem_cons.1 hq with rfl | hq
        · exact hx
        · exact ih q hq

/-- Writing a byte keeps the canonical form. -/
theorem cellsWf_set {l : List Host.Cell} (h : cellsWf l = true) (a : Nat) (b : Byte) : cellsWf (cellSet l a b) = true := by
  induction l with
  | nil => by_cases hb : b = 0#8 <;> simp [cellSet, cellsWf, hb]
  | cons p r ih =>
    obtain ⟨x, c⟩ := p
    obtain ⟨hc, hx, hr⟩ := (cellsWf_cons x c r).1 h
    simp only [cellSet]
    split
    · rename_i hax
      split
      · exact h
      · refine (cellsWf_cons _ _ _).2 ⟨‹_›, ?_, h⟩
        intro q hq
        rcases List.mem_cons.1 hq with rfl | hq
        · exact hax
        · exact Nat.lt_trans hax (hx q hq)
    · split
      · rename_i hax
        split
        · exact hr
        · exact (cellsWf_cons _ _ _).2 ⟨‹_›, hax ▸ hx, hr⟩
      · exact (cellsWf_cons _ _ _).2 ⟨hc, cellsAbove_set hx (by omega) b, ih hr⟩

theorem cellGet_above {n : Nat} {l : List Host.Cell} (h : CellsAbove n l) : cellGet l n = 0 := by
  induction l with
  | nil => rfl
  | cons p r ih =>
    obtain ⟨x, c⟩ := p
    have hx : n < x := h _ (List.mem_cons_self ..)
    have := ih fun q hq => h q (List.mem_cons_of_mem _ hq)
    simp only [cellGet, tblGet, tblGet?] at this ⊢
    rw [if_neg (by omega)]
    exact this

/-- A byte reads as it was written last. -/
theorem cellGet_set {l : List Host.Cell} (h : cellsWf l = true) (a c : Nat) (b : Byte) :
    cellGet (cellSet l a b) c = if a = c then b else cellGet l c := by
  induction l with
  | nil => by_cases hb : b = 0#8 <;> by_cases hc : a = c <;> simp [cellSet, cellGet, tblGet, tblGet?, hb, hc]
  | cons p r ih =>
    obtain ⟨x, e⟩ := p
    obtain ⟨he, hx, hr⟩ := (cellsWf_cons x e r).1 h
    have ih := ih hr
    simp only [cellSet]
    split
    · rename_i hax
      by_cases hb : b = 0
      · simp only [hb, if_true]
        by_cases hc : a = c
        · subst hc
          have : CellsAbove a ((x, e) :: r) := by
            intro q hq
            rcases List.mem_cons.1 hq with rfl | hq
            · exact hax
            · exact Nat.lt_trans hax (hx q hq)
          rw [if_pos rfl, cellGet_above this]
        · rw [if_neg hc]
      · simp only [hb, if_false, cellGet, tblGet, tblGet?]
        by_cases hc : a = c <;> simp [hc]
    · split
      · rename_i hax
        subst hax
        by_cases hb : b = 0
        · simp only [hb, if_true]
          by_cases hc : a = c
          · subst hc; rw [if_pos rfl, cellGet_above hx]
          · simp [cellGet, tblGet, tblGet?, hc]
        · simp only [hb, if_false, cellGet, tblGet, tblGet?]
          by_cases hc : a = c <;> simp [hc]
      · rename_i h1 h2
        simp only [cellGet, tblGet, tblGet?] at ih ⊢
        by_cases hc : x = c
        · subst hc; simp [h2]
        · simp only [if_neg hc]; exact ih

theorem cellsWf_filter {l : List Host.Cell} (h : cellsWf l = true) (p : Host.Cell → Bool) : cellsWf (l.filter p) = true := by
  induction l with
  | nil => rfl
  | cons q r ih =>
    obtain ⟨x, c⟩ := q
    obtain ⟨hc, hx, hr⟩ := (cellsWf_cons x c r).1 h
    rw [List.filter_cons]
    split
    · exact (cellsWf_cons _ _ _).2 ⟨hc, fun q hq => hx q (List.mem_of_mem_filter hq), ih hr⟩
    · exact ih hr

theorem cellsWf_foldSet (ws : List (Nat × Byte)) {l : List Host.Cell} (h : cellsWf l = true) :
    cellsWf (ws.foldl (fun m w => cellSet m w.1 w.2) l) = true := by
  induction ws generalizing l with
  | nil => exact h
  | cons w r ih => exact ih (cellsWf_set h w.1 w.2)

/-! Every memory operation keeps the canonical form of home memory. -/

theorem wf_of_mem_eq {s t : State} (h : t.mem = s.mem) (hs : Memory.wf s = true) : Memory.wf t = true := by
  simpa [Memory.wf, h] using hs

theorem writeHome_wf {s : State} (h : Memory.wf s = true) (ws : List (Nat × Byte)) : Memory.wf (s.writeHome ws) = true :=
  cellsWf_foldSet ws h
theorem writeHomeLine_wf {s : State} (h : Memory.wf s = true) (l : Nat) (d : Line) : Memory.wf (s.writeHomeLine l d) = true :=
  writeHome_wf h _
@[simp] theorem revoke_mem (s : State) (c l : Nat) : (s.revoke c l).mem = s.mem := rfl
@[simp] theorem dropLine_mem (s : State) (l : Nat) : (s.dropLine l).mem = s.mem := rfl
@[simp] theorem poisonLine_mem (s : State) (l : Nat) : (s.poisonLine l).mem = s.mem := rfl
@[simp] theorem unpoison_mem (s : State) (l : Nat) : (s.unpoison l).mem = s.mem := rfl
@[simp] theorem ownLine_mem (s : State) (c l : Nat) : (s.ownLine c l).mem = s.mem := by
  unfold State.ownLine; split
  · split <;> rfl
  · rfl
@[simp] theorem shareLine_mem (s : State) (c l : Nat) : (s.shareLine c l).mem = s.mem := by
  unfold State.shareLine; split
  · split
    · rfl
    · split
      · rfl
      · split <;> rfl
  · split <;> rfl
@[simp] theorem writeOwned_mem (s : State) (c a : Nat) (b : Byte) : (s.writeOwned c a b).mem = s.mem := by
  simp [State.writeOwned]
@[simp] theorem cohWrite_mem (s : State) (c : Nat) (ws : List (Nat × Byte)) : (s.cohWrite c ws).mem = s.mem := by
  unfold State.cohWrite
  induction ws generalizing s with
  | nil => rfl
  | cons w r ih => simp only [List.foldl_cons]; rw [ih]; split <;> simp
@[simp] theorem storeBytes_mem (s : State) (c : Nat) (ws : List (Nat × Byte)) : (s.storeBytes c ws).mem = s.mem := by
  simp [State.storeBytes, State.putL1]
@[simp] theorem fillL1_mem (s : State) (c l : Nat) : (s.fillL1 c l).mem = s.mem := by
  unfold State.fillL1; split <;> simp
@[simp] theorem dropL1_mem (s : State) (c l : Nat) : (s.dropL1 c l).mem = s.mem := by simp [State.dropL1]
@[simp] theorem lsWrite_mem (s : State) (c : Nat) (ws : List (Nat × Byte)) : (s.lsWrite c ws).mem = s.mem := by
  simp [State.lsWrite]
@[simp] theorem lsTake_mem (s : State) (c b n x : Nat) : (s.lsTake c b n x).mem = s.mem := by simp [State.lsTake]
theorem cleanLine_wf {s : State} (h : Memory.wf s = true) (l : Nat) : Memory.wf (s.cleanLine l) = true := by
  unfold State.cleanLine; split
  · split
    · rename_i o _ _
      have := writeHomeLine_wf h l o.data
      simp only [Memory.wf] at this ⊢
      exact this
    · exact h
  · exact h
theorem flushLine_wf {s : State} (h : Memory.wf s = true) (l : Nat) : Memory.wf (s.flushLine l) = true :=
  wf_of_mem_eq (dropLine_mem _ _) (cleanLine_wf h l)
theorem cohWrite_wf {s : State} (h : Memory.wf s = true) (c : Nat) (ws : List (Nat × Byte)) : Memory.wf (s.cohWrite c ws) = true :=
  wf_of_mem_eq (by simp) h
theorem storeBytes_wf {s : State} (h : Memory.wf s = true) (c : Nat) (ws : List (Nat × Byte)) : Memory.wf (s.storeBytes c ws) = true :=
  wf_of_mem_eq (by simp) h
theorem fillL1_wf {s : State} (h : Memory.wf s = true) (c l : Nat) : Memory.wf (s.fillL1 c l) = true := wf_of_mem_eq (by simp) h
theorem ioWrite_wf {s : State} (h : Memory.wf s = true) (ws : List (Nat × Byte)) : Memory.wf (s.ioWrite ws) = true := by
  unfold State.ioWrite
  induction ws generalizing s with
  | nil => exact h
  | cons w r ih =>
    rw [List.foldl_cons]
    refine ih ?_
    split
    · exact h
    · exact writeHome_wf (wf_of_mem_eq (revoke_mem _ _ _) (flushLine_wf h _)) _

/-- A byte of home memory after a write of one byte. -/
theorem homeByte_writeHome {s : State} (h : Memory.wf s = true) (a c : Nat) (b : Byte) (hc : isRom c = false) :
    (s.writeHome [(a, b)]).homeByte c = if a = c then b else s.homeByte c := by
  unfold State.homeByte isRom at *
  split at hc <;> simp_all [State.writeHome, cellGet_set (show cellsWf s.mem = true from h)]

theorem reset_memory_wf : Memory.wf State.reset = true := by decide

end Sys2Proof.Laws
end

