-- ==== Sys2Proof/Laws/PerInstr.lean ====
section
/-!
SUPPORT. A statement for every instruction as syntax, one lemma a constructor: how many words encode it (R23, R257): two for a
Furrow instruction, one for an instruction of a hart, none for an event, which software does not write down.
-/
namespace Sys2Proof.Laws.EncodingLength
open Sys2Proof.Machine

/-- The number of 32-bit words that encode an instruction. -/
def Statement (i : Instr) : Prop := (encode i).length = if i.isFurrow then 2 else if isHart i then 1 else 0

theorem nop : ∀ x0, Statement (.nop x0) := fun _ => rfl
theorem iadd : ∀ x0 x1 x2 x3 x4, Statement (.iadd x0 x1 x2 x3 x4) := fun _ _ _ _ _ => rfl
theorem isub : ∀ x0 x1 x2 x3 x4, Statement (.isub x0 x1 x2 x3 x4) := fun _ _ _ _ _ => rfl
theorem imul : ∀ x0 x1 x2 x3 x4, Statement (.imul x0 x1 x2 x3 x4) := fun _ _ _ _ _ => rfl
theorem imac : ∀ x0 x1 x2 x3 x4, Statement (.imac x0 x1 x2 x3 x4) := fun _ _ _ _ _ => rfl
theorem imnx : ∀ x0 x1 x2 x3 x4, Statement (.imnx x0 x1 x2 x3 x4) := fun _ _ _ _ _ => rfl
theorem log : ∀ x0 x1 x2 x3 x4, Statement (.log x0 x1 x2 x3 x4) := fun _ _ _ _ _ => rfl
theorem shf : ∀ x0 x1 x2 x3 x4 x5, Statement (.shf x0 x1 x2 x3 x4 x5) := fun _ _ _ _ _ _ => rfl
theorem bfx : ∀ x0 x1 x2 x3 x4, Statement (.bfx x0 x1 x2 x3 x4) := fun _ _ _ _ _ => rfl
theorem bfi : ∀ x0 x1 x2 x3, Statement (.bfi x0 x1 x2 x3) := fun _ _ _ _ => rfl
theorem bit : ∀ x0 x1 x2 x3, Statement (.bit x0 x1 x2 x3) := fun _ _ _ _ => rfl
theorem lea : ∀ x0 x1 x2 x3 x4, Statement (.lea x0 x1 x2 x3 x4) := fun _ _ _ _ _ => rfl
theorem icmp : ∀ x0 x1 x2 x3 x4 x5, Statement (.icmp x0 x1 x2 x3 x4 x5) := fun _ _ _ _ _ _ => rfl
theorem sel : ∀ x0 x1 x2 x3 x4, Statement (.sel x0 x1 x2 x3 x4) := fun _ _ _ _ _ => rfl
theorem mov : ∀ x0 x1 x2 x3, Statement (.mov x0 x1 x2 x3) := fun _ _ _ _ => rfl
theorem kop : ∀ x0 x1 x2 x3 x4, Statement (.kop x0 x1 x2 x3 x4) := fun _ _ _ _ _ => rfl
theorem iaddi : ∀ x0 x1 x2 x3, Statement (.iaddi x0 x1 x2 x3) := fun _ _ _ _ => rfl
theorem andi : ∀ x0 x1 x2 x3, Statement (.andi x0 x1 x2 x3) := fun _ _ _ _ => rfl
theorem ori : ∀ x0 x1 x2 x3, Statement (.ori x0 x1 x2 x3) := fun _ _ _ _ => rfl
theorem xori : ∀ x0 x1 x2 x3, Statement (.xori x0 x1 x2 x3) := fun _ _ _ _ => rfl
theorem shli : ∀ x0 x1 x2 x3, Statement (.shli x0 x1 x2 x3) := fun _ _ _ _ => rfl
theorem shri : ∀ x0 x1 x2 x3, Statement (.shri x0 x1 x2 x3) := fun _ _ _ _ => rfl
theorem sari : ∀ x0 x1 x2 x3, Statement (.sari x0 x1 x2 x3) := fun _ _ _ _ => rfl
theorem movil : ∀ x0 x1 x2, Statement (.movil x0 x1 x2) := fun _ _ _ => rfl
theorem movih : ∀ x0 x1 x2, Statement (.movih x0 x1 x2) := fun _ _ _ => rfl
theorem imuli : ∀ x0 x1 x2 x3, Statement (.imuli x0 x1 x2 x3) := fun _ _ _ _ => rfl
theorem srd : ∀ x0 x1 x2, Statement (.srd x0 x1 x2) := fun _ _ _ => rfl
theorem swr : ∀ x0 x1 x2, Statement (.swr x0 x1 x2) := fun _ _ _ => rfl
theorem sysSysc : ∀ x0 x1, Statement (.sysSysc x0 x1) := fun _ _ => rfl
theorem sysTrapi : ∀ x0 x1, Statement (.sysTrapi x0 x1) := fun _ _ => rfl
theorem sysTret : ∀ x0, Statement (.sysTret x0) := fun _ => rfl
theorem sysUiret : ∀ x0, Statement (.sysUiret x0) := fun _ => rfl
theorem sysWaiti : ∀ x0 x1, Statement (.sysWaiti x0 x1) := fun _ _ => rfl
theorem svldSavev : ∀ x0 x1, Statement (.svldSavev x0 x1) := fun _ _ => rfl
theorem svldLoadv : ∀ x0 x1, Statement (.svldLoadv x0 x1) := fun _ _ => rfl
theorem svldSaveu : ∀ x0 x1, Statement (.svldSaveu x0 x1) := fun _ _ => rfl
theorem svldLoadu : ∀ x0 x1, Statement (.svldLoadu x0 x1) := fun _ _ => rfl
theorem svldSavep : ∀ x0 x1, Statement (.svldSavep x0 x1) := fun _ _ => rfl
theorem svldLoadp : ∀ x0 x1, Statement (.svldLoadp x0 x1) := fun _ _ => rfl
theorem svldSavex : ∀ x0 x1, Statement (.svldSavex x0 x1) := fun _ _ => rfl
theorem svldLoadx : ∀ x0 x1, Statement (.svldLoadx x0 x1) := fun _ _ => rfl
theorem faddF32 : ∀ x0 x1 x2 x3 x4, Statement (.faddF32 x0 x1 x2 x3 x4) := fun _ _ _ _ _ => rfl
theorem fsubF32 : ∀ x0 x1 x2 x3 x4, Statement (.fsubF32 x0 x1 x2 x3 x4) := fun _ _ _ _ _ => rfl
theorem fmulF32 : ∀ x0 x1 x2 x3 x4, Statement (.fmulF32 x0 x1 x2 x3 x4) := fun _ _ _ _ _ => rfl
theorem fmacF32 : ∀ x0 x1 x2 x3 x4, Statement (.fmacF32 x0 x1 x2 x3 x4) := fun _ _ _ _ _ => rfl
theorem fmnxF32 : ∀ x0 x1 x2 x3 x4, Statement (.fmnxF32 x0 x1 x2 x3 x4) := fun _ _ _ _ _ => rfl
theorem fcmpF32 : ∀ x0 x1 x2 x3 x4, Statement (.fcmpF32 x0 x1 x2 x3 x4) := fun _ _ _ _ _ => rfl
theorem fsgn : ∀ x0 x1 x2 x3 x4, Statement (.fsgn x0 x1 x2 x3 x4) := fun _ _ _ _ _ => rfl
theorem fcls : ∀ x0 x1 x2, Statement (.fcls x0 x1 x2) := fun _ _ _ => rfl
theorem faddiF32 : ∀ x0 x1 x2 x3, Statement (.faddiF32 x0 x1 x2 x3) := fun _ _ _ _ => rfl
theorem fmuliF32 : ∀ x0 x1 x2 x3, Statement (.fmuliF32 x0 x1 x2 x3) := fun _ _ _ _ => rfl
theorem fmaciF32 : ∀ x0 x1 x2 x3, Statement (.fmaciF32 x0 x1 x2 x3) := fun _ _ _ _ => rfl
theorem hadd : ∀ x0 x1 x2 x3 x4 x5, Statement (.hadd x0 x1 x2 x3 x4 x5) := fun _ _ _ _ _ _ => rfl
theorem hmul : ∀ x0 x1 x2 x3 x4 x5, Statement (.hmul x0 x1 x2 x3 x4 x5) := fun _ _ _ _ _ _ => rfl
theorem hmac : ∀ x0 x1 x2 x3 x4 x5, Statement (.hmac x0 x1 x2 x3 x4 x5) := fun _ _ _ _ _ _ => rfl
theorem hmnx : ∀ x0 x1 x2 x3 x4 x5, Statement (.hmnx x0 x1 x2 x3 x4 x5) := fun _ _ _ _ _ _ => rfl
theorem hmuliBf16x2 : ∀ x0 x1 x2 x3, Statement (.hmuliBf16x2 x0 x1 x2 x3) := fun _ _ _ _ => rfl
theorem hmuliF16x2 : ∀ x0 x1 x2 x3, Statement (.hmuliF16x2 x0 x1 x2 x3) := fun _ _ _ _ => rfl
theorem cvt : ∀ x0 x1 x2 x3 x4 x5 x6, Statement (.cvt x0 x1 x2 x3 x4 x5 x6) := fun _ _ _ _ _ _ _ => rfl
theorem prmt : ∀ x0 x1 x2 x3, Statement (.prmt x0 x1 x2 x3) := fun _ _ _ _ => rfl
theorem prmti : ∀ x0 x1 x2 x3, Statement (.prmti x0 x1 x2 x3) := fun _ _ _ _ => rfl
theorem mxsc : ∀ x0 x1 x2, Statement (.mxsc x0 x1 x2) := fun _ _ _ => rfl
theorem vdot : ∀ x0 x1 x2 x3 x4, Statement (.vdot x0 x1 x2 x3 x4) := fun _ _ _ _ _ => rfl
theorem qclmp : ∀ x0 x1 x2 x3, Statement (.qclmp x0 x1 x2 x3) := fun _ _ _ _ => rfl
theorem sfuF32 : ∀ x0 x1 x2 x3, Statement (.sfuF32 x0 x1 x2 x3) := fun _ _ _ _ => rfl
theorem sfuBf16x2 : ∀ x0 x1 x2 x3, Statement (.sfuBf16x2 x0 x1 x2 x3) := fun _ _ _ _ => rfl
theorem idiv : ∀ x0 x1 x2 x3 x4, Statement (.idiv x0 x1 x2 x3 x4) := fun _ _ _ _ _ => rfl
theorem fdivF32 : ∀ x0 x1 x2 x3 x4, Statement (.fdivF32 x0 x1 x2 x3 x4) := fun _ _ _ _ _ => rfl
theorem lxch : ∀ x0 x1 x2 x3 x4, Statement (.lxch x0 x1 x2 x3 x4) := fun _ _ _ _ _ => rfl
theorem qx : ∀ x0 x1 x2 x3 x4, Statement (.qx x0 x1 x2 x3 x4) := fun _ _ _ _ _ => rfl
theorem vote : ∀ x0 x1 x2 x3, Statement (.vote x0 x1 x2 x3) := fun _ _ _ _ => rfl
theorem redx : ∀ x0 x1 x2 x3, Statement (.redx x0 x1 x2 x3) := fun _ _ _ _ => rfl
theorem vgeti : ∀ x0 x1 x2 x3, Statement (.vgeti x0 x1 x2 x3) := fun _ _ _ _ => rfl
theorem vputi : ∀ x0 x1 x2 x3, Statement (.vputi x0 x1 x2 x3) := fun _ _ _ _ => rfl
theorem tcfg : ∀ x0 x1 x2, Statement (.tcfg x0 x1 x2) := fun _ _ _ => rfl
theorem tmvr : ∀ x0 x1 x2 x3, Statement (.tmvr x0 x1 x2 x3) := fun _ _ _ _ => rfl
theorem tmvc : ∀ x0 x1 x2 x3, Statement (.tmvc x0 x1 x2 x3) := fun _ _ _ _ => rfl
theorem trdr : ∀ x0 x1 x2 x3, Statement (.trdr x0 x1 x2 x3) := fun _ _ _ _ => rfl
theorem trdc : ∀ x0 x1 x2 x3, Statement (.trdc x0 x1 x2 x3) := fun _ _ _ _ => rfl
theorem topZero : ∀ x0 x1, Statement (.topZero x0 x1) := fun _ _ => rfl
theorem topTrans : ∀ x0 x1 x2, Statement (.topTrans x0 x1 x2) := fun _ _ _ => rfl
theorem topRel : ∀ x0 x1, Statement (.topRel x0 x1) := fun _ _ => rfl
theorem topCopy : ∀ x0 x1 x2, Statement (.topCopy x0 x1 x2) := fun _ _ _ => rfl
theorem tsave : ∀ x0 x1 x2, Statement (.tsave x0 x1 x2) := fun _ _ _ => rfl
theorem tload : ∀ x0 x1 x2, Statement (.tload x0 x1 x2) := fun _ _ _ => rfl
theorem bra : ∀ x0 x1, Statement (.bra x0 x1) := fun _ _ => rfl
theorem brz : ∀ x0 x1, Statement (.brz x0 x1) := fun _ _ => rfl
theorem call : ∀ x0 x1 x2, Statement (.call x0 x1 x2) := fun _ _ _ => rfl
theorem ret : ∀ x0 x1, Statement (.ret x0 x1) := fun _ _ => rfl
theorem jmpu : ∀ x0 x1, Statement (.jmpu x0 x1) := fun _ _ => rfl
theorem jmpv : ∀ x0 x1, Statement (.jmpv x0 x1) := fun _ _ => rfl
theorem land : ∀ x0, Statement (.land x0) := fun _ => rfl
theorem loop : ∀ x0 x1 x2, Statement (.loop x0 x1 x2) := fun _ _ _ => rfl
theorem mpush : ∀ x0, Statement (.mpush x0) := fun _ => rfl
theorem minv : ∀ x0, Statement (.minv x0) := fun _ => rfl
theorem mpop : ∀ x0, Statement (.mpop x0) := fun _ => rfl
theorem kmask : ∀ x0 x1, Statement (.kmask x0 x1) := fun _ _ => rfl
theorem prefi : ∀ x0 x1 x2, Statement (.prefi x0 x1 x2) := fun _ _ _ => rfl
theorem exit : ∀ x0, Statement (.exit x0) := fun _ => rfl
theorem exitSucc : ∀ x0 x1, Statement (.exitSucc x0 x1) := fun _ _ => rfl
theorem ld : ∀ x0 x1 x2 x3 x4, Statement (.ld x0 x1 x2 x3 x4) := fun _ _ _ _ _ => rfl
theorem st : ∀ x0 x1 x2 x3 x4, Statement (.st x0 x1 x2 x3 x4) := fun _ _ _ _ _ => rfl
theorem lds : ∀ x0 x1 x2 x3 x4, Statement (.lds x0 x1 x2 x3 x4) := fun _ _ _ _ _ => rfl
theorem sts : ∀ x0 x1 x2 x3 x4, Statement (.sts x0 x1 x2 x3 x4) := fun _ _ _ _ _ => rfl
theorem ldu : ∀ x0 x1 x2 x3 x4, Statement (.ldu x0 x1 x2 x3 x4) := fun _ _ _ _ _ => rfl
theorem atomI32 : ∀ x0 x1 x2 x3 x4 x5, Statement (.atomI32 x0 x1 x2 x3 x4 x5) := fun _ _ _ _ _ _ => rfl
theorem atomI64 : ∀ x0 x1 x2 x3 x4 x5, Statement (.atomI64 x0 x1 x2 x3 x4 x5) := fun _ _ _ _ _ _ => rfl
theorem atomF32 : ∀ x0 x1 x2 x3 x4, Statement (.atomF32 x0 x1 x2 x3 x4) := fun _ _ _ _ _ => rfl
theorem redI32 : ∀ x0 x1 x2 x3 x4, Statement (.redI32 x0 x1 x2 x3 x4) := fun _ _ _ _ _ => rfl
theorem redF32 : ∀ x0 x1 x2 x3, Statement (.redF32 x0 x1 x2 x3) := fun _ _ _ _ => rfl
theorem redBf16x2 : ∀ x0 x1 x2, Statement (.redBf16x2 x0 x1 x2) := fun _ _ _ => rfl
theorem atoms : ∀ x0 x1 x2 x3 x4 x5, Statement (.atoms x0 x1 x2 x3 x4 x5) := fun _ _ _ _ _ _ => rfl
theorem fenceAcq : ∀ x0 x1, Statement (.fenceAcq x0 x1) := fun _ _ => rfl
theorem fenceRel : ∀ x0 x1, Statement (.fenceRel x0 x1) := fun _ _ => rfl
theorem fenceAr : ∀ x0 x1, Statement (.fenceAr x0 x1) := fun _ _ => rfl
theorem prefd : ∀ x0 x1 x2, Statement (.prefd x0 x1 x2) := fun _ _ _ => rfl
theorem cacheWb : ∀ x0 x1, Statement (.cacheWb x0 x1) := fun _ _ => rfl
theorem cacheInv : ∀ x0 x1, Statement (.cacheInv x0 x1) := fun _ _ => rfl
theorem cacheWbi : ∀ x0 x1, Statement (.cacheWbi x0 x1) := fun _ _ => rfl
theorem ringCfg : ∀ x0 x1 x2, Statement (.ringCfg x0 x1 x2) := fun _ _ _ => rfl
theorem ringClm : ∀ x0 x1 x2, Statement (.ringClm x0 x1 x2) := fun _ _ _ => rfl
theorem ringPub : ∀ x0 x1 x2, Statement (.ringPub x0 x1 x2) := fun _ _ _ => rfl
theorem ringWtf : ∀ x0 x1 x2, Statement (.ringWtf x0 x1 x2) := fun _ _ _ => rfl
theorem ringRel : ∀ x0 x1 x2, Statement (.ringRel x0 x1 x2) := fun _ _ _ => rfl
theorem ringWte : ∀ x0 x1 x2, Statement (.ringWte x0 x1 x2) := fun _ _ _ => rfl
theorem ringQry : ∀ x0 x1 x2, Statement (.ringQry x0 x1 x2) := fun _ _ _ => rfl
theorem stashMap : ∀ x0 x1 x2, Statement (.stashMap x0 x1 x2) := fun _ _ _ => rfl
theorem stashUnmap : ∀ x0 x1, Statement (.stashUnmap x0 x1) := fun _ _ => rfl
theorem stashFlush : ∀ x0 x1, Statement (.stashFlush x0 x1) := fun _ _ => rfl
theorem stashInv : ∀ x0 x1, Statement (.stashInv x0 x1) := fun _ _ => rfl
theorem cpyGl : ∀ x0 x1, Statement (.cpyGl x0 x1) := fun _ _ => rfl
theorem cpyLg : ∀ x0 x1, Statement (.cpyLg x0 x1) := fun _ _ => rfl
theorem cpyGg : ∀ x0 x1, Statement (.cpyGg x0 x1) := fun _ _ => rfl
theorem cpyGb : ∀ x0 x1, Statement (.cpyGb x0 x1) := fun _ _ => rfl
theorem cpyLb : ∀ x0 x1, Statement (.cpyLb x0 x1) := fun _ _ => rfl
theorem cpyFill : ∀ x0 x1, Statement (.cpyFill x0 x1) := fun _ _ => rfl
theorem barAll : ∀ x0 x1 x2, Statement (.barAll x0 x1 x2) := fun _ _ _ => rfl
theorem barPost : ∀ x0 x1 x2, Statement (.barPost x0 x1 x2) := fun _ _ _ => rfl
theorem barHold : ∀ x0 x1, Statement (.barHold x0 x1) := fun _ _ => rfl
theorem barCroft : ∀ x0, Statement (.barCroft x0) := fun _ => rfl
theorem barGrid : ∀ x0, Statement (.barGrid x0) := fun _ => rfl
theorem mbarInit : ∀ x0 x1 x2, Statement (.mbarInit x0 x1 x2) := fun _ _ _ => rfl
theorem mbarArr : ∀ x0 x1 x2, Statement (.mbarArr x0 x1 x2) := fun _ _ _ => rfl
theorem mbarWait : ∀ x0 x1 x2, Statement (.mbarWait x0 x1 x2) := fun _ _ _ => rfl
theorem mbarTest : ∀ x0 x1 x2 x3, Statement (.mbarTest x0 x1 x2 x3) := fun _ _ _ _ => rfl
theorem mbarInv : ∀ x0 x1, Statement (.mbarInv x0 x1) := fun _ _ => rfl
theorem lnchPost : ∀ x0 x1 x2, Statement (.lnchPost x0 x1 x2) := fun _ _ _ => rfl
theorem lnchEvsig : ∀ x0 x1 x2, Statement (.lnchEvsig x0 x1 x2) := fun _ _ _ => rfl
theorem lnchEvtst : ∀ x0 x1 x2 x3, Statement (.lnchEvtst x0 x1 x2 x3) := fun _ _ _ _ => rfl
theorem lnchEvclr : ∀ x0 x1 x2, Statement (.lnchEvclr x0 x1 x2) := fun _ _ _ => rfl
theorem stkCede : ∀ x0 x1, Statement (.stkCede x0 x1) := fun _ _ => rfl
theorem stkTake : ∀ x0 x1, Statement (.stkTake x0 x1) := fun _ _ => rfl
theorem stkQry : ∀ x0 x1 x2, Statement (.stkQry x0 x1 x2) := fun _ _ _ => rfl
theorem plotRsv : ∀ x0 x1 x2, Statement (.plotRsv x0 x1 x2) := fun _ _ _ => rfl
theorem plotRel : ∀ x0, Statement (.plotRel x0) := fun _ => rfl
theorem plotQry : ∀ x0 x1 x2, Statement (.plotQry x0 x1 x2) := fun _ _ _ => rfl
theorem plotCarve : ∀ x0 x1, Statement (.plotCarve x0 x1) := fun _ _ => rfl
theorem plotUncarve : ∀ x0 x1, Statement (.plotUncarve x0 x1) := fun _ _ => rfl
theorem plotMerge : ∀ x0 x1, Statement (.plotMerge x0 x1) := fun _ _ => rfl
theorem plotSplit : ∀ x0 x1, Statement (.plotSplit x0 x1) := fun _ _ => rfl
theorem bedClaim : ∀ x0 x1 x2, Statement (.bedClaim x0 x1 x2) := fun _ _ _ => rfl
theorem bedRel : ∀ x0 x1 x2, Statement (.bedRel x0 x1 x2) := fun _ _ _ => rfl
theorem bedLdv : ∀ x0 x1 x2, Statement (.bedLdv x0 x1 x2) := fun _ _ _ => rfl
theorem bedZero : ∀ x0 x1 x2, Statement (.bedZero x0 x1 x2) := fun _ _ _ => rfl
theorem bedScl : ∀ x0 x1 x2, Statement (.bedScl x0 x1 x2) := fun _ _ _ => rfl
theorem mma : ∀ x0 x1 x2 x3 x4, Statement (.mma x0 x1 x2 x3 x4) := fun _ _ _ _ _ => rfl
theorem msyncOpf : ∀ x0, Statement (.msyncOpf x0) := fun _ => rfl
theorem msyncWait : ∀ x0, Statement (.msyncWait x0) := fun _ => rfl
theorem msyncDrain : ∀ x0, Statement (.msyncDrain x0) := fun _ => rfl
theorem ard : ∀ x0 x1 x2 x3 x4, Statement (.ard x0 x1 x2 x3 x4) := fun _ _ _ _ _ => rfl
theorem awr : ∀ x0 x1 x2, Statement (.awr x0 x1 x2) := fun _ _ _ => rfl
theorem ast : ∀ x0 x1 x2, Statement (.ast x0 x1 x2) := fun _ _ _ => rfl
theorem azr : ∀ x0 x1, Statement (.azr x0 x1) := fun _ _ => rfl
theorem svlStkgrant : ∀ x0 x1 x2, Statement (.svlStkgrant x0 x1 x2) := fun _ _ _ => rfl
theorem ctxBuild : ∀ x0 x1 x2, Statement (.ctxBuild x0 x1 x2) := fun _ _ _ => rfl
theorem ctxActivate : ∀ x0 x1 x2, Statement (.ctxActivate x0 x1 x2) := fun _ _ _ => rfl
theorem ctxPreempt : ∀ x0 x1 x2, Statement (.ctxPreempt x0 x1 x2) := fun _ _ _ => rfl
theorem ctxKill : ∀ x0 x1 x2, Statement (.ctxKill x0 x1 x2) := fun _ _ _ => rfl
theorem ctxRelease : ∀ x0 x1 x2, Statement (.ctxRelease x0 x1 x2) := fun _ _ _ => rfl
theorem ctxBudget : ∀ x0 x1 x2, Statement (.ctxBudget x0 x1 x2) := fun _ _ _ => rfl
theorem ctxPriority : ∀ x0 x1 x2, Statement (.ctxPriority x0 x1 x2) := fun _ _ _ => rfl
theorem ctxRestart : ∀ x0 x1 x2, Statement (.ctxRestart x0 x1 x2) := fun _ _ _ => rfl
theorem svlSysret : ∀ x0 x1 x2, Statement (.svlSysret x0 x1 x2) := fun _ _ _ => rfl
theorem svlFqdone : ∀ x0 x1 x2, Statement (.svlFqdone x0 x1 x2) := fun _ _ _ => rfl
theorem svlFqkill : ∀ x0 x1 x2, Statement (.svlFqkill x0 x1 x2) := fun _ _ _ => rfl
theorem svlQpost : ∀ x0 x1 x2, Statement (.svlQpost x0 x1 x2) := fun _ _ _ => rfl
theorem svlQfence : Statement (.svlQfence) := rfl
theorem svlEvsig : ∀ x0 x1 x2, Statement (.svlEvsig x0 x1 x2) := fun _ _ _ => rfl
theorem svlEvclr : ∀ x0 x1 x2, Statement (.svlEvclr x0 x1 x2) := fun _ _ _ => rfl
theorem svlEvwait : ∀ x0 x1 x2, Statement (.svlEvwait x0 x1 x2) := fun _ _ _ => rfl
theorem swathArbitration : ∀ x0 x1 x2, Statement (.swathArbitration x0 x1 x2) := fun _ _ _ => rfl
theorem stallEnd : ∀ x0, Statement (.stallEnd x0) := fun _ => rfl
theorem resultLanding : ∀ x0, Statement (.resultLanding x0) := fun _ => rfl
theorem variableResultLanding : ∀ x0 x1 x2 x3, Statement (.variableResultLanding x0 x1 x2 x3) := fun _ _ _ _ => rfl
theorem storeQueueDeparture : ∀ x0 x1, Statement (.storeQueueDeparture x0 x1) := fun _ _ => rfl
theorem longWaitMet : ∀ x0, Statement (.longWaitMet x0) := fun _ => rfl
theorem waitiDeadline : ∀ x0, Statement (.waitiDeadline x0) := fun _ => rfl
theorem boundaryTrap : ∀ x0, Statement (.boundaryTrap x0) := fun _ => rfl
theorem userInterruptDelivery : ∀ x0, Statement (.userInterruptDelivery x0) := fun _ => rfl
theorem preempt : ∀ x0, Statement (.preempt x0) := fun _ => rfl
theorem overrun : ∀ x0, Statement (.overrun x0) := fun _ => rfl
theorem budgetExhausted : ∀ x0, Statement (.budgetExhausted x0) := fun _ => rfl
theorem fetchBufferRequest : ∀ x0, Statement (.fetchBufferRequest x0) := fun _ => rfl
theorem icacheFillDone : ∀ x0 x1 x2, Statement (.icacheFillDone x0 x1 x2) := fun _ _ _ => rfl
theorem fetchFault : ∀ x0, Statement (.fetchFault x0) := fun _ => rfl
theorem directoryRequest : ∀ x0 x1 x2, Statement (.directoryRequest x0 x1 x2) := fun _ _ _ => rfl
theorem atomPerform : ∀ x0 x1 x2 x3, Statement (.atomPerform x0 x1 x2 x3) := fun _ _ _ _ => rfl
theorem ringRequestServed : ∀ x0 x1, Statement (.ringRequestServed x0 x1) := fun _ _ => rfl
theorem stationDequeue : ∀ x0 x1 x2, Statement (.stationDequeue x0 x1 x2) := fun _ _ _ => rfl
theorem copyCompletion : ∀ x0 x1 x2, Statement (.copyCompletion x0 x1 x2) := fun _ _ _ => rfl
theorem copyFaultStop : ∀ x0 x1, Statement (.copyFaultStop x0 x1) := fun _ _ => rfl
theorem copyAbort : ∀ x0 x1, Statement (.copyAbort x0 x1) := fun _ _ => rfl
theorem collectiveAssembly : ∀ x0, Statement (.collectiveAssembly x0) := fun _ => rfl
theorem plotCommandDequeue : ∀ x0, Statement (.plotCommandDequeue x0) := fun _ => rfl
theorem mmaStart : ∀ x0, Statement (.mmaStart x0) := fun _ => rfl
theorem mmaCompletion : ∀ x0, Statement (.mmaCompletion x0) := fun _ => rfl
theorem postedBedWriteDone : ∀ x0 x1, Statement (.postedBedWriteDone x0 x1) := fun _ _ => rfl
theorem astFaultStop : ∀ x0, Statement (.astFaultStop x0) := fun _ => rfl
theorem plotEccError : ∀ x0, Statement (.plotEccError x0) := fun _ => rfl
theorem cedeAccept : ∀ x0, Statement (.cedeAccept x0) := fun _ => rfl
theorem handoverDrainStep : ∀ x0, Statement (.handoverDrainStep x0) := fun _ => rfl
theorem handoverPortOpen : ∀ x0, Statement (.handoverPortOpen x0) := fun _ => rfl
theorem stackZeroingDone : ∀ x0, Statement (.stackZeroingDone x0) := fun _ => rfl
theorem groupPlacement : ∀ x0 x1, Statement (.groupPlacement x0 x1) := fun _ _ => rfl
theorem groupExitSequence : ∀ x0, Statement (.groupExitSequence x0) := fun _ => rfl
theorem groupRecordWrite : ∀ x0, Statement (.groupRecordWrite x0) := fun _ => rfl
theorem groupRestore : ∀ x0 x1, Statement (.groupRestore x0 x1) := fun _ _ => rfl
theorem contextRetire : ∀ x0, Statement (.contextRetire x0) := fun _ => rfl
theorem syscallQueuePost : ∀ x0, Statement (.syscallQueuePost x0) := fun _ => rfl
theorem taskPost : ∀ x0, Statement (.taskPost x0) := fun _ => rfl
theorem faultRecordPost : ∀ x0, Statement (.faultRecordPost x0) := fun _ => rfl
theorem packetCheck : ∀ x0 x1, Statement (.packetCheck x0 x1) := fun _ _ => rfl
theorem kcbRead : ∀ x0, Statement (.kcbRead x0) := fun _ => rfl
theorem qcmdOpen : ∀ x0, Statement (.qcmdOpen x0) := fun _ => rfl
theorem qcmdPause : ∀ x0, Statement (.qcmdPause x0) := fun _ => rfl
theorem qcmdResume : ∀ x0, Statement (.qcmdResume x0) := fun _ => rfl
theorem qcmdDrain : ∀ x0, Statement (.qcmdDrain x0) := fun _ => rfl
theorem queueDrainDone : ∀ x0, Statement (.queueDrainDone x0) := fun _ => rfl
theorem scqbaseWrite : ∀ x0 x1, Statement (.scqbaseWrite x0 x1) := fun _ _ => rfl
theorem scqheadWrite : ∀ x0 x1, Statement (.scqheadWrite x0 x1) := fun _ _ => rfl
theorem fqbaseWrite : ∀ x0 x1, Statement (.fqbaseWrite x0 x1) := fun _ _ => rfl
theorem fqheadWrite : ∀ x0 x1, Statement (.fqheadWrite x0 x1) := fun _ _ => rfl
theorem tlbiVaAsid : ∀ x0, Statement (.tlbiVaAsid x0) := fun _ => rfl
theorem tlbiAsid : ∀ x0, Statement (.tlbiAsid x0) := fun _ => rfl
theorem tlbiVaAll : ∀ x0, Statement (.tlbiVaAll x0) := fun _ => rfl
theorem tlbiAll : ∀ x0, Statement (.tlbiAll x0) := fun _ => rfl
theorem shootdownDone : Statement (.shootdownDone) := rfl
theorem icflushGo : ∀ x0, Statement (.icflushGo x0) := fun _ => rfl
theorem icflushDone : ∀ x0, Statement (.icflushDone x0) := fun _ => rfl
theorem linkIsolate : ∀ x0, Statement (.linkIsolate x0) := fun _ => rfl
theorem linkReset : ∀ x0, Statement (.linkReset x0) := fun _ => rfl
theorem linkRetrain : ∀ x0, Statement (.linkRetrain x0) := fun _ => rfl
theorem linkTrainingDone : ∀ x0 x1 x2, Statement (.linkTrainingDone x0 x1 x2) := fun _ _ _ => rfl
theorem linkLaneFailure : ∀ x0 x1, Statement (.linkLaneFailure x0 x1) := fun _ _ => rfl
theorem directoryTimeout : ∀ x0, Statement (.directoryTimeout x0) := fun _ => rfl
theorem heartbeatTimeout : ∀ x0, Statement (.heartbeatTimeout x0) := fun _ => rfl
theorem linkUncorrectableError : ∀ x0, Statement (.linkUncorrectableError x0) := fun _ => rfl
theorem pcieContainment : ∀ x0, Statement (.pcieContainment x0) := fun _ => rfl
theorem chipletIsolation : ∀ x0, Statement (.chipletIsolation x0) := fun _ => rfl
theorem chipletResetDone : ∀ x0, Statement (.chipletResetDone x0) := fun _ => rfl
theorem pciebifWrite : ∀ x0, Statement (.pciebifWrite x0) := fun _ => rfl
theorem remoteResponse : ∀ x0 x1 x2, Statement (.remoteResponse x0 x1 x2) := fun _ _ _ => rfl
theorem inboundRemoteAccess : ∀ x0 x1 x2 x3, Statement (.inboundRemoteAccess x0 x1 x2 x3) := fun _ _ _ _ => rfl
theorem opctlWrite : ∀ x0 x1 x2, Statement (.opctlWrite x0 x1 x2) := fun _ _ _ => rfl
theorem clockTransitionDone : ∀ x0, Statement (.clockTransitionDone x0) := fun _ => rfl
theorem tsensRefresh : ∀ x0 x1 x2, Statement (.tsensRefresh x0 x1 x2) := fun _ _ _ => rfl
theorem thermalTrip : ∀ x0 x1, Statement (.thermalTrip x0 x1) := fun _ _ => rfl
theorem overCurrentAlarm : ∀ x0, Statement (.overCurrentAlarm x0) := fun _ => rfl
theorem ocauseWrite : ∀ x0 x1, Statement (.ocauseWrite x0 x1) := fun _ _ => rfl
theorem eccceWrite : ∀ x0, Statement (.eccceWrite x0) := fun _ => rfl
theorem uvSramError : ∀ x0, Statement (.uvSramError x0) := fun _ => rfl
theorem coldReset : ∀ x0, Statement (.coldReset x0) := fun _ => rfl
theorem warmReset : ∀ x0 x1, Statement (.warmReset x0 x1) := fun _ _ => rfl
theorem attestationRequest : ∀ x0 x1, Statement (.attestationRequest x0 x1) := fun _ _ => rfl
theorem registerWrite : ∀ x0 x1 x2 x3, Statement (.registerWrite x0 x1 x2 x3) := fun _ _ _ _ => rfl
theorem astCompletion : ∀ x0 x1, Statement (.astCompletion x0 x1) := fun _ _ => rfl
theorem astAbort : ∀ x0, Statement (.astAbort x0) := fun _ => rfl
theorem bedZeroSclCompletion : ∀ x0, Statement (.bedZeroSclCompletion x0) := fun _ => rfl
theorem sramCorrectedError : ∀ x0, Statement (.sramCorrectedError x0) := fun _ => rfl

end Sys2Proof.Laws.EncodingLength
end

