-- ==== Sys2Proof/Tests/Slice0.lean ====
section
/-!
SUPPORT. The model's own tests: words written out from the spec's encodings, an ill-formed term for each check of WellFormed,
single steps with results taken from the spec's text and worked examples, and for every statement with hypotheses a state and
operands that meet them.
-/
namespace Sys2Proof.Tests
set_option Elab.async false
open Sys2Proof.Machine

/-! ### Words (R23-R34, R37, and the words that the spec's chapters print) -/

/-- The two words of an instruction as the spec prints them decode to it, and are what it encodes to. -/
def stands (w0 w1 : Word) (i : Instr) : Bool := decide (decodeFurrow (w1 ++ w0) = .ok i) && decide (encode i = [w0, w1])
/-- The words decode to no instruction. -/
def illegal (w0 w1 : Word) : Bool := match decodeFurrow (w1 ++ w0) with | .ok _ => false | .error _ => true

theorem test_words_nop : (stands 0x90000000 0x00000000 (.nop { tk0 := 9 }) && stands 0x08000000 0x00000000 (.nop { e := true })) = true := by
  decide +kernel
theorem test_words_integer :
    (stands 0x00100000 0x00041E92 (.iadd .i32 0 (.s 7) .dlane {}) && stands 0x00101500 0x00005402 (.iadd .i32 21 (.v 21) (.v 1) {}) &&
      stands 0x08B00400 0x00642A92 (.lea 4 4 (.s 10) .dlane { e := true, sbw := 1 }) &&
      stands 0x08C00200 0x00052E90 (.icmp .eq false 2 .drill .zero { e := true }) &&
      stands 0x01000900 0x00090009 (.iaddi 9 (.v 9) 9 {})) = true := by decide +kernel
theorem test_words_system :
    (stands 0x01C80500 0x00000400 (.srd 5 1 { gn := true }) && stands 0x01D00000 0x00000604 (.swr 1 (.s 2) {}) &&
      stands 0x01E00000 0x00042000 (.sysSysc (.s 8) {}) && stands 0x01E00000 0x00080042 (.sysTrapi 0x21 {}) &&
      stands 0x09E00000 0x00100000 (.sysTret { e := true }) &&
      stands 0x09E00000 0x00242800 (.sysWaiti (.s 10) { e := true }) &&
      stands 0x01F00000 0x0004E000 (.svldSavev (.s 56) {}) && stands 0x01F00000 0x003CE000 (.svldLoadx (.s 56) {})) = true := by decide +kernel
theorem test_words_float :
    (stands 0x02901600 0x0010BF00 (.fmuliF32 22 (.v 16) 0xBF00 {}) && stands 0x02302000 0x00004432 (.fmacF32 .rne 32 (.v 17) (.v 25) {}) &&
      stands 0x03000300 0x00002125 (.cvt .rne true 3 (.v 8) 2 0x12 {}) && stands 0x03801404 0x00084000 (.sfuF32 .rsqa 20 (.v 16) { sbs := 2 }) &&
      stands 0x0C300600 0x00980000 (.redx .addF 6 (.v 0) { e := true, sbw := 2 })) = true := by decide +kernel
theorem test_words_control :
    (stands 0x0D510000 0x00002800 (.jmpv (.v 10) { e := true, gp := 1 }) && stands 0x0D701100 0x0007FFEB (.loop 17 0x7FFEB { e := true }) &&
      stands 0x05C00000 0x0010000F (.prefi 2 15 {}) && stands 0x0DD00000 0x00000000 (.exit { e := true }) &&
      stands 0x0DD00000 0x000C1800 (.exitSucc (.s 6) { e := true })) = true := by decide +kernel
theorem test_words_memory :
    (stands 0x06000402 0x00201804 (.ld .w 4 (.v 6) 4 { sbs := 1 }) && stands 0x06300800 0x03207400 (.sts .q 8 (.v 29) 0 { sbw := 0x0C }) &&
      stands 0x06400804 0x000C2000 (.ldu .d 8 (.s 8) 0 { sbs := 2 }) &&
      stands 0x06500554 0x0000280E (.atomI32 .add false 5 (.v 10) (.v 7) { ld := 5, sbs := 2 }) &&
      stands 0x06C00000 0x00200002 (.fenceRel .pkg {}) && stands 0x06C00000 0x00200004 (.fenceAr .pkg {}) &&
      stands 0x06C00000 0x00280002 (.fenceRel .sys {}) && stands 0x06E00000 0x00001000 (.cacheWb (.v 4) {})) = true := by decide +kernel
theorem test_words_local :
    (stands 0x07000604 0x001C0800 (.ringWtf 6 (.s 2) { sbs := 2 }) && stands 0x07200000 0x10042000 (.cpyGl (.s 8) { tk1 := 1 }) &&
      stands 0x07200000 0x101C6000 (.cpyGb (.s 24) { tk1 := 1 }) && stands 0x07200000 0x102C2000 (.cpyFill (.s 8) { tk1 := 1 })) = true := by
  decide +kernel
theorem test_words_barriers :
    (stands 0x0F300000 0x00040A06 (.barAll (.s 2) (.s 3) { e := true }) && stands 0x07300000 0x000C0A06 (.barPost (.s 2) (.s 3) {}) &&
      stands 0x0F300000 0x00140800 (.barHold (.s 2) { e := true }) && stands 0x0F300000 0x00180000 (.barCroft { e := true }) &&
      stands 0x0F300000 0x00200000 (.barGrid { e := true }) && stands 0x0F300000 0x00052290 (.barAll .zero .zero { e := true }) &&
      stands 0x07400000 0x0004120C (.mbarInit (.s 4) (.s 6) {}) && stands 0x07400000 0x000C120C (.mbarArr (.s 4) (.s 6) {}) &&
      stands 0x0F400000 0x0014120C (.mbarWait (.s 4) (.s 6) { e := true }) &&
      stands 0x07400102 0x001C120C (.mbarTest 1 (.s 4) (.s 6) { sbs := 1 }) && stands 0x07400000 0x00241000 (.mbarInv (.s 4) {})) = true := by
  decide +kernel
theorem test_words_queues_plots :
    (stands 0x07500000 0x0004120C (.lnchPost (.s 4) (.s 6) {}) && stands 0x07500000 0x000C120C (.lnchEvsig (.s 4) (.s 6) {}) &&
      stands 0x07500102 0x0014120C (.lnchEvtst 1 (.s 4) (.s 6) { sbs := 1 }) && stands 0x07500000 0x001C120C (.lnchEvclr (.s 4) (.s 6) {}) &&
      stands 0x07800102 0x00040800 (.plotRsv 1 (.s 2) { sbs := 1 }) && stands 0x87900000 0x00080000 (.bedRel 0 0 { tk0 := 8 }) &&
      stands 0x07A00000 0x20208A0C (.mma .mx8 false 0x22 (.s 6) { tk1 := 2 }) && stands 0x07A00000 0x0020020D (.mma .mx8 true 0 (.s 6) {}) &&
      stands 0x07C00804 0x0000020F (.ard .c1 true 8 (.s 7) { sbs := 2 })) = true := by decide +kernel
/-- The Xsvl words of harts (R257, R291, R311, R326, R357), with rd = a0, rs1 = a1, rs2 = a2. -/
theorem test_words_harts :
    ([(0x00C5A50B, Instr.svlStkgrant 10 11 12), (0x06C5950B, .ctxKill 10 11 12), (0x04C5950B, .svlSysret 10 11 12),
      (0x00C5950B, .svlFqdone 10 11 12), (0x02C5950B, .svlFqkill 10 11 12), (0x00C5850B, .svlQpost 10 11 12), (0x0200000B, .svlQfence),
      (0x04C5850B, .svlEvsig 10 11 12), (0x06C5850B, .svlEvclr 10 11 12), (0x08C5850B, .svlEvwait 10 11 12)].all fun p =>
        decide (decodeHart 3 p.1 = .ok p.2) && decide (encode p.2 = [p.1])) = true := by decide +kernel
/-- The words of R39's table: three that are no instruction; a BRZ without E is one, which R26 stops. -/
theorem test_words_illegal : (illegal 0x01A00000 0 && illegal 0x02000100 0x00280804 && illegal 0x00E00100 4 &&
    stands 0x05100000 8 (.brz 8 {}) && swathBroken { gid := 0, idx := 0, slot := 0, cm := 1 } (.brz 8 {})) = true := by decide +kernel

/-! ### Ill-formed terms: one for each check of WellFormed -/

theorem test_wf_refuses : ([
    (.nop { tk1 := 4 }, .tk1Reserved), (.nop { sbs := 7 }, .slotReserved), (.ld .w 4 (.v 6) 4 {}, .slotRequired),
    (.exit { e := true, sbs := 1 }, .slotForbidden), (.iaddi 9 (.v 9) 9 { sbw := 3 }, .waitField), (.barCroft { gp := 1, e := true }, .guardForbidden),
    (.swr 1 (.v 2) {}, .srcClass), (.ld .w 4 (.v 6) 4 { gn := true, sbs := 1 }, .uniformForbidden),
    (.icmp .eq false 8 (.v 1) (.v 2) {}, .dstReserved), (.iadd .i64 1 (.v 2) (.v 4) {}, .dstOdd), (.ld .q 2 (.v 6) 4 { sbs := 1 }, .dstQuad),
    (.ret (.s 1) { e := true }, .srcOdd), (.sysSysc (.s 4) {}, .srcWindow), (.st .w 4 (.v 6) 4 { ld := 1 }, .latchForbidden),
    (.iadd .i64 2 (.v 2) (.v 4) { ld := 3 }, .latchOdd), (.atoms .add false 5 (.v 10) (.v 7) { ld := 4, sbs := 1 }, .scopeReserved),
    (.st .w 4 (.v 6) 4 { nw := true }, .noWriteForbidden), (.exit { e := true, tk1 := 1 }, .tokenForbidden),
    (.land { sbw := 1 }, .fieldNonzero), (.icmp .eq true 1 (.v 1) (.v 2) {}, .operandField)] : List (Instr × WfError)).all
      (fun p => decide (p.1.check = some p.2)) = true := by decide +kernel

/-! ### A small machine: one context, one group of 64 lanes, its first drill ISSUING; 64 vector and 56 uniform registers -/

/-- A control block with the most that most tests need. -/
def kcb : Kcb := { coop := false, restart := false, succ := true, plot := true, logR := 0, logC := 0, croft := 1, codes := 31, taskDie := 0, v := 64, s := 56, t := 8, ls := 65536, entryA := 0x8000, entryB := 0, seedline := 0, opCount := 0, translated := 0, reeve := 0, coulter := 0 }
/-- The drill: some registers, an outstanding landing of none. -/
def d0 : Drill := { gid := 0, idx := 0, slot := 0, st := .issuing, cm := 0xFFFFFFFF, pc := 0x8000, swathPc := 0x8000, n := 5 }
/-- The second drill of the group. -/
def d1 : Drill := { d0 with idx := 1, st := .ready }
/-- The group. -/
def g0 : Group := { ctx := 0, launch := 0, croft := 0, rank := 0, x := 0, y := 0, z := 0, g := 64, kcb := kcb, die := 0, core := 0, pos := [0, 1], lsBase := 0, saveSlot := 0, gsave := 0x100000 }
/-- The context: identity pages in a cached translation of chiplet 4, a trap vector. -/
def c0 : Context := { st := .active, asid := 1, prio := 0, carve := true, savevec := 0x2000, restvec := 0x3000, trapvec := 0x1000, saveBase := 0x100000, garea := 8192, darea := 8192, slots := 4, satp := 0, budget := 0 }
/-- Cached translations of a gibibyte from address 0 on, and of the ones that tests name. -/
def page (va pa : Nat) : TlbEntry := { asid := 1, global := false, va := va, pa := pa, size := 2 ^ 30, level := 2, perms := 0xDF, pin := false, rep := false, ph := 0, path := false }
/-- The machine with a first drill and a group: the translations of chiplet 4, of two of its copy engines and of a sequencer of chiplet 8. -/
def machine (d : Drill) (g : Group) : State := { cur := some (.drill 0), drills := [(0, d), (1, d1)], groups := [(0, g)], ctxs := [(0, c0)], tlb := [4, 32, 34, 256].map fun c => (c, [page 0 0x8000000000, page 0x40000000 0x10000000, page 0x80000000 0x50000000000]), gtime := 1000 }
/-- The machine as it stands. -/
def demo : State := machine d0 g0
/-- Every chiplet up. -/
def up (s : State) : State := { s with links := (List.range 48).map fun n => (n, { st := .active, width := 1 }) }

/-- An instruction fires at the first drill, and what it sees meets `pre`. -/
def meets (i : Instr) (s : State) (pre : Issue → State → Bool) : Bool :=
  match s.drill? 0 with
  | none => false
  | some d => match s.group? d.gid with
    | none => false
    | some g => decide (s.cur = some (.drill 0)) &&
      decide ((earlyTrap d g i).isNone = true ∧ d.unclear i.ctl.sbw = false ∧ (poisonedWait d i.ctl.sbw).isNone = true ∧ readsMarked d g i = false) &&
      decide ((i.ctl.sbs = 0 ∨ d.count i.ctl.sbs.toNat < 15) ∧ (i.shape.queue = true → d.storeQueue.length < 64) ∧
        (afterStores i = true → d.storeQueue.isEmpty = true)) &&
      decide (takesTk0 i d → tokensReady g.tok 1 i.ctl.tk0 = true ∧ tokenQueued s g d i.ctl.tk0 = false ∧ (tk0Tokens g i.ctl.tk0).2 = false) &&
      pre (sees i 0 d g) (actsIn i s 0 d g)
/-- What `meets` says is what a statement's hypotheses ask. -/
theorem meets_fires {i : Instr} {s : State} {pre : Issue → State → Bool} (h : meets i s pre = true) :
    ∃ k d g, Fires i s k d g ∧ pre (sees i k d g) (actsIn i s k d g) = true := by
  unfold meets at h
  split at h
  · cases h
  · rename_i d hd
    split at h
    · cases h
    · rename_i g hg
      simp only [Bool.and_eq_true, decide_eq_true_eq, Option.isNone_iff_eq_none, List.isEmpty_iff] at h
      exact ⟨0, d, g, ⟨⟨h.1.1.1.1, hd, hg⟩, h.1.1.1.2, h.1.1.2, h.1.2⟩, h.2⟩
/-- A long wait that fires, its condition judged as it comes to issue and as it acts. -/
def meetsLong (i : Instr) (s : State) (pre : Issue → State → Bool) : Bool :=
  meets i s pre && (match s.drill? 0 with
    | some d => !d.metWait && (match s.group? d.gid with
      | some g => pre (comes i 0 d g) (s.armed (comes i 0 d g))
      | none => false)
    | none => false)
/-- The instructions of a list fire at the machine as it stands, whatever their operands hold. -/
def allFire (l : List Instr) : Bool := l.all fun i => meets i demo fun _ _ => true

theorem witness_DecodeTraps_IssueStalls :
    (earlyTrap { d0 with needLand := none } g0 (.iadd .i32 64 (.v 1) (.v 2) {})).isSome = true ∧
    (Instr.icmp .eq true 1 (.v 1) (.v 2) {}).wf = false ∧ needsSystem d0 (.sysTret { e := true }) = true ∧
    ({ d0 with idxInSwath := 23 } : Drill).idxInSwath ≥ 23 ∧ (Instr.brz 0 {}).shape.control = true ∧
    ({ d0 with sb := [(1, 1)] } : Drill).unclear 1 = true ∧ 15 ≤ ({ d0 with sb := [(6, 15)] } : Drill).count 6 ∧
    (earlyTrap d0 g0 (.st .w 0 (.v 2) 0 {})).isNone = true ∧ (Instr.st .w 0 (.v 2) 0 {}).shape.queue = true := by decide +kernel
theorem witness_integer : (
    allFire [.iadd .i32 1 (.v 2) (.v 3) {}, .iadd .i32Sat 63 (.v 2) (.s 3) {}, .iadd .ui32Sat 1 (.v 2) .zero {}, .iadd .i64 2 (.v 2) (.v 4) {}, .isub .i32 1 (.v 2) .dlane {}, .isub .i32Sat 1 (.v 2) .glane {}, .isub .ui32Sat 1 (.l 2) (.v 3) {}, .isub .i64 62 (.v 62) (.s 54) {}] &&
    allFire [.imul .lo 1 (.v 2) (.v 3) {}, .imul .hiI 1 (.v 2) (.v 3) {}, .imul .hiU 1 (.v 2) (.v 3) {}, .imul .wideI 2 (.v 2) (.v 3) {}, .imul .wideU 2 (.v 2) (.v 3) {}, .imac .lo 1 (.v 2) (.v 3) {}, .imac .wideU 2 (.v 2) (.v 3) {}, .icmp .eq false 7 (.v 2) (.v 3) {}] &&
    allFire [.icmp .ne false 0 (.v 2) (.v 3) {}, .icmp .lt false 1 (.v 2) (.v 3) {}, .icmp .le false 1 (.v 2) (.v 3) {}, .icmp .gt false 1 (.v 2) (.v 3) {}, .icmp .ge false 1 (.v 2) (.v 3) {}, .icmp .lt true 1 (.v 2) (.v 3) {}, .icmp .le true 1 (.v 2) (.v 3) {}, .icmp .gt true 1 (.v 2) (.v 3) {}] &&
    allFire [.icmp .ge true 1 (.v 2) (.v 3) {}, .sel 7 1 (.v 2) (.v 3) {}, .mov false 1 (.v 2) {}, .mov true 2 (.v 2) {}, .kop .and 1 (.k 2) (.k 7) {}, .kop .or 1 (.k 2) (.k 3) {}, .kop .xor 1 (.k 2) (.k 3) {}, .kop .andn 1 (.k 2) (.k 3) {}] &&
    allFire [.kop .not 1 (.k 2) (.v 0) {}, .imnx .minI 1 (.v 2) (.v 3) {}, .imnx .maxI 1 (.v 2) (.v 3) {}, .imnx .minU 1 (.v 2) (.v 3) {}, .imnx .maxU 1 (.v 2) (.v 3) {}, .imnx .abs 1 (.v 2) (.v 0) {}, .imnx .neg 1 (.v 2) (.v 0) {}, .log .and 1 (.v 2) (.v 3) {}] &&
    allFire [.log .or 1 (.v 2) (.v 3) {}, .log .xor 1 (.v 2) (.v 3) {}, .log .andn 1 (.v 2) (.v 3) {}, .log .orn 1 (.v 2) (.v 3) {}, .log .xnor 1 (.v 2) (.v 3) {}, .shf .shl false 1 (.v 2) (.v 3) {}, .shf .shr false 1 (.v 2) (.v 3) {}, .shf .sar false 1 (.v 2) (.v 3) {}] &&
    allFire [.shf .rol false 1 (.v 2) (.v 3) {}, .shf .ror false 1 (.v 2) (.v 3) {}, .shf .shl true 2 (.v 2) (.v 3) {}, .shf .shr true 2 (.v 2) (.v 3) {}, .shf .sar true 2 (.v 2) (.v 3) {}, .shf .rol true 2 (.v 2) (.v 3) {}, .shf .ror true 2 (.v 2) (.v 3) {}, .bfx false 1 (.v 2) (.v 3) {}] &&
    allFire [.bfx true 1 (.v 2) (.v 3) {}, .bfi 1 (.v 2) (.v 3) {}, .bit .popc 1 (.v 2) {}, .bit .clz 1 (.v 2) {}, .bit .ctz 1 (.v 2) {}, .bit .brev 1 (.v 2) {}, .bit .ffs 1 (.v 2) {}, .lea 7 2 (.v 2) (.v 3) {}] &&
    allFire [.iaddi 1 (.v 2) 0xFFFF {}, .andi 1 (.v 2) 1 {}, .ori 1 (.v 2) 1 {}, .xori 1 (.v 2) 1 {}, .shli 1 (.v 2) 31 {}, .shri 1 (.v 2) 31 {}, .sari 1 (.v 2) 31 {}, .movil 1 1 {}] &&
    allFire [.movih 1 1 {}, .imuli 1 (.v 2) 3 {}, .prmt 1 (.v 2) (.v 3) {}, .prmti 1 (.v 2) 0x3210 {}]) = true := by decide +kernel
theorem witness_float : (
    allFire [.faddF32 .rne 1 (.v 2) (.v 3) {}, .fsubF32 .rtz 1 (.v 2) (.v 3) {}, .fmulF32 .rdn 1 (.v 2) (.v 3) {}, .fmacF32 .dyn 1 (.v 2) (.v 3) {}, .faddiF32 1 (.v 2) 0x3F80 {}, .fmuliF32 1 (.v 2) 0x3F80 {}, .fmaciF32 1 (.v 2) 0x3F80 {}, .fmnxF32 .min 1 (.v 2) (.v 3) {}] &&
    allFire [.fmnxF32 .max 1 (.v 2) (.v 3) {}, .fmnxF32 .minnum 1 (.v 2) (.v 3) {}, .fmnxF32 .maxnum 1 (.v 2) (.v 3) {}, .fcmpF32 .eq 1 (.v 2) (.v 3) {}, .fcmpF32 .ord 1 (.v 2) (.v 3) {}, .fsgn .abs 1 (.v 2) (.v 0) {}, .fsgn .neg 1 (.v 2) (.v 0) {}, .fsgn .cpys 1 (.v 2) (.v 3) {}] &&
    allFire [.fcls 1 (.v 2) {}, .hadd .rne false 1 (.v 2) (.v 3) {}, .hadd .rup true 1 (.v 2) (.v 3) {}, .hmul .rne true 1 (.v 2) (.v 3) {}, .hmac .rne false 1 (.v 2) (.v 3) {}, .hmnx .min true 1 (.v 2) (.v 3) {}, .hmuliBf16x2 1 (.v 2) 0x3F80 {}, .hmuliF16x2 1 (.v 2) 0x3C00 {}] &&
    allFire [.qclmp 1 (.v 2) 0x7838 {}, .vdot .mx8 1 (.v 2) (.v 3) {}, .vdot .mx6 1 (.v 2) (.v 3) {}, .vdot .mx4 1 (.v 2) (.v 3) {}, .vdot .i8 1 (.v 2) (.v 3) {}, .mxsc 3 (.v 2) {}, .cvt .rne true 3 (.v 8) 2 0x12 {}, .cvt .sr false 3 (.v 8) 0 0x12 {}] &&
    allFire [.sfuF32 .rsqa 1 (.v 2) { sbs := 6 }, .sfuBf16x2 .rcp 1 (.v 2) { sbs := 1 }, .idiv .divI 1 (.v 2) (.v 3) { sbs := 1 }, .idiv .divU 1 (.v 2) (.v 3) { sbs := 1 }, .idiv .remI 1 (.v 2) (.v 3) { sbs := 1 }, .idiv .remU 1 (.v 2) (.v 3) { sbs := 1 }, .fdivF32 .rne 1 (.v 2) (.v 3) { sbs := 1 }, .lxch .from 1 (.v 2) (.v 3) {}] &&
    allFire [.lxch .back 1 (.v 2) (.v 3) {}, .lxch .ahead 1 (.v 2) (.v 3) {}, .lxch .flip 1 (.v 2) (.v 3) {}, .qx .h 1 (.v 2) (.v 0) {}, .qx .v 1 (.v 2) (.v 0) {}, .qx .d 1 (.v 2) (.v 0) {}, .qx .bc 1 (.v 2) (.v 3) {}, .vote .all 1 (.v 2) {}] &&
    allFire [.vote .any 1 (.v 2) {}, .vote .uni 1 (.v 2) {}, .vote .ballot 1 (.v 2) {}, .redx .addI 1 (.v 2) {}, .redx .minI 1 (.v 2) {}, .redx .maxI 1 (.v 2) {}, .redx .addF 1 (.v 2) {}, .redx .minF 1 (.v 2) {}] &&
    allFire [.redx .maxF 1 (.v 2) {}, .fenceRel .grp {}, .fenceAr .sys {}, .prefi 7 0x7FFFF {}, .prefd (.v 2) 0x200 {}, .nop {}, .land { e := true }, .kmask 7 {}] &&
    allFire [.call 54 1 { e := true }, .sysSysc (.s 48) {}, .sysTrapi 0xFF {}, .srd 1 0 {}, .srd 1 0x1B {}, .swr 9 (.s 3) {}, .topRel 7 {}]) = true := by decide +kernel

/-! ### Witnesses of the clauses of instructions, each at a value where its hypotheses hold -/

/-- The machine with uniform registers. -/
def withS (l : Tbl Word) : State := machine { d0 with s := l } g0
/-- The machine with lane 0 of vector registers. -/
def withV (l : Tbl Word) : State := machine { d0 with v := l.map fun p => (p.1, splat p.2) } g0

theorem witness_IndexedRegisters :
    (meets (.vgeti 1 (.v 2) 63 { sbs := 1 }) demo (fun x _ => (List.range 32).all fun j => vNamed x.d x.g (63 + (src32 x (.v 2) j).toNat) 1) &&
      meets (.vputi 1 (.v 2) 0 { sbs := 1 }) demo (fun x _ => (List.range 32).all fun j => vNamed x.d x.g (src32 x (.v 2) j).toNat 1) &&
      meets (.vgeti 1 (.v 2) 64 { sbs := 1 }) demo (fun x _ => !vNamed x.d x.g (64 + (src32 x (.v 2) 0).toNat) 1) &&
      meets (.vputi 1 (.v 2) 1 { sbs := 1 }) (withV [(2, 63)]) (fun x _ => !vNamed x.d x.g (1 + (src32 x (.v 2) 0).toNat) 1)) = true := by decide +kernel

/-- A tile of 16 rows and 2 columns. -/
def tiled : State := machine { d0 with tiles := [(1, { shape := 0x00000210 })], s := [(3, 15), (4, 16), (5, 1), (6, 2), (7, 0x1010), (8, 0x1110)] } g0
def rows (x : Issue) (n : Nat) : Nat := (x.d.tile n).shape.toNat % 32
def cols (x : Issue) (n : Nat) : Nat := (x.d.tile n).shape.toNat / 256 % 32
theorem witness_Tiles :
    (meets (.tcfg 0 .zero {}) tiled (fun x _ => (srcU x .zero).toNat % 32 = 0 && srcU x .zero &&& 0xFFFEE0E0 = 0) &&
      meets (.tcfg 0 (.s 7) {}) tiled (fun x _ => srcU x (.s 7) &&& 0xFFFEE0E0 = 0 && (srcU x (.s 7)).toNat % 32 = 16 && (srcU x (.s 7)).toNat / 256 % 32 = 16) &&
      meets (.tcfg 0 (.s 8) {}) tiled (fun x _ => (srcU x (.s 8)).toNat / 256 % 32 = 17) &&
      meets (.tmvr 1 (.v 0) (.s 3) {}) tiled (fun x _ => rows x 1 = 16 && (srcU x (.s 3)).toNat < rows x 1) &&
      meets (.tmvr 1 (.v 0) (.s 4) {}) tiled (fun x _ => rows x 1 ≠ 0 && rows x 1 ≤ (srcU x (.s 4)).toNat) &&
      meets (.tmvc 1 (.v 0) (.s 5) {}) tiled (fun x _ => cols x 1 = 2 && (srcU x (.s 5)).toNat < cols x 1) &&
      meets (.tmvc 1 (.v 0) (.s 6) {}) tiled (fun x _ => cols x 1 ≤ (srcU x (.s 6)).toNat) &&
      meets (.tmvr 0 (.v 0) (.s 3) {}) tiled (fun x _ => rows x 0 = 0) && meets (.tmvc 0 (.v 0) (.s 3) {}) tiled (fun x _ => rows x 0 = 0) &&
      meets (.trdr 1 1 (.s 3) {}) tiled (fun x _ => (srcU x (.s 3)).toNat < rows x 1) &&
      meets (.trdr 1 1 (.s 4) {}) tiled (fun x _ => rows x 1 ≤ (srcU x (.s 4)).toNat) &&
      meets (.trdc 1 1 (.s 5) {}) tiled (fun x _ => (srcU x (.s 5)).toNat < cols x 1) &&
      meets (.trdc 1 1 (.s 6) {}) tiled (fun x _ => cols x 1 ≤ (srcU x (.s 6)).toNat) &&
      meets (.trdr 1 0 (.s 3) {}) tiled (fun x _ => rows x 0 = 0) && meets (.trdc 1 0 (.s 3) {}) tiled (fun x _ => rows x 0 = 0) &&
      meets (.topZero 1 {}) tiled (fun x _ => rows x 1 ≠ 0) && meets (.topTrans 0 1 {}) tiled (fun x _ => rows x 1 ≠ 0 && (x.d.tile 1).elems.isEmpty) &&
      meets (.topCopy 0 1 {}) tiled (fun x _ => rows x 1 ≠ 0) && meets (.topZero 0 {}) tiled (fun x _ => rows x 0 = 0) &&
      meets (.topTrans 1 0 {}) tiled (fun x _ => rows x 0 = 0) && meets (.topCopy 1 0 {}) tiled (fun x _ => rows x 0 = 0)) = true := by decide +kernel

theorem witness_SystemCalls :
    (meets (.sysTret { e := true }) (machine { d0 with sysMode := true, xi := packXi true false 3 0x9000 } g0) (fun x _ => x.d.landings.isEmpty && xiV x.d.xi && x.d.xp.isEmpty) &&
      meets (.sysTret { e := true }) (machine { d0 with sysMode := true } g0) (fun x _ => x.d.landings.isEmpty && !xiV x.d.xi) &&
      meets (.sysUiret { e := true }) (machine { d0 with uiAct := true, maskStack := [1] } g0) (fun x _ => x.d.uiAct && x.d.maskStack ≠ []) &&
      meets (.sysUiret { e := true }) demo (fun x _ => !x.d.uiAct) &&
      meets (.sysUiret { e := true }) (machine { d0 with uiAct := true } g0) (fun x _ => x.d.uiAct && x.d.maskStack.isEmpty) &&
      meetsLong (.sysWaiti (.s 2) {}) demo (fun x _ => !x.d.uiEn) &&
      meetsLong (.sysWaiti (.s 2) {}) (machine { d0 with uiEn := true, uiPend := 1 } g0) (fun x _ => x.d.uiEn && x.d.uiPend > 0) &&
      meetsLong (.sysWaiti (.s 2) {}) (machine { d0 with uiEn := true, s := [(2, 1000)] } g0)
        (fun x s => x.d.uiEn && x.d.uiPend = 0 && srcU64 x (.s 2) ≠ 0 && (srcU64 x (.s 2)).toNat ≤ s.gtime.toNat)) = true := by decide +kernel

/-- A block at an address passes its checks. -/
def blockOk (w : Bool) (n : Nat) (a : Src) (x : Issue) (s : State) : Bool :=
  match checkBlock x s { w := w, r := !w } (srcU64 x a) n with
  | .ok (parts, s1) => w || parts.all fun p => decide (s1.gateAt (drillChip x.k) false p.1.pa ≠ .hold) && (linesOf p.1.pa p.2).all fun l => !s1.poisoned (128 * l)
  | .error _ => false
/-- The machine with its links up and a drill in system mode. -/
def routine : State := { machine { d0 with sysMode := true, s := [(2, 0x1000), (4, 0x80)], tiles := [(1, { shape := 0x101 })] } g0 with links := [(4, { st := .active }), (5, { st := .active }), (6, { st := .active }), (7, { st := .active })] }
theorem witness_SaveAndLoad :
    (meets (.svldSavev (.s 2) {}) routine (blockOk true (128 * 64) (.s 2)) && meets (.svldSaveu (.s 2) {}) routine (blockOk true 224 (.s 2)) &&
      meets (.svldSavep (.s 2) {}) routine (blockOk true 256 (.s 2)) && meets (.svldSavex (.s 2) {}) routine (blockOk true 3592 (.s 2)) &&
      meets (.svldLoadv (.s 4) {}) routine (blockOk false (128 * 64) (.s 4)) && meets (.svldLoadu (.s 4) {}) routine (blockOk false 224 (.s 4)) &&
      meets (.svldLoadp (.s 4) {}) routine (fun x s => blockOk false 256 (.s 4) x s && decide (s.byteAt 0x80000000A4 = 0)) &&
      meets (.svldLoadx (.s 4) {}) routine (blockOk false 3592 (.s 4)) && meets (.tload 0 (.s 4) {}) routine (fun x s => blockOk false 1152 (.s 4) x s && decide (s.byteAt 0x8000000480 = 0)) &&
      meets (.tsave 1 (.s 4) {}) routine (fun x s => tileRows (x.d.tile 1).shape ≠ 0 && blockOk true 1152 (.s 4) x s) &&
      meets (.tsave 0 (.s 4) {}) routine (fun x _ => tileRows (x.d.tile 0).shape = 0)) = true := by decide +kernel

theorem witness_ControlFlow :
    (meets (.bra 1 { gp := 0, e := true }) demo (fun _ _ => true) &&
      meets (.bra 1 { gp := 1, e := true }) (machine { d0 with k := [(1, 0xFFFFFFFF)] } g0) (fun x _ => (List.range 32).all fun l => inMask (x.d.kAt 1) l) &&
      meets (.bra 1 { gp := 1, e := true }) demo (fun x _ => (List.range 32).all fun l => !inMask (x.d.kAt 1) l) &&
      meets (.bra 1 { gp := 1, e := true }) (machine { d0 with k := [(1, 1)] } g0) (fun x _ => inMask (x.d.kAt 1) 0 && !inMask (x.d.kAt 1) 31) &&
      meets (.brz 1 { e := true }) (machine { d0 with cm := 0 } g0) (fun x _ => x.d.cm = 0) && meets (.brz 1 { e := true }) demo (fun x _ => x.d.cm ≠ 0) &&
      meets (.ret (.s 2) { e := true }) demo (fun x _ => (srcU64 x (.s 2)).toNat % 8 = 0) &&
      meets (.ret (.s 2) { e := true }) (withS [(2, 7)]) (fun x _ => (srcU64 x (.s 2)).toNat % 8 ≠ 0) &&
      meets (.jmpu (.s 2) { e := true }) demo (fun x _ => (srcU64 x (.s 2)).toNat % 8 = 0) &&
      meets (.jmpu (.s 2) { e := true }) (withS [(2, 7)]) (fun x _ => (srcU64 x (.s 2)).toNat % 8 ≠ 0) &&
      meets (.jmpv (.v 2) { e := true, gp := 1 }) demo (fun x _ => x.act = 0) &&
      meets (.jmpv (.v 2) { e := true }) (machine { d0 with maskStack := List.replicate 31 0 } g0) (fun x _ => inMask x.act 0 && (src64 x (.v 2) 0).toNat % 8 = 0 && x.d.maskStack.length < 32) &&
      meets (.jmpv (.v 2) { e := true }) (withV [(2, 4)]) (fun x _ => inMask x.act 0 && (src64 x (.v 2) 0).toNat % 8 ≠ 0) &&
      meets (.jmpv (.v 2) { e := true }) (machine { d0 with maskStack := List.replicate 32 0 } g0) (fun x _ => inMask x.act 0 && (src64 x (.v 2) 0).toNat % 8 = 0 && 32 ≤ x.d.maskStack.length) &&
      meets (.loop 5 1 { e := true }) demo (fun x _ => x.d.sAt 5 - 1 ≠ 0) && meets (.loop 5 1 { e := true }) (withS [(5, 1)]) (fun x _ => x.d.sAt 5 - 1 = 0) &&
      meets (.mpush {}) (machine { d0 with maskStack := List.replicate 31 0 } g0) (fun x _ => x.d.maskStack.length < 32) &&
      meets (.mpush {}) (machine { d0 with maskStack := List.replicate 32 0 } g0) (fun x _ => 32 ≤ x.d.maskStack.length) &&
      meets (.minv {}) (machine { d0 with maskStack := [1] } g0) (fun x _ => x.d.maskStack ≠ []) && meets (.mpop {}) (machine { d0 with maskStack := [1] } g0) (fun x _ => x.d.maskStack ≠ []) &&
      meets (.minv {}) demo (fun x _ => x.d.maskStack.isEmpty) && meets (.mpop {}) demo (fun x _ => x.d.maskStack.isEmpty)) = true := by decide +kernel

/-- A launch of one group of 64 lanes, its packet at the head of queue 3's ring, in stack 0. -/
def ready3 : State := { up demo with
  mem := [(0x8000000010, 1), (0x8000000014, 1), (0x8000000018, 1), (0x800000001C, 64)]
  queues := [(3, { st := .opened, ctl := 0, base := 0x8000000000, ready := true, entries := [{ id := 0, idx := 0, posted := true, filled := true, launch := some 7 }] })]
  groups := [(0, { g0 with kcb := { kcb with plot := false } })]
  launches := [(7, { queue := 3, ctx := 0, code := 0, kcb := { kcb with plot := false }, kcbVa := 0, gx := 1, gy := 1, gz := 1, g := 64, arg := 0, setMask := [] })]
  drills := [(0, { d0 with s := [(2, 3)] }), (1, d1)] }
theorem witness_DrillExit :
    (meets (.exit { e := true }) demo (fun x _ => !x.d.sysMode) && meets (.exit { e := true }) (machine { d0 with sysMode := true, routine := 1 } g0) (fun x _ => x.d.sysMode && x.d.routine = 1) &&
      meets (.exitSucc (.s 2) { e := true }) (withS [(2, 0x2000)]) (fun x s => checkSucc x s (srcU x (.s 2)) = some 2) &&
      meets (.exitSucc (.s 2) { e := true }) demo (fun x s => checkSucc x s (srcU x (.s 2)) = some 3) &&
      meets (.exitSucc (.s 2) { e := true }) ready3 (fun x s => checkSucc x s (srcU x (.s 2)) = none)) = true := by decide +kernel

/-- An access of the counting lanes passes, or fails with a code. -/
def access (acc : Access) (atomic : Bool) (n : Nat) (a : Src) (per : Bool) (code : Option Nat) (x : Issue) (s : State) : Bool :=
  match s.ctx? x.g.ctx with
  | none => false
  | some cx =>
    let l := ((List.range 32).filter (counts x)).map fun l => (l, if per then src64 x a l else srcU64 x a)
    match checkAccess s x.k x.g.ctx cx acc atomic n (if per then l else l.take 1) [] per with
    | .ok _ => code = none
    | .error t => code = some t.code
/-- The same with two lanes in CM. -/
def few : State := machine { d0 with cm := 0x80000001 } g0
def fewV (l : Tbl Word) : State := machine { d0 with cm := 0x80000001, v := l.map fun p => (p.1, splat p.2) } g0
theorem witness_GlobalAccess :
    (meets (.ld .w 1 (.v 2) 0 { sbs := 1 }) few (access { r := true } false 4 (.v 2) true none) &&
      meets (.ld .w 1 (.v 2) 0 { sbs := 1 }) (fewV [(2, 2)]) (access { r := true } false 4 (.v 2) true (some 0x0D)) &&
      meets (.ld .w 1 (.v 2) 0 { sbs := 1 }) (fewV [(3, 1)]) (access { r := true } false 4 (.v 2) true (some 0x10)) &&
      meets (.st .w 1 (.v 2) 0 {}) few (access { w := true } false 4 (.v 2) true none) &&
      meets (.st .w 1 (.v 2) 0 {}) (fewV [(2, 0x40000000)]) (access { w := true } false 4 (.v 2) true (some 0x12)) &&
      meets (.ldu .d 2 (.s 2) 0 { sbs := 1 }) few (fun x s => x.acts && access { r := true } false 8 (.s 2) false none x s) &&
      meets (.ldu .d 2 (.s 2) 0 { sbs := 1 }) (machine { d0 with cm := 0 } g0) (fun x _ => !x.acts) &&
      meets (.ldu .d 2 (.s 2) 0 { sbs := 1 }) (withS [(2, 4)]) (fun x s => x.acts && access { r := true } false 8 (.s 2) false (some 0x0D) x s) &&
      meets (.atomI32 .add false 1 (.v 2) (.v 4) { sbs := 1, ld := 1 }) few (access { r := true, w := true } true 4 (.v 2) true none) &&
      meets (.atomI32 .add false 1 (.v 2) (.v 4) { sbs := 1, ld := 1 }) (fewV [(2, 0x80000000), (4, 0)]) (access { r := true, w := true } true 4 (.v 2) true (some 0x12)) &&
      meets (.atomI64 .add false 4 (.v 2) (.v 6) { sbs := 1, ld := 6 }) few (access { r := true, w := true } true 8 (.v 2) true none) &&
      meets (.atomF32 .add 4 (.v 2) (.v 6) { sbs := 1, ld := 6 }) few (access { r := true, w := true } true 4 (.v 2) true none) &&
      meets (.redI32 .add false (.v 2) (.v 6) { ld := 6 }) few (access { r := true, w := true } true 4 (.v 2) true none) &&
      meets (.redF32 .add (.v 2) (.v 6) { ld := 6 }) few (access { r := true, w := true } true 4 (.v 2) true none) &&
      meets (.redBf16x2 (.v 2) (.v 6) { ld := 6 }) few (access { r := true, w := true } true 4 (.v 2) true none) &&
      meets (.cacheWb (.v 2) {}) (fewV [(2, 127)]) (access { r := true } false 1 (.v 2) true none) &&
      meets (.cacheInv (.v 2) {}) few (access { w := true } false 1 (.v 2) true none) && meets (.cacheWbi (.v 2) {}) few (access { w := true } false 1 (.v 2) true none) &&
      meets (.cacheWb (.v 2) {}) (fewV [(3, 1)]) (access { r := true } false 1 (.v 2) true (some 0x10))) = true := by decide +kernel
theorem witness_AccessChecks :
    ((0x3 : DWord).toNat % 4 ≠ 0 ∧ vaInRange 0x0100000000000000 = false ∧ vaInRange 0x00FFFFFFFFFFFFFF = true) ∧
    (match demo.translate 4 c0 0x40000000 { w := true } with | .ok (pa, _) => isRom pa | .error _ => false) = true ∧
    ((tblGet demo.tlb 4 []).find? (·.serves 1 0x3FFFFFFF)).isSome = true ∧ ((tblGet demo.tlb 4 []).find? (·.serves 1 0xC0000000)).isNone = true ∧
    (match walkFrom demo true some 0xC0000000 4 0 with | .error _ => true | .ok _ => false) = true ∧
    permsOk 0xD1 { w := true } = false ∧ demo.backed 0x8000000000 = true ∧ demo.backed 0x10010000 = false ∧
    leafMalformed true 0x1F 1 = false ∧ leafMalformed true 0x1F 4 = true := by decide +kernel

/-- A local access of the counting lanes passes, or fails with a code. -/
def localAccess (acc : Access) (n : Nat) (a : Src) (code : Option Nat) (x : Issue) (s : State) : Bool :=
  match s.ctx? x.g.ctx with
  | none => false
  | some cx => match checkLocal s x cx acc n (((List.range 32).filter (counts x)).map fun l => (l, src32 x a l)) with
    | .ok _ => code = none
    | .error t => code = some t.code
theorem witness_LocalAccess :
    (meets (.lds .w 1 (.v 2) 0 { sbs := 1 }) (withV [(2, 65532)]) (localAccess { r := true } 4 (.v 2) none) &&
      meets (.lds .w 1 (.v 2) 0 { sbs := 1 }) (withV [(2, 65536)]) (localAccess { r := true } 4 (.v 2) (some 0x0E)) &&
      meets (.lds .w 1 (.v 2) 0 { sbs := 1 }) (withV [(2, 2)]) (localAccess { r := true } 4 (.v 2) (some 0x0D)) &&
      meets (.sts .q 4 (.v 2) 0 {}) (withV [(2, 65520)]) (localAccess { w := true } 16 (.v 2) none) &&
      meets (.sts .w 4 (.v 2) 0 {}) (withV [(2, 0x10000000)]) (localAccess { w := true } 4 (.v 2) (some 0x0E)) &&
      meets (.atoms .add false 1 (.v 2) (.v 4) { sbs := 1, ld := 1 }) demo (localAccess { r := true, w := true } 4 (.v 2) none) &&
      meets (.atoms .add false 1 (.v 2) (.v 4) { sbs := 1, ld := 1 }) (withV [(2, 0x80000)]) (localAccess { r := true, w := true } 4 (.v 2) (some 0x0E))) = true := by
  decide +kernel
theorem witness_Fences :
    (meets (.fenceAcq .crf {}) demo (fun x _ => x.d.ops.isEmpty && x.d.acquires.isEmpty) &&
      meets (.fenceAcq .pkg {}) { machine { d0 with ops := [{ seq := 0, kind := .load .w [] }] } g0 with seq := 1 }
        (fun x s => x.d.acquires.isEmpty && x.d.ops.any fun o => isRead o && o.seq < s.seq)) = true := by decide +kernel

/-- A ring of two slots of 64 bytes at offset 0, number 5, its slots in given states. -/
def ring5 (a b : SlotState) : Machine.Ring := { word := 0x105, base := 0, slots := [a, b] }
def ringed (a b : SlotState) (l : Tbl Word) : State := machine { d0 with s := l } { g0 with rings := [(5, ring5 a b)] }
def muted : State := machine { d0 with cm := 0 } g0
theorem witness_Rings :
    (meets (.ringCfg (.s 2) (.s 3) {}) muted (fun x _ => !x.acts) &&
      meets (.ringCfg (.s 2) (.s 3) {}) (withS [(2, 0x105), (3, 0xFF80)]) (fun x s => x.acts && srcU x (.s 2) &&& 0xFFFF0000 = 0 && (srcU x (.s 3)).toNat % 128 = 0 &&
        0xFF80 + 128 ≤ x.g.kcb.ls && !inRing x.g 0xFF80 128 (some 5) && !inStash x.g 0xFF80 128 none && !s.ringCopies x.d.gid x.g 5) &&
      meets (.ringCfg (.s 2) (.s 3) {}) (withS [(2, 0x1B5)]) (fun x _ => x.acts && (srcU x (.s 2)).toNat / 16 % 16 = 11) &&
      meets (.ringCfg (.s 2) (.s 3) {}) (withS [(2, 0x105), (3, 0x10000)]) (fun x _ => x.acts && 0x10000 + 128 > x.g.kcb.ls) &&
      meets (.ringCfg (.s 2) (.s 3) {}) (ringed .free .free [(2, 0x106)]) (fun x _ => x.acts && inRing x.g 0 128 (some 6)) &&
      meets (.ringCfg (.s 2) (.s 3) {}) (ringed .free .full [(2, 0x105)]) (fun x _ => x.acts && (tblGet? x.g.rings 5).any fun r => r.slots.any (· ≠ .free)) &&
      meets (.ringClm 1 (.s 2) { sbs := 1 }) (ringed .free .free [(2, 5)]) (fun x _ => x.acts && (tblGet? x.g.rings 5).isSome) &&
      meets (.ringWtf 1 (.s 2) { sbs := 1 }) (ringed .free .free [(2, 5)]) (fun x _ => x.acts && (tblGet? x.g.rings 5).isSome) &&
      meets (.ringWte 1 (.s 2) { sbs := 1 }) (ringed .free .free [(2, 5)]) (fun x _ => x.acts && (tblGet? x.g.rings 5).isSome) &&
      meets (.ringQry 1 (.s 2) { sbs := 1 }) demo (fun x _ => x.acts) &&
      [Instr.ringClm 1 (.s 2) { sbs := 1 }, .ringWtf 1 (.s 2) { sbs := 1 }, .ringWte 1 (.s 2) { sbs := 1 }, .ringQry 1 (.s 2) { sbs := 1 }, .ringPub (.s 2) (.s 3) {}, .ringRel (.s 2) (.s 3) {}].all
        (fun i => meets i muted fun x _ => !x.acts) &&
      [Instr.ringClm 1 (.s 2) { sbs := 1 }, .ringWtf 1 (.s 2) { sbs := 1 }, .ringWte 1 (.s 2) { sbs := 1 }, .ringPub (.s 2) (.s 3) {}, .ringRel (.s 2) (.s 3) {}].all
        (fun i => meets i demo fun x _ => x.acts && (tblGet? x.g.rings 0).isNone) &&
      meets (.ringPub (.s 2) (.s 3) {}) (ringed .free .claimed [(2, 5), (3, 0x100000)]) (fun x s => x.acts && s.slotSeen x.d.gid 5 (ring5 .free .claimed) 1 = some .claimed) &&
      meets (.ringRel (.s 2) (.s 3) {}) (ringed .held .free [(2, 5)]) (fun x s => x.acts && s.slotSeen x.d.gid 5 (ring5 .held .free) 0 = some .held) &&
      meets (.ringPub (.s 2) (.s 3) {}) (ringed .free .claimed [(2, 5), (3, 0x200000)]) (fun x s => x.acts && s.slotSeen x.d.gid 5 (ring5 .free .claimed) 2 = none) &&
      meets (.ringRel (.s 2) (.s 3) {}) (ringed .full .free [(2, 5)]) (fun x s => x.acts && s.slotSeen x.d.gid 5 (ring5 .full .free) 0 ≠ some .held)) = true := by decide +kernel

/-- A descriptor of 16 bytes in s8 to s15, scope CRF, local source or destination at 0x100. -/
def copyRegs (src dst ctl : Word) : State := withS [(8, src), (10, dst), (12, 16), (13, ctl)]
def copyCode (form : Nat) (code : Option Nat) (x : Issue) (s : State) : Bool :=
  x.acts && (copyCheck s x.g (copyDesc form (srcWindow x (.s 8))) (srcWindow x (.s 8))).map (·.code) = code
theorem witness_StashAndCopies :
    (meets (.stashMap (.s 2) (.s 4) {}) muted (fun x _ => !x.acts) &&
      meets (.stashMap (.s 2) (.s 4) {}) (withS [(2, 0x80), (4, 0xFF83)]) (fun x _ => x.acts && (tblGet? x.g.stash 3).isNone && (srcU x (.s 4)).toNat / 4 % 32 = 0 &&
        511 * 128 + 128 ≤ x.g.kcb.ls && !inRing x.g (511 * 128) 128 none) &&
      meets (.stashMap (.s 2) (.s 4) {}) (withS [(2, 1)]) (fun x _ => x.acts && (srcU64 x (.s 2)).toNat % 128 ≠ 0) &&
      meets (.stashMap (.s 2) (.s 4) {}) (withS [(4, 0x10000)]) (fun x _ => x.acts && (tblGet? x.g.stash 0).isNone && 0x10000 + 128 > x.g.kcb.ls) &&
      meets (.stashMap (.s 2) (.s 4) {}) (ringed .free .free []) (fun x _ => x.acts && (tblGet? x.g.stash 0).isNone && inRing x.g 0 128 none) &&
      [Instr.stashUnmap (.s 2) {}, .stashFlush (.s 2) {}, .stashInv (.s 2) {}].all (fun i =>
        meets i (machine d0 { g0 with stash := [(0, { v := 0, word := 0 })] }) (fun x _ => x.acts && (tblGet? x.g.stash 0).isSome) &&
        meets i demo (fun x _ => x.acts && (tblGet? x.g.stash 0).isNone) && meets i muted fun x _ => !x.acts) &&
      [Instr.cpyGl (.s 8) {}, .cpyLg (.s 8) {}, .cpyGg (.s 8) {}, .cpyGb (.s 8) {}, .cpyLb (.s 8) {}, .cpyFill (.s 8) {}].all
        (fun i => meets i muted fun x _ => !x.acts) &&
      meets (.cpyGl (.s 8) {}) (copyRegs 0 0xFFF0 0x30000000) (copyCode 0 none) && meets (.cpyLg (.s 8) {}) (copyRegs 0x100 0 0x30000000) (copyCode 1 none) &&
      meets (.cpyGg (.s 8) {}) (copyRegs 0 0x100 0x60000000) (copyCode 2 none) && meets (.cpyFill (.s 8) {}) (copyRegs 7 0x100 0x10000000) (copyCode 5 none) &&
      meets (.cpyGl (.s 8) {}) (copyRegs 0 0 0) (copyCode 0 (some 0x19)) && meets (.cpyGl (.s 8) {}) (copyRegs 0 0x10000 0x30000000) (copyCode 0 (some 0x0E)) &&
      meets (.cpyLg (.s 8) {}) (copyRegs 0x80000000 0 0x30000000) (copyCode 1 (some 0x0F)) && meets (.cpyGb (.s 8) {}) (copyRegs 0 0 0x30000000) (copyCode 3 (some 0x19))) = true := by
  decide +kernel

theorem witness_Barriers :
    let two (b : Machine.Bar) (s : Tbl Word) : State := machine { d0 with s := s } { g0 with bars := [(7, b)] }
    let here (A S : BitVec 8) (t : Tbl (BitVec 8)) (b : Machine.Bar) : State := machine { d0 with s := [(2, 7)], barA := A, barS := S, barT := t } { g0 with bars := [(7, b)] }
    (meets (.barPost (.s 2) (.s 3) {}) (two {} [(2, 7), (3, 1)]) (fun x s => (srcU x (.s 2)).toNat < 8 && x.g.count = 2 && srcU x (.s 3) = 1#32 <<< x.d.idx &&
        x.d.storeQueue.isEmpty && (s.drillOf x.d.gid x.g x.d.idx).map (·.1) = some x.k) &&
      meets (.barPost (.s 2) (.s 3) {}) (two {} [(2, 7), (3, 3)]) (fun x s => (srcU x (.s 3)).getLsbD 1 && !s.drillDone x.d.gid x.g 1) &&
      meets (.barPost (.s 2) (.s 3) {}) (two {} [(2, 8)]) (fun x _ => (srcU x (.s 2)).toNat = 8) &&
      meets (.barPost (.s 2) (.s 3) {}) (two {} [(2, 7), (3, 5)]) (fun x _ => (srcU x (.s 3)).getLsbD 2 && x.g.count ≤ 2) &&
      meets (.barPost (.s 2) (.s 3) {}) (two { arrived := 1 } [(2, 7)]) (fun x _ => (tblGet x.g.bars 7 {}).arrived.getLsbD x.d.idx) &&
      meetsLong (.barAll (.s 2) (.s 3) {}) (here 0x80 0x80 [(7, 3)] { phase := 4 }) (fun x _ => x.d.barS.getLsbD 7 && ((tblGet x.g.bars 7 {}).phase - tblGet x.d.barT 7 0).toNat = 1) &&
      meetsLong (.barAll (.s 2) (.s 3) {}) (two {} [(2, 7), (3, 1)]) (fun x _ => !x.d.barS.getLsbD 7 && srcU x (.s 3) = 1 && x.d.storeQueue.isEmpty) &&
      meetsLong (.barAll (.s 2) (.s 3) {}) (here 0x80 0x80 [(7, 4)] { phase := 4 }) (fun x _ => x.d.barS.getLsbD 7 && (tblGet x.g.bars 7 {}).phase = tblGet x.d.barT 7 0) &&
      meetsLong (.barAll (.s 2) (.s 3) {}) (two {} [(2, 7)]) (fun x s => !x.d.barS.getLsbD 7 && srcU x (.s 3) = 0 && !s.drillDone x.d.gid x.g 1) &&
      meetsLong (.barAll (.s 2) (.s 3) {}) (two {} [(2, 8)]) (fun x _ => (srcU x (.s 2)).toNat = 8) &&
      meetsLong (.barAll (.s 2) (.s 3) {}) (two { arrived := 1 } [(2, 7)]) (fun x _ => !x.d.barS.getLsbD 7 && (tblGet x.g.bars 7 {}).arrived.getLsbD 0) &&
      meetsLong (.barHold (.s 2) {}) (here 0x80 0 [(7, 0xFF)] { phase := 0x7E }) (fun x _ => x.d.barA.getLsbD 7 && ((tblGet x.g.bars 7 {}).phase - tblGet x.d.barT 7 0).toNat = 127) &&
      meetsLong (.barHold (.s 2) {}) (here 0x80 0 [(7, 0)] { phase := 0x80 }) (fun x _ => x.d.barA.getLsbD 7 && ((tblGet x.g.bars 7 {}).phase - tblGet x.d.barT 7 0).toNat = 128) &&
      meetsLong (.barHold (.s 2) {}) (two {} [(2, 7)]) (fun x _ => !x.d.barA.getLsbD 7 && x.d.longWait.isNone) &&
      meetsLong (.barHold (.s 2) {}) (two {} [(2, 8)]) (fun x _ => (srcU x (.s 2)).toNat = 8)) = true := by decide +kernel
/-- The machine with a croft of the first group and another whose drills have not arrived. -/
def crofts (d : Drill) (g : Group) (phase : BitVec 8) : State := { machine d g with crofts := [(0, { launch := 0, members := [0, 1], phase := phase })], groups := [(0, g), (1, { g0 with rank := 1 })] }
theorem witness_CroftBarriers :
    let g : Group := { g0 with croftArr := 1, croftT := [(0, 3)], gridArr := 1, gridT := [(0, 3)], kcb := { kcb with coop := true } }
    let grid (p : BitVec 8) : State := { machine d0 g with launches := [(0, { queue := 0, ctx := 0, code := 0, kcb := kcb, kcbVa := 0, gx := 1, gy := 1, gz := 1, g := 64, arg := 0, setMask := [], gridPhase := p })] }
    (meetsLong (.barCroft {}) (crofts d0 g 4) (fun x s => x.g.croftArr.getLsbD 0 && ((tblGet? s.crofts 0).map (·.phase)).getD 0 ≠ tblGet x.g.croftT 0 0) &&
      meetsLong (.barCroft {}) (crofts d0 g 3) (fun x s => x.g.croftArr.getLsbD 0 && ((tblGet? s.crofts 0).map (·.phase)).getD 0 = tblGet x.g.croftT 0 0) &&
      meetsLong (.barGrid {}) (grid 4) (fun x s => x.g.kcb.coop && ((tblGet? s.launches 0).map (·.gridPhase)).getD 0 ≠ tblGet x.g.gridT 0 0) &&
      meetsLong (.barGrid {}) (grid 3) (fun x s => x.g.kcb.coop && ((tblGet? s.launches 0).map (·.gridPhase)).getD 0 = tblGet x.g.gridT 0 0) &&
      meetsLong (.barGrid {}) demo (fun x _ => !x.g.kcb.coop) &&
      meetsLong (.barCroft {}) (crofts d0 g0 4) (fun x s => !x.g.croftArr.getLsbD 0 && !s.arrivedAll false 4 1)) = true := by decide +kernel

/-- The address checks of MBAR pass, or fail with a code. -/
def mbarChecks (acc : Access) (code : Option Nat) (x : Issue) (s : State) : Bool :=
  match mbarCheck x s (.s 4) acc with | .ok (l, s1) => code = none && (acc.w || decide (s1.gateAt (drillChip x.k) false l.pa ≠ .hold)) | .error t => code = some t.code
/-- The machine with an object in phase p at 0, PEND = COUNT = 1, scope 3, and its links up. -/
def objected (p : Byte) (valid : Bool) (d : Drill) : State := { machine d g0 with
  mem := [(0x8000000000, 1), (0x8000000004, 1), (0x8000000007, 3)] ++ (if p = 0 then [] else [(0x8000000008, p)]) ++ if valid then [(0x800000000F, 0xB7)] else []
  links := [(4, { st := .active }), (8, { st := .active })] }
theorem witness_MemoryBarriers :
    let rw : Access := { r := true, w := true }
    let w6 (v : Word) : State := withS [(6, v)]
    let m (f : Option Nat) : Drill := { d0 with mbar := some { pa := 0x8000000000, gen := 0, p := 0, va := 0, found := f } }
    (meets (.mbarInit (.s 4) (.s 6) {}) (w6 0x06000001) (mbarChecks rw none) && meets (.mbarArr (.s 4) (.s 6) {}) (w6 0xFFFFFF) (mbarChecks rw none) &&
      meets (.mbarInv (.s 4) {}) demo (mbarChecks rw none) && meets (.mbarTest 1 (.s 4) (.s 6) { sbs := 1 }) (objected 0 true d0) (mbarChecks { r := true } none) &&
      meets (.mbarInit (.s 4) (.s 6) {}) (w6 0x07000001) (mbarChecks rw none) && meets (.mbarArr (.s 4) (.s 6) {}) (w6 0x1000000) (mbarChecks rw none) &&
      [Instr.mbarInit (.s 4) (.s 6) {}, .mbarArr (.s 4) (.s 6) {}, .mbarInv (.s 4) {}].all (fun i => meets i (withS [(4, 8)]) (mbarChecks rw (some 0x0D))) &&
      meets (.mbarTest 1 (.s 4) (.s 6) { sbs := 1 }) (withS [(4, 8)]) (mbarChecks { r := true } (some 0x0D)) &&
      meetsLong (.mbarWait (.s 4) (.s 6) {}) (objected 1 true d0) (fun x s => mbarChecks { r := true } none x s && (s.mbarAt 0x8000000000).valid && (s.mbarAt 0x8000000000).done 0) &&
      meetsLong (.mbarWait (.s 4) (.s 6) {}) (objected 0 true d0) (fun x s => mbarChecks { r := true } none x s && (s.mbarAt 0x8000000000).valid && !(s.mbarAt 0x8000000000).done 0) &&
      meetsLong (.mbarWait (.s 4) (.s 6) {}) (objected 0 false d0) (fun x s => mbarChecks { r := true } none x s && !(s.mbarAt 0x8000000000).valid) &&
      meetsLong (.mbarWait (.s 4) (.s 6) {}) { objected 0 true d0 with poison := [0x8000000000 / 128] } (fun x s => mbarChecks { r := true } none x s && s.poisoned 0x8000000000) &&
      meetsLong (.mbarWait (.s 4) (.s 6) {}) (withS [(4, 8)]) (fun x s => x.d.mbar.isNone && mbarChecks { r := true } (some 0x0D) x s) &&
      meetsLong (.mbarWait (.s 4) (.s 6) {}) (machine (m (some 0)) g0) (fun x _ => (x.d.mbar.bind (·.found)) = some 0) &&
      meetsLong (.mbarWait (.s 4) (.s 6) {}) (machine (m none) g0) (fun x _ => x.d.mbar.isSome && (x.d.mbar.bind (·.found)).isNone) &&
      meetsLong (.mbarWait (.s 4) (.s 6) {}) (machine (m (some 3)) g0) (fun x _ => (x.d.mbar.bind (·.found)) = some 3)) = true := by decide +kernel

/-- The machine with a queue 3 of the context. -/
def queued (q : Queue) (l : Tbl Word) : State := { withS l with queues := [(3, q)] }
def open3 : Queue := { st := .opened }
theorem witness_LaunchCommands :
    let posts (mine : Bool) (x : Issue) (s : State) : Bool := x.acts && srcU x (.s 6) = 3 && access { r := true } false 128 (.s 4) false none x s &&
      ((s.queue 3).ctx = x.g.ctx) = mine
    (meets (.lnchPost (.s 4) (.s 6) {}) muted (fun x _ => !x.acts) &&
      meets (.lnchPost (.s 4) (.s 6) {}) (queued open3 [(6, 3)]) (fun x s => posts true x s && (s.queue 3).st = .opened && !(s.queue 3).full) &&
      meets (.lnchPost (.s 4) (.s 6) {}) (withS [(6, 0x2000)]) (fun x _ => x.acts && srcU x (.s 6) = 2 ^ 13) &&
      meets (.lnchPost (.s 4) (.s 6) {}) (queued open3 [(4, 64), (6, 3)]) (access { r := true } false 128 (.s 4) false (some 0x0D)) &&
      meets (.lnchPost (.s 4) (.s 6) {}) (queued { open3 with ctl := 1 } [(6, 3)]) (posts false) &&
      meets (.lnchPost (.s 4) (.s 6) {}) (queued {} [(6, 3)]) (fun x s => posts true x s && (s.queue 3).st = .disabled) &&
      meets (.lnchPost (.s 4) (.s 6) {}) (queued { open3 with entries := [{ id := 0, idx := 0 }] } [(6, 3)]) (fun x s => posts true x s && (s.queue 3).full) &&
      [Instr.lnchEvsig (.s 4) (.s 6) {}, .lnchEvclr (.s 4) (.s 6) {}, .lnchEvtst 1 (.s 4) (.s 6) { sbs := 1 }].all (fun i =>
        meets i (withS [(6, 3)]) (fun x _ => x.acts && (srcU x (.s 6)).toNat < 4) && meets i (withS [(6, 4)]) (fun x _ => x.acts && (srcU x (.s 6)).toNat = 4) &&
        meets i muted fun x _ => !x.acts)) = true := by decide +kernel
/-- The machine with stack 2 held by the context, its links up. -/
def holding (right : Bool) (owner : Nat) (s : State) : State := { s with stackTbl := [(2, { holder := some 0, cedeRight := right, owner := owner })], links := [(5, { st := .active }), (9, { st := .active })] }
theorem witness_Stk :
    let held (x : Issue) (s : State) : Bool := (s.stack 2).holder = some x.g.ctx
    (meets (.stkCede 10 {}) (holding true 0 demo) (fun x s => x.acts && held x s && (s.stack 2).cedeRight) && meets (.stkCede 10 {}) muted (fun x _ => !x.acts) &&
      meets (.stkCede 10 {}) demo (fun x s => x.acts && !held x s) && meets (.stkCede 10 {}) (holding false 0 demo) (fun x s => x.acts && held x s && !(s.stack 2).cedeRight) &&
      meetsLong (.stkTake 2 {}) (holding true 0 demo) (fun x s => x.acts && x.d.longWait.isNone && held x s && s.chipUp (stackDie 2 0) && (s.stack 2).open_ && (s.stack 2).owner = 0) &&
      meetsLong (.stkTake 10 {}) (holding true 0 demo) (fun x s => x.acts && held x s && s.chipUp (stackDie 2 1) && (s.stack 2).owner ≠ 1) &&
      meetsLong (.stkTake 2 {}) muted (fun x _ => !x.acts) && meetsLong (.stkTake 2 {}) (machine { d0 with longWait := some (.stkTake 2 {}) } g0) (fun x _ => x.acts && x.d.longWait = some x.i) &&
      meetsLong (.stkTake 2 {}) demo (fun x s => x.acts && x.d.longWait.isNone && !held x s) &&
      meetsLong (.stkTake 2 {}) { holding true 0 demo with links := [] } (fun x s => x.acts && held x s && !s.chipUp (stackDie 2 0)) &&
      meets (.stkQry 1 7 { sbs := 1 }) demo (fun x _ => x.acts) && meets (.stkQry 1 7 { sbs := 1 }) muted (fun x _ => !x.acts)) = true := by decide +kernel

/-- A plot of one segment that the group has reserved; every segment of Acre die 0 is enabled. -/
def plot0 : Plot := { die := 0, num := 0, logR := 0, logC := 0, row0 := 0, col0 := 0, ctx := 0, st := .reserved, gid := some 0 }
def plotted (p : Plot) (l : Tbl Word) : State := { machine { d0 with s := l } { g0 with plot := some 0 } with plots := [(0, p)], tables := [(8, 0xFFFFFFFFFFFFFFFF0000000000000000)] }
theorem witness_PlotCommands :
    let owns (x : Issue) (_ : State) : Bool := x.g.plot.isSome
    let all : List Instr := [.plotRel {}, .plotMerge (.s 2) {}, .plotSplit (.s 2) {}, .bedClaim 31 0 {}, .bedRel 0 0 {}, .bedZero 0 0 {}, .bedScl 0 (.s 2) {},
      .bedLdv (.v 1) (.s 2) {}, .mma .mx8 false 0x1FF (.s 2) {}, .msyncOpf {}, .msyncDrain {}] ++
      [.ard .c1 false 8 (.s 2) { sbs := 1 }, .awr (.v 1) (.s 2) {}, .ast .bf16 (.s 8) {}, .azr true {}]
    (all.all (fun i => meets i (plotted plot0 []) owns && meets i demo fun x _ => x.g.plot.isNone) &&
      meets (.plotRsv 1 (.s 2) { sbs := 1 }) (withS [(2, 0x11F)]) (fun x _ => (srcU x (.s 2)).toNat < 512 && (srcU x (.s 2)).toNat / 32 % 8 = 0) &&
      meets (.plotRsv 1 (.s 2) { sbs := 1 }) (withS [(2, 0x20)]) (fun x _ => (srcU x (.s 2)).toNat / 32 % 8 ≠ 0) && meets (.plotQry 1 1 { sbs := 1 }) demo (fun _ _ => true) &&
      meets (.plotMerge (.s 2) {}) (plotted plot0 [(2, 16)]) (fun x _ => owns x demo && (srcU x (.s 2)).toNat = 16) &&
      meets (.plotSplit (.s 2) {}) (plotted plot0 [(2, 32)]) (fun x _ => owns x demo && (srcU x (.s 2)).toNat = 32) &&
      meets (.bedLdv (.v 1) (.s 2) {}) (plotted plot0 [(2, 0x80000001)]) (fun x _ => owns x demo && (srcU x (.s 2)).getLsbD 31) &&
      meets (.ard .c4 false 8 (.s 2) { sbs := 1 }) (plotted plot0 [(2, 252)]) (fun x s => owns x s && (srcU x (.s 2)).toNat % 1024 + 4 ≤ 256) &&
      meets (.ard .c4 false 8 (.s 2) { sbs := 1 }) (plotted plot0 [(2, 254)]) (fun x s => owns x s && (srcU x (.s 2)).toNat % 4 ≠ 0) &&
      meets (.awr (.v 1) (.s 2) {}) (plotted plot0 [(2, 256)]) (fun x s => owns x s && 256 < (srcU x (.s 2)).toNat % 1024 + 1) &&
      meets (.ast .bf16 (.s 8) {}) (plotted plot0 [(8, 1)]) (fun x s => owns x s && !astDescOk .bf16 (srcWindow x (.s 8))) &&
      meetsLong (.msyncWait {}) demo (fun x _ => x.d.plotOut.isEmpty) && meetsLong (.msyncWait {}) (machine { d0 with plotOut := [1] } g0) (fun x _ => x.d.plotOut ≠ [])) = true := by
  decide +kernel
theorem witness_Carving :
    let sys (s : State) : State := { s with drills := [(0, { d0 with sysMode := true, s := [(2, 0x4000)] }), (1, d1)] }
    (meets (.plotCarve (.s 2) {}) { sys demo with tables := [(8, 0xFFFFFFFFFFFFFFFF0000000000000000)] } (fun x s => (s.plot? 1).isNone && s.placeOk 0 0 0 0 0 &&
        (s.ctx? 0).any (·.carve) && (srcU x (.s 2)).toNat % 16 = 0) &&
      meets (.plotCarve (.s 2) {}) (sys demo) (fun _ s => !s.placeOk 0 0 0 0 0) &&
      meets (.plotUncarve (.s 2) {}) { sys demo with plots := [(1, { plot0 with num := 1, gid := none, st := .carved })] } (fun _ s => (s.plot? 1).any (·.gid.isNone)) &&
      meets (.plotUncarve (.s 2) {}) (sys demo) (fun _ s => (s.plot? 1).isNone)) = true := by decide +kernel

/-! ### Witnesses of what happens to a drill: landings, traps, boundaries, arbitration, fetch -/

/-- An event or instruction answers a next state with this property. -/
def leads (i : Instr) (s : State) (p : State → Bool) : Bool := match exec i s with | .next t => p t | _ => false
/-- It answers a next state, and something has changed. -/
def moves (i : Instr) (s : State) : Bool := leads i s fun t => decide (t ≠ s)
/-- It answers the state as it is. -/
def idles (i : Instr) (s : State) : Bool := leads i s fun t => decide (t = s)
/-- The first drill after an event. -/
def drillAfter (i : Instr) (s : State) (p : Drill → Bool) : Bool := leads i s fun t => (t.drill? 0).any p

/-- A landing that comes with the next count, value 0x1_0000_0009 in every lane, in lanes 0 and 31. -/
def y0 : Landing := { due := 6, into := .vec 3 1, mask := 0x80000001, val := splat 0x100000009, swath := 0 }
def lands (y : Landing) (p : Drill → Bool) : Bool :=
  let s := machine { d0 with landings := [y] } g0
  decide (y.due ≤ d0.n + 1) && ((s.advance 0).drill? 0).any fun d => d.n = 6 && d.landings.isEmpty && p d
theorem witness_LandingWrites : ([
    lands y0 (fun d => lane (d.vAt 3) 0 = 9 && lane (d.vAt 3) 1 = 0 && lane (d.vAt 3) 31 = 9 && lane (d.vAt 4) 0 = 0),
    lands { y0 with into := .vec 3 2 } (fun d => lane (d.vAt 3) 31 = 9 && lane (d.vAt 4) 31 = 1 && lane (d.vAt 4) 30 = 0),
    lands { y0 with into := .uni 63 1 } (fun d => d.sAt 63 = 9), lands { y0 with into := .uni 63 1, mask := 0 } (fun d => d.sAt 63 = 0),
    lands { y0 with into := .uni 62 2 } (fun d => d.sAt 62 = 9 && d.sAt 63 = 1),
    lands { y0 with into := .pred 0 } (fun d => d.kAt 0 = 0xFFFFFFFF && d.k.isEmpty), lands { y0 with into := .pred 7 } (fun d => d.kAt 7 = 0x80000001),
    lands { y0 with noReg := true } (fun d => d.v.isEmpty), lands { y0 with latch := some 7 } (fun d => lane (d.latch 7) 31 = 9 && lane (d.latch 7) 1 = 0),
    lands { y0 with latch := some 7, swath := 1 } (fun d => d.latches.isEmpty),
    lands { y0 with flags := [(31, 16)] } (fun d => d.flgAt 31 = 16 && d.flgAt 0 = 0)] : List Bool).all id = true := by decide +kernel

/-- A drill in user mode at which a trap arises; a result is outstanding in the second one. -/
def trapped (c : Context) (d : Drill) (t : TrapReq) (p : State → Bool) : Bool :=
  let s := { machine d g0 with ctxs := [(0, c)] }
  p (s.raise 0 t)
theorem witness_Traps : ([
    d0.drained, !({ d0 with sb := [(1, 1)], ops := [{ seq := 0, kind := .idle, slot := 1 }] } : Drill).drained,
    trapped c0 { d0 with idxInSwath := 2, swathPc := 0x7FF0 } { code := 0x1B, sub := 2, tval := 7 } (fun t => (t.drill? 0).any fun d =>
      d.sysMode && d.pc = 0x1000 && d.epc = 0x8000 && d.tcause = 0x0200001B && d.tval = 7 && d.tmask = 0xFFFFFFFF && d.xi = packXi true false 2 0x7FF0 &&
      d.sAt 77 = 0x08373F00 && d.sAt 72 = 0x100800 && d.sAt 74 = 0x100000),
    trapped { c0 with trapvec := 0 } d0 { code := 0x1B } (fun t => (t.drill? 0).any fun d => d.st = .parked && d.park = some (.syscall 1) && d.pc = 0x8000 && !d.sysMode),
    trapped c0 { d0 with sysMode := true } { code := 0x30 } (fun t => (t.drill? 0).any fun d => d.st = .parked && d.sysMode),
    trapped c0 { d0 with sysMode := true } { code := 0x1B } (fun t => (t.ctx? 0).any fun c => c.st = .faulted && c.fcode = 0x3F),
    trapped c0 { d0 with sysMode := true, routine := 2 } { code := 0x1B } (fun t => (t.ctx? 0).any fun c => c.st = .faulted && c.fcode = 0x3E),
    trapped c0 { d0 with sb := [(1, 1)], ops := [{ seq := 0, kind := .idle, slot := 1 }] } { code := 0x1B } (fun t => (t.drill? 0).any fun d =>
      d.st = .stalled && d.stall = some .drain && d.pc = 0x8000 && !d.sysMode),
    (((machine { d0 with sysMode := true, xi := packXi true true 3 0x9000, xp := [(0, { v := true, rem := 4, w64 := false, nw := false, lt := 0, cls := 0, dst := 7, mask := 1 })] } g0).resume 0).drill? 0).any fun d =>
      d.pc = 0x9018 && d.swathPc = 0x9000 && d.idxInSwath = 3 && d.skipTk0 && d.landings.length = 1 && d.landings.all fun y => y.due = 9 && y.mask = 1,
    (((machine { d0 with sysMode := true, epc := 0x9008 } g0).resume 0).drill? 0).any fun d => d.pc = 0x9008 && d.swathPc = 0x9008 && d.idxInSwath = 0] : List Bool).all id = true := by
  decide +kernel

/-- The first drill READY at the boundary of a swath. -/
def ready0 : Drill := { d0 with st := .ready, sb := [] }
def boundary (d : Drill) (g : Machine.Group) : State := machine d g
def calm (s : State) (d : Drill) : Bool := s.atBoundary 0 d && d.poisonDue.isNone && !d.sysMode
theorem witness_BoundaryEvents :
    let t (code : Nat) : PendTrap := { code := code }
    let rung : Drill := { ready0 with uiEn := true, uiPend := 3, s := [(0, 5), (64, 6)], uivec := 0x6000 }
    ([calm (boundary { ready0 with pendTraps := [t 0x28, t 0x14] } g0) { ready0 with pendTraps := [t 0x28, t 0x14] },
      drillAfter (.boundaryTrap 0) (boundary { ready0 with pendTraps := [t 0x28, t 0x14] } g0) (fun d => d.pc = 0x1000 && d.sysMode && d.tcause = 0x8014 && d.pendTraps = [t 0x28]),
      drillAfter (.boundaryTrap 0) (boundary { ready0 with pendTraps := [t 0x14, t 0x15] } g0) (fun d => d.tcause = 0x8015 && d.pendTraps = [t 0x14]),
      calm (boundary ready0 g0) ready0, idles (.boundaryTrap 0) (boundary ready0 g0),
      drillAfter (.overrun 0) (boundary { ready0 with pendOverrun := true } g0) (fun d => d.pc = 0x1000 && d.tcause = 0x8031 && !d.pendOverrun && d.epc = 0x8000),
      idles (.overrun 0) (boundary ready0 g0),
      drillAfter (.preempt 0) (boundary { ready0 with st := .waiting } { g0 with st := .preempting }) (fun d => d.pc = 0x2000 && d.routine = 1 && d.tcause = 0x8032),
      drillAfter (.preempt 0) (boundary { ready0 with st := .parked, park := some (.faults [3]), epc := 0x9000 } { g0 with st := .preempting }) (fun d => d.pc = 0x2000 && d.epc = 0x9000),
      idles (.preempt 0) (boundary ready0 g0),
      leads (.budgetExhausted 0) (boundary ready0 g0) (fun t => (t.ctx? 0).any (fun c => !c.armed) && (t.drill? 0).any (·.pendOverrun) && (t.drill? 1).any (·.pendOverrun)),
      idles (.budgetExhausted 0) { boundary ready0 g0 with ctxs := [(0, { c0 with budget := 1 })] },
      rung.uiDue, !({ rung with uiPend := 0 } : Drill).uiDue, idles (.userInterruptDelivery 0) (boundary { rung with uiPend := 0 } g0),
      drillAfter (.userInterruptDelivery 0) (boundary rung g0) (fun d => d.pc = 0x6000 && d.uiepc = 0x8000 && d.uiAct && d.uiPend = 0 && d.sAt 0 = 3 && d.sAt 64 = 5 && d.maskStack = [0xFFFFFFFF])] : List Bool).all id = true := by
  decide +kernel

/-- A buffer that holds the line of the pc. -/
def buffer : List FetchLine := [{ line := 0x100, data := some 0, pline := some 0x1000000100 }]
theorem witness_DrillEvents :
    let rdy (d : Drill) : State := { machine { d with fetch := buffer } g0 with drills := [(0, { d with fetch := buffer }), (1, { d1 with slot := 1 })] }
    let waits : Drill := { d0 with st := .waiting, longWait := some (.sysWaiti (.s 2) {}), uiEn := true, s := [(2, 1000)] }
    ([(rdy ready0).eligible { ready0 with fetch := buffer } 0, drillAfter (.swathArbitration 0 0 0) (rdy ready0) (·.st = .issuing), idles (.swathArbitration 0 0 1) (rdy ready0),
      idles (.swathArbitration 0 0 0) (rdy d0),
      drillAfter (.stallEnd 0) (machine { d0 with st := .stalled, stall := some (.slots 1) } g0) (fun d => d.st = .issuing && d.stall.isNone),
      idles (.stallEnd 0) (machine { d0 with st := .stalled, stall := some (.slots 1), sb := [(1, 1)] } g0), idles (.stallEnd 0) demo,
      drillAfter (.stallEnd 0) (machine { d0 with st := .stalled, stall := some .drain, trap := some { code := 0x1B } } g0) (fun d => d.pc = 0x1000 && d.sysMode),
      drillAfter (.resultLanding 0) (machine { ready0 with landings := [y0] } g0) (fun d => d.n = 6 && d.landings.isEmpty), idles (.resultLanding 0) demo,
      drillAfter (.longWaitMet 0) (machine { waits with uiPend := 1 } g0) (·.st = .ready), idles (.longWaitMet 0) demo,
      idles (.longWaitMet 0) (machine { waits with longWait := some (.stkTake 2 {}) } g0),
      drillAfter (.waitiDeadline 0) (machine waits g0) (·.st = .ready),
      drillAfter (.waitiDeadline 0) (machine { waits with st := .stalled, stall := some .cond } g0) (·.st = .issuing),
      idles (.waitiDeadline 0) (machine { waits with s := [(2, 1001)] } g0), idles (.waitiDeadline 0) (machine { waits with s := [] } g0),
      drillAfter (.fetchBufferRequest 0) (machine { d0 with fetchWant := [0x100] } g0) (fun d => d.fetchWant.isEmpty && d.fetch = [{ line := 0x100, data := none, pline := some 0x100000100 }]),
      drillAfter (.fetchBufferRequest 0) { machine { d0 with fetchWant := [0x100] } g0 with tlb := [] } (fun d => d.fetchWant.isEmpty && d.fetch.all (·.pline.isNone)),
      idles (.fetchBufferRequest 0) demo,
      leads (.icacheFillDone 0 0 0x100000100) (up { machine { d0 with fetch := [{ line := 0x100, data := none, pline := some 0x100000100 }] } g0 with cores := [(0, { ifills := [0x100000100] })] })
        (fun t => (t.drill? 0).any (fun d => d.fetch = [{ line := 0x100, data := some 0, pline := some 0x100000100 }]) && (t.core 0).ifills.isEmpty),
      idles (.icacheFillDone 0 0 1) demo,
      drillAfter (.fetchFault 0) { demo with tlb := [] } (fun d => d.st = .parked && d.tcause = 0x11 && d.tval = 0x8000),
      drillAfter (.fetchFault 0) (up demo) (fun d => d.st = .issuing && d.fetch = [{ line := 0x100, data := none, pline := some 0x100000100 }]),
      ({ d0 with fetch := buffer } : Drill).lineMissing = false, idles (.fetchFault 0) (machine { d0 with fetch := buffer } g0)] : List Bool).all id = true := by decide +kernel

/-! ### Witnesses of copies, plots and memory -/

def groupAfter (i : Instr) (s : State) (p : Machine.Group → Bool) : Bool := leads i s fun t => (t.group? 0).any p
/-- A fill of 32 bytes from address 0 on; a command of it. -/
def fill : CopyDesc := { form := 5, src := 0xA5A5A5A5, dst := 0x100, len := 32, rows := 1, ui := false, scope := 0, ring := false, srcStride := 32, dstStride := 32 }
def fillCmd : CopyCmd := { desc := some fill, drill := 0, tk0 := 1, tk1 := 0 }
def grouped (g : Machine.Group) : State := up (machine d0 g)
def drilled (d : Drill) : State := up (machine d g0)
theorem witness_RingsAndCopies :
    let req (c : Bool) : RingReq := { ring := 5, claim := c, who := some (0, 1) }
    let asked (a b : SlotState) (c : Bool) : State :=
      up (machine { d0 with ops := [{ seq := 1, kind := .ringTake 5 c none, slot := 1 }] } { g0 with rings := [(5, ring5 a b)], ringReqs := [req c] })
    let got (v : Word) (d : Drill) : Bool := d.ops.any fun o => match o.kind with | .ringTake 5 _ (some w) => w = v | _ => false
    let running (e : CopyDesc) (s : State → State) : State := s (grouped { g0 with stI := { run := some { cmd := { fillCmd with desc := some e }, engine := 0 } } })
    ([drillAfter (.ringRequestServed 0 5) (asked .free .full true) (got 0x50000000), drillAfter (.ringRequestServed 0 5) (asked .full .free false) (got 0x50000000),
      idles (.ringRequestServed 0 5) (asked .held .free false), idles (.ringRequestServed 0 5) (asked .full .free true),
      groupAfter (.stationDequeue 0 false 0) (grouped { g0 with tok := 1, stI := { queue := [{ fillCmd with desc := none, tk0 := 0 }] } }) (fun g => g.stI.queue.isEmpty && g.stI.run.isNone),
      groupAfter (.stationDequeue 0 true 2) (grouped { g0 with stO := { queue := [{ fillCmd with tk0 := 0 }] } }) (fun g => g.stO.queue.isEmpty && g.stO.run.any fun r => r.engine = 2),
      idles (.stationDequeue 0 false 0) (grouped { g0 with stI := { queue := [{ fillCmd with tk0 := 8 }] } }), idles (.stationDequeue 0 false 0) (running fill id),
      leads (.copyCompletion 0 false none) (running fill id) (fun t => (t.group? 0).any (fun g => g.stI.run.isNone) && t.byteAt 0x8000000100 = 0xA5 && t.byteAt 0x800000011F = 0xA5 && t.byteAt 0x8000000120 = 0),
      groupAfter (.copyFaultStop 0 false) (running fill fun s => { s with tlb := [] }) (fun g => g.stI.run.any fun r => r.doneUnits = 0 && r.fault.isSome),
      ((running { fill with dst := 0x80000000 } id).copyNow 0 false).any fun x => match ((running { fill with dst := 0x80000000 } id).runCopy x.1 x.2.1 x.2.2).2.2 with
        | some (.abort c) => c = 0x12 | _ => false,
      idles (.copyCompletion 0 false none) (running fill fun s => { s with tlb := [] }),
      leads (.copyCompletion 0 false (some ([1], true))) (running fill id) (fun t => (t.group? 0).any (fun g => g.stI.run.any fun r => r.early = [1] && r.got.isEmpty) &&
        t.byteAt 0x8000000100 = 0 && t.byteAt 0x8000000110 = 0xA5),
      groupAfter (.copyCompletion 0 false (some ([0], false))) (running fill id) (fun g => g.stI.run.any fun r => r.early.isEmpty && r.got = [(0, List.replicate 16 0xA5)])] : List Bool).all id = true := by decide +kernel

def copyAt : CopyAt := { gid := 0, g := { g0 with lsBase := 64 }, c := c0, chip := 4, seq := 0 }
def unitRead (s : State) (e : CopyDesc) (bs : Option (List Byte)) : Bool := match s.copyRead copyAt e 0 fun s pa => s.deviceBytes pa 16 with
  | .ok (l, _) => bs = some l | .error _ => bs.isNone
def unitDone (s : State) (e : CopyDesc) (got : Tbl (List Byte)) (p : State → Bool) : Bool := match s.copyUnit copyAt e got 1 with | .ok t => p t | .error _ => false
theorem witness_CopyUnits :
    let s : State := { grouped g0 with mem := [(0x8000000100, 7), (0x800000010F, 9)], cores := [(0, { ls := [(0x44, 5)], lsPoison := [0x80] })] }
    ([unitRead s fill (some [0xA5, 0xA5, 0xA5, 0xA5, 0xA5, 0xA5, 0xA5, 0xA5, 0xA5, 0xA5, 0xA5, 0xA5, 0xA5, 0xA5, 0xA5, 0xA5]),
      unitRead s { fill with form := 1, src := 0 } (some [0, 0, 0, 0, 5, 0, 0, 0, 0, 0, 0, 0, 0, 0, 0, 0]), unitRead s { fill with form := 1, src := 0x40 } none,
      unitRead s { fill with form := 2, src := 0x100 } (some [7, 0, 0, 0, 0, 0, 0, 0, 0, 0, 0, 0, 0, 0, 0, 9]), unitRead { s with poison := [0x100000002] } { fill with form := 0, src := 0x100 } none,
      unitDone s fill [(1, List.replicate 16 0x11)] (fun t => t.byteAt 0x8000000110 = 0x11 && t.byteAt 0x800000011F = 0x11),
      unitDone s fill [] (fun t => t.byteAt 0x8000000110 = 0xA5 && t.byteAt 0x800000010F = 9 && t.byteAt 0x8000000120 = 0),
      unitDone s { fill with form := 0, src := 0xF0, dst := 0 } [] (fun t => t.lsByte 0 80 = 7 && t.lsByte 0 95 = 9 && t.lsByte 0 0x44 = 5)] : List Bool).all id = true := by decide +kernel

/-- The group's plot, with a command in flight, in its queue or posted. -/
def runOf (c : PlotCmd) : PlotRun := { cmd := c, rows := [0], nf := false, tk0 := 0, tk1 := 0, by_ := [(0, 1)], started := true }
def plotHas (p : Plot) : State := up (plotted p [])
def plotAfter (i : Instr) (p : Plot) (f : Plot → Bool) : Bool := leads i (plotHas p) fun t => (t.plot? 0).any f
/-- Line 0 of slot 0: four ones (E4M3) in the first word of west, four twos in that of north. -/
def store0 : PlotStore := { lines := [(0, 0x38383838), (16384, 0x40404040)], sides := [], acc := [(5, 3)] }
theorem witness_PlotStorage :
    let p : Plot := { plot0 with st := .running, store := store0 }
    ([(plotHas { p with flight := [runOf (.mma .e4m3 false 0 0 0 0 0)] }).plot? 0 = some { p with flight := [runOf (.mma .e4m3 false 0 0 0 0 0)] },
      mmaElem .e4m3 false 0 0 0 (store0.line 0) (store0.line 16384) 0 0 = (0x41000000, 0),
      plotAfter (.postedBedWriteDone 0 0) { p with posted := [{ drill := 0, seq := 1, cmd := .awr 1 255 (splat 9) [(0, 127)] }] } (fun q => q.store.elem ((512 + 127) * 1024 + 255) = 9 && q.store.elem 5 = 3),
      plotAfter (.postedBedWriteDone 0 0) { p with posted := [{ drill := 0, seq := 1, cmd := .bedLdv false 1 15 0 63 (splat 9) [(0, 255)] }] } (fun q =>
        (q.store.line (31 * 1024 + 255)).extractLsb' 2016 32 = 9 && q.store.line 0 = 0x38383838),
      (plotHas { p with flight := [runOf (.bedZero 0 0 16)] }).plot? 0 = some { p with flight := [runOf (.bedZero 0 0 16)] },
      (plotHas { p with flight := [runOf (.bedScl 1 0 0x18)] }).plot? 0 = some { p with flight := [runOf (.bedScl 1 0 0x18)] }] : List Bool).all id = true := by
  decide +kernel

theorem witness_PlotQueue :
    let p : Plot := { plot0 with st := .running, store := store0 }
    let q1 (c : PlotCmd) : Plot := { p with queue := [{ runOf c with started := false }] }
    let mma : PlotCmd := .mma .mx6 false 0 3 4 0 0
    let f1 : Plot := { p with flight := [{ runOf mma with started := false }] }
    let halted (q : Plot) : Bool := q.st = .faulted && q.queue.isEmpty && q.flight.isEmpty
    ([plotAfter (.plotCommandDequeue 0) (q1 (.bedClaim 0 15 1)) (fun q => q.claimed = [15]), plotAfter (.plotCommandDequeue 0) { q1 (.bedClaim 0 15 1) with claimed := [15] } halted,
      plotAfter (.plotCommandDequeue 0) { q1 (.bedRel 1 0 2) with claimed := [16, 15, 17] } (fun q => q.claimed = [15]), plotAfter (.plotCommandDequeue 0) (q1 (.bedRel 1 0 2)) halted,
      plotAfter (.plotCommandDequeue 0) (q1 mma) (fun q => q.queue.isEmpty && q.flight.length = 1),
      idles (.plotCommandDequeue 0) (plotHas { q1 .drain with flight := [runOf mma] }), ({ q1 .drain with flight := [runOf mma] } : Plot).holds { runOf .drain with started := false },
      plotAfter (.mmaStart 0) f1 (fun q => q.sinceMma = some (86, 0) && q.flight.all (·.started)), plotAfter (.mmaStart 0) { f1 with sinceMma := some (32, 200) } (fun q => q.flight.all (·.started)),
      plotAfter (.mmaStart 0) { f1 with claimed := [4] } halted, plotAfter (.mmaStart 0) { f1 with claimed := [19] } halted, plotAfter (.mmaStart 0) { f1 with poisoned := true } halted,
      plotAfter (.plotEccError 0) p halted, idles (.plotEccError 0) (plotHas { p with st := .faulted }), idles (.plotEccError 0) (plotHas { p with st := .carved })] : List Bool).all id = true := by
  decide +kernel

/-- A descriptor of an AST: FP32, to address 0x1000, a line stride of 1024, bank 0, from column 0, 128 rows, 256 columns. -/
def astWords (base : Word) : List Word := [base, 0, 1024, 0, 0, 0, 0, 0]
theorem witness_Ast :
    let f0 : Plot := { plot0 with st := .running, store := store0, flight := [{ runOf (.ast .f32 (astWords 0x1000)) with rows := [] }] }
    let f1 (base : Word) : Plot := { plot0 with st := .running, store := store0, flight := [{ runOf (.ast .f32 (astWords base)) with rows := [0] }] }
    let s (base : Word) : State := { plotHas (f1 base) with tlb := [(256, [page 0 0x8000000000, page 0x40000000 0xFFC0000000])] }
    let stop (base : Word) : Option Nat := ((f1 base).astNow.bind fun r => (s base).runAst 0 (f1 base) r.1 r.2.1 r.2.2).map fun x =>
      match x.2.2 with | none => 0 | some (.fault ..) => 1 | some .abort => 2 | _ => 3
    ([plotAfter (.astCompletion 0 none) f0 (fun q => q.flight.isEmpty || q.flight.all (·.finished)), stop 0x80000000 = some 1,
      leads (.astFaultStop 0) { plotHas (f1 0x1000) with tlb := [] } (fun t => (t.plot? 0).any fun q => q.flight.any fun r => r.units = 0 && r.fault.isSome), stop 0x7FFFFF80 = some 2,
      leads (.astAbort 0) (s 0x7FFFFF80) (fun t => (t.plot? 0).any fun q => q.st = .faulted && q.flight.isEmpty),
      leads (.astCompletion 0 (some 3)) (s 0) (fun t => (t.plot? 0).any fun q => q.flight.any fun r => r.units = 3 && !r.finished)] : List Bool).all id = true := by decide +kernel

theorem witness_Collectives :
    let copy (j : Nat) (c : PlotCmd) : PlotCopy := { cmd := c, collective := true, drill := j, seq := j, cm := 0x80000001, nf := false, tk0 := 1, tk1 := 2 }
    let at_ (own : Bool) (a b : PlotCmd) : State :=
      { plotHas (if own then { plot0 with st := .running } else { plot0 with st := .carved, gid := none }) with
        groups := [(0, { g0 with plot := if own then some 0 else none, streams := [(0, [copy 0 a]), (1, [copy 1 b])] })] }
    let mma : PlotCmd := .mma .mx6 false 0 3 4 0 0
    ([((at_ true mma mma).nextCollective 0 { g0 with plot := some 0, streams := [(0, [copy 0 mma]), (1, [copy 1 mma])] }).length = 2,
      leads (.collectiveAssembly 0) (at_ true mma mma) (fun t => (t.plot? 0).any fun p => p.queue.any fun r => r.cmd = mma && r.rows = [0, 31, 32, 63] && r.tk0 = 1),
      leads (.collectiveAssembly 0) (at_ true mma .drain) (fun t => (t.plot? 0).any fun p => p.st = .faulted && p.queue.isEmpty),
      leads (.collectiveAssembly 0) (at_ false (.rsv 0x10) (.rsv 0x10)) (fun t => (t.group? 0).any (fun g => g.plot.isNone && g.last = 3)),
      leads (.collectiveAssembly 0) { at_ false (.rsv 0x10) (.rsv 0x10) with groups := [(0, { g0 with g := 128, pos := [0, 1, 2, 3], streams := (List.range 4).map fun j => (j, [copy j (.rsv 0x10)]) })] }
        (fun t => (t.group? 0).any (fun g => g.plot = some 0) && (t.plot? 0).any (fun p => p.gid = some 0 && p.st ≠ .carved))] : List Bool).all id = true := by decide +kernel

theorem witness_MemoryTraffic :
    let l : LaneAddr := { lane := 31, va := 0x100, pa := 0x8000000100 }
    let op (k : VarKind) : VarOp := { seq := 1, kind := k, into := .vec 3 1, mask := 0x80000000, slot := 1 }
    let s (o : VarOp) : State := { drilled { d0 with sb := [(1, 1)], ops := [o] } with mem := [(0x8000000100, 7), (0x8000000102, 1)] }
    let st (bs : List Byte) : State := drilled { d0 with storeQueue := [{ seq := 1, kind := .store [(l, bs)] }] }
    let far : LaneAddr := { lane := 31, va := 0, pa := 0x100000000000 }
    let remote : State := { drilled { d0 with ops := [op (.load .w [far])] } with regs := [(0xF0000, 0x8000000000000000)] }
    let inbound (o : InboundOp) : Instr := .inboundRemoteAccess 0 o 0x8000000100 0
    let device (p : Nat) (o : DevOp) : Instr := .directoryRequest 4 0 (.device { port := p, id := 0x100, pasid := none, priv := false, translated := false, addr := 0x8000000100, op := o })
    let bare (s : State) : State := { s with iommu := [(16, 1)] }
    let dark (s : State) : State := { s with poison := [0x100000002], inbound := some [] }
    let openPort (s : State) : State := { s with regs := [(0xF0080, 1)] }
    let l0 : LaneAddr := { lane := 0, va := 0x200, pa := 0x8000000200 }
    let oneTaken (d : Drill) (v : List Byte) : Bool := d.ops.any fun o => tblGet? o.taken 31 = some v
    ([drillAfter (.variableResultLanding 0 1 false (some (0xC0000000, true))) (s (op (.load .w [l]))) (fun d => lane (d.vAt 3) 31 = 0x10007 && oneTaken d [7, 0, 1, 0] && d.count 1 = 1),
      drillAfter (.variableResultLanding 0 1 false (some (0x80000000, false))) (s (op (.load .w [l]))) (fun d => lane (d.vAt 3) 31 = 0 && oneTaken d [7, 0, 1, 0]),
      drillAfter (.variableResultLanding 0 1 false none) (s { op (.load .w [l]) with taken := [(31, [5, 0, 0, 0])] }) (fun d => lane (d.vAt 3) 31 = 5 && d.ops.isEmpty),
      drillAfter (.variableResultLanding 0 1 false (some (0x80000000, true))) (s { op (.value (splat 9) []) with mask := 0xC0000000 }) (fun d =>
        lane (d.vAt 3) 31 = 9 && lane (d.vAt 3) 30 = 0 && d.ops.length = 1),
      leads (.storeQueueDeparture 0 (some 1)) (drilled { d0 with storeQueue := [{ seq := 1, kind := .store [(l0, [1]), (l, [2])] }] }) (fun t =>
        t.byteAt 0x8000000200 = 1 && t.byteAt 0x8000000100 = 0 && (t.drill? 0).any (fun d => d.storeQueue = [{ seq := 1, kind := .store [(l, [2])] }])),
      leads (.atomPerform 0 1 false (some 1)) (s (op (.atom (.int .add false false) 0 [l, l0] (splat 1) (splat 0) false none))) (fun t =>
        t.byteAt 0x8000000100 = 8 && t.byteAt 0x8000000200 = 0 && (t.drill? 0).any fun d => oneTaken d [7, 0, 1, 0, 0, 0, 0, 0] && d.ops.all fun o => o.kind = .atom (.int .add false false) 0 [l0] (splat 1) (splat 0) false none),
      drillAfter (.variableResultLanding 0 1 false none) (s (op (.load .w [l]))) (fun d => lane (d.vAt 3) 31 = 0x10007 && lane (d.vAt 3) 0 = 0 && d.ops.isEmpty && d.count 1 = 0),
      drillAfter (.variableResultLanding 0 1 false none) (s (op (.value (splat 9) []))) (fun d => lane (d.vAt 3) 31 = 9 && lane (d.vAt 3) 30 = 0 && d.ops.isEmpty), idles (.variableResultLanding 0 2 false none) (s (op .idle)),
      leads (.storeQueueDeparture 0 none) (st [1, 2, 3, 4]) (fun t => t.byteAt 0x8000000103 = 4 && t.byteAt 0x8000000104 = 0 && (t.drill? 0).any (·.storeQueue.isEmpty)), idles (.storeQueueDeparture 0 none) (up demo),
      leads (.atomPerform 0 1 false none) (s (op (.atom (.int .add false false) 0 [l] (splat 0xFFFFFFFF) (splat 0) false none))) (fun t =>
        t.byteAt 0x8000000100 = 6 && t.byteAt 0x8000000102 = 1 && (t.drill? 0).any fun d => d.ops.any fun o => match o.kind with | .atom _ _ _ _ _ _ (some g) => lane g 31 = 0x10007 | _ => false),
      leads (.directoryRequest 4 0x100000002 .own) (s (op .idle)) (fun t => (tblGet? t.owned 0x100000002).any fun w => w.chip = 4 && w.excl && lineByte w.data 0 = 7),
      moves (.directoryRequest 4 0x100000002 .share) (s (op .idle)), remote.remotePort 0x100000000000 = some 24,
      drillAfter (.remoteResponse (.op 0 1 24) true [9]) remote (fun d => d.ops.any fun o => o.answers = [(31, some 9)]),
      drillAfter (.remoteResponse (.op 0 1 24) false []) remote (fun d => d.ops.any fun o => o.answers = [(31, none)]),
      drillAfter (.remoteResponse (.store 0) true []) (drilled { d0 with remoteStores := [(24, 8), (25, 8)] }) (fun d => d.remoteStores = [(25, 8)]),
      leads (.remoteResponse (.store 0) false []) (drilled { d0 with remoteStores := [(24, 8)] }) (fun t => (t.link 24).errcnt = 1), idles (.remoteResponse (.store 0) true []) (up demo),
      leads (inbound (.write [5])) (openPort (up demo)) (fun t => t.homeByte 0x8000000100 = 5 && t.inbound = some []),
      leads (inbound (.read 3)) (openPort (s (op .idle))) (fun t => t.inbound = some [7, 0, 1]),
      leads (inbound (.atomI .add false false false 1)) (openPort (s (op .idle))) (fun t => t.inbound = some [7, 0, 1, 0] && t.homeByte 0x8000000100 = 8),
      leads (inbound (.atomI .xchg true true false 1)) (openPort (s (op .idle))) (fun t => t.inbound = some [7, 0, 1, 0, 0, 0, 0, 0] && t.homeByte 0x8000000102 = 0),
      leads (inbound (.atomI .add false false true 1)) (dark (openPort (s (op .idle)))) (fun t => t.inbound = some [] && t.homeByte 0x8000000100 = 8),
      leads (inbound (.read 1)) (dark (openPort (s (op .idle)))) (fun t => t.inbound.isNone),
      leads (inbound (.atomI .xchg false false true 1)) { openPort (s (op .idle)) with inbound := some [] } (fun t => t.inbound.isNone),
      leads (inbound (.read 1)) { s (op .idle) with inbound := some [] } (fun t => t.inbound.isNone),
      leads (device 3 (.read 3)) (bare (s (op .idle))) (fun t => t.devAnswer = some (.data [7, 0, 1])),
      leads (device 0 (.read 16)) (dark (bare (s (op .idle)))) (fun t => t.devAnswer = some .poisoned),
      leads (device 0 (.write [9])) (bare (s (op .idle))) (fun t => t.devAnswer = some .taken && t.byteAt 0x8000000100 = 9),
      leads (device 0 (.read 1)) (s (op .idle)) (fun t => t.devAnswer = some .unsupported)] : List Bool).all id = true := by decide +kernel

/-! ### Witnesses of stacks, groups, queues, links, the platform and harts -/

def stackAfter (i : Instr) (s : State) (p : Stack → Bool) : Bool := leads i s fun t => p (t.stack 2)
/-- The machine with every chiplet up, whose context holds stack 2 with the right to cede it. -/
def held2 (x : Stack) : State := { up demo with stackTbl := [(2, x)] }
def stack0 : Stack := { holder := some 0, cedeRight := true }
def cede (side : Nat) : Cede := { side := side, drill := 0, gid := 0, ctx := 0, tk1 := 9 }
/-- Hart 0 in M-mode is about to execute, a1 and a2 as given. -/
def hart0 (a b : DWord) : Hart := { x := [(11, a), (12, b)], pc := 0x8000000100, wait := .running }
def at0 (h : Hart) (s : State) : State := { s with cur := some (.hart 0), harts := [(0, h)] }
/-- It completes, a0 takes v, and the rest is as `p` says. -/
def answers (i : Instr) (h : Hart) (s : State) (v : DWord) (p : State → Bool) : Bool :=
  leads i (at0 h s) fun t => (t.hart 0).xAt 10 = v && (t.hart 0).pc = h.pc + 4 && p t
/-- Nothing is cached, and the root table lies in stack 2, which is changing hands: every walk waits. -/
def walled (d : Drill) : State := { up (machine d g0) with tlb := [], stackTbl := [(2, { st := .draining })], ctxs := [(0, { c0 with satp := 0xA000000 })] }
theorem witness_Held :
    let w : State := walled { d0 with cm := 0x80000001 }
    let w3 : State := { walled { d0 with cm := 0x80000001, s := [(6, 3), (2, 3)] } with queues := [(3, open3)] }
    let walk (a : Src) (acc : Access) (atomic : Bool) (n : Nat) (per : Bool) : Issue → State → Bool := access acc atomic n a per (some 0)
    let stash : State := { w with groups := [(0, { g0 with stash := [(0, { v := 0, word := 0 })] })] }
    let lost (st : DrillState) (sys : Bool) : State := up (machine { d0 with st := st, sysMode := sys, longWait := some (.barCroft {}), pendTraps := [{ code := 0x25 }], stall := if st = .stalled then some .cond else none } g0)
    ([meets (.ld .w 1 (.v 2) 0 { sbs := 1 }) w (walk (.v 2) { r := true } false 4 true), meets (.st .w 1 (.v 2) 0 {}) w (walk (.v 2) { w := true } false 4 true),
      meets (.ldu .d 2 (.s 2) 0 { sbs := 1 }) w (walk (.s 2) { r := true } false 8 false), meets (.lnchPost (.s 4) (.s 6) {}) w3 (walk (.s 4) { r := true } false 128 false),
      [Instr.mbarInit (.s 4) (.s 6) {}, .mbarArr (.s 4) (.s 6) {}, .mbarInv (.s 4) {}].all (fun i => meets i w (mbarChecks { r := true, w := true } (some 0))),
      meets (.mbarTest 1 (.s 4) (.s 6) { sbs := 1 }) w (mbarChecks { r := true } (some 0)),
      meets (.exitSucc (.s 2) { e := true }) { w3 with queues := ready3.queues.map (fun p => (p.1, { p.2 with base := 0xA000000000 })), launches := ready3.launches, groups := ready3.groups } (fun x s => checkSucc x s (srcU x (.s 2)) = some 0),
      meets (.lds .w 1 (.v 2) 0 { sbs := 1 }) stash (localAccess { r := true } 4 (.v 2) (some 0)),
      (match w.translate 4 { c0 with satp := 0xA000000 } 0x8000 { x := true } with | .error e => e.cause = 0 | .ok _ => false),
      idles (.fetchFault 0) w, w.physHeld 0xA000000000 256, !(up demo).physHeld 0x8000000000 256, w.pinHeld { c0 with satp := 0xA000000 } 0x1000,
      idles (.ctxBuild 10 11 12) (at0 (hart0 1 0xA000000000) w), idles (.ctxActivate 10 11 12) (at0 (hart0 0x1000 0) { w with ctxs := [(0, { c0 with st := .built, satp := 0xA000000 })] }),
      drillAfter (.stallEnd 0) (lost .stalled true) (fun d => d.st = .issuing && d.pc = 0x8008 && d.longWait.isNone && d.pendTraps.length = 1),
      drillAfter (.longWaitMet 0) (lost .waiting true) (fun d => d.st = .ready && d.pc = 0x8008 && d.longWait.isNone),
      idles (.longWaitMet 0) (lost .waiting false), idles (.resultLanding 0) (machine { d0 with st := .ready, resumed := true } g0)] : List Bool).all id = true := by decide +kernel
/-- A transfer's target that is no LAND; a remote block and reserved bytes of a block; a barrier that its arrivals still hold; the walk cache;
a function whose value is a multiple of a power of two. -/
theorem witness_Others :
    let d (p : DWord) : Drill := { d0 with needLand := some (p, 1) }
    let sys (l : Tbl Word) (m : List Host.Cell) : State := { up (machine { d0 with sysMode := true, s := l } g0) with mem := m }
    let far : State := { sys [(4, 0x40000000)] [] with tlb := [(4, [page 0x40000000 0x100000000000])], regs := [(0xF0000, 0x8000000000000000)] }
    let held (o : Nat) : State := machine { d0 with s := [(2, 7)], barA := 0x80, barT := [(7, 3)], storeQueue := [{ seq := 1, kind := .store [] }] } { g0 with bars := [(7, { phase := 4 })], barRel := [(7, 3, 0, o)] }
    let w : WalkEntry := { asid := 1, global := true, va := 0, size := 2 ^ 30, level := 1, base := 0x8000004000 }
    ([earlyTrap (d 0x8000) g0 (.nop {}) matches some { code := 0x06, .. }, earlyTrap (d 0x8000) g0 (.land { e := true }) = none, earlyTrap (d 0x9000) g0 (.nop {}) = none,
      (earlyTrap (d 0x8000) g0 (.iadd .i32 64 (.v 1) (.v 2) {})).any fun t => t.code ≠ 0x06,
      meets (.svldLoadp (.s 4) {}) far (fun x s => match checkBlock x s { r := true } (srcU64 x (.s 4)) 256 with
        | .ok (parts, _) => (parts.flatMap (blockUnits (srcU64 x (.s 4)))).length = 16 | .error _ => false),
      meets (.svldLoadp (.s 4) {}) (sys [(4, 0x80)] [(0x8000000130, 1)]) (fun x s => blockOk false 256 (.s 4) x s && decide (s.byteAt (0x8000000080 + 176) = 1)),
      meets (.tload 0 (.s 4) {}) (sys [(4, 0x80)] [(0x8000000484, 1)]) (fun x s => blockOk false 1152 (.s 4) x s && decide (s.byteAt (0x8000000080 + 1028) = 1)),
      meets (.svldSavev (.s 4) {}) (sys [(4, 0xC0000000)] []) (fun x s => match checkBlock x s { w := true, r := false } (srcU64 x (.s 4)) 8192 with | .ok _ => false | .error t => t.code = 0x10),
      meetsLong (.barHold (.s 2) {}) (held 9) (fun x s => x.d.barA.getLsbD 7 && (x.g.barRel.any fun r => !s.released x.d.gid x.g r.2.2.1 r.2.2.2)),
      meetsLong (.barHold (.s 2) {}) (held 1) (fun x s => x.d.barA.getLsbD 7 && (x.g.barRel.all fun r => s.released x.d.gid x.g r.2.2.1 r.2.2.2)),
      w.serves 1 0x1000, !w.serves 1 0x40000000, demo.walkStart 4 c0 0x1000 = (4, 0, false),
      (match sfuSpec fmtF32 .rcpa 0x40000000 with | .dyadic .. => true | _ => false)] : List Bool).all id = true := by decide +kernel

theorem witness_Stacks :
    let drain (n : Nat) : Stack := { stack0 with st := .draining, target := 1, step := n, since := 5, carried := [cede 1] }
    let sent (x : Stack) (side : Nat) : State := held2 { x with sent := [cede side] }
    ([idles (.cedeAccept 2) (held2 stack0), stackAfter (.cedeAccept 2) (sent stack0 1) (fun x => x.st = .draining && x.step = 1 && x.target = 1 && x.carried = [cede 1]),
      leads (.cedeAccept 2) (sent { stack0 with cedeRight := false } 1) (fun t => (t.drill? 0).any fun d => d.pendTraps = [{ code := 0x14, sub := 3, station := 0 }]),
      leads (.cedeAccept 2) { sent stack0 1 with links := [(5, { st := .active })] } (fun t => (t.drill? 0).any fun d => d.pendTraps = [{ code := 0x28, sub := 3, station := 0 }]),
      leads (.cedeAccept 2) (sent stack0 0) (fun t => (t.stack 2).st = .held && (t.group? 0).any fun g => g.tok ≠ 0),
      stackAfter (.cedeAccept 2) (sent (drain 2) 1) (fun x => x.carried = [cede 1, cede 1] && x.step = 2), stackAfter (.cedeAccept 2) (sent (drain 2) 0) (fun x => x.queued = [cede 0]),
      stackAfter (.cedeAccept 2) (sent { drain 2 with queued := [cede 0] } 0) (fun x => x.queued = [cede 0] && x.carried = [cede 1, cede 0]),
      stackAfter (.cedeAccept 2) (sent { stack0 with st := .zeroing } 0) (fun x => x.nulls = [cede 0] && x.carried.isEmpty),
      idles (.handoverDrainStep 2) (held2 stack0), idles (.handoverPortOpen 2) (held2 stack0), stackAfter (.handoverDrainStep 2) (held2 (drain 1)) (·.step = 2),
      stackAfter (.handoverDrainStep 2) (held2 (drain 2)) (·.step = 3), (held2 (drain 2)).drained2 2 (drain 2),
      leads (.handoverDrainStep 2) { held2 (drain 3) with owned := [(0xA0000000 / 128 * 128, { chip := 5, excl := true, dirty := true, data := 1 }), (0xA000000000 / 128, { chip := 5, excl := true, dirty := true, data := 1 })] }
        (fun t => (t.stack 2).step = 4 && t.homeByte 0xA000000000 = 1 && (tblGet? t.owned (0xA000000000 / 128)).all fun o => o.chip ≠ 5),
      stackAfter (.handoverDrainStep 2) (held2 (drain 4)) (·.step = 5),
      leads (.handoverDrainStep 2) { held2 (drain 5) with grants := [(5, 0xA000000), (5, 0x8000000), (9, 0xA000000)] } (fun t => (t.stack 2).step = 6 && t.grants = [(5, 0x8000000), (9, 0xA000000)]),
      idles (.handoverPortOpen 2) (held2 (drain 5)), stackAfter (.handoverPortOpen 2) (held2 (drain 6)) (fun x => x.st = .held && x.owner = 1 && x.epoch = 1),
      stackAfter (.handoverPortOpen 2) (held2 { drain 6 with shareAfter := true }) (fun x => x.st = .zeroing && x.holder.isNone),
      idles (.stackZeroingDone 2) (held2 stack0),
      leads (.stackZeroingDone 2) { held2 { stack0 with st := .zeroing } with mem := [(0xA000000000, 7), (0xB000000000, 8)] } (fun t => (t.stack 2).st = .held && t.mem = [(0xB000000000, 8)]),
      answers (.svlStkgrant 10 11 12) (hart0 0x12 0) (held2 stack0) 3 (fun _ => true), answers (.svlStkgrant 10 11 12) (hart0 2 9) (held2 stack0) 2 (fun _ => true),
      answers (.svlStkgrant 10 11 12) (hart0 2 0x8000000000000000) (held2 (drain 2)) 1 (fun _ => true), answers (.svlStkgrant 10 11 12) (hart0 2 0) (held2 stack0) 0 (fun t => !(t.stack 2).cedeRight),
      answers (.svlStkgrant 10 11 12) (hart0 10 0) (held2 {}) 0 (fun t => (t.stack 2).st = .zeroing && (t.stack 2).holder = some 0 && (t.stack 2).cedeRight)] : List Bool).all id = true := by decide +kernel

/-- A launch of queue 3 of two groups of 64 lanes, one placed. -/
def launch0 : Launch := { queue := 3, ctx := 0, code := 0, kcb := { kcb with plot := false }, kcbVa := 0, gx := 2, gy := 1, gz := 1, g := 64, arg := 0x700000009, setMask := [1, 0, 0, 0x10], next := 1 }
/-- Its queue, its launch at the head. -/
def queue3 : Queue := { st := .opened, entries := [{ id := 0, idx := 0, posted := true, filled := true, launch := some 0 }], ready := true }
/-- One core enabled on chiplet 4 (R363), the quotas at their reset values. -/
def placing (q : Queue) (x : Launch) : State := { up demo with seq := 10, queues := [(3, q)], launches := [(0, x)], tables := [(4, 0xFFFFFFFFFFFFFFFF0000000000000000)] }
def exiting (n : Nat) (g : Machine.Group) (x : Launch) : State := { up (machine { d0 with st := .done } { g with st := .exiting, exitStep := n }) with
    drills := [(0, { d0 with st := .done }), (1, { d1 with st := .done }), (200, { d1 with gid := 7 })], launches := [(0, x)], queues := [(3, queue3)] }
theorem witness_GroupLife :
    let place (c : CroftAt) : Instr := .groupPlacement 3 [c]
    let spot : CroftAt := { die := 0, cores := [0], pos := [[2, 3]], ls := [65536] }
    let bad : CroftAt := { spot with pos := [[0, 1]] }
    let s : State := placing queue3 launch0
    let new (a : DWord) : State := placing { queue3 with base := a } { launch0 with next := 0 }
    let turned (x : Option Offer × State) (e : Nat) : Bool := x.1.isNone && (x.2.queue 3).st = .error && (x.2.queue 3).ecause = e
    let allowed (c : CroftAt) : Bool := s.placeAllowed 0 (needOf kcb 64) 1 (s.mateCores s.seq) c
    ([s.offer 3 = some (.head 0), s.rejectImpossible = s, s.chosen 3, s.dispatch 3 = (some (.head 0), s), allowed spot,
      (new 0x8000000000).offer 3 = some (.head 0), turned ((new 0x8000000000).dispatch 3) 1, turned ((new 0x20000000).dispatch 3) 1,
      { new 0xA000000000 with stackTbl := [(2, { st := .draining })] }.dispatch 3 = (none, { new 0xA000000000 with stackTbl := [(2, { st := .draining })] }),
      { new 0x8000000000 with mem := [(0x8000000010, 1), (0x8000000014, 1), (0x8000000018, 1), (0x800000001C, 64)] }.dispatch 3 matches (some (.head 0), _),
      leads (place spot) s (fun t => (t.group? 11).any (fun g => g.x = 1 && g.g = 64 && g.saveSlot = 1 && g.gsave = 0x102000 && g.st = .running) &&
        (t.drill? 2).any fun d => d.gid = 11 && d.idx = 0 && d.st = .ready && d.sAt 0 = 9 && d.sAt 1 = 7 && d.cm = 0xFFFFFFFF),
      !allowed bad, idles (place bad) s, idles (place spot) (up demo),
      idles (.groupExitSequence 5) demo, idles (.groupExitSequence 0) demo,
      groupAfter (.groupExitSequence 0) (exiting 1 g0 launch0) (·.exitStep = 2), idles (.groupExitSequence 0) { exiting 1 g0 launch0 with drills := [(0, { d0 with st := .done, storeQueue := [{ seq := 0, kind := .fence 0 false }] })] },
      groupAfter (.groupExitSequence 0) (exiting 2 g0 launch0) (·.exitStep = 3), idles (.groupExitSequence 0) (exiting 2 { g0 with stO := { queue := [fillCmd] } } launch0),
      groupAfter (.groupExitSequence 0) (exiting 3 g0 launch0) (·.exitStep = 4), groupAfter (.groupExitSequence 0) (exiting 3 { g0 with stash := [(0, { v := 0, word := 0 })] } launch0) (fun g => g.exitStep = 4 && g.stash.isEmpty),
      groupAfter (.groupExitSequence 0) (exiting 4 g0 launch0) (·.exitStep = 5),
      idles (.groupExitSequence 0) (exiting 4 { g0 with streams := [(0, [{ cmd := .drain, collective := true, drill := 0, seq := 0, cm := 1, nf := false, tk0 := 0, tk1 := 0 }])] } launch0),
      leads (.groupExitSequence 0) (exiting 5 g0 launch0) (fun t => (t.group? 0).any (·.st = .done) && (t.drill? 0).isNone && (t.drill? 200).isSome && (tblGet? t.launches 0).any (·.exited = 1)),
      leads (.groupExitSequence 0) (exiting 5 g0 { launch0 with exited := 1, next := 2 }) (fun t => (t.group? 0).isNone && (tblGet? t.launches 0).isNone && (t.ctx? 0).any fun c => c.event 0 = 1 && c.event 3 = 0x10),
      idles (.contextRetire 0) demo, leads (.contextRetire 0) { demo with ctxs := [(0, { c0 with st := .draining })], groups := [(0, { g0 with st := .lost })] } (fun t => (t.ctx? 0).any (·.st = .retired) && (t.group? 0).isNone)] : List Bool).all id = true := by decide +kernel

/-- The group waits to be saved; the service cache holds the translation of its save area. -/
def saving : State := { up (machine d0 { g0 with st := .preempting, tok := 7 }) with
    drills := [(0, { d0 with st := .done, saved := true }), (1, { d1 with st := .done, saved := true })], tlb := [(0, [page 0 0x8000000000])] }
/-- It is SAVED; its record is what memory holds. -/
def saved : State := { up (machine d0 { g0 with st := .saved, kcb := { kcb with plot := false } }) with
    drills := [], tlb := [(0, [page 0 0x8000000000])], crofts := [(0, { launch := 0, members := [0] })], launches := [(0, launch0)], tables := [(4, 0xFFFFFFFFFFFFFFFF0000000000000000)] }
/-- The record lies at a physical address that can be read or written. -/
def recordThere (s : State) (acc : Access) : Bool := match s.recordAt g0 acc with | .ok pa _ => pa = 0x8000100000 | _ => false
theorem witness_SavedGroups :
    let spot : CroftAt := { die := 0, cores := [0], pos := [[2, 3]], ls := [65536] }
    ([idles (.groupRecordWrite 1) demo, idles (.groupRecordWrite 0) demo, saving.recordDue 0 { g0 with st := .preempting, tok := 7 }, recordThere saving { w := true },
      leads (.groupRecordWrite 0) { saving with tlb := [] } (fun t => (t.ctx? 0).any fun c => c.st = .faulted && c.fcode = 0x3E),
      idles (.groupRestore 0 [spot]) demo, idles (.groupRestore 0 [spot]) { saved with ctxs := [(0, { c0 with st := .suspended })] }, idles (.groupRestore 0 [{ spot with cores := [500] }]) saved,
      (saved.replaceCroft 0 { launch := 0, members := [0] } spot).any fun t => recordThere t.endAside { r := true },
      leads (.groupRestore 0 [spot]) saved (fun t => (t.group? 0).any (fun g => g.tok = 0 && g.st = .restoring) && (t.drill? 2).any fun d => d.pc = 0x3000 && d.sysMode),
      leads (.groupRestore 0 [spot]) { saved with poison := [0x8000100000 / 128] } (fun t => (t.ctx? 0).any fun c => c.st = .faulted && c.fcode = 0x3E)] : List Bool).all id = true := by decide +kernel

def queueAfter (i : Instr) (s : State) (p : Queue → Bool) : Bool := leads i s fun t => p (t.queue 3)
/-- A packet for two groups of 64 lanes, its control block at 0x400. -/
def packet0 : List Byte := toBytes (BitVec.ofNat 1024 (0x400 * 2 ^ 64 + 2 * 2 ^ 128 + 2 ^ 160 + 2 ^ 192 + 64 * 2 ^ 224)) 128
theorem witness_Queues :
    let q (st : QueueState) : Queue := { st := st, ctl := 0x0010000000000000, base := 0x8000002000 }
    let e : QEntry := { id := 7, idx := 1, posted := true, pa := some 0x8000003000, snap := packet0 }
    let s (x : Queue) : State := { up demo with queues := [(3, x)] }
    let ring (x : QEntry) : Queue := { q .opened with entries := [x] }
    ([queueAfter (.qcmdOpen 3) (s (q .disabled)) (·.st = .opened), queueAfter (.qcmdOpen 3) (s { q .disabled with ctl := 0 }) (·.ref), queueAfter (.qcmdOpen 3) (s { q .disabled with ctl := 0x00D0000000000000 }) (·.ref),
      queueAfter (.qcmdOpen 3) (s (q .paused)) (·.ref), queueAfter (.qcmdPause 3) (s (q .opened)) (·.st = .paused), queueAfter (.qcmdPause 3) (s (q .error)) (·.ref),
      queueAfter (.qcmdResume 3) (s (q .paused)) (·.st = .opened), queueAfter (.qcmdResume 3) (s { q .error with ecause := 2, entries := [{ e with bad := true }] }) (fun x => x.st = .opened && x.ecause = 0 && x.entries.isEmpty),
      queueAfter (.qcmdResume 3) (s (q .opened)) (·.ref), queueAfter (.qcmdDrain 3) (s (q .error)) (·.st = .draining), queueAfter (.qcmdDrain 3) (s (q .disabled)) (·.ref),
      queueAfter (.queueDrainDone 3) (s (q .draining)) (·.st = .disabled), idles (.queueDrainDone 3) (s (q .opened)),
      idles (.queueDrainDone 3) { s (q .draining) with launches := [(0, launch0)] },
      idles (.packetCheck 3 []) (s (q .opened)), idles (.packetCheck 3 []) (s (ring { e with posted := false })), idles (.packetCheck 3 []) { s (ring e) with stackTbl := [(0, { st := .draining })] },
      (packetIn packet0).ok, (s (ring e)).packetSeen (ring e) e [] = some packet0, packet0.length = 128,
      queueAfter (.packetCheck 3 []) (s (ring { e with pa := none })) (fun x => x.st = .error && x.ecause = 1 && x.entries.all (·.bad)),
      idles (.kcbRead 3) (s (q .opened)), idles (.kcbRead 3) (s (ring e)),
      queueAfter (.kcbRead 3) (s (ring { e with filled := true })) (fun x => x.st = .error && x.ecause = 1),
      ((s (ring e)).packetAt (ring e) e).any fun p => !p.ok] : List Bool).all id = true := by decide +kernel
/-- The packet stands in the ring, and its control block at 0x400: one register of each kind, entry 0x8000 of code 0. -/
def packetBytes : List Host.Cell := [(0x8000002089, 4), (0x8000002090, 2), (0x8000002094, 1), (0x8000002098, 1), (0x800000209C, 64)]
def blockBytes : List Host.Cell := [(0x8000000400, 1), (0x8000000402, 128), (0x8000000405, 8), (0x8000000408, 1), (0x800000040A, 1), (0x8000000411, 128)]
theorem witness_LaunchRead :
    let e : QEntry := { id := 7, idx := 1, posted := true, pa := some 0x8000003000, filled := true }
    let x : Queue := { st := .opened, ctl := 0x0010000000000000, base := 0x8000002000, entries := [e] }
    let s (m : List Host.Cell) : State := { up demo with queues := [(3, x)], tlb := [(0, [page 0 0x8000000000])], mem := m ++ packetBytes }
    ([((s blockBytes).packetAt x e).any (·.ok), leads (.kcbRead 3) (s blockBytes) (fun t => (tblGet? t.launches 0).any fun l => l.gx = 2 && l.g = 64 && l.kcb.entryA = 0x8000 && l.next = 0),
      queueAfter (.kcbRead 3) (s []) (fun y => y.st = .error && y.ecause = 2 && y.entries.all (·.bad))] : List Bool).all id = true := by decide +kernel

theorem witness_ServiceQueues :
    let e (k : Nat) : SysEntry := { posted := false, kind := k, ctx := 0, drill := some 0, bytes := List.replicate 64 1 }
    let s (base head tail : DWord) : State := { up demo with regs := [(0x4020000, base), (0x4020008, head), (0x402000C, tail)], sysEntries := [(4, [e 0])] }
    let f : FaultRec := { st := .queued, asid := 1, ctx := 0, agent := 0, unit := 0, pos := 0, va := 0, cause := 1, acc := 0, pin := false, level := 0, saveSlot := 0, time := 0 }
    let r (base head tail : DWord) : State := { up demo with regs := [(0x4040000, base), (0x4040008, head), (0x404000C, tail)], faultRecs := [(4, [(0, f)])] }
    let task : Launch := { launch0 with code := 3, next := 0, gx := 1, g := 1, kcb := { kcb with taskDie := 4, reeve := 8, plot := false } }
    let tasked (x : Launch) (m : List Host.Cell) : State := { placing { queue3 with base := 0x8000000000 } x with mem := m }
    let packet : List Host.Cell := [(0x8000000000, 3), (0x8000000010, 1), (0x8000000014, 1), (0x8000000018, 1), (0x800000001C, 1)]
    let old : FaultRec := { f with st := .pending, stale := true, cause := 3, time := 7 }
    let stale (h : Bool) : State := { up demo with regs := [(0x4040000, 0x8000000001)], faultRecs := [(4, [(0, old)])], stackTbl := if h then [(0, { st := .draining })] else [] }
    ([idles (.syscallQueuePost 4) (up demo), idles (.syscallQueuePost 4) (s 0 0 0), idles (.syscallQueuePost 4) (s 0x8000000001 0 1023), idles (.syscallQueuePost 4) { s 0x8000000001 0 0 with stackTbl := [(0, { st := .draining })] },
      leads (.syscallQueuePost 4) (s 0x8000000001 0 1022) (fun t => (t.sysQ 4).all (fun x => x.posted && x.entry = 1022) && t.reg 0x402000C = 1023 && t.byteAt 0x800000FF80 = 1),
      leads (.syscallQueuePost 4) (s 0x8FF0000001 0 0) (fun t => t.reg 0x4020000 = 0x8FF0000000 && (t.sysQ 4).all (!·.posted)),
      idles (.syscallQueuePost 4) { s 0x8000000001 0 0 with drills := [(0, { d0 with storeQueue := [{ seq := 0, kind := .fence 0 false }] })] },
      idles (.faultRecordPost 4) (up demo), idles (.faultRecordPost 4) (r 0x8000000001 1 0),
      leads (.faultRecordPost 4) (r 0x8000000001 2 4095) (fun t => t.reg 0x404000C = 0 && (t.recs 4).all fun p => p.2.st = .pending && p.2.entry = 4095),
      idles (.taskPost 0) demo, idles (.taskPost 0) (placing queue3 launch0),
      leads (.faultRecordPost 4) (stale false) (fun t => (t.recs 4).all (fun p => !p.2.stale && p.2.st = .pending) && t.byteAt 0x8000000004 = (faultWord4 old).extractLsb' 0 8), idles (.faultRecordPost 4) (stale true),
      leads (.taskPost 0) (tasked task packet) (fun t => (t.sysQ 4).length = 1 && (tblGet? t.launches 0).any fun x => x.taskAt = some 4 && x.next = 1),
      leads (.taskPost 0) (tasked { task with next := 1, rebuild := true } packet) (fun t => (t.sysQ 4).length = 1 && (tblGet? t.launches 0).any fun x => x.taskAt = some 4 && !x.rebuild),
      leads (.taskPost 0) (tasked task []) (fun t => (t.queue 3).st = .error && (t.queue 3).ecause = 1),
      leads (.scqbaseWrite 4 0x8000012345) (up demo) (fun t => t.reg 0x4020000 = 0x8000010001), leads (.scqheadWrite 4 0xFFFFFFFF) (up demo) (fun t => t.reg 0x4020008 = 0x3FF),
      idles (.scqbaseWrite 1 1) (up demo), idles (.scqheadWrite 4 1) demo, leads (.fqbaseWrite 11 0x8000030001) (up demo) (fun t => t.reg 0xB040000 = 0x8000020001),
      leads (.fqheadWrite 4 0xFFFFFFFF) (up demo) (fun t => t.reg 0x4040008 = 0xFFF), idles (.fqbaseWrite 0 1) (up demo), idles (.fqheadWrite 3 1) (up demo)] : List Bool).all id = true := by decide +kernel
theorem witness_Shootdowns :
    let busy (k : DWord) : State := { up demo with regs := [(0xD0000, 0x8000), (0xD0008, 0x80000001 + k * 0x4000000)] }
    let kept (k : DWord) (n : Nat) : Bool := !(busy k).tlbiWaits && leads .shootdownDone (busy k) (fun t => (tblGet t.tlb 4 []).length = n && t.reg 0xD0008 &&& 0x80000000 = 0)
    ([leads (.tlbiVaAsid 1) (up demo) (fun t => t.reg 0xD0008 = 0x80000001), leads (.tlbiAsid 1) (up demo) (fun t => t.reg 0xD0008 = 0x84000001),
      leads (.tlbiVaAll 1) (up demo) (fun t => t.reg 0xD0008 = 0x88000001), leads (.tlbiAll 1) (up demo) (fun t => t.reg 0xD0008 = 0x8C000001), idles (.tlbiAll 1) (busy 0),
      idles .shootdownDone (up demo), kept 0 2, kept 1 0, kept 2 2, kept 3 0, idles .shootdownDone { busy 3 with drills := [(0, { d0 with fetch := [{ line := 0, data := none, pline := some 0 }] })] },
      leads (.icflushGo 3) (up demo) (fun t => t.icflush = [3]), idles (.icflushGo 4) (up demo), idles (.icflushDone 0) (up demo),
      leads (.icflushDone 0) { up demo with icflush := [0, 3], cores := [(0, { icache := [(1, 0)] }), (384, { icache := [(1, 0)] })] } (fun t => t.icflush = [3] && (t.core 0).icache.isEmpty && (t.core 384).icache.length = 1)] : List Bool).all id = true := by decide +kernel

theorem witness_Links :
    let link (n : Nat) (l : Link) : State := { up demo with links := ((up demo).links.filter (·.1 ≠ n)) ++ [(n, l)] }
    let st (i : Instr) (n : Nat) (l : Link) (p : Link → Bool) : Bool := leads i (link n l) fun t => p (t.link n)
    ([st (.linkIsolate 4) 4 { st := .training } (fun l => l.st = .down && l.cause = 3), st (.linkIsolate 44) 44 { st := .degraded, isocnt := 0xFFFF } (fun l => l.st = .fallow && l.cause = 3 && l.isocnt = 0xFFFF),
      idles (.linkIsolate 4) (link 4 { st := .resetting }), idles (.linkIsolate 3) (up demo), st (.linkUncorrectableError 16) 16 { st := .active } (fun l => l.st = .fallow && l.cause = 4 && l.errcnt = 1),
      st (.directoryTimeout 13) 13 { st := .enumerating } (fun l => l.st = .fallow && l.cause = 1), idles (.directoryTimeout 16) (up demo),
      st (.heartbeatTimeout 1) 1 { st := .active } (·.cause = 2), st (.heartbeatTimeout 23) 23 { st := .active } (·.cause = 2), idles (.heartbeatTimeout 24) (up demo),
      idles (.heartbeatTimeout 16) { up demo with links := [(16, { st := .active }), (4, { st := .active })] },
      st (.pcieContainment 43) 43 { st := .active } (·.cause = 5), idles (.pcieContainment 44) (up demo), idles (.linkReset 4) (up demo), idles (.chipletIsolation 4) (up demo),
      st (.linkReset 16) 16 { st := .fallow } (·.st = .resetting), st (.chipletIsolation 4) 4 { st := .fallow, isolated := true } (·.st = .resetting), idles (.chipletIsolation 4) (link 4 { st := .fallow, isolated := true, hold := true }),
      idles (.chipletIsolation 5) { up demo with links := [(4, { st := .fallow, since := 1 }), (5, { st := .fallow, since := 2 })] },
      leads (.chipletIsolation 4) { link 4 { st := .fallow, hold := true } with owned := [(0x1234, { chip := 4, excl := true, dirty := true, data := 0 }), (0x200000000, { chip := 4, excl := true, dirty := true, data := 0 })] }
        (fun t => (t.link 4).isolated && (t.link 4).st = .fallow && t.owned.isEmpty && t.poison = [0x1234, 0x200000000] && (t.drill? 0).isNone && (t.group? 0).all (·.st = .lost)),
      st (.linkRetrain 40) 40 { st := .down } (·.st = .training), idles (.linkRetrain 41) (link 41 { st := .down }), idles (.linkRetrain 4) (up demo),
      st (.chipletResetDone 4) 4 { st := .resetting } (·.st = .training), idles (.chipletResetDone 4) (up demo),
      st (.linkTrainingDone 16 5 none) 16 { st := .training } (fun l => l.st = .active && l.width = 4), st (.linkTrainingDone 24 7 none) 24 { st := .training, width := 1 } (fun l => l.st = .down && l.cause = 4),
      st (.linkTrainingDone 16 0 none) 16 { st := .training } (fun l => l.st = .down && l.cause = 4), idles (.linkTrainingDone 16 4 none) (up demo),
      idles (.linkTrainingDone 16 4 none) { link 16 { st := .training } with links := [(16, { st := .training }), (4, { st := .training })] },
      idles (.linkTrainingDone 12 1 none) (link 12 { st := .active }), idles (.linkTrainingDone 12 1 none) (link 12 { st := .enumerating }),
      st (.linkTrainingDone 12 1 none) 12 { st := .training } (fun l => l.st = .enumerating && l.width = 1),
      st (.linkReset 4) 4 { st := .fallow } (fun l => l.st = .fallow && l.resetAsked), st (.chipletIsolation 4) 4 { st := .fallow, hold := true, resetAsked := true } (fun l => l.st = .resetting && l.isolated),
      idles (.linkLaneFailure 4 4) (link 4 { st := .active, width := 4 }), st (.linkLaneFailure 4 3) 4 { st := .active, width := 4 } (fun l => l.st = .degraded && l.width = 3),
      st (.linkLaneFailure 4 0) 4 { st := .active, width := 4 } (fun l => l.st = .fallow && l.cause = 4 && l.width = 0),
      leads (.pciebifWrite 7) demo (fun t => t.reg 0x30040 = 0), leads (.pciebifWrite 2) demo (fun t => t.reg 0x30040 = 2), idles (.pciebifWrite 2) (up demo)] : List Bool).all id = true := by decide +kernel

/-- The check word of a table, in a form that a kernel evaluates a byte at a time. -/
def crcStep : List Byte → Nat → Nat
  | [], c => c
  | b :: l, 0 => crcStep l (crcByte 0 b).toNat
  | b :: l, c + 1 => crcStep l (crcByte (BitVec.ofNat 32 (c + 1)) b).toNat
theorem crcStep_eq (l : List Byte) (c : Word) : crcStep l c.toNat = (l.foldl crcByte c).toNat := by
  induction l generalizing c with
  | nil => rfl
  | cons b l ih =>
    rw [List.foldl_cons, ← ih]
    rcases h : c.toNat with _ | n
    · rw [show c = 0 from BitVec.eq_of_toNat_eq h]; rfl
    · rw [show c = BitVec.ofNat 32 (n + 1) from BitVec.eq_of_toNat_eq (by rw [h, BitVec.toNat_ofNat, Nat.mod_eq_of_lt]; rw [← h]; exact c.isLt)]; rfl
theorem crc32_eq (l : List Byte) : crc32 l = ~~~BitVec.ofNat 32 (crcStep l 0xFFFFFFFF) := by
  unfold crc32
  rw [show (0xFFFFFFFF : Nat) = (0xFFFFFFFF : Word).toNat from rfl, crcStep_eq, BitVec.ofNat_toNat, BitVec.setWidth_eq]
/-- A capability table of a gateway (chiplet 12, KIND 4, one module, eight ports), and one of Sower die 0 (KIND 2, four modules, 96 cores). -/
def table12 : BitVec 2048 := BitVec.ofNat 2048 (256 + 12 * 2 ^ 20 + 4 * 2 ^ 24 + 1 * 2 ^ 32 + 0xFF * 2 ^ 64 + 1612339028 * 2 ^ 2016)
def table4 : BitVec 2048 := BitVec.ofNat 2048 (256 + 4 * 2 ^ 20 + 2 * 2 ^ 24 + 4 * 2 ^ 32 + (2 ^ 96 - 1) * 2 ^ 64 + (96 + 4 * 2 ^ 8 + 3 * 2 ^ 12 + 2 * 2 ^ 21) * 2 ^ 192 + 425649344 * 2 ^ 2016)
theorem witness_table12 : tableOk 12 table12 = true := by simp only [tableOk, crc32_eq]; decide +kernel
theorem witness_noTable : tableOk 12 0 = false := by simp only [tableOk, crc32_eq]; decide +kernel
theorem witness_table4 : tableOk 4 table4 = true := by simp only [tableOk, crc32_eq]; decide +kernel
/-- The end of an enumeration, the judgement of these two tables known. -/
theorem enumerated_eq : State.enumerated = fun s n t =>
    let ok := if n = 12 ∧ t = table12 then true else if n = 12 ∧ t = 0 then false else tableOk n t
    let l := s.link n
    if ok && s.sameChip n t then s.enumerate n l.width t else s.linkTo n .down { l with cause := 6 } := by
  funext s n t
  have h : (if n = 12 ∧ t = table12 then true else if n = 12 ∧ t = 0 then false else tableOk n t) = tableOk n t := by
    split
    · rename_i h; rw [h.1, h.2, witness_table12]
    · split
      · rename_i h; rw [h.1, h.2, witness_noTable]
      · rfl
  simp only [State.enumerated, h]
theorem witness_Enumeration : leads (.linkTrainingDone 12 1 (some table12)) { demo with links := [(12, { st := .training })] } (fun t => (t.link 12).st = .active && tblGet? t.tables 12 = some table12) = true ∧
    leads (.linkTrainingDone 12 1 (some table12)) { demo with links := [(12, { st := .enumerating, width := 1 })], tables := [(12, 1)] } (fun t => (t.link 12).st = .down && (t.link 12).cause = 6) = true ∧
    leads (.linkTrainingDone 12 1 (some 0)) { demo with links := [(12, { st := .enumerating, width := 1 })] } (fun t => (t.link 12).st = .down && (t.link 12).cause = 6 && (t.link 12).width = 1) = true := by
  simp only [leads, exec, execLinkTrainingDone, State.trained, enumerated_eq]
  decide +kernel

theorem witness_Platform :
    let regs (l : Tbl DWord) : State := { up demo with regs := l }
    let set (i : Instr) (l : Tbl DWord) (a : Nat) (v : DWord) : Bool := leads i (regs l) fun t => t.reg a = v
    ([idles (.opctlWrite 0 5 95) (up demo), idles (.opctlWrite 4 5 96) (up demo), set (.opctlWrite 0 0x0803 96) [] 0x50000 0x0804, set (.opctlWrite 1 0x0012 96) [(0x70000, 1)] 0x50008 0x10,
      set (.opctlWrite 1 0x0012 96) [] 0x50008 0x12, set (.opctlWrite 2 0xE005 96) [(0x70008, 1)] 0x50010 0xE000, set (.opctlWrite 2 0xE005 96) [] 0x50010 0, set (.opctlWrite 2 0xE005 96) [(0x70008, 1), (0x70000, 32)] 0x50010 0,
      set (.opctlWrite 3 0xFF05 96) [(0x70008, 1)] 0x50018 0, leads (.opctlWrite 0 0x0805 96) (up demo) (fun t => t.railBusy.contains 0),
      leads (.clockTransitionDone 1) { up demo with railBusy := [0, 1] } (fun t => t.railBusy = [0]),
      set (.tsensRefresh 11 3 1000) [] 0xB05004C 1000, idles (.tsensRefresh 11 4 1) (up demo), idles (.tsensRefresh 3 0 1) (up demo), idles (.tsensRefresh 4 0 1) demo,
      leads (.thermalTrip 11 3) (regs [(0x50000, 0x0810), (0xB05004C, 960)]) (fun t => t.reg 0x50000 = 0x0804 && t.reg 0x70000 = 16 && t.railBusy.contains 0), idles (.thermalTrip 11 3) (regs [(0xB05004C, 959)]), idles (.thermalTrip 2 0) (up demo),
      leads (.overCurrentAlarm 1) (regs [(0x50008, 17)]) (fun t => t.reg 0x50008 = 16 && t.reg 0x70000 = 2), leads (.overCurrentAlarm 3) (regs []) (fun t => t.reg 0x70000 = 8 && t.railBusy.isEmpty), idles (.overCurrentAlarm 4) (up demo),
      set (.ocauseWrite 3 96) [(0x70000, 7)] 0x70000 4, set (.ocauseWrite 3 63) [(0x70000, 7)] 0x70000 4, idles (.ocauseWrite 3 64) (regs [(0x70000, 7)]),
      idles (.ocauseWrite 3 0) { regs [(0x70000, 7)] with harts := [(0, { mode := .hs })] },
      set (.eccceWrite 13) [(0xD050060, 7)] 0xD050060 0, set (.sramCorrectedError 4) [(0x4050060, 0xFFFFFFFF)] 0x4050060 0xFFFFFFFF, idles (.eccceWrite 3) (up demo), idles (.sramCorrectedError 4) demo,
      idles (.uvSramError (.line 1)) (up demo), leads (.uvSramError (.line 0x100000000)) (regs [(0x50010, 0xE000)]) (fun t => t.reg 0x50010 = 0 && t.reg 0x70000 = 32 && t.poison = [0x100000000]),
      leads (.uvSramError (.sreg 0 63)) (regs [(0x50010, 0xE000)]) (fun t => (t.drill? 0).any fun d => d.regPoison = [0x13F]),
      leads (.uvSramError (.vreg 0 255)) (regs [(0x50010, 0xFF00)]) (fun t => (t.drill? 0).any fun d => d.regPoison = [0xFF]),
      leads (.uvSramError (.localStore 0 5)) (regs [(0x50010, 0xE000)]) (fun t => (t.core 0).lsPoison = [5]),
      leads (.uvSramError (.acc 0)) { plotted plot0 [] with regs := [(0x50010, 0xE000)] } (fun t => (tblGet? t.plots 0).any (·.poisoned)), idles (.attestationRequest 0 95) (up demo),
      idles (.registerWrite 96 0x50000 3 0) (up demo), idles (.registerWrite 96 0x50002 8 0) (up demo), idles (.registerWrite 96 0x8000000000 4 0) (up demo), idles (.registerWrite 96 0x10010000 4 0) (up demo),
      leads (.registerWrite 0 0x10010000 4 0) { at0 (hart0 0 0) (up demo) with tables := [(1, 0xFFFFFFFF0000000000000000)] } (fun t => (t.hart 0).mcause = 7 && (t.hart 0).mtval = 0x10010000 && (t.hart 0).mode = .m),
      set (.registerWrite 96 (0x40000 + 8 * 4095) 8 0xFFFFFFFFFFFFFFFF) [] (0x40000 + 8 * 4095) 0x001F03FF03FF007F, set (.registerWrite 96 0xF0078 8 0xFFFFFFFFFFFFFFFF) [] 0xF0078 0x800FFF0000000000,
      leads (.registerWrite 96 0x80074 4 1) { up demo with queues := [(3, { ctl := 0x0010000000000000 })] } (fun t => (t.queue 3).st = .opened)] : List Bool).all id = true := by decide +kernel

/-- The P-256 key of RFC 6979, A.2.5, and its signature of the header and the body of `boot0`, made outside the model. -/
def bootKey : List (BitVec 8) :=
  bigBytes 0x60fed4ba255a9d31c961eb74c6356d68c049b8923b61fa6ce669622e60f29fb6 32 ++ bigBytes 0x7903fe1008b8bc99a41ae9e95628bc64f2f1b20c2d7e9f5177a3c294d4462299 32
def bootSig : List (BitVec 8) :=
  bigBytes 0xe7acf4c3e7af0a905105825659269fd7721430a2fdc5600ced282370a8fd0143 32 ++ bigBytes 0x13d54cbe8035f63be3675c65a811d9421bb7946986fdc44538ec831360a939e9 32
/-- A boot whose only chiplet is Sower die 0; the image is one byte at the start of stack 0. -/
def boot0 : BootIn := { headerRead := true, magic := 0x56564B50, version := 0xFFFFFFFF, length := 1, flashLeft := 1, loadPa := 0x8000000000, entryPa := 0x8000000000, publicKey := bootKey, signature := bootSig, body := [0], widths := [(4, 4)], tables := [(4, table4)] }
theorem witness_signature : demo.signed boot0 = true ∧ demo.signed { boot0 with body := [1] } = false := by decide +kernel
theorem witness_bootHeader : demo.headerBad boot0 = false ∧ demo.headerBad { boot0 with magic := 0 } = true := by
  have h : ¬(0xFFFFFFFF : Nat) < Config.rollback.toNat := by have := Config.rollback.isLt; omega
  exact ⟨by unfold State.headerBad; rw [witness_signature.1]; simpa [boot0] using h, by simp [State.headerBad, boot0]⟩
/-- FIPS 180-4's example "abc". -/
theorem test_sha256 : sha256 [0x61, 0x62, 0x63] = bigBytes 0xba7816bf8f01cfea414140de5dae2223b00361a396177a9cb410ff61f20015ad 32 := by decide +kernel
/-- Enumeration at boot, table4 known to be accepted. -/
theorem bootChip_eq : State.bootChip = fun b r n =>
    let v := r.1.usedWidth n (tblGet b.widths n 0)
    let w := r.1.usedWidth n v
    let t := tblGet b.tables n 0
    let ok := if n = 4 ∧ t = table4 then true else tableOk n t
    let s := r.1.linkTo n .enumerating { r.1.link n with width := w }
    if !r.2 then r else (if w = 0 || r.1.absent n then r.1.linkTo n .down { r.1.link n with width := 0, cause := 4 }
      else if linkKind n = some 0 then (if ok && s.sameChip n t then s.enumerate n (s.link n).width t else s.linkTo n .down { s.link n with cause := 6 })
      else r.1.linkTo n (if w = r.1.fullWidth n then .active else .degraded) { r.1.link n with width := w }, v = 0 || ok) := by
  funext b r n
  have h : (if n = 4 ∧ tblGet b.tables n 0 = table4 then true else tableOk n (tblGet b.tables n 0)) = tableOk n (tblGet b.tables n 0) := by
    split
    · rename_i h; rw [h.2, h.1, witness_table4]
    · rfl
  simp only [State.bootChip, State.trained, State.enumerated, h]
theorem bootLinks_fst (s : State) (b : BootIn) (h : b.widths.filter (fun p => p.1 ≥ 16 && Sys2Proof.Machine.bootLinks.contains p.1) = [])
    (g : (chiplets.foldl (State.bootChip b) (s.released0, true)).2 = true) :
    s.bootLinks b = ((chiplets.foldl (State.bootChip b) (s.released0, true)).1.bootStacks, true) := by
  unfold State.bootLinks
  simp only [h, List.foldl_nil]
  exact if_pos g
theorem witness_bootLinks :
    let s : State := { demo.afterReset false with image := imageBytes boot0, imageVersion := boot0.version }
    let r := s.bootLinks boot0
    r.2 = true ∧ r.1.chipUp 4 = true ∧ r.1.loadable boot0.loadPa 1 = true ∧ r.1.gate boot0.loadPa = .go := by
  intro s r
  have h : r = ((chiplets.foldl (State.bootChip boot0) (s.released0, true)).1.bootStacks, true) :=
    bootLinks_fst s boot0 (by decide +kernel) (by rw [bootChip_eq]; decide +kernel)
  rw [h, bootChip_eq]
  refine ⟨rfl, ?_, ?_, ?_⟩ <;> decide +kernel
theorem witness_warmReset : ({ demo with regs := [(0x70010, 0x80)] } : State).reg 0x70010 = 0x80 ∧ idles (.warmReset false boot0) demo = true := by decide +kernel

theorem witness_ContextCommands :
    let s (st : CtxState) : State := { up demo with ctxs := [(0, { c0 with st := st })] }
    let i (f : BitVec 5 → BitVec 5 → BitVec 5 → Instr) : Instr := f 10 11 12
    let ans (f : BitVec 5 → BitVec 5 → BitVec 5 → Instr) (a b : DWord) (x : State) (v : DWord) (p : State → Bool) : Bool := answers (i f) (hart0 a b) x v p
    let is (st : CtxState) (t : State) : Bool := (t.ctx? 0).any (·.st = st)
    let any : State → Bool := fun _ => true
    let stopped : State := up (machine d0 { g0 with stI := { stopped := some true, run := some { cmd := fillCmd, engine := 0 } } })
    ([ans .ctxBuild 0x10000 0 demo 4 any, ans .ctxBuild 0x8001 0 demo 4 any, ans .ctxBuild 0 0 demo 1 any, ans .ctxBuild 1 0x8000000001 (up demo) 2 any, ans .ctxBuild 0xFFF 0x8000000000 (up demo) 2 any,
      ans .ctxActivate 0x1000 1 demo 4 any, ans .ctxActivate 0x1001 0 demo 1 any, ans .ctxActivate 0x1000 0 demo 1 any, ans .ctxActivate 0x1000 0 (s .suspended) 3 any,
      ans .ctxActivate 0x1000 0 { s .built with ctxs := [(0, { c0 with st := .built, slots := 0 })] } 0 (is .active),
      ans .ctxPreempt 0x2000 0 (s .active) 0 (is .preempting), ans .ctxPreempt 0x2000 0 (s .suspended) 1 any, ans .ctxPreempt 0x2000 1 demo 4 any, ans .ctxPreempt 0x2001 0 demo 1 any,
      ans .ctxKill 0x3000 0 (s .active) 0 (fun t => is .draining t && (t.group? 0).all (!·.alive) && (t.drill? 0).isNone), ans .ctxKill 0x3000 0 (s .retired) 1 any, ans .ctxKill 0x3000 0 (s .built) 0 (is .retired), ans .ctxKill 0x3000 1 demo 4 any,
      ans .ctxRelease 0x4000 0 (s .active) 1 any, ans .ctxRelease 0x4000 0 (s .retired) 0 (fun t => (t.ctx? 0).isNone), ans .ctxRelease 0x14000 0 demo 4 any,
      ans .ctxBudget 0x5000 0xFFFFFFFFFFFFFFFF demo 0 (fun t => (t.ctx? 0).any fun c => c.budget = 2 ^ 64 - 1), ans .ctxBudget 0x5001 0 demo 1 any, ans .ctxBudget 0x15001 0 demo 4 any,
      ans .ctxPriority 0x6000 7 demo 0 (fun t => (t.ctx? 0).any (·.prio = 7)), ans .ctxPriority 0x6000 8 demo 4 any, ans .ctxPriority 0x6001 7 demo 1 any,
      ans .ctxRestart 0x7000 0x20000 demo 4 any, ans .ctxRestart 0x7000 5 demo 1 any, ans .ctxRestart 0x7000 0 demo 1 any, ans .ctxRestart 0x7000 0x10000 demo 1 any,
      ans .ctxRestart 0x7000 0 stopped 0 (fun t => (t.group? 0).any fun g => g.stI.stopped.isNone && g.stI.run.isNone), ans .ctxRestart 0x7000 0x10000 stopped 1 any] : List Bool).all id = true := by decide +kernel
/-- The descriptor of a context with ASID 2, save and restore vectors, and one slot. -/
def descBytes : List Host.Cell :=
  [(0x8000000002, 2), (0x8000000008, 8), (0x8000000010, 8), (0x8000000029, 24), (0x800000002C, 128), (0x8000000030, 1), (0x8000000047, 0xA0)]
theorem witness_ContextBuild :
    let s : State := { up demo with mem := descBytes }
    ([answers (.ctxBuild 10 11 12) (hart0 0xFFF 0x8000000000) s 0 (fun t => (t.ctx? 0xFFF).any fun c => c.st = .built && c.asid = 2 && c.slots = 1 && c.garea = 6144 && c.darea = 128),
      answers (.ctxBuild 10 11 12) (hart0 0xFFF 0x8000000000) { s with ctxs := [(0, { c0 with asid := 2 })] } 2 (fun _ => true)] : List Bool).all id = true := by decide +kernel

theorem witness_HartCommands :
    let trap (i : Instr) (h : Hart) (s : State) (c : Nat) : Bool := leads i (at0 h s) fun t => (t.hart 0).mcause = BitVec.ofNat 64 c && (t.hart 0).mepc = h.pc && (t.hart 0).mode = .m
    let any : State → Bool := fun _ => true
    let call (k : Nat) : SysEntry := { posted := true, entry := 9, kind := k, ctx := 0, drill := some 0, launch := some 0, bytes := List.replicate 64 0 }
    let parked (k : Nat) : State := { up (machine { d0 with st := .parked, park := some (.syscall k), epc := 0x9000 } g0) with sysEntries := [(1, [call k])], mem := [(0x8000000000, 7)] }
    let task : State := { up demo with sysEntries := [(1, [call 3])], launches := [(0, { launch0 with taskAt := some 1 })] }
    let f : FaultRec := { st := .pending, entry := 5, asid := 1, ctx := 0, agent := 0, unit := 0, pos := 0, va := 0, cause := 1, acc := 0, pin := false, level := 0, saveSlot := 0, time := 0 }
    let faulted : State := { up (machine { d0 with st := .parked, park := some (.faults [0]) } g0) with faultRecs := [(4, [(0, f)])] }
    let q (st : QueueState) (ctl : DWord) : State := { up demo with queues := [(3, { st := st, ctl := ctl })] }
    let ev (a b : DWord) : Hart := hart0 a b
    ([trap (.svlEvsig 10 11 12) { hart0 0 0 with mode := .u } demo 2, trap (.ctxKill 10 11 12) { hart0 0 0 with mode := .vs } demo 22, trap (.svlSysret 10 11 12) { hart0 0 0 with mode := .vu } demo 22,
      answers (.svlSysret 10 11 12) (hart0 1024 0) demo 4 any, answers (.svlSysret 10 11 12) (hart0 9 0) demo 1 any, sysretChip 0 = 0,
      (at0 (hart0 5 0x8000000000) (up demo)).hartLoad (hart0 5 0x8000000000) 0x8000000000 32 matches .bytes _ _, idles (.svlSysret 10 11 12) demo = false,
      answers (.svlFqdone 10 11 12) (hart0 0x4005 1) faulted 4 any, answers (.svlFqkill 10 11 12) (hart0 0x3005 0) faulted 4 any, answers (.svlFqdone 10 11 12) (hart0 0x4006 0) faulted 1 any,
      answers (.svlFqdone 10 11 12) (hart0 0x4005 0) faulted 0 (fun t => (t.recs 4).isEmpty && (t.drill? 0).any fun d => d.st = .ready && d.park.isNone),
      answers (.svlFqkill 10 11 12) (hart0 0x4005 0) faulted 0 (fun t => (t.recs 4).isEmpty && (t.ctx? 0).any (·.st = .draining)),
      trap (.svlQpost 10 11 12) (hart0 0x8000000001 3) (q .opened 0) 4, trap (.svlQpost 10 11 12) (hart0 0x20000000000000 3) (q .opened 0) 5,
      answers (.svlQpost 10 11 12) (hart0 0x8000000000 8192) (q .opened 0) 4 any, answers (.svlQpost 10 11 12) { hart0 0x8000000000 3 with mode := .m } (q .draining 0) 2 any,
      answers (.svlQpost 10 11 12) (hart0 0x8000000000 3) (q .paused 0) 0 (fun t => (t.queue 3).entries.length = 1),
      answers (.svlQpost 10 11 12) (hart0 0x8000000000 3) { q .paused 0 with queues := [(3, { st := .paused, entries := [{ id := 3, idx := 0 }] })] } 1 any,
      answers .svlQfence (hart0 0 0) demo 0 any, idles .svlQfence (at0 (hart0 0 0) { q .paused 0 with queues := [(3, { st := .paused, entries := [{ id := 3, idx := 0, hart := some 0 }] })] }),
      answers (.svlEvsig 10 11 12) (ev 1 16384) demo 4 any, answers (.svlEvclr 10 11 12) (ev 1 4) demo 2 any, answers (.svlEvwait 10 11 12) (ev 1 16384) demo 0 any,
      answers (.svlEvsig 10 11 12) (ev 5 3) demo 0 (fun t => (t.ctx? 0).any (·.event 3 = 5)),
      answers (.svlEvclr 10 11 12) (ev 1 3) { demo with ctxs := [(0, { c0 with events := [(3, 5)] })] } 0 (fun t => (t.ctx? 0).any (·.event 3 = 4)),
      answers (.svlEvwait 10 11 12) (ev 4 3) { demo with ctxs := [(0, { c0 with events := [(3, 5)] })] } 5 any, idles (.svlEvwait 10 11 12) (at0 (ev 2 3) { demo with ctxs := [(0, { c0 with events := [(3, 5)] })] }),
      (parked 0).sysQ 1 = [call 0], task.sysQ 1 = [call 3]] : List Bool).all id = true := by decide +kernel
/-- An exception that medeleg gives to HS-mode, and what a hart's load meets. -/
theorem witness_HartTraps :
    let user (d : DWord) : Hart := { hart0 0 0 with mode := .u, csr := [(0x302, d), (0x105, 0x4001)] }
    let load (a : DWord) (s : State) : HartLoad := (at0 (hart0 5 a) s).hartLoad (hart0 5 a) a 32
    ([(user 4).takes 2 = .hs, (user 0).takes 2 = .m,
      leads (.svlEvsig 10 11 12) (at0 (user 4) demo) (fun t => (t.hart 0).csrAt 0x142 = 2 && (t.hart 0).csrAt 0x141 = 0x8000000100 && (t.hart 0).pc = 0x4000 && (t.hart 0).mode = .hs),
      load 0x20000000000000 demo matches .fault 5 _ _, load 0x8000000000 { up demo with stackTbl := [(0, { st := .draining })] } matches .held] : List Bool).all id = true := by decide +kernel
/-- svl.sysret by hart 0, which answers the queue of its chiplet. -/
theorem witness_Sysret :
    let call (k : Nat) : SysEntry := { posted := true, entry := 9, kind := k, ctx := 0, drill := some 0, launch := some 0, bytes := List.replicate 64 0 }
    let parked (k : Nat) : State := { up (machine { d0 with st := .parked, park := some (.syscall k), epc := 0x9000 } g0) with sysEntries := [(sysretChip 0, [call k])], mem := [(0x8000000000, 7)] }
    let task : State := { up demo with sysEntries := [(sysretChip 0, [call 3])], launches := [(0, { launch0 with taskAt := some 0 })] }
    ([answers (.svlSysret 10 11 12) (hart0 9 0x8000000000) (parked 0) 0 (fun t => (t.sysQ (sysretChip 0)).isEmpty && (t.drill? 0).any fun d => d.st = .ready && d.pc = 0x9000 && d.sAt 0 = 7),
      answers (.svlSysret 10 11 12) (hart0 9 0) (parked 1) 0 (fun t => (t.drill? 0).any fun d => d.st = .ready && d.s.isEmpty),
      answers (.svlSysret 10 11 12) (hart0 9 0) { parked 1 with drills := [(1, d1)] } 1 (fun _ => true),
      leads (.svlSysret 10 11 12) (at0 (hart0 9 0x20000000000000) (parked 0)) (fun t => (t.hart 0).mcause = 5),
      answers (.svlSysret 10 11 12) (hart0 9 0) task 0 (fun t => (tblGet? t.launches 0).any fun x => x.exited = 1 && x.taskAt.isNone),
      idles (.svlSysret 10 11 12) (at0 (hart0 9 0x8000000000) { parked 0 with stackTbl := [(0, { st := .draining })] })] : List Bool).all id = true := by decide +kernel

/-! ### Steps -/

/-- The first drill's word is in its buffer. -/
def fetched (w : BitVec 64) : State := { machine { d0 with pc := 0x8008, fetch := [{ line := 0x100, data := some ((w.setWidth 1024) <<< 64), pline := none }] } g0 with agenda := [{ act := .drill 0 }] }
def eventTurn (i : Instr) (s : State) : State := { s with agenda := [{ act := .event i }] }
theorem witness_StepRuns :
    let s := fetched 0x90000000
    let h : State := { up demo with agenda := [{ act := .hart 0 }], harts := [(0, hart0 5 3)], tables := [(1, 0xFFFFFFFF0000000000000000)], mem := [(0x8000000100, 0x0B), (0x8000000101, 0x85), (0x8000000102, 0xC5), (0x8000000103, 4)] }
    let far : Hart := { hart0 5 3 with pc := 0x20000000000000 }
    let at_ (x : Hart) : State := { h with harts := [(0, x)] }
    ([s.begun.cur = some (.drill 0), (s.begun.drill? 0).any fun d => d.st = .issuing && d.word = some 0x90000000, !s.begun.held, (up s).begun.chipUp (drillChip 0),
      stands 0x90000000 0 (.nop { tk0 := 9 }), illegal 0x01A00000 0, ((fetched 0x01A00000).begun.drill? 0).any fun d => d.word = some 0x01A00000,
      h.begun.cur = some (.hart 0), h.begun.hartRuns 0, h.begun.hartInt 0 = none, (at_ { hart0 5 3 with mie := true, csr := [(0x304, 2), (0x344, 2)] }).begun.hartInt 0 = some (.m, 1),
      (match h.begun.hartWord (h.begun.hart 0) with | .ok w => w = 0x04C5850B | .error _ => false),
      (match (at_ far).begun.hartWord far with | .ok _ => false | .error e => e = (.fault 1 0, far.pc)),
      (match ({ h with stackTbl := [(0, { st := .draining })] } : State).begun.hartWord (hart0 5 3) with | .ok _ => false | .error e => e = (.held, (hart0 5 3).pc)),
      (match h.begun.hartWord { hart0 5 3 with pc := 0x8000000200 } with | .ok w => w = 0 | .error _ => false),
      isEvent (.tlbiAll 0), (eventTurn (.tlbiAll 0) demo).begun.cur = some (.event (.tlbiAll 0)), !(eventTurn (.tlbiAll 0) demo).begun.mute (.tlbiAll 0),
      demo.mute (.icflushDone 0)] : List Bool).all id = true := by decide +kernel
/-- The invariants hold somewhere, and the machine steps on from there. -/
theorem witness_StepKeeps : Settled State.reset ∧ Memory.wf State.reset = true ∧ (∀ c, cellsWf (State.reset.core c).ls = true) ∧
    StepsOn (eventTurn (.tlbiAll 0) State.reset) := by
  refine ⟨⟨?_, ?_⟩, rfl, fun _ => rfl, ?_⟩
  · intro n c h; cases h
  · intro k d m h; cases h
  · exact ⟨_, rfl⟩
theorem witness_RoundTrips : (Instr.mma .mx4 true 0x1FF (.s 63) { tk1 := 2 }).isFurrow = true ∧ (Instr.mma .mx4 true 0x1FF (.s 63) { tk1 := 2 }).wf = true ∧
    isHart (.ctxRestart 31 31 31) = true ∧ stands 0x0F600000 0x00080014 (.stkTake 0xA { e := true }) = true := by decide +kernel
theorem witness_Arithmetic : numeric false 3 (-1) = 3 / 2 ∧ (roundAt .rne false 3 (-1) 0) = (2, true) ∧ fpSum .rne (.fin false 1 0) (.fin true 1 0) = (.fin false 0 0, 0) := by
  refine ⟨by norm_num [numeric], by decide +kernel, by decide +kernel⟩

/-! ### Results of single instructions, worked out by hand from the rules -/

/-- What lane l of the pending result of an instruction holds, v1 to v4 given, the same in every lane. -/
def result (i : Instr) (v : List Word) (l : Nat) : Option DWord :=
  match exec i (machine { d0 with v := v.mapIdx fun j w => (j + 1, splat w) } g0) with
  | .next t => ((t.drill? 0).bind fun d => d.landings.getLast?).map fun y => lane y.val l
  | _ => none
/-- Its flags in that lane. -/
def raised (i : Instr) (v : List Word) (l : Nat) : Option (BitVec 5) :=
  match exec i (machine { d0 with v := v.mapIdx fun j w => (j + 1, splat w) } g0) with
  | .next t => ((t.drill? 0).bind fun d => d.landings.getLast?).map fun y => ((y.flags.find? (·.1 = l)).map (·.2)).getD 0
  | _ => none
/-- R96: wrapped and clamped sums at the ends of the range; the high half of a product; R97 to R101: shifts by the count modulo 32,
the field of R99's example, leading zeros of 0; R104: an immediate is sign-extended. -/
theorem test_integer : ([
    result (.iadd .i32 5 (.v 1) (.v 2) {}) [0x7FFFFFFF, 1] 31 = some 0x80000000, result (.iadd .i32Sat 5 (.v 1) (.v 2) {}) [0x7FFFFFFF, 1] 0 = some 0x7FFFFFFF,
    result (.isub .ui32Sat 5 (.v 1) (.v 2) {}) [0, 1] 0 = some 0, result (.isub .i32 5 (.v 1) (.v 2) {}) [0, 1] 0 = some 0xFFFFFFFF,
    result (.imul .hiI 5 (.v 1) (.v 2) {}) [0x80000000, 0x80000000] 0 = some 0x40000000, result (.imul .hiU 5 (.v 1) (.v 2) {}) [0xFFFFFFFF, 0xFFFFFFFF] 0 = some 0xFFFFFFFE,
    result (.icmp .lt false 1 (.v 1) (.v 2) {}) [0xFFFFFFFF, 0] 0 = some 1, result (.icmp .lt true 1 (.v 1) (.v 2) {}) [0xFFFFFFFF, 0] 0 = some 0,
    result (.shf .sar false 5 (.v 1) (.v 2) {}) [0x80000000, 33] 0 = some 0xC0000000, result (.shf .rol false 5 (.v 1) (.v 2) {}) [0x80000001, 4] 0 = some 0x18,
    result (.bfx true 5 (.v 1) (.v 2) {}) [0x80000000, 0x00000C1C] 0 = some 0xFFFFFFF8, result (.bit .clz 5 (.v 1) {}) [0] 0 = some 32,
    result (.imnx .minI 5 (.v 1) (.v 2) {}) [0x80000000, 1] 0 = some 0x80000000, result (.imnx .minU 5 (.v 1) (.v 2) {}) [0x80000000, 1] 0 = some 1,
    result (.iaddi 5 (.v 1) 0xFFFF {}) [1] 0 = some 0, result (.log .andn 5 (.v 1) (.v 2) {}) [0xFF, 0x0F] 0 = some 0xF0] : List Bool).all id = true := by decide +kernel
/-- R105: 1 + 2, an overflow, 0 times infinity; R55: rounding of 1 + 2^-25 and of its negation; R108: MIN orders -0 below +0; R112: conversion's range is
judged after rounding; R119: the quotient by zero. -/
theorem test_float : ([
    result (.faddF32 .rne 5 (.v 1) (.v 2) {}) [0x3F800000, 0x40000000] 0 = some 0x40400000, raised (.faddF32 .rne 5 (.v 1) (.v 2) {}) [0x3F800000, 0x40000000] 0 = some 0,
    result (.fmulF32 .rne 5 (.v 1) (.v 2) {}) [0x7F000000, 0x7F000000] 0 = some 0x7F800000, raised (.fmulF32 .rne 5 (.v 1) (.v 2) {}) [0, 0x7F800000] 0 = some 16,
    result (.faddF32 .rup 5 (.v 1) (.v 2) {}) [0x3F800000, 0x33000000] 0 = some 0x3F800001, result (.faddF32 .rtz 5 (.v 1) (.v 2) {}) [0x3F800000, 0x33000000] 0 = some 0x3F800000,
    result (.faddF32 .rdn 5 (.v 1) (.v 2) {}) [0xBF800000, 0xB3000000] 0 = some 0xBF800001,
    result (.fmnxF32 .min 5 (.v 1) (.v 2) {}) [0, 0x80000000] 0 = some 0x80000000, result (.fcmpF32 .eq 1 (.v 1) (.v 2) {}) [0, 0x80000000] 0 = some 1] : List Bool).all id = true := by decide +kernel
/-- R138: AHEAD by 1 gives lane 31 the value of lane 0; R140: BALLOT of the lanes; R141: the sum of 32 ones. -/
theorem test_exchange :
    let s : State := machine { d0 with v := [(1, lanesOf fun l => BitVec.ofNat 32 (l + 100)), (2, splat 1)] } g0
    let got (i : Instr) (l : Nat) : Option DWord := match exec i s with | .next t => ((t.drill? 0).bind fun d => d.landings.getLast?).map fun y => lane y.val l | _ => none
    ([got (.lxch .ahead 5 (.v 1) (.v 2) {}) 31 = some 100, got (.lxch .ahead 5 (.v 1) (.v 2) {}) 0 = some 101, got (.lxch .back 5 (.v 1) (.v 2) {}) 0 = some 131,
      got (.qx .d 5 (.v 1) (.v 0) {}) 0 = some 103, got (.vote .ballot 5 (.v 3) {}) 0 = some 0, got (.vote .ballot 5 (.v 2) {}) 0 = some 0xFFFFFFFF,
      got (.redx .addI 5 (.v 2) {}) 0 = some 32, got (.redx .maxI 5 (.v 1) {}) 0 = some 131] : List Bool).all id = true := by decide +kernel
/-- R127 to R132: where a transfer goes, and the masks. -/
theorem test_control :
    let after (i : Instr) (d : Drill) (p : Drill → Bool) : Bool := leads i (machine d g0) fun t => (t.drill? 0).any p
    ([after (.bra 0x7FFFF { e := true }) d0 (·.pc = 0x7FF8), after (.bra 2 { e := true, gp := 1 }) d0 (·.pc = 0x8008), after (.bra 2 { e := true, gp := 1 }) { d0 with k := [(1, 1)] } (fun d => d.pc = 0x1000 && d.tcause = 7),
      after (.jmpv (.v 10) { e := true }) { d0 with v := [(10, lanesOf fun l => if l % 2 = 0 then 0x9000 else 0xA000)] } (fun d => d.pc = 0x9000 && d.cm = 0x55555555 && d.maskStack = [0xFFFFFFFF]),
      after (.mpush { gp := 1 }) { d0 with k := [(1, 0xFF)] } (fun d => d.cm = 0xFF && d.maskStack = [0xFFFFFFFF]), after (.minv {}) { d0 with cm := 0xFF, maskStack := [0xFFFF] } (fun d => d.cm = 0xFF00),
      after (.mpop {}) { d0 with maskStack := [3, 7] } (fun d => d.cm = 3 && d.maskStack = [7]), after (.mpop {}) d0 (fun d => d.tcause = 9 && d.sysMode),
      after (.loop 17 0x7FFFF { e := true }) { d0 with s := [(17, 2)] } (fun d => d.pc = 0x7FF8 && d.landings.any fun y => lane y.val 0 = 1),
      after (.sysTrapi 0x21 {}) d0 (fun d => d.pc = 0x1000 && d.epc = 0x8008 && d.tcause = 0x2100002B), after (.ret (.s 2) { e := true }) { d0 with s := [(2, 0x9004)] } (fun d => d.tcause = 5 && d.tval = 0x9004)] : List Bool).all id = true := by
  decide +kernel
/-- The base instructions of a hart, their words and results from the RISC-V specifications (log 13): ADDI, SUB, MULHU, DIV and REM by zero, SRAIW, LD, SD,
LR and SC, AMOADD.W, JAL, BEQ, C.ADDI, FADD.S, FLI.D of 0.3125, FCVT.S.H of 1.5, and ECALL in M-mode. -/
theorem test_riscv :
    let run (w : Word) (h : Hart) (p : State → Bool) : Bool := match hartBase { at0 h (up demo) with mem := [(0x8000000000, 7), (0x8000000007, 0x80)] } 0 w with | .next t => p t | _ => false
    let gives (w : Word) (a b v : DWord) : Bool := run w (hart0 a b) fun t => (t.hart 0).xAt 10 = v && (t.hart 0).pc = 0x8000000104
    let fp : Hart := { hart0 0 0 with csr := [(0x300, 0x2000)], f := [(11, 0xFFFFFFFF3F800000), (12, 0xFFFFFFFF3F800000)] }
    ([gives 0x00558513 7 0 12, gives 0x40C58533 1 2 0xFFFFFFFFFFFFFFFF, gives 0x02C5B533 0xFFFFFFFFFFFFFFFF 0xFFFFFFFFFFFFFFFF 0xFFFFFFFFFFFFFFFE,
      gives 0x02C5C533 5 0 0xFFFFFFFFFFFFFFFF, gives 0x02C5E533 5 0 5, gives 0x4045D51B 0x80000000 0 0xFFFFFFFFF8000000, gives 0x0005B503 0x8000000000 0 0x8000000000000007,
      run 0x00C5B023 (hart0 0x8000000008 0x0102) (fun t => t.byteAt 0x8000000008 = 2 && t.byteAt 0x8000000009 = 1), gives 0x1005B52F 0x8000000000 0 0x8000000000000007,
      gives 0x18C5B52F 0x8000000000 9 1, run 0x18C5B52F { hart0 0x8000000000 9 with resv := some (0x8000000000, 8, [7, 0, 0, 0, 0, 0, 0, 0x80] ++ List.replicate 56 0) } (fun t => (t.hart 0).xAt 10 = 0 && t.byteAt 0x8000000000 = 9),
      run 0x00C5A52F (hart0 0x8000000000 1) (fun t => (t.hart 0).xAt 10 = 7 && t.byteAt 0x8000000000 = 8), run 0x0080056F (hart0 0 0) (fun t => (t.hart 0).xAt 10 = 0x8000000104 && (t.hart 0).pc = 0x8000000108),
      run 0x00B58463 (hart0 1 0) (fun t => (t.hart 0).pc = 0x8000000108), run 0x0505 { hart0 0 0 with x := [(10, 1)] } (fun t => (t.hart 0).xAt 10 = 2 && (t.hart 0).pc = 0x8000000102),
      run 0x00C58553 fp (fun t => tblGet (t.hart 0).f 10 0 = 0xFFFFFFFF40000000), run 0x00C58553 { fp with csr := [] } (fun t => (t.hart 0).mcause = 2),
      run 0xF2148553 fp (fun t => tblGet (t.hart 0).f 10 0 = 0x3FD4000000000000),
      run 0x40258553 { fp with f := [(11, 0xFFFFFFFFFFFF3E00)] } (fun t => tblGet (t.hart 0).f 10 0 = 0xFFFFFFFF3FC00000),
      run 0x00000073 { hart0 0 0 with mtvec := 0x9000 } (fun t => (t.hart 0).mcause = 11 && (t.hart 0).mepc = 0x8000000100 && (t.hart 0).pc = 0x9000)] : List Bool).all id = true := by decide +kernel
/-- Vector instructions of a hart at VLEN = 128, from the RISC-V specification (log 13): VSETVLI e32,m1 with AVL 10; then at SEW 32 and vl 4, with
elements 1 to 4 in v2 and 10, 20, 30, 40 in v3: VADD.VV (and with the mask 0b0101), VRSUB.VI, VREDSUM, a signed comparison, VSLIDEUP.VI, VRGATHER,
VWADD into v4 and v5, VSADD, VCPOP, VFREC7 and VFRSQRT7 of 1, a masked load, and one that faults at element 0. -/
theorem test_vector :
    let words (k : Nat) (vs : List Nat) : Tbl Byte := (vs.zipIdx.map fun p => (List.range 4).map fun j => (16 * k + 4 * p.2 + j, BitVec.ofNat 8 (p.1 / 256 ^ j))).flatten
    let h : Hart := { hart0 2 0 with csr := [(0x300, 0x2200)], vr := [(0, 5)] ++ words 2 [1, 2, 3, 4] ++ words 3 [10, 20, 30, 40] }
    let c : VCfg := ⟨16, 32, 0, 4, 0, false, false⟩
    let rv (w : Word) : Rv := { n := 0, h := h, w := w, raw := w, link := 0x8000000104 }
    let s : State := at0 h (up demo)
    let run (e : RvEff) (p : Hart → Bool) : Bool := match e with | .next _ h => p h && h.pc = 0x8000000104 | _ => false
    let holds (r : Nat) (vs : List Nat) (h : Hart) : Bool := (List.range vs.length).all fun i => h.vBytes (16 * r + 4 * i) 4 = vs.getD i 0
    ([run ((rv 0x0105F557).vSetVl s 16) (fun h => h.xAt 10 = 2 && h.csrAt 0xC20 = 2 && h.vtype = 0x10),
      run ((rv 0x022180D7).vOpi s c) (holds 1 [11, 22, 33, 44]), run ((rv 0x002180D7).vOpi s c) (holds 1 [11, 0, 33, 0]),
      run ((rv 0x0E22B0D7).vOpi s c) (holds 1 [4, 3, 2, 1]), run ((rv 0x0221A0D7).vOpm s c) (holds 1 [20, 0, 0, 0]),
      vecCompare 0x1B 8 0xFF 1, run ((rv 0x3A2130D7).vOpi s c) (holds 1 [0, 0, 1, 2]),
      run ((rv 0x322100D7).vOpi s c) (holds 1 [2, 3, 4, 0]), run ((rv 0xC621A257).vOpm s c) (fun h => h.vBytes 64 8 = 11 && h.vBytes 80 8 = 33),
      run ((rv 0x42082557).vOpm s c) (fun h => h.xAt 10 = 2), vecIntOp 0x21 8 0 127 1 = some (127, 32), vecIntOp 0x27 8 1 64 64 = some (32, 0),
      fpRec7 fmtF32 .rne 0x3F800000 = (0x3F7F0000, 0), fpRsqrt7 fmtF32 0x3F800000 = (0x3F7F0000, 0), fpRec7 fmtF32 .rne 0x00000001 = (0x7F800000, 5),
      run ((rv 0).vMove { s with mem := [(0x8000000000, 7), (0x8000000008, 9)] } c ⟨⟨1, 0, 32⟩, 1, 4, fun i => i % 2 = 0, fun i _ => 0x8000000000 + 4 * BitVec.ofNat 64 i, false⟩ false) (holds 1 [7, 0, 9, 0]),
      (match (rv 0).vMove s c ⟨⟨1, 0, 32⟩, 1, 4, fun _ => true, fun i _ => 0x7000000000000000 + 4 * BitVec.ofNat 64 i, false⟩ false with | .next _ h => h.mcause = 5 && h.csrAt 8 = 0 | _ => false)] : List Bool).all id = true := by
  decide +kernel

end Sys2Proof.Tests
end

section
/-!
The canonical form of memory (log 3, DESIGN CHOICE): the states whose home memory and local stores are canonical, the answers that
hold such a state, and the operations on memory, which keep the form by the laws of the cell lists.
-/
namespace Sys2Proof.Proofs
open Sys2Proof.Machine

/-! ### States -/

/-- Home memory and every core's local store are canonical. -/
structure Canonical (s : State) : Prop where
  mem : Memory.wf s = true
  ls : ∀ c, cellsWf (s.core c).ls = true

theorem core_ls (s : State) (c : Nat) : (s.core c).ls = ((tblGet? s.cores c).map (·.ls)).getD [] := by
  unfold State.core tblGet
  cases tblGet? s.cores c <;> rfl

/-- A state with the same home memory and the same local stores is canonical too. -/
theorem Canonical.of_ls {s t : State} (h : Canonical s) (hm : t.mem = s.mem)
    (hl : ∀ c, (t.core c).ls = (s.core c).ls) : Canonical t :=
  ⟨by rw [Memory.wf, hm]; exact h.mem, fun c => by rw [hl]; exact h.ls c⟩

/-- A state with the same home memory and the same cores is canonical too. -/
theorem Canonical.of_cores {s t : State} (h : Canonical s) (hm : t.mem = s.mem) (hc : t.cores = s.cores) : Canonical t :=
  h.of_ls hm fun c => by rw [core_ls, core_ls, hc]

/-- An update of other fields than `mem` and `cores`. -/
theorem Canonical.frame {s : State} (h : Canonical s)
    {agenda cur tick seq gtime poison owned sharers grants tlb walks drills clkIdle clkOff groups crofts launches
    queues lastChosen ctxs plots oldPlots stackTbl links tables faultRecs sysEntries harts imsics regs icflush
    railBusy nowAlarms nowBoost tripSince uvRec image keyHash imageVersion imageEntry report inbound strays iommu
    iommuInvals ioEntries devAnswer} :
    Canonical (.mk agenda cur tick seq gtime s.mem poison owned sharers grants tlb walks drills s.cores clkIdle clkOff groups
      crofts launches queues lastChosen ctxs plots oldPlots stackTbl links tables faultRecs sysEntries harts
      imsics regs icflush railBusy nowAlarms nowBoost tripSince uvRec image keyHash imageVersion imageEntry report
      inbound strays iommu iommuInvals ioEntries devAnswer) :=
  h.of_cores rfl rfl

theorem Canonical.ite {s t : State} {p : Prop} [Decidable p] (hs : Canonical s) (ht : Canonical t) :
    Canonical (if p then s else t) := by split <;> assumption

theorem Canonical.foldl {α : Type} {f : State → α → State} (hf : ∀ s x, Canonical s → Canonical (f s x))
    {s : State} (h : Canonical s) {l : List α} : Canonical (l.foldl f s) := by
  induction l generalizing s with
  | nil => exact h
  | cons x l ih => exact ih (hf s x h)

theorem Canonical.foldl_fst {α β : Type} {f : State × β → α → State × β} (hf : ∀ r x, Canonical r.1 → Canonical (f r x).1)
    {r : State × β} (h : Canonical r.1) {l : List α} : Canonical (l.foldl f r).1 := by
  induction l generalizing r with
  | nil => exact h
  | cons x l ih => exact ih (hf r x h)

theorem Canonical.foldl_snd {α β : Type} {f : β × State → α → β × State} (hf : ∀ r x, Canonical r.2 → Canonical (f r x).2)
    {r : β × State} (h : Canonical r.2) {l : List α} : Canonical (l.foldl f r).2 := by
  induction l generalizing r with
  | nil => exact h
  | cons x l ih => exact ih (hf r x h)

/-- The state that an outcome answers, if it answers one, is canonical. -/
def Answers : Host.Outcome State Fault Refusal → Prop
  | .next s => Canonical s
  | _ => True
/-- The state that an option holds, if it holds one, is canonical. -/
def InSome : Option State → Prop
  | some s => Canonical s
  | none => True
/-- The state that a check passes on, if it passes, is canonical. -/
def InOk {ε : Type} : Except ε State → Prop
  | .ok s => Canonical s
  | .error _ => True
/-- The state that a check passes on with its result, if it passes, is canonical. -/
def InOkSnd {ε α : Type} : Except ε (α × State) → Prop
  | .ok p => Canonical p.2
  | .error _ => True
/-- The states of an effect (what it leaves, and what follows its issue) are canonical. -/
def InEff : Eff → Prop
  | .ok fx => Canonical fx.s ∧ ∀ t, Canonical t → Canonical (fx.after t)
  | .fail s _ | .wait s => Canonical s
  | .trap _ => True

/-- The state that an instruction of a hart leaves is canonical. -/
def InHart : HartEff → Prop
  | .done _ s => Canonical s
  | _ => True
/-- The state that an instruction of a hart's base leaves is canonical. -/
def InRv : RvEff → Prop
  | .next s _ => Canonical s
  | _ => True
/-- The state after a read of Headland is canonical. -/
def InService : Service → Prop
  | .got _ _ s => Canonical s
  | _ => True
/-- The state after a launch has been read is canonical. -/
def InFresh : Fresh → Prop
  | .got _ _ s | .bad s => Canonical s
  | .held => True
/-- The state after the record's address has been translated is canonical. -/
def InRecord : RecordAt → Prop
  | .ok _ s => Canonical s
  | _ => True
/-- The state that an option holds before another value is canonical. -/
def InSomeFst {α : Type} : Option (State × α) → Prop
  | some p => Canonical p.1
  | none => True
/-- The state that an option holds after another value is canonical. -/
def InSomeSnd {α : Type} : Option (α × State) → Prop
  | some p => Canonical p.2
  | none => True
/-- The state that a check passes on before another value is canonical. -/
def InOkFst {ε α : Type} : Except ε (State × α) → Prop
  | .ok p => Canonical p.1
  | .error _ => True

/-- The state that a check passes on after two other values is canonical. -/
def InOkThird {ε α β : Type} : Except ε (α × β × State) → Prop
  | .ok p => Canonical p.2.2
  | .error _ => True

theorem InOkThird.of_eq {ε α β : Type} {o : Except ε (α × β × State)} {a : α} {b : β} {s : State} (h : InOkThird o)
    (e : o = .ok (a, b, s)) : Canonical s := by subst e; exact h
theorem InOkFst.of_eq' {ε α : Type} {o : Except ε (State × α)} {p : State × α} (h : InOkFst o) (e : o = .ok p) :
    Canonical p.1 := by subst e; exact h
theorem InSomeFst.of_eq {α : Type} {o : Option (State × α)} {a : α} {s : State} (h : InSomeFst o) (e : o = some (s, a)) :
    Canonical s := by subst e; exact h
theorem InSomeSnd.of_eq {α : Type} {o : Option (α × State)} {a : α} {s : State} (h : InSomeSnd o) (e : o = some (a, s)) :
    Canonical s := by subst e; exact h
theorem InOkFst.of_eq {ε α : Type} {o : Except ε (State × α)} {a : α} {s : State} (h : InOkFst o) (e : o = .ok (s, a)) :
    Canonical s := by subst e; exact h
theorem InService.of_eq {o : Service} {bs : List Byte} {pa : Nat} {s : State} (h : InService o) (e : o = .got bs pa s) :
    Canonical s := by subst e; exact h
theorem InRecord.of_eq {o : RecordAt} {pa : Nat} {s : State} (h : InRecord o) (e : o = .ok pa s) : Canonical s := by
  subst e; exact h
theorem InFresh.of_eq {o : Fresh} {l : Nat} {x : Launch} {s : State} (h : InFresh o) (e : o = .got l x s) : Canonical s := by
  subst e; exact h
theorem InFresh.of_bad {o : Fresh} {s : State} (h : InFresh o) (e : o = .bad s) : Canonical s := by subst e; exact h
theorem InHart.of_eq {o : HartEff} {v : DWord} {s : State} (h : InHart o) (e : o = .done v s) : Canonical s := by
  subst e; exact h
theorem InRv.of_eq {o : RvEff} {x : Hart} {s : State} (h : InRv o) (e : o = .next s x) : Canonical s := by subst e; exact h
theorem InEff.trap {t : TrapReq} : InEff (.trap t) := trivial
theorem InEff.of_wait {o : Eff} {s : State} (h : InEff o) (e : o = .wait s) : Canonical s := by subst e; exact h
theorem InEff.of_fail {o : Eff} {s : State} {t : TrapReq} (h : InEff o) (e : o = .fail s t) : Canonical s := by subst e; exact h
theorem InEff.of_ok {o : Eff} {fx : Fx} (h : InEff o) (e : o = .ok fx) : InEff (.ok fx) := e ▸ h

theorem InEff.mk {fx : Fx} (h : Canonical fx.s) (ha : ∀ t, Canonical t → Canonical (fx.after t)) : InEff (.ok fx) := ⟨h, ha⟩
theorem Canonical.wait {s : State} (h : Canonical s) : InEff (.wait s) := h
theorem Canonical.fail {s : State} (h : Canonical s) {t : TrapReq} : InEff (.fail s t) := h
theorem InHart.trap {c : Nat} {v g : DWord} : InHart (.trap c v g) := trivial
theorem InHart.wait : InHart .wait := trivial
theorem Canonical.done {s : State} (h : Canonical s) {v : DWord} : InHart (.done v s) := h
theorem InRv.trap {c : Nat} {v g : DWord} : InRv (.trap c v g) := trivial
theorem InRv.wait : InRv .wait := trivial
theorem Canonical.rvNext {s : State} (h : Canonical s) {x : Hart} : InRv (.next s x) := h
theorem InHart.ite {o p : HartEff} {q : Prop} [Decidable q] (ho : InHart o) (hp : InHart p) : InHart (if q then o else p) := by
  split <;> assumption
theorem InRv.ite {o p : RvEff} {q : Prop} [Decidable q] (ho : InRv o) (hp : InRv p) : InRv (if q then o else p) := by
  split <;> assumption
theorem InSome.getD {o : Option State} {s : State} (ho : InSome o) (h : Canonical s) : Canonical (o.getD s) := by
  cases o with
  | none => exact h
  | some t => exact ho
theorem InSome.or {o p : Option State} (ho : InSome o) (hp : InSome p) : InSome (o.or p) := by
  cases o with
  | none => exact hp
  | some t => exact ho
theorem InSome.map {f : State → State} (hf : ∀ s, Canonical s → Canonical (f s)) {o : Option State} (ho : InSome o) :
    InSome (o.map f) := by
  cases o with
  | none => trivial
  | some t => exact hf t ho
theorem InSome.bind {f : State → Option State} (hf : ∀ s, Canonical s → InSome (f s)) {o : Option State} (ho : InSome o) :
    InSome (o.bind f) := by
  cases o with
  | none => trivial
  | some t => exact hf t ho

/-- An effect that is followed by nothing. -/
theorem Canonical.ok {s : State} (h : Canonical s) {lands jump attached hold} :
    InEff (.ok { s := s, lands := lands, jump := jump, attached := attached, hold := hold }) := ⟨h, fun _ ht => ht⟩

theorem Answers.of_eq {o : Host.Outcome State Fault Refusal} {s : State} (h : Answers o) (e : o = .next s) : Canonical s := by
  subst e; exact h
theorem InSome.of_eq {o : Option State} {s : State} (h : InSome o) (e : o = some s) : Canonical s := by subst e; exact h
theorem InOk.of_eq {ε : Type} {o : Except ε State} {s : State} (h : InOk o) (e : o = .ok s) : Canonical s := by subst e; exact h
theorem InOkSnd.of_eq {ε α : Type} {o : Except ε (α × State)} {a : α} {s : State} (h : InOkSnd o) (e : o = .ok (a, s)) :
    Canonical s := by subst e; exact h

theorem Answers.ite {o p : Host.Outcome State Fault Refusal} {q : Prop} [Decidable q] (ho : Answers o) (hp : Answers p) :
    Answers (if q then o else p) := by split <;> assumption
theorem InEff.ite {o p : Eff} {q : Prop} [Decidable q] (ho : InEff o) (hp : InEff p) : InEff (if q then o else p) := by
  split <;> assumption
theorem InSome.ite {o p : Option State} {q : Prop} [Decidable q] (ho : InSome o) (hp : InSome p) :
    InSome (if q then o else p) := by split <;> assumption
theorem Canonical.of_snd {α : Type} {p : α × State} {a : α} {s : State} (h : Canonical p.2) (e : p = (a, s)) : Canonical s := by
  subst e; exact h
theorem Canonical.of_fst {α : Type} {p : State × α} {a : α} {s : State} (h : Canonical p.1) (e : p = (s, a)) : Canonical s := by
  subst e; exact h

section
variable {s : State} (h : Canonical s)
include h

theorem Canonical.writeHome {ws : List (Nat × Byte)} : Canonical (s.writeHome ws) :=
  ⟨Laws.cellsWf_foldSet ws h.mem, h.ls⟩

theorem Canonical.putCore {c : Nat} {x : Core} (hx : cellsWf x.ls = true) : Canonical (s.setCore c x) := by
  refine ⟨h.mem, fun j => ?_⟩
  rw [core_ls, State.setCore, Laws.tblGet?_set]
  split
  · exact hx
  · rw [← core_ls]; exact h.ls j

/-- A change of a core's record that keeps its local store. -/
theorem Canonical.setCore {c : Nat} {x : Core} (hx : x.ls = (s.core c).ls := by rfl) : Canonical (s.setCore c x) :=
  h.putCore (hx ▸ h.ls c)

theorem Canonical.lsWrite {c : Nat} {ws : List (Nat × Byte)} : Canonical (s.lsWrite c ws) :=
  h.putCore (Laws.cellsWf_foldSet ws (h.ls c))

theorem Canonical.lsTake {c base size ctx : Nat} : Canonical (s.lsTake c base size ctx) :=
  h.putCore (Laws.cellsWf_filter (h.ls c) _)

/-- A change of every core's record that keeps its local store. -/
theorem Canonical.mapCores {t : State} (f : Nat → Core → Core) (hf : ∀ c x, (f c x).ls = x.ls)
    (hc : t.cores = tblMap s.cores f) (hm : t.mem = s.mem := by rfl) : Canonical t := by
  refine h.of_ls hm fun c => ?_
  rw [core_ls, core_ls, hc, Laws.tblGet?_map]
  cases tblGet? s.cores c <;> simp [hf]

end

end Sys2Proof.Proofs
end

section
/-!
EVERY STEP KEEPS THE CANONICAL FORM (O4). Memory and local store are changed by `writeHome`, `lsWrite`, `lsTake` and the zeroing of a
stack alone (above); every other function of the model calls them or leaves both alone. One lemma a function says so, in the model's
order, and its proof has the function's own shape: `h.f.g` is the proof for `(s.f).g`.
-/
namespace Sys2Proof.Proofs
open Sys2Proof.Machine

variable {s : State}
/-! #### `Sys2Proof/Machine/Memory.lean` -/

protected theorem Canonical.setReg (h : Canonical s) {a v} : Canonical (s.setReg a v) := h.frame

protected theorem Canonical.writeHomeLine (h : Canonical s) {l d} : Canonical (s.writeHomeLine l d) := h.writeHome

protected theorem Canonical.revoke (h : Canonical s) {chip l} : Canonical (s.revoke chip l) := h.frame

protected theorem Canonical.stashLose (h : Canonical s) {chip l} : Canonical (s.stashLose chip l) := h.frame

protected theorem Canonical.stashDrop (h : Canonical s) {chip l} : Canonical (s.stashDrop chip l) := h.frame

protected theorem Canonical.ownLine (h : Canonical s) {chip l} : Canonical (s.ownLine chip l) := by
  unfold State.ownLine
  dsimp only
  split
  · exact Canonical.ite h h.revoke.stashLose.frame
  · exact h.revoke.stashLose.frame

protected theorem Canonical.shareLine (h : Canonical s) {chip l} : Canonical (s.shareLine chip l) := by
  unfold State.shareLine
  dsimp only
  split
  · exact Canonical.ite h (.ite h.revoke.frame (.ite h.revoke.frame h.frame))
  · exact Canonical.ite h.revoke.frame h.revoke.frame

protected theorem Canonical.cleanLine (h : Canonical s) {l} : Canonical (s.cleanLine l) := by
  unfold State.cleanLine
  dsimp only
  split
  · exact Canonical.ite h.writeHomeLine.frame h
  · exact h

protected theorem Canonical.dropLine (h : Canonical s) {l} : Canonical (s.dropLine l) := h.stashLose.frame

protected theorem Canonical.flushLine (h : Canonical s) {l} : Canonical (s.flushLine l) := h.cleanLine.dropLine

protected theorem Canonical.writeOwned (h : Canonical s) {chip a b} : Canonical (s.writeOwned chip a b) := h.ownLine.frame

protected theorem Canonical.cohWrite (h : Canonical s) {chip ws} :
    Canonical (s.cohWrite chip ws) :=
  Canonical.foldl (fun _ _ h' => Canonical.ite h' h'.writeOwned) h

protected theorem Canonical.ioWrite (h : Canonical s) {ws} :
    Canonical (s.ioWrite ws) :=
  Canonical.foldl (fun _ _ h' => Canonical.ite h' h'.flushLine.revoke.writeHome) h

protected theorem Canonical.poisonLine (h : Canonical s) {l} : Canonical (s.poisonLine l) := h.dropLine.frame

protected theorem Canonical.unpoison (h : Canonical s) {l} : Canonical (s.unpoison l) := h.frame

protected theorem Canonical.fillL1 (h : Canonical s) {c l} : Canonical (s.fillL1 c l) := by
  unfold State.fillL1
  dsimp only
  split
  · exact h
  · exact h.shareLine.setCore.frame

protected theorem Canonical.dropL1 (h : Canonical s) {c l} : Canonical (s.dropL1 c l) := by
  unfold State.dropL1
  dsimp only
  exact h.setCore

protected theorem Canonical.invalL1 (h : Canonical s) {c} : Canonical (s.invalL1 c) := by
  unfold State.invalL1
  dsimp only
  exact h.setCore

protected theorem Canonical.putL1 (h : Canonical s) {c ws} : Canonical (s.putL1 c ws) := by
  unfold State.putL1
  dsimp only
  exact h.setCore

protected theorem Canonical.storeBytes (h : Canonical s) {c ws} : Canonical (s.storeBytes c ws) := h.cohWrite.putL1

protected theorem Canonical.lsForget (h : Canonical s) {ctx} : Canonical (s.lsForget ctx) := by
  unfold State.lsForget
  exact h.mapCores (fun _ c => { c with lsHeld := c.lsHeld.map fun h => if h.2.2 = ctx then (h.1, h.2.1, goneCtx) else h })
    (fun _ _ => rfl) rfl

protected theorem Canonical.msiFor (h : Canonical s) {boss addr data} : Canonical (s.msiFor boss addr data) := by
  unfold State.msiFor
  dsimp only
  refine Canonical.ite h ?_
  split
  · split
    · exact Canonical.ite h h.frame
    · exact h
  exact h

protected theorem Canonical.msi (h : Canonical s) {addr data} : Canonical (s.msi addr data) := h.msiFor

/-! #### `Sys2Proof/Machine/Translate.lean` -/

protected theorem Canonical.touchLeaf (h : Canonical s) {a pte acc} : Canonical (s.touchLeaf a pte acc) := Canonical.ite h h.ioWrite

protected theorem Canonical.walk (h : Canonical s) {key c va acc from_} : InOkSnd (s.walk key c va acc from_) := by
  unfold State.walk
  dsimp only
  split
  · trivial
  split
  · trivial
  split
  · split
    · trivial
    split
    · trivial
    · exact h.touchLeaf
  split
  · trivial
  split
  · trivial
  · exact h.touchLeaf

protected theorem Canonical.translate (h : Canonical s) {key c va acc} : InOkSnd (s.translate key c va acc) := by
  unfold State.translate
  dsimp only
  split
  · trivial
  split
  · split
    · trivial
    split
    · trivial
    split
    · exact h
    split
    · trivial
    · exact Canonical.frame (h.walk.of_eq ‹_›)
  split
  · trivial
  · exact Canonical.frame (h.walk.of_eq ‹_›)

protected theorem Canonical.dropTlb (h : Canonical s) {chip p q} : Canonical (s.dropTlb chip p q) := h.frame

protected theorem Canonical.dropTlbs (h : Canonical s) {p q} : Canonical (s.dropTlbs p q) := h.frame

/-! #### `Sys2Proof/Machine/Drills.lean` -/

protected theorem Canonical.setDrill (h : Canonical s) {k d} : Canonical (s.setDrill k d) := h.frame

protected theorem Canonical.modDrill (h : Canonical s) {k f} : Canonical (s.modDrill k f) := h.frame

protected theorem Canonical.setGroup (h : Canonical s) {g x} : Canonical (s.setGroup g x) := h.frame

protected theorem Canonical.modGroup (h : Canonical s) {g f} : Canonical (s.modGroup g f) := h.frame

protected theorem Canonical.modCtx (h : Canonical s) {n f} : Canonical (s.modCtx n f) := h.frame

protected theorem Canonical.stamp (h : Canonical s) : Canonical (s.stamp).2 := h.frame

protected theorem Canonical.free (h : Canonical s) : Canonical (s.free).2 := h.frame

protected theorem Canonical.trapGroup (h : Canonical s) {gid code sub station} : Canonical (s.trapGroup gid code sub station) := by
  unfold State.trapGroup
  split
  · exact h
  · exact Canonical.foldl (fun _ _ h' => h'.modDrill) h

protected theorem Canonical.complete (h : Canonical s) {k slot tk1} : Canonical (s.complete k slot tk1) := by
  unfold State.complete
  dsimp only
  refine Canonical.ite h.modDrill ?_
  split
  · exact h.modDrill
  split
  · exact h.modDrill
  · exact Canonical.ite h.modDrill.setGroup.modDrill h.modDrill.setGroup

protected theorem Canonical.sysWrite (h : Canonical s) {k n system m val} : Canonical (s.sysWrite k n system m val) := by
  unfold State.sysWrite
  dsimp only
  split
  · exact h
  refine Canonical.ite h.modGroup (.ite h.modGroup (.ite h.modGroup (.ite ?_ (.ite ?_ h.setDrill))))
  · split
    · exact h
    · exact h.modCtx
  · split
    · exact h
    · exact h.modCtx

protected theorem Canonical.landOne (h : Canonical s) {k x} : Canonical (s.landOne k x) := by
  unfold State.landOne
  dsimp only
  refine Canonical.complete ?_
  split
  · exact h.sysWrite
  · exact h.modDrill

protected theorem Canonical.advance (h : Canonical s) {k} : Canonical (s.advance k) := by
  unfold State.advance
  dsimp only
  split
  · exact h
  · exact Canonical.foldl (fun _ _ h' => h'.landOne) h.setDrill

protected theorem Canonical.landAll (h : Canonical s) {k} : Canonical (s.landAll k) := Canonical.foldl (fun _ _ h' => h'.advance) h

/-! #### `Sys2Proof/Machine/Copies.lean` -/

protected theorem Canonical.copyPa (h : Canonical s) {w va write} : InOkSnd (s.copyPa w va write) := by
  unfold State.copyPa
  split
  · trivial
  split
  · split
    · trivial
    split
    · trivial
    split
    · trivial
    · exact h.translate.of_eq ‹_›
  split
  · trivial
  split
  · trivial
  split
  · trivial
  · exact h.translate.of_eq ‹_›

protected theorem Canonical.copyRead {dev} (h : Canonical s) {w d u} : InOkSnd (s.copyRead w d u dev) := by
  unfold State.copyRead
  dsimp only
  split
  · exact h
  split
  · split
    · trivial
    · exact h
  split
  · trivial
  split
  · exact Canonical.frame (h.copyPa.of_eq ‹_›)
  split
  · trivial
  · exact h.copyPa.of_eq ‹_›

protected theorem Canonical.copyWrite {dev : State → ℕ → List Byte → State} (h : Canonical s) (hdev : ∀ y0 y1 y2, Canonical y0 → Canonical
    (dev y0 y1 y2)) {w d u bs} : InOk (s.copyWrite w d u bs dev) := by
  unfold State.copyWrite
  split
  · split
    · trivial
    · exact Canonical.ite (.ioWrite (h.copyPa.of_eq ‹_›)) (hdev _ _ _ (h.copyPa.of_eq ‹_›))
  exact h.lsWrite

protected theorem Canonical.mixUnits (h : Canonical s) {w d us} : Canonical (s.mixUnits w d us) := by
  unfold State.mixUnits
  dsimp only
  split
  · exact h
  refine Canonical.foldl (fun s u h' => ?_) h.free
  split
  · exact h'
  · exact (h'.copyWrite (fun _ _ _ h₁ => h₁)).of_eq ‹_›

protected theorem Canonical.copyBytes {dev} (h : Canonical s) {w d got u} : InOkSnd (s.copyBytes w d got u dev) := by
  unfold State.copyBytes
  split
  · exact h
  · exact h.copyRead

protected theorem Canonical.strayUnits (h : Canonical s) {w d r first} : Canonical (s.strayUnits w d r first) := by
  unfold State.strayUnits
  dsimp only
  refine Canonical.foldl (fun _ _ h' => Canonical.ite h' (.ite h'.mixUnits ?_)) h.free
  split
  · exact h'
  split
  · exact h'.copyBytes.of_eq ‹_›
  · exact (Canonical.copyWrite (h'.copyBytes.of_eq ‹_›) (fun _ _ _ h₁ => h₁)).of_eq ‹_›

/-! #### `Sys2Proof/Machine/Service.lean` -/

protected theorem Canonical.msiFrom (h : Canonical s) {a d} : Canonical (s.msiFrom a d) := h.msi

protected theorem Canonical.ctxMsi (h : Canonical s) : Canonical (s.ctxMsi) := h.msiFrom

protected theorem Canonical.setRec (h : Canonical s) {chip n r} : Canonical (s.setRec chip n r) := h.frame

protected theorem Canonical.clearRec (h : Canonical s) {chip n} : Canonical (s.clearRec chip n) := h.frame

protected theorem Canonical.postFault (h : Canonical s) {chip n} : Canonical (s.postFault chip n) := by
  unfold State.postFault
  dsimp only
  split
  · exact h
  · exact Canonical.ite h (.ite h.setReg (.ite h h.ioWrite.setReg.setRec.msiFrom))

protected theorem Canonical.rewriteFault (h : Canonical s) {chip n} : Canonical (s.rewriteFault chip n) := by
  unfold State.rewriteFault
  dsimp only
  split
  · exact h
  · exact Canonical.ite h h.ioWrite.setRec

protected theorem Canonical.rewriteFaults (h : Canonical s) {chip} :
    Canonical (s.rewriteFaults chip) :=
  Canonical.foldl (fun _ _ h' => h'.rewriteFault) h

protected theorem Canonical.postFaults (h : Canonical s) {chip} :
    Canonical (s.postFaults chip) :=
  Canonical.foldl (fun _ _ h' => h'.postFault) h.rewriteFaults

protected theorem Canonical.faultNew (h : Canonical s) {chip r} : Canonical (s.faultNew chip r).2 := by
  unfold State.faultNew
  dsimp only
  split
  · exact h.dropTlb.setRec.rewriteFault
  · exact h.dropTlb.stamp.setRec.postFaults

protected theorem Canonical.setSysQ (h : Canonical s) {chip l} : Canonical (s.setSysQ chip l) := h.frame

protected theorem Canonical.addSys (h : Canonical s) {chip e} : Canonical (s.addSys chip e) := h.setSysQ

protected theorem Canonical.withdrawSys (h : Canonical s) {p} : Canonical (s.withdrawSys p) := h.frame

protected theorem Canonical.strayCopy (h : Canonical s) {gid g t} : Canonical (s.strayCopy gid g t) := by
  unfold State.strayCopy
  split
  · split
    · exact Canonical.ite h h.strayUnits
    · exact h
  exact h

protected theorem Canonical.abandon (h : Canonical s) {gid} : Canonical (s.abandon gid) := by
  unfold State.abandon
  split
  · exact h
  · exact h.strayCopy.strayCopy.modGroup

protected theorem Canonical.syncLost (h : Canonical s) {gid grid} : Canonical (s.syncLost gid grid) := by
  unfold State.syncLost
  dsimp only
  split
  · exact h
  · exact Canonical.foldl (fun _ _ h' => h'.modDrill) h.setGroup

protected theorem Canonical.strayStores (h : Canonical s) {k d} : Canonical (s.strayStores k d) := by
  unfold State.strayStores
  dsimp only
  split
  · exact h.free
  · exact Canonical.foldl (fun _ _ h' => Canonical.ite h' (.ite h'.frame (.ite h' (.ite h'.cohWrite
      (.ite h'.poisonLine h'.ioWrite))))) h.free

protected theorem Canonical.loseGroup (h : Canonical s) {gid} : Canonical (s.loseGroup gid) := by
  unfold State.loseGroup
  dsimp only
  split
  · exact h
  · exact Canonical.ite h (.ite (.foldl (fun _ _ h' => h'.syncLost) (.foldl (fun _ _ h' => h'.syncLost) (.modGroup (.frame (.foldl
      (fun _ _ h' => h'.strayStores) h.abandon))))) (.foldl (fun _ _ h' => h'.syncLost) (.modGroup (.frame (.foldl
      (fun _ _ h' => h'.strayStores) h.abandon)))))

protected theorem Canonical.ctxFault (h : Canonical s) {ctx fcode chip e} : Canonical (s.ctxFault ctx fcode chip e) := by
  unfold State.ctxFault
  dsimp only
  split
  · exact h
  · exact Canonical.ite h (.ctxMsi (.addSys (.foldl (fun _ _ h' => h'.loseGroup) h.modCtx)))

/-! #### `Sys2Proof/Machine/Ops.lean` -/

protected theorem Canonical.snapshot (h : Canonical s) {k idx tkd} : Canonical (s.snapshot k idx tkd) := by
  unfold State.snapshot
  dsimp only
  split
  · exact h
  · exact Canonical.modDrill (.foldl (fun _ _ h' => h'.complete) (.foldl (fun _ _ h' => h'.landOne) h.setDrill))

protected theorem Canonical.toVector (h : Canonical s) {k vec routine} : Canonical (s.toVector k vec routine) := by
  unfold State.toVector
  dsimp only
  split
  · exact h
  split
  · exact h
  split
  · exact h
  · exact h.setDrill

protected theorem Canonical.parkOn (h : Canonical s) {k p} : Canonical (s.parkOn k p) := h.modDrill

protected theorem Canonical.cancelSucc (h : Canonical s) {gid} : Canonical (s.cancelSucc gid) := h.modGroup

protected theorem Canonical.takeFaults (h : Canonical s) {chip : Nat} {rec : DWord × Nat × Nat × Bool × Nat → FaultRec}
    {fs : List (DWord × Nat × Nat × Bool × Nat)} {recs : List Nat} : Canonical (fs.foldl (fun (r : List Nat × State) f =>
      let (n, s) := r.2.faultNew chip (rec f)
      (if r.1.contains n then r.1 else r.1 ++ [n], s)) (recs, s)).2 := by
  refine Canonical.foldl_snd (fun r f h' => ?_) (r := (recs, s)) h
  exact h'.faultNew

protected theorem Canonical.takeTrap (h : Canonical s) {k t valid async idx} : Canonical (s.takeTrap k t valid async idx) := by
  unfold State.takeTrap
  split
  · exact h
  split
  · exact h
  split
  · exact h
  extract_lets epc mask d1 e s1 s2 s3
  split
  · exact h.ctxFault
  have h1 : Canonical s1 := Canonical.ite h.snapshot h.landAll.modDrill
  have h2 : Canonical s2 := h1.modDrill
  split
  · exact h2.takeFaults.parkOn
  split
  · exact h2.addSys.parkOn
  split
  · exact h2.toVector
  · exact Canonical.ite h2.cancelSucc.toVector h2.cancelSucc.addSys.parkOn

protected theorem Canonical.raise (h : Canonical s) {k t} : Canonical (s.raise k t) := by
  unfold State.raise
  split
  · exact h
  · exact Canonical.ite h.takeTrap h.setDrill

protected theorem Canonical.resume (h : Canonical s) {k} : Canonical (s.resume k) := h.modDrill

protected theorem Canonical.stallOn (h : Canonical s) {k why} : Canonical (s.stallOn k why) := h.modDrill

protected theorem Canonical.awaitTokens (h : Canonical s) {k tk} : Canonical (s.awaitTokens k tk) := h.modDrill.stallOn

protected theorem Canonical.finish (h : Canonical s) {k i fx} (hfx : InEff (.ok fx)) : Canonical (s.finish k i fx) :=
  hfx.2 _ (Canonical.ite h.modDrill h.modDrill.advance)

protected theorem Canonical.raiseOr (h : Canonical s) {k t} : Canonical (s.raiseOr k t) := Canonical.ite h.stallOn h.raise

protected theorem Canonical.raiseMarked (h : Canonical s) {x tkd} : Canonical (s.raiseMarked x tkd) := h.modDrill.raise

protected theorem Canonical.keptTk0 (h : Canonical s) {k : Nat} {tkd : Bool} :
    Canonical (if tkd then s.modDrill k fun d => { d with skipTk0 :=
  true } else s) := Canonical.ite h.modDrill h

protected theorem Canonical.act {s : State} {body : Issue → State → Eff} (h : Canonical s)
    (hbody : ∀ x s, Canonical s → InEff (body x s)) {x tkd} : Canonical (s.act x tkd body) := by
  have hb := hbody x s h
  unfold State.act
  extract_lets kept
  have hk {t : State} (ht : Canonical t) : Canonical (kept t) := ht.keptTk0
  split
  · exact h.raiseMarked
  cases e : body x s with
  | ok fx => exact Canonical.finish (hb.of_ok e).1 (hb.of_ok e)
  | trap t => exact Canonical.ite (hk h.stallOn) h.raise
  | fail s' t => exact (hb.of_fail e).raise
  | wait s' => exact hk (hb.of_wait e)

protected theorem Canonical.takeTk0 (h : Canonical s) {x} : Canonical (s.takeTk0 x) := Canonical.ite h.setGroup.invalL1 h.setGroup

protected theorem Canonical.actTokens {body : Issue → State → Eff} (h : Canonical s) (hbody : ∀ y0 y1, Canonical y1 → InEff (body y0 y1)) {x} :
    Canonical (s.actTokens x body) :=
  Canonical.ite (h.act (fun _ _ h' => hbody _ _ h')) (Canonical.ite (h.act (fun _ _ h' => hbody _ _ h')) (Canonical.ite h.awaitTokens
    (Canonical.ite h.takeTk0.raise (h.takeTk0.act (fun _ _ h' => hbody _ _ h')))))

protected theorem Canonical.longUnmet (h : Canonical s) {x} : Canonical (s.longUnmet x) := h.modDrill

protected theorem Canonical.armed (h : Canonical s) {x} : Canonical (s.armed x) := h.modDrill

protected theorem Canonical.afterMet {body : Issue → State → Eff} (h : Canonical s)
    (hbody : ∀ x s, Canonical s → InEff (body x s)) {x} : InEff (afterMet body x s) := by
  have hb := hbody x s h
  unfold Machine.afterMet
  cases e : body x s with
  | ok fx => exact hb.of_ok e
  | trap t => exact (Canonical.ite h.invalL1 h).ok
  | fail s' t => exact (Canonical.ite h.invalL1 h).ok
  | wait s' => exact (Canonical.ite h.invalL1 h).ok

protected theorem Canonical.issueAt {body : Issue → State → Eff} (h : Canonical s) (hbody : ∀ y0 y1, Canonical y1 → InEff (body y0 y1)) {x} :
    Canonical (s.issueAt x body) :=
  by
  unfold State.issueAt
  dsimp only
  split
  · exact h.raise
  refine Canonical.ite h.stallOn ?_
  split
  · exact h.modDrill.raise
  refine Canonical.ite h.stallOn (.ite h.stallOn (.ite h.stallOn (.ite (.ite h.armed.raiseMarked (.ite (h.armed.actTokens
    (fun _ _ h' => h'.afterMet (fun _ _ h₁ => hbody _ _ h₁))) ?_)) (h.armed.actTokens (fun _ _ h' => hbody _ _ h')))))
  split
  · exact Canonical.longUnmet ((hbody _ _ h.armed).of_wait ‹_›)
  · exact h.armed.raiseOr
  · exact Canonical.raise ((hbody _ _ h.armed).of_fail ‹_›)
  · exact Canonical.ite (h.armed.actTokens (fun _ _ h' => hbody _ _ h')) h.armed.modDrill.awaitTokens

protected theorem Canonical.issue {body : Issue → State → Eff} (h : Canonical s) (hbody : ∀ y0 y1, Canonical y1 → InEff (body y0 y1)) {i} :
    Answers (issue i s body) :=
  by
  unfold issue
  split
  · split
    · split
      · exact h.issueAt fun _ _ h' => hbody _ _ h'
      · trivial
    trivial
  trivial

/-! #### `Sys2Proof/Machine/Operands.lean` -/

protected theorem Canonical.laneOp (h : Canonical s) {i n op} : Answers (laneOp i s n op) := h.issue fun _ _ h' => h'.ok

protected theorem Canonical.laneOp32 (h : Canonical s) {i op} : Answers (laneOp32 i s op) := h.laneOp

protected theorem Canonical.laneOp64 (h : Canonical s) {i op} : Answers (laneOp64 i s op) := h.laneOp

protected theorem Canonical.startOp (h : Canonical s) {x kind into mask} : InEff (startOp x s kind into mask) := h.stamp.modDrill.ok

protected theorem Canonical.slowOp (h : Canonical s) {i op} : Answers (slowOp i s op) := h.issue fun _ _ h' => h'.startOp

protected theorem Canonical.enqueue (h : Canonical s) {x kind} : InEff (enqueue x s kind) := h.stamp.modDrill.ok

protected theorem Canonical.noEffect (h : Canonical s) : InEff (noEffect s) := h.ok

protected theorem Canonical.update (h : Canonical s) {x f} : Canonical (Issue.update x s f) := h.modDrill

protected theorem Canonical.xlateAll (h : Canonical s) {chip c acc l} : Canonical (xlateAll s chip c acc l).2.2 := by
  induction l generalizing s with
  | nil => exact h
  | cons q r ih =>
    unfold Machine.xlateAll
    split
    · exact ih (h.translate.of_eq ‹_›)
    · exact ih h

protected theorem Canonical.checkAccess (h : Canonical s) {k ctx c acc atomic align real helper perLane} :
    InOkThird (checkAccess s k ctx c acc atomic align real helper perLane) :=
  by
  unfold Machine.checkAccess
  dsimp only
  split
  · trivial
  split
  · trivial
  split
  · trivial
  split
  · trivial
  split
  · trivial
  · exact h.xlateAll.xlateAll

/-! #### `Sys2Proof/Machine/Integer.lean` -/

protected theorem Canonical.execNop (h : Canonical s) {c} : Answers (execNop c s) := h.issue fun _ _ h' => h'.noEffect

protected theorem Canonical.execIadd (h : Canonical s) {f d a b c} : Answers (execIadd f d a b c s) := Answers.ite h.laneOp64 h.laneOp32

protected theorem Canonical.execIsub (h : Canonical s) {f d a b c} : Answers (execIsub f d a b c s) := Answers.ite h.laneOp64 h.laneOp32

protected theorem Canonical.execImul (h : Canonical s) {f d a b c} : Answers (execImul f d a b c s) := Answers.ite h.laneOp64 h.laneOp32

protected theorem Canonical.execImac (h : Canonical s) {f d a b c} : Answers (execImac f d a b c s) := Answers.ite h.laneOp64 h.laneOp32

protected theorem Canonical.execImnx (h : Canonical s) {f d a b c} : Answers (execImnx f d a b c s) := h.laneOp32

protected theorem Canonical.execLog (h : Canonical s) {f d a b c} : Answers (execLog f d a b c s) := h.laneOp32

protected theorem Canonical.execShf (h : Canonical s) {f x64 d a b c} : Answers (execShf f x64 d a b c s) := Answers.ite h.laneOp64 h.laneOp32

protected theorem Canonical.execBfx (h : Canonical s) {sgn d a b c} : Answers (execBfx sgn d a b c s) := h.laneOp32

protected theorem Canonical.execBfi (h : Canonical s) {d a b c} : Answers (execBfi d a b c s) := h.laneOp32

protected theorem Canonical.execBit (h : Canonical s) {f d a c} : Answers (execBit f d a c s) := h.laneOp32

protected theorem Canonical.execLea (h : Canonical s) {sh d a b c} : Answers (execLea sh d a b c s) := h.laneOp64

protected theorem Canonical.execIcmp (h : Canonical s) {f u d a b c} : Answers (execIcmp f u d a b c s) := h.laneOp32

protected theorem Canonical.execSel (h : Canonical s) {k d a b c} : Answers (execSel k d a b c s) := h.laneOp32

protected theorem Canonical.execMov (h : Canonical s) {w64 d a c} : Answers (execMov w64 d a c s) := Answers.ite h.laneOp64 h.laneOp32

protected theorem Canonical.execKop (h : Canonical s) {f d a b c} : Answers (execKop f d a b c s) := h.laneOp32

protected theorem Canonical.execIaddi (h : Canonical s) {d a imm c} : Answers (execIaddi d a imm c s) := h.laneOp32

protected theorem Canonical.execAndi (h : Canonical s) {d a imm c} : Answers (execAndi d a imm c s) := h.laneOp32

protected theorem Canonical.execOri (h : Canonical s) {d a imm c} : Answers (execOri d a imm c s) := h.laneOp32

protected theorem Canonical.execXori (h : Canonical s) {d a imm c} : Answers (execXori d a imm c s) := h.laneOp32

protected theorem Canonical.execShli (h : Canonical s) {d a imm c} : Answers (execShli d a imm c s) := h.laneOp32

protected theorem Canonical.execShri (h : Canonical s) {d a imm c} : Answers (execShri d a imm c s) := h.laneOp32

protected theorem Canonical.execSari (h : Canonical s) {d a imm c} : Answers (execSari d a imm c s) := h.laneOp32

protected theorem Canonical.execMovil (h : Canonical s) {d imm c} : Answers (execMovil d imm c s) := h.laneOp32

protected theorem Canonical.execMovih (h : Canonical s) {d imm c} : Answers (execMovih d imm c s) := h.laneOp32

protected theorem Canonical.execImuli (h : Canonical s) {d a imm c} : Answers (execImuli d a imm c s) := h.laneOp32

protected theorem Canonical.execPrmt (h : Canonical s) {d a b c} : Answers (execPrmt d a b c s) := h.laneOp32

protected theorem Canonical.execPrmti (h : Canonical s) {d a imm c} : Answers (execPrmti d a imm c s) := h.laneOp32

/-! #### `Sys2Proof/Machine/Float.lean` -/

protected theorem Canonical.execFaddF32 (h : Canonical s) {m d a b c} : Answers (execFaddF32 m d a b c s) := h.laneOp

protected theorem Canonical.execFsubF32 (h : Canonical s) {m d a b c} : Answers (execFsubF32 m d a b c s) := h.laneOp

protected theorem Canonical.execFmulF32 (h : Canonical s) {m d a b c} : Answers (execFmulF32 m d a b c s) := h.laneOp

protected theorem Canonical.execFmacF32 (h : Canonical s) {m d a b c} : Answers (execFmacF32 m d a b c s) := h.laneOp

protected theorem Canonical.execFaddiF32 (h : Canonical s) {d a imm c} : Answers (execFaddiF32 d a imm c s) := h.laneOp

protected theorem Canonical.execFmuliF32 (h : Canonical s) {d a imm c} : Answers (execFmuliF32 d a imm c s) := h.laneOp

protected theorem Canonical.execFmaciF32 (h : Canonical s) {d a imm c} : Answers (execFmaciF32 d a imm c s) := h.laneOp

protected theorem Canonical.execFmnxF32 (h : Canonical s) {f d a b c} : Answers (execFmnxF32 f d a b c s) := h.laneOp

protected theorem Canonical.execFcmpF32 (h : Canonical s) {f d a b c} : Answers (execFcmpF32 f d a b c s) := h.laneOp

protected theorem Canonical.execFsgn (h : Canonical s) {f d a b c} : Answers (execFsgn f d a b c s) := h.laneOp32

protected theorem Canonical.execFcls (h : Canonical s) {d a c} : Answers (execFcls d a c s) := h.laneOp32

protected theorem Canonical.execHadd (h : Canonical s) {m f16 d a b c} : Answers (execHadd m f16 d a b c s) := h.laneOp

protected theorem Canonical.execHmul (h : Canonical s) {m f16 d a b c} : Answers (execHmul m f16 d a b c s) := h.laneOp

protected theorem Canonical.execHmac (h : Canonical s) {m f16 d a b c} : Answers (execHmac m f16 d a b c s) := h.laneOp

protected theorem Canonical.execHmnx (h : Canonical s) {f f16 d a b c} : Answers (execHmnx f f16 d a b c s) := h.laneOp

protected theorem Canonical.execHmuliBf16x2 (h : Canonical s) {d a imm c} : Answers (execHmuliBf16x2 d a imm c s) := h.laneOp

protected theorem Canonical.execHmuliF16x2 (h : Canonical s) {d a imm c} : Answers (execHmuliF16x2 d a imm c s) := h.laneOp

protected theorem Canonical.execCvt (h : Canonical s) {m sat d a j p c} :
    Answers (execCvt m sat d a j p c s) :=
  Answers.ite (h.issue (fun _ _ h' => h'.update.ok)) h.laneOp

protected theorem Canonical.execQclmp (h : Canonical s) {d a imm c} : Answers (execQclmp d a imm c s) := h.laneOp32

protected theorem Canonical.execMxsc (h : Canonical s) {bs a c} : Answers (execMxsc bs a c s) := h.issue fun _ _ h' => h'.ok

protected theorem Canonical.execVdot (h : Canonical s) {f d a b c} : Answers (execVdot f d a b c s) := h.laneOp

protected theorem Canonical.execSfuF32 (h : Canonical s) {f d a c} : Answers (execSfuF32 f d a c s) := h.slowOp

protected theorem Canonical.execSfuBf16x2 (h : Canonical s) {f d a c} : Answers (execSfuBf16x2 f d a c s) := h.slowOp

protected theorem Canonical.execIdiv (h : Canonical s) {f d a b c} : Answers (execIdiv f d a b c s) := h.slowOp

protected theorem Canonical.execFdivF32 (h : Canonical s) {m d a b c} : Answers (execFdivF32 m d a b c s) := h.slowOp

/-! #### `Sys2Proof/Machine/Exchange.lean` -/

protected theorem Canonical.execLxch (h : Canonical s) {f d a b c} : Answers (execLxch f d a b c s) := h.laneOp32

protected theorem Canonical.execQx (h : Canonical s) {f d a b c} : Answers (execQx f d a b c s) := h.laneOp32

protected theorem Canonical.execVote (h : Canonical s) {f d a c} : Answers (execVote f d a c s) := h.issue fun _ _ h' => h'.ok

protected theorem Canonical.execRedx (h : Canonical s) {f d a c} : Answers (execRedx f d a c s) := h.issue fun _ _ h' => h'.ok

protected theorem Canonical.execVgeti (h : Canonical s) {d a imm c} :
    Answers (execVgeti d a imm c s) :=
  h.issue fun _ _ h' => InEff.ite InEff.trap h'.startOp

protected theorem Canonical.execVputi (h : Canonical s) {d a imm c} :
    Answers (execVputi d a imm c s) :=
  h.issue fun _ _ h' => InEff.ite InEff.trap h'.startOp

protected theorem Canonical.execTcfg (h : Canonical s) {t a c} :
    Answers (execTcfg t a c s) :=
  h.issue fun _ _ h' => InEff.ite h'.ok (InEff.ite h'.ok InEff.trap)

protected theorem Canonical.execTmvr (h : Canonical s) {t a b c} :
    Answers (execTmvr t a b c s) :=
  h.issue fun _ _ h' => InEff.ite InEff.trap (InEff.ite InEff.trap h'.ok)

protected theorem Canonical.execTmvc (h : Canonical s) {t a b c} :
    Answers (execTmvc t a b c s) :=
  h.issue fun _ _ h' => InEff.ite InEff.trap (InEff.ite InEff.trap h'.ok)

protected theorem Canonical.execTrdr (h : Canonical s) {d u b c} :
    Answers (execTrdr d u b c s) :=
  h.issue fun _ _ h' => InEff.ite InEff.trap (InEff.ite InEff.trap h'.ok)

protected theorem Canonical.execTrdc (h : Canonical s) {d u b c} :
    Answers (execTrdc d u b c s) :=
  h.issue fun _ _ h' => InEff.ite InEff.trap (InEff.ite InEff.trap h'.ok)

protected theorem Canonical.execTopZero (h : Canonical s) {t c} : Answers (execTopZero t c s) := h.issue fun _ _ h' => InEff.ite InEff.trap h'.ok

protected theorem Canonical.execTopTrans (h : Canonical s) {t u c} :
    Answers (execTopTrans t u c s) :=
  h.issue fun _ _ h' => InEff.ite InEff.trap h'.ok

protected theorem Canonical.execTopRel (h : Canonical s) {t c} : Answers (execTopRel t c s) := h.issue fun _ _ h' => h'.ok

protected theorem Canonical.execTopCopy (h : Canonical s) {t u c} :
    Answers (execTopCopy t u c s) :=
  h.issue fun _ _ h' => InEff.ite InEff.trap h'.ok

/-! #### `Sys2Proof/Machine/Access.lean` -/

protected theorem Canonical.withCtx {f : Context → Eff} (h : Canonical s) (hf : ∀ y0, InEff (f y0)) {x} : InEff (withCtx x s f) := by
  unfold withCtx
  split
  · exact hf _
  · exact h.noEffect

protected theorem Canonical.execLd (h : Canonical s) {f d a ofs c} : Answers (execLd f d a ofs c s) := by
  unfold execLd
  dsimp only
  refine h.issue fun _ _ h' => h'.withCtx fun cx => ?_
  split
  · exact InEff.trap
  · exact Canonical.startOp (h'.checkAccess.of_eq ‹_›)

protected theorem Canonical.execSt (h : Canonical s) {f d a ofs c} : Answers (execSt f d a ofs c s) := by
  unfold execSt
  refine h.issue fun _ _ h' => h'.withCtx fun cx => ?_
  split
  · exact InEff.trap
  · exact Canonical.enqueue (h'.checkAccess.of_eq ‹_›)

protected theorem Canonical.fillStash (h : Canonical s) {gid g r l pline own} :
    Canonical (fillStash s gid g r l pline own) :=
  Canonical.modGroup (Canonical.ite h.ownLine h.shareLine)

protected theorem Canonical.checkLocal (h : Canonical s) {x cx acc align addrs} : InOk (checkLocal s x cx acc align addrs) := by
  unfold checkLocal
  dsimp only
  split
  · trivial
  split
  · trivial
  split
  · trivial
  split
  · trivial
  · exact Canonical.foldl (fun _ _ h' => h'.fillStash) (h.checkAccess.of_eq ‹_›)

protected theorem Canonical.helperLanes (h : Canonical s) {x : Issue} {cx : Context} {acc : Access} {size : Nat}
    {l l' : List (Nat × Word)} : Canonical (l.foldl (fun (p : List (Nat × Word) × State) q =>
      match Machine.checkLocal p.2 x cx acc size [q] with
      | Except.ok s => (p.1 ++ [q], s)
      | Except.error _ => p) (l', s)).2 := by
  refine Canonical.foldl_snd (fun p q hp => ?_) h
  split
  · exact hp.checkLocal.of_eq ‹_›
  · exact hp

protected theorem Canonical.execLds (h : Canonical s) {f d a ofs c} : Answers (execLds f d a ofs c s) := by
  refine h.issue fun x s h => h.withCtx fun cx => ?_
  dsimp only
  split
  · exact InEff.trap
  · exact (Canonical.helperLanes (h.checkLocal.of_eq ‹_›)).startOp

protected theorem Canonical.execSts (h : Canonical s) {f d a ofs c} : Answers (execSts f d a ofs c s) := by
  unfold execSts
  dsimp only
  refine h.issue fun _ _ h' => h'.withCtx fun cx => ?_
  split
  · exact InEff.trap
  · exact Canonical.enqueue (h'.checkLocal.of_eq ‹_›)

protected theorem Canonical.execLdu (h : Canonical s) {f d a ofs c} : Answers (execLdu f d a ofs c s) := by
  unfold execLdu
  dsimp only
  refine h.issue fun _ _ h' => h'.withCtx fun _ => InEff.ite h'.startOp ?_
  split
  · exact InEff.trap
  · exact Canonical.startOp (h'.checkAccess.of_eq ‹_›)
  · exact Canonical.startOp (h'.checkAccess.of_eq ‹_›)

protected theorem Canonical.atomBody (h : Canonical s) {x op n isRed a b} : InEff (atomBody x s op n isRed a b) := by
  unfold atomBody
  dsimp only
  refine h.withCtx fun cx => ?_
  split
  · exact InEff.trap
  · exact InEff.ite (Canonical.ok (.modDrill (.stamp (h.checkAccess.of_eq ‹_›)))) (Canonical.startOp (h.checkAccess.of_eq ‹_›))

protected theorem Canonical.execAtomI32 (h : Canonical s) {f u d a b c} : Answers (execAtomI32 f u d a b c s) := h.issue fun _ _ h' => h'.atomBody

protected theorem Canonical.execAtomI64 (h : Canonical s) {f u d a b c} : Answers (execAtomI64 f u d a b c s) := h.issue fun _ _ h' => h'.atomBody

protected theorem Canonical.execAtomF32 (h : Canonical s) {f d a b c} : Answers (execAtomF32 f d a b c s) := h.issue fun _ _ h' => h'.atomBody

protected theorem Canonical.execRedI32 (h : Canonical s) {f u a b c} : Answers (execRedI32 f u a b c s) := h.issue fun _ _ h' => h'.atomBody

protected theorem Canonical.execRedF32 (h : Canonical s) {f a b c} : Answers (execRedF32 f a b c s) := h.issue fun _ _ h' => h'.atomBody

protected theorem Canonical.execRedBf16x2 (h : Canonical s) {a b c} : Answers (execRedBf16x2 a b c s) := h.issue fun _ _ h' => h'.atomBody

protected theorem Canonical.execAtoms (h : Canonical s) {f u d a b c} : Answers (execAtoms f u d a b c s) := by
  unfold execAtoms
  dsimp only
  refine h.issue fun _ _ h' => h'.withCtx fun cx => ?_
  split
  · exact InEff.trap
  · exact Canonical.ok (.modDrill (.stamp (h'.checkLocal.of_eq ‹_›)))

protected theorem Canonical.settle (h : Canonical s) {k} : Canonical (s.settle k) := by
  unfold State.settle
  dsimp only
  split
  · exact h
  · exact Canonical.ite h.setDrill.invalL1 h.setDrill

protected theorem Canonical.execFenceAcq (h : Canonical s) {sc c} :
    Answers (execFenceAcq sc c s) :=
  h.issue fun _ _ h' => h'.stamp.modDrill.settle.ok

protected theorem Canonical.execFenceRel (h : Canonical s) {sc c} : Answers (execFenceRel sc c s) := h.issue fun _ _ h' => h'.enqueue

protected theorem Canonical.execFenceAr (h : Canonical s) {sc c} : Answers (execFenceAr sc c s) := h.issue fun _ _ h' => h'.enqueue

protected theorem Canonical.execPrefd (h : Canonical s) {a ofs c} : Answers (execPrefd a ofs c s) := by
  unfold execPrefd
  dsimp only
  refine h.issue fun _ _ h' => h'.withCtx fun _ => Canonical.noEffect (.foldl (fun s q h₁ => ?_) h')
  split
  · exact h₁
  · exact Canonical.ite (.fillL1 (h₁.translate.of_eq ‹_›)) (h₁.translate.of_eq ‹_›)

protected theorem Canonical.cacheBody (h : Canonical s) {x op acc a} : InEff (cacheBody x s op acc a) := by
  unfold cacheBody
  refine h.withCtx fun cx => ?_
  split
  · exact InEff.trap
  · exact Canonical.enqueue (h.checkAccess.of_eq ‹_›)

protected theorem Canonical.execCacheWb (h : Canonical s) {a c} : Answers (execCacheWb a c s) := h.issue fun _ _ h' => h'.cacheBody

protected theorem Canonical.execCacheInv (h : Canonical s) {a c} : Answers (execCacheInv a c s) := h.issue fun _ _ h' => h'.cacheBody

protected theorem Canonical.execCacheWbi (h : Canonical s) {a c} : Answers (execCacheWbi a c s) := h.issue fun _ _ h' => h'.cacheBody

/-! #### `Sys2Proof/Machine/Harts.lean` -/

protected theorem Canonical.setHart (h : Canonical s) {n h0} : Canonical (s.setHart n h0) := h.frame

/-! #### `Sys2Proof/Machine/Fetch.lean` -/

protected theorem Canonical.nextTurn (h : Canonical s) : Canonical (s.nextTurn).2 := by
  unfold State.nextTurn
  split <;> exact h.frame

protected theorem Canonical.pass (h : Canonical s) {t} : Canonical (s.pass t) :=
  h.mapCores (fun _ c => { c with clk := c.clk + BitVec.ofNat 64 t.cycles }) (fun _ _ => rfl) rfl

/-! #### `Sys2Proof/Machine/Control.lean` -/

protected theorem Canonical.branchTo (h : Canonical s) {taken t} : InEff (branchTo s taken t) := h.ok

protected theorem Canonical.execBra (h : Canonical s) {ofs c} :
    Answers (execBra ofs c s) :=
  h.issue fun _ _ h' => InEff.ite h'.branchTo (InEff.ite h'.branchTo (InEff.ite h'.branchTo (InEff.ite h'.branchTo InEff.trap)))

protected theorem Canonical.execBrz (h : Canonical s) {ofs c} : Answers (execBrz ofs c s) := h.issue fun _ _ h' => h'.branchTo

protected theorem Canonical.execCall (h : Canonical s) {d ofs c} : Answers (execCall d ofs c s) := h.issue fun _ _ h' => h'.ok

protected theorem Canonical.jumpTo (h : Canonical s) {t} : InEff (jumpTo s t) := InEff.ite InEff.trap h.ok

protected theorem Canonical.execRet (h : Canonical s) {a c} : Answers (execRet a c s) := h.issue fun _ _ h' => h'.jumpTo

protected theorem Canonical.execJmpu (h : Canonical s) {a c} : Answers (execJmpu a c s) := h.issue fun _ _ h' => h'.update.jumpTo

protected theorem Canonical.execJmpv (h : Canonical s) {a c} : Answers (execJmpv a c s) := by
  unfold execJmpv
  dsimp only
  refine h.issue fun x s h' => ?_
  split
  · exact h'.ok
  · exact InEff.ite InEff.trap (InEff.ite InEff.trap h'.update.ok)

protected theorem Canonical.execLand (h : Canonical s) {c} : Answers (execLand c s) := h.issue fun _ _ h' => h'.noEffect

protected theorem Canonical.execLoop (h : Canonical s) {d ofs c} : Answers (execLoop d ofs c s) := h.issue fun _ _ h' => h'.ok

protected theorem Canonical.execMpush (h : Canonical s) {c} :
    Answers (execMpush c s) :=
  h.issue fun _ _ h' => InEff.ite InEff.trap h'.update.noEffect

protected theorem Canonical.execMinv (h : Canonical s) {c} : Answers (execMinv c s) := by
  unfold execMinv
  refine h.issue fun x s h' => ?_
  split
  · exact InEff.trap
  · exact h'.update.noEffect

protected theorem Canonical.execMpop (h : Canonical s) {c} : Answers (execMpop c s) := by
  unfold execMpop
  refine h.issue fun x s h' => ?_
  split
  · exact InEff.trap
  · exact h'.update.noEffect

protected theorem Canonical.execKmask (h : Canonical s) {d c} : Answers (execKmask d c s) := h.issue fun _ _ h' => h'.ok

protected theorem Canonical.requestLine (h : Canonical s) {c line} : Canonical (s.requestLine c line) := by
  unfold State.requestLine
  dsimp only
  split
  · exact h.setCore
  · exact Canonical.ite h h.setCore

protected theorem Canonical.execPrefi (h : Canonical s) {n ofs c} : Answers (execPrefi n ofs c s) := by
  unfold execPrefi
  dsimp only
  refine h.issue fun _ _ h' => h'.withCtx fun _ => Canonical.noEffect (.foldl (fun s j h₁ => ?_) h')
  split
  · exact h₁
  · exact Canonical.ite (.requestLine (h₁.translate.of_eq ‹_›)) (h₁.translate.of_eq ‹_›)

/-! #### `Sys2Proof/Machine/RegRead.lean` -/

protected theorem Canonical.setQueue (h : Canonical s) {n q} : Canonical (s.setQueue n q) := h.frame

/-! #### `Sys2Proof/Machine/System.lean` -/

protected theorem Canonical.execSrd (h : Canonical s) {d n c} : Answers (execSrd d n c s) := h.issue fun _ _ h' => h'.ok

protected theorem Canonical.execSwr (h : Canonical s) {n b c} : Answers (execSwr n b c s) := h.issue fun _ _ h' => h'.ok

protected theorem Canonical.execSysSysc (h : Canonical s) {a c} :
    Answers (execSysSysc a c s) :=
  h.issue fun _ _ h' => InEff.mk h' fun _ h₁ => h₁.raise

protected theorem Canonical.execSysTrapi (h : Canonical s) {n c} :
    Answers (execSysTrapi n c s) :=
  h.issue fun _ _ h' => InEff.mk h' fun _ h₁ => h₁.raise

protected theorem Canonical.restored (h : Canonical s) {gid} : Canonical (s.restored gid) := by
  unfold State.restored
  split
  · exact h
  · exact Canonical.ite h.setGroup h

protected theorem Canonical.execSysTret (h : Canonical s) {c} :
    Answers (execSysTret c s) :=
  h.issue fun _ _ h' => InEff.ite InEff.trap (InEff.mk h' (fun _ h₁ => h₁.landAll.modDrill.resume.restored))

protected theorem Canonical.execSysUiret (h : Canonical s) {c} : Answers (execSysUiret c s) := by
  unfold execSysUiret
  dsimp only
  refine h.issue fun _ _ h' => InEff.ite InEff.trap ?_
  split
  · exact InEff.trap
  · exact InEff.mk h' fun _ h₁ => h₁.landAll.modDrill

protected theorem Canonical.execSysWaiti (h : Canonical s) {a c} :
    Answers (execSysWaiti a c s) :=
  h.issue fun _ _ h' => InEff.ite h'.noEffect h'.wait

protected theorem Canonical.checkBlock (h : Canonical s) {x acc va n} : InOkSnd (checkBlock x s acc va n) := by
  unfold checkBlock
  dsimp only
  split
  · exact h
  split
  · trivial
  split
  · trivial
  · exact h.checkAccess.of_eq ‹_›

protected theorem Canonical.saveBlock (h : Canonical s) {x va bytes} : InEff (saveBlock x s va bytes) := by
  unfold saveBlock
  split
  · exact InEff.trap
  · exact Canonical.enqueue (h.checkBlock.of_eq ‹_›)

protected theorem Canonical.fillFor (h : Canonical s) {c pa n} :
    Canonical (s.fillFor c pa n) :=
  Canonical.ite (Canonical.foldl (fun _ _ h' => h'.fillL1) h) h

protected theorem Canonical.loadBlock {use : State → List Byte → Eff} (h : Canonical s) (huse : ∀ y0 y1, Canonical y0 → InEff
    (use y0 y1)) {x va n} : InEff (loadBlock x s va n use) := by
  unfold loadBlock
  dsimp only
  split
  · exact InEff.trap
  refine InEff.ite (Canonical.wait (.stallOn (h.checkBlock.of_eq ‹_›))) ?_
  split
  · exact InEff.trap
  split
  · exact Canonical.wait (.stallOn (.modDrill (.stamp (h.checkBlock.of_eq ‹_›))))
  refine InEff.ite (Canonical.wait (.stallOn (h.checkBlock.of_eq ‹_›))) ?_
  split
  · exact InEff.trap
  · exact huse _ _ (Canonical.frame (.ite (.foldl (fun _ _ h' => h'.fillFor) (h.checkBlock.of_eq ‹_›)) (.modDrill (.foldl
      (fun _ _ h' => h'.fillFor) (h.checkBlock.of_eq ‹_›)))))

protected theorem Canonical.execSvldSavev (h : Canonical s) {a c} : Answers (execSvldSavev a c s) := h.issue fun _ _ h' => h'.saveBlock

protected theorem Canonical.execSvldLoadv (h : Canonical s) {a c} :
    Answers (execSvldLoadv a c s) :=
  h.issue fun _ _ h' => h'.loadBlock fun _ _ h₁ => h₁.update.noEffect

protected theorem Canonical.execSvldSaveu (h : Canonical s) {a c} : Answers (execSvldSaveu a c s) := h.issue fun _ _ h' => h'.saveBlock

protected theorem Canonical.execSvldLoadu (h : Canonical s) {a c} :
    Answers (execSvldLoadu a c s) :=
  h.issue fun _ _ h' => h'.loadBlock fun _ _ h₁ => h₁.update.noEffect

protected theorem Canonical.execSvldSavep (h : Canonical s) {a c} : Answers (execSvldSavep a c s) := h.issue fun _ _ h' => h'.saveBlock

protected theorem Canonical.execSvldLoadp (h : Canonical s) {a c} :
    Answers (execSvldLoadp a c s) :=
  h.issue fun _ _ h' => h'.loadBlock fun _ _ h₁ => InEff.ite InEff.trap h₁.update.noEffect

protected theorem Canonical.execSvldSavex (h : Canonical s) {a c} : Answers (execSvldSavex a c s) := h.issue fun _ _ h' => h'.saveBlock

protected theorem Canonical.execSvldLoadx (h : Canonical s) {a c} :
    Answers (execSvldLoadx a c s) :=
  h.issue fun _ _ h' => h'.loadBlock fun _ _ h₁ => h₁.update.noEffect

protected theorem Canonical.execTsave (h : Canonical s) {t a c} :
    Answers (execTsave t a c s) :=
  h.issue fun _ _ h' => InEff.ite InEff.trap h'.update.saveBlock

protected theorem Canonical.execTload (h : Canonical s) {t a c} :
    Answers (execTload t a c s) :=
  h.issue fun _ _ h' => h'.loadBlock fun _ _ h₁ => InEff.ite InEff.trap h₁.update.noEffect

/-! #### `Sys2Proof/Machine/Local.lean` -/

protected theorem Canonical.idleOp (h : Canonical s) {x} : InEff (idleOp x s) := h.startOp

protected theorem Canonical.execRingCfg (h : Canonical s) {a b c} :
    Answers (execRingCfg a b c s) :=
  h.issue fun _ _ h' => InEff.ite h'.noEffect (InEff.ite InEff.trap (InEff.ite InEff.trap (InEff.ite InEff.trap
    (InEff.ite InEff.trap h'.modGroup.noEffect))))

protected theorem Canonical.ringAsk (h : Canonical s) {x a claim} :
    InEff (ringAsk x s a claim) :=
  InEff.ite h.idleOp (InEff.ite InEff.trap h.modGroup.startOp)

protected theorem Canonical.execRingClm (h : Canonical s) {d a c} : Answers (execRingClm d a c s) := h.issue fun _ _ h' => h'.ringAsk

protected theorem Canonical.execRingWtf (h : Canonical s) {d a c} : Answers (execRingWtf d a c s) := h.issue fun _ _ h' => h'.ringAsk

protected theorem Canonical.execRingWte (h : Canonical s) {d a c} :
    Answers (execRingWte d a c s) :=
  h.issue fun _ _ h' => InEff.ite h'.idleOp (InEff.ite InEff.trap h'.startOp)

protected theorem Canonical.execRingQry (h : Canonical s) {d a c} :
    Answers (execRingQry d a c s) :=
  h.issue fun _ _ h' => InEff.ite h'.idleOp h'.startOp

protected theorem Canonical.ringGive (h : Canonical s) {x a b need kind} : InEff (ringGive x s a b need kind) := by
  unfold ringGive
  dsimp only
  refine InEff.ite h.noEffect ?_
  split
  · exact InEff.trap
  · exact InEff.ite h.enqueue InEff.trap

protected theorem Canonical.execRingPub (h : Canonical s) {a b c} : Answers (execRingPub a b c s) := h.issue fun _ _ h' => h'.ringGive

protected theorem Canonical.execRingRel (h : Canonical s) {a b c} : Answers (execRingRel a b c s) := h.issue fun _ _ h' => h'.ringGive

protected theorem Canonical.execStashMap (h : Canonical s) {a b c} :
    Answers (execStashMap a b c s) :=
  h.issue fun _ _ h' => InEff.ite h'.noEffect (InEff.ite InEff.trap (InEff.ite InEff.trap (InEff.ite InEff.trap h'.modGroup.noEffect)))

protected theorem Canonical.stashBody (h : Canonical s) {x a op} :
    InEff (stashBody x s a op) :=
  InEff.ite h.noEffect (InEff.ite InEff.trap h.enqueue)

protected theorem Canonical.execStashUnmap (h : Canonical s) {a c} : Answers (execStashUnmap a c s) := h.issue fun _ _ h' => h'.stashBody

protected theorem Canonical.execStashFlush (h : Canonical s) {a c} : Answers (execStashFlush a c s) := h.issue fun _ _ h' => h'.stashBody

protected theorem Canonical.execStashInv (h : Canonical s) {a c} : Answers (execStashInv a c s) := h.issue fun _ _ h' => h'.stashBody

protected theorem Canonical.copyBody (h : Canonical s) {x form a} : InEff (copyBody x s form a) := by
  unfold copyBody
  dsimp only
  refine InEff.ite h.enqueue ?_
  split
  · exact InEff.trap
  · exact h.enqueue

protected theorem Canonical.execCpyGl (h : Canonical s) {a c} : Answers (execCpyGl a c s) := h.issue fun _ _ h' => h'.copyBody

protected theorem Canonical.execCpyLg (h : Canonical s) {a c} : Answers (execCpyLg a c s) := h.issue fun _ _ h' => h'.copyBody

protected theorem Canonical.execCpyGg (h : Canonical s) {a c} : Answers (execCpyGg a c s) := h.issue fun _ _ h' => h'.copyBody

protected theorem Canonical.execCpyGb (h : Canonical s) {a c} : Answers (execCpyGb a c s) := h.issue fun _ _ h' => h'.copyBody

protected theorem Canonical.execCpyLb (h : Canonical s) {a c} : Answers (execCpyLb a c s) := h.issue fun _ _ h' => h'.copyBody

protected theorem Canonical.execCpyFill (h : Canonical s) {a c} : Answers (execCpyFill a c s) := h.issue fun _ _ h' => h'.copyBody

/-! #### `Sys2Proof/Machine/Sync.lean` -/

protected theorem Canonical.testBar (h : Canonical s) {gid b} : Canonical (s.testBar gid b) := by
  unfold State.testBar
  dsimp only
  split
  · exact h
  · exact Canonical.ite h.setGroup h

protected theorem Canonical.testBars (h : Canonical s) {gid} : Canonical (s.testBars gid) := Canonical.foldl (fun _ _ h' => h'.testBar) h

protected theorem Canonical.testCroft (h : Canonical s) {croft} : Canonical (s.testCroft croft) := by
  unfold State.testCroft
  dsimp only
  split
  · exact h
  · exact Canonical.ite h.frame h

protected theorem Canonical.testGrid (h : Canonical s) {launch} : Canonical (s.testGrid launch) := by
  unfold State.testGrid
  dsimp only
  split
  · exact h
  · exact Canonical.ite h.frame h

protected theorem Canonical.retest (h : Canonical s) {gid} : Canonical (s.retest gid) := by
  unfold State.retest
  split
  · exact h
  · exact h.testBars.testCroft.testGrid

protected theorem Canonical.arriveBar (h : Canonical s) {x b m all} : InOk (arriveBar x s b m all) := by
  unfold arriveBar
  dsimp only
  split
  · trivial
  · exact h.modGroup.stamp.modDrill.testBar

protected theorem Canonical.waitBar (h : Canonical s) {k b} : InEff (waitBar s k b) := InEff.ite h.modDrill.noEffect h.wait

protected theorem Canonical.execBarAll (h : Canonical s) {a b c} : Answers (execBarAll a b c s) := by
  unfold execBarAll
  dsimp only
  refine h.issue fun x s h' => ?_
  split
  · exact InEff.trap
  refine InEff.ite h'.waitBar ?_
  split
  · exact InEff.trap
  · exact Canonical.waitBar (h'.arriveBar.of_eq ‹_›)

protected theorem Canonical.execBarPost (h : Canonical s) {a b c} : Answers (execBarPost a b c s) := by
  unfold execBarPost
  refine h.issue fun x s h' => ?_
  split
  · exact InEff.trap
  split
  · exact InEff.trap
  · exact Canonical.noEffect (h'.arriveBar.of_eq ‹_›)

protected theorem Canonical.execBarHold (h : Canonical s) {a c} : Answers (execBarHold a c s) := by
  unfold execBarHold
  dsimp only
  refine h.issue fun x s h' => ?_
  split
  · exact InEff.trap
  · exact Canonical.waitBar (.ite h' h'.modDrill)

protected theorem Canonical.lostWait (h : Canonical s) {x code sub} : InEff (lostWait x s code sub) := h.modDrill.wait

protected theorem Canonical.execBarCroft (h : Canonical s) {c} :
    Answers (execBarCroft c s) :=
  h.issue fun _ _ h' => InEff.ite h'.lostWait (InEff.ite (Canonical.wait (Canonical.ite h' h'.stamp.modDrill.modGroup.testCroft))
    (Canonical.noEffect (Canonical.invalL1 (Canonical.modGroup (Canonical.ite h' h'.stamp.modDrill.modGroup.testCroft)))))

protected theorem Canonical.execBarGrid (h : Canonical s) {c} :
    Answers (execBarGrid c s) :=
  h.issue fun _ _ h' => InEff.ite InEff.trap (InEff.ite h'.lostWait (InEff.ite (Canonical.wait
    (Canonical.ite h' h'.stamp.modDrill.modGroup.testGrid)) (Canonical.noEffect (Canonical.invalL1 (Canonical.modGroup
    (Canonical.ite h' h'.stamp.modDrill.modGroup.testGrid))))))

protected theorem Canonical.mbarCheck (h : Canonical s) {x a acc} : InOkSnd (mbarCheck x s a acc) := by
  unfold mbarCheck
  dsimp only
  split
  · trivial
  split
  · trivial
  · split
    · exact h.checkAccess.of_eq ‹_›
    · trivial
  trivial

protected theorem Canonical.mbarQueue (h : Canonical s) {x a bad kind} : InEff (mbarQueue x s a bad kind) := by
  unfold mbarQueue
  split
  · exact InEff.trap
  · exact InEff.ite InEff.trap (Canonical.enqueue (h.mbarCheck.of_eq ‹_›))

protected theorem Canonical.execMbarInit (h : Canonical s) {a b c} : Answers (execMbarInit a b c s) := h.issue fun _ _ h' => h'.mbarQueue

protected theorem Canonical.execMbarArr (h : Canonical s) {a b c} : Answers (execMbarArr a b c s) := h.issue fun _ _ h' => h'.mbarQueue

protected theorem Canonical.execMbarInv (h : Canonical s) {a c} : Answers (execMbarInv a c s) := h.issue fun _ _ h' => h'.mbarQueue

protected theorem Canonical.execMbarTest (h : Canonical s) {d a b c} : Answers (execMbarTest d a b c s) := by
  unfold execMbarTest
  refine h.issue fun x s h' => ?_
  split
  · exact InEff.trap
  · exact Canonical.startOp (h'.mbarCheck.of_eq ‹_›)

protected theorem Canonical.mbarComplete (h : Canonical s) {x scope} :
    InEff (mbarComplete x s scope) :=
  Canonical.noEffect (Canonical.ite h.invalL1 h)

protected theorem Canonical.execMbarWait (h : Canonical s) {a b c} : Answers (execMbarWait a b c s) := by
  unfold execMbarWait
  dsimp only
  refine h.issue fun x s h' => ?_
  split
  · split
    · exact h'.mbarComplete
    · exact InEff.trap
    · exact h'.wait
  split
  · exact InEff.trap
  · exact InEff.ite (Canonical.wait (h'.mbarCheck.of_eq ‹_›)) (InEff.ite InEff.trap (InEff.ite InEff.trap (InEff.ite
      (Canonical.mbarComplete (h'.mbarCheck.of_eq ‹_›)) (Canonical.wait (.modDrill (h'.mbarCheck.of_eq ‹_›))))))

protected theorem Canonical.watch (h : Canonical s) : Canonical (s.watch) := Canonical.ite h h.frame

/-! #### `Sys2Proof/Machine/Launch.lean` -/

protected theorem Canonical.serviceRead (h : Canonical s) {ctx va n} : InService (s.serviceRead ctx va n) := by
  unfold State.serviceRead
  split
  · trivial
  split
  · split <;> trivial
  split
  · trivial
  split
  · trivial
  · exact h.translate.of_eq ‹_›

protected theorem Canonical.kcbFor (h : Canonical s) {ctx p named} : InOkSnd (s.kcbFor ctx p named) := by
  unfold State.kcbFor
  split
  · trivial
  · trivial
  split
  · trivial
  split
  · exact h.serviceRead.of_eq ‹_›
  · trivial

protected theorem Canonical.refresh (h : Canonical s) : Canonical (s.refresh) := h.frame

protected theorem Canonical.setEvents (h : Canonical s) {ctx w mask on} : Canonical (s.setEvents ctx w mask on) := h.modCtx.refresh

protected theorem Canonical.queueMsi (h : Canonical s) {q} : Canonical (s.queueMsi q) := h.msi

protected theorem Canonical.popHead (h : Canonical s) {n} : Canonical (s.popHead n) := Canonical.ite h.setQueue.refresh.queueMsi h.setQueue.refresh

protected theorem Canonical.discardBad (h : Canonical s) {n} : Canonical (s.discardBad n) := by
  unfold State.discardBad
  dsimp only
  split
  · exact h
  refine Canonical.ite h.popHead ?_
  split
  · exact h
  · exact Canonical.ite h.setQueue.queueMsi h.setQueue

protected theorem Canonical.queueError (h : Canonical s) {n cause} : Canonical (s.queueError n cause) := h.setQueue.queueMsi

protected theorem Canonical.failEntry (h : Canonical s) {n id cause} : Canonical (s.failEntry n id cause) := h.frame.setQueue.queueError

protected theorem Canonical.newLaunch (h : Canonical s) {n e p k} : Canonical (s.newLaunch n e p k).2 := by
  unfold State.newLaunch
  dsimp only
  exact h.stamp.frame.setQueue

protected theorem Canonical.fresh (h : Canonical s) {n e named} : InFresh (s.fresh n e named) := by
  unfold State.fresh
  dsimp only
  split
  · split
    · exact h
    split
    · trivial
    split
    · exact h.failEntry
    split
    · exact h.failEntry
    split
    · split
      · exact h.frame
      · exact h.failEntry
    split
    · split
      · trivial
      · exact h.failEntry
    exact Canonical.frame (h.kcbFor.of_eq ‹_›)
  split
  · trivial
  split
  · exact h.failEntry
  split
  · exact h.failEntry
  split
  · split
    · trivial
    · exact h.failEntry
  exact Canonical.newLaunch (h.kcbFor.of_eq ‹_›)

protected theorem Canonical.reserve (h : Canonical s) {n hart} : Canonical (s.reserve n hart).2 := by
  unfold State.reserve
  dsimp only
  exact h.stamp.setQueue

protected theorem Canonical.postEntry (h : Canonical s) {n id pa snap} : Canonical (s.postEntry n id pa snap) := h.setQueue

protected theorem Canonical.lnch {idle : Eff} {act : Eff} (h : Canonical s) (hidle : InEff idle) (hact : InEff act) {x bad} :
    InEff (lnch x s bad idle act) :=
  by
  unfold lnch
  refine InEff.ite hidle (InEff.ite InEff.trap ?_)
  split
  · exact h.noEffect
  · exact hact

protected theorem Canonical.execLnchPost (h : Canonical s) {a b c} : Answers (execLnchPost a b c s) := by
  unfold execLnchPost
  dsimp only
  refine h.issue fun _ _ h' => h'.lnch h'.noEffect (h'.withCtx (fun cx => ?_))
  split
  · exact InEff.trap
  · exact InEff.ite InEff.trap (InEff.ite InEff.trap (InEff.ite InEff.trap (Canonical.enqueue (.reserve (h'.checkAccess.of_eq ‹_›)))))

protected theorem Canonical.evBody (h : Canonical s) {x a b on} : InEff (evBody x s a b on) := h.lnch h.noEffect h.enqueue

protected theorem Canonical.execLnchEvsig (h : Canonical s) {a b c} : Answers (execLnchEvsig a b c s) := h.issue fun _ _ h' => h'.evBody

protected theorem Canonical.execLnchEvclr (h : Canonical s) {a b c} : Answers (execLnchEvclr a b c s) := h.issue fun _ _ h' => h'.evBody

protected theorem Canonical.execLnchEvtst (h : Canonical s) {d a b c} :
    Answers (execLnchEvtst d a b c s) :=
  h.issue fun _ _ h' => h'.lnch h'.idleOp h'.startOp

protected theorem Canonical.succOf (h : Canonical s) {n own head e} : Canonical (s.succOf n own head e).2 := by
  unfold State.succOf
  dsimp only
  split
  · split
    · split
      · exact h
      split
      · exact h
      · exact h.fresh.of_bad ‹_›
      · split <;> exact h.fresh.of_eq ‹_›
    split
    · exact h
    split
    · exact h
    · exact h.fresh.of_bad ‹_›
    · split <;> exact h.fresh.of_eq ‹_›
  exact h

protected theorem Canonical.pickFrom (h : Canonical s) {n own l} : Canonical (State.pickFrom n own l s).2 := by
  induction l generalizing s with
  | nil => exact h
  | cons e r ih =>
    unfold State.pickFrom
    split
    · exact ih (h.succOf.of_snd ‹_›)
    · exact h.succOf

protected theorem Canonical.pickSucc (h : Canonical s) {n own} : Canonical (s.pickSucc n own).2 := h.pickFrom

protected theorem Canonical.succCheck (h : Canonical s) {x w} : Canonical (succCheck x s w).2 := by
  unfold succCheck
  dsimp only
  split
  · exact h
  split
  · exact h
  · split <;> exact Canonical.of_snd h.pickSucc ‹_›

protected theorem Canonical.groupExits (h : Canonical s) {gid} : Canonical (s.groupExits gid) := by
  unfold State.groupExits
  split
  · exact h
  · exact Canonical.ite h.setGroup h

protected theorem Canonical.exitDrill (h : Canonical s) {k fn word} : Canonical (s.exitDrill k fn word) := by
  unfold State.exitDrill
  dsimp only
  split
  · exact h
  · exact h.modDrill.modGroup.groupExits.restored.retest

protected theorem Canonical.execExit (h : Canonical s) {c} :
    Answers (execExit c s) :=
  h.issue fun _ _ h' => InEff.mk h' fun _ h₁ => Canonical.ite h₁.landAll.modDrill h₁.exitDrill

protected theorem Canonical.execExitSucc (h : Canonical s) {a c} : Answers (execExitSucc a c s) := by
  unfold execExitSucc
  refine h.issue fun x s h' => ?_
  split
  · exact InEff.trap
  · exact Canonical.fail (Canonical.of_snd h'.succCheck ‹_›)
  · exact InEff.mk (Canonical.of_snd h'.succCheck ‹_›) fun _ h₁ => h₁.exitDrill

/-! #### `Sys2Proof/Machine/Tenure.lean` -/

protected theorem Canonical.setStack (h : Canonical s) {k t} : Canonical (s.setStack k t) := h.frame

protected theorem Canonical.cedeDone (h : Canonical s) {c} : Canonical (s.cedeDone c) := by
  unfold State.cedeDone
  dsimp only
  split
  · exact h
  refine Canonical.ite h (.ite ?_ h.setGroup)
  split
  · exact h.setGroup.modDrill
  · exact h.setGroup

protected theorem Canonical.cedeDrop (h : Canonical s) {c code sub} : Canonical (s.cedeDrop c code sub) := by
  unfold State.cedeDrop
  split
  · exact h
  split
  · exact h.modDrill
  · exact h

protected theorem Canonical.cedesDone (h : Canonical s) {l} : Canonical (s.cedesDone l) := Canonical.foldl (fun _ _ h' => h'.cedeDone) h

protected theorem Canonical.stackInval (h : Canonical s) {k} : Canonical (s.stackInval k) :=
  h.mapCores (fun _ c => { c with
    l1d := c.l1d.filter fun p => !inStack k (128 * p.1)
    icache := c.icache.filter fun p => !inStack k (128 * p.1) }) (fun _ _ => rfl) rfl

protected theorem Canonical.stackRegrant (h : Canonical s) {k holder right} : Canonical (s.stackRegrant k holder right) := h.stackInval.setStack

protected theorem Canonical.takesMet (h : Canonical s) {k side} : Canonical (s.takesMet k side) := h.frame

protected theorem Canonical.takesLost (h : Canonical s) {k side} : Canonical (s.takesLost k side) := h.frame

protected theorem Canonical.startNext (h : Canonical s) {k l} : Canonical (s.startNext k l) := by
  induction l generalizing s with
  | nil => exact h.setStack
  | cons c r ih =>
    unfold State.startNext
    split
    · exact ih h.cedeDone
    split
    · exact ih h.cedeDrop
    · exact h.stamp.setStack

protected theorem Canonical.stackHeld (h : Canonical s) {k} :
    Canonical (s.stackHeld k) :=
  Canonical.ite h.setStack.cedesDone.stackRegrant (Canonical.ite h.setStack.cedesDone.stackInval.setStack
    h.setStack.cedesDone.setStack.cedesDone.startNext)

protected theorem Canonical.cedeAccept (h : Canonical s) {k c} : Canonical (s.cedeAccept k c) := by
  unfold State.cedeAccept
  dsimp only
  refine Canonical.ite h.cedeDrop (.ite ?_ (.ite h.startNext h.setStack))
  split
  · exact h.cedeDone
  · exact h.setStack
  · exact h.setStack

protected theorem Canonical.execCedeAccept (h : Canonical s) {stk} : Answers (execCedeAccept stk s) := by
  unfold execCedeAccept
  dsimp only
  split
  · exact h
  · exact Canonical.ite h.setStack.cedeAccept h.setStack.cedeDrop

protected theorem Canonical.drainL2 (h : Canonical s) {k chip} :
    Canonical (s.drainL2 k chip) :=
  Canonical.frame (Canonical.foldl (fun _ _ h' => h'.cleanLine.frame) h)

protected theorem Canonical.clearPath (h : Canonical s) {k chip} : Canonical (s.clearPath k chip) := h.frame

protected theorem Canonical.revokeIn (h : Canonical s) {k chip} : Canonical (s.revokeIn k chip) := h.frame

protected theorem Canonical.execHandoverDrainStep (h : Canonical s) {stk} : Answers (execHandoverDrainStep stk s) := by
  unfold execHandoverDrainStep
  dsimp only
  refine Answers.ite h ?_
  split
  · exact h.setStack
  · exact Canonical.ite h.setStack h
  · exact h.drainL2.setStack
  · exact h.clearPath.setStack
  · exact h.revokeIn.setStack
  · exact h

protected theorem Canonical.execHandoverPortOpen (h : Canonical s) {stk} :
    Answers (execHandoverPortOpen stk s) :=
  Answers.ite h h.setStack.takesMet.stackHeld

/-- Bytes of home memory become zero. -/
protected theorem Canonical.filterMem {s : State} (h : Canonical s) {p : Host.Cell → Bool} : Canonical { s with mem := s.mem.filter p } :=
  ⟨Laws.cellsWf_filter h.mem p, h.ls⟩

protected theorem Canonical.execStackZeroingDone (h : Canonical s) {stk} : Answers (execStackZeroingDone stk s) :=
  Answers.ite h h.filterMem.stackHeld

protected theorem Canonical.forcedTake (h : Canonical s) {k side} :
    Canonical (s.forcedTake k side) :=
  Canonical.ite h (Canonical.stackHeld (Canonical.takesMet (Canonical.foldl (fun _ _ h' => h'.cedeDrop) (Canonical.setStack
    (Canonical.revokeIn (Canonical.foldl (fun _ _ h' => h'.poisonLine) h))))))

protected theorem Canonical.stackIsolated (h : Canonical s) {k chip} : Canonical (s.stackIsolated k chip) := by
  unfold State.stackIsolated
  dsimp only
  split
  · exact h
  · exact Canonical.ite h.takesLost (.ite h.takesLost.setStack.forcedTake (.ite (.stackHeld (.foldl
      (fun _ _ h' => h'.cedeDrop) h.takesLost.setStack)) h.takesLost))

protected theorem Canonical.stackRetire (h : Canonical s) {ctx} : Canonical (s.stackRetire ctx) := by
  unfold State.stackRetire
  dsimp only
  refine Canonical.foldl (fun _ _ h' => Canonical.ite h' ?_) h
  split
  · exact h'.stackRegrant
  · exact h'.setStack
  · exact h'.setStack
  · exact h'.setStack

protected theorem Canonical.cedeSend (h : Canonical s) {gid idx ctx k side tk1} : Canonical (s.cedeSend gid idx ctx k side tk1) := h.setStack

protected theorem Canonical.execStkCede (h : Canonical s) {sd c} : Answers (execStkCede sd c s) := by
  refine h.issue fun x s h => ?_
  dsimp only
  split
  · exact h.noEffect
  split
  · exact InEff.trap
  split
  · exact InEff.trap
  · exact h.stamp.modDrill.ok

protected theorem Canonical.execStkTake (h : Canonical s) {sd c} :
    Answers (execStkTake sd c s) :=
  h.issue fun _ _ h' => InEff.ite h'.noEffect (InEff.ite h'.wait (InEff.ite InEff.trap (InEff.ite InEff.trap
    (InEff.ite h'.invalL1.noEffect h'.wait))))

protected theorem Canonical.execStkQry (h : Canonical s) {d sd c} :
    Answers (execStkQry d sd c s) :=
  h.issue fun _ _ h' => InEff.ite h'.idleOp h'.startOp

/-! #### `Sys2Proof/Machine/Boundary.lean` -/

protected theorem Canonical.execSwathArbitration (h : Canonical s) {die core slot} : Answers (execSwathArbitration die core slot s) := by
  unfold execSwathArbitration
  dsimp only
  refine Answers.ite h ?_
  split
  · exact h
  · exact h.setCore.setDrill

protected theorem Canonical.abandonWait (h : Canonical s) {k d e} : Canonical (s.abandonWait k d e) := h.setDrill.advance

protected theorem Canonical.execLongWaitMet (h : Canonical s) {k} : Answers (execLongWaitMet k s) := by
  unfold execLongWaitMet
  split
  · exact h
  · exact Answers.ite h.setDrill (Answers.ite h.abandonWait h)

protected theorem Canonical.execWaitiDeadline (h : Canonical s) {k} : Answers (execWaitiDeadline k s) := by
  unfold execWaitiDeadline
  split
  · exact h
  · exact Answers.ite h (Answers.ite h.setDrill (Answers.ite h.setDrill h))

protected theorem Canonical.execStallEnd (h : Canonical s) {k} : Answers (execStallEnd k s) := by
  unfold execStallEnd
  split
  · exact h
  split
  · exact h
  refine Answers.ite h ?_
  split
  · exact h.takeTrap
  · exact Canonical.ite h.setDrill h.abandonWait
  · exact h.setDrill

protected theorem Canonical.execResultLanding (h : Canonical s) {k} : Answers (execResultLanding k s) := by
  unfold execResultLanding
  split
  · exact h
  · exact Answers.ite h h.advance

protected theorem Canonical.boundaryTake (h : Canonical s) {k d t} : Canonical (s.boundaryTake k d t) := h.takeTrap

protected theorem Canonical.execBoundaryTrap (h : Canonical s) {k} : Answers (execBoundaryTrap k s) := by
  unfold execBoundaryTrap
  split
  · exact h
  refine Answers.ite h ?_
  split
  · exact h.setDrill.boundaryTake
  · exact Answers.ite h h.setDrill.boundaryTake
  · exact h

protected theorem Canonical.endPark (h : Canonical s) {k d} : Canonical (s.endPark k d) := by
  unfold State.endPark
  dsimp only
  split
  · split
    · exact h.withdrawSys.modDrill
    · exact h.withdrawSys
  exact h

protected theorem Canonical.leavePark (h : Canonical s) {k d code} : Canonical (s.leavePark k d code) := by
  unfold State.leavePark
  dsimp only
  split
  · exact h.endPark.modDrill
  split
  · exact h.endPark.modDrill
  refine Canonical.ite h.endPark.modDrill.toVector (.ite h.endPark.modDrill.cancelSucc.toVector ?_)
  split
  · exact h.endPark.modDrill.cancelSucc
  · exact h.endPark.modDrill.cancelSucc.addSys.parkOn

protected theorem Canonical.execOverrun (h : Canonical s) {k} : Answers (execOverrun k s) := by
  unfold execOverrun
  dsimp only
  split
  · exact h
  · exact Answers.ite h (Answers.ite h.setDrill.leavePark (Answers.ite h.setDrill.boundaryTake h))

protected theorem Canonical.execPreempt (h : Canonical s) {k} : Answers (execPreempt k s) := by
  unfold execPreempt
  split
  · exact h
  · exact Answers.ite h (Answers.ite h.leavePark (Answers.ite h.boundaryTake h))

protected theorem Canonical.execBudgetExhausted (h : Canonical s) {ctx} : Answers (execBudgetExhausted ctx s) := by
  unfold execBudgetExhausted
  dsimp only
  split
  · exact h
  · exact Answers.ite h h.modCtx.frame

protected theorem Canonical.deliver (h : Canonical s) {k g} : Canonical (s.deliver k g) := by
  unfold State.deliver
  dsimp only
  split
  · exact h.landAll
  · exact h.landAll.setDrill.complete

protected theorem Canonical.execUserInterruptDelivery (h : Canonical s) {k} : Answers (execUserInterruptDelivery k s) := by
  unfold execUserInterruptDelivery
  dsimp only
  split
  · exact h
  split
  · exact h
  · exact Answers.ite h h.deliver

protected theorem Canonical.askLine (h : Canonical s) {k line pline} : Canonical (s.askLine k line pline) := h.requestLine.modDrill

protected theorem Canonical.execFetchBufferRequest (h : Canonical s) {k} : Answers (execFetchBufferRequest k s) := by
  unfold execFetchBufferRequest
  dsimp only
  split
  · exact h
  split
  · exact h
  split
  · exact h.setDrill
  split
  · exact h.setDrill
  split
  · exact Canonical.ite h.setDrill.setDrill h.setDrill.modDrill
  · exact Answers.ite (Canonical.askLine (h.setDrill.translate.of_eq ‹_›)) (Canonical.modDrill (h.setDrill.translate.of_eq ‹_›))

protected theorem Canonical.execIcacheFillDone (h : Canonical s) {die core line} : Answers (execIcacheFillDone die core line s) := by
  unfold Machine.execIcacheFillDone
  dsimp only
  split
  · exact h
  · refine Canonical.frame (.putCore ?_ ?_)
    · exact Canonical.ite h.shareLine h.frame
    · exact h.ls _

protected theorem Canonical.execFetchFault (h : Canonical s) {k} : Answers (execFetchFault k s) := by
  unfold execFetchFault
  dsimp only
  split
  · exact h
  refine Answers.ite h (Answers.ite (Canonical.ite h.setDrill.takeTrap h.setDrill.raise) ?_)
  split
  · exact h
  split
  · exact h
  split
  · exact Canonical.ite h (.ite h.takeTrap h.raise)
  · exact Answers.ite (Canonical.ite (.takeTrap (h.translate.of_eq ‹_›)) (.raise (h.translate.of_eq ‹_›))) (Answers.ite (Canonical.ite
      (.takeTrap (h.translate.of_eq ‹_›)) (.raise (h.translate.of_eq ‹_›))) (Canonical.askLine (h.translate.of_eq ‹_›)))

/-! #### `Sys2Proof/Machine/Fabric.lean` -/

protected theorem Canonical.setPlot (h : Canonical s) {key p} : Canonical (s.setPlot key p) := h.frame

protected theorem Canonical.newStore (h : Canonical s) {die logR logC row0 col0 ctx} : Canonical (s.newStore die logR logC row0 col0 ctx).2 := by
  unfold State.newStore
  dsimp only
  split
  · exact h
  split
  · exact h
  · exact h.free

protected theorem Canonical.carve (h : Canonical s) {die num logR logC row0 col0 ctx} :
    Canonical (s.carve die num logR logC row0 col0 ctx) :=
  h.newStore.setPlot.frame

protected theorem Canonical.plotDone (h : Canonical s) {gid by_ drop} : Canonical (s.plotDone gid by_ drop) := by
  unfold State.plotDone
  split
  · exact h
  refine Canonical.foldl (fun s b h' => ?_) h
  split
  · exact h'.modDrill
  · exact h'

protected theorem Canonical.discardRuns (h : Canonical s) {key flight} : Canonical (s.discardRuns key flight) := by
  unfold State.discardRuns
  dsimp only
  split
  · exact h
  split
  · exact Canonical.foldl (fun _ _ h' => h'.plotDone) h.setPlot
  · exact h.setPlot

protected theorem Canonical.plotStop (h : Canonical s) {key} : Canonical (s.plotStop key) := by
  unfold State.plotStop
  dsimp only
  split
  · exact h.discardRuns
  · exact Canonical.ite h.discardRuns.setPlot h.discardRuns.setPlot

protected theorem Canonical.plotError (h : Canonical s) {key cause} : Canonical (s.plotError key cause) := by
  unfold State.plotError
  dsimp only
  split
  · exact h
  refine Canonical.ite h.plotStop ?_
  split
  · exact h.plotStop.trapGroup
  · exact h.plotStop

protected theorem Canonical.plotIdle (h : Canonical s) {key} : Canonical (s.plotIdle key) := by
  unfold State.plotIdle
  split
  · exact h
  · exact Canonical.ite h (.ite h.setPlot (.ite h.setPlot h))

protected theorem Canonical.plotLost (h : Canonical s) {gid} : Canonical (s.plotLost gid) := h.modGroup.trapGroup

protected theorem Canonical.uncarve (h : Canonical s) {key} : Canonical (s.uncarve key) := by
  unfold State.uncarve
  dsimp only
  split
  · exact h.discardRuns
  split
  · exact Canonical.ite h.discardRuns.frame h.discardRuns.frame.plotLost
  · exact h.discardRuns.frame

protected theorem Canonical.plotRelease (h : Canonical s) {gid} : Canonical (s.plotRelease gid) := by
  unfold State.plotRelease
  dsimp only
  split
  · exact h
  split
  · exact h
  split
  · exact h.setGroup
  · split <;> exact h.setGroup.setPlot

protected theorem Canonical.plotCut (h : Canonical s) {key} : Canonical (s.plotCut key) := by
  unfold State.plotCut
  dsimp only
  split
  · exact h
  split
  · exact h
  split
  · exact Canonical.plotIdle (.discardRuns (.setPlot (.ite h h.plotLost)))
  · exact Canonical.plotIdle (.discardRuns (.setPlot (.ite h h.plotLost)))
  · exact Canonical.setPlot (.ite h h.plotLost)
  · exact Canonical.ite h h.plotLost

protected theorem Canonical.plotWiped (h : Canonical s) {key} : Canonical (s.plotWiped key) := by
  unfold State.plotWiped
  dsimp only
  split
  · exact h.discardRuns
  refine Canonical.setPlot ?_
  split
  · exact Canonical.ite h.discardRuns h.discardRuns.plotLost
  · exact h.discardRuns

protected theorem Canonical.setAside (h : Canonical s) {ctx logR logC p} : Canonical (s.setAside ctx logR logC p) := by
  unfold State.setAside
  dsimp only
  split
  · exact h.frame
  · exact h.carve.frame

protected theorem Canonical.plotEntry (h : Canonical s) {x needs collective cmd vals op} :
    InEff (plotEntry x s needs collective cmd vals op) :=
  InEff.ite InEff.trap h.stamp.modDrill.ok

theorem InEff.plotWord {e : Eff} (h : InEff e) {x bad} : InEff (plotWord x bad e) := InEff.ite InEff.trap (InEff.ite InEff.trap h)

protected theorem Canonical.execPlotRsv (h : Canonical s) {d a c} :
    Answers (execPlotRsv d a c s) :=
  h.issue fun _ _ h' => InEff.ite InEff.trap h'.plotEntry

protected theorem Canonical.execPlotRel (h : Canonical s) {c} : Answers (execPlotRel c s) := h.issue fun _ _ h' => h'.plotEntry

protected theorem Canonical.execPlotQry (h : Canonical s) {d which c} : Answers (execPlotQry d which c s) := h.issue fun _ _ h' => h'.startOp

protected theorem Canonical.execPlotCarve (h : Canonical s) {a c} :
    Answers (execPlotCarve a c s) :=
  h.issue fun _ _ h' => InEff.ite InEff.trap h'.carve.noEffect

protected theorem Canonical.execPlotUncarve (h : Canonical s) {a c} :
    Answers (execPlotUncarve a c s) :=
  h.issue fun _ _ h' => InEff.ite InEff.trap h'.uncarve.noEffect

protected theorem Canonical.execPlotMerge (h : Canonical s) {a c} : Answers (execPlotMerge a c s) := h.issue fun _ _ h' => h'.plotEntry.plotWord

protected theorem Canonical.execPlotSplit (h : Canonical s) {a c} : Answers (execPlotSplit a c s) := h.issue fun _ _ h' => h'.plotEntry.plotWord

protected theorem Canonical.execBedClaim (h : Canonical s) {sl cnt c} : Answers (execBedClaim sl cnt c s) := h.issue fun _ _ h' => h'.plotEntry

protected theorem Canonical.execBedRel (h : Canonical s) {sl cnt c} : Answers (execBedRel sl cnt c s) := h.issue fun _ _ h' => h'.plotEntry

protected theorem Canonical.execBedZero (h : Canonical s) {sl cnt c} : Answers (execBedZero sl cnt c s) := h.issue fun _ _ h' => h'.plotEntry

protected theorem Canonical.execBedScl (h : Canonical s) {sl b c} : Answers (execBedScl sl b c s) := h.issue fun _ _ h' => h'.plotEntry

protected theorem Canonical.execBedLdv (h : Canonical s) {a b c} : Answers (execBedLdv a b c s) := h.issue fun _ _ h' => h'.plotEntry.plotWord

protected theorem Canonical.execMma (h : Canonical s) {f ovr slots b c} : Answers (execMma f ovr slots b c s) := h.issue fun _ _ h' => h'.plotEntry

protected theorem Canonical.execMsyncOpf (h : Canonical s) {c} : Answers (execMsyncOpf c s) := h.issue fun _ _ h' => h'.plotEntry

protected theorem Canonical.execMsyncWait (h : Canonical s) {c} :
    Answers (execMsyncWait c s) :=
  h.issue fun _ _ h' => InEff.ite h'.invalL1.noEffect h'.wait

protected theorem Canonical.execMsyncDrain (h : Canonical s) {c} : Answers (execMsyncDrain c s) := h.issue fun _ _ h' => h'.plotEntry

protected theorem Canonical.execArd (h : Canonical s) {f bf d b c} : Answers (execArd f bf d b c s) := h.issue fun _ _ h' => h'.plotEntry.plotWord

protected theorem Canonical.execAwr (h : Canonical s) {a b c} : Answers (execAwr a b c s) := h.issue fun _ _ h' => h'.plotEntry.plotWord

protected theorem Canonical.execAst (h : Canonical s) {f a c} : Answers (execAst f a c s) := h.issue fun _ _ h' => h'.plotEntry.plotWord

protected theorem Canonical.execAzr (h : Canonical s) {bank c} : Answers (execAzr bank c s) := h.issue fun _ _ h' => h'.plotEntry

/-! #### `Sys2Proof/Machine/Contexts.lean` -/

protected theorem Canonical.endLaunch (h : Canonical s) {n apply} : Canonical (s.endLaunch n apply) := by
  unfold State.endLaunch
  dsimp only
  split
  · exact h
  · exact Canonical.ite (.foldl (fun _ _ h' => h'.setEvents) h.frame) h.frame

protected theorem Canonical.launchStep (h : Canonical s) {n} : Canonical (s.launchStep n) := by
  unfold State.launchStep
  split
  · exact h
  · exact Canonical.ite h.endLaunch (.ite h.endLaunch h)

protected theorem Canonical.drainQueue (h : Canonical s) {n} :
    Canonical (s.drainQueue n) :=
  Canonical.foldl (fun _ _ h' => Canonical.ite h' h'.frame.launchStep) (Canonical.ite h.setQueue.queueMsi h.setQueue)

protected theorem Canonical.ctxEnter (h : Canonical s) {n st} : Canonical (s.ctxEnter n st) := by
  unfold State.ctxEnter
  dsimp only
  split
  · exact h.modCtx.ctxMsi
  · exact h.modCtx.ctxMsi
  · exact h.modCtx.ctxMsi
  · exact h.modCtx

protected theorem Canonical.drainQueues (h : Canonical s) {ctx} : Canonical (s.drainQueues ctx) := Canonical.foldl (fun _ _ h' => h'.drainQueue) h

protected theorem Canonical.killCtx (h : Canonical s) {n} : Canonical (s.killCtx n) := by
  unfold State.killCtx
  dsimp only
  split
  · exact h
  split
  · exact h.ctxEnter.drainQueues.stackRetire
  · exact Canonical.drainQueues (.withdrawSys (.frame (.foldl (fun _ _ h' => h'.uncarve) (.foldl
      (fun _ _ h' => h'.loseGroup) h.ctxEnter))))
  · exact Canonical.drainQueues (.withdrawSys (.frame (.foldl (fun _ _ h' => h'.uncarve) (.foldl
      (fun _ _ h' => h'.loseGroup) h.ctxEnter))))
  · exact Canonical.drainQueues (.withdrawSys (.frame (.foldl (fun _ _ h' => h'.uncarve) (.foldl
      (fun _ _ h' => h'.loseGroup) h.ctxEnter))))
  · exact Canonical.drainQueues (.withdrawSys (.frame (.foldl (fun _ _ h' => h'.uncarve) (.foldl
      (fun _ _ h' => h'.loseGroup) h.ctxEnter))))
  · exact h

protected theorem Canonical.retireCtx (h : Canonical s) {n} : Canonical (s.retireCtx n) := h.frame.ctxEnter.drainQueues.stackRetire

protected theorem Canonical.execContextRetire (h : Canonical s) {ctx} : Answers (execContextRetire ctx s) := by
  unfold execContextRetire
  split
  · exact Answers.ite h.retireCtx h
  · exact h

protected theorem Canonical.suspend (h : Canonical s) : Canonical (s.suspend) := Canonical.foldl (fun _ _ h' => h'.ctxEnter) h

protected theorem Canonical.hartRun {body : ℕ → Hart → HartEff} (h : Canonical s) (hbody : ∀ y0 y1, InHart (body y0 y1)) {rd} :
    Answers (hartRun s rd body) :=
  by
  unfold hartRun
  dsimp only
  split
  · split
    · exact Canonical.setHart ((hbody _ _).of_eq ‹_›)
    · exact h.setHart
    · exact h
  trivial

protected theorem Canonical.hartPriv {body : ℕ → Hart → HartEff} (h : Canonical s) (hbody : ∀ y0 y1, InHart (body y0 y1)) {rd} :
    Answers (hartPriv s rd body) :=
  by
  unfold hartPriv
  refine h.hartRun fun n y => ?_
  split
  · exact hbody _ _
  · exact hbody _ _
  · exact InHart.trap
  · exact InHart.trap
  · exact InHart.trap

protected theorem Canonical.execSvlStkgrant (h : Canonical s) {rd rs1 rs2} :
    Answers (execSvlStkgrant rd rs1 rs2 s) :=
  h.hartPriv fun _ _ => InHart.ite h.done (InHart.ite h.done (InHart.ite h.setStack.done (InHart.ite h.done h.stackRegrant.done)))

protected theorem Canonical.ctxctl {body : ℕ → DWord → HartEff} (h : Canonical s) (hbody : ∀ y0 y1, InHart (body y0 y1)) {rd rs1 rs2 zero} :
    Answers (ctxctl s rd rs1 rs2 zero body) :=
  h.hartPriv fun _ _ => InHart.ite h.done (hbody _ _)

protected theorem Canonical.execCtxBuild (h : Canonical s) {rd rs1 rs2} : Answers (execCtxBuild rd rs1 rs2 s) := by
  unfold execCtxBuild
  dsimp only
  refine h.hartPriv fun _ _ => InHart.ite h.done (InHart.ite h.done (InHart.ite h.done (InHart.ite InHart.wait ?_)))
  split
  · exact h.done
  split
  · exact h.done
  · exact InHart.ite h.done h.frame.done

protected theorem Canonical.execCtxActivate (h : Canonical s) {rd rs1 rs2} : Answers (execCtxActivate rd rs1 rs2 s) := by
  unfold execCtxActivate
  refine h.ctxctl fun n x => ?_
  split
  · exact h.done
  · exact InHart.ite h.done (InHart.ite InHart.wait (InHart.ite h.done h.ctxEnter.done))

protected theorem Canonical.preemptCtx (h : Canonical s) {n} : Canonical (s.preemptCtx n) := h.ctxEnter.frame

protected theorem Canonical.execCtxPreempt (h : Canonical s) {rd rs1 rs2} : Answers (execCtxPreempt rd rs1 rs2 s) := by
  unfold execCtxPreempt
  refine h.ctxctl fun n x => ?_
  split
  · exact InHart.ite h.preemptCtx.done h.done
  · exact h.done

protected theorem Canonical.execCtxKill (h : Canonical s) {rd rs1 rs2} : Answers (execCtxKill rd rs1 rs2 s) := by
  unfold execCtxKill
  refine h.ctxctl fun n x => ?_
  split
  · exact InHart.ite h.done h.killCtx.done
  · exact h.done

protected theorem Canonical.execCtxRelease (h : Canonical s) {rd rs1 rs2} : Answers (execCtxRelease rd rs1 rs2 s) := by
  unfold execCtxRelease
  dsimp only
  refine h.ctxctl fun n x => ?_
  split
  · exact InHart.ite h.lsForget.frame.done h.done
  · exact h.done

protected theorem Canonical.execCtxBudget (h : Canonical s) {rd rs1 rs2} :
    Answers (execCtxBudget rd rs1 rs2 s) :=
  h.ctxctl fun _ _ => InHart.ite h.done h.modCtx.done

protected theorem Canonical.execCtxPriority (h : Canonical s) {rd rs1 rs2} :
    Answers (execCtxPriority rd rs1 rs2 s) :=
  h.ctxctl fun _ _ => InHart.ite h.done h.modCtx.done

protected theorem Canonical.execCtxRestart (h : Canonical s) {rd rs1 rs2} : Answers (execCtxRestart rd rs1 rs2 s) := by
  unfold execCtxRestart
  dsimp only
  refine h.ctxctl fun n b => ?_
  split
  · exact h.done
  · exact InHart.ite h.done h.setGroup.done

protected theorem Canonical.unpark (h : Canonical s) {k} : Canonical (s.unpark k) := h.invalL1.resume

protected theorem Canonical.execSvlSysret (h : Canonical s) {rd rs1 rs2} : Answers (execSvlSysret rd rs1 rs2 s) := by
  unfold execSvlSysret
  dsimp only
  refine h.hartPriv fun _ _ => InHart.ite h.done ?_
  split
  · exact h.done
  split
  · split
    · exact InHart.trap
    · exact InHart.wait
    · exact h.setSysQ.setDrill.unpark.done
  · exact h.setSysQ.unpark.done
  · split
    · exact h.setSysQ.frame.launchStep.done
    · exact h.setSysQ.done
  exact h.done

protected theorem Canonical.replayAll (h : Canonical s) {chip n} :
    Canonical (s.replayAll chip n) :=
  Canonical.foldl (fun _ _ h' => h'.unpark) h.frame

protected theorem Canonical.fqOperands {body : ℕ → ℕ × FaultRec → HartEff} (h : Canonical s) (hbody : ∀ y0 y1, InHart (body y0 y1)) {rd rs1 rs2} :
    Answers (fqOperands s rd rs1 rs2 body) :=
  by
  unfold fqOperands
  dsimp only
  refine h.hartPriv fun _ _ => InHart.ite h.done ?_
  split
  · exact h.done
  · exact hbody _ _

protected theorem Canonical.execSvlFqdone (h : Canonical s) {rd rs1 rs2} :
    Answers (execSvlFqdone rd rs1 rs2 s) :=
  h.fqOperands fun _ _ => h.clearRec.replayAll.done

protected theorem Canonical.execSvlFqkill (h : Canonical s) {rd rs1 rs2} :
    Answers (execSvlFqkill rd rs1 rs2 s) :=
  h.fqOperands fun _ _ => h.clearRec.killCtx.done

protected theorem Canonical.execSvlQpost (h : Canonical s) {rd rs1 rs2} : Answers (execSvlQpost rd rs1 rs2 s) := by
  unfold execSvlQpost
  dsimp only
  refine h.hartRun fun _ _ => InHart.ite InHart.trap ?_
  split
  · exact InHart.trap
  · exact InHart.wait
  · exact InHart.ite h.done (InHart.ite h.done (InHart.ite h.done (InHart.ite h.done h.reserve.postEntry.done)))

protected theorem Canonical.execSvlQfence (h : Canonical s) : Answers (execSvlQfence s) := h.hartRun fun _ _ => InHart.ite InHart.wait h.done

protected theorem Canonical.evHart (h : Canonical s) {rd rs1 rs2 on} : Answers (evHart s rd rs1 rs2 on) := by
  unfold evHart
  dsimp only
  refine h.hartPriv fun _ _ => InHart.ite h.done ?_
  split
  · exact h.done
  · exact h.setEvents.done

protected theorem Canonical.execSvlEvsig (h : Canonical s) {rd rs1 rs2} : Answers (execSvlEvsig rd rs1 rs2 s) := h.evHart

protected theorem Canonical.execSvlEvclr (h : Canonical s) {rd rs1 rs2} : Answers (execSvlEvclr rd rs1 rs2 s) := h.evHart

protected theorem Canonical.execSvlEvwait (h : Canonical s) {rd rs1 rs2} : Answers (execSvlEvwait rd rs1 rs2 s) := by
  unfold execSvlEvwait
  dsimp only
  refine h.hartPriv fun _ _ => InHart.ite h.done ?_
  split
  · exact h.done
  · exact InHart.ite h.done InHart.wait

/-! #### `Sys2Proof/Machine/Placing.lean` -/

protected theorem Canonical.putDrills (h : Canonical s) {g make} : Canonical (s.putDrills g make) := Canonical.foldl (fun _ _ h' => h'.setDrill) h

protected theorem Canonical.disarm (h : Canonical s) {ctx} : Canonical (s.disarm ctx) := Canonical.ite h.modCtx h

protected theorem Canonical.startGroup (h : Canonical s) {gid g code size arg} : Canonical (s.startGroup gid g code size arg) := by
  unfold State.startGroup
  exact h.lsTake.invalL1.setGroup.disarm.putDrills

protected theorem Canonical.providePlots (h : Canonical s) {die ctx logR logC n} : InSome (s.providePlots die ctx logR logC n) := by
  induction n generalizing s with
  | zero => exact h
  | succ n ih =>
    unfold State.providePlots
    split
    · exact ih h.setAside
    · trivial

protected theorem Canonical.endAside (h : Canonical s) : Canonical (s.endAside) := h.frame

theorem InSome.foldl {α : Type} {f : Option State → α → Option State} (hf : ∀ o x, InSome o → InSome (f o x))
    {o : Option State} (h : InSome o) {l : List α} : InSome (l.foldl f o) := by
  induction l generalizing o with
  | nil => exact h
  | cons x l ih => exact ih (hf o x h)

protected theorem Canonical.placeCroft {s : State} (h : Canonical s) {l croft size members again c} :
    InSome (s.placeCroft l croft size members again c) := by
  unfold State.placeCroft
  split
  · trivial
  split
  · trivial
  extract_lets n need plots one
  have hp : InSome plots := InSome.ite h.providePlots h
  clear_value plots
  split
  · trivial
  split
  · trivial
  · refine InSome.foldl (fun o q ho => ?_) (o := some _) hp
    unfold one
    split
    · trivial
    split
    · trivial
    · exact Canonical.frame (.startGroup (.stamp ho))

protected theorem Canonical.placeNext (h : Canonical s) {l c} : InSome (s.placeNext l c) := by
  unfold State.placeNext
  dsimp only
  split
  · trivial
  · exact InSome.map (fun _ h' => h'.frame) h.stamp.frame.placeCroft

protected theorem Canonical.placeWhole (h : Canonical s) {l p} : InSome (s.placeWhole l p) := by
  have hp : InSome (p.foldl (fun (r : Option State) c => r.bind fun s => s.placeNext l c) (some s)) :=
    InSome.foldl (fun _ _ ho => InSome.bind (fun _ h' => h'.placeNext) ho) (o := some s) h
  exact InSome.bind (fun _ h' => InSome.ite (o := some _) (p := none) h' trivial) hp

protected theorem Canonical.placeReturned (h : Canonical s) {l croft c} : InSome (s.placeReturned l croft c) := by
  unfold State.placeReturned
  dsimp only
  split
  · exact h.frame.placeCroft
  · trivial

protected theorem Canonical.placeOffer (h : Canonical s) {o p} : InSome (s.placeOffer o p) := by
  unfold State.placeOffer
  split
  · exact h.placeReturned
  · exact h.placeWhole
  · split
    · refine InSome.ite h.placeWhole ?_
      split
      · exact h.placeNext
      · trivial
    trivial
  trivial

protected theorem Canonical.findWhole (h : Canonical s) {l x n} : InSome (s.findWhole l x n) := by
  induction n generalizing s with
  | zero => exact h
  | succ n ih =>
    unfold State.findWhole
    dsimp only
    split
    · exact h
    split
    · trivial
    split
    · trivial
    · exact ih (h.placeNext.of_eq ‹_›)

protected theorem Canonical.age (h : Canonical s) : Canonical (s.age) := Canonical.ite h h.frame

protected theorem Canonical.rejectImpossible (h : Canonical s) : Canonical (s.rejectImpossible) := by
  unfold State.rejectImpossible
  refine Canonical.foldl (fun s p h' => ?_) h
  split
  · split
    · exact Canonical.ite h'.failEntry h'
    · exact h'
  exact h'

protected theorem Canonical.afterPlacing (h : Canonical s) {n o first} : Canonical (s.afterPlacing n o first) := by
  unfold State.afterPlacing
  dsimp only
  split
  · exact Canonical.ite h.frame.setQueue.popHead h.frame.setQueue
  · exact Canonical.ite h.frame.setQueue.popHead h.frame.setQueue
  · exact h.frame.setQueue.frame
  · exact h.frame.setQueue

protected theorem Canonical.dispatch (h : Canonical s) {n} : Canonical (s.dispatch n).2 := by
  unfold State.dispatch
  dsimp only
  split
  · split
    · split
      · exact h
      split
      · exact h
      · exact h.fresh.of_bad ‹_›
      · exact Canonical.rejectImpossible (h.fresh.of_eq ‹_›)
    · split
      · exact h
      split
      · exact h
      · exact h.fresh.of_bad ‹_›
      · exact Canonical.rejectImpossible (h.fresh.of_eq ‹_›)
    split
    · exact h
    split
    · exact h
    · exact h.fresh.of_bad ‹_›
    · exact Canonical.rejectImpossible (h.fresh.of_eq ‹_›)
  exact h

protected theorem Canonical.execGroupPlacement (h : Canonical s) {q where_} : Answers (execGroupPlacement q where_ s) := by
  unfold execGroupPlacement
  dsimp only
  refine Answers.ite h.rejectImpossible ?_
  split
  · exact Canonical.of_snd h.rejectImpossible.dispatch ‹_›
  split
  · exact Canonical.of_snd h.rejectImpossible.dispatch ‹_›
  · exact Canonical.afterPlacing (.endAside ((Canonical.placeOffer (Canonical.of_snd h.rejectImpossible.dispatch ‹_›)).of_eq ‹_›))

/-! #### `Sys2Proof/Machine/Plots.lean` -/

protected theorem Canonical.signalStation (h : Canonical s) {gid station tk} : Canonical (s.signalStation gid station tk).1 := by
  unfold State.signalStation
  dsimp only
  split
  · exact h
  split
  · exact h
  · exact Canonical.ite h.setGroup.trapGroup h.setGroup

protected theorem Canonical.enterQueue (h : Canonical s) {key r} : Canonical (s.enterQueue key r) := by
  unfold State.enterQueue
  split
  · exact h
  · exact h.setPlot

protected theorem Canonical.toPlot (h : Canonical s) {gid r} : Canonical (s.toPlot gid r) := by
  unfold State.toPlot
  split
  · exact h.plotDone
  split
  · exact h.plotDone
  · exact Canonical.ite h.plotDone h.enterQueue

protected theorem Canonical.flowOne (h : Canonical s) {gid} : Canonical (s.flowOne gid) := by
  unfold State.flowOne
  dsimp only
  split
  · exact h
  refine Canonical.ite h.setGroup ?_
  split
  · exact h.setGroup
  split
  · exact h.setGroup
  · exact h.setGroup.setGroup.toPlot

protected theorem Canonical.flow (h : Canonical s) {gid} : Canonical (s.flow gid) := Canonical.foldl (fun _ _ h' => h'.flowOne) h

protected theorem Canonical.joinStream (h : Canonical s) {gid c} : Canonical (s.joinStream gid c) := h.modGroup.flow

protected theorem Canonical.rsvAnswer (h : Canonical s) {gid by_ ok} : Canonical (s.rsvAnswer gid by_ ok) := by
  unfold State.rsvAnswer
  split
  · exact h
  refine Canonical.foldl (fun s b h' => ?_) h
  split
  · exact h'.modDrill
  · exact h'

protected theorem Canonical.reservePlot (h : Canonical s) {gid g w by_} : Canonical (s.reserve_ gid g w by_) := by
  unfold State.reserve_
  dsimp only
  split
  · exact h.modGroup.rsvAnswer
  · exact h.frame.modGroup.rsvAnswer

protected theorem Canonical.merge (h : Canonical s) {g key p q} : InOk (s.merge_ g key p q) := by
  unfold State.merge_
  dsimp only
  split
  · trivial
  split
  · trivial
  split
  · trivial
  split
  · trivial
  split
  · trivial
  · exact h.frame.setPlot

protected theorem Canonical.split (h : Canonical s) {key p axis n} : InOk (s.split_ key p axis n) := by
  unfold State.split_
  dsimp only
  split
  · trivial
  split
  · split
    · trivial
    split
    · trivial
    · exact h.setPlot.setPlot
  split
  · trivial
  split
  · trivial
  · exact h.setPlot.setPlot

protected theorem Canonical.reshape (h : Canonical s) {r : Except Nat State} (hr : InOk r) {gid} : Canonical (s.reshape gid r) := by
  cases r with
  | ok t => exact hr
  | error n => exact h.trapGroup

protected theorem Canonical.assembled (h : Canonical s) {gid g c cs} : Canonical (s.assembled gid g c cs) := by
  unfold State.assembled
  extract_lets by_
  have hd : Canonical (s.plotDone gid by_ false) := h.plotDone
  generalize c.cmd = cmd
  cases cmd with
  | rsv w => exact h.reservePlot
  | rel => exact hd.plotRelease
  | merge q =>
    dsimp only
    split
    · exact Canonical.reshape hd (Canonical.merge hd)
    · exact hd
  | split axis n =>
    dsimp only
    split
    · exact Canonical.reshape hd (Canonical.split hd)
    · exact hd
  | _ => exact h.toPlot

protected theorem Canonical.execCollectiveAssembly (h : Canonical s) {gid} : Answers (execCollectiveAssembly gid s) := by
  unfold execCollectiveAssembly
  dsimp only
  split
  · exact h
  split
  · exact h
  refine Answers.ite h.setGroup.assembled.flow (Canonical.flow (.trapGroup ?_))
  split
  · exact h.setGroup.plotDone.plotStop
  · exact h.setGroup.plotDone

protected theorem Canonical.completeRun (h : Canonical s) {key gid r} : Canonical (s.completeRun key gid r) := by
  unfold State.completeRun
  dsimp only
  split
  · exact h
  · exact Canonical.ite h.plotDone.signalStation.plotError h.plotDone.signalStation

protected theorem Canonical.finishRuns (h : Canonical s) {key} : Canonical (s.finishRuns key) := by
  unfold State.finishRuns
  dsimp only
  split
  · exact h
  · exact Canonical.plotIdle (.foldl (fun _ _ h' => h'.completeRun) h.setPlot)

protected theorem Canonical.progress (h : Canonical s) {key} : Canonical (s.progress key) := by
  unfold State.progress
  dsimp only
  split
  · exact h
  split
  · exact h.setPlot.finishRuns.flow
  · exact h.setPlot.finishRuns

protected theorem Canonical.ardAnswer (h : Canonical s) {gid p r cols bf bank col0} : Canonical (s.ardAnswer gid p r cols bf bank col0) := by
  unfold State.ardAnswer
  dsimp only
  split
  · exact h
  refine Canonical.foldl (fun s b h' => ?_) h
  split
  · exact h'.free.modDrill
  · exact h'

protected theorem Canonical.execPlotCommandDequeue (h : Canonical s) {plot} : Answers (execPlotCommandDequeue plot s) := by
  unfold execPlotCommandDequeue
  dsimp only
  split
  · exact h
  split
  · exact h
  refine Answers.ite h ?_
  split
  · refine Canonical.plotError (.plotDone ?_)
    split
    · exact h.setPlot.modGroup.signalStation
    · exact h.setPlot
  refine Canonical.progress ?_
  split
  · refine Canonical.ardAnswer (.setPlot ?_)
    split
    · exact h.setPlot.modGroup.signalStation
    · exact h.setPlot
  refine Canonical.setPlot ?_
  split
  · exact h.setPlot.modGroup.signalStation
  · exact h.setPlot

protected theorem Canonical.execMmaStart (h : Canonical s) {plot} : Answers (execMmaStart plot s) := by
  unfold execMmaStart
  dsimp only
  split
  · exact h
  split
  · split
    · exact Answers.ite h (Answers.ite h.plotError (Answers.ite h.plotError h.setPlot))
    · exact h
  exact h

protected theorem Canonical.execMmaCompletion (h : Canonical s) {plot} : Answers (execMmaCompletion plot s) := by
  unfold execMmaCompletion
  dsimp only
  split
  · exact h
  split
  · split
    · exact Answers.ite h h.free.setPlot.progress
    · exact h
  exact h

protected theorem Canonical.execPostedBedWriteDone (h : Canonical s) {plot idx} : Answers (execPostedBedWriteDone plot idx s) := by
  unfold execPostedBedWriteDone
  dsimp only
  split
  · exact h
  split
  · exact h
  · exact Answers.ite h h.free.setPlot.progress

protected theorem Canonical.execBedZeroSclCompletion (h : Canonical s) {plot} : Answers (execBedZeroSclCompletion plot s) := by
  unfold execBedZeroSclCompletion
  dsimp only
  split
  · exact h
  split
  · exact h
  · exact h.setPlot.progress

protected theorem Canonical.execPlotEccError (h : Canonical s) {plot} : Answers (execPlotEccError plot s) := by
  unfold execPlotEccError
  split
  · exact h
  · exact Answers.ite h h.plotError

protected theorem Canonical.plotQry (h : Canonical s) {g sel} : Canonical (s.plotQry g sel).2 := by
  unfold State.plotQry
  split
  · split
    · exact h
    · exact h
    · exact h.setPlot
  exact h

/-! #### `Sys2Proof/Machine/Groups.lean` -/

protected theorem Canonical.stashFlush (h : Canonical s) {t} :
    Canonical (s.stashFlush t) :=
  Canonical.foldl (fun _ _ h' => Canonical.ite h'.cleanLine h') h

protected theorem Canonical.stashSettle (h : Canonical s) {g t keep} :
    Canonical (s.stashSettle g t keep) :=
  Canonical.foldl (fun _ _ h' => h'.lsWrite) h.free

protected theorem Canonical.stashUnmap (h : Canonical s) {gid r} : Canonical (s.stashUnmap gid r) := by
  unfold State.stashUnmap
  split
  · exact h
  split
  · exact h
  · exact h.stashFlush.stashSettle.modGroup

protected theorem Canonical.stashInv (h : Canonical s) {gid r} : Canonical (s.stashInv gid r) := by
  unfold State.stashInv
  dsimp only
  split
  · exact h
  split
  · exact h
  · exact Canonical.modGroup (.stashSettle (.foldl (fun _ _ h' => Canonical.ite h'.dropLine h') h))

protected theorem Canonical.groupDone (h : Canonical s) {gid} : Canonical (s.groupDone gid) := by
  unfold State.groupDone
  dsimp only
  split
  · exact h
  · exact h.plotRelease.frame.modGroup.frame.launchStep

protected theorem Canonical.groupsDone (h : Canonical s) {l} : Canonical (s.groupsDone l) := Canonical.foldl (fun _ _ h' => h'.groupDone) h

protected theorem Canonical.dropEntry (h : Canonical s) {n id} : Canonical (s.dropEntry n id) := by
  unfold State.dropEntry
  dsimp only
  split
  · exact h
  · exact Canonical.ite h.popHead (.ite h.setQueue.queueMsi h.setQueue)

protected theorem Canonical.startInPlace (h : Canonical s) {gid g code size arg} :
    Canonical (s.startInPlace gid g code size arg) :=
  Canonical.foldl (fun _ _ h' => h'.setDrill) h.disarm.setGroup.invalL1

/-- The members of a successor start in the places of the old croft's groups. -/
protected theorem Canonical.startInPlaces (h : Canonical s) {ms : List ((Nat × Nat) × Nat)} {succ : Group → (Nat × Nat) × Nat → Group}
    {code size arg} : Canonical (ms.foldl (fun (s : State) q => match s.group? q.2 with
      | some g => s.startInPlace q.2 (succ g q) code size arg
      | none => s) s) := by
  refine Canonical.foldl (fun s q h' => ?_) h
  split
  · exact h'.startInPlace
  · exact h'

protected theorem Canonical.startSuccessor (h : Canonical s) {croft t g w} : InSomeSnd (s.startSuccessor croft t g w) := by
  unfold State.startSuccessor
  extract_lets n
  split
  · exact h
  split
  · trivial
  · exact Canonical.of_snd h.pickSucc ‹_›
  · exact Canonical.of_snd h.pickSucc ‹_›
  have h0 := Canonical.of_snd h.pickSucc ‹_›
  split
  · exact h0
  extract_lets s0 members size st
  split
  · exact h0
  split
  have ht := Canonical.of_snd h0.stamp ‹_›
  extract_lets s1 s2 s3 s4 q s6
  have h2 : Canonical s2 := Canonical.startInPlaces ht.frame
  have h4 : Canonical s4 := Canonical.launchStep (.groupsDone h2.frame)
  have h6 : Canonical s6 := Canonical.ite h4.setQueue h4
  split
  · exact h6.dropEntry
  split
  · split
    · exact Canonical.dropEntry (.endAside (h6.findWhole.of_eq ‹_›))
    · exact h0
  · exact h6

protected theorem Canonical.exitStep5 (h : Canonical s) {gid g w} : Canonical (s.exitStep5 gid g w) := by
  unfold State.exitStep5
  dsimp only
  split
  · exact h.groupDone
  refine Canonical.ite h.groupDone (.ite ?_ (.ite h.setGroup h))
  split
  · exact h
  · exact h.startSuccessor.of_eq ‹_›
  · exact Canonical.groupsDone (h.startSuccessor.of_eq ‹_›)

protected theorem Canonical.execGroupExitSequence (h : Canonical s) {gid} : Answers (execGroupExitSequence gid s) := by
  unfold execGroupExitSequence
  dsimp only
  split
  · exact h
  refine Answers.ite h ?_
  split
  · exact Canonical.ite h.modGroup h
  · exact Canonical.ite h.modGroup h
  · exact Answers.ite (Canonical.modGroup (.foldl (fun _ _ h' => h'.stashUnmap) h)) h
  · refine Answers.ite h ?_
    split
    · exact h.plotRelease.modGroup
    split
    · exact h.modGroup
    · exact Canonical.ite h.modGroup h
  split
  · exact h.groupDone
  · exact h.exitStep5

protected theorem Canonical.recordFault (h : Canonical s) {g} : Canonical (s.recordFault g) := h.ctxFault

protected theorem Canonical.recordAt (h : Canonical s) {g acc} : InRecord (s.recordAt g acc) := by
  unfold State.recordAt
  split
  · trivial
  split
  · split <;> trivial
  split
  · trivial
  split
  · trivial
  · exact h.translate.of_eq ‹_›

protected theorem Canonical.execGroupRecordWrite (h : Canonical s) {gid} : Answers (execGroupRecordWrite gid s) := by
  unfold execGroupRecordWrite
  dsimp only
  split
  · exact h
  refine Answers.ite h ?_
  split
  · exact h
  · exact h.recordFault
  · exact Canonical.modGroup (.frame (.foldl (fun _ _ h' => h'.unpoison) (.ioWrite (.foldl (fun _ _ h' => h'.stashFlush)
      (h.recordAt.of_eq ‹_›)))))

protected theorem Canonical.restoreDrill (h : Canonical s) {gid g r restvec lost j k} :
    Canonical (s.restoreDrill gid g r restvec lost j k) :=
  Canonical.ite h.free.setDrill h.free.setDrill.toVector

protected theorem Canonical.restoreGroup (h : Canonical s) {gid g c r} :
    Canonical (s.restoreGroup gid g c r) :=
  Canonical.foldl (fun _ _ h' => h'.restoreDrill) h.setGroup

protected theorem Canonical.moveRegion (h : Canonical s) {g die core base} : Canonical (s.moveRegion g die core base) := h.lsTake.lsWrite

protected theorem Canonical.replaceMember (h : Canonical s) {c j gid} : Canonical (s.replaceMember c j gid) := by
  unfold State.replaceMember
  dsimp only
  split
  · exact h
  · exact Canonical.ite h.lsTake.invalL1.setGroup (.ite h.moveRegion.setGroup h)

protected theorem Canonical.replaceCroft (h : Canonical s) {ctx t c} : InSome (s.replaceCroft ctx t c) := by
  unfold State.replaceCroft
  dsimp only
  refine InSome.ite trivial (InSome.map (fun _ h' => Canonical.foldl (fun _ _ h₁ => h₁.replaceMember) h') ?_)
  split
  · exact h
  · exact h.providePlots

protected theorem Canonical.readRecords (h : Canonical s) {ctx l} : InSome (s.readRecords ctx l) := by
  induction l generalizing s with
  | nil => exact h
  | cons gid rest ih =>
    unfold State.readRecords
    split
    · split
      · exact ih h
      split
      · trivial
      · exact h.recordFault
      · have hr := h.recordAt.of_eq ‹_›
        split
        · exact hr.recordFault
        split
        · exact hr.recordFault
        · exact ih hr.restoreGroup
    · exact ih h

protected theorem Canonical.execGroupRestore (h : Canonical s) {croft where_} : Answers (execGroupRestore croft where_ s) := by
  unfold Machine.execGroupRestore
  split
  · exact h
  split
  · exact h
  extract_lets l active placed
  have hp : InSome placed := InSome.foldl (fun _ _ ho => InSome.bind (fun _ h => h.replaceCroft) ho) (o := some s) h
  split
  · exact h
  split
  · exact InSome.of_eq (InSome.bind (fun _ h => h.endAside.readRecords) hp) ‹_›
  · exact h

/-! #### `Sys2Proof/Machine/Queues.lean` -/

protected theorem Canonical.execPacketCheck (h : Canonical s) {q seen} : Answers (execPacketCheck q seen s) := by
  unfold execPacketCheck
  dsimp only
  split
  · exact h
  refine Answers.ite h (Canonical.ite (.queueError (.setQueue ?_)) (.refresh (.setQueue ?_)))
  · split
    · exact Canonical.ite h.ioWrite h
    · exact h
  · split
    · exact Canonical.ite h.ioWrite h
    · exact h

protected theorem Canonical.execKcbRead (h : Canonical s) {q} : Answers (execKcbRead q s) := by
  unfold execKcbRead
  dsimp only
  split
  · exact h
  refine Answers.ite h ?_
  split
  · exact h
  · exact h.fresh.of_bad ‹_›
  · exact Canonical.ite (.failEntry (h.fresh.of_eq ‹_›)) (.refresh (h.fresh.of_eq ‹_›))

protected theorem Canonical.qcmd {act : Queue → State} (h : Canonical s) (hact : ∀ y0, Canonical (act y0)) {n ok} :
    Canonical (s.qcmd n ok act) :=
  Canonical.ite h (Canonical.ite (hact _) h.setQueue)

protected theorem Canonical.qOpen (h : Canonical s) {n} : Canonical (s.qOpen n) := h.qcmd fun _ => h.setQueue

protected theorem Canonical.qPause (h : Canonical s) {n} : Canonical (s.qPause n) := h.qcmd fun _ => h.setQueue

protected theorem Canonical.qResume (h : Canonical s) {n} :
    Canonical (s.qResume n) :=
  h.qcmd fun _ => Canonical.ite h.setQueue.discardBad.refresh h.setQueue

protected theorem Canonical.qDrain (h : Canonical s) {n} : Canonical (s.qDrain n) := h.qcmd fun _ => h.setQueue.drainQueue

protected theorem Canonical.execQcmdOpen (h : Canonical s) {q} : Answers (execQcmdOpen q s) := h.qOpen

protected theorem Canonical.execQcmdPause (h : Canonical s) {q} : Answers (execQcmdPause q s) := h.qPause

protected theorem Canonical.execQcmdResume (h : Canonical s) {q} : Answers (execQcmdResume q s) := h.qResume

protected theorem Canonical.execQcmdDrain (h : Canonical s) {q} : Answers (execQcmdDrain q s) := h.qDrain

protected theorem Canonical.execQueueDrainDone (h : Canonical s) {q} : Answers (execQueueDrainDone q s) := Answers.ite h.setQueue h

protected theorem Canonical.execTaskPost (h : Canonical s) {launch} : Answers (execTaskPost launch s) := by
  unfold execTaskPost
  dsimp only
  split
  · exact h
  refine Answers.ite h ?_
  split
  · exact Canonical.of_snd h.dispatch ‹_›
  split
  · split
    · exact Answers.ite (Canonical.of_snd h.dispatch ‹_›) (Canonical.afterPlacing (.frame (.addSys (Canonical.of_snd h.dispatch ‹_›))))
    · exact Canonical.of_snd h.dispatch ‹_›
  exact Canonical.of_snd h.dispatch ‹_›

protected theorem Canonical.execSyscallQueuePost (h : Canonical s) {chip} : Answers (execSyscallQueuePost chip s) := by
  unfold execSyscallQueuePost
  dsimp only
  split
  · exact h
  · exact Answers.ite h (Answers.ite h.setReg (Answers.ite h h.ioWrite.setReg.setSysQ.msiFrom))

protected theorem Canonical.execFaultRecordPost (h : Canonical s) {chip} : Answers (execFaultRecordPost chip s) := by
  unfold execFaultRecordPost
  dsimp only
  split
  · exact h.rewriteFaults.postFault
  · exact h.rewriteFaults

protected theorem Canonical.baseWrite (h : Canonical s) {a low val} : Canonical (s.baseWrite a low val) := h.setReg

protected theorem Canonical.execScqbaseWrite (h : Canonical s) {chip val} : Answers (execScqbaseWrite chip val s) := Canonical.ite h.baseWrite h

protected theorem Canonical.execScqheadWrite (h : Canonical s) {chip val} : Answers (execScqheadWrite chip val s) := Canonical.ite h.setReg h

protected theorem Canonical.execFqbaseWrite (h : Canonical s) {chip val} : Answers (execFqbaseWrite chip val s) := Canonical.ite h.baseWrite h

protected theorem Canonical.execFqheadWrite (h : Canonical s) {chip val} : Answers (execFqheadWrite chip val s) := Canonical.ite h.setReg h

protected theorem Canonical.tlbictlWrite (h : Canonical s) {val} : Canonical (s.tlbictlWrite val) := Canonical.ite h h.setReg

protected theorem Canonical.execTlbiVaAsid (h : Canonical s) {asid} : Answers (execTlbiVaAsid asid s) := h.tlbictlWrite

protected theorem Canonical.execTlbiAsid (h : Canonical s) {asid} : Answers (execTlbiAsid asid s) := h.tlbictlWrite

protected theorem Canonical.execTlbiVaAll (h : Canonical s) {asid} : Answers (execTlbiVaAll asid s) := h.tlbictlWrite

protected theorem Canonical.execTlbiAll (h : Canonical s) {asid} : Answers (execTlbiAll asid s) := h.tlbictlWrite

protected theorem Canonical.mbarAfresh (h : Canonical s) : Canonical (s.mbarAfresh) := h.frame

protected theorem Canonical.execShootdownDone (h : Canonical s) : Answers (execShootdownDone s) := Answers.ite h h.mbarAfresh.dropTlbs.setReg

protected theorem Canonical.icflushGo (h : Canonical s) {die} : Canonical (s.icflushGo die) := Canonical.ite h.frame h

protected theorem Canonical.execIcflushGo (h : Canonical s) {die} : Answers (execIcflushGo die s) := h.icflushGo

protected theorem Canonical.execIcflushDone (h : Canonical s) {die} : Answers (execIcflushDone die s) := by
  unfold Machine.execIcflushDone
  split
  · exact h
  · exact h.mapCores (fun c x => if coreDie c = die then { x with icache := [] } else x) (fun c x => by split <;> rfl) rfl

/-! #### `Sys2Proof/Machine/Links.lean` -/

protected theorem Canonical.setLink (h : Canonical s) {n l} : Canonical (s.setLink n l) := h.frame

protected theorem Canonical.linkTo (h : Canonical s) {n st l} : Canonical (s.linkTo n st l) := by
  unfold State.linkTo
  dsimp only
  split
  · exact h.setLink.msiFrom
  · exact h.setLink.msiFrom
  · exact h.setLink.msiFrom
  · exact h.setLink.msiFrom
  · exact h.setLink
  · exact h.setLink
  · exact h.setLink

protected theorem Canonical.countErr (h : Canonical s) {n k} : Canonical (s.countErr n k) := h.setLink

protected theorem Canonical.portLost (h : Canonical s) {n} : Canonical (s.portLost n) := h.countErr.frame

protected theorem Canonical.cutLink (h : Canonical s) {n} : Canonical (s.cutLink n) := by
  unfold State.cutLink
  split
  · exact Canonical.foldl (fun _ _ h' => h'.plotCut) h
  · exact h.portLost
  · exact h

protected theorem Canonical.trigger (h : Canonical s) {n cause} : Canonical (s.trigger n cause) := by
  unfold State.trigger
  dsimp only
  split
  · exact h.linkTo
  · exact h.linkTo.cutLink
  · exact h.linkTo.cutLink
  · exact h.linkTo.cutLink
  · exact h
  · exact h
  · exact h

theorem tblGet?_filter {α : Type} (t : Tbl α) (p : Nat → Bool) (i : Nat) : tblGet?
    (t.filter fun q => p q.1) i = if p i then tblGet? t i else none := by
  induction t with
  | nil => simp
  | cons q r ih =>
    obtain ⟨j, a⟩ := q
    by_cases hj : j = i
    · subst hj
      by_cases hp : p j <;> simp_all [tblGet?]
    · by_cases hp : p j <;> simp_all [tblGet?]

/-- Cores are no longer listed. -/
protected theorem Canonical.filterCores {s t : State} (h : Canonical s) {p : Nat → Bool}
    (hc : t.cores = s.cores.filter fun q => p q.1) (hm : t.mem = s.mem := by rfl) : Canonical t := by
  refine ⟨by rw [Memory.wf, hm]; exact h.mem, fun c => ?_⟩
  rw [core_ls, hc, tblGet?_filter]
  split
  · rw [← core_ls]; exact h.ls c
  · rfl

protected theorem Canonical.dieLost (h : Canonical s) {n} : Canonical (s.dieLost n) := by
  unfold State.dieLost
  extract_lets here s1 cut s2 s3 void
  have h1 : Canonical s1 := Canonical.foldl (fun _ _ h => h.plotWiped) h
  have h2 : Canonical s2 := Canonical.foldl (fun _ _ h => h.plotCut) h1
  have h3 : Canonical s3 := Canonical.foldl (fun _ _ h => h.loseGroup) h2
  exact h3.filterCores (p := fun c => coreChip c ≠ n) rfl

protected theorem Canonical.cancelMates (h : Canonical s) {l} :
    Canonical (s.cancelMates l) :=
  Canonical.foldl (fun _ _ h' => Canonical.foldl (fun _ _ h₁ => h₁.cancelSucc) h') h

protected theorem Canonical.redispatch (h : Canonical s) {l} : Canonical (s.redispatch l) := by
  unfold State.redispatch
  dsimp only
  split
  · exact h
  · exact Canonical.ite h.killCtx (.ite h.frame (.ite (.ite (.frame (.foldl (fun _ _ h' => h'.loseGroup) h)) (.launchStep (.frame
      (.foldl (fun _ _ h' => h'.loseGroup) h)))) (.ite h.frame.cancelMates.launchStep h.frame.cancelMates)))

protected theorem Canonical.isolate (h : Canonical s) {n} :
    Canonical (s.isolate n) :=
  Canonical.setLink (Canonical.foldl (fun _ _ h' => h'.redispatch) (Canonical.dieLost (Canonical.foldl (fun _ _ h' => h'.trigger)
    (Canonical.foldl (fun _ _ h' => h'.stackIsolated) (Canonical.frame (Canonical.foldl
    (fun _ _ h' => Canonical.ite h'.poisonLine h'.frame) h))))))

protected theorem Canonical.execChipletIsolation (h : Canonical s) {chip} :
    Answers (execChipletIsolation chip s) :=
  Answers.ite h (Answers.ite (Canonical.ite h h.linkTo) (Answers.ite (Canonical.ite h.isolate h.isolate.linkTo) h))

protected theorem Canonical.cmdIsolate (h : Canonical s) {n} : Canonical (s.cmdIsolate n) := Canonical.ite h.trigger h

protected theorem Canonical.cmdReset (h : Canonical s) {n} : Canonical (s.cmdReset n) := Canonical.ite h (.ite h.setLink h.linkTo)

protected theorem Canonical.cmdRetrain (h : Canonical s) {n} : Canonical (s.cmdRetrain n) := Canonical.ite h h.linkTo

protected theorem Canonical.linkctlWrite (h : Canonical s) {n val} : Canonical (s.linkctlWrite n val) := by
  unfold State.linkctlWrite
  dsimp only
  refine Canonical.ite h ?_
  split
  · exact h.setLink.cmdIsolate
  · exact h.setLink.cmdReset
  · exact h.setLink.cmdRetrain
  · exact h.setLink

protected theorem Canonical.execLinkIsolate (h : Canonical s) {link} : Answers (execLinkIsolate link s) := h.cmdIsolate

protected theorem Canonical.execLinkReset (h : Canonical s) {link} : Answers (execLinkReset link s) := h.cmdReset

protected theorem Canonical.execLinkRetrain (h : Canonical s) {link} : Answers (execLinkRetrain link s) := h.cmdRetrain

protected theorem Canonical.execChipletResetDone (h : Canonical s) {link} : Answers (execChipletResetDone link s) := Canonical.ite h.linkTo h

protected theorem Canonical.takeForced (h : Canonical s) {n} : Canonical (s.takeForced n) := by
  unfold State.takeForced
  refine Canonical.foldl (fun s k h' => ?_) h
  split
  · exact h'.forcedTake
  · exact h'

protected theorem Canonical.restartHarts (h : Canonical s) {n} :
    Canonical (s.restartHarts n) :=
  Canonical.foldl (fun _ _ h' => Canonical.ite h' (Canonical.ite h'.frame h'.frame)) h

protected theorem Canonical.enumerate (h : Canonical s) {n w t} :
    Canonical (s.enumerate n w t) :=
  Canonical.ite h.frame.linkTo.takeForced.restartHarts h.frame.linkTo.takeForced

protected theorem Canonical.enumerated (h : Canonical s) {n t} : Canonical (s.enumerated n t) := Canonical.ite h.enumerate h.linkTo

protected theorem Canonical.trained (h : Canonical s) {n w t} : Canonical (s.trained n w t) := by
  unfold State.trained
  dsimp only
  refine Canonical.ite h.linkTo (.ite ?_ h.linkTo)
  split
  · exact h.linkTo.enumerated
  · exact h.linkTo

protected theorem Canonical.execLinkTrainingDone (h : Canonical s) {link width table} : Answers (execLinkTrainingDone link width table s) := by
  unfold execLinkTrainingDone
  dsimp only
  split
  · exact Canonical.ite h.trained h
  · exact h.enumerated
  · exact h

protected theorem Canonical.execLinkLaneFailure (h : Canonical s) {link width} :
    Answers (execLinkLaneFailure link width s) :=
  Answers.ite h (Answers.ite h.setLink.trigger h.linkTo)

protected theorem Canonical.execDirectoryTimeout (h : Canonical s) {chip} : Answers (execDirectoryTimeout chip s) := Canonical.ite h.trigger h

protected theorem Canonical.execHeartbeatTimeout (h : Canonical s) {link} : Answers (execHeartbeatTimeout link s) := by
  unfold execHeartbeatTimeout
  dsimp only
  split
  · exact h.trigger
  · exact Canonical.ite h.trigger h
  · exact h

protected theorem Canonical.execLinkUncorrectableError (h : Canonical s) {link} : Answers (execLinkUncorrectableError link s) := by
  unfold execLinkUncorrectableError
  split
  · exact Canonical.ite h.countErr.trigger h
  · exact Canonical.ite h.countErr.trigger h
  · exact Canonical.ite h.countErr.trigger h
  · exact Canonical.ite h.countErr.trigger h
  · exact h
  · exact h
  · exact h

protected theorem Canonical.execPcieContainment (h : Canonical s) {link} : Answers (execPcieContainment link s) := Canonical.ite h.trigger h

protected theorem Canonical.pciebif (h : Canonical s) {val} : Canonical (s.pciebif val) := Canonical.ite h.setReg h

protected theorem Canonical.execPciebifWrite (h : Canonical s) {val} : Answers (execPciebifWrite val s) := h.pciebif

/-! #### `Sys2Proof/Machine/Platform.lean` -/

protected theorem Canonical.setPoint (h : Canonical s) {rail clkr vofs} : Canonical (s.setPoint rail clkr vofs) := Canonical.ite h h.setReg.frame

protected theorem Canonical.opctlWrite (h : Canonical s) {rail val agent} :
    Canonical (s.opctlWrite rail val agent) :=
  Canonical.ite h (Canonical.ite h.free.setPoint.frame h.free.setPoint)

protected theorem Canonical.execOpctlWrite (h : Canonical s) {rail val agent} : Answers (execOpctlWrite rail val agent s) := h.opctlWrite

protected theorem Canonical.execClockTransitionDone (h : Canonical s) {rail} : Answers (execClockTransitionDone rail s) := h.frame

protected theorem Canonical.unboost (h : Canonical s) :
    Canonical (s.unboost) :=
  Canonical.frame (Canonical.foldl (fun _ _ h' => h'.setReg.frame.setPoint) h)

protected theorem Canonical.alarm (h : Canonical s) {bit} : Canonical (s.alarm bit) := h.unboost.setReg.frame

protected theorem Canonical.thermalTrip (h : Canonical s) : Canonical (s.thermalTrip) := h.alarm.setPoint.setPoint.frame

protected theorem Canonical.execTsensRefresh (h : Canonical s) {chip sensor val} :
    Answers (execTsensRefresh chip sensor val s) :=
  Answers.ite h (Canonical.ite (Canonical.frame (Canonical.setReg (Canonical.ite h.thermalTrip h))) (Canonical.setReg
    (Canonical.ite h.thermalTrip h)))

protected theorem Canonical.execThermalTrip (h : Canonical s) {chip sensor} :
    Answers (execThermalTrip chip sensor s) :=
  Canonical.ite h.thermalTrip h

protected theorem Canonical.tripDue (h : Canonical s) : Canonical (s.tripDue) := by
  unfold State.tripDue
  split
  · exact Canonical.ite h.thermalTrip h
  · exact h

protected theorem Canonical.execOverCurrentAlarm (h : Canonical s) {rail} :
    Answers (execOverCurrentAlarm rail s) :=
  Answers.ite h (Canonical.ite h.alarm.setPoint h.alarm)

protected theorem Canonical.ocauseWrite (h : Canonical s) {val agent} : Canonical (s.ocauseWrite val agent) := Canonical.ite h.setReg h

protected theorem Canonical.execOcauseWrite (h : Canonical s) {val agent} : Answers (execOcauseWrite val agent s) := h.ocauseWrite

protected theorem Canonical.eccceClear (h : Canonical s) {chip} : Canonical (s.eccceClear chip) := Canonical.ite h.setReg h

protected theorem Canonical.execEccceWrite (h : Canonical s) {chip} : Answers (execEccceWrite chip s) := h.eccceClear

protected theorem Canonical.execSramCorrectedError (h : Canonical s) {chip} : Answers (execSramCorrectedError chip s) := Canonical.ite h.setReg h

protected theorem Canonical.strike (h : Canonical s) {w} : Canonical (s.strike w) := by
  unfold State.strike
  dsimp only
  split
  · exact Canonical.ite h.poisonLine h
  · exact h.modDrill
  · exact h.modDrill
  · exact h.modDrill
  · exact h.modDrill
  · exact h.modDrill
  · exact h.setCore
  · exact h.frame
  · exact h.frame

protected theorem Canonical.execUvSramError (h : Canonical s) {where_} :
    Answers (execUvSramError where_ s) :=
  Answers.ite h.alarm.strike.setPoint.frame h

protected theorem Canonical.of_noCores (hm : Memory.wf s = true) (hc : s.cores = []) : Canonical s :=
  ⟨hm, fun c => by rw [core_ls, hc]; rfl⟩

protected theorem Canonical.afterReset (h : Canonical s) {warm} : Canonical (s.afterReset warm) :=
  Canonical.ite (.of_noCores h.mem rfl) (.of_noCores rfl rfl)

protected theorem Canonical.setCause (h : Canonical s) {cause} : Canonical (s.setCause cause) := h.setReg

protected theorem Canonical.bootChip {r : State × Bool} (h : Canonical r.1) {b n} : Canonical (State.bootChip b r n).1 := by
  unfold State.bootChip
  extract_lets w t
  split
  · exact h
  · exact show Canonical (r.1.trained n w (some t)) from h.trained

protected theorem Canonical.bootStacks (h : Canonical s) :
    Canonical (s.bootStacks) :=
  Canonical.foldl (fun _ _ h' => Canonical.ite h' h'.setStack.forcedTake) h

protected theorem Canonical.released0 (h : Canonical s) : Canonical (s.released0) := Canonical.foldl (fun _ _ h' => h'.linkTo) h

protected theorem Canonical.trainOthers (h : Canonical s) {l : List (Nat × Nat)} : Canonical
    (l.foldl (fun (s : State) p => if (s.link p.1).st = .training then s.trained p.1 p.2 none else s) s) :=
  Canonical.foldl (fun _ _ h' => Canonical.ite h'.trained h') h

protected theorem Canonical.bootLinks (h : Canonical s) {b} : Canonical (s.bootLinks b).1 := by
  have hc : Canonical (chiplets.foldl (State.bootChip b) (s.released0, true)).1 :=
    Canonical.foldl_fst (fun _ _ h' => h'.bootChip) (r := (_, true)) h.released0
  unfold State.bootLinks
  dsimp only
  generalize chiplets.foldl (State.bootChip b) (s.released0, true) = r at hc ⊢
  split
  · dsimp only
    exact hc.trainOthers.bootStacks
  · exact hc

protected theorem Canonical.boot (h : Canonical s) {b} :
    Canonical (s.boot b) :=
  Canonical.ite h.released0.setCause (Canonical.ite h.frame.bootLinks.setCause h.frame.bootLinks.writeHome.frame)

protected theorem Canonical.execColdReset (h : Canonical s) {boot} : Answers (execColdReset boot s) := h.afterReset.boot

protected theorem Canonical.execWarmReset (h : Canonical s) {pin boot} :
    Answers (execWarmReset pin boot s) :=
  Answers.ite h.afterReset.setCause.boot (Answers.ite h.afterReset.setCause.boot h)

protected theorem Canonical.execAttestationRequest (h : Canonical s) {nonce agent} :
    Answers (execAttestationRequest nonce agent s) :=
  Canonical.ite h.frame h

/-! #### `Sys2Proof/Machine/Iommu.lean` -/

protected theorem Canonical.ioPut (h : Canonical s) {off v} : Canonical (s.ioPut off v) := h.frame

protected theorem Canonical.ioSet (h : Canonical s) {off bit} : Canonical (s.ioSet off bit) := h.ioPut

protected theorem Canonical.ioPost (h : Canonical s) {a data} : InSome (s.ioPost a data) := by
  unfold State.ioPost
  split
  · exact h.msiFor
  · exact InSome.ite h.ioWrite trivial

protected theorem Canonical.ioRecord (h : Canonical s) {q csr lo rec} :
    Canonical (s.ioRecord q csr lo rec) :=
  Canonical.ite h (Canonical.ite h.ioSet (Canonical.ite h.ioSet h.ioWrite.ioPut))

protected theorem Canonical.ioSend (h : Canonical s) {vec} : Canonical (s.ioSend vec) := Canonical.ite h.ioSet (InSome.getD h.ioPost h.ioRecord)

protected theorem Canonical.ioRaise (h : Canonical s) {src} : Canonical (s.ioRaise src) := Canonical.ite h h.ioSet.ioSend

protected theorem Canonical.ioFault (h : Canonical s) {r cause ttyp addr gpa} :
    Canonical (s.ioFault r cause ttyp addr gpa) :=
  Canonical.ite h.ioRecord.ioRaise h.ioRecord

protected theorem Canonical.ioMiss (h : Canonical s) {r c ttyp m} : Canonical (s.ioMiss r c ttyp m) := by
  unfold State.ioMiss
  dsimp only
  split
  · exact h
  · exact Canonical.ite h.frame h.frame.ioFault

protected theorem Canonical.ioXlate (h : Canonical s) {r acc} : InOkSnd (s.ioXlate r acc) := by
  unfold State.ioXlate
  dsimp only
  split
  · exact h.frame
  split
  · trivial
  · exact h
  split
  · split
    · exact h
    · trivial
  split
  · trivial
  · exact h.frame

protected theorem Canonical.ioTranslate (h : Canonical s) {r write} : Canonical (s.ioTranslate r write) := by
  unfold State.ioTranslate
  dsimp only
  split
  · exact h.ioMiss
  · exact h
  refine Canonical.ite h.ioMiss ?_
  split
  · exact h
  · exact Canonical.ite h.frame h.ioMiss
  · exact h.frame

protected theorem Canonical.ioPageRequest (h : Canonical s) {r payload} : Canonical (s.ioPageRequest r payload) := by
  unfold State.ioPageRequest
  dsimp only
  split
  · exact h.ioMiss
  · exact h
  · exact Canonical.ite h.ioMiss (.ite h.frame h.ioRecord.ioRaise.frame)

protected theorem Canonical.ioCommand (h : Canonical s) : Canonical (s.ioCommand) := by
  unfold State.ioCommand
  dsimp only
  refine Canonical.ite h ?_
  split
  · exact h
  · exact h.ioSet.ioRaise
  refine Canonical.ite h.ioSet.ioRaise ?_
  split
  · refine Canonical.ite h (.ite h.ioPut ?_)
    split
    · exact Canonical.ioPut (h.ioPost.of_eq ‹_›)
    · exact h.ioSet.ioRaise
  · exact Canonical.ioPut (.ite h.frame h)
  exact h.frame.ioPut

protected theorem Canonical.ioCtlWrite (h : Canonical s) {q csr lo index v} :
    Canonical (s.ioCtlWrite q csr lo index v) :=
  Canonical.ite h.ioPut.ioPut h.ioPut

protected theorem Canonical.ioLevels (h : Canonical s) :
    Canonical (s.ioLevels) :=
  Canonical.ite (Canonical.ioRaise (Canonical.ite (Canonical.ioRaise (Canonical.ite h.ioRaise h)) (Canonical.ite h.ioRaise h)))
    (Canonical.ite (Canonical.ioRaise (Canonical.ite h.ioRaise h)) (Canonical.ite h.ioRaise h))

protected theorem Canonical.iommuRegWrite (h : Canonical s) {off v low high} :
    Canonical (s.iommuRegWrite off v low high) :=
  Canonical.ite h.ioPut (Canonical.ite h.ioPut (Canonical.ite (Canonical.ite h.ioPut h) (Canonical.ite (Canonical.ite h.ioPut h)
    (Canonical.ite (Canonical.ite h.ioPut h) (Canonical.ite (Canonical.ioLevels (Canonical.ite (Canonical.ioCtlWrite
    (Canonical.ite h.ioCtlWrite h)) (Canonical.ite h.ioCtlWrite h))) (Canonical.ite (Canonical.ioLevels (Canonical.ite (Canonical.ioPut
    (Canonical.ite h.ioCtlWrite h)) (Canonical.ite h.ioCtlWrite h))) (Canonical.ite h.ioPut (Canonical.ite
    (Canonical.ite h.ioPut.ioPut.ioSend h.ioPut) h))))))))

/-! #### `Sys2Proof/Machine/RegWrite.lean` -/

protected theorem Canonical.qctlWrite (h : Canonical s) {n val} : Canonical (s.qctlWrite n val) := h.setQueue

protected theorem Canonical.qbaseWrite (h : Canonical s) {n val} : Canonical (s.qbaseWrite n val) := Canonical.ite h.setQueue h

protected theorem Canonical.qcmdWrite (h : Canonical s) {n cmd} : Canonical (s.qcmdWrite n cmd) := by
  unfold State.qcmdWrite
  split
  · exact h.qOpen
  · exact h.qPause
  · exact h.qResume
  · exact h.qDrain
  · exact h

protected theorem Canonical.serviceWrite (h : Canonical s) {r off low size old bs} : Canonical (s.serviceWrite r off low size old bs) := by
  unfold State.serviceWrite
  dsimp only
  split
  · exact h.baseWrite
  · exact Canonical.ite h.setReg h
  · exact h.setReg
  · exact Canonical.ite h.setReg h
  · exact h

protected theorem Canonical.rstcauseWrite (h : Canonical s) {v} : Canonical (s.rstcauseWrite v) := h.setReg

protected theorem Canonical.headlandWrite (h : Canonical s) {agent off bs} : Canonical (s.headlandWrite agent off bs) := by
  unfold State.headlandWrite
  dsimp only
  refine Canonical.ite h.setReg (.ite (.ite h.setReg h) (.ite (.ite h.pciebif h) (.ite h.setReg (.ite (.ite h.opctlWrite h) (.ite
    (.ite h.eccceClear h) (.ite h.ocauseWrite (.ite (.ite h.setReg h) (.ite h.rstcauseWrite (.ite h.setReg (.ite h.setReg (.ite ?_
    (.ite h.serviceWrite (.ite (.ite h h.setReg) (.ite h.tlbictlWrite (.ite (.ite h.linkctlWrite h) (.ite h.setReg (.ite h.setReg
    (.ite h.iommuRegWrite h))))))))))))))))))
  split
  · exact h.qctlWrite
  · exact h.qbaseWrite
  · exact Canonical.ite (.qcmdWrite (.ite h.setQueue h)) (.ite h.setQueue h)
  · exact h

protected theorem Canonical.dieWrite (h : Canonical s) {chip off bs} :
    Canonical (s.dieWrite chip off bs) :=
  Canonical.ite (Canonical.ite h.setReg h) (Canonical.ite h.serviceWrite (Canonical.ite (Canonical.ite h.icflushGo h)
    (Canonical.ite h.serviceWrite (Canonical.ite (Canonical.ite h.setReg h) (Canonical.ite (Canonical.ite h.eccceClear h) h)))))

protected theorem Canonical.regWrite (h : Canonical s) {agent a bs} : Canonical (s.regWrite agent a bs) := Canonical.ite h.headlandWrite h.dieWrite

protected theorem Canonical.msiWrite (h : Canonical s) {agent a bs} : Canonical (s.msiWrite agent a bs) := Canonical.ite h.msiFor h

protected theorem Canonical.deviceWrite (h : Canonical s) {agent a bs} : Canonical (s.deviceWrite agent a bs) := by
  unfold State.deviceWrite
  dsimp only
  split
  · exact h.msiWrite
  · exact Canonical.foldl (fun _ _ h' => Canonical.ite h' h'.regWrite) h
  · exact h

protected theorem Canonical.execRegisterWrite (h : Canonical s) {agent addr size val} :
    Answers (execRegisterWrite agent addr size val s) :=
  Answers.ite h (Answers.ite (Canonical.ite h.setHart h) (Canonical.ite h.deviceWrite h))

/-! #### `Sys2Proof/Machine/Devices.lean` -/

protected theorem Canonical.deviceRead (h : Canonical s) {a n} :
    Canonical (s.deviceRead a n) :=
  Canonical.ite h.frame (Canonical.ite (Canonical.ite h (Canonical.ite h.frame h.frame)) h.frame)

protected theorem Canonical.deviceStore (h : Canonical s) {a bs} :
    Canonical (s.deviceStore a bs) :=
  Canonical.ite h.frame (Canonical.ite (Canonical.ite h h.ioWrite.frame) h.deviceWrite.frame)

protected theorem Canonical.ioXlate_error {s t : State} (h : Canonical s) {r acc} (e : s.ioXlate r acc = .error t) : Canonical t := by
  unfold State.ioXlate at e
  dsimp only at e
  split at e
  · cases e
  split at e
  · cases e; exact h.ioMiss
  · cases e
  split at e
  · split at e
    · cases e
    · cases e; exact h.ioMiss
  split at e
  · cases e; exact h.ioMiss
  · cases e

protected theorem Canonical.deviceRequest (h : Canonical s) {r} : Canonical (s.deviceRequest r) := by
  unfold State.deviceRequest
  split
  · exact h
  split
  · exact h.ioCommand
  · exact h.frame
  · exact h.ioPageRequest
  · exact h.ioTranslate
  · split
    · exact h
    split
    · exact h.ioXlate_error ‹_›
    · exact (h.ioXlate.of_eq ‹_›).deviceRead
  · split
    · exact h
    split
    · exact h.ioXlate_error ‹_›
    · exact (h.ioXlate.of_eq ‹_›).deviceStore

/-! #### `Sys2Proof/Machine/Traffic.lean` -/

protected theorem Canonical.denyTrap (h : Canonical s) {k yes} : Canonical (s.denyTrap k yes) := Canonical.ite h.modDrill h

protected theorem Canonical.endOp (h : Canonical s) {k o m vals flags} : Canonical (s.endOp k o m vals flags) := h.modDrill.complete.settle

protected theorem Canonical.markSlot (h : Canonical s) {k o lanes addr} : Canonical (s.markSlot k o lanes addr) := h.modDrill

protected theorem Canonical.markLanes (h : Canonical s) {k o lanes addr} : Canonical (s.markLanes k o lanes addr) := Canonical.ite h h.markSlot

protected theorem Canonical.fillLines (h : Canonical s) {w lanes} :
    Canonical (s.fillLines w lanes) :=
  Canonical.foldl (fun _ _ h' => Canonical.ite h'.fillL1 h') h

protected theorem Canonical.evictLines (h : Canonical s) {w lanes} : Canonical (s.evictLines w lanes) := Canonical.foldl (fun _ _ h' => h'.dropL1) h

protected theorem Canonical.landLoad (h : Canonical s) {w o f lanes global} :
    InSome (s.landLoad w o f lanes global) :=
  InSome.ite trivial (Canonical.denyTrap (Canonical.markLanes (Canonical.endOp (Canonical.ite h.frame.fillLines h.frame))))

protected theorem Canonical.landUniform (h : Canonical s) {w o wide l} : InSome (s.landUniform w o wide l) := by
  unfold State.landUniform
  dsimp only
  split
  · trivial
  · exact h.endOp.denyTrap
  · exact h.frame.endOp.markSlot
  · exact h.frame.fillLines.endOp

protected theorem Canonical.landValue (h : Canonical s) {w o v flags} : Canonical (s.landValue w o v flags) := h.endOp

protected theorem Canonical.landWord (h : Canonical s) {w o v} : Canonical (s.landWord w o v) := h.endOp

protected theorem Canonical.landArd (h : Canonical s) {w o vals flags} : InSome (s.landArd w o vals flags) := by
  unfold State.landArd
  dsimp only
  split
  · exact h.endOp.plotDone
  · exact InSome.ite h.endOp.plotDone.setPlot.progress trivial

protected theorem Canonical.landOp (h : Canonical s) {w o} : InSome (s.landOp w o) := by
  unfold State.landOp
  dsimp only
  split
  · exact InSome.ite h.landLoad trivial
  · exact InSome.ite h.landLoad trivial
  · exact InSome.ite h.landUniform trivial
  · exact Canonical.ite h.landValue.invalL1 h.landValue
  · exact Canonical.ite h.landValue.invalL1 h.landValue
  · exact h.landValue
  · exact InSome.ite h.endOp trivial
  · exact InSome.ite h.modDrill.endOp trivial
  · exact h.landWord
  · split
    · exact InSome.ite h.landWord trivial
    · trivial
  · exact h.landWord
  · exact InSome.ite trivial (InSome.ite h.landWord (Canonical.ite h.endOp.invalL1 h.endOp))
  · exact Canonical.ite h.landWord.invalL1 h.landWord
  · exact h.landWord
  · exact h.landWord.plotDone
  · exact h.plotQry.landWord
  · exact h.landArd
  · exact h.endOp
  · exact InSome.ite h.endOp trivial
  · trivial
  · trivial
  · trivial
  · trivial
  trivial

protected theorem Canonical.takeLanes (h : Canonical s) {w o data} : Canonical (s.takeLanes w o data) := h.modDrill

protected theorem Canonical.landEarly (h : Canonical s) {w o m vals} : Canonical (s.landEarly w o m vals) := h.modDrill

protected theorem Canonical.performEarly (h : Canonical s) {w o m write} : InSome (s.performEarly w o m write) := by
  unfold State.performEarly
  dsimp only
  split
  · exact InSome.ite trivial (Canonical.ite h.takeLanes.landEarly h.takeLanes)
  · exact InSome.ite h.modDrill trivial
  split
  · exact InSome.ite h.landEarly trivial
  refine InSome.ite trivial (InSome.ite (Canonical.takeLanes ?_) ?_)
  · split
    · exact h.frame
    · exact h.frame.fillLines
  · split
    · refine Canonical.landEarly (.takeLanes ?_)
      split
      · exact h.frame
      · exact h.frame.fillLines
    · refine Canonical.landEarly (.takeLanes ?_)
      split
      · exact h.frame
      · exact h.frame.fillLines
    · refine Canonical.landEarly (.takeLanes ?_)
      split
      · exact h.frame
      · exact h.frame.fillLines
    trivial

protected theorem Canonical.execVariableResultLanding (h : Canonical s) {k seq evict early} :
    Answers (execVariableResultLanding k seq evict early s) :=
  by
  unfold execVariableResultLanding
  dsimp only
  split
  · exact h
  split
  · exact h
  refine InSome.getD ?_ h
  split
  · exact Canonical.landOp (.ite h.evictLines h)
  · exact Canonical.performEarly (.ite h.evictLines h)

protected theorem Canonical.atomPut (h : Canonical s) {c home pa bs} : Canonical (s.atomPut c home pa bs) := by
  unfold State.atomPut
  dsimp only
  refine Canonical.putL1 (.ite h.cohWrite ?_)
  split
  · exact Canonical.ite h.cohWrite h.ioWrite
  · exact h.ioWrite

protected theorem Canonical.atomLanes (h : Canonical s) {w o op home b d l got bad} : Canonical (atomLanes s w o op home b d l got bad).1 := by
  induction l generalizing s got bad with
  | nil => exact h
  | cons l rest ih =>
    unfold Machine.atomLanes
    dsimp only
    split
    · split
      · exact ih h
      · exact ih h
    split
    · exact ih h
    · apply ih
      split
      · exact h.atomPut
      · exact h

protected theorem Canonical.reduce (h : Canonical s) {c op home l} :
    Canonical (s.reduce c op home l) :=
  Canonical.foldl (fun _ _ h' => Canonical.ite h'.free (Canonical.foldl (fun _ _ h₁ => h₁.putL1) h'.free.atomPut)) h

protected theorem Canonical.redDone (h : Canonical s) {w o} :
    Canonical (s.redDone w o) :=
  Canonical.denyTrap (Canonical.settle (Canonical.modDrill (Canonical.foldl (fun _ _ h' => h'.countErr) h)))

protected theorem Canonical.atomPart (h : Canonical s) {w o n home} : InSome (s.atomPart w o n home) := by
  unfold State.atomPart
  dsimp only
  split
  · refine InSome.ite trivial (Canonical.modDrill (.takeLanes ?_))
    split
    · exact h.reduce
    · exact h.atomLanes
  trivial

protected theorem Canonical.execAtomPerform (h : Canonical s) {k seq home part} : Answers (execAtomPerform k seq home part s) := by
  unfold execAtomPerform
  dsimp only
  split
  · exact h
  split
  · exact h
  split
  · exact InSome.getD h.atomPart h
  refine Answers.ite h ?_
  split
  · exact Answers.ite (Canonical.foldl (fun _ _ h' => h'.redDone.retest) h.free.reduce) h.atomLanes.modDrill.markLanes.denyTrap
  · exact h

protected theorem Canonical.putLocs (h : Canonical s) {w l} : Canonical (s.putLocs w l) := by
  unfold State.putLocs
  refine Canonical.foldl (fun s q h' => ?_) h
  split
  · exact Canonical.ite h'.denyTrap h'.storeBytes
  · exact h'.lsWrite
  · exact h'

protected theorem Canonical.dirtyStash (h : Canonical s) {w addrs} : Canonical (s.dirtyStash w addrs) := by
  unfold State.dirtyStash
  dsimp only
  refine Canonical.foldl (fun s q h' => ?_) h
  split
  · exact h'.modGroup
  · exact h'

protected theorem Canonical.storeLanes (h : Canonical s) {w l} : Canonical (s.storeLanes w l) := by
  unfold State.storeLanes
  dsimp only
  refine Canonical.foldl (fun s q h' => ?_) h
  split
  · exact Canonical.ite h'.denyTrap (.ite h'.storeBytes h')
  · exact h'.deviceWrite
  · split
    · exact Canonical.ite h'.modDrill h'.countErr
    · exact h'
  exact h'

protected theorem Canonical.atomsLanes (h : Canonical s) {w op b d l got bad no} : Canonical (atomsLanes s w op b d l got bad no).1 := by
  induction l generalizing s got bad no with
  | nil => exact h
  | cons l rest ih =>
    unfold Machine.atomsLanes
    dsimp only
    split
    · apply ih
      split
      · exact h.putLocs
      · exact h
    · exact ih h
    · exact ih h

protected theorem Canonical.cacheLine (h : Canonical s) {op l} : Canonical (s.cacheLine op l) := by
  unfold State.cacheLine
  extract_lets all
  have ha {t : State} (ht : Canonical t) : Canonical (all t) := by
    exact ht.mapCores (fun _ c => { c with l1d := tblErase c.l1d l }) (fun _ _ => rfl) rfl
  split
  · exact h.cleanLine
  · exact ha h.dropLine
  · exact ha h.flushLine

protected theorem Canonical.putMbar (h : Canonical s) {w pa o} : Canonical (s.putMbar w pa o) := h.storeBytes

protected theorem Canonical.mbarAct (h : Canonical s) {w seq l f} : InSome (s.mbarAct w seq l f) := by
  unfold State.mbarAct
  refine InSome.ite trivial (InSome.ite h.denyTrap (InSome.ite h.modDrill ?_))
  split
  · exact h.putMbar
  · exact h.modDrill

protected theorem Canonical.postNow (h : Canonical s) {w queue id va} : InSome (s.postNow w queue id va) := by
  unfold State.postNow
  split
  · trivial
  · exact Canonical.postEntry (h.serviceRead.of_eq ‹_›)
  · exact h.postEntry

protected theorem Canonical.leave (h : Canonical s) {w e} : InSome (s.leave w e) := by
  unfold State.leave
  dsimp only
  split
  · exact InSome.ite h.storeLanes trivial
  · exact InSome.ite h.putLocs.dirtyStash trivial
  · refine InSome.ite trivial ?_
    split
    · exact h.atomsLanes.dirtyStash.denyTrap.modDrill.markLanes
    · exact h.atomsLanes.dirtyStash.denyTrap.modDrill
  · exact h.modGroup
  · exact InSome.ite h.modGroup trivial
  · split
    · exact h
    refine InSome.ite trivial ?_
    split
    · exact h.stashUnmap
    · exact h.stashFlush.modGroup
    · exact h.stashInv
  · exact InSome.ite (InSome.ite h.modGroup trivial) (InSome.ite h.modGroup trivial)
  · exact InSome.ite (Canonical.denyTrap (.foldl (fun _ _ h' => Canonical.ite h' h'.cacheLine) h)) trivial
  · exact InSome.ite (Canonical.ite h.invalL1 h) trivial
  · exact InSome.ite h.joinStream trivial
  · exact h.mbarAct
  · exact InSome.ite h.mbarAct trivial
  · exact h.mbarAct
  · exact h.postNow
  · exact h.setEvents
  exact InSome.ite h.cedeSend trivial

protected theorem Canonical.leavePart (h : Canonical s) {w e n} : InSome (s.leavePart w e n) := by
  unfold State.leavePart
  dsimp only
  split
  · exact InSome.map (fun _ h' => h'.modDrill) h.leave
  split
  · refine InSome.ite trivial (InSome.ite trivial (Canonical.modDrill (.dirtyStash ?_)))
    split
    · exact h.atomsLanes.takeLanes
    · exact h.atomsLanes
  trivial

protected theorem Canonical.execStoreQueueDeparture (h : Canonical s) {k part} : Answers (execStoreQueueDeparture k part s) := by
  unfold execStoreQueueDeparture
  split
  · split
    · exact h
    · exact h.frame.deviceWrite
  split
  · exact h
  refine Answers.ite h ?_
  split
  · exact InSome.getD h.leavePart h
  split
  · exact h
  · exact Canonical.retest (.modDrill (h.leave.of_eq ‹_›))

protected theorem Canonical.evict (h : Canonical s) {chip l} : Canonical (s.evict chip l) := by
  unfold State.evict
  dsimp only
  refine Canonical.frame (.stashDrop ?_)
  split
  · exact Canonical.ite h.cleanLine.frame h
  · exact h

protected theorem Canonical.execDirectoryRequest (h : Canonical s) {chip line kind} : Answers (execDirectoryRequest chip line kind s) := by
  unfold execDirectoryRequest
  dsimp only
  split
  · exact h.deviceRequest
  · exact Canonical.ite h.shareLine h
  · exact Canonical.ite h.ownLine h
  · exact Canonical.ite h.evict h
  split
  · exact Canonical.ite h.frame h
  · exact h

protected theorem Canonical.remoteAnswer (h : Canonical s) {w o n ok data} :
    Canonical (s.remoteAnswer w o n ok data) :=
  Canonical.ite h (Canonical.ite h.modDrill.countErr h.modDrill)

protected theorem Canonical.execRemoteResponse (h : Canonical s) {src ok data} : Answers (execRemoteResponse src ok data s) := by
  unfold execRemoteResponse
  dsimp only
  split
  · split
    · exact h
    split
    · exact h
    · exact Canonical.ite h.remoteAnswer h
  split
  · exact h
  split
  · exact h
  · exact Answers.ite h (Canonical.ite h.setDrill h.setDrill.countErr)

protected theorem Canonical.hedgerowWrite (h : Canonical s) {a bs} : Canonical (s.hedgerowWrite a bs) := h.writeHome

protected theorem Canonical.execInboundRemoteAccess (h : Canonical s) {port op addr cmp} :
    Answers (execInboundRemoteAccess port op addr cmp s) :=
  by
  unfold execInboundRemoteAccess
  dsimp only
  refine Answers.ite h (Answers.ite h.frame ?_)
  split
  · exact h.frame
  · exact h.hedgerowWrite.frame
  · refine Canonical.frame ?_
    split
    · exact h.hedgerowWrite
    · exact h
  · refine Canonical.frame ?_
    split
    · exact h.hedgerowWrite
    · exact h
  refine Canonical.frame ?_
  split
  · exact h.hedgerowWrite
  · exact h

/-! #### `Sys2Proof/Machine/Engines.lean` -/

protected theorem Canonical.slotGiven (h : Canonical s) {gid q r j} : Canonical (s.slotGiven gid q r j) := by
  unfold State.slotGiven
  dsimp only
  split
  · exact h.modDrill
  · exact h.modGroup

theorem InSome.of_map {α : Type} {o : Option α} {f : α → State} (h : ∀ a, Canonical (f a)) : InSome (o.map f) := by
  cases o with
  | none => trivial
  | some a => exact h a

protected theorem Canonical.serveFirst (h : Canonical s) {gid ring claim} : InSome (s.serveFirst gid ring claim) := by
  unfold State.serveFirst
  split
  · trivial
  split
  · exact InSome.of_map fun _ => h.setGroup.slotGiven
  · trivial

protected theorem Canonical.execRingRequestServed (h : Canonical s) {gid ring} :
    Answers (execRingRequestServed gid ring s) :=
  InSome.getD (InSome.or h.serveFirst h.serveFirst) h

protected theorem Canonical.modStation (h : Canonical s) {gid out f} : Canonical (s.modStation gid out f) := h.modGroup

protected theorem Canonical.stationSignal (h : Canonical s) {gid out tk} :
    Canonical (s.stationSignal gid out tk) :=
  Canonical.ite h.signalStation.modStation h.signalStation

protected theorem Canonical.execStationDequeue (h : Canonical s) {gid out engine} : Answers (execStationDequeue gid out engine s) := by
  unfold execStationDequeue
  dsimp only
  split
  · exact h
  split
  · exact h
  refine Answers.ite h ?_
  split
  · exact h.modGroup.modStation.stationSignal.stationSignal
  · exact Canonical.ite h.modGroup.modStation.stationSignal.modStation.modGroup h.modGroup.modStation.stationSignal.modStation

protected theorem Canonical.copyUnit (h : Canonical s) {w d got u} : InOk (s.copyUnit w d got u) := by
  unfold State.copyUnit
  split
  · trivial
  split
  · split
    · exact Canonical.frame (h.copyBytes.of_eq ‹_›)
    · exact h.copyBytes.of_eq ‹_›
  exact Canonical.copyWrite (h.copyBytes.of_eq ‹_›) fun _ _ _ h' => h'.deviceWrite

protected theorem Canonical.copyUnits (h : Canonical s) {w d got l n} : Canonical (copyUnits w d got l n s).1 := by
  induction l generalizing s n with
  | nil => exact h
  | cons u rest ih =>
    unfold Machine.copyUnits
    split
    · exact h
    · exact ih (h.copyUnit.of_eq ‹_›)

protected theorem Canonical.readUnits (h : Canonical s) {w d l got} : InSomeFst (readUnits w d l got s) := by
  induction l generalizing s got with
  | nil => exact h
  | cons u rest ih =>
    unfold Machine.readUnits
    split
    · trivial
    · exact ih (h.copyBytes.of_eq ‹_›)

protected theorem Canonical.runCopy (h : Canonical s) {w r d} : Canonical (s.runCopy w r d).1 := by
  unfold State.runCopy
  dsimp only
  exact h.copyUnits.mixUnits

theorem InSomeFst.map {α : Type} {o : Option (State × α)} (h : InSomeFst o) {f : State × α → State}
    (hf : ∀ p, Canonical p.1 → Canonical (f p)) : InSome (o.map f) := by
  cases o with
  | none => trivial
  | some p => exact hf p h

protected theorem Canonical.copyEarly (h : Canonical s) {w out r d units write} : InSome (s.copyEarly w out r d units write) := by
  unfold State.copyEarly
  dsimp only
  split
  · exact h.readUnits.map fun _ h => h.modStation
  split
  · exact (Canonical.of_fst h.copyUnits ‹_›).mixUnits.modStation
  · trivial

protected theorem Canonical.copyUnpoison (h : Canonical s) {w d} : Canonical (s.copyUnpoison w d) := by
  unfold State.copyUnpoison
  dsimp only
  refine Canonical.foldl (fun s l h' => ?_) h
  split
  · exact Canonical.ite (.unpoison (h'.translate.of_eq ‹_›)) (h'.translate.of_eq ‹_›)
  · exact h'

protected theorem Canonical.copyL1 (h : Canonical s) {w d} : Canonical (s.copyL1 w d) := by
  unfold State.copyL1
  refine Canonical.ite h (.foldl (fun s u h' => ?_) h)
  split
  · exact Canonical.dropL1 (h'.translate.of_eq ‹_›)
  · exact h'

protected theorem Canonical.copyDone (h : Canonical s) {w out r d} : Canonical (s.copyDone w out r d) := by
  unfold State.copyDone
  dsimp only
  refine Canonical.ite (.modDrill (.stationSignal ?_)) (.stationSignal ?_)
  · split
    · exact h.modStation.modGroup
    · exact h.modStation
  · split
    · exact h.modStation.modGroup
    · exact h.modStation

protected theorem Canonical.execCopyCompletion (h : Canonical s) {gid out early} : Answers (execCopyCompletion gid out early s) := by
  unfold execCopyCompletion
  split
  · exact h
  refine Answers.ite h ?_
  split
  · exact InSome.getD h.copyEarly h
  split
  · exact Canonical.copyDone (.copyL1 (.copyUnpoison (Canonical.of_fst h.runCopy ‹_›)))
  · exact h

protected theorem Canonical.execCopyFaultStop (h : Canonical s) {gid out} : Answers (execCopyFaultStop gid out s) := by
  unfold execCopyFaultStop
  dsimp only
  split
  · exact h
  refine Answers.ite h ?_
  split
  · exact Canonical.modStation (.faultNew (Canonical.of_fst h.runCopy ‹_›))
  · exact h

protected theorem Canonical.copyAborted (h : Canonical s) {gid out cause} : Canonical (s.copyAborted gid out cause) := h.modStation.trapGroup

protected theorem Canonical.execCopyAbort (h : Canonical s) {gid out} : Answers (execCopyAbort gid out s) := by
  unfold execCopyAbort
  dsimp only
  split
  · exact h
  split
  · exact h.copyAborted
  · split
    · exact h.modStation.plotError
    · exact h.modStation
  split
  · exact Canonical.copyAborted (.ite (Canonical.of_fst h.runCopy ‹_›) (.strayUnits (Canonical.of_fst h.runCopy ‹_›)))
  · exact h

protected theorem Canonical.astWrite (h : Canonical s) {chip ctx seq c nf key l n} : Canonical (astWrite s chip ctx seq c nf key l n).1 := by
  induction l generalizing s n with
  | nil => exact h
  | cons q rest ih =>
    unfold Machine.astWrite
    split
    · exact h
    · have ht := h.translate.of_eq ‹_›
      split
      · exact ht
      split
      · exact h
      extract_lets s1 s2 s3
      have h1 : Canonical s1 := Canonical.ite ht.ioWrite ht.deviceWrite
      have h2 : Canonical s2 := Canonical.ite h1.unpoison h1
      have h3 : Canonical s3 := Canonical.ite h2 h2.frame
      exact ih h3

protected theorem Canonical.runAst (h : Canonical s) {key p r f d} : InSomeFst (s.runAst key p r f d) := by
  unfold State.runAst
  split
  · trivial
  · exact h.astWrite

protected theorem Canonical.astPart (h : Canonical s) {key p r f d n} : InSomeFst (s.astPart key p r f d n) := by
  unfold State.astPart
  split
  · trivial
  split
  · exact Canonical.of_fst h.astWrite ‹_›
  · trivial

protected theorem Canonical.astDone (h : Canonical s) {key p pieces} : Canonical (s.astDone key p pieces) := by
  unfold State.astDone
  dsimp only
  split
  · exact h
  refine Canonical.foldl (fun s l h' => ?_) h
  split
  · refine Canonical.ite (.unpoison ?_) ?_
    · split
      · exact Canonical.dropL1 (h'.translate.of_eq ‹_›)
      · exact h'.translate.of_eq ‹_›
    · split
      · exact Canonical.dropL1 (h'.translate.of_eq ‹_›)
      · exact h'.translate.of_eq ‹_›
  exact h'

protected theorem Canonical.execAstCompletion (h : Canonical s) {plot part} : Answers (execAstCompletion plot part s) := by
  unfold execAstCompletion
  dsimp only
  split
  · exact h
  split
  · exact h
  split
  · split
    · exact Canonical.frame (h.astPart.of_eq ‹_›)
    · exact h
  split
  · exact Canonical.progress (.frame (.astDone (h.runAst.of_eq ‹_›)))
  · exact h

protected theorem Canonical.execAstFaultStop (h : Canonical s) {plot} : Answers (execAstFaultStop plot s) := by
  unfold execAstFaultStop
  dsimp only
  split
  · exact h
  split
  · exact h
  split
  · exact Canonical.frame (.faultNew (h.runAst.of_eq ‹_›))
  · exact h

protected theorem Canonical.execAstAbort (h : Canonical s) {plot} : Answers (execAstAbort plot s) := by
  unfold execAstAbort
  split
  · exact h
  split
  · exact h
  split
  · exact Canonical.plotError (h.runAst.of_eq ‹_›)
  · exact h

/-! #### `Sys2Proof/Machine/Dispatch.lean` -/

protected theorem Canonical.exec (h : Canonical s) {i} : Answers (exec i s) := by
  cases i with
  | nop => exact h.execNop
  | iadd => exact h.execIadd
  | isub => exact h.execIsub
  | imul => exact h.execImul
  | imac => exact h.execImac
  | imnx => exact h.execImnx
  | log => exact h.execLog
  | shf => exact h.execShf
  | bfx => exact h.execBfx
  | bfi => exact h.execBfi
  | bit => exact h.execBit
  | lea => exact h.execLea
  | icmp => exact h.execIcmp
  | sel => exact h.execSel
  | mov => exact h.execMov
  | kop => exact h.execKop
  | iaddi => exact h.execIaddi
  | andi => exact h.execAndi
  | ori => exact h.execOri
  | xori => exact h.execXori
  | shli => exact h.execShli
  | shri => exact h.execShri
  | sari => exact h.execSari
  | movil => exact h.execMovil
  | movih => exact h.execMovih
  | imuli => exact h.execImuli
  | srd => exact h.execSrd
  | swr => exact h.execSwr
  | sysSysc => exact h.execSysSysc
  | sysTrapi => exact h.execSysTrapi
  | sysTret => exact h.execSysTret
  | sysUiret => exact h.execSysUiret
  | sysWaiti => exact h.execSysWaiti
  | svldSavev => exact h.execSvldSavev
  | svldLoadv => exact h.execSvldLoadv
  | svldSaveu => exact h.execSvldSaveu
  | svldLoadu => exact h.execSvldLoadu
  | svldSavep => exact h.execSvldSavep
  | svldLoadp => exact h.execSvldLoadp
  | svldSavex => exact h.execSvldSavex
  | svldLoadx => exact h.execSvldLoadx
  | faddF32 => exact h.execFaddF32
  | fsubF32 => exact h.execFsubF32
  | fmulF32 => exact h.execFmulF32
  | fmacF32 => exact h.execFmacF32
  | fmnxF32 => exact h.execFmnxF32
  | fcmpF32 => exact h.execFcmpF32
  | fsgn => exact h.execFsgn
  | fcls => exact h.execFcls
  | faddiF32 => exact h.execFaddiF32
  | fmuliF32 => exact h.execFmuliF32
  | fmaciF32 => exact h.execFmaciF32
  | hadd => exact h.execHadd
  | hmul => exact h.execHmul
  | hmac => exact h.execHmac
  | hmnx => exact h.execHmnx
  | hmuliBf16x2 => exact h.execHmuliBf16x2
  | hmuliF16x2 => exact h.execHmuliF16x2
  | cvt => exact h.execCvt
  | prmt => exact h.execPrmt
  | prmti => exact h.execPrmti
  | mxsc => exact h.execMxsc
  | vdot => exact h.execVdot
  | qclmp => exact h.execQclmp
  | sfuF32 => exact h.execSfuF32
  | sfuBf16x2 => exact h.execSfuBf16x2
  | idiv => exact h.execIdiv
  | fdivF32 => exact h.execFdivF32
  | lxch => exact h.execLxch
  | qx => exact h.execQx
  | vote => exact h.execVote
  | redx => exact h.execRedx
  | vgeti => exact h.execVgeti
  | vputi => exact h.execVputi
  | tcfg => exact h.execTcfg
  | tmvr => exact h.execTmvr
  | tmvc => exact h.execTmvc
  | trdr => exact h.execTrdr
  | trdc => exact h.execTrdc
  | topZero => exact h.execTopZero
  | topTrans => exact h.execTopTrans
  | topRel => exact h.execTopRel
  | topCopy => exact h.execTopCopy
  | tsave => exact h.execTsave
  | tload => exact h.execTload
  | bra => exact h.execBra
  | brz => exact h.execBrz
  | call => exact h.execCall
  | ret => exact h.execRet
  | jmpu => exact h.execJmpu
  | jmpv => exact h.execJmpv
  | land => exact h.execLand
  | loop => exact h.execLoop
  | mpush => exact h.execMpush
  | minv => exact h.execMinv
  | mpop => exact h.execMpop
  | kmask => exact h.execKmask
  | prefi => exact h.execPrefi
  | exit => exact h.execExit
  | exitSucc => exact h.execExitSucc
  | ld => exact h.execLd
  | st => exact h.execSt
  | lds => exact h.execLds
  | sts => exact h.execSts
  | ldu => exact h.execLdu
  | atomI32 => exact h.execAtomI32
  | atomI64 => exact h.execAtomI64
  | atomF32 => exact h.execAtomF32
  | redI32 => exact h.execRedI32
  | redF32 => exact h.execRedF32
  | redBf16x2 => exact h.execRedBf16x2
  | atoms => exact h.execAtoms
  | fenceAcq => exact h.execFenceAcq
  | fenceRel => exact h.execFenceRel
  | fenceAr => exact h.execFenceAr
  | prefd => exact h.execPrefd
  | cacheWb => exact h.execCacheWb
  | cacheInv => exact h.execCacheInv
  | cacheWbi => exact h.execCacheWbi
  | ringCfg => exact h.execRingCfg
  | ringClm => exact h.execRingClm
  | ringPub => exact h.execRingPub
  | ringWtf => exact h.execRingWtf
  | ringRel => exact h.execRingRel
  | ringWte => exact h.execRingWte
  | ringQry => exact h.execRingQry
  | stashMap => exact h.execStashMap
  | stashUnmap => exact h.execStashUnmap
  | stashFlush => exact h.execStashFlush
  | stashInv => exact h.execStashInv
  | cpyGl => exact h.execCpyGl
  | cpyLg => exact h.execCpyLg
  | cpyGg => exact h.execCpyGg
  | cpyGb => exact h.execCpyGb
  | cpyLb => exact h.execCpyLb
  | cpyFill => exact h.execCpyFill
  | barAll => exact h.execBarAll
  | barPost => exact h.execBarPost
  | barHold => exact h.execBarHold
  | barCroft => exact h.execBarCroft
  | barGrid => exact h.execBarGrid
  | mbarInit => exact h.execMbarInit
  | mbarArr => exact h.execMbarArr
  | mbarWait => exact h.execMbarWait
  | mbarTest => exact h.execMbarTest
  | mbarInv => exact h.execMbarInv
  | lnchPost => exact h.execLnchPost
  | lnchEvsig => exact h.execLnchEvsig
  | lnchEvtst => exact h.execLnchEvtst
  | lnchEvclr => exact h.execLnchEvclr
  | stkCede => exact h.execStkCede
  | stkTake => exact h.execStkTake
  | stkQry => exact h.execStkQry
  | plotRsv => exact h.execPlotRsv
  | plotRel => exact h.execPlotRel
  | plotQry => exact h.execPlotQry
  | plotCarve => exact h.execPlotCarve
  | plotUncarve => exact h.execPlotUncarve
  | plotMerge => exact h.execPlotMerge
  | plotSplit => exact h.execPlotSplit
  | bedClaim => exact h.execBedClaim
  | bedRel => exact h.execBedRel
  | bedLdv => exact h.execBedLdv
  | bedZero => exact h.execBedZero
  | bedScl => exact h.execBedScl
  | mma => exact h.execMma
  | msyncOpf => exact h.execMsyncOpf
  | msyncWait => exact h.execMsyncWait
  | msyncDrain => exact h.execMsyncDrain
  | ard => exact h.execArd
  | awr => exact h.execAwr
  | ast => exact h.execAst
  | azr => exact h.execAzr
  | svlStkgrant => exact h.execSvlStkgrant
  | ctxBuild => exact h.execCtxBuild
  | ctxActivate => exact h.execCtxActivate
  | ctxPreempt => exact h.execCtxPreempt
  | ctxKill => exact h.execCtxKill
  | ctxRelease => exact h.execCtxRelease
  | ctxBudget => exact h.execCtxBudget
  | ctxPriority => exact h.execCtxPriority
  | ctxRestart => exact h.execCtxRestart
  | svlSysret => exact h.execSvlSysret
  | svlFqdone => exact h.execSvlFqdone
  | svlFqkill => exact h.execSvlFqkill
  | svlQpost => exact h.execSvlQpost
  | svlQfence => exact h.execSvlQfence
  | svlEvsig => exact h.execSvlEvsig
  | svlEvclr => exact h.execSvlEvclr
  | svlEvwait => exact h.execSvlEvwait
  | swathArbitration => exact h.execSwathArbitration
  | stallEnd => exact h.execStallEnd
  | resultLanding => exact h.execResultLanding
  | variableResultLanding => exact h.execVariableResultLanding
  | storeQueueDeparture => exact h.execStoreQueueDeparture
  | longWaitMet => exact h.execLongWaitMet
  | waitiDeadline => exact h.execWaitiDeadline
  | boundaryTrap => exact h.execBoundaryTrap
  | userInterruptDelivery => exact h.execUserInterruptDelivery
  | preempt => exact h.execPreempt
  | overrun => exact h.execOverrun
  | budgetExhausted => exact h.execBudgetExhausted
  | fetchBufferRequest => exact h.execFetchBufferRequest
  | icacheFillDone => exact h.execIcacheFillDone
  | fetchFault => exact h.execFetchFault
  | directoryRequest => exact h.execDirectoryRequest
  | atomPerform => exact h.execAtomPerform
  | ringRequestServed => exact h.execRingRequestServed
  | stationDequeue => exact h.execStationDequeue
  | copyCompletion => exact h.execCopyCompletion
  | copyFaultStop => exact h.execCopyFaultStop
  | copyAbort => exact h.execCopyAbort
  | collectiveAssembly => exact h.execCollectiveAssembly
  | plotCommandDequeue => exact h.execPlotCommandDequeue
  | mmaStart => exact h.execMmaStart
  | mmaCompletion => exact h.execMmaCompletion
  | postedBedWriteDone => exact h.execPostedBedWriteDone
  | astFaultStop => exact h.execAstFaultStop
  | plotEccError => exact h.execPlotEccError
  | cedeAccept => exact h.execCedeAccept
  | handoverDrainStep => exact h.execHandoverDrainStep
  | handoverPortOpen => exact h.execHandoverPortOpen
  | stackZeroingDone => exact h.execStackZeroingDone
  | groupPlacement => exact h.execGroupPlacement
  | groupExitSequence => exact h.execGroupExitSequence
  | groupRecordWrite => exact h.execGroupRecordWrite
  | groupRestore => exact h.execGroupRestore
  | contextRetire => exact h.execContextRetire
  | syscallQueuePost => exact h.execSyscallQueuePost
  | taskPost => exact h.execTaskPost
  | faultRecordPost => exact h.execFaultRecordPost
  | packetCheck => exact h.execPacketCheck
  | kcbRead => exact h.execKcbRead
  | qcmdOpen => exact h.execQcmdOpen
  | qcmdPause => exact h.execQcmdPause
  | qcmdResume => exact h.execQcmdResume
  | qcmdDrain => exact h.execQcmdDrain
  | queueDrainDone => exact h.execQueueDrainDone
  | scqbaseWrite => exact h.execScqbaseWrite
  | scqheadWrite => exact h.execScqheadWrite
  | fqbaseWrite => exact h.execFqbaseWrite
  | fqheadWrite => exact h.execFqheadWrite
  | tlbiVaAsid => exact h.execTlbiVaAsid
  | tlbiAsid => exact h.execTlbiAsid
  | tlbiVaAll => exact h.execTlbiVaAll
  | tlbiAll => exact h.execTlbiAll
  | shootdownDone => exact h.execShootdownDone
  | icflushGo => exact h.execIcflushGo
  | icflushDone => exact h.execIcflushDone
  | linkIsolate => exact h.execLinkIsolate
  | linkReset => exact h.execLinkReset
  | linkRetrain => exact h.execLinkRetrain
  | linkTrainingDone => exact h.execLinkTrainingDone
  | linkLaneFailure => exact h.execLinkLaneFailure
  | directoryTimeout => exact h.execDirectoryTimeout
  | heartbeatTimeout => exact h.execHeartbeatTimeout
  | linkUncorrectableError => exact h.execLinkUncorrectableError
  | pcieContainment => exact h.execPcieContainment
  | chipletIsolation => exact h.execChipletIsolation
  | chipletResetDone => exact h.execChipletResetDone
  | pciebifWrite => exact h.execPciebifWrite
  | remoteResponse => exact h.execRemoteResponse
  | inboundRemoteAccess => exact h.execInboundRemoteAccess
  | opctlWrite => exact h.execOpctlWrite
  | clockTransitionDone => exact h.execClockTransitionDone
  | tsensRefresh => exact h.execTsensRefresh
  | thermalTrip => exact h.execThermalTrip
  | overCurrentAlarm => exact h.execOverCurrentAlarm
  | ocauseWrite => exact h.execOcauseWrite
  | eccceWrite => exact h.execEccceWrite
  | uvSramError => exact h.execUvSramError
  | coldReset => exact h.execColdReset
  | warmReset => exact h.execWarmReset
  | attestationRequest => exact h.execAttestationRequest
  | registerWrite => exact h.execRegisterWrite
  | astCompletion => exact h.execAstCompletion
  | astAbort => exact h.execAstAbort
  | bedZeroSclCompletion => exact h.execBedZeroSclCompletion
  | sramCorrectedError => exact h.execSramCorrectedError

/-! #### `Sys2Proof/Machine/Csr.lean` -/

protected theorem Canonical.csrWrite (h : Canonical s) {n h0 num v} : Canonical (csrWrite s n h0 num v).1 := by
  unfold Machine.csrWrite
  extract_lets
  split
  · exact h
  split
  any_goals exact h
  all_goals
    split
    · exact h.frame
    · exact h

/-! #### `Sys2Proof/Machine/RvBase.lean` -/

protected theorem Canonical.rvIllegal  {r} : InRv (Rv.illegal r) := InRv.trap

protected theorem Canonical.rvGive (h : Canonical s) {r v} : InRv (Rv.give r s v) := h.rvNext

protected theorem Canonical.rvOver (h : Canonical s) {r} : InRv (Rv.over r s) := h.rvNext

protected theorem Canonical.rvValue (h : Canonical s) {r v} : InRv (Rv.value r s v) := by
  unfold Rv.value
  split
  · exact h.rvGive
  · exact Canonical.rvIllegal

protected theorem Canonical.hartBytes (h : Canonical s) {h0 acc va n} : InOkFst (hartBytes s h0 acc va n) := by
  unfold hartBytes
  split
  · trivial
  · trivial
  split
  · exact h
  split
  · trivial
  · exact h.frame

protected theorem Canonical.missEff  {m} : InRv (missEff m) := by
  unfold missEff
  split
  · exact InRv.wait
  · exact InRv.trap

protected theorem Canonical.hartRead {use : State → DWord → RvEff} (h : Canonical s) (huse : ∀ y0 y1, Canonical y0 → InRv
    (use y0 y1)) {h0 acc va n} : InRv (hartRead s h0 acc va n use) := by
  unfold hartRead
  split
  · exact Canonical.missEff
  · exact huse _ _ (h.hartBytes.of_eq ‹_›)

protected theorem Canonical.hartPut (h : Canonical s) {n pas bs} : Canonical (s.hartPut n pas bs) := by
  unfold State.hartPut
  dsimp only
  split
  · exact Canonical.ite h.cohWrite h.ioWrite
  · exact h.deviceWrite
  · split
    · exact Canonical.ite h h.countErr
    · exact h
  exact h

protected theorem Canonical.hartPlaces {use : List ℕ → RvEff} (_h : Canonical s) (huse : ∀ y0, InRv (use y0)) {h0 acc va n} :
    InRv (hartPlaces s h0 acc va n use) :=
  by
  unfold hartPlaces
  split
  · exact Canonical.missEff
  · exact huse _

/-! #### `Sys2Proof/Machine/VecBase.lean` -/

protected theorem Canonical.rvVFinish (h : Canonical s) {r h0 flags} : InRv (Rv.vFinish r s h0 flags) := h.frame.rvNext

protected theorem Canonical.rvVElems (h : Canonical s) {r c d srcs f apart on lo} :
    InRv (Rv.vElems r s c d srcs f apart on lo) :=
  InRv.ite Canonical.rvIllegal (InRv.ite h.rvVFinish h.rvVFinish)

protected theorem Canonical.rvVBits (h : Canonical s) {r c srcs f apart on} :
    InRv (Rv.vBits r s c srcs f apart on) :=
  InRv.ite Canonical.rvIllegal (InRv.ite h.rvVFinish h.rvVFinish)

protected theorem Canonical.rvVReduce (h : Canonical s) {r c e f} :
    InRv (Rv.vReduce r s c e f) :=
  InRv.ite Canonical.rvIllegal (InRv.ite h.rvVFinish h.rvVFinish)

protected theorem Canonical.rvVToX (h : Canonical s) {r v} : InRv (Rv.vToX r s v) := h.rvVFinish

protected theorem Canonical.rvVFirst (h : Canonical s) {r c v} : InRv (Rv.vFirst r s c v) := InRv.ite h.rvVFinish h.rvVFinish

/-! #### `Sys2Proof/Machine/VecInt.lean` -/

protected theorem Canonical.rvVMoveWhole (h : Canonical s) {r c} : InRv (Rv.vMoveWhole r s c) := InRv.ite Canonical.rvIllegal h.rvVFinish

protected theorem Canonical.rvVOpi (h : Canonical s) {r c} : InRv (Rv.vOpi r s c) := by
  unfold Rv.vOpi
  dsimp only
  split
  · exact InRv.ite h.rvVElems h.rvVElems
  · exact InRv.ite h.rvVElems h.rvVElems
  · exact InRv.ite Canonical.rvIllegal h.rvVElems
  · exact InRv.ite Canonical.rvIllegal h.rvVElems
  · exact InRv.ite Canonical.rvIllegal h.rvVElems
  · exact InRv.ite Canonical.rvIllegal h.rvVBits
  · exact InRv.ite Canonical.rvIllegal h.rvVBits
  · exact InRv.ite (InRv.ite Canonical.rvIllegal h.rvVElems) h.rvVElems
  · exact InRv.ite Canonical.rvIllegal h.rvVBits
  · exact InRv.ite Canonical.rvIllegal h.rvVBits
  · exact InRv.ite Canonical.rvIllegal h.rvVBits
  · exact InRv.ite Canonical.rvIllegal h.rvVBits
  · exact InRv.ite Canonical.rvIllegal h.rvVBits
  · exact InRv.ite Canonical.rvIllegal h.rvVBits
  · exact InRv.ite Canonical.rvIllegal h.rvVBits
  · exact InRv.ite Canonical.rvIllegal h.rvVBits
  · exact h.rvVElems
  · exact h.rvVElems
  · exact h.rvVElems
  · exact h.rvVElems
  · exact InRv.ite Canonical.rvIllegal h.rvVReduce
  · exact InRv.ite Canonical.rvIllegal h.rvVReduce
  · exact h.rvVElems
  · exact InRv.ite h.rvVMoveWhole (InRv.ite Canonical.rvIllegal h.rvVElems)

protected theorem Canonical.rvVScalar (h : Canonical s) {r c} : InRv (Rv.vScalar r s c) := by
  unfold Rv.vScalar
  split
  · exact InRv.ite h.rvVToX Canonical.rvIllegal
  · exact InRv.ite Canonical.rvIllegal h.rvVToX
  · exact InRv.ite Canonical.rvIllegal h.rvVToX
  · exact Canonical.rvIllegal

protected theorem Canonical.rvVUnary (h : Canonical s) {r c} : InRv (Rv.vUnary r s c) := by
  unfold Rv.vUnary
  dsimp only
  refine InRv.ite (InRv.ite Canonical.rvIllegal h.rvVElems) ?_
  split
  · exact h.rvVElems
  · exact h.rvVElems
  · exact h.rvVElems
  · exact h.rvVElems
  · exact h.rvVElems
  · exact h.rvVElems
  · exact Canonical.rvIllegal

protected theorem Canonical.rvVMaskOp (h : Canonical s) {r c} : InRv (Rv.vMaskOp r s c) := by
  unfold Rv.vMaskOp
  dsimp only
  split
  · exact InRv.ite Canonical.rvIllegal h.rvVBits
  · exact InRv.ite Canonical.rvIllegal h.rvVBits
  · exact InRv.ite Canonical.rvIllegal h.rvVBits
  · exact InRv.ite Canonical.rvIllegal h.rvVElems
  · exact InRv.ite Canonical.rvIllegal h.rvVElems
  · exact Canonical.rvIllegal

protected theorem Canonical.rvVCompress (h : Canonical s) {r c} :
    InRv (Rv.vCompress r s c) :=
  InRv.ite Canonical.rvIllegal (InRv.ite h.rvVFinish h.rvVFinish)

protected theorem Canonical.rvVOpm (h : Canonical s) {r c} : InRv (Rv.vOpm r s c) := by
  unfold Rv.vOpm
  dsimp only
  refine InRv.ite (InRv.ite h.rvVReduce Canonical.rvIllegal) ?_
  split
  · exact InRv.ite Canonical.rvIllegal h.rvVElems
  · exact InRv.ite Canonical.rvIllegal h.rvVElems
  · exact InRv.ite h.rvVScalar (InRv.ite h.rvVFirst Canonical.rvIllegal)
  · exact InRv.ite h.rvVUnary Canonical.rvIllegal
  · exact InRv.ite h.rvVMaskOp Canonical.rvIllegal
  · exact InRv.ite h.rvVCompress Canonical.rvIllegal
  · exact InRv.ite Canonical.rvIllegal h.rvVBits
  · exact InRv.ite Canonical.rvIllegal h.rvVBits
  · exact InRv.ite Canonical.rvIllegal h.rvVBits
  · exact InRv.ite Canonical.rvIllegal h.rvVBits
  · exact InRv.ite Canonical.rvIllegal h.rvVBits
  · exact InRv.ite Canonical.rvIllegal h.rvVBits
  · exact InRv.ite Canonical.rvIllegal h.rvVBits
  · exact InRv.ite Canonical.rvIllegal h.rvVBits
  · exact h.rvVElems
  · exact h.rvVElems
  · exact h.rvVElems
  · exact h.rvVElems
  · exact InRv.ite h.rvVElems (InRv.ite h.rvVElems Canonical.rvIllegal)

/-! #### `Sys2Proof/Machine/VecFloat.lean` -/

protected theorem Canonical.rvVConvert (h : Canonical s) {r c m} : InRv (Rv.vConvert r s c m) := by
  unfold Rv.vConvert
  dsimp only
  refine InRv.ite Canonical.rvIllegal ?_
  split
  · split
    · exact h.rvVElems
    · exact Canonical.rvIllegal
  · split
    · exact h.rvVElems
    · exact Canonical.rvIllegal
  · split
    · exact h.rvVElems
    · exact Canonical.rvIllegal
  · split
    · exact h.rvVElems
    · exact Canonical.rvIllegal
  · split
    · exact h.rvVElems
    · exact Canonical.rvIllegal
  · split
    · exact h.rvVElems
    · exact Canonical.rvIllegal
  · split
    · exact InRv.ite Canonical.rvIllegal h.rvVElems
    · exact Canonical.rvIllegal
  exact InRv.ite h.rvVElems Canonical.rvIllegal

protected theorem Canonical.rvVFpUnary (h : Canonical s) {r c f m} : InRv (Rv.vFpUnary r s c f m) := by
  unfold Rv.vFpUnary
  dsimp only
  split
  · exact h.rvVElems
  · exact h.rvVElems
  · exact h.rvVElems
  · exact h.rvVElems
  · exact Canonical.rvIllegal

protected theorem Canonical.rvVOpf (h : Canonical s) {r c} : InRv (Rv.vOpf r s c) := by
  unfold Rv.vOpf
  dsimp only
  split
  · exact Canonical.rvIllegal
  refine InRv.ite Canonical.rvIllegal (InRv.ite (InRv.ite h.rvVConvert Canonical.rvIllegal) ?_)
  split
  · exact Canonical.rvIllegal
  split
  · exact InRv.ite h.rvVReduce Canonical.rvIllegal
  · exact InRv.ite h.rvVReduce Canonical.rvIllegal
  · exact InRv.ite h.rvVReduce Canonical.rvIllegal
  · exact InRv.ite h.rvVReduce Canonical.rvIllegal
  · exact InRv.ite Canonical.rvIllegal h.rvVElems
  · exact InRv.ite Canonical.rvIllegal h.rvVElems
  · exact InRv.ite Canonical.rvIllegal (InRv.ite (InRv.ite h.rvVFinish Canonical.rvIllegal) (InRv.ite h.rvVFirst Canonical.rvIllegal))
  · exact InRv.ite h.rvVFpUnary Canonical.rvIllegal
  · exact InRv.ite Canonical.rvIllegal (InRv.ite (InRv.ite Canonical.rvIllegal h.rvVElems) h.rvVElems)
  · exact InRv.ite Canonical.rvIllegal h.rvVBits
  · exact InRv.ite Canonical.rvIllegal h.rvVBits
  · exact InRv.ite Canonical.rvIllegal h.rvVBits
  · exact InRv.ite Canonical.rvIllegal h.rvVBits
  · exact InRv.ite Canonical.rvIllegal h.rvVBits
  · exact InRv.ite Canonical.rvIllegal h.rvVBits
  · split
    · exact Canonical.rvIllegal
    · exact InRv.ite Canonical.rvIllegal h.rvVReduce
  · split
    · exact Canonical.rvIllegal
    · exact InRv.ite Canonical.rvIllegal h.rvVReduce
  refine InRv.ite (InRv.ite Canonical.rvIllegal h.rvVElems) ?_
  split
  · exact Canonical.rvIllegal
  · exact InRv.ite Canonical.rvIllegal h.rvVElems

/-! #### `Sys2Proof/Machine/RvVector.lean` -/

protected theorem Canonical.rvVSetVl (h : Canonical s) {r bytes} :
    InRv (Rv.vSetVl r s bytes) :=
  InRv.ite h.rvNext (InRv.ite h.rvNext (InRv.ite h.rvNext Canonical.rvIllegal))

protected theorem Canonical.rvVField {p : State × Hart} (h : Canonical p.1) {r c x store i f} : InOkFst (Rv.vField r c x store i f p) := by
  unfold Rv.vField
  dsimp only
  split
  · cases hartSpots p.1 r.h.dataMode .store (x.place i f) (x.d.eew / 8) with
    | error m => trivial
    | ok pas => exact h.hartPut
  · have hb : InOkFst (hartBytes p.1 r.h.dataMode .load (x.place i f) (x.d.eew / 8)) := h.hartBytes
    cases e : hartBytes p.1 r.h.dataMode .load (x.place i f) (x.d.eew / 8) with
    | error m => trivial
    | ok v => exact hb.of_eq' e

protected theorem Canonical.rvVFields {p : State × Hart} (h : Canonical p.1) {r c x store i} {fs : List Nat} :
    InOkFst (fs.foldlM (fun p f => Rv.vField r c x store i f p) p) :=
  by
  induction fs generalizing p with
  | nil => exact h
  | cons f fs ih =>
    rw [List.foldlM_cons]
    cases e : Rv.vField r c x store i f p with
    | error m => trivial
    | ok q => exact ih (h.rvVField.of_eq' e)

protected theorem Canonical.rvVRun {p : State × Hart} (h : Canonical p.1) {r c x store l} : Canonical (Rv.vRun r c x store l p).1.1 := by
  induction l generalizing p with
  | nil => exact h
  | cons i is ih =>
    unfold Rv.vRun
    split
    · exact h
    · exact ih (h.rvVFields.of_eq' ‹_›)

protected theorem Canonical.rvVMove (h : Canonical s) {r c x store} : InRv (Rv.vMove r s c x store) := by
  unfold Rv.vMove
  extract_lets todo rest
  have hr : Canonical (r.vRun c x store todo (s, r.h)).1.1 := Canonical.rvVRun (p := (s, r.h)) h
  generalize r.vRun c x store todo (s, r.h) = out at hr
  obtain ⟨⟨t, u⟩, m⟩ := out
  split
  · next e => cases e; exact Canonical.rvVFinish (.frame hr)
  · trivial
  · next e => cases e; exact InRv.ite (Canonical.rvVFinish (.frame hr)) hr

protected theorem Canonical.rvVectorMem (h : Canonical s) {r store} : InRv (Rv.vectorMem r s store) := by
  unfold Rv.vectorMem
  dsimp only
  refine InRv.ite Canonical.rvIllegal (InRv.ite (InRv.ite Canonical.rvIllegal h.rvVMove) ?_)
  split
  · exact Canonical.rvIllegal
  · exact InRv.ite (InRv.ite Canonical.rvIllegal h.rvVMove) (InRv.ite Canonical.rvIllegal h.rvVMove)

protected theorem Canonical.rvVector (h : Canonical s) {r} : InRv (Rv.vector r s) := by
  unfold Rv.vector
  refine InRv.ite Canonical.rvIllegal (InRv.ite h.rvVSetVl ?_)
  split
  · exact Canonical.rvIllegal
  split
  · exact h.rvVOpi
  · exact h.rvVOpi
  · exact h.rvVOpi
  · exact h.rvVOpm
  · exact h.rvVOpm
  · exact h.rvVOpf

/-! #### `Sys2Proof/Machine/Riscv.lean` -/

protected theorem Canonical.rvStore (h : Canonical s) {r h0 va n v} : InRv (Rv.store r s h0 va n v) := h.hartPlaces fun _ => h.hartPut.rvOver

protected theorem Canonical.rvLoads (h : Canonical s) {r} :
    InRv (Rv.loads r s) :=
  InRv.ite Canonical.rvIllegal (h.hartRead (fun _ _ h' => h'.rvGive))

protected theorem Canonical.rvStores (h : Canonical s) {r} : InRv (Rv.stores r s) := InRv.ite Canonical.rvIllegal h.rvStore

protected theorem Canonical.rvAmo (h : Canonical s) {r} : InRv (Rv.amo r s) := by
  unfold Rv.amo
  dsimp only
  refine InRv.ite Canonical.rvIllegal (InRv.ite InRv.trap (InRv.ite ?_ (h.hartPlaces (fun _ => InRv.ite InRv.trap (InRv.ite
    (Canonical.rvNext (.ite h.hartPut h)) (InRv.ite InRv.trap ?_))))))
  · split
    · exact InRv.wait
    · exact InRv.trap
    · exact InRv.ite InRv.trap h.rvNext
  · split
    · exact h.hartPut.rvGive
    · exact Canonical.rvIllegal

protected theorem Canonical.rvCbo (h : Canonical s) {r} : InRv (Rv.cbo r s) := by
  unfold Rv.cbo
  dsimp only
  refine InRv.ite Canonical.rvIllegal (InRv.ite Canonical.rvIllegal (InRv.ite InRv.trap (h.hartPlaces (fun _ => InRv.ite
    (InRv.ite InRv.trap (InRv.ite h.rvOver h.hartPut.unpoison.rvOver)) (InRv.ite h.rvOver (Canonical.rvOver ?_))))))
  split
  · exact Canonical.ite h.flushLine h.dropLine
  · exact h.cleanLine
  · exact h.flushLine

protected theorem Canonical.rvCsr (h : Canonical s) {r} : InRv (Rv.csr r s) := by
  unfold Rv.csr
  dsimp only
  split
  · exact InRv.trap
  split
  · exact Canonical.rvIllegal
  refine Canonical.rvNext ?_
  split
  · exact h.frame.csrWrite
  · exact h.frame

theorem InRv.rvSupervisor {ok : RvEff} (h : InRv ok) {r mbit hbit} : InRv (Rv.supervisor r mbit hbit ok) := by
  unfold Rv.supervisor
  dsimp only
  split
  · exact h
  · exact InRv.ite Canonical.rvIllegal h
  · exact Canonical.rvIllegal
  · split
    · exact InRv.ite InRv.trap h
    · exact InRv.trap
  exact InRv.trap

protected theorem Canonical.rvWfi (h : Canonical s) {r} :
    InRv (Rv.wfi r s) :=
  InRv.ite Canonical.rvIllegal (InRv.rvSupervisor (InRv.ite h.rvOver InRv.wait))

protected theorem Canonical.rvGuestAccess (h : Canonical s) {r} : InRv (Rv.guestAccess r s) := by
  unfold Rv.guestAccess
  dsimp only
  refine InRv.ite InRv.trap (InRv.ite Canonical.rvIllegal (InRv.ite (InRv.ite Canonical.rvIllegal h.rvStore) ?_))
  split
  · exact Canonical.rvIllegal
  · exact h.hartRead fun _ _ h' => h'.rvGive

protected theorem Canonical.rvSystem (h : Canonical s) {r} : InRv (Rv.system r s) := by
  unfold Rv.system
  dsimp only
  split
  · exact InRv.trap
  · exact InRv.trap
  · exact InRv.ite h.rvNext Canonical.rvIllegal
  · exact h.rvNext.rvSupervisor
  · exact h.rvWfi
  · exact h.rvOver
  · exact h.rvOver
  · exact h.rvOver.rvSupervisor
  · exact h.rvOver.rvSupervisor
  refine InRv.ite Canonical.rvIllegal ?_
  split
  · exact h.rvOver.rvSupervisor
  · exact h.rvOver.rvSupervisor
  · exact h.rvOver.rvSupervisor
  · exact h.rvOver.rvSupervisor
  · exact h.rvOver.rvSupervisor
  · exact h.rvOver.rvSupervisor
  · exact Canonical.rvIllegal

protected theorem Canonical.rvFloat (h : Canonical s) {r} : InRv (Rv.float r s) := by
  unfold Rv.float
  dsimp only
  refine InRv.ite Canonical.rvIllegal ?_
  split
  · exact h.rvNext
  · exact Canonical.rvIllegal

protected theorem Canonical.rvFloatMem (h : Canonical s) {r store} :
    InRv (Rv.floatMem r s store) :=
  InRv.ite (InRv.ite Canonical.rvIllegal (InRv.ite h.rvStore (h.hartRead (fun _ _ h' => h'.rvNext))))
    (InRv.ite h.rvVectorMem Canonical.rvIllegal)

protected theorem Canonical.rvRun (h : Canonical s) {r} : InRv (Rv.run r s) := by
  unfold Rv.run
  dsimp only
  split
  · exact h.rvGive
  · exact h.rvGive
  · exact h.rvNext
  · exact InRv.ite h.rvNext Canonical.rvIllegal
  · split
    · exact h.rvNext
    · exact h.rvOver
    · exact Canonical.rvIllegal
  · exact h.rvLoads
  · exact h.rvStores
  · exact h.rvValue
  · exact h.rvValue
  · exact h.rvValue
  · exact h.rvValue
  · split
    · exact h.rvOver
    · exact h.rvOver
    · exact h.rvCbo
    · exact Canonical.rvIllegal
  · exact h.rvAmo
  · exact InRv.ite h.rvSystem (InRv.ite h.rvCsr (InRv.ite h.rvGive (InRv.ite h.rvGuestAccess Canonical.rvIllegal)))
  · exact h.rvFloatMem
  · exact h.rvFloatMem
  · exact h.rvFloat
  · exact h.rvFloat
  · exact h.rvFloat
  · exact h.rvFloat
  · exact h.rvFloat
  · exact h.rvVector
  exact Canonical.rvIllegal

protected theorem Canonical.hartBase {s : State} (h : Canonical s) {n w} : Answers (hartBase s n w) := by
  unfold Machine.hartBase
  extract_lets x short full eff
  have he : InRv eff := by
    dsimp only [eff]
    cases full with
    | none => exact InRv.trap
    | some w' => exact h.rvRun
  cases e : eff with
  | next s' h' => exact Canonical.setHart (he.of_eq e)
  | trap c v g => exact h.setHart
  | wait => exact h

protected theorem Canonical.keepResv (h : Canonical s) : Canonical (s.keepResv) := h.frame

/-! #### `Sys2Proof/Machine/Turn.lean` -/

protected theorem Canonical.stepDrill (h : Canonical s) {k} : Answers (stepDrill s k) := by
  unfold stepDrill
  split
  · exact h
  refine Answers.ite h ?_
  split
  · exact h.stallOn
  split
  · exact h.exec
  · exact h.raise

protected theorem Canonical.stepHart (h : Canonical s) {n} : Answers (stepHart s n) := by
  unfold stepHart
  dsimp only
  refine Answers.ite h ?_
  split
  · exact h.setHart
  split
  · exact h
  · exact h.setHart
  split
  · exact h.exec
  · exact h.hartBase

protected theorem Canonical.actTurn (h : Canonical s) {a} : Answers (Machine.act s a) := by
  unfold Machine.act
  split
  · exact h.stepDrill
  · exact h.stepHart
  · exact Answers.ite h.exec h

protected theorem Canonical.after (h : Canonical s) : Canonical (s.after) := h.watch.suspend.age.keepResv

protected theorem Canonical.begun (h : Canonical s) : Canonical (s.begun) := h.nextTurn.pass.tripDue.frame

theorem Answers.afterAct {o : Host.Outcome State Fault Refusal} (h : Answers o) : Answers (afterAct o) := by
  cases o with
  | next s => exact Canonical.after h
  | fault r => trivial
  | refused r => trivial

protected theorem Canonical.turn (h : Canonical s) : Answers (turn s) :=
  Answers.afterAct h.begun.actTurn

/-! #### `Sys2Proof/Machine/Step.lean` -/

protected theorem Canonical.step (h : Canonical s) : Answers (step s) := h.turn

/-! ### The obligation -/

/-- Settles O4: a step is a turn, and a turn keeps the canonical form. -/
theorem stepKeepsMemory : Obligations.StepKeepsMemory := by
  unfold Obligations.StepKeepsMemory
  intro s s' hm hl e
  have hs : Canonical s' := (Canonical.step ⟨hm, hl⟩).of_eq e
  exact ⟨hs.mem, hs.ls⟩

end Sys2Proof.Proofs
end


section
/-!
BYTES OF MEMORY (R15, R151). What a byte of home memory and a byte in package order read after each write: by cells, at home, by an
I/O-coherent write (`State.ioWrite`) and by a coherent one (`State.cohWrite`).
-/
namespace Sys2Proof.Proofs
open Sys2Proof.Machine

/-! ### Values and their bytes -/

theorem foldr_bytes_lt (bs : List Byte) : bs.foldr (fun b acc => b.toNat + 256 * acc) 0 < 2 ^ (8 * bs.length) := by
  induction bs with
  | nil => simp
  | cons b bs ih =>
    have hb := b.isLt
    rw [List.foldr_cons, List.length_cons, Nat.mul_add, Nat.pow_add, show 2 ^ (8 * 1) = 256 from rfl]
    omega

theorem toNat_ofBytes {w : Nat} {bs : List Byte} (h : 8 * bs.length ≤ w) :
    (ofBytes w bs).toNat = bs.foldr (fun b acc => b.toNat + 256 * acc) 0 := by
  rw [ofBytes, BitVec.toNat_ofNat]
  exact Nat.mod_eq_of_lt ((foldr_bytes_lt bs).trans_le (Nat.pow_le_pow_right (by decide) h))

theorem foldr_bytes_div (bs : List Byte) (j : Nat) :
    bs.foldr (fun b acc => b.toNat + 256 * acc) 0 / 2 ^ (8 * j) % 256 = (bs.getD j 0).toNat := by
  induction bs generalizing j with
  | nil => simp
  | cons b bs ih =>
    have hb := b.isLt
    cases j with
    | zero => simp; omega
    | succ j =>
      rw [List.foldr_cons, Nat.mul_add, Nat.add_comm (8 * j), Nat.pow_add, ← Nat.div_div_eq_div_mul,
        show (b.toNat + 256 * bs.foldr (fun b acc => b.toNat + 256 * acc) 0) / 2 ^ (8 * 1) =
          bs.foldr (fun b acc => b.toNat + 256 * acc) 0 by omega, ih]
      rfl

/-- A byte of a value that is made of bytes. -/
theorem extractLsb'_ofBytes {w : Nat} {bs : List Byte} (h : 8 * bs.length ≤ w) (j : Nat) :
    (ofBytes w bs).extractLsb' (8 * j) 8 = bs.getD j 0 := by
  apply BitVec.eq_of_toNat_eq
  rw [BitVec.extractLsb'_toNat, toNat_ofBytes h, Nat.shiftRight_eq_div_pow, foldr_bytes_div]

theorem setWidth_ofBytes {v w : Nat} (h : w ≤ v) (bs : List Byte) : (ofBytes v bs).setWidth w = ofBytes w bs := by
  apply BitVec.eq_of_toNat_eq
  simp [ofBytes, Nat.mod_mod_of_dvd _ (Nat.pow_dvd_pow 2 h)]

theorem toBytes_ofBytes {w : Nat} {bs : List Byte} (h : 8 * bs.length ≤ w) : toBytes (ofBytes w bs) bs.length = bs := by
  refine List.ext_getElem (by simp [toBytes]) fun j _ hj => ?_
  simp only [toBytes, List.getElem_map, List.getElem_range, extractLsb'_ofBytes h, List.getD_eq_getElem _ _ hj]

/-- A double word from its own eight bytes. -/
theorem ofBytes_toBytes (x : DWord) : ofBytes 64 (toBytes x 8) = x := by
  have hx := x.isLt
  apply BitVec.eq_of_toNat_eq
  simp only [ofBytes, toBytes, List.range, List.range.loop, List.map, List.foldr, BitVec.toNat_ofNat, BitVec.extractLsb'_toNat,
    Nat.shiftRight_eq_div_pow]
  omega

theorem toBytes_setWidth {v w n : Nat} (x : BitVec w) (hv : 8 * n ≤ v) : toBytes (x.setWidth v) n = toBytes x n := by
  refine List.map_congr_left fun j hj => ?_
  rw [List.mem_range] at hj
  ext i hi
  simp only [BitVec.getElem_extractLsb', BitVec.getLsbD_setWidth]
  rw [decide_eq_true (by omega), Bool.true_and]

/-! ### Runs of bytes -/

@[simp] theorem fst_runOf (a : Nat) (bs : List Byte) : (runOf a bs).map Prod.fst = List.range' a bs.length := by
  refine List.ext_getElem (by simp [runOf]) fun j _ _ => by simp [runOf]

theorem nodup_runOf (a : Nat) (bs : List Byte) : ((runOf a bs).map Prod.fst).Nodup := by
  rw [fst_runOf]
  exact List.nodup_range'

theorem mem_runOf {a j : Nat} {bs : List Byte} (h : j < bs.length) : (a + j, bs[j]) ∈ runOf a bs := by
  rw [runOf, List.mem_mapIdx]
  exact ⟨j, h, rfl⟩

theorem of_mem_runOf {a : Nat} {bs : List Byte} {w : Nat × Byte} (h : w ∈ runOf a bs) :
    ∃ j, ∃ hj : j < bs.length, w = (a + j, bs[j]) := by
  obtain ⟨j, hj, rfl⟩ := List.mem_mapIdx.1 h
  exact ⟨j, hj, rfl⟩

/-! ### Home memory -/

theorem cellGet_foldSet_notMem {ws : List (Nat × Byte)} {c : Nat} (h : ∀ w ∈ ws, w.1 ≠ c) {l : List Host.Cell} (hl : cellsWf l = true) :
    cellGet (ws.foldl (fun m w => cellSet m w.1 w.2) l) c = cellGet l c := by
  induction ws generalizing l with
  | nil => rfl
  | cons w ws ih =>
    rw [List.forall_mem_cons] at h
    rw [List.foldl_cons, ih h.2 (Laws.cellsWf_set hl _ _), Laws.cellGet_set hl, if_neg h.1]

theorem cellGet_foldSet_mem {ws : List (Nat × Byte)} (hn : (ws.map Prod.fst).Nodup) {w : Nat × Byte} (hw : w ∈ ws)
    {l : List Host.Cell} (hl : cellsWf l = true) : cellGet (ws.foldl (fun m w => cellSet m w.1 w.2) l) w.1 = w.2 := by
  induction ws generalizing l with
  | nil => cases hw
  | cons v ws ih =>
    rw [List.map_cons, List.nodup_cons] at hn
    have hl' := Laws.cellsWf_set hl v.1 v.2
    rcases List.mem_cons.1 hw with rfl | hw
    · have hws : ∀ u ∈ ws, u.1 ≠ w.1 := fun u hu e => hn.1 (e ▸ List.mem_map_of_mem hu)
      rw [List.foldl_cons, cellGet_foldSet_notMem hws hl', Laws.cellGet_set hl, if_pos rfl]
    · exact ih hn.2 hw hl'

theorem homeByte_congr {s t : State} (h : t.mem = s.mem) (a : Nat) : t.homeByte a = s.homeByte a := by
  unfold State.homeByte
  rw [h]

/-- A byte of the boot ROM is the same in every state. -/
theorem homeByte_of_isRom {a : Nat} (h : isRom a = true) (s t : State) : t.homeByte a = s.homeByte a := by
  unfold State.homeByte isRom at *
  split at h <;> simp_all

theorem homeByte_of_not_isRom {a : Nat} (h : isRom a = false) (s : State) : s.homeByte a = cellGet s.mem a := by
  unfold State.homeByte isRom at *
  split at h <;> simp_all

theorem not_isRom_of_cacheable {a : Nat} (h : classOf a = .cacheable) : isRom a = false := by
  unfold classOf isRom at *
  split at h <;> simp_all

theorem homeByte_writeHome_notMem {s : State} (hs : Memory.wf s = true) {ws : List (Nat × Byte)} {c : Nat} (h : ∀ w ∈ ws, w.1 ≠ c) :
    (s.writeHome ws).homeByte c = s.homeByte c := by
  cases hr : isRom c with
  | true => exact homeByte_of_isRom hr _ _
  | false => rw [homeByte_of_not_isRom hr, homeByte_of_not_isRom hr]; exact cellGet_foldSet_notMem h hs

theorem homeByte_writeHome_mem {s : State} (hs : Memory.wf s = true) {ws : List (Nat × Byte)} (hn : (ws.map Prod.fst).Nodup)
    {w : Nat × Byte} (hw : w ∈ ws) (hr : isRom w.1 = false) : (s.writeHome ws).homeByte w.1 = w.2 := by
  rw [homeByte_of_not_isRom hr]
  exact cellGet_foldSet_mem hn hw hs

theorem homeByte_writeHomeLine_of_ne {s : State} (hs : Memory.wf s = true) {l c : Nat} (h : c / 128 ≠ l) (d : Line) :
    (s.writeHomeLine l d).homeByte c = s.homeByte c := by
  refine homeByte_writeHome_notMem hs fun w hw => ?_
  obtain ⟨j, hj, rfl⟩ := List.mem_map.1 hw
  rw [List.mem_range] at hj
  dsimp only
  omega

theorem homeByte_writeHomeLine {s : State} (hs : Memory.wf s = true) {c : Nat} (hr : isRom c = false) (d : Line) :
    (s.writeHomeLine (c / 128) d).homeByte c = lineByte d (c % 128) := by
  have hc : 128 * (c / 128) + c % 128 = c := Nat.div_add_mod c 128
  have hw : (c, lineByte d (c % 128)) ∈ (List.range 128).map fun j => (128 * (c / 128) + j, lineByte d j) :=
    List.mem_map.2 ⟨c % 128, List.mem_range.2 (Nat.mod_lt c (by decide)), by rw [hc]⟩
  have hn : (((List.range 128).map fun j => (128 * (c / 128) + j, lineByte d j)).map Prod.fst).Nodup := by
    rw [List.map_map]
    exact List.nodup_range.map fun i j e => Nat.add_left_cancel e
  exact homeByte_writeHome_mem hs hn hw hr

/-! ### Bytes in package order -/

theorem byteAt_of_unowned {s : State} {a : Nat} (h : tblGet? s.owned (a / 128) = none) : s.byteAt a = s.homeByte a := by
  rw [State.byteAt, h]

theorem byteAt_of_owned {s : State} {a : Nat} {o : Owned} (h : tblGet? s.owned (a / 128) = some o) :
    s.byteAt a = lineByte o.data (a % 128) := by
  rw [State.byteAt, h]

/-- A byte in package order depends on what is owned and on home memory alone. -/
theorem byteAt_congr {s t : State} (ho : t.owned = s.owned) (hm : t.mem = s.mem) (a : Nat) : t.byteAt a = s.byteAt a := by
  unfold State.byteAt
  rw [ho]
  split
  · rfl
  · exact homeByte_congr hm a

theorem lineByte_homeLine (s : State) (a : Nat) : lineByte (s.homeLine (a / 128)) (a % 128) = s.homeByte a := by
  have h : a % 128 < 128 := Nat.mod_lt a (by decide)
  rw [lineByte, State.homeLine, extractLsb'_ofBytes (by simp), List.getD_eq_getElem _ _ (by simpa using h), List.getElem_map,
    List.getElem_range, Nat.div_add_mod]

/-- The line can take no write where the stack that it is in has no port. -/
theorem deaf_iff (s : State) (a : Nat) : s.deaf a = true ↔ ∃ k off, regionOf a = .stack k off ∧ s.stackDead k = true := by
  rw [State.deaf, decide_eq_true_iff, State.gate]
  split
  · next k off e =>
    split
    · next h => exact ⟨fun _ => ⟨k, off, e, h⟩, fun _ => rfl⟩
    · next h => split <;> simp [e, h]
  · next h => split <;> simpa using fun k off e => (h k off e).elim

/-- Whether a line can take a write depends on the links alone. -/
theorem deaf_congr {s t : State} (h : t.links = s.links) (a : Nat) : t.deaf a = s.deaf a := by
  have hup : t.chipUp = s.chipUp := by funext c; unfold State.chipUp State.linkUp State.link; rw [h]
  have hdead (k : Nat) : t.stackDead k = s.stackDead k := by unfold State.stackDead; rw [hup]
  rw [Bool.eq_iff_iff, deaf_iff, deaf_iff]
  simp only [hdead]

/-! ### I/O-coherent writes -/

/-- What a byte's home holds once a modified copy of its line has been written back. -/
def writtenBack (s : State) (a : Nat) : Byte :=
  match tblGet? s.owned (a / 128) with
  | some o => if o.dirty then s.byteAt a else s.homeByte a
  | none => s.homeByte a

/-- No cache owns the line of a byte, and its home holds a value: so it reads in package order. -/
structure AtHome (s : State) (a : Nat) (b : Byte) : Prop where
  unowned : tblGet? s.owned (a / 128) = none
  home : s.homeByte a = b

theorem AtHome.byteAt {s : State} {a : Nat} {b : Byte} (h : AtHome s a b) : s.byteAt a = b :=
  (byteAt_of_unowned h.unowned).trans h.home

/-- A modified line is written to its home and stays owned, clean. -/
theorem cleanLine_of_dirty {s : State} {l : Nat} {o : Owned} (e : tblGet? s.owned l = some o) (hd : o.dirty = true) :
    s.cleanLine l = { s.writeHomeLine l o.data with owned := tblSet s.owned l { o with dirty := false } } := by
  simp only [State.cleanLine, e, hd, if_true]

theorem cleanLine_of_clean {s : State} {l : Nat} (h : ∀ o, tblGet? s.owned l = some o → o.dirty = false) : s.cleanLine l = s := by
  unfold State.cleanLine
  split
  · next o e => exact if_neg (by rw [h o e]; exact Bool.false_ne_true)
  · rfl

/-- A line is owned and modified, or it is clean: what every lemma about a write-back splits on. -/
theorem dirty_or_clean (s : State) (l : Nat) :
    (∃ o, tblGet? s.owned l = some o ∧ o.dirty = true) ∨ ∀ o, tblGet? s.owned l = some o → o.dirty = false := by
  cases e : tblGet? s.owned l with
  | none => exact .inr (by simp)
  | some o =>
    cases hd : o.dirty with
    | true => exact .inl ⟨o, rfl, hd⟩
    | false => exact .inr fun o' e' => by cases e'; exact hd

theorem homeByte_cleanLine_of_ne {s : State} (hs : Memory.wf s = true) {l a : Nat} (h : a / 128 ≠ l) :
    (s.cleanLine l).homeByte a = s.homeByte a := by
  rcases dirty_or_clean s l with ⟨o, e, hd⟩ | hc
  · have hw := homeByte_writeHomeLine_of_ne hs h o.data
    rw [cleanLine_of_dirty e hd]
    generalize s.writeHomeLine l o.data = u at hw
    exact (homeByte_congr rfl a).trans hw
  · rw [cleanLine_of_clean hc]

theorem homeByte_cleanLine {s : State} (hs : Memory.wf s = true) {a : Nat} (hr : isRom a = false) :
    (s.cleanLine (a / 128)).homeByte a = writtenBack s a := by
  rcases dirty_or_clean s (a / 128) with ⟨o, e, hd⟩ | hc
  · have hw := homeByte_writeHomeLine hs hr o.data
    rw [cleanLine_of_dirty e hd, writtenBack, e]
    generalize s.writeHomeLine (a / 128) o.data = u at hw
    refine ((homeByte_congr rfl a).trans hw).trans (Eq.trans ?_ (if_pos hd).symm)
    rw [byteAt_of_owned e]
  · rw [cleanLine_of_clean hc, writtenBack]
    split
    · next o e => exact (if_neg (by rw [hc o e]; exact Bool.false_ne_true)).symm
    · rfl

theorem owned_cleanLine_of_ne {s : State} {l k : Nat} (h : l ≠ k) : tblGet? (s.cleanLine l).owned k = tblGet? s.owned k := by
  rcases dirty_or_clean s l with ⟨o, e, hd⟩ | hc
  · rw [cleanLine_of_dirty e hd]
    exact (Laws.tblGet?_set _ _ _ _).trans (if_neg h)
  · rw [cleanLine_of_clean hc]

theorem owned_flushLine (s : State) (l k : Nat) :
    tblGet? (s.flushLine l).owned k = if l = k then none else tblGet? s.owned k := by
  refine (Laws.tblGet?_erase _ _ _).trans ?_
  split
  · rfl
  · next h => exact owned_cleanLine_of_ne h

theorem links_writeHomeLine (s : State) (l : Nat) (d : Line) : (s.writeHomeLine l d).links = s.links := by
  unfold State.writeHomeLine State.writeHome
  rfl

@[simp] theorem links_cleanLine (s : State) (l : Nat) : (s.cleanLine l).links = s.links := by
  rcases dirty_or_clean s l with ⟨o, e, hd⟩ | hc
  · have hw := links_writeHomeLine s l o.data
    rw [cleanLine_of_dirty e hd]
    generalize s.writeHomeLine l o.data = u at hw
    exact hw
  · rw [cleanLine_of_clean hc]

@[simp] theorem links_flushLine (s : State) (l : Nat) : (s.flushLine l).links = s.links := links_cleanLine s l

theorem ioWrite_cons (s : State) (w : Nat × Byte) (ws : List (Nat × Byte)) : s.ioWrite (w :: ws) = (s.ioWrite [w]).ioWrite ws := rfl

theorem ioWrite_single_of_deaf {s : State} {w : Nat × Byte} (h : s.deaf w.1 = true) : s.ioWrite [w] = s := if_pos h

theorem ioWrite_single {s : State} {w : Nat × Byte} (h : s.deaf w.1 = false) :
    s.ioWrite [w] = ((s.flushLine (w.1 / 128)).revoke 16 (w.1 / 128)).writeHome [w] :=
  if_neg (by rw [h]; exact Bool.false_ne_true)

theorem owned_ioWrite_single {s : State} {w : Nat × Byte} (h : s.deaf w.1 = false) (k : Nat) :
    tblGet? (s.ioWrite [w]).owned k = if w.1 / 128 = k then none else tblGet? s.owned k := by
  rw [ioWrite_single h]
  exact owned_flushLine s _ k

theorem links_ioWrite (s : State) (ws : List (Nat × Byte)) : (s.ioWrite ws).links = s.links := by
  induction ws generalizing s with
  | nil => rfl
  | cons w ws ih =>
    rw [ioWrite_cons, ih]
    cases h : s.deaf w.1 with
    | true => rw [ioWrite_single_of_deaf h]
    | false => rw [ioWrite_single h]; exact links_flushLine s _

theorem deaf_ioWrite (s : State) (ws : List (Nat × Byte)) (a : Nat) : (s.ioWrite ws).deaf a = s.deaf a := deaf_congr (links_ioWrite s ws) a

section
variable {s : State} (hs : Memory.wf s = true)
include hs

/-- What a byte's home holds after a write of one byte of I/O: what the write-back of its line left, or the new byte. -/
theorem homeByte_ioWrite_single_of_ne {w : Nat × Byte} (hd : s.deaf w.1 = false) {a : Nat} (hw : w.1 ≠ a) :
    (s.ioWrite [w]).homeByte a = (s.cleanLine (w.1 / 128)).homeByte a := by
  have hf : Memory.wf ((s.flushLine (w.1 / 128)).revoke 16 (w.1 / 128)) = true := Laws.wf_of_mem_eq rfl (Laws.cleanLine_wf hs (w.1 / 128))
  rw [ioWrite_single hd, homeByte_writeHome_notMem hf (by simpa using hw)]
  exact homeByte_congr rfl a

/-- A byte at home keeps its value under a write of another. -/
theorem AtHome.ioWrite_single {a : Nat} {b : Byte} (h : AtHome s a b) {w : Nat × Byte} (hw : w.1 ≠ a) : AtHome (s.ioWrite [w]) a b := by
  cases hd : s.deaf w.1 with
  | true => rwa [ioWrite_single_of_deaf hd]
  | false =>
    refine ⟨(owned_ioWrite_single hd _).trans (by rw [h.unowned, ite_self]), ?_⟩
    rw [homeByte_ioWrite_single_of_ne hs hd hw]
    refine Eq.trans ?_ h.home
    by_cases hl : a / 128 = w.1 / 128
    · cases hr : isRom a with
      | true => exact homeByte_of_isRom hr _ _
      | false => rw [← hl, homeByte_cleanLine hs hr, writtenBack, h.unowned]
    · exact homeByte_cleanLine_of_ne hs hl

/-- A byte that is written is at home afterwards. -/
theorem atHome_ioWrite_single {w : Nat × Byte} (hd : s.deaf w.1 = false) (hr : isRom w.1 = false) : AtHome (s.ioWrite [w]) w.1 w.2 := by
  refine ⟨(owned_ioWrite_single hd _).trans (if_pos rfl), ?_⟩
  rw [ioWrite_single hd]
  have hf : Memory.wf ((s.flushLine (w.1 / 128)).revoke 16 (w.1 / 128)) = true := Laws.wf_of_mem_eq rfl (Laws.cleanLine_wf hs (w.1 / 128))
  exact (Laws.homeByte_writeHome hf w.1 w.1 w.2 hr).trans (if_pos rfl)

/-- Another byte of the line that is written is at home too, written back first where a cache held it modified. -/
theorem atHome_ioWrite_single_line {w : Nat × Byte} (hd : s.deaf w.1 = false) {a : Nat} (hl : a / 128 = w.1 / 128) (hw : w.1 ≠ a)
    (hr : isRom a = false) : AtHome (s.ioWrite [w]) a (writtenBack s a) := by
  refine ⟨(owned_ioWrite_single hd _).trans (if_pos hl.symm), ?_⟩
  rw [homeByte_ioWrite_single_of_ne hs hd hw, ← hl, homeByte_cleanLine hs hr]

theorem byteAt_ioWrite_single {w : Nat × Byte} {a : Nat} (h : w.1 / 128 ≠ a / 128) : (s.ioWrite [w]).byteAt a = s.byteAt a := by
  cases hd : s.deaf w.1 with
  | true => rw [ioWrite_single_of_deaf hd]
  | false =>
    have ho : tblGet? (s.ioWrite [w]).owned (a / 128) = tblGet? s.owned (a / 128) := (owned_ioWrite_single hd _).trans (if_neg h)
    have hm : (s.ioWrite [w]).homeByte a = s.homeByte a := by
      rw [homeByte_ioWrite_single_of_ne hs hd fun e => h (by rw [e]), homeByte_cleanLine_of_ne hs (Ne.symm h)]
    unfold State.byteAt
    rw [ho, hm]

end

theorem AtHome.ioWrite {s : State} (hs : Memory.wf s = true) {a : Nat} {b : Byte} (h : AtHome s a b) {ws : List (Nat × Byte)}
    (hws : ∀ w ∈ ws, w.1 ≠ a) : AtHome (s.ioWrite ws) a b := by
  induction ws generalizing s with
  | nil => exact h
  | cons w ws ih =>
    rw [List.forall_mem_cons] at hws
    exact ih (Laws.ioWrite_wf hs [w]) (h.ioWrite_single hs hws.1) hws.2

/-- Each byte of an I/O-coherent write is at home afterwards, where its line can take a write. -/
theorem atHome_ioWrite {s : State} (hs : Memory.wf s = true) {ws : List (Nat × Byte)} (hn : (ws.map Prod.fst).Nodup) {w : Nat × Byte}
    (hw : w ∈ ws) (hd : s.deaf w.1 = false) (hr : isRom w.1 = false) : AtHome (s.ioWrite ws) w.1 w.2 := by
  induction ws generalizing s with
  | nil => cases hw
  | cons v ws ih =>
    rw [List.map_cons, List.nodup_cons] at hn
    have hs' := Laws.ioWrite_wf hs [v]
    rcases List.mem_cons.1 hw with rfl | hw
    · exact (atHome_ioWrite_single hs hd hr).ioWrite hs' fun u hu e => hn.1 (e ▸ List.mem_map_of_mem hu)
    · exact ih hs' hn.2 hw ((deaf_ioWrite s [v] _).trans hd)

theorem byteAt_ioWrite_of_ne {s : State} (hs : Memory.wf s = true) {ws : List (Nat × Byte)} {a : Nat}
    (h : ∀ w ∈ ws, w.1 / 128 ≠ a / 128) : (s.ioWrite ws).byteAt a = s.byteAt a := by
  induction ws generalizing s with
  | nil => rfl
  | cons w ws ih =>
    rw [List.forall_mem_cons] at h
    rw [ioWrite_cons, ih (Laws.ioWrite_wf hs _) h.2, byteAt_ioWrite_single hs h.1]

/-! ### Coherent writes -/

theorem lineByte_lineSet (l : Line) {j : Nat} (hj : j < 128) (b : Byte) (i : Nat) :
    lineByte (lineSet l j b) i = if j = i then b else lineByte l i := by
  refine BitVec.eq_of_getLsbD_eq fun n hn => ?_
  rw [lineByte, lineSet, putField, BitVec.getLsbD_extractLsb', decide_eq_true hn, Bool.true_and]
  simp only [BitVec.getLsbD_or, BitVec.getLsbD_and, BitVec.getLsbD_not, BitVec.getLsbD_shiftLeft, BitVec.getLsbD_ofNat,
    Nat.testBit_mod_two_pow, Nat.testBit_two_pow_sub_one]
  by_cases h : j = i
  · subst h
    rw [if_pos rfl, Nat.add_sub_cancel_left]
    have h1 : 8 * j + n < 1024 := by omega
    simp only [h1, hn, show n < 1024 by omega, Nat.not_lt.2 (Nat.le_add_right _ _), decide_true, decide_false, Bool.not_false, Bool.not_true,
      Bool.and_false, Bool.true_and, Bool.false_or]
    exact BitVec.testBit_toNat b
  · have hfar : 8 * i + n < 8 * j ∨ ¬ 8 * i + n - 8 * j < 8 := by omega
    rw [if_neg h, lineByte, BitVec.getLsbD_extractLsb', decide_eq_true hn, Bool.true_and]
    by_cases h1 : 8 * i + n < 1024
    · rcases hfar with hf | hf <;> simp [h1, hf]
    · simp [h1, BitVec.getLsbD_of_ge _ _ (Nat.le_of_not_lt h1)]

/-! Who owns a line once it has changed hands, and with what data. -/

theorem byteAt_eq_lineByte (s : State) (a : Nat) : s.byteAt a = lineByte (s.lineAt (a / 128)) (a % 128) := by
  unfold State.byteAt State.lineAt
  split
  · rfl
  · exact (lineByte_homeLine s a).symm

theorem homeLine_congr {s t : State} (h : t.mem = s.mem) (l : Nat) : t.homeLine l = s.homeLine l := by
  unfold State.homeLine
  simp only [homeByte_congr h]

theorem owned_ownLine_self (s : State) (chip l : Nat) :
    ∃ d, tblGet? (s.ownLine chip l).owned l = some { chip := chip, excl := true, dirty := d, data := s.lineAt l } := by
  unfold State.ownLine State.lineAt
  split
  · next o e =>
    split
    · next h =>
      rw [Bool.and_eq_true, decide_eq_true_iff] at h
      refine ⟨o.dirty, e.trans ?_⟩
      rw [← h.1, ← h.2]
    · exact ⟨o.dirty, (Laws.tblGet?_set _ _ _ _).trans (if_pos rfl)⟩
  · exact ⟨false, (Laws.tblGet?_set _ _ _ _).trans (if_pos rfl)⟩

theorem owned_ownLine_of_ne (s : State) {chip l k : Nat} (h : l ≠ k) : tblGet? (s.ownLine chip l).owned k = tblGet? s.owned k := by
  unfold State.ownLine
  split
  · split
    · rfl
    · exact (Laws.tblGet?_set _ _ _ _).trans (if_neg h)
  · exact (Laws.tblGet?_set _ _ _ _).trans (if_neg h)

theorem links_ownLine (s : State) (chip l : Nat) : (s.ownLine chip l).links = s.links := by
  unfold State.ownLine
  split
  · split <;> rfl
  · rfl

/-- A line that changes hands keeps its data. -/
theorem lineAt_ownLine (s : State) (chip l k : Nat) : (s.ownLine chip l).lineAt k = s.lineAt k := by
  by_cases h : l = k
  · obtain ⟨d, e⟩ := owned_ownLine_self s chip l
    rw [State.lineAt, ← h, e]
  · unfold State.lineAt
    rw [owned_ownLine_of_ne s h]
    split
    · rfl
    · exact homeLine_congr (Laws.ownLine_mem s chip l) k

theorem owned_writeOwned (s : State) (chip a : Nat) (b : Byte) : (s.writeOwned chip a b).owned =
    tblMod (s.ownLine chip (a / 128)).owned (a / 128) fun o => { o with dirty := true, data := lineSet o.data (a % 128) b } := rfl

theorem lineAt_writeOwned_self (s : State) (chip a : Nat) (b : Byte) :
    (s.writeOwned chip a b).lineAt (a / 128) = lineSet (s.lineAt (a / 128)) (a % 128) b := by
  obtain ⟨d, e⟩ := owned_ownLine_self s chip (a / 128)
  rw [State.lineAt, owned_writeOwned, Laws.tblGet?_mod, if_pos rfl, e]
  rfl

theorem lineAt_writeOwned_of_ne (s : State) (chip : Nat) {a k : Nat} (b : Byte) (h : a / 128 ≠ k) :
    (s.writeOwned chip a b).lineAt k = s.lineAt k := by
  have hm : (s.writeOwned chip a b).mem = (s.ownLine chip (a / 128)).mem := rfl
  rw [← lineAt_ownLine s chip (a / 128) k]
  unfold State.lineAt
  rw [owned_writeOwned, Laws.tblGet?_mod, if_neg h, homeLine_congr hm]

theorem byteAt_writeOwned (s : State) (chip a : Nat) (b : Byte) (c : Nat) :
    (s.writeOwned chip a b).byteAt c = if a = c then b else s.byteAt c := by
  rw [byteAt_eq_lineByte, byteAt_eq_lineByte]
  by_cases h : a / 128 = c / 128
  · rw [← h, lineAt_writeOwned_self, lineByte_lineSet _ (Nat.mod_lt a (by decide))]
    refine if_congr ⟨fun e => ?_, fun e => by rw [e]⟩ rfl rfl
    omega
  · rw [lineAt_writeOwned_of_ne s chip b h, if_neg fun e => h (by rw [e])]

theorem links_cohWrite (s : State) (chip : Nat) (ws : List (Nat × Byte)) : (s.cohWrite chip ws).links = s.links := by
  induction ws generalizing s with
  | nil => rfl
  | cons w ws ih =>
    refine (ih _).trans ?_
    dsimp only
    split
    · rfl
    · exact links_ownLine s chip _

theorem deaf_cohWrite (s : State) (chip : Nat) (ws : List (Nat × Byte)) (a : Nat) : (s.cohWrite chip ws).deaf a = s.deaf a :=
  deaf_congr (links_cohWrite s chip ws) a

theorem cohWrite_cons (s : State) (chip : Nat) (w : Nat × Byte) (ws : List (Nat × Byte)) :
    s.cohWrite chip (w :: ws) = (s.cohWrite chip [w]).cohWrite chip ws := rfl

theorem byteAt_cohWrite_single (s : State) (chip : Nat) (w : Nat × Byte) (a : Nat) :
    (s.cohWrite chip [w]).byteAt a = if w.1 = a ∧ s.deaf w.1 = false then w.2 else s.byteAt a := by
  cases hd : s.deaf w.1 with
  | true => rw [show s.cohWrite chip [w] = s from if_pos hd, if_neg (by simp)]
  | false =>
    rw [show s.cohWrite chip [w] = s.writeOwned chip w.1 w.2 from if_neg (by simp [hd]), byteAt_writeOwned]
    simp

theorem byteAt_cohWrite_notMem (s : State) (chip : Nat) {ws : List (Nat × Byte)} {a : Nat} (h : ∀ w ∈ ws, w.1 ≠ a) :
    (s.cohWrite chip ws).byteAt a = s.byteAt a := by
  induction ws generalizing s with
  | nil => rfl
  | cons w ws ih =>
    rw [List.forall_mem_cons] at h
    rw [cohWrite_cons, ih _ h.2, byteAt_cohWrite_single, if_neg fun e => h.1 e.1]

/-- Each byte of a coherent write reads as it was written, where its line can take a write. -/
theorem byteAt_cohWrite_mem (s : State) (chip : Nat) {ws : List (Nat × Byte)} (hn : (ws.map Prod.fst).Nodup) {w : Nat × Byte} (hw : w ∈ ws)
    (hd : s.deaf w.1 = false) : (s.cohWrite chip ws).byteAt w.1 = w.2 := by
  induction ws generalizing s with
  | nil => cases hw
  | cons v ws ih =>
    rw [List.map_cons, List.nodup_cons] at hn
    rw [cohWrite_cons]
    rcases List.mem_cons.1 hw with rfl | hw
    · have hws : ∀ u ∈ ws, u.1 ≠ w.1 := fun u hu e => hn.1 (e ▸ List.mem_map_of_mem hu)
      rw [byteAt_cohWrite_notMem _ chip hws, byteAt_cohWrite_single, if_pos ⟨rfl, hd⟩]
    · exact ih _ hn.2 hw ((deaf_cohWrite s chip [v] _).trans hd)

end Sys2Proof.Proofs
end

section
/-!
WHAT A UNIT OF A COPY DOES (O42): what it reads, by form, and where its 16 bytes go.
-/
namespace Sys2Proof.Proofs
open Sys2Proof.Machine

/-! ### Local store -/

theorem lsByte_lsWrite (s : State) (c : Nat) (ws : List (Nat × Byte)) (a : Nat) :
    (s.lsWrite c ws).lsByte c a = cellGet (ws.foldl (fun m w => cellSet m w.1 w.2) (s.core c).ls) a := by
  rw [State.lsByte, State.lsWrite, Laws.core_setCore, if_pos rfl]

theorem lsByte_lsWrite_mem {s : State} {c : Nat} (hs : cellsWf (s.core c).ls = true) {ws : List (Nat × Byte)}
    (hn : (ws.map Prod.fst).Nodup) {w : Nat × Byte} (hw : w ∈ ws) : (s.lsWrite c ws).lsByte c w.1 = w.2 := by
  rw [lsByte_lsWrite, cellGet_foldSet_mem hn hw hs]

theorem lsByte_lsWrite_notMem {s : State} {c : Nat} (hs : cellsWf (s.core c).ls = true) {ws : List (Nat × Byte)} {a : Nat}
    (h : ∀ w ∈ ws, w.1 ≠ a) : (s.lsWrite c ws).lsByte c a = s.lsByte c a := by
  rw [lsByte_lsWrite, cellGet_foldSet_notMem h hs]
  rfl

/-! ### What a unit reads -/

section
variable (s : State) (w : CopyAt) {e : CopyDesc} (u : Nat) (dev : State → Nat → List Byte)

/-- Where a local source is in its core's local store. -/
def CopyAt.srcLs (w : CopyAt) (e : CopyDesc) (u : Nat) : Nat := w.ls ((e.src.toNat % 2 ^ 19 : Nat) + e.offset e.srcStride u)

theorem copyRead_fill (h : e.form = 5) :
    s.copyRead w e u dev = .ok ((List.range 16).map fun j => (e.src.setWidth 32 : Word).extractLsb' (8 * (j % 4)) 8, s) :=
  if_pos h

theorem copyRead_local (h : e.form = 1 ∨ e.form = 4) : s.copyRead w e u dev =
    if ((List.range 16).map fun j => CopyAt.srcLs w e u + j).any (s.core w.core).lsPoison.contains then .error (.abort 0x15)
    else .ok (((List.range 16).map fun j => CopyAt.srcLs w e u + j).map (s.lsByte w.core), s) := by
  have h5 : e.form ≠ 5 := by omega
  have hl : cpySrcLocal e.form = true := by simpa [cpySrcLocal] using h
  have hf : field e.src 0 19 = e.src.toNat % 2 ^ 19 := by rw [field, Nat.pow_zero, Nat.div_one]
  rw [State.copyRead, if_neg h5, if_pos hl, hf]
  rfl

theorem copyRead_global (h : e.form = 0 ∨ e.form = 2 ∨ e.form = 3) {pa : Nat} {s1 : State} (hp : s.copyPa w (e.srcVa u) false = .ok (pa, s1))
    (hc : classOf pa = .cacheable) :
    s.copyRead w e u dev = if s1.poisoned pa then .error (.abort 0x15) else .ok (s1.bytesAt pa 16, s1) := by
  have h5 : e.form ≠ 5 := by omega
  have hl : cpySrcLocal e.form = false := by rcases h with h | h | h <;> rw [h] <;> rfl
  rw [State.copyRead, if_neg h5, if_neg (by rw [hl]; exact Bool.false_ne_true), hp]
  exact if_neg (not_not_intro hc)

end

/-! ### What a unit writes -/

theorem copyUnit_of_copyBytes {s s0 : State} {w : CopyAt} {e : CopyDesc} {got : Tbl (List Byte)} {u : Nat} {bs : List Byte}
    (h : s.copyBytes w e got u (fun s pa => s.deviceBytes pa 16) = .ok (bs, s0)) (hb : cpyBed e.form = false) :
    s.copyUnit w e got u = s0.copyWrite w e u bs fun s pa bs => s.deviceWrite noHart pa bs := by
  rw [State.copyUnit, h]
  exact if_neg (by rw [hb]; exact Bool.false_ne_true)

/-- A unit for global memory is an I/O-coherent write of its bytes (R15). -/
theorem copyWrite_global {s s1 : State} {w : CopyAt} {e : CopyDesc} {u pa : Nat} (bs : List Byte) (dev : State → Nat → List Byte → State)
    (h : e.form = 1 ∨ e.form = 2 ∨ e.form = 5) (hp : s.copyPa w (e.dstVa u) true = .ok (pa, s1)) (hc : classOf pa = .cacheable) :
    s.copyWrite w e u bs dev = .ok (s1.ioWrite (runOf pa bs)) := by
  have ho : cpyOut e.form = true := by simpa [cpyOut, or_assoc] using h
  rw [State.copyWrite, if_pos ho, hp]
  exact congrArg _ (if_pos hc)

theorem copyWrite_local (s : State) (w : CopyAt) {e : CopyDesc} (u : Nat) (bs : List Byte) (dev : State → Nat → List Byte → State)
    (h : e.form = 0) : s.copyWrite w e u bs dev = .ok (s.lsWrite w.core (runOf (w.dstLs e u) bs)) := by
  rw [State.copyWrite, h]
  rfl

theorem runOf_cons (a : Nat) (b : Byte) (bs : List Byte) : runOf a (b :: bs) = (a, b) :: runOf (a + 1) bs := by
  simp [runOf, List.mapIdx_cons, Nat.add_assoc, Nat.add_comm 1]

/-- A run of bytes that is written reads as it was written. -/
theorem byteAt_ioWrite_runOf {s : State} (hs : Memory.wf s = true) {pa : Nat} {bs : List Byte} {j : Nat} (hj : j < bs.length)
    (hd : s.deaf (pa + j) = false) (hr : isRom (pa + j) = false) : some ((s.ioWrite (runOf pa bs)).byteAt (pa + j)) = bs[j]? := by
  rw [(atHome_ioWrite hs (nodup_runOf pa bs) (mem_runOf hj) hd hr).byteAt, List.getElem?_eq_getElem hj]

theorem byteAt_ioWrite_runOf_of_ne {s : State} (hs : Memory.wf s = true) {pa : Nat} {bs : List Byte} {a : Nat}
    (h : ∀ j < bs.length, (pa + j) / 128 ≠ a / 128) : (s.ioWrite (runOf pa bs)).byteAt a = s.byteAt a := by
  refine byteAt_ioWrite_of_ne hs fun w hw => ?_
  obtain ⟨j, hj, rfl⟩ := of_mem_runOf hw
  exact h j hj

/-- The rest of the line of a run is written back before the first byte of the run, and stays. -/
theorem byteAt_ioWrite_runOf_line {s : State} (hs : Memory.wf s = true) {pa : Nat} {b : Byte} {bs : List Byte} {a : Nat}
    (hd : s.deaf pa = false) (hl : a / 128 = pa / 128) (ha : a < pa ∨ pa + (b :: bs).length ≤ a) (hr : isRom a = false) :
    (s.ioWrite (runOf pa (b :: bs))).byteAt a = writtenBack s a := by
  have hne : ∀ w ∈ runOf pa (b :: bs), w.1 ≠ a := fun w hw => by
    obtain ⟨j, hj, rfl⟩ := of_mem_runOf hw
    dsimp only
    omega
  rw [runOf_cons, List.forall_mem_cons] at hne
  rw [runOf_cons, ioWrite_cons]
  exact ((atHome_ioWrite_single_line hs hd hl hne.1 hr).ioWrite (Laws.ioWrite_wf hs _) hne.2).byteAt

/-- Settles O42, by form: what the unit reads, and the coherent run at home or the run of local store that it writes. -/
theorem copyUnits : Obligations.CopyUnits := by
  unfold Obligations.CopyUnits
  intro s w e u read from_
  have hfrom : from_ = CopyAt.srcLs w e u := rfl
  refine ⟨fun h => copyRead_fill s w u _ h, fun h hp => ?_, fun h hp => ?_, fun h pa s1 hp hc => ⟨fun hq => ?_, fun hq => ?_⟩, ?_⟩
  · refine (copyRead_local s w u _ h).trans ((if_neg ?_).trans ?_)
    · simpa [← hfrom] using hp
    · rw [List.map_map]
      rfl
  · refine (copyRead_local s w u _ h).trans (if_pos ?_)
    simpa [← hfrom] using hp
  · exact (copyRead_global s w u _ h hp hc).trans (if_neg (by rw [hq]; exact Bool.false_ne_true))
  · exact (copyRead_global s w u _ h hp hc).trans (if_pos hq)
  intro got bs s0 hb hlen
  refine ⟨fun h => ?_, fun x h => ?_, fun h pa s1 hp hc hs => ?_, fun h hs => ?_⟩
  · rwa [State.copyBytes, h] at hb
  · rw [State.copyBytes, h] at hb
    cases hb
    exact ⟨rfl, rfl⟩
  · have hbed : cpyBed e.form = false := by rcases h with h | h | h <;> rw [h] <;> rfl
    refine ⟨_, (copyUnit_of_copyBytes hb hbed).trans (copyWrite_global bs _ h hp hc), fun j hj hd hr => ?_, fun b hne => ?_, fun b _ hd hl hout hr => ?_⟩
    · exact byteAt_ioWrite_runOf hs (hlen ▸ hj) hd hr
    · exact byteAt_ioWrite_runOf_of_ne hs (hlen ▸ hne)
    · obtain ⟨b0, bs, rfl⟩ := List.exists_cons_of_length_eq_add_one hlen
      exact byteAt_ioWrite_runOf_line hs hd hl (hlen ▸ hout) hr
  · refine ⟨_, (copyUnit_of_copyBytes hb (by rw [h]; rfl)).trans (copyWrite_local s0 w u bs _ h), fun j hj => ?_, fun b hout => ?_⟩
    · have hj' : j < bs.length := hlen ▸ hj
      rw [lsByte_lsWrite_mem hs (nodup_runOf _ bs) (mem_runOf hj'), List.getElem?_eq_getElem hj']
    · refine lsByte_lsWrite_notMem hs fun v hv => ?_
      obtain ⟨j, hj, rfl⟩ := of_mem_runOf hv
      dsimp only
      omega

end Sys2Proof.Proofs
end


section
/-!
OPERATIONS THAT LAND (O52; R75, R158). What the completion of an operation leaves of its drill, and a load of one lane.
-/
namespace Sys2Proof.Proofs
open Sys2Proof.Machine

/-! ### The drill of an event -/

theorem who?_eq {s : State} {k : Nat} {d : Drill} {g : Machine.Group} {c : Context} (hd : s.drill? k = some d)
    (hg : s.group? d.gid = some g) (hc : s.ctx? g.ctx = some c) : s.who? k = some { k := k, d := d, g := g, c := c } := by
  simp only [State.who?, hd, hg, hc, Option.map_some]

theorem drill?_modDrill_self {s : State} {k : Nat} {d : Drill} (hd : s.drill? k = some d) (f : Drill → Drill) :
    (s.modDrill k f).drill? k = some (f d) := by
  rw [Laws.drill_modDrill, if_pos rfl, hd, Option.map_some]

/-- Two drills have the same operations outstanding, vector registers and counts of scoreboard slots. -/
structure SameWork (d e : Drill) : Prop where
  ops : e.ops = d.ops
  v : e.v = d.v
  sb : e.sb = d.sb

theorem SameWork.addTrap (d : Drill) (code sub station : Nat) : SameWork d (d.addTrap code sub station) := by
  unfold Drill.addTrap
  split <;> exact ⟨rfl, rfl, rfl⟩

theorem ops_clearSlot (d : Drill) (slot : Nat) : (d.clearSlot slot).ops = d.ops := by
  unfold Drill.clearSlot
  split <;> rfl

theorem v_clearSlot (d : Drill) (slot : Nat) : (d.clearSlot slot).v = d.v := by
  unfold Drill.clearSlot
  split <;> rfl

theorem count_clearSlot (d : Drill) (slot : Nat) : (d.clearSlot slot).count slot = d.count slot - (if slot = 0 then 0 else 1) := by
  unfold Drill.clearSlot
  split
  · rfl
  · simp [Drill.count, tblGet]

theorem complete_work {s : State} {k : Nat} {d : Drill} (hd : s.drill? k = some d) (slot : Nat) (tk1 : BitVec 4) :
    ∃ e, (s.complete k slot tk1).drill? k = some e ∧ SameWork (d.clearSlot slot) e := by
  have h1 := drill?_modDrill_self hd (·.clearSlot slot)
  unfold State.complete
  dsimp only
  split
  · exact ⟨_, h1, rfl, rfl, rfl⟩
  · rw [h1]
    dsimp only
    split
    · exact ⟨_, h1, rfl, rfl, rfl⟩
    · split
      · exact ⟨_, drill?_modDrill_self (by exact h1) _, .addTrap _ _ _ _⟩
      · exact ⟨_, h1, rfl, rfl, rfl⟩

theorem settle_work {s : State} {k : Nat} {d : Drill} (hd : s.drill? k = some d) :
    ∃ e, (s.settle k).drill? k = some e ∧ SameWork d e := by
  unfold State.settle
  rw [hd]
  dsimp only
  split
  · exact ⟨_, (Laws.drill_invalL1 _ _ _).trans ((Laws.drill_setDrill _ _ _ _).trans (if_pos rfl)), rfl, rfl, rfl⟩
  · exact ⟨_, (Laws.drill_setDrill _ _ _ _).trans (if_pos rfl), rfl, rfl, rfl⟩

theorem mem_complete (s : State) (k slot : Nat) (tk1 : BitVec 4) : (s.complete k slot tk1).mem = s.mem := by
  unfold State.complete
  dsimp only
  split
  · rfl
  · split
    · rfl
    · split
      · rfl
      · split <;> rfl

theorem mem_settle (s : State) (k : Nat) : (s.settle k).mem = s.mem := by
  unfold State.settle
  split
  · rfl
  · dsimp only
    split <;> rfl

/-! ### A result lands -/

/-- The result of one register: its lanes, and nothing else of the drill's work. -/
theorem landVar_vec {o : VarOp} {r n : Nat} (hi : o.into = .vec r n) (hn : o.noReg = false) (d : Drill) (m : Mask) (x : Lanes)
    (fl : List (Nat × BitVec 5)) : SameWork (d.putV r m x) (d.landVar o m [x] fl) := by
  unfold Drill.landVar
  rw [hi, hn]
  extract_lets n written d1 d2
  have h1 : SameWork (d.putV r m x) d1 := by
    show SameWork _ (if m = 0xFFFFFFFF then (d.putV r m x).unmark (vMark r) 1 else d.putV r m x)
    split <;> exact ⟨rfl, rfl, rfl⟩
  have h2 : SameWork d1 d2 := by
    dsimp only [d2]
    split
    · split <;> exact ⟨rfl, rfl, rfl⟩
    · exact ⟨rfl, rfl, rfl⟩
  exact ⟨h2.ops.trans h1.ops, h2.v.trans h1.v, h2.sb.trans h1.sb⟩

theorem lane_putV (d : Drill) (r q : Nat) (m : Mask) (x : Lanes) {i : Nat} (hi : i < 32) :
    lane ((d.putV r m x).vAt q) i = if r = q ∧ inMask m i = true then lane x i else lane (d.vAt q) i := by
  rw [Laws.vAt_putV]
  by_cases h : r = q
  · subst h
    rw [if_pos rfl, Laws.lane_merge _ _ _ _ hi]
    simp
  · simp [h]

theorem vAt_putV_of_ne (d : Drill) {r q : Nat} (h : q ≠ r) (m : Mask) (x : Lanes) : (d.putV r m x).vAt q = d.vAt q := by
  rw [Laws.vAt_putV, if_neg (Ne.symm h)]

/-- Drill `e` is drill `d` after `o` has landed `x` in register `r` under mask `m`. -/
structure LandedIn (d e : Drill) (o : VarOp) (r : Nat) (m : Mask) (x : Lanes) : Prop where
  ops : e.ops = d.ops.filter fun q => q.seq ≠ o.seq
  count : e.count o.slot = d.count o.slot - (if o.slot = 0 then 0 else 1)
  lanes : ∀ i < 32, lane (e.vAt r) i = if inMask m i then lane x i else lane (d.vAt r) i
  others : ∀ q, q ≠ r → e.vAt q = d.vAt q

theorem endOp_landed {s : State} {k : Nat} {d : Drill} (hd : s.drill? k = some d) {o : VarOp} {r n : Nat} (hi : o.into = .vec r n)
    (hn : o.noReg = false) (m : Mask) (x : Lanes) (fl : List (Nat × BitVec 5)) :
    ∃ e, (s.endOp k o m [x] fl).drill? k = some e ∧ LandedIn d e o r m x ∧ (s.endOp k o m [x] fl).mem = s.mem := by
  have hw := landVar_vec hi hn d m x fl
  have h1 := drill?_modDrill_self hd fun d => { d.landVar o m [x] fl with ops := d.ops.filter fun q => q.seq ≠ o.seq }
  obtain ⟨e1, h2, w2⟩ := complete_work h1 o.slot o.tk1
  obtain ⟨e, h3, w3⟩ := settle_work h2
  have hv : e.v = (d.putV r m x).v := (w3.v.trans w2.v).trans ((v_clearSlot _ _).trans hw.v)
  have hvAt (q : Nat) : e.vAt q = (d.putV r m x).vAt q := by rw [Drill.vAt, hv]; rfl
  refine ⟨e, h3, ⟨?_, ?_, fun i hi => ?_, fun q hq => ?_⟩, (mem_settle _ _).trans (mem_complete _ _ _ _)⟩
  · exact (w3.ops.trans w2.ops).trans (ops_clearSlot _ _)
  · rw [Drill.count, w3.sb, w2.sb]
    refine (count_clearSlot _ _).trans ?_
    unfold Drill.count
    rw [show Drill.sb { d.landVar o m [x] fl with ops := d.ops.filter fun q => q.seq ≠ o.seq } = d.sb from hw.sb]
  · rw [hvAt, lane_putV _ _ _ _ _ hi]
    simp
  · rw [hvAt, vAt_putV_of_ne _ hq]

end Sys2Proof.Proofs
end

section
/-!
A LOAD OF ONE LANE (O52; R153, R158, R191): what it finds, its landing, and its early performance.
-/
namespace Sys2Proof.Proofs
open Sys2Proof.Machine

/-- A byte that an access of a drill reaches at once, in memory alone: nothing holds, refuses or poisons it, and the drill's L1D has no
copy of its line. -/
structure NearByte (s : State) (w : Who) (seq : Nat) (write : Bool) (a : Nat) : Prop where
  cacheable : classOf a = .cacheable
  backed : s.backed a = true
  clean : s.poisoned a = false
  granted : s.grantOk w.g.ctx a = true
  open_ : s.gateFor (drillChip w.k) seq write a = .go
  uncached : tblGet? (s.core (drillCore w.k)).l1d (a / 128) = none

theorem NearByte.deaf {s : State} {w : Who} {seq a : Nat} {write : Bool} (h : NearByte s w seq write a) : s.deaf a = false :=
  (Bool.or_eq_false_iff.1 h.clean).2

theorem NearByte.denied {s : State} {w : Who} {seq a : Nat} {write : Bool} (h : NearByte s w seq write a) : s.denied w a = false := by
  rw [State.denied, h.granted]
  rfl

theorem drillByte_near {s : State} {w : Who} {seq a : Nat} (hq : w.d.storeQueue = []) (h : NearByte s w seq false a) :
    s.drillByte w seq true (.mem a) = .byte (s.byteAt a) := by
  have hf : s.forwarded w seq (.mem a) = none := by rw [State.forwarded, hq]; rfl
  simp [State.drillByte, hf, h.uncached, h.open_, h.denied, h.clean, h.backed]

theorem laneGot_bytes (bs : List Byte) : laneGot (bs.map Got.byte) = .data bs := by
  have h (x : Got) (hx : ∀ b, x ≠ .byte b) : (bs.map Got.byte).contains x = false := by
    simp only [List.contains_eq_mem, List.mem_map, decide_eq_false_iff_not, not_exists, not_and]
    exact fun b _ e => hx b e.symm
  unfold laneGot
  rw [h _ (by simp), h _ (by simp), h _ (by simp), if_neg Bool.false_ne_true, if_neg Bool.false_ne_true, if_neg Bool.false_ne_true,
    List.filterMap_map]
  exact congrArg _ (List.filterMap_some)

theorem globalLane_near {s : State} {w : Who} {o : VarOp} {n : Nat} {l : LaneAddr} (hq : w.d.storeQueue = []) (hn : 0 < n)
    (h : ∀ j < n, NearByte s w o.seq false (l.pa + j)) : s.globalLane w o n l = .data (s.bytesAt l.pa n) := by
  unfold State.globalLane
  rw [show classOf l.pa = .cacheable from (h 0 hn).cacheable]
  dsimp only
  rw [← laneGot_bytes, State.bytesAt, List.map_map]
  refine congrArg laneGot (List.map_congr_left fun j hj => ?_)
  exact drillByte_near hq (h j (List.mem_range.1 hj))

theorem laneNow_taken {s : State} {w : Who} {o : VarOp} {l : LaneAddr} {bs : List Byte} (h : tblGet? o.taken l.lane = some bs) :
    s.laneNow w o l = .data bs := by
  rw [State.laneNow, h]

/-- A lane of LD.W that has not been performed finds the word in memory. -/
theorem laneNow_near {s : State} {w : Who} {o : VarOp} {l : LaneAddr} {ls : List LaneAddr} (hk : o.kind = .load .w ls) (ht : o.taken = [])
    (hq : w.d.storeQueue = []) (h : ∀ j < 4, NearByte s w o.seq false (l.pa + j)) : s.laneNow w o l = .data (s.bytesAt l.pa 4) := by
  rw [State.laneNow, ht]
  show s.laneFresh w o l = _
  rw [State.laneFresh, hk]
  exact globalLane_near hq (by decide) h

theorem laneRegs_w (data : Nat → Option (List Byte)) : laneRegs .w data = [lanesOf fun i => ((data i).map (ofBytes 32)).getD 0] := by
  refine congrArg (fun x => [x]) (congrArg lanesOf (funext fun i => ?_))
  cases data i with
  | none => rfl
  | some bs => exact setWidth_ofBytes (v := 128) (w := 32) (by decide) bs

/-! What a load changes beside its result: the L1D lines, and who holds them. -/

theorem drills_shareLine (s : State) (chip l : Nat) : (s.shareLine chip l).drills = s.drills := by
  unfold State.shareLine
  dsimp only
  split
  · split
    · rfl
    · split
      · rfl
      · split <;> rfl
  · split <;> rfl

theorem drills_fillL1 (s : State) (c l : Nat) : (s.fillL1 c l).drills = s.drills := by
  unfold State.fillL1
  split
  · rfl
  · exact drills_shareLine s _ l

theorem fillLines_frame (s : State) (w : Who) (ls : List LaneAddr) :
    (s.fillLines w ls).drills = s.drills ∧ (s.fillLines w ls).mem = s.mem := by
  unfold State.fillLines
  generalize ls.filter _ = l
  induction l generalizing s with
  | nil => exact ⟨rfl, rfl⟩
  | cons q l ih =>
    refine ⟨(ih _).1.trans ?_, (ih _).2.trans ?_⟩
    · dsimp only
      split
      · exact drills_fillL1 s _ _
      · rfl
    · dsimp only
      split
      · exact Laws.fillL1_mem s _ _
      · rfl

/-! ### The landing -/

theorem maskOf_false : maskOf (fun _ => false) = 0 := by decide

/-- A load of one lane whose data are there lands them; memory and the drills are otherwise as they were. -/
theorem landLoad_single (s : State) (w : Who) (o : VarOp) (f : LdFn) (l : LaneAddr) (bs : List Byte) (global : Bool) :
    ∃ s1 : State, s1.drills = s.drills ∧ s1.mem = s.mem ∧ s.landLoad w o f [(l, .data bs)] global =
      some (s1.endOp w.k o o.mask (laneRegs f fun i => if l.lane = i then some bs else none) []) := by
  have hw (x : LaneGot) (hx : x ≠ .data bs) : (maskOf fun i => !inMask o.helper i &&
      [(l, LaneGot.data bs)].any fun q => decide (q.1.lane = i) && decide (q.2 = x)) = 0 := by
    rw [← maskOf_false]
    refine congrArg maskOf (funext fun i => ?_)
    simp [hx.symm]
  have hv : (fun i => match [(l, LaneGot.data bs)].find? fun q => decide (q.1.lane = i) with
      | some (_, .data bs) => some bs
      | _ => none) = fun i => if l.lane = i then some bs else none := by
    funext i
    by_cases h : l.lane = i <;> simp [h]
  unfold State.landLoad
  rw [if_neg (by simp)]
  extract_lets which bad refused addr vals s1 s2
  have hbad : bad = 0 := hw _ (by simp)
  have hrefused : refused = 0 := hw _ (by simp)
  have hs2 : s2.drills = s.drills ∧ s2.mem = s.mem := by
    dsimp only [s2]
    split
    · exact fillLines_frame s1 w _
    · exact ⟨rfl, rfl⟩
  refine ⟨s2, hs2.1, hs2.2, ?_⟩
  have hm : o.mask &&& ~~~(0#32) &&& ~~~(0#32) = o.mask := by rw [BitVec.not_zero, BitVec.and_allOnes, BitVec.and_allOnes]
  rw [hbad, hrefused, show vals = _ from congrArg (laneRegs f) hv, show o.mask &&& ~~~(0 : Mask) &&& ~~~(0 : Mask) = o.mask from hm]
  simp [State.markLanes, State.denyTrap]

theorem clearFor_alone {d : Drill} {o : VarOp} (ho : d.ops = [o]) (hq : d.storeQueue = []) (ha : d.acquires = []) :
    d.clearFor o.seq = true := by
  simp [Drill.clearFor, ho, hq, ha]

theorem find?_alone {d : Drill} {o : VarOp} (ho : d.ops = [o]) : (d.ops.find? fun q => q.seq = o.seq) = some o := by
  simp [ho]

section
variable {s : State} {k : Nat} {w : Who} (hw : s.who? k = some w) {o : VarOp}
include hw

theorem exec_landing {n : Nat} (hf : (w.d.ops.find? fun q => q.seq = n) = some o) :
    exec (.variableResultLanding k n false none) s = .next ((s.landOp w o).getD s) := by
  show execVariableResultLanding k n false none s = _
  rw [execVariableResultLanding, hw]
  dsimp only
  rw [hf]
  rfl

theorem exec_landing_early {n : Nat} (hf : (w.d.ops.find? fun q => q.seq = n) = some o) (m : Mask) (write : Bool) :
    exec (.variableResultLanding k n false (some (m, write))) s = .next ((s.performEarly w o m write).getD s) := by
  show execVariableResultLanding k n false (some (m, write)) s = _
  rw [execVariableResultLanding, hw]
  dsimp only
  rw [hf]
  rfl

theorem exec_landing_none {n : Nat} (hf : (w.d.ops.find? fun q => q.seq = n) = none) (early : Option (Mask × Bool)) :
    Idle (.variableResultLanding k n false early) s := by
  show execVariableResultLanding k n false early s = _
  rw [execVariableResultLanding, hw]
  dsimp only
  rw [hf]

end

end Sys2Proof.Proofs
end

section
namespace Sys2Proof.Proofs
open Sys2Proof.Machine

/-! ### Landings of one register -/

section
variable {s : State} {w : Who} (hw : s.who? w.k = some w) (hd : s.drill? w.k = some w.d) {o : VarOp} {r : Nat}
  (hi : o.into = .vec r 1) (hn : o.noReg = false)
include hw hd hi hn

theorem value_lands {v : DLanes} {fl : List (Nat × BitVec 5)} (hf : (w.d.ops.find? fun q => q.seq = o.seq) = some o)
    (hk : o.kind = .value v fl) : Happens (.variableResultLanding w.k o.seq false none) s fun t => ∃ e, t.drill? w.k = some e ∧
      LandedIn w.d e o r o.mask (loHalf v) ∧ t.mem = s.mem := by
  have hop : s.landOp w o = some (s.endOp w.k o o.mask [loHalf v] fl) := by
    rw [State.landOp, hk]
    dsimp only [State.landValue]
    rw [hi]
    rfl
  refine ⟨_, exec_landing hw hf, ?_⟩
  rw [hop]
  exact endOp_landed hd hi hn o.mask (loHalf v) fl

theorem load_lands {l : LaneAddr} {bs : List Byte} (hf : (w.d.ops.find? fun q => q.seq = o.seq) = some o)
    (hc : w.d.clearFor o.seq = true) (hk : o.kind = .load .w [l]) (hl : s.laneNow w o l = .data bs) :
    Happens (.variableResultLanding w.k o.seq false none) s fun t => ∃ e, t.drill? w.k = some e ∧
      LandedIn w.d e o r o.mask (lanesOf fun i => if l.lane = i then ofBytes 32 bs else 0) ∧ t.mem = s.mem := by
  obtain ⟨s1, hd1, hm1, e1⟩ := landLoad_single s w o .w l bs true
  have hop : s.landOp w o = some (s1.endOp w.k o o.mask [lanesOf fun i => if l.lane = i then ofBytes 32 bs else 0] []) := by
    rw [State.landOp, hk]
    dsimp only [List.map]
    rw [if_pos hc, hl, e1, laneRegs_w]
    refine congrArg some (congrArg (fun x => s1.endOp w.k o o.mask [x] []) (congrArg lanesOf (funext fun i => ?_)))
    split <;> rfl
  refine ⟨_, exec_landing hw hf, ?_⟩
  rw [hop]
  have hd' : s1.drill? w.k = some w.d := (congrArg (tblGet? · w.k) hd1).trans hd
  obtain ⟨e, he, hl, hm⟩ := endOp_landed hd' hi hn o.mask (lanesOf fun i => if l.lane = i then ofBytes 32 bs else 0) []
  exact ⟨e, he, hl, hm.trans hm1⟩

theorem value_lands_early {v : DLanes} {fl : List (Nat × BitVec 5)} (hf : (w.d.ops.find? fun q => q.seq = o.seq) = some o)
    (hk : o.kind = .value v fl) (m : Mask) : Happens (.variableResultLanding w.k o.seq false (some (m, true))) s fun t =>
      ∃ e, t.drill? w.k = some e ∧ SameWork (w.d.putV r (o.mask &&& m) (loHalf v)) e ∧ t.mem = s.mem := by
  have hp : s.performEarly w o m true = some (s.landEarly w o (o.mask &&& m) [loHalf v]) := by
    rw [State.performEarly, hk]
    dsimp only
    rw [VarOp.result, hk]
    dsimp only
    rw [hi]
    rfl
  refine ⟨_, exec_landing_early hw hf m true, ?_⟩
  rw [hp]
  exact ⟨_, drill?_modDrill_self hd _, landVar_vec (o := { o with latch := none }) hi hn _ _ _ _, rfl⟩

/-- A lane of a load that is performed before its landing: its data are kept, and its register holds them where the event says so. -/
theorem load_lands_early {l : LaneAddr} {bs : List Byte} (ho : w.d.ops = [o]) (hc : w.d.clearFor o.seq = true)
    (hk : o.kind = .load .w [l]) (ht : o.taken = []) (hl : s.laneNow w o l = .data bs) (hu : classOf l.pa ≠ .uncached) {m : Mask}
    (hm : inMask m l.lane = true) (write : Bool) :
    Happens (.variableResultLanding w.k o.seq false (some (m, write))) s fun t => ∃ e d1, t.drill? w.k = some e ∧
      d1 = { w.d with ops := [{ o with taken := [(l.lane, bs)] }] } ∧
      SameWork (if write then d1.putV r (o.mask &&& maskOf fun i => l.lane = i) (lanesOf fun i => if l.lane = i then ofBytes 32 bs else 0)
        else d1) e ∧ t.mem = s.mem := by
  have hr : o.result = none := by rw [VarOp.result, hk]
  have hloads : o.loadLanes = [l] := by rw [VarOp.loadLanes, hk]
  have hp : ∃ s1 : State, s1.drills = s.drills ∧ s1.mem = s.mem ∧ s.performEarly w o m write = some (if !write then s1.takeLanes w o [(l.lane, bs)] else
      (s1.takeLanes w o [(l.lane, bs)]).landEarly w o (o.mask &&& maskOf fun i => l.lane = i)
        [lanesOf fun i => if l.lane = i then ofBytes 32 bs else 0]) := by
    unfold State.performEarly
    split
    · next h => rw [hk] at h; cases h
    · next h => rw [hk] at h; cases h
    split
    · next h => rw [hr] at h; cases h
    rw [hc, if_neg (by simp)]
    extract_lets fresh inTurn chosen new data here s0 s1
    have hchosen : chosen = [l] := by
      dsimp only [chosen, inTurn]
      rw [hloads]
      simp [hm, hu]
    have hdata : data = [(l.lane, bs)] := by
      dsimp only [data]
      rw [hchosen, List.filterMap_cons, hl]
      rfl
    have hhere : here = maskOf fun i => l.lane = i := by
      dsimp only [here]
      rw [hdata]
      refine congrArg maskOf (funext fun i => ?_)
      by_cases h : l.lane = i <;> simp [tblGet?, h]
    have hregs : (laneRegs .w fun i => tblGet? data i) = [lanesOf fun i => if l.lane = i then ofBytes 32 bs else 0] := by
      rw [laneRegs_w, hdata]
      refine congrArg (fun x => [lanesOf x]) (funext fun i => ?_)
      by_cases h : l.lane = i <;> simp [tblGet?, h]
    have hs1 : s1 = (s0.fillLines w new).takeLanes w o [(l.lane, bs)] := by
      dsimp only [s1]
      rw [hk, hdata]
    refine ⟨s0.fillLines w new, (fillLines_frame s0 w new).1, (fillLines_frame s0 w new).2, ?_⟩
    rw [hs1, hdata, hk]
    cases write with
    | false => rfl
    | true =>
      rw [hhere, ← hregs, hdata]
      rfl
  obtain ⟨s1, hd1, hm1, hp⟩ := hp
  have hd2 : s1.drill? w.k = some w.d := (congrArg (tblGet? · w.k) hd1).trans hd
  have hd3 : (s1.takeLanes w o [(l.lane, bs)]).drill? w.k = some { w.d with ops := [{ o with taken := [(l.lane, bs)] }] } := by
    refine (drill?_modDrill_self hd2 _).trans (congrArg some ?_)
    simp [ho, ht, tblSet]
  refine ⟨_, exec_landing_early hw (find?_alone ho) m write, ?_⟩
  rw [hp]
  cases write with
  | false => exact ⟨_, _, hd3, rfl, ⟨rfl, rfl, rfl⟩, hm1⟩
  | true => exact ⟨_, _, drill?_modDrill_self hd3 _, rfl, landVar_vec (o := { o with latch := none }) hi hn _ _ _ _, hm1⟩

end

end Sys2Proof.Proofs
end

section
/-!
A STORE OF ONE LANE LEAVES THE QUEUE (O52; R158, R159).
-/
namespace Sys2Proof.Proofs
open Sys2Proof.Machine

/-! ### Barriers that are tested again -/

/-- Two states have the same drills, and every byte reads the same in package order. -/
structure SameView (s t : State) : Prop where
  drills : t.drills = s.drills
  owned : t.owned = s.owned
  mem : t.mem = s.mem

theorem SameView.refl (s : State) : SameView s s := ⟨rfl, rfl, rfl⟩

theorem SameView.trans {s t u : State} (h : SameView s t) (g : SameView t u) : SameView s u :=
  ⟨g.drills.trans h.drills, g.owned.trans h.owned, g.mem.trans h.mem⟩

theorem SameView.drill? {s t : State} (h : SameView s t) (k : Nat) : t.drill? k = s.drill? k := congrArg (tblGet? · k) h.drills

theorem SameView.byteAt {s t : State} (h : SameView s t) (a : Nat) : t.byteAt a = s.byteAt a := byteAt_congr h.owned h.mem a

theorem SameView.testBar (s : State) (gid b : Nat) : SameView s (s.testBar gid b) := by
  unfold State.testBar
  split
  · exact .refl s
  · extract_lets x all needed
    split
    · exact ⟨rfl, rfl, rfl⟩
    · exact .refl s

theorem SameView.testBars (s : State) (gid : Nat) : SameView s (s.testBars gid) := by
  unfold State.testBars
  generalize List.range 8 = l
  induction l generalizing s with
  | nil => exact .refl s
  | cons b l ih => exact (SameView.testBar s gid b).trans (ih _)

theorem SameView.testCroft (s : State) (croft : Nat) : SameView s (s.testCroft croft) := by
  unfold State.testCroft
  split
  · exact .refl s
  · dsimp only
    split
    · exact ⟨rfl, rfl, rfl⟩
    · exact .refl s

theorem SameView.testGrid (s : State) (launch : Nat) : SameView s (s.testGrid launch) := by
  unfold State.testGrid
  split
  · exact .refl s
  · dsimp only
    split
    · exact ⟨rfl, rfl, rfl⟩
    · exact .refl s

theorem SameView.retest (s : State) (gid : Nat) : SameView s (s.retest gid) := by
  unfold State.retest
  split
  · exact .refl s
  · exact ((SameView.testBars s gid).trans (SameView.testCroft _ _)).trans (SameView.testGrid _ _)

/-! ### Bytes that are stored -/

/-- `t` is `s` after bytes were written at an address, as package order has it. -/
structure Written (s t : State) (pa : Nat) (bs : List Byte) : Prop where
  bytes : ∀ j < bs.length, some (t.byteAt (pa + j)) = bs[j]?
  others : ∀ b, b < pa ∨ pa + bs.length ≤ b → t.byteAt b = s.byteAt b

theorem Written.view {s t u : State} {pa : Nat} {bs : List Byte} (h : Written s t pa bs) (g : ∀ a, u.byteAt a = t.byteAt a) :
    Written s u pa bs :=
  ⟨fun j hj => by rw [g, h.bytes j hj], fun b hb => by rw [g, h.others b hb]⟩

theorem written_cohWrite {s : State} (chip : Nat) {pa : Nat} {bs : List Byte} (hd : ∀ j < bs.length, s.deaf (pa + j) = false) :
    Written s (s.cohWrite chip (runOf pa bs)) pa bs := by
  refine ⟨fun j hj => ?_, fun b hb => byteAt_cohWrite_notMem s chip fun w hw => ?_⟩
  · rw [byteAt_cohWrite_mem s chip (nodup_runOf pa bs) (mem_runOf hj) (hd j hj), List.getElem?_eq_getElem hj]
  · obtain ⟨j, hj, rfl⟩ := of_mem_runOf hw
    dsimp only
    omega

/-- The L1D of a core takes no part in package order. -/
theorem byteAt_putL1 (s : State) (c : Nat) (ws : List (Nat × Byte)) (a : Nat) : (s.putL1 c ws).byteAt a = s.byteAt a := byteAt_congr rfl rfl a

theorem written_storeBytes {s : State} (c : Nat) {pa : Nat} {bs : List Byte} (hd : ∀ j < bs.length, s.deaf (pa + j) = false) :
    Written s (s.storeBytes c (runOf pa bs)) pa bs :=
  (written_cohWrite (coreChip c) hd).view (byteAt_putL1 _ c _)

theorem drills_ownLine (s : State) (chip l : Nat) : (s.ownLine chip l).drills = s.drills := by
  unfold State.ownLine
  split
  · split <;> rfl
  · rfl

theorem drills_cohWrite (s : State) (chip : Nat) (ws : List (Nat × Byte)) : (s.cohWrite chip ws).drills = s.drills := by
  induction ws generalizing s with
  | nil => rfl
  | cons w ws ih =>
    refine (ih _).trans ?_
    dsimp only
    split
    · rfl
    · exact drills_ownLine s chip _

theorem not_deaf_of_gate {s : State} {a : Nat} (h : s.gate a = .go) : s.deaf a = false := by
  rw [State.deaf, h]
  rfl

/-- An open gate is open to every chiplet. -/
theorem gateFor_of_gate {s : State} {a : Nat} (h : s.gate a = .go) (chip seq : Nat) (write : Bool) : s.gateFor chip seq write a = .go := by
  have ha : s.gateAt chip write a = .go := by rw [State.gateAt, h]
  unfold State.gateFor
  split
  · dsimp only
    split
    · rfl
    · exact ha
  · exact ha

/-! ### The departure -/

/-- A lane of a store that is performed at once: its bytes go to cacheable memory that is there, granted and open. -/
structure StoreLane (s : State) (w : Who) (l : LaneAddr) (bs : List Byte) : Prop where
  some_ : bs ≠ []
  cacheable : ∀ j < bs.length, classOf (l.pa + j) = .cacheable
  backed : ∀ j < bs.length, s.backed (l.pa + j) = true
  granted : ∀ j < bs.length, s.grantOk w.g.ctx (l.pa + j) = true
  open_ : ∀ j < bs.length, s.gate (l.pa + j) = .go

theorem leave_store {s : State} {w : Who} {l : LaneAddr} {bs : List Byte} (h : StoreLane s w l bs) {e : SqEntry} (he : e.kind = .store [(l, bs)]) :
    s.leave w e = some (s.storeBytes (drillCore w.k) (runOf l.pa bs)) := by
  have h0 : 0 < bs.length := List.length_pos_iff.2 h.some_
  have hc : classOf l.pa = .cacheable := h.cacheable 0 h0
  have hg : s.gateFor (drillChip w.k) e.seq true l.pa = .go := gateFor_of_gate (h.open_ 0 h0) _ _ _
  have hlanes (c : MemClass) (hn : c ≠ .cacheable) : e.lanesIn c = [] := by
    rw [SqEntry.lanesIn, he]
    simp [hc, hn.symm]
  have hst : s.storeLanes w [(l, bs)] = s.storeBytes (drillCore w.k) (runOf l.pa bs) := by
    have hd : s.denied w l.pa = false := by rw [State.denied, show s.grantOk w.g.ctx l.pa = true from h.granted 0 h0]; rfl
    have hb : s.backed l.pa = true := h.backed 0 h0
    simp [State.storeLanes, hc, hd, hb]
  unfold State.leave
  rw [he]
  dsimp only
  rw [hlanes _ (by simp), hlanes _ (by simp), hst]
  simp [hg]

section
variable {s : State} {w : Who} (hw : s.who? w.k = some w) (hd : s.drill? w.k = some w.d) (ho : w.d.ops = []) (ha : w.d.acquires = [])
  {l : LaneAddr} {bs : List Byte} (h : StoreLane s w l bs)
include hw hd ho ha h

theorem store_leaves {sq : Nat} {pc : DWord} (hq : w.d.storeQueue = [{ seq := sq, kind := .store [(l, bs)], pc := pc }]) :
    Happens (.storeQueueDeparture w.k none) s fun t => t.drill? w.k = some { w.d with storeQueue := [] } ∧ Written s t l.pa bs := by
  have hcan : w.d.canLeave sq = true := by simp [Drill.canLeave, ho, ha]
  have hx : exec (.storeQueueDeparture w.k none) s = .next (((s.storeBytes (drillCore w.k) (runOf l.pa bs)).modDrill w.k fun d =>
      { d with storeQueue := d.storeQueue.filter fun q => q.seq ≠ sq }).retest w.d.gid) := by
    show execStoreQueueDeparture w.k none s = _
    rw [execStoreQueueDeparture, hw]
    dsimp only
    rw [hq]
    dsimp only
    rw [hcan, leave_store h rfl]
    rfl
  have hd1 : (s.storeBytes (drillCore w.k) (runOf l.pa bs)).drill? w.k = some w.d := (congrArg (tblGet? · w.k) (drills_cohWrite s _ _)).trans hd
  refine ⟨_, hx, ?_, ?_⟩
  · rw [(SameView.retest _ _).drill?, drill?_modDrill_self hd1, hq]
    simp
  · exact (written_storeBytes _ fun j hj => not_deaf_of_gate (h.open_ j hj)).view fun a =>
      ((SameView.retest _ _).byteAt a).trans (byteAt_congr rfl rfl a)

theorem store_leaves_first {sq : Nat} {pc : DWord} {x : LaneAddr × List Byte}
    (hq : w.d.storeQueue = [{ seq := sq, kind := .store [(l, bs), x], pc := pc }]) :
    Happens (.storeQueueDeparture w.k (some 1)) s fun t =>
      t.drill? w.k = some { w.d with storeQueue := [{ seq := sq, kind := .store [x], pc := pc }] } ∧ Written s t l.pa bs := by
  have hcan : w.d.canLeave sq = true := by simp [Drill.canLeave, ho, ha]
  have hx : exec (.storeQueueDeparture w.k (some 1)) s = .next ((s.storeBytes (drillCore w.k) (runOf l.pa bs)).modDrill w.k fun d =>
      { d with storeQueue := d.storeQueue.map fun q => if q.seq = sq then { q with kind := .store [x] } else q }) := by
    show execStoreQueueDeparture w.k (some 1) s = _
    rw [execStoreQueueDeparture, hw]
    dsimp only
    rw [hq]
    dsimp only
    rw [hcan]
    dsimp only [State.leavePart, SqKind.cut, List.take, List.drop]
    rw [leave_store (e := { seq := sq, kind := .store [(l, bs)], pc := pc }) h rfl]
    rfl
  have hd1 : (s.storeBytes (drillCore w.k) (runOf l.pa bs)).drill? w.k = some w.d := (congrArg (tblGet? · w.k) (drills_cohWrite s _ _)).trans hd
  refine ⟨_, hx, ?_, ?_⟩
  · rw [drill?_modDrill_self hd1, hq]
    simp
  · exact (written_storeBytes _ fun j hj => not_deaf_of_gate (h.open_ j hj)).view fun a => byteAt_congr rfl rfl a

end

theorem no_store_leaves {s : State} {k : Nat} {w : Who} (hw : s.who? k = some w) (hq : w.d.storeQueue = []) (part : Option Nat) :
    Idle (.storeQueueDeparture k part) s := by
  show execStoreQueueDeparture k part s = _
  rw [execStoreQueueDeparture, hw]
  dsimp only
  rw [hq]

end Sys2Proof.Proofs
end

section
/-!
AN ATOMIC OPERATION OF ONE LANE (O52; R158, R163), on 32-bit integers.
-/
namespace Sys2Proof.Proofs
open Sys2Proof.Machine

theorem getElem?_toBytes {w : Nat} (x : BitVec w) {n j : Nat} (h : j < n) : (toBytes x n)[j]? = some (x.extractLsb' (8 * j) 8) := by
  rw [toBytes, List.getElem?_map, List.getElem?_range h]
  rfl

/-- The word at an address in package order. -/
def wordAt (s : State) (a : Nat) : Word := ofBytes 32 (s.bytesAt a 4)

theorem setWidth_valueAt (s : State) (a : Nat) : (s.valueAt a 4).setWidth 32 = wordAt s a := setWidth_ofBytes (v := 64) (w := 32) (by decide) _

theorem toBytes_wordAt (s : State) (a : Nat) : toBytes (wordAt s a) 4 = s.bytesAt a 4 :=
  toBytes_ofBytes (w := 32) (bs := s.bytesAt a 4) (by simp [State.bytesAt])

/-- What an integer operation leaves of a word: its new value, or the old one where CAS does not match. -/
def atomWord (f : AtomFn) (u : Bool) (old b d : Word) : Word := (atomInt f u old b d).getD old

theorem written_unchanged (s : State) (a : Nat) : Written s s a (toBytes (wordAt s a) 4) := by
  refine ⟨fun j hj => ?_, fun _ _ => rfl⟩
  rw [toBytes_wordAt] at hj ⊢
  rw [List.getElem?_eq_getElem hj]
  simp [State.bytesAt]

theorem written_atomPut {s : State} (c : Nat) {pa : Nat} {bs : List Byte} (hd : ∀ j < bs.length, s.deaf (pa + j) = false) :
    Written s (s.atomPut c false pa bs) pa bs :=
  (written_cohWrite (coreChip c) hd).view (byteAt_putL1 _ c _)

/-- The read-modify-write of one lane. -/
theorem atomLanes_single {s : State} {w : Who} (o : VarOp) {f : AtomFn} {u : Bool} {b d : DLanes} {l : LaneAddr} {seq : Nat}
    (h : ∀ j < 4, NearByte s w seq true (l.pa + j)) (got : DLanes) :
    ∃ s1 : State, s1.drills = s.drills ∧
      Written s s1 l.pa (toBytes (atomWord f u (wordAt s l.pa) ((lane b l.lane).setWidth 32) ((lane d l.lane).setWidth 32)) 4) ∧
      atomLanes s w o (.int f u false) false b d [l] got 0 =
        (s1, lanesOf fun i => if i = l.lane then s.valueAt l.pa 4 else lane got i, 0) := by
  have h0 : NearByte s w seq true l.pa := h 0 (by decide)
  have hnew : (AtomOp.int f u false).new (s.valueAt l.pa 4) (lane b l.lane) (lane d l.lane) =
      (atomInt f u (wordAt s l.pa) ((lane b l.lane).setWidth 32) ((lane d l.lane).setWidth 32)).map (·.setWidth 64) := by
    rw [← setWidth_valueAt]
    rfl
  have hlanes : atomLanes s w o (.int f u false) false b d [l] got 0 =
      (match (AtomOp.int f u false).new (s.valueAt l.pa 4) (lane b l.lane) (lane d l.lane) with
        | some v => s.atomPut (drillCore w.k) false l.pa (toBytes v 4)
        | none => s, lanesOf fun i => if i = l.lane then s.valueAt l.pa 4 else lane got i, 0) := by
    unfold atomLanes
    rw [if_neg (by rw [h0.cacheable]; simp), if_neg (by rw [h0.clean, h0.backed]; simp)]
    rfl
  rw [hlanes, hnew, atomWord]
  cases atomInt f u (wordAt s l.pa) ((lane b l.lane).setWidth 32) ((lane d l.lane).setWidth 32) with
  | none => exact ⟨s, rfl, written_unchanged s l.pa, rfl⟩
  | some v =>
    refine ⟨s.atomPut (drillCore w.k) false l.pa (toBytes (v.setWidth 64) 4), drills_cohWrite s _ _, ?_, rfl⟩
    rw [show toBytes (v.setWidth 64) 4 = toBytes v 4 from toBytes_setWidth v (by decide)]
    exact written_atomPut _ fun j hj => (h j (by simpa [toBytes] using hj)).deaf

section
variable {s : State} {w : Who} (hw : s.who? w.k = some w) (hd : s.drill? w.k = some w.d) {o : VarOp} (ho : w.d.ops = [o])
  (hq : w.d.storeQueue = []) (ha : w.d.acquires = []) {l : LaneAddr} (h : ∀ j < 4, NearByte s w o.seq true (l.pa + j))
  {f : AtomFn} {u : Bool} {b e : DLanes}

/-- An ATOM without scope of one near lane, alone in its drill, can be performed. -/
theorem atomOpen_single (hc : w.d.clearFor o.seq = true) (h0 : NearByte s w o.seq true l.pa)
    (hk : o.kind = .atom (.int f u false) 0 [l] b e false none) : s.atomOpen w o = true := by
  have hr : o.remotes = [] := by simp [VarOp.remotes, VarOp.lanesIn, hk, h0.cacheable]
  rw [State.atomOpen, hk]
  simp [hc, hr, h0.open_, Drill.scopeOpen]

include hw hd ho hq ha h

theorem atom_performs (hl : l.lane < 32) (hk : o.kind = .atom (.int f u false) 0 [l] b e false none) :
    Happens (.atomPerform w.k o.seq false none) s fun t =>
      (∃ d' o' got, t.drill? w.k = some d' ∧ d'.ops = [o'] ∧ o'.kind = .atom (.int f u false) 0 [l] b e false (some got) ∧
        (lane got l.lane).setWidth 32 = wordAt s l.pa) ∧
      Written s t l.pa (toBytes (atomWord f u (wordAt s l.pa) ((lane b l.lane).setWidth 32) ((lane e l.lane).setWidth 32)) 4) := by
  have h0 : NearByte s w o.seq true l.pa := h 0 (by decide)
  obtain ⟨s1, hd1, hs1, e1⟩ := atomLanes_single (f := f) (u := u) (b := b) (d := e) o h o.oldTaken
  have hden : s.deniedLanes w [l] = 0 := by
    rw [State.deniedLanes, ← maskOf_false]
    simp [h0.denied]
  have hx : exec (.atomPerform w.k o.seq false none) s = .next (s1.modDrill w.k fun d => { d with ops := d.ops.map fun q =>
      if q.seq = o.seq then { q with kind := .atom (.int f u false) 0 [l] b e false (some (lanesOf fun i => if i = l.lane then
        s.valueAt l.pa 4 else lane o.oldTaken i)), mask := q.mask &&& ~~~0 &&& ~~~0 } else q }) := by
    show execAtomPerform w.k o.seq false none s = _
    rw [execAtomPerform, hw]
    dsimp only
    rw [find?_alone ho]
    dsimp only
    rw [atomOpen_single (clearFor_alone ho hq ha) h0 hk, if_neg (by simp), hk]
    dsimp only
    rw [if_neg Bool.false_ne_true, hden, show [l].filter (fun q => !s.denied w q.pa) = [l] by simp [h0.denied], e1]
    simp [State.markLanes, State.denyTrap]
  have hd2 : s1.drill? w.k = some w.d := (congrArg (tblGet? · w.k) hd1).trans hd
  refine ⟨_, hx, ⟨_, _, _, drill?_modDrill_self hd2 _, by rw [ho, List.map_singleton, if_pos rfl], rfl, ?_⟩, hs1.view fun a => byteAt_congr rfl rfl a⟩
  rw [Laws.lane_lanesOf _ _ hl, if_pos rfl, setWidth_valueAt]

theorem atom_performs_first (hl : l.lane < 32) {x : LaneAddr} (hk : o.kind = .atom (.int f u false) 0 [l, x] b e false none)
    (hx : classOf x.pa ≠ .remote) :
    Happens (.atomPerform w.k o.seq false (some 1)) s fun t =>
      (∃ d' o' bs, t.drill? w.k = some d' ∧ d'.ops = [o'] ∧ o'.kind = .atom (.int f u false) 0 [x] b e false none ∧
        tblGet? o'.taken l.lane = some bs ∧ (ofBytes 64 bs).setWidth 32 = wordAt s l.pa) ∧
      Written s t l.pa (toBytes (atomWord f u (wordAt s l.pa) ((lane b l.lane).setWidth 32) ((lane e l.lane).setWidth 32)) 4) := by
  have h0 : NearByte s w o.seq true l.pa := h 0 (by decide)
  have hr : o.remotes = [] := by simp [VarOp.remotes, VarOp.lanesIn, hk, h0.cacheable, hx]
  obtain ⟨s1, hd1, hs1, e1⟩ := atomLanes_single (f := f) (u := u) (b := b) (d := e)
    { o with kind := .atom (.int f u false) 0 [l] b e false none } h (splat 0)
  have hopen : s.atomOpen w { o with kind := .atom (.int f u false) 0 [l] b e false none } = true :=
    atomOpen_single (o := { o with kind := .atom (.int f u false) 0 [l] b e false none }) (show w.d.clearFor o.seq = true from clearFor_alone ho hq ha) h0 rfl
  have hold : lane (lanesOf fun i => if i = l.lane then s.valueAt l.pa 4 else lane (splat (0 : DWord)) i) l.lane = s.valueAt l.pa 4 := by
    rw [Laws.lane_lanesOf _ _ hl, if_pos rfl]
  have hp : s.atomPart w o 1 false = some ((s1.takeLanes w o [(l.lane, toBytes (s.valueAt l.pa 4) 8)]).modDrill w.k fun d => { d with
      ops := d.ops.map fun q => if q.seq = o.seq then { q with kind := .atom (.int f u false) 0 [x] b e false none } else q }) := by
    unfold State.atomPart
    split
    · next op sc ls b' d' red hk' =>
      obtain ⟨rfl, rfl, rfl, rfl, rfl, rfl, -⟩ := VarKind.atom.inj (hk.symm.trans hk')
      extract_lets a o1
      have hcond : (!o.remotes.isEmpty || !s.atomOpen w o1 || a.any fun q => s.denied w q.pa || s.poisoned q.pa || !s.backed q.pa) = false := by
        rw [hr, show s.atomOpen w o1 = true from hopen]
        simp [a, h0.denied, h0.clean, h0.backed]
      rw [hcond, if_neg Bool.false_ne_true, if_neg Bool.false_ne_true,
        show atomLanes s w o1 (.int f u false) false b e a (splat 0) 0 = _ from e1]
      dsimp only [a, List.take, List.drop]
      rw [if_neg Bool.false_ne_true]
      dsimp only [List.map]
      rw [hold]
    · next h => exact absurd hk (h _ _ _ _ _ _)
  have hd2 : s1.drill? w.k = some w.d := (congrArg (tblGet? · w.k) hd1).trans hd
  have hd3 : ((s1.takeLanes w o [(l.lane, toBytes (s.valueAt l.pa 4) 8)]).modDrill w.k fun d => { d with
      ops := d.ops.map fun q => if q.seq = o.seq then { q with kind := .atom (.int f u false) 0 [x] b e false none } else q }).drill? w.k =
      some { w.d with ops := [{ o with
        kind := .atom (.int f u false) 0 [x] b e false none
        taken := tblSet o.taken l.lane (toBytes (s.valueAt l.pa 4) 8) }] } := by
    refine (drill?_modDrill_self (drill?_modDrill_self hd2 _) _).trans ?_
    simp [ho]
  have he : exec (.atomPerform w.k o.seq false (some 1)) s = .next ((s.atomPart w o 1 false).getD s) := by
    show execAtomPerform w.k o.seq false (some 1) s = _
    rw [execAtomPerform, hw]
    dsimp only
    rw [find?_alone ho]
  refine ⟨_, he, ?_⟩
  rw [hp]
  refine ⟨⟨_, _, toBytes (s.valueAt l.pa 4) 8, hd3, rfl, rfl, ?_, ?_⟩, hs1.view fun a => byteAt_congr rfl rfl a⟩
  · rw [Laws.tblGet?_set, if_pos rfl]
  · rw [ofBytes_toBytes, setWidth_valueAt]

end

end Sys2Proof.Proofs
end

section
/-!
THE DIRECTORY, DEVICES, AND TRAFFIC BETWEEN PACKAGES (O52; R15, R189, R201, R202, R350, R369-R371).
-/
namespace Sys2Proof.Proofs
open Sys2Proof.Machine

/-! ### The directory -/

theorem sameDrills_of_drills {s t : State} (h : t.drills = s.drills) : SameDrills s t := fun j => congrArg (tblGet? · j) h

theorem drills_cleanLine (s : State) (l : Nat) : (s.cleanLine l).drills = s.drills := by
  rcases dirty_or_clean s l with ⟨o, e, hd⟩ | hc
  · have hw := Laws.drills_writeHomeLine s l o.data
    rw [cleanLine_of_dirty e hd]
    generalize s.writeHomeLine l o.data = u at hw
    exact hw
  · rw [cleanLine_of_clean hc]

theorem drills_evict (s : State) (chip l : Nat) : (s.evict chip l).drills = s.drills := by
  unfold State.evict
  extract_lets sc s1 s2 left
  show s1.drills = s.drills
  dsimp only [s1]
  split
  · split
    · exact drills_cleanLine s l
    · rfl
  · rfl

/-- A chiplet's cache and a line that the directory serves. -/
structure Serves (s : State) (chip line : Nat) : Prop where
  caches : caches chip = true
  cacheable : classOf (128 * line) = .cacheable
  backed : s.backed (128 * line) = true

section
variable {s : State} {chip line : Nat} (h : Serves s chip line)
include h

theorem Serves.not_fails : (!Machine.caches chip || classOf (128 * line) ≠ .cacheable || !s.backed (128 * line)) = false := by
  simp [h.caches, h.cacheable, h.backed]

theorem own_request (hg : s.gateAt chip true (128 * line) = .go) (hp : s.poisoned (128 * line) = false) :
    Happens (.directoryRequest chip line .own) s fun t => SameDrills s t ∧ t.mem = s.mem ∧ t.lineAt line = s.lineAt line ∧
      ∃ w, tblGet? t.owned line = some w ∧ w.chip = chip ∧ w.excl = true := by
  have hx : exec (.directoryRequest chip line .own) s = .next (s.ownLine chip line) := by
    show execDirectoryRequest chip line .own s = _
    unfold execDirectoryRequest
    dsimp only
    rw [h.not_fails, hg, hp]
    rfl
  obtain ⟨d, e⟩ := owned_ownLine_self s chip line
  exact ⟨_, hx, sameDrills_of_drills (drills_ownLine s chip line), Laws.ownLine_mem s chip line, lineAt_ownLine s chip line line,
    _, e, rfl, rfl⟩

omit h in
theorem share_request : Happens (.directoryRequest chip line .share) s fun t => SameDrills s t ∧ t.mem = s.mem := by
  refine ⟨_, rfl, ?_⟩
  dsimp only
  split
  · exact ⟨sameDrills_of_drills (drills_shareLine s chip line), Laws.shareLine_mem s chip line⟩
  · exact ⟨fun _ => rfl, rfl⟩

omit h in
theorem drop_request : Happens (.directoryRequest chip line .drop) s (SameDrills s) := by
  refine ⟨_, rfl, ?_⟩
  split
  · exact sameDrills_of_drills (drills_evict s chip line)
  · exact fun _ => rfl

omit h in
theorem grant_request : Happens (.directoryRequest chip line .grant) s fun t => SameDrills s t ∧ SameMemory s t := by
  have hs : SameDrills s s ∧ SameMemory s s := ⟨fun _ => rfl, rfl, rfl, rfl, rfl⟩
  unfold Happens
  show ∃ t, execDirectoryRequest chip line .grant s = .next t ∧ _
  unfold execDirectoryRequest
  dsimp only
  split
  · refine ⟨_, rfl, ?_⟩
    split
    · exact ⟨fun _ => rfl, rfl, rfl, rfl, rfl⟩
    · exact hs
  · exact ⟨s, rfl, hs⟩

end

/-! ### PCIe devices -/

theorem poison_cleanLine (s : State) (l : Nat) : (s.cleanLine l).poison = s.poison := by
  rcases dirty_or_clean s l with ⟨o, e, hd⟩ | hc
  · have hw : (s.writeHomeLine l o.data).poison = s.poison := by
      unfold State.writeHomeLine State.writeHome
      rfl
    rw [cleanLine_of_dirty e hd]
    generalize s.writeHomeLine l o.data = u at hw
    exact hw
  · rw [cleanLine_of_clean hc]

theorem poison_ioWrite (s : State) (ws : List (Nat × Byte)) : (s.ioWrite ws).poison = s.poison := by
  induction ws generalizing s with
  | nil => rfl
  | cons w ws ih =>
    rw [ioWrite_cons, ih]
    cases h : s.deaf w.1 with
    | true => rw [ioWrite_single_of_deaf h]
    | false => rw [ioWrite_single h]; exact poison_cleanLine s _

theorem not_deviceLost {s : State} {a : Nat} (hc : classOf a = .cacheable) (hb : s.backed a = true) : s.deviceLost a = false := by
  unfold State.deviceLost State.noPlace
  rw [hb, hc]
  unfold classOf at hc
  split at hc <;> simp_all

section
variable {s s1 : State} {r : DevReq} {pa : Nat} (hh : s.ioHeld = false) (hp : r.port < 4) (hl : s.linkUp (40 + r.port) = true)
  (hc : classOf pa = .cacheable) (hb : s1.backed pa = true) (hg : s1.gate pa = .go)
include hh hp hl hc hb hg

theorem device_reads {chip line n : Nat} (ho : r.op = .read n) (hn : devicePiece r.addr.toNat n = true) (hx : s.ioXlate r .load = .ok (pa, s1)) :
    Happens (.directoryRequest chip line (.device r)) s fun t => t = { s1 with devAnswer := t.devAnswer } ∧
      t.devAnswer = some (if s1.poisoned pa then .poisoned else .data (s1.bytesAt pa n)) := by
  have hr : s1.deviceRead pa n = { s1 with devAnswer := some (if s1.poisoned pa then .poisoned else .data (s1.bytesAt pa n)) } := by
    unfold State.deviceRead
    dsimp only
    rw [not_deviceLost hc hb, hg]
    simp only [hc, Bool.false_eq_true, if_false, if_true, reduceCtorEq]
    split <;> rfl
  have hq : s.deviceRequest r = s1.deviceRead pa n := by
    simp [State.deviceRequest, hh, hp, hl, ho, hn, hx]
  refine ⟨s.deviceRequest r, rfl, ?_⟩
  rw [hq, hr]
  exact ⟨rfl, rfl⟩

theorem device_writes {chip line : Nat} {bs : List Byte} (ho : r.op = .write bs) (hn : devicePiece r.addr.toNat bs.length = true)
    (hx : s.ioXlate r .store = .ok (pa, s1)) (hs : Memory.wf s1 = true) :
    Happens (.directoryRequest chip line (.device r)) s fun t => t.devAnswer = some .taken ∧ t.poison = s1.poison ∧
      (∀ j < bs.length, classOf (pa + j) = .cacheable → s1.deaf (pa + j) = false → some (t.byteAt (pa + j)) = bs[j]?) ∧
      ∀ b, (∀ j < bs.length, (pa + j) / 128 ≠ b / 128) → t.byteAt b = s1.byteAt b := by
  have hr : s1.deviceStore pa bs = { s1.ioWrite (runOf pa bs) with devAnswer := some .taken } := by
    unfold State.deviceStore
    dsimp only
    rw [not_deviceLost hc hb, hg]
    simp only [hc, Bool.false_eq_true, if_false, if_true, reduceCtorEq]
  have hq : s.deviceRequest r = s1.deviceStore pa bs := by
    simp [State.deviceRequest, hh, hp, hl, ho, hn, hx]
  have hv (a : Nat) : (s1.deviceStore pa bs).byteAt a = (s1.ioWrite (runOf pa bs)).byteAt a := by rw [hr]; exact byteAt_congr rfl rfl a
  refine ⟨s.deviceRequest r, rfl, ?_⟩
  rw [hq]
  refine ⟨by rw [hr], by rw [hr]; exact poison_ioWrite s1 _, fun j hj hcj hd => ?_, fun b hne => ?_⟩
  · rw [hv]
    exact byteAt_ioWrite_runOf hs hj hd (not_isRom_of_cacheable hcj)
  · rw [hv]
    exact byteAt_ioWrite_runOf_of_ne hs hne

end

end Sys2Proof.Proofs
end

section
namespace Sys2Proof.Proofs
open Sys2Proof.Machine

/-! ### Responses of other packages -/

section
variable {s : State} {w : Who} (hw : s.who? w.k = some w) (hd : s.drill? w.k = some w.d) (hup : s.chipUp (drillChip w.k) = true)
include hw hd hup

/-- A response to a remote load of one lane reaches the lane that waits for it. -/
theorem remote_answers {o : VarOp} {f : LdFn} {l : LaneAddr} {n : Nat} (ho : w.d.ops = [o]) (hq : w.d.storeQueue = [])
    (ha : w.d.acquires = []) (hr : w.d.remoteStores = []) (hk : o.kind = .load f [l]) (hc : classOf l.pa = .remote)
    (hn : o.answers = []) (hp : s.remotePort l.pa = some n) (hl : s.linkUp n = true) {ok : Bool} {data : List (BitVec 128)}
    (hlen : ok = true → data.length = 1) :
    Happens (.remoteResponse (.op w.k o.seq n) ok data) s fun t => t.drill? w.k = some { w.d with ops := [{ o with
      answers := [(l.lane, if ok then some (data.getD 0 0) else none)] }] } ∧ SameMemory s t := by
  have hrem : o.remotes = [l] := by simp [VarOp.remotes, VarOp.lanesIn, hk, hc]
  have hun : s.unanswered n o = [l] := by simp [State.unanswered, hrem, hp, hn]
  have hred : o.isRed = false := by rw [VarOp.isRed, hk]
  have hbefore : s.remoteBefore w.d o.seq l = false := by simp [State.remoteBefore, ho]
  have hans : s.remoteAnswer w o n ok data = s.modDrill w.k fun d => { d with
      ops := d.ops.map fun q => if q.seq = o.seq then q.answer [(l.lane, if ok then some (data.getD 0 0) else none)] else q } := by
    unfold State.remoteAnswer
    rw [hun, hr, hq, hl, clearFor_alone ho hq ha, hred, hk]
    cases ok with
    | false => simp [hbefore]
    | true => simp [hbefore, hlen rfl]
  have hx : exec (.remoteResponse (.op w.k o.seq n) ok data) s = .next (s.remoteAnswer w o n ok data) := by
    show execRemoteResponse (.op w.k o.seq n) ok data s = _
    unfold execRemoteResponse
    dsimp only
    rw [hw]
    dsimp only
    rw [find?_alone ho]
    dsimp only
    rw [hup, if_pos rfl]
  refine ⟨_, hx, ?_⟩
  rw [hans]
  refine ⟨(drill?_modDrill_self hd _).trans ?_, rfl, rfl, rfl, rfl⟩
  simp [ho, VarOp.answer, hn, tblSet]

end

theorem errcnt_countErr (s : State) (n m : Nat) : ((s.countErr n m).link n).errcnt = min 0xFFFF ((s.link n).errcnt + m) := by
  simp [State.link, State.countErr, State.setLink, tblGet, Laws.tblGet?_set]

section
variable {s : State} {k : Nat} {d : Drill} (hd : s.drill? k = some d)
include hd

theorem store_acknowledged_exec {n : Nat} {va : DWord} {rest : List (Nat × DWord)} (hr : d.remoteStores = (n, va) :: rest) (hl : s.linkUp n = true)
    (hup : s.chipUp (drillChip k) = true) (ok : Bool) (data : List (BitVec 128)) :
    exec (.remoteResponse (.store k) ok data) s =
      .next (if ok then s.setDrill k { d with remoteStores := rest } else (s.setDrill k { d with remoteStores := rest }).countErr n 1) := by
  show execRemoteResponse (.store k) ok data s = _
  unfold execRemoteResponse
  dsimp only
  rw [hd]
  dsimp only
  rw [hr]
  dsimp only
  rw [hl, hup]
  rfl

/-- A response to a remote store acknowledges the oldest one; an error is counted at the link. -/
theorem store_acknowledged {n : Nat} {va : DWord} {rest : List (Nat × DWord)} (hr : d.remoteStores = (n, va) :: rest) (hl : s.linkUp n = true)
    (hup : s.chipUp (drillChip k) = true) (ok : Bool) (data : List (BitVec 128)) :
    Happens (.remoteResponse (.store k) ok data) s fun t => t.drill? k = some { d with remoteStores := rest } ∧
      (t.link n).errcnt = if ok then (s.link n).errcnt else min 0xFFFF ((s.link n).errcnt + 1) := by
  refine ⟨_, store_acknowledged_exec hd hr hl hup ok data, ?_⟩
  have hk : (s.setDrill k { d with remoteStores := rest }).drill? k = some { d with remoteStores := rest } := by simp
  cases ok with
  | true => exact ⟨hk, rfl⟩
  | false =>
    refine ⟨hk, ?_⟩
    show (State.link (State.countErr _ n 1) n).errcnt = _
    rw [errcnt_countErr]
    rfl

theorem no_store_acknowledged (hr : d.remoteStores = []) (ok : Bool) (data : List (BitVec 128)) :
    Idle (.remoteResponse (.store k) ok data) s := by
  show execRemoteResponse (.store k) ok data s = _
  unfold execRemoteResponse
  dsimp only
  rw [hd]
  dsimp only
  rw [hr]

end

/-! ### Accesses from other packages -/

/-- What the instructions of a remote program can ask for (R163, R165, R369). -/
def LegalAccess (op : InboundOp) (a : Nat) : Prop :=
  match op with
  | .read m => 0 < m ∧ m ≤ 256
  | .write bs => bs ≠ [] ∧ bs.length ≤ 256
  | .atomI f _ wide red _ => a % (if wide then 8 else 4) = 0 ∧ (red = true → f ≠ .xchg ∧ f ≠ .cas)
  | .atomF f red _ => a % 4 = 0 ∧ (red = true → f ≠ .xchg)
  | .redBf _ => a % 4 = 0

theorem inboundLegal_iff (op : InboundOp) (a : Nat) : inboundLegal op a = true ↔ LegalAccess op a := by
  cases op with
  | read m => simp [inboundLegal, LegalAccess]
  | write bs => simp [inboundLegal, LegalAccess, List.length_pos_iff]
  | atomI f u wide red b => exact (Bool.and_eq_true_iff).trans (and_congr decide_eq_true_iff (by cases red <;> simp))
  | atomF f red b => exact (Bool.and_eq_true_iff).trans (and_congr decide_eq_true_iff (by cases red <;> simp))
  | redBf b => exact decide_eq_true_iff

/-- The port accepts, the access is legal, and it goes to cacheable memory that is there. -/
def InboundOpen (s : State) (port : Nat) (op : InboundOp) (a : Nat) : Prop :=
  (s.reg (0xF0080 + 8 * port)).getLsbD 0 = true ∧ LegalAccess op a ∧
    ∀ j < inboundSize op, classOf (a + j) = .cacheable ∧ s.backed (a + j) = true

/-- The test by which the model answers an inbound access with an error. -/
def inboundFails (s : State) (port : Nat) (op : InboundOp) (a : Nat) : Bool :=
  !(s.reg (0xF0080 + 8 * port)).getLsbD 0 || !inboundLegal op a ||
    ((List.range (inboundSize op)).map (a + ·)).any fun a => classOf a ≠ .cacheable || !s.backed a

theorem inboundFails_eq_false_iff (s : State) (port : Nat) (op : InboundOp) (a : Nat) :
    inboundFails s port op a = false ↔ InboundOpen s port op a := by
  simp [inboundFails, InboundOpen, inboundLegal_iff, and_assoc]

/-- The bytes of an inbound access as they are at home. -/
def inboundOld (s : State) (op : InboundOp) (a : Nat) : List Byte := (List.range (inboundSize op)).map fun j => s.homeByte (a + j)

theorem length_inboundOld (s : State) (op : InboundOp) (a : Nat) : (inboundOld s op a).length = inboundSize op := by simp [inboundOld]

/-- `t` is `s` after bytes were written at an address at home. -/
structure WrittenHome (s t : State) (a : Nat) (bs : List Byte) : Prop where
  drills : SameDrills s t
  poison : t.poison = s.poison
  bytes : ∀ j < bs.length, some (t.homeByte (a + j)) = bs[j]?
  others : ∀ b, b < a ∨ a + bs.length ≤ b → t.homeByte b = s.homeByte b

theorem writtenHome_hedgerowWrite {s : State} (hs : Memory.wf s = true) {a : Nat} {bs : List Byte} (hc : ∀ j < bs.length, classOf (a + j) = .cacheable)
    (hd : ∀ j < bs.length, s.deaf (a + j) = false) (x : Option (List Byte)) : WrittenHome s { s.hedgerowWrite a bs with inbound := x } a bs := by
  have hall : (runOf a bs).filter (fun q => !s.deaf q.1) = runOf a bs := by
    refine List.filter_eq_self.2 fun q hq => ?_
    obtain ⟨j, hj, rfl⟩ := of_mem_runOf hq
    rw [hd j hj]
    rfl
  have hh (b : Nat) : State.homeByte { s.hedgerowWrite a bs with inbound := x } b = (s.writeHome (runOf a bs)).homeByte b := by
    rw [State.hedgerowWrite, hall]
    exact homeByte_congr rfl b
  refine ⟨fun _ => rfl, rfl, fun j hj => ?_, fun b hb => ?_⟩
  · rw [hh, homeByte_writeHome_mem hs (nodup_runOf a bs) (mem_runOf hj) (not_isRom_of_cacheable (hc j hj)), List.getElem?_eq_getElem hj]
  · rw [hh]
    refine homeByte_writeHome_notMem hs fun w hw => ?_
    obtain ⟨j, hj, rfl⟩ := of_mem_runOf hw
    dsimp only
    omega

theorem writtenHome_unchanged (s : State) (op : InboundOp) (a : Nat) (x : Option (List Byte)) :
    WrittenHome s { s with inbound := x } a (inboundOld s op a) := by
  refine ⟨fun _ => rfl, rfl, fun j hj => ?_, fun _ _ => rfl⟩
  rw [List.getElem?_eq_getElem hj]
  simp only [inboundOld, List.getElem_map, List.getElem_range]
  exact congrArg some (homeByte_congr rfl _)

/-- The state after an inbound access is performed. -/
def performedInbound (s : State) (op : InboundOp) (a : Nat) (e : DWord) : State :=
  match op with
  | .read _ => { s with inbound := some (inboundOld s op a) }
  | .write data => { s.hedgerowWrite a data with inbound := some [] }
  | .atomI .. | .atomF .. | .redBf _ =>
    { (match inboundNew op e (ofBytes 64 (inboundOld s op a)) with
      | some v => s.hedgerowWrite a (toBytes v (inboundSize op))
      | none => s) with inbound := some (if inboundAnswers op then inboundOld s op a else []) }

/-- An inbound access waits for its port and for Headland, is refused, or is performed. -/
theorem exec_inbound (s : State) (port : Nat) (op : InboundOp) (a : Nat) (e : DWord) :
    exec (.inboundRemoteAccess port op a e) s =
      if (decide (16 ≤ port) || !s.linkUp (24 + port) ||
          (!inboundFails s port op a && ((List.range (inboundSize op)).map (a + ·)).any fun a => s.gate a = .hold)) = true then .next s
      else if (inboundFails s port op a || (((List.range (inboundSize op)).map (a + ·)).any s.poisoned && inboundAnswers op)) = true then
        .next { s with inbound := none }
      else .next (performedInbound s op a e) := by
  have hold : ((List.range (inboundSize op)).map (a + ·)).map s.homeByte = inboundOld s op a := List.map_map
  show execInboundRemoteAccess port op a e s = _
  unfold execInboundRemoteAccess
  dsimp only
  rw [hold]
  cases op <;> rfl

section
variable {s : State} {port a : Nat} {op : InboundOp} {e : DWord} (hp : port < 16) (hl : s.linkUp (24 + port) = true)
include hp hl

/-- An access that is not open is answered with an error and changes nothing else. -/
theorem inbound_refused (h : ¬InboundOpen s port op a) : exec (.inboundRemoteAccess port op a e) s = .next { s with inbound := none } := by
  have hf : inboundFails s port op a = true := by
    rw [← Bool.not_eq_false, inboundFails_eq_false_iff]
    exact h
  rw [exec_inbound, hf, hl, decide_eq_false (Nat.not_le.2 hp)]
  rfl

variable (ho : InboundOpen s port op a) (hg : ∀ j < inboundSize op, s.gate (a + j) = .go)
include ho hg

/-- An open access is answered with an error where it would read poison, and performed otherwise. -/
theorem inbound_open : exec (.inboundRemoteAccess port op a e) s =
    .next (if (((List.range (inboundSize op)).map (a + ·)).any s.poisoned && inboundAnswers op) = true then { s with inbound := none }
      else performedInbound s op a e) := by
  have hheld : (((List.range (inboundSize op)).map (a + ·)).any fun a => s.gate a = .hold) = false := by
    simp only [List.any_map, List.any_eq_false, List.mem_range, Function.comp_apply, decide_eq_true_eq]
    intro j hj
    rw [hg j hj]
    decide
  rw [exec_inbound, (inboundFails_eq_false_iff s port op a).2 ho, hl, decide_eq_false (Nat.not_le.2 hp), hheld]
  exact (apply_ite Host.Outcome.next _ _ _).symm

theorem inbound_answers_poison (ha : inboundAnswers op = true) (hx : ¬∀ j < inboundSize op, s.poisoned (a + j) = false) :
    exec (.inboundRemoteAccess port op a e) s = .next { s with inbound := none } := by
  have hbad : ((List.range (inboundSize op)).map (a + ·)).any s.poisoned = true := by
    simpa [List.any_map] using hx
  rw [inbound_open hp hl ho hg, if_pos (by rw [hbad, ha]; rfl)]

theorem inbound_performed (hx : inboundAnswers op = true → ∀ j < inboundSize op, s.poisoned (a + j) = false) :
    exec (.inboundRemoteAccess port op a e) s = .next (performedInbound s op a e) := by
  rw [inbound_open hp hl ho hg, if_neg]
  rintro h
  obtain ⟨hbad, ha⟩ := Bool.and_eq_true_iff.1 h
  simp only [List.any_map, List.any_eq_true, List.mem_range, Function.comp_apply] at hbad
  obtain ⟨j, hj, hj'⟩ := hbad
  exact Bool.false_ne_true ((hx ha j hj).symm.trans hj')

end

/-! What the performed access leaves at home. -/

section
variable {s : State} {port a : Nat} {op : InboundOp} (ho : InboundOpen s port op a)
  (hg : ∀ j < inboundSize op, s.gate (a + j) = .go) (hs : Memory.wf s = true)
include ho hg hs

theorem writtenHome_of_open {bs : List Byte} (hn : bs.length = inboundSize op) (x : Option (List Byte)) :
    WrittenHome s { s.hedgerowWrite a bs with inbound := x } a bs := by
  obtain ⟨_, _, hm⟩ := ho
  refine writtenHome_hedgerowWrite hs (fun j hj => (hm j (hn ▸ hj)).1) (fun j hj => ?_) x
  rw [State.deaf, hg j (hn ▸ hj)]
  rfl

/-- An atomic access leaves its new value, or the old one where it writes none. -/
theorem writtenHome_atomic (new : Option DWord) {bs : List Byte}
    (hbs : bs = (new.map fun v => toBytes v (inboundSize op)).getD (inboundOld s op a)) (x : Option (List Byte)) :
    WrittenHome s { (match new with | some v => s.hedgerowWrite a (toBytes v (inboundSize op)) | none => s) with inbound := x } a bs := by
  cases new with
  | some v => exact hbs ▸ writtenHome_of_open ho hg hs (by simp [toBytes]) x
  | none => exact hbs ▸ writtenHome_unchanged s op a x

end

section
variable {s : State} {port a : Nat} {f : AtomFn} {u red : Bool} {b e : DWord} (hs : Memory.wf s = true)
include hs

theorem writtenHome_atomI_wide (ho : InboundOpen s port (.atomI f u true red b) a) (hg : ∀ j < 8, s.gate (a + j) = .go) {old : List Byte}
    (hold : inboundOld s (.atomI f u true red b) a = old) :
    WrittenHome s (performedInbound s (.atomI f u true red b) a e) a (toBytes ((atomInt f u (ofBytes 64 old) b e).getD (ofBytes 64 old)) 8) := by
  subst hold
  refine writtenHome_atomic ho hg hs (inboundNew (.atomI f u true red b) e _) ?_ _
  show _ = ((atomInt f u (ofBytes 64 (inboundOld s (.atomI f u true red b) a)) b e).map fun v => toBytes v 8).getD _
  cases atomInt f u (ofBytes 64 (inboundOld s (.atomI f u true red b) a)) b e with
  | some v => rfl
  | none => exact toBytes_ofBytes (w := 64) (bs := inboundOld s (.atomI f u true red b) a) (by rw [length_inboundOld]; rfl)

theorem writtenHome_atomI_word (ho : InboundOpen s port (.atomI f u false red b) a) (hg : ∀ j < 4, s.gate (a + j) = .go) {old : List Byte}
    (hold : inboundOld s (.atomI f u false red b) a = old) :
    WrittenHome s (performedInbound s (.atomI f u false red b) a e) a
      (toBytes ((atomInt f u (ofBytes 32 old) (b.setWidth 32) (e.setWidth 32)).getD (ofBytes 32 old)) 4) := by
  subst hold
  refine writtenHome_atomic ho hg hs (inboundNew (.atomI f u false red b) e _) ?_ _
  show _ = (((atomInt f u ((ofBytes 64 (inboundOld s (.atomI f u false red b) a)).setWidth 32) (b.setWidth 32) (e.setWidth 32)).map
    (·.setWidth 64)).map fun v => toBytes v 4).getD _
  rw [setWidth_ofBytes (by decide)]
  cases atomInt f u (ofBytes 32 (inboundOld s (.atomI f u false red b) a)) (b.setWidth 32) (e.setWidth 32) with
  | some v => exact (toBytes_setWidth v (by decide)).symm
  | none => exact toBytes_ofBytes (w := 32) (bs := inboundOld s (.atomI f u false red b) a) (by rw [length_inboundOld]; rfl)

end

end Sys2Proof.Proofs
end

section
/-!
MEMORY ACCESSES AS THEY ARE PERFORMED (O52), from the lemmas about landings, stores, atomic operations, devices and packages.
-/
namespace Sys2Proof.Proofs
open Sys2Proof.Machine

theorem happens_imp {i : Instr} {s : State} {p q : State → Prop} (h : Happens i s p) (hpq : ∀ t, p t → q t) : Happens i s q :=
  Exists.imp (fun t ht => ⟨ht.1, hpq t ht.2⟩) h

/-! ### What landings leave in the lanes -/

/-- The lanes that a load of lane `n` alone gives. -/
theorem lane_single (n : Nat) (x : Word) {i : Nat} (hi : i < 32) : lane (lanesOf fun i => if n = i then x else 0) i = if i = n then x else 0 := by
  rw [Laws.lane_lanesOf _ _ hi]
  simp only [eq_comm]

theorem lane_loHalf (v : DLanes) {i : Nat} (hi : i < 32) : lane (loHalf v) i = (lane v i).setWidth 32 := Laws.lane_lanesOf _ _ hi

theorem inMask_and (m n : Mask) (i : Nat) : inMask (m &&& n) i = (inMask m i && inMask n i) := BitVec.getLsbD_and

/-- An early landing of lane `n` alone, where it writes its register. -/
theorem lane_early {d e : Drill} {write : Bool} {r n : Nat} {m : Mask} {x : Word}
    (h : SameWork (if write then d.putV r (m &&& maskOf fun i => n = i) (lanesOf fun i => if n = i then x else 0) else d) e) {i : Nat} (hi : i < 32) :
    lane (e.vAt r) i = if write = true ∧ inMask m i = true ∧ i = n then x else lane (d.vAt r) i := by
  rw [Drill.vAt, h.v]
  cases write with
  | false => simp [Drill.vAt]
  | true =>
    refine (lane_putV d r r _ _ hi).trans ?_
    rw [inMask_and, Laws.inMask_maskOf _ _ hi, lane_single n x hi]
    by_cases hn : i = n
    · subst hn
      simp
    · simp [hn, Ne.symm hn]

theorem vAt_early_of_ne {d e : Drill} {write : Bool} {r q : Nat} {m : Mask} {x : Lanes}
    (h : SameWork (if write then d.putV r m x else d) e) (hq : q ≠ r) : e.vAt q = d.vAt q := by
  rw [Drill.vAt, h.v]
  cases write with
  | false => rfl
  | true => exact vAt_putV_of_ne d hq m x

/-- One operation alone is gone when it has landed. -/
theorem LandedIn.ops_nil {d e : Drill} {o : VarOp} {r : Nat} {m : Mask} {x : Lanes} (h : LandedIn d e o r m x) (ho : d.ops = [o]) : e.ops = [] := by
  rw [h.ops, ho]
  simp

theorem LandedIn.mem_ops {d e : Drill} {o : VarOp} {r : Nat} {m : Mask} {x : Lanes} (h : LandedIn d e o r m x) (q : VarOp) :
    q ∈ e.ops ↔ q ∈ d.ops ∧ q.seq ≠ o.seq := by
  rw [h.ops, List.mem_filter, decide_eq_true_iff]

theorem written_word {s t : State} {a : Nat} {x : Word} (h : Written s t a (toBytes x 4)) :
    (∀ j < 4, t.byteAt (a + j) = x.extractLsb' (8 * j) 8) ∧ ∀ b, b < a ∨ a + 4 ≤ b → t.byteAt b = s.byteAt b :=
  ⟨fun j hj => Option.some.inj ((h.bytes j hj).trans (getElem?_toBytes x hj)), h.others⟩

/-- Settles O52: each clause is the event of that name, performed. -/
theorem memoryTraffic : Obligations.MemoryTraffic := by
  unfold Obligations.MemoryTraffic
  refine ⟨?_, ?_⟩
  · intro s k d g cx o l hd hg hc hl quiet near word
    obtain ⟨w, rfl, rfl, rfl, hw⟩ : ∃ w : Who, w.k = k ∧ w.d = d ∧ w.g = g ∧ s.who? k = some w := ⟨_, rfl, rfl, rfl, who?_eq hd hg hc⟩
    have hnear {n : Nat} {write : Bool} (h : near n write) (j : Nat) (hj : j < n) :
        NearByte s w o.seq write (l.pa + j) := by
      obtain ⟨hc, hb, hp, hg, ho, hn⟩ := h j hj
      exact ⟨hc, hb, hp, hg, ho, hn⟩
    have hstore {bs : List Byte} (hb : bs ≠ []) (h : ∀ j < bs.length, classOf (l.pa + j) = .cacheable ∧ s.backed (l.pa + j) = true ∧
        s.grantOk w.g.ctx (l.pa + j) = true ∧ s.gate (l.pa + j) = .go) : StoreLane s w l bs :=
      ⟨hb, fun j hj => (h j hj).1, fun j hj => (h j hj).2.1, fun j hj => (h j hj).2.2.1, fun j hj => (h j hj).2.2.2⟩
    refine ⟨?_, ?_, ?_, ?_, ?_, ?_, ?_, ?_, ?_, ?_, ?_, ?_, ?_⟩
    · rintro ⟨ho, hq, ha⟩ hn hk ht - r hi hr
      refine happens_imp (load_lands hw hd hi hr (find?_alone ho) (clearFor_alone ho hq ha) hk (laneNow_near hk ht hq (hnear hn))) ?_
      rintro t ⟨e, he, hL, hm⟩
      refine ⟨e, he, hL.ops_nil ho, hL.count, fun i hi => ?_, hL.others, hm⟩
      rw [hL.lanes i hi, lane_single _ _ hi]
      rfl
    · intro v fl r _ hf hk hi hr
      refine happens_imp (value_lands hw hd hi hr hf hk) ?_
      rintro t ⟨e, he, hL, hm⟩
      refine ⟨e, he, hL.mem_ops, fun i hi => ?_, hL.others, hm⟩
      rw [hL.lanes i hi, lane_loHalf _ hi]
    · rintro bs r ⟨ho, hq, ha⟩ hk ht - hi hr
      refine happens_imp (load_lands hw hd hi hr (find?_alone ho) (clearFor_alone ho hq ha) hk (laneNow_taken ht)) ?_
      rintro t ⟨e, he, hL, hm⟩
      refine ⟨e, he, hL.ops_nil ho, fun i hi => ?_, hL.others, hm⟩
      rw [hL.lanes i hi, lane_single _ _ hi]
    · rintro m write r ⟨ho, hq, ha⟩ hn hk ht hi hr hm
      have hu : classOf l.pa ≠ .uncached := fun h => by
        have h0 : classOf l.pa = .cacheable := (hnear hn 0 (by decide)).cacheable
        rw [h0] at h
        cases h
      refine happens_imp (load_lands_early hw hd hi hr ho (clearFor_alone ho hq ha) hk ht (laneNow_near hk ht hq (hnear hn)) hu hm write) ?_
      rintro t ⟨e, d1, he, hd1, hL, hmem⟩
      have hv (q : Nat) : d1.vAt q = w.d.vAt q := by rw [hd1]; rfl
      refine ⟨e, { o with taken := [(l.lane, s.bytesAt l.pa 4)] }, he, ?_, rfl, rfl, ?_, ?_, fun i hi => ?_,
        fun q hq => (vAt_early_of_ne hL hq).trans (hv q), hmem⟩
      · rw [hL.ops, hd1]
        cases write <;> rfl
      · simp [tblGet?, State.bytesAt]
      · rw [Drill.count, hL.sb, hd1]
        cases write <;> rfl
      · rw [lane_early hL hi, hv]
        rfl
    · intro v fl r m hf hk hi hr
      refine happens_imp (value_lands_early hw hd hi hr hf hk m) ?_
      rintro t ⟨e, he, hL, hm⟩
      have hv (q : Nat) : e.vAt q = (w.d.putV r (o.mask &&& m) (loHalf v)).vAt q := by rw [Drill.vAt, hL.v]; rfl
      refine ⟨e, he, hL.ops, fun i hi => ?_, fun q hq => (hv q).trans (vAt_putV_of_ne w.d hq _ _), hm⟩
      rw [hv, lane_putV _ _ _ _ _ hi, inMask_and, lane_loHalf _ hi]
      simp
    · exact fun n early hf => exec_landing_none hw hf early
    · intro bs sq pc ho ha hq hb _ _ h
      refine happens_imp (store_leaves hw hd ho ha (hstore hb h) hq) fun t ht => ?_
      exact ⟨_, ht.1, rfl, rfl, rfl, rfl, ht.2.bytes, ht.2.others⟩
    · intro bs sq pc x ho ha hq hb _ _ h
      refine happens_imp (store_leaves_first hw hd ho ha (hstore hb h) hq) fun t ht => ?_
      exact ⟨_, ht.1, rfl, rfl, rfl, rfl, ht.2.bytes, ht.2.others⟩
    · exact fun part hq => no_store_leaves hw hq part
    · rintro f u b e ⟨ho, hq, ha⟩ hn - hk
      refine happens_imp (atom_performs hw hd ho hq ha (hnear hn) hl hk) fun t ht => ?_
      exact ⟨ht.1, written_word ht.2⟩
    · rintro f u b e x ⟨ho, hq, ha⟩ hn - hk hx
      refine happens_imp (atom_performs_first hw hd ho hq ha (hnear hn) hl hk hx) fun t ht => ?_
      exact ⟨ht.1, written_word ht.2⟩
    · intro chip line hca hcl hb
      have h : Serves s chip line := ⟨hca, hcl, hb⟩
      exact ⟨own_request h, share_request, drop_request, grant_request⟩
    · intro chip line r pa s1 hh hp hl hc hb hg
      refine ⟨fun n ho h0 h16 hx => device_reads hh hp hl hc hb hg ho ?_ hx, fun bs ho h0 h16 hx hs => device_writes hh hp hl hc hb hg ho ?_ hx hs⟩
      · simp [devicePiece, h0, h16]
      · simp [devicePiece, List.length_pos_iff, h0, h16]
  · intro s k d hd
    refine ⟨?_, ?_, fun hr ok data => no_store_acknowledged hd hr ok data, ?_⟩
    · intro g cx o f l v hg hc ho hq ha hr hk hcl hn n hp hlk hup
      obtain ⟨w, rfl, rfl, hw⟩ : ∃ w : Who, w.k = k ∧ w.d = d ∧ s.who? k = some w := ⟨_, rfl, rfl, who?_eq hd hg hc⟩
      exact ⟨remote_answers hw hd hup ho hq ha hr hk hcl hn hp hlk (ok := true) (data := [v]) fun _ => rfl,
        remote_answers hw hd hup ho hq ha hr hk hcl hn hp hlk (ok := false) (data := []) nofun⟩
    · intro n va rest data hr hlk hup
      exact ⟨store_acknowledged hd hr hlk hup true data, store_acknowledged hd hr hlk hup false data⟩
    · intro port a op e hp hlk n i legal open_ ready pure_ leaves old
      have hlegal : legal = LegalAccess op a := by cases op <;> rfl
      have hopen : open_ = InboundOpen s port op a := by
        show (_ ∧ legal ∧ _) = _
        rw [hlegal]
        rfl
      have hleaves {t : State} {bs : List Byte} (h : WrittenHome s t a bs) : leaves t bs := ⟨h.drills, h.poison, h.bytes, h.others⟩
      rw [hopen]
      refine ⟨?_, ?_, ?_, ?_, ?_, ?_⟩
      · rintro bs rfl ho hg hs
        exact ⟨_, inbound_performed hp hlk ho hg nofun, rfl, hleaves (writtenHome_of_open ho hg hs rfl _)⟩
      · rintro m rfl ho hg hx
        exact ⟨_, inbound_performed hp hlk ho hg fun _ => hx, rfl⟩
      · rintro f u red b rfl ho hg hx hs
        refine ⟨_, inbound_performed hp hlk ho hg fun ha => hx ?_, ?_, hleaves (writtenHome_atomI_word hs ho hg rfl)⟩
        · simpa [inboundAnswers] using ha
        · cases red <;> rfl
      · rintro f u red b rfl ho hg hx hs
        refine ⟨_, inbound_performed hp hlk ho hg fun ha => hx ?_, ?_, hleaves (writtenHome_atomI_wide hs ho hg rfl)⟩
        · simpa [inboundAnswers] using ha
        · cases red <;> rfl
      · exact fun ha ho hg hx => ⟨_, inbound_answers_poison hp hlk ho hg ha hx, rfl⟩
      · exact fun ho => ⟨_, inbound_refused hp hlk ho, rfl⟩

end Sys2Proof.Proofs
end

section
/-!
PROOFS about the encoding (R23, R24, R32, R37, R38): the fields of a word, the codes of its functions, sources and slots, and the two
directions of the Furrow round trip. `readFields` is taken apart once in each direction: `spelled_readFields` says that what it
answers is spelled by the fields it read, `readFields_encodeFields` that it answers every instruction whose fields it is given.
-/
namespace Sys2Proof.Proofs

/-! ### Bits of a word -/

theorem ofBool_getLsbD {w : Nat} (x : BitVec w) (n : Nat) : BitVec.ofBool (x.getLsbD n) = x.extractLsb' n 1 := by
  ext i hi
  obtain rfl : i = 0 := by omega
  rw [BitVec.getElem_ofBool, BitVec.getElem_extractLsb', Nat.add_zero]

theorem extract_append {w : Nat} (x : BitVec w) (m n : Nat) : x.extractLsb' n m ++ x.extractLsb' 0 n = x.extractLsb' 0 (m + n) :=
  BitVec.extractLsb'_append_extractLsb'_eq_extractLsb' (Nat.zero_add n).symm

theorem append_inj {v w : Nat} {x y : BitVec v} {a b : BitVec w} : x ++ a = y ++ b ↔ x = y ∧ a = b := by
  refine ⟨fun h => ⟨?_, ?_⟩, fun ⟨hx, ha⟩ => by rw [hx, ha]⟩
  · simpa only [BitVec.extractLsb'_append_eq_left] using congrArg (BitVec.extractLsb' w v) h
  · simpa only [BitVec.extractLsb'_append_eq_right] using congrArg (BitVec.extractLsb' 0 w) h

theorem append_congr {v w : Nat} {x y : BitVec v} {a b : BitVec w} {p q : Prop} (hp : x = y ↔ p) (hq : a = b ↔ q) :
    x ++ a = y ++ b ↔ p ∧ q :=
  append_inj.trans (and_congr hp hq)

theorem setWidth_narrow {m n : Nat} {x : BitVec n} (h : x.toNat < 2 ^ m) : (x.setWidth m).setWidth n = x := by
  apply BitVec.eq_of_toNat_eq
  simp [Nat.mod_eq_of_lt h]

theorem setWidth_flag {n : Nat} {x : BitVec n} (h : x.toNat < 2) : (BitVec.ofBool (x.getLsbD 0)).setWidth n = x := by
  have hbit : BitVec.ofBool (x.getLsbD 0) = x.setWidth 1 := by
    rw [ofBool_getLsbD]
    ext i hi
    simp
  rw [hbit]
  exact setWidth_narrow h

theorem toNat_setWidth_lt {m n k : Nat} {x : BitVec m} (h : 2 ^ m ≤ k) : (x.setWidth n).toNat < k := by
  rw [BitVec.toNat_setWidth]
  exact (Nat.mod_le _ _).trans_lt (x.isLt.trans_le h)

/-- SRC2 of CVT, as the number of its rounding bits and its type pair. -/
@[simp] theorem split_s2 (x : BitVec 9) : (x.extractLsb' 6 3 ++ x.setWidth 6 : BitVec 9) = x := by
  rw [BitVec.setWidth_eq_extractLsb' (by decide)]
  exact (extract_append x 3 6).trans BitVec.extractLsb'_eq_self

/-! ### The fields of a word -/

theorem packFields_unpackFields (w : BitVec 64) : packFields (unpackFields w) = w := by
  simp only [packFields, unpackFields, ofBool_getLsbD, extract_append]
  exact BitVec.extractLsb'_eq_self

theorem packFields_inj {f g : Fields} (h : packFields f = packFields g) : f = g := by
  cases f
  cases g
  obtain ⟨rfl, h⟩ := append_inj.1 h
  obtain ⟨rfl, h⟩ := append_inj.1 h
  obtain ⟨rfl, h⟩ := append_inj.1 h
  obtain ⟨he, h⟩ := append_inj.1 h
  obtain ⟨rfl, h⟩ := append_inj.1 h
  obtain ⟨hgn, h⟩ := append_inj.1 h
  obtain ⟨rfl, h⟩ := append_inj.1 h
  obtain ⟨rfl, h⟩ := append_inj.1 h
  obtain ⟨hnw, h⟩ := append_inj.1 h
  obtain ⟨rfl, h⟩ := append_inj.1 h
  obtain ⟨rfl, hnf⟩ := append_inj.1 h
  rw [BitVec.ofBool_eq_iff_eq] at he hgn hnw hnf
  subst he hgn hnw hnf
  rfl

theorem unpackFields_packFields (f : Fields) : unpackFields (packFields f) = f :=
  packFields_inj (packFields_unpackFields _)

section
variable (f : Fields)

theorem loV_fields : loV f.sbw f.fn f.s1 f.s2 f.x = f.lo := by
  simp only [loV, Fields.sbw, Fields.fn, Fields.s1, Fields.s2, Fields.x, ofBool_getLsbD, extract_append]
  exact BitVec.extractLsb'_eq_self

theorem loM_fields : loM f.sbw f.fn f.s1 f.ofs10 = f.lo := by
  simp only [loM, Fields.sbw, Fields.fn, Fields.s1, Fields.ofs10, extract_append]
  exact BitVec.extractLsb'_eq_self

theorem loB_fields : loB f.sbw f.fn f.ofs19 = f.lo := by
  simp only [loB, Fields.sbw, Fields.fn, Fields.ofs19, extract_append]
  exact BitVec.extractLsb'_eq_self

theorem loI_fields : loI f.sbw1 f.is1 f.imm = f.lo := by
  simp only [loI, Fields.sbw1, Fields.is1, Fields.imm, extract_append]
  exact BitVec.extractLsb'_eq_self

/-- FN is compared as a number, which is how the decoder tells the forms of an opcode apart. -/
theorem loV_eq_iff {w : BitVec 6} {n : BitVec 3} {a b : BitVec 9} {x : Bool} :
    loV w n a b x = f.lo ↔ w = f.sbw ∧ n.toNat = f.fn.toNat ∧ a = f.s1 ∧ b = f.s2 ∧ x = f.x := by
  rw [← loV_fields f]
  exact append_congr .rfl
    (append_congr BitVec.toNat_inj.symm (append_congr .rfl (append_congr .rfl BitVec.ofBool_eq_iff_eq)))

theorem loM_eq_iff {w : BitVec 6} {n : BitVec 3} {a : BitVec 9} {o : BitVec 10} :
    loM w n a o = f.lo ↔ w = f.sbw ∧ n = f.fn ∧ a = f.s1 ∧ o = f.ofs10 := by
  rw [← loM_fields f]
  exact append_congr .rfl (append_congr .rfl (append_congr .rfl .rfl))

theorem loB_eq_iff {w : BitVec 6} {n : BitVec 3} {o : BitVec 19} :
    loB w n o = f.lo ↔ w = f.sbw ∧ n = f.fn ∧ o = f.ofs19 := by
  rw [← loB_fields f]
  exact append_congr .rfl (append_congr .rfl .rfl)

theorem loI_eq_iff {w : BitVec 3} {a : BitVec 9} {imm : BitVec 16} :
    loI w a imm = f.lo ↔ w = f.sbw1 ∧ a = f.is1 ∧ imm = f.imm := by
  rw [← loI_fields f]
  exact append_congr .rfl (append_congr .rfl .rfl)

end

section
variable (c : Ctl) (op : BitVec 7) (d : BitVec 8)

@[simp] theorem op_fieldsOf (lo : BitVec 28) : (fieldsOf c op d lo).op = op := rfl
@[simp] theorem dst_fieldsOf (lo : BitVec 28) : (fieldsOf c op d lo).dst = d := rfl

theorem ctl_fieldsOf {lo : BitVec 28} (h : (fieldsOf c op d lo).sbw = c.sbw) : (fieldsOf c op d lo).ctl = c := by
  rw [Fields.ctl, h]
  rfl

@[simp] theorem ctlI_fieldsOf (lo : BitVec 28) : (fieldsOf c op d lo).ctlI c.sbw = c := rfl

section
variable (w : BitVec 6) (n : BitVec 3) (a b : BitVec 9) (x : Bool) (o : BitVec 10) (p : BitVec 19) (imm : BitVec 16)

theorem fieldsOf_loV :
    (fieldsOf c op d (loV w n a b x)).sbw = w ∧ (fieldsOf c op d (loV w n a b x)).fn = n ∧
    (fieldsOf c op d (loV w n a b x)).s1 = a ∧ (fieldsOf c op d (loV w n a b x)).s2 = b ∧
    (fieldsOf c op d (loV w n a b x)).x = x := by
  obtain ⟨hw, hn, ha, hb, hx⟩ := (loV_eq_iff (fieldsOf c op d (loV w n a b x))).1 rfl
  exact ⟨hw.symm, (BitVec.eq_of_toNat_eq hn).symm, ha.symm, hb.symm, hx.symm⟩

theorem fieldsOf_loM :
    (fieldsOf c op d (loM w n a o)).sbw = w ∧ (fieldsOf c op d (loM w n a o)).fn = n ∧
    (fieldsOf c op d (loM w n a o)).s1 = a ∧ (fieldsOf c op d (loM w n a o)).ofs10 = o := by
  obtain ⟨hw, hn, ha, ho⟩ := (loM_eq_iff (fieldsOf c op d (loM w n a o))).1 rfl
  exact ⟨hw.symm, hn.symm, ha.symm, ho.symm⟩

theorem fieldsOf_loB :
    (fieldsOf c op d (loB w n p)).sbw = w ∧ (fieldsOf c op d (loB w n p)).fn = n ∧
    (fieldsOf c op d (loB w n p)).ofs19 = p := by
  obtain ⟨hw, hn, hp⟩ := (loB_eq_iff (fieldsOf c op d (loB w n p))).1 rfl
  exact ⟨hw.symm, hn.symm, hp.symm⟩

theorem fieldsOf_loI :
    (fieldsOf c op d (loI n a imm)).sbw1 = n ∧ (fieldsOf c op d (loI n a imm)).is1 = a ∧
    (fieldsOf c op d (loI n a imm)).imm = imm := by
  obtain ⟨hn, ha, hi⟩ := (loI_eq_iff (fieldsOf c op d (loI n a imm))).1 rfl
  exact ⟨hn.symm, ha.symm, hi.symm⟩

end
end

section
variable {w : Fields} {op : BitVec 7} {d : BitVec 8} {lo : BitVec 28}

@[simp] theorem fieldsOf_ctl : fieldsOf w.ctl op d lo = w ↔ op.toNat = w.op.toNat ∧ d = w.dst ∧ lo = w.lo := by
  cases w
  simp only [fieldsOf, Fields.mk.injEq, BitVec.toNat_inj]
  tauto

@[simp] theorem fieldsOf_ctlI {m : BitVec 6} :
    fieldsOf (w.ctlI m) op d lo = w ↔ op.toNat = w.op.toNat ∧ d = w.dst ∧ lo = w.lo :=
  fieldsOf_ctl

@[simp] theorem sbw_ctl : w.ctl.sbw = w.sbw := rfl
@[simp] theorem sbw_ctlI (m : BitVec 6) : (w.ctlI m).sbw = m := rfl

end

/-! ### The codes of functions, sources and slots -/

@[simp] theorem addFn_ofBits_eq {b : BitVec 3} {f : AddFn} : AddFn.ofBits b = some f ↔ f.bits = b := by cases f <;> decide +revert
@[simp] theorem mulFn_ofBits_eq {b : BitVec 3} {f : MulFn} : MulFn.ofBits b = some f ↔ f.bits = b := by cases f <;> decide +revert
@[simp] theorem macFn_ofBits_eq {b : BitVec 3} {f : MacFn} : MacFn.ofBits b = some f ↔ f.bits = b := by cases f <;> decide +revert
@[simp] theorem mnxFn_ofBits_eq {b : BitVec 3} {f : MnxFn} : MnxFn.ofBits b = some f ↔ f.bits = b := by cases f <;> decide +revert
@[simp] theorem logFn_ofBits_eq {b : BitVec 3} {f : LogFn} : LogFn.ofBits b = some f ↔ f.bits = b := by cases f <;> decide +revert
@[simp] theorem shfFn_ofBits_eq {b : BitVec 3} {f : ShfFn} : ShfFn.ofBits b = some f ↔ f.bits = b := by cases f <;> decide +revert
@[simp] theorem bitFn_ofBits_eq {b : BitVec 3} {f : BitFn} : BitFn.ofBits b = some f ↔ f.bits = b := by cases f <;> decide +revert
@[simp] theorem cmpFn_ofBits_eq {b : BitVec 3} {f : CmpFn} : CmpFn.ofBits b = some f ↔ f.bits = b := by cases f <;> decide +revert
@[simp] theorem kopFn_ofBits_eq {b : BitVec 3} {f : KopFn} : KopFn.ofBits b = some f ↔ f.bits = b := by cases f <;> decide +revert
@[simp] theorem rnd_ofBits_eq {b : BitVec 3} {f : Rnd} : Rnd.ofBits b = some f ↔ f.bits = b := by cases f <;> decide +revert
@[simp] theorem mnmFn_ofBits_eq {b : BitVec 3} {f : MnmFn} : MnmFn.ofBits b = some f ↔ f.bits = b := by cases f <;> decide +revert
@[simp] theorem fcmpFn_ofBits_eq {b : BitVec 3} {f : FcmpFn} : FcmpFn.ofBits b = some f ↔ f.bits = b := by cases f <;> decide +revert
@[simp] theorem sgnFn_ofBits_eq {b : BitVec 3} {f : SgnFn} : SgnFn.ofBits b = some f ↔ f.bits = b := by cases f <;> decide +revert
@[simp] theorem vdotFn_ofBits_eq {b : BitVec 3} {f : VdotFn} : VdotFn.ofBits b = some f ↔ f.bits = b := by cases f <;> decide +revert
@[simp] theorem sfuFn_ofBits_eq {b : BitVec 3} {f : SfuFn} : SfuFn.ofBits b = some f ↔ f.bits = b := by cases f <;> decide +revert
@[simp] theorem bsfuFn_ofBits_eq {b : BitVec 3} {f : BsfuFn} : BsfuFn.ofBits b = some f ↔ f.bits = b := by cases f <;> decide +revert
@[simp] theorem divFn_ofBits_eq {b : BitVec 3} {f : DivFn} : DivFn.ofBits b = some f ↔ f.bits = b := by cases f <;> decide +revert
@[simp] theorem lxchFn_ofBits_eq {b : BitVec 3} {f : LxchFn} : LxchFn.ofBits b = some f ↔ f.bits = b := by cases f <;> decide +revert
@[simp] theorem qxFn_ofBits_eq {b : BitVec 3} {f : QxFn} : QxFn.ofBits b = some f ↔ f.bits = b := by cases f <;> decide +revert
@[simp] theorem voteFn_ofBits_eq {b : BitVec 3} {f : VoteFn} : VoteFn.ofBits b = some f ↔ f.bits = b := by cases f <;> decide +revert
@[simp] theorem redxFn_ofBits_eq {b : BitVec 3} {f : RedxFn} : RedxFn.ofBits b = some f ↔ f.bits = b := by cases f <;> decide +revert
@[simp] theorem ldFn_ofBits_eq {b : BitVec 3} {f : LdFn} : LdFn.ofBits b = some f ↔ f.bits = b := by cases f <;> decide +revert
@[simp] theorem stFn_ofBits_eq {b : BitVec 3} {f : StFn} : StFn.ofBits b = some f ↔ f.bits = b := by cases f <;> decide +revert
@[simp] theorem lduFn_ofBits_eq {b : BitVec 3} {f : LduFn} : LduFn.ofBits b = some f ↔ f.bits = b := by cases f <;> decide +revert
@[simp] theorem atomFn_ofBits_eq {b : BitVec 3} {f : AtomFn} : AtomFn.ofBits b = some f ↔ f.bits = b := by cases f <;> decide +revert
@[simp] theorem fatomFn_ofBits_eq {b : BitVec 3} {f : FatomFn} : FatomFn.ofBits b = some f ↔ f.bits = b := by cases f <;> decide +revert
@[simp] theorem redFn_ofBits_eq {b : BitVec 3} {f : RedFn} : RedFn.ofBits b = some f ↔ f.bits = b := by cases f <;> decide +revert
@[simp] theorem fredFn_ofBits_eq {b : BitVec 3} {f : FredFn} : FredFn.ofBits b = some f ↔ f.bits = b := by cases f <;> decide +revert
@[simp] theorem scope_ofBits_eq {b : BitVec 3} {f : Scope} : Scope.ofBits b = some f ↔ f.bits = b := by cases f <;> decide +revert
@[simp] theorem mmaFn_ofBits_eq {b : BitVec 3} {f : MmaFn} : MmaFn.ofBits b = some f ↔ f.bits = b := by cases f <;> decide +revert
@[simp] theorem ardFn_ofBits_eq {b : BitVec 3} {f : ArdFn} : ArdFn.ofBits b = some f ↔ f.bits = b := by cases f <;> decide +revert
@[simp] theorem astFn_ofBits_eq {b : BitVec 3} {f : AstFn} : AstFn.ofBits b = some f ↔ f.bits = b := by cases f <;> decide +revert

theorem srcOfCode_eq {n : BitVec 9} {a : Src} : srcOfCode n = some a ↔ codeOfSrc a = n := by
  constructor
  · exact (by decide : ∀ n : BitVec 9, ∀ a ∈ srcOfCode n, codeOfSrc a = n) n a
  · rintro rfl
    cases a <;> decide +revert

theorem maskOfSlot_eq {n : BitVec 3} {m : BitVec 6} : maskOfSlot n = some m ↔ slotOfMask m = n ∧ m &&& (m - 1) = 0 := by
  decide +revert

/-! ### A word that decodes is spelled by what it decodes to -/

/-- A reading of the fields `w`: what it answers is a Furrow instruction that these fields spell. -/
def Spelled (w : Fields) (r : Except DecodeError Instr) : Prop := ∀ i, r = .ok i → i.isFurrow = true ∧ encodeFields i = w

section
variable {w : Fields} {err : DecodeError}

@[simp] theorem spelled_require {ok : Bool} {go : Except DecodeError Instr} :
    Spelled w (require ok err go) ↔ (ok = true → Spelled w go) := by
  cases ok <;> simp [Spelled, require]

@[simp] theorem spelled_given {α : Type} {o : Option α} {go : α → Except DecodeError Instr} :
    Spelled w (given o err go) ↔ ∀ a, o = some a → Spelled w (go a) := by
  cases o <;> simp [Spelled, given]

@[simp] theorem spelled_error : Spelled w (.error err) := by simp [Spelled]

@[simp] theorem spelled_ok {i : Instr} : Spelled w (.ok i) ↔ i.isFurrow = true ∧ encodeFields i = w := by simp [Spelled]

end

/-- Each row of the decoder's table answers an instruction whose row of the encoder's table gives the fields back: the rows are
those of the opcode and, where FN or SRC2 names the form, of its value. -/
theorem spelled_readFields (w : Fields) : Spelled w (readFields w) := by
  unfold readFields
  repeat' split
  all_goals
    simp +contextual [encodeFields, Instr.isFurrow, loV_eq_iff, loM_eq_iff, loB_eq_iff, loI_eq_iff, srcOfCode_eq, maskOfSlot_eq,
      setWidth_narrow, setWidth_flag, -BitVec.getLsbD_eq_getElem, *]

theorem decodeFurrow_eq_ok {w : BitVec 64} {i : Instr} :
    decodeFurrow w = .ok i ↔ readFields (unpackFields w) = .ok i ∧ i.wf = true := by
  rw [decodeFurrow, Instr.wf, Option.isNone_iff_eq_none]
  cases readFields (unpackFields w) with
  | error e => simp
  | ok j =>
    cases h : j.check with
    | none =>
      suffices j = i → i.check = none by simpa [h]
      rintro rfl
      exact h
    | some e =>
      suffices j = i → i.check ≠ none by simpa [h]
      rintro rfl
      simp [h]

theorem encode_furrow {i : Instr} (h : i.isFurrow = true) :
    encode i = [(packFields (encodeFields i)).extractLsb' 0 32, (packFields (encodeFields i)).extractLsb' 32 32] := by
  cases i <;> simp only [Instr.isFurrow, Bool.false_eq_true] at h <;> rfl

/-- Settles O8: the fields of the word are those of the instruction (`spelled_readFields`), and fields and word determine each
other. -/
theorem furrowWordUnique : Obligations.FurrowWordUnique := by
  intro w i h
  obtain ⟨hread, hwf⟩ := decodeFurrow_eq_ok.1 h
  obtain ⟨hfurrow, hfields⟩ := spelled_readFields _ i hread
  refine ⟨hfurrow, hwf, ?_⟩
  rw [encode_furrow hfurrow, hfields, packFields_unpackFields]

/-! ### Decoding undoes encoding -/

@[simp] theorem require_true {err : DecodeError} {go : Except DecodeError Instr} : require true err go = go := rfl
@[simp] theorem given_some {α : Type} {a : α} {err : DecodeError} {go : α → Except DecodeError Instr} :
    given (some a) err go = go a := rfl

/-- An immediate instruction waits for one slot at most: its word has room for one (R24). -/
def OneSlot (i : Instr) : Prop := i.shape.immediate = true → i.ctl.sbw &&& (i.ctl.sbw - 1) = 0

theorem oneSlot_of_wf {i : Instr} (h : i.wf = true) : OneSlot i := by
  intro himm
  rw [Instr.wf, Option.isNone_iff_eq_none, Instr.check, Option.or_eq_none_iff, Option.or_eq_none_iff] at h
  obtain ⟨-, hslots, -⟩ := h
  unfold checkSlots at hslots
  iterate 3
    split at hslots
    · cases hslots
  simpa [himm] using hslots

/-- The row of the decoder's table that an instruction's opcode selects answers that instruction. The opcode is made a numeral and
`require` and `given` are held fixed while the match on it computes, so that each case is one row. -/
theorem readFields_encodeFields (i : Instr) (h : i.isFurrow = true) (hw : OneSlot i) : readFields (encodeFields i) = .ok i := by
  unfold readFields
  generalize hr : require = rq
  generalize hg : @given = gv
  generalize ho : (encodeFields i).op.toNat = o
  cases i
  all_goals simp only [Instr.isFurrow, Bool.false_eq_true] at h
  all_goals simp only [encodeFields, op_fieldsOf, BitVec.reduceToNat] at ho
  all_goals subst ho
  all_goals conv => lhs; whnf
  all_goals subst hr hg
  case'
      iaddi _ _ _ c | andi _ _ _ c | ori _ _ _ c | xori _ _ _ c | shli _ _ _ c | shri _ _ _ c | sari _ _ _ c
      | imuli _ _ _ c | faddiF32 _ _ _ c | fmuliF32 _ _ _ c | fmaciF32 _ _ _ c | hmuliBf16x2 _ _ _ c
      | hmuliF16x2 _ _ _ c | prmti _ _ _ c | qclmp _ _ _ c | vgeti _ _ _ c | vputi _ _ _ c | movil _ _ c
      | movih _ _ c =>
    have hslot : maskOfSlot (slotOfMask c.sbw) = some c.sbw := maskOfSlot_eq.2 ⟨rfl, hw rfl⟩
  case' mov w64 _ _ _ => have hflag : (BitVec.setWidth 3 (BitVec.ofBool w64)).toNat < 2 := toNat_setWidth_lt (by decide)
  case' azr bank _ => have hflag : (BitVec.setWidth 9 (BitVec.ofBool bank)).toNat < 2 := toNat_setWidth_lt (by decide)
  case' cvt _ _ _ _ j p _ =>
    have hj : BitVec.extractLsb' 6 3 (j ++ p) = j := BitVec.extractLsb'_append_eq_left
    have hp : BitVec.setWidth 6 (j ++ p) = p := BitVec.setWidth_append_eq_right
  all_goals
    simp [
      encodeFields, fieldsOf_loV, fieldsOf_loM, fieldsOf_loB, fieldsOf_loI, ctl_fieldsOf, ctlI_fieldsOf,
      srcOfCode_eq.2 rfl, addFn_ofBits_eq.2 rfl, mulFn_ofBits_eq.2 rfl, macFn_ofBits_eq.2 rfl, mnxFn_ofBits_eq.2 rfl,
      logFn_ofBits_eq.2 rfl, shfFn_ofBits_eq.2 rfl, bitFn_ofBits_eq.2 rfl, cmpFn_ofBits_eq.2 rfl, kopFn_ofBits_eq.2 rfl,
      rnd_ofBits_eq.2 rfl, mnmFn_ofBits_eq.2 rfl, fcmpFn_ofBits_eq.2 rfl, sgnFn_ofBits_eq.2 rfl, vdotFn_ofBits_eq.2 rfl,
      sfuFn_ofBits_eq.2 rfl, bsfuFn_ofBits_eq.2 rfl, divFn_ofBits_eq.2 rfl, lxchFn_ofBits_eq.2 rfl,
      qxFn_ofBits_eq.2 rfl, voteFn_ofBits_eq.2 rfl, redxFn_ofBits_eq.2 rfl, ldFn_ofBits_eq.2 rfl, stFn_ofBits_eq.2 rfl,
      lduFn_ofBits_eq.2 rfl, atomFn_ofBits_eq.2 rfl, fatomFn_ofBits_eq.2 rfl, redFn_ofBits_eq.2 rfl,
      fredFn_ofBits_eq.2 rfl, scope_ofBits_eq.2 rfl, mmaFn_ofBits_eq.2 rfl, ardFn_ofBits_eq.2 rfl,
      astFn_ofBits_eq.2 rfl, toNat_setWidth_lt, -BitVec.toNat_setWidth, *]

/-- Settles O6: the decoder reads the encoder's fields back (`readFields_encodeFields`), and the checks pass because the instruction
is well-formed. -/
theorem furrowRoundTrip : Obligations.FurrowRoundTrip := by
  intro i hfurrow hwf
  refine ⟨_, _, encode_furrow hfurrow, ?_⟩
  rw [BitVec.extractLsb'_append_extractLsb', decodeFurrow_eq_ok, unpackFields_packFields]
  exact ⟨readFields_encodeFields i hfurrow (oneSlot_of_wf hwf), hwf⟩

end Sys2Proof.Proofs
end

section
/-!
PROOFS about what comes to issue (R30, R38, R70, R77, R159): every Furrow instruction goes through `issue`, which names the drill and
its group or faults, and stalls a drill whose instruction cannot issue yet.
-/
namespace Sys2Proof.Proofs
open Sys2Proof.Machine

/-- Executing a Furrow instruction is issuing it with a body of its own. -/
theorem exec_issues {i : Instr} (h : i.isFurrow = true) : ∃ body, ∀ s, exec i s = issue i s body := by
  cases i
  all_goals simp only [Instr.isFurrow, Bool.false_eq_true] at h
  case' iadd f _ _ _ _ | isub f _ _ _ _ | imul f _ _ _ _ | imac f _ _ _ _ => cases f
  case' shf x64 _ _ _ _ | mov x64 _ _ _ => cases x64
  case' cvt m _ _ _ _ _ _ => cases m
  all_goals exact ⟨_, fun _ => rfl⟩

section
variable {i : Instr} {s : State} {k : Nat} {d : Drill} {g : Group} {body : Issue → State → Eff}

theorem issue_eq_next (hcur : s.cur = some (.drill k)) (hd : s.drill? k = some d) (hg : s.group? d.gid = some g) :
    issue i s body = .next (s.issueAt { k := k, d := d, g := g, i := i, act := activeLanes d i } body) := by
  simp only [issue, hcur, hd, hg]

theorem issue_eq_fault (hcur : s.cur = some (.drill k)) (hd : s.drill? k = some d) (hg : s.group? d.gid = none) :
    issue i s body = .fault .noDrill := by
  simp only [issue, hcur, hd, hg]

end

/-- A slot's count leaves room for the instruction, as `State.issueAt` tests it (R77). -/
theorem slot_hasRoom {d : Drill} {c : Ctl} (h : c.sbs = 0 ∨ d.count c.sbs.toNat < 15) :
    (decide (c.sbs ≠ 0) && decide (d.count c.sbs.toNat ≥ 15)) = false := by
  rcases h with hslot | hlt
  · simp [hslot]
  · simp [Nat.not_le.2 hlt]

section
variable {s : State} {x : Issue} {body : Issue → State → Eff} (hearly : earlyTrap x.d x.g x.i = none)
include hearly

theorem issueAt_unclear (hwait : x.d.unclear x.i.ctl.sbw = true) :
    s.issueAt x body = s.stallOn x.k (.slots x.i.ctl.sbw) := by
  simp only [State.issueAt, hearly, hwait, if_true]

variable (hwait : x.d.unclear x.i.ctl.sbw = false) (hpoison : poisonedWait x.d x.i.ctl.sbw = none)
include hwait hpoison

theorem issueAt_count (hslot : x.i.ctl.sbs ≠ 0) (hcount : 15 ≤ x.d.count x.i.ctl.sbs.toNat) :
    s.issueAt x body = s.stallOn x.k (.count x.i.ctl.sbs.toNat) := by
  have hfull : (decide (x.i.ctl.sbs ≠ 0) && decide (x.d.count x.i.ctl.sbs.toNat ≥ 15)) = true := by
    rw [Bool.and_eq_true, decide_eq_true_eq, decide_eq_true_eq]
    exact ⟨hslot, hcount⟩
  simp only [State.issueAt, hearly, hwait, hpoison, hfull, Bool.false_eq_true, if_false, if_true]

theorem issueAt_queue (hcount : x.i.ctl.sbs = 0 ∨ x.d.count x.i.ctl.sbs.toNat < 15) (hqueue : x.i.shape.queue = true)
    (hfull : 64 ≤ x.d.storeQueue.length) : s.issueAt x body = s.stallOn x.k .queue := by
  simp only [State.issueAt, hearly, hwait, hpoison, slot_hasRoom hcount, hqueue, hfull, ge_iff_le, decide_true, Bool.and_true,
    Bool.false_eq_true, if_false, if_true]

end

/-- Settles O12, by the branches of `State.issueAt` in their order. -/
theorem issueStalls : Obligations.IssueStalls := by
  intro i s k d g hfurrow hcur hd hg hearly
  obtain ⟨body, hbody⟩ := exec_issues hfurrow
  rw [hbody, issue_eq_next hcur hd hg]
  exact ⟨fun hwait => congrArg _ (issueAt_unclear hearly hwait),
    fun hwait hpoison hslot hcount => congrArg _ (issueAt_count hearly hwait hpoison hslot hcount),
    fun hwait hpoison hcount hqueue hfull => congrArg _ (issueAt_queue hearly hwait hpoison hcount hqueue hfull)⟩

end Sys2Proof.Proofs
end

section
/-!
PROOFS that a step answers a next state (R38, R67, R69, R123, R257): what a drill issues faults only where its group has no record, a
hart's instruction finds the hart whose turn it is, and no event faults.
-/
namespace Sys2Proof.Proofs
open Sys2Proof.Machine

/-- The outcome is a next state. -/
def Goes (o : Host.Outcome State Fault Refusal) : Prop := ∃ t, o = .next t

theorem goes_next {t : State} : Goes (.next t) := ⟨t, rfl⟩

/-- A drill's turn: a next state, or the fault of a drill whose group has no record. -/
def GoesBut (s : State) (k : Nat) (o : Host.Outcome State Fault Refusal) : Prop :=
  Goes o ∨ o = .fault .noDrill ∧ ∃ d, s.drill? k = some d ∧ s.group? d.gid = none

section
variable {s : State}

theorem goesBut_exec {i : Instr} {k : Nat} {d : Drill} (h : i.isFurrow = true) (hcur : s.cur = some (.drill k))
    (hd : s.drill? k = some d) : GoesBut s k (exec i s) := by
  obtain ⟨body, hbody⟩ := exec_issues h
  rw [hbody]
  cases hg : s.group? d.gid with
  | some g => exact .inl ⟨_, issue_eq_next hcur hd hg⟩
  | none => exact .inr ⟨issue_eq_fault hcur hd hg, d, hd, hg⟩

theorem goesBut_stepDrill {k : Nat} (hcur : s.cur = some (.drill k)) : GoesBut s k (stepDrill s k) := by
  unfold stepDrill
  split
  case h_1 => exact .inl goes_next
  case h_2 d hd =>
    split
    · exact .inl goes_next
    split
    · exact .inl goes_next
    split
    · exact goesBut_exec (furrowWordUnique _ _ ‹_›).1 hcur hd
    · exact .inl goes_next

/-- What every hart instruction goes through answers the hart whose turn it is. -/
theorem goes_hartRun {n : Nat} (hcur : s.cur = some (.hart n)) (rd : BitVec 5) (body : Nat → Hart → HartEff) :
    Goes (hartRun s rd body) := by
  rw [hartRun, hcur]
  dsimp only
  split <;> exact goes_next

theorem goes_hart {n : Nat} (hcur : s.cur = some (.hart n)) {i : Instr} (h : isHart i = true) : Goes (exec i s) := by
  cases i
  all_goals first | exact absurd h Bool.false_ne_true | clear h
  all_goals
    simp only [exec, execSvlStkgrant, execCtxBuild, execCtxActivate, execCtxPreempt, execCtxKill, execCtxRelease, execCtxBudget,
      execCtxPriority, execCtxRestart, execSvlSysret, execSvlFqdone, execSvlFqkill, execSvlQpost, execSvlQfence, execSvlEvsig,
      execSvlEvclr, execSvlEvwait, ctxctl, fqOperands, evHart, hartPriv]
  all_goals exact goes_hartRun hcur _ _

theorem isHart_of_decodeHart {op : Nat} {w : BitVec 32} {i : Instr} (h : decodeHart op w = .ok i) : isHart i = true := by
  unfold decodeHart at h
  dsimp only at h
  repeat' split at h
  all_goals cases h
  all_goals rfl

theorem goes_hartBase (n : Nat) (w : BitVec 32) : Goes (hartBase s n w) := by
  unfold hartBase
  dsimp only
  split <;> exact goes_next

theorem goes_stepHart {n : Nat} (hcur : s.cur = some (.hart n)) : Goes (stepHart s n) := by
  unfold stepHart
  dsimp only
  split
  · exact goes_next
  split
  · exact goes_next
  split
  · exact goes_next
  · exact goes_next
  split
  · exact goes_hart hcur (isHart_of_decodeHart ‹_›)
  · exact goes_hartBase n _

/-- Every branch of every event's definition is a next state. -/
theorem goes_event {i : Instr} (h : isEvent i = true) : Goes (exec i s) := by
  cases i
  all_goals first | exact absurd h Bool.false_ne_true | clear h
  all_goals
    simp only [exec,
      execAstAbort, execAstCompletion, execAstFaultStop, execAtomPerform, execBedZeroSclCompletion, execBoundaryTrap,
      execBudgetExhausted, execCedeAccept, execChipletIsolation, execCollectiveAssembly, execContextRetire, execCopyAbort,
      execCopyCompletion, execCopyFaultStop, execDirectoryRequest, execFaultRecordPost, execFetchBufferRequest, execFetchFault,
      execGroupExitSequence, execGroupPlacement, execGroupRecordWrite, execGroupRestore, execHandoverDrainStep,
      execHandoverPortOpen, execHeartbeatTimeout, execIcacheFillDone, execIcflushDone, execInboundRemoteAccess, execKcbRead,
      execLinkLaneFailure, execLinkTrainingDone, execLinkUncorrectableError, execLongWaitMet, execMmaCompletion, execMmaStart,
      execOverCurrentAlarm, execOverrun, execPacketCheck, execPlotCommandDequeue, execPlotEccError, execPostedBedWriteDone,
      execPreempt, execQueueDrainDone, execRegisterWrite, execRemoteResponse, execResultLanding, execShootdownDone,
      execStackZeroingDone, execStallEnd, execStationDequeue, execStoreQueueDeparture, execSwathArbitration, execSyscallQueuePost,
      execTaskPost, execTsensRefresh, execUserInterruptDelivery, execUvSramError, execVariableResultLanding, execWaitiDeadline,
      execWarmReset]
  all_goals repeat' split
  all_goals exact goes_next

theorem afterAct_of_goes {o : Host.Outcome State Fault Refusal} (h : Goes o) : ∃ t, afterAct o = .next t := by
  obtain ⟨t, rfl⟩ := h
  exact ⟨t.after, rfl⟩

end

theorem cur_begun (s : State) : s.begun.cur = some s.nextTurn.1.act := rfl

/-- Settles O5, by whose turn it is: a drill's (`goesBut_stepDrill`), a hart's (`goes_stepHart`) or an event's (`goes_event`). -/
theorem stepAnswers : Obligations.StepAnswers := by
  intro s
  have hcur := cur_begun s
  unfold step turn
  generalize s.nextTurn.1.act = a at hcur
  cases a with
  | drill k =>
    rcases goesBut_stepDrill hcur with hgo | ⟨hfault, d, hd, hg⟩
    · exact .inl (afterAct_of_goes hgo)
    · exact .inr ⟨congrArg afterAct hfault, k, d, hcur, hd, hg⟩
  | hart n => exact .inl (afterAct_of_goes (goes_stepHart hcur))
  | event i =>
    refine .inl (afterAct_of_goes ?_)
    simp only [act]
    split
    · exact goes_event (Bool.and_eq_true_iff.1 ‹_›).1
    · exact goes_next

end Sys2Proof.Proofs
end

section
/-!
PROOFS about what a landing writes (R27, R29, R62, R74, R76): the register by its form, the latch while the swath is open, and FLG.
-/
namespace Sys2Proof.Proofs
open Sys2Proof.Machine

/-! ### What each write leaves to be read -/

theorem lane_hiHalf (v : DLanes) {i : Nat} (hi : i < 32) : lane (hiHalf v) i = (lane v i).extractLsb' 32 32 := Laws.lane_lanesOf _ _ hi

theorem inMask_not (m : Mask) {i : Nat} (hi : i < 32) : inMask (~~~m) i = !inMask m i := by
  simp [inMask, hi]

theorem inMask_or (m n : Mask) (i : Nat) : inMask (m ||| n) i = (inMask m i || inMask n i) := BitVec.getLsbD_or

theorem inMask_all {i : Nat} (hi : i < 32) : inMask 0xFFFFFFFF i = true :=
  (by decide : ∀ i < 32, inMask 0xFFFFFFFF i = true) i hi

theorem inMask_putK (d : Drill) (r : Nat) (m x : Mask) {j : Nat} (hj : j < 32) :
    inMask ((d.putK r m x).kAt r) j = if r = 0 then true else if inMask m j then inMask x j else inMask (d.kAt r) j := by
  by_cases hr : r = 0
  · subst hr
    exact inMask_all hj
  · have hput : (d.putK r m x).kAt r = (x &&& m) ||| (d.kAt r &&& ~~~m) := by simp [Drill.putK, Drill.kAt, tblGet, hr]
    rw [hput, if_neg hr, inMask_or, inMask_and, inMask_and, inMask_not m hj]
    cases inMask m j <;> simp

theorem latch_putLatch (d : Drill) (l : Nat) (m : Mask) (x : Lanes) : (d.putLatch l m x).latch l = merge m x (d.latch l) := by
  simp [Drill.putLatch, Drill.latch, tblGet]

theorem flgAt_orFlags (d : Drill) (fl : List (Nat × BitVec 5)) (j : Nat) :
    (d.orFlags fl).flgAt j = (fl.filter (·.1 = j)).foldl (fun f p => f ||| p.2) (d.flgAt j) := by
  induction fl generalizing d with
  | nil => rfl
  | cons p fl ih =>
    have hcons : d.orFlags (p :: fl) = (d.orFlags [p]).orFlags fl := rfl
    rw [hcons, ih]
    by_cases hp : p.1 = j
    · simp [hp, Drill.orFlags, Drill.flgAt, tblGet]
    · simp [hp, Drill.orFlags, Drill.flgAt, tblGet]

/-! ### The register write of a landing -/

section
variable {d : Drill} {y : Landing} {r : Nat}

theorem v_landReg_vec {n : Nat} (h : y.into = .vec r n) : (d.landReg y).v = (d.putVs r y.mask (words n y.val)).v := by
  unfold Drill.landReg
  rw [h]
  dsimp only
  split <;> rfl

theorem vAt_landReg_vec1 (h : y.into = .vec r 1) : (d.landReg y).vAt r = merge y.mask (loHalf y.val) (d.vAt r) := by
  have hv : (d.landReg y).vAt r = (d.putV r y.mask (loHalf y.val)).vAt r := congrArg (tblGet · r (splat 0)) (v_landReg_vec h)
  rw [hv, Laws.vAt_putV, if_pos rfl]

theorem vAt_landReg_vec2 (h : y.into = .vec r 2) :
    (d.landReg y).vAt r = merge y.mask (loHalf y.val) (d.vAt r) ∧
    (d.landReg y).vAt (r + 1) = merge y.mask (hiHalf y.val) (d.vAt (r + 1)) := by
  have hv (q : Nat) : (d.landReg y).vAt q = ((d.putV r y.mask (loHalf y.val)).putV (r + 1) y.mask (hiHalf y.val)).vAt q :=
    congrArg (tblGet · q (splat 0)) (v_landReg_vec h)
  constructor
  · rw [hv, Laws.vAt_putV, if_neg (by omega), Laws.vAt_putV, if_pos rfl]
  · rw [hv, Laws.vAt_putV, if_pos rfl, Laws.vAt_putV, if_neg (by omega)]

theorem sAt_landReg_uni1 (h : y.into = .uni r 1) :
    (d.landReg y).sAt r = if y.mask = 0 then d.sAt r else (lane y.val 0).setWidth 32 := by
  unfold Drill.landReg
  rw [h]
  dsimp only
  split
  · rfl
  · rw [if_neg (by decide), Laws.sAt_putS, if_pos rfl, lane_loHalf _ (by decide)]

theorem sAt_landReg_uni2 (h : y.into = .uni r 2) (hm : y.mask ≠ 0) :
    (d.landReg y).sAt r = (lane y.val 0).setWidth 32 ∧ (d.landReg y).sAt (r + 1) = (lane y.val 0).extractLsb' 32 32 := by
  unfold Drill.landReg
  rw [h]
  dsimp only
  rw [if_neg hm, if_pos rfl, ← lane_loHalf _ (by decide), ← lane_hiHalf _ (by decide)]
  constructor
  · rw [Laws.sAt_putS, if_neg (by omega), Laws.sAt_putS, if_pos rfl]
  · rw [Laws.sAt_putS, if_pos rfl]

theorem inMask_landReg_pred (h : y.into = .pred r) {j : Nat} (hj : j < 32) : inMask ((d.landReg y).kAt r) j =
    if r = 0 then true else if inMask y.mask j then (lane y.val j).getLsbD 0 else inMask (d.kAt r) j := by
  unfold Drill.landReg
  rw [h]
  dsimp only
  rw [inMask_putK _ _ _ _ hj, Laws.inMask_maskOf _ _ hj]

/-- A landing's register write keeps the latches, FLG and the swath. -/
theorem bare_landReg (d : Drill) (y : Landing) : Laws.bare (if y.noReg then d else d.landReg y) = Laws.bare d := by
  split
  · rfl
  · exact (Laws.landReg_spec d y (Bool.not_eq_true _ ▸ ‹_›)).1

theorem latch_landLatch {l : Nat} (hl : y.latch = some l) (hn : y.into.count ≠ 2) :
    (d.landLatch y).latch l = if y.swath = d.swath then merge y.mask (loHalf y.val) (d.latch l) else d.latch l := by
  unfold Drill.landLatch
  rw [hl]
  dsimp only
  by_cases hs : y.swath = d.swath
  · rw [if_neg (not_not.2 hs), if_neg hn, latch_putLatch, if_pos hs]
  · rw [if_pos hs, if_neg hs]

end

/-! ### One landing -/

/-- A drill after a landing that writes no system register, before its instruction completes. -/
def afterLanding (d : Drill) (y : Landing) : Drill := ((if y.noReg then d else d.landReg y).landLatch y).orFlags y.flags

section
variable (d : Drill) (y : Landing)

/-- The latch and FLG apart, a landing writes the register that it names, or none. -/
theorem dry_afterLanding : Laws.dry (afterLanding d y) = Laws.dry (if y.noReg then d else d.landReg y) :=
  (Laws.dry_landLatch _ y).1

theorem v_afterLanding : (afterLanding d y).v = (if y.noReg then d else d.landReg y).v :=
  (congrArg Drill.v (dry_afterLanding d y) :)

theorem s_afterLanding : (afterLanding d y).s = (if y.noReg then d else d.landReg y).s :=
  (congrArg Drill.s (dry_afterLanding d y) :)

theorem k_afterLanding : (afterLanding d y).k = (if y.noReg then d else d.landReg y).k :=
  (congrArg Drill.k (dry_afterLanding d y) :)

variable {d y}

theorem lane_latch_afterLanding {l j : Nat} (hj : j < 32) (hl : y.latch = some l) (hn : y.into.count ≠ 2) :
    lane ((afterLanding d y).latch l) j =
      if y.swath = d.swath ∧ inMask y.mask j = true then (lane y.val j).setWidth 32 else lane (d.latch l) j := by
  have hbare := bare_landReg d y
  have hswath : (if y.noReg then d else d.landReg y).swath = d.swath := (congrArg Drill.swath hbare :)
  have hlatches : (if y.noReg then d else d.landReg y).latches = d.latches := (congrArg Drill.latches hbare :)
  have hlatch : (afterLanding d y).latch l = if y.swath = d.swath then merge y.mask (loHalf y.val) (d.latch l) else d.latch l := by
    have hread := latch_landLatch (d := if y.noReg then d else d.landReg y) hl hn
    rw [hswath] at hread
    simp only [Drill.latch, hlatches] at hread
    exact hread
  rw [hlatch, ite_and]
  split
  · rw [Laws.lane_merge _ _ _ _ hj, lane_loHalf _ hj]
  · rfl

theorem flgAt_afterLanding (j : Nat) :
    (afterLanding d y).flgAt j = (y.flags.filter (·.1 = j)).foldl (fun f p => f ||| p.2) (d.flgAt j) := by
  have hflg : ((if y.noReg then d else d.landReg y).landLatch y).flg = d.flg :=
    (Laws.dry_landLatch _ y).2.trans (congrArg Drill.flg (bare_landReg d y) :)
  rw [afterLanding, flgAt_orFlags, Drill.flgAt, hflg]
  rfl

end

theorem drill_landOne {s : State} {k : Nat} {d : Drill} {y : Landing} (hd : s.drill? k = some d) (hy : writesSys y = false) :
    ∃ d', (s.landOne k y).drill? k = some d' ∧ Laws.inner d' = Laws.inner (afterLanding d y) := by
  have hland : s.landOne k y = (s.modDrill k (afterLanding · y)).complete k y.slot y.tk1 := by
    unfold State.landOne
    split
    · simp [writesSys, ‹y.into = _›] at hy
    · rfl
  have hmod : (s.modDrill k (afterLanding · y)).drill? k = some (afterLanding d y) := by simp [hd]
  obtain ⟨d', hd', hinner, -⟩ := Laws.complete_spec hmod y.slot y.tk1
  exact ⟨d', hland ▸ hd', hinner⟩

/-- A single landing that is due is what an advance performs. -/
theorem advance_single {s : State} {k : Nat} {d : Drill} {y : Landing} (hd : s.drill? k = some d) (hl : d.landings = [y])
    (hdue : y.due ≤ d.n + 1) : s.advance k = (s.setDrill k { d with n := d.n + 1, landings := [] }).landOne k y := by
  have hlands : [y].filter (fun x => decide (x.due ≤ d.n + 1)) = [y] := by simp [hdue]
  have hstays : [y].filter (fun x => decide (d.n + 1 < x.due)) = [] := by simp [hdue]
  unfold State.advance
  rw [hd]
  dsimp only
  rw [hl, hlands, hstays]
  cases hw : isFlagWrite y <;> simp [hw]

/-- Settles O26: the advance performs the one landing (`advance_single`), and each clause reads one write of `afterLanding`. -/
theorem landingWrites : Obligations.LandingWrites := by
  intro s k d y hd hl hdue
  obtain ⟨d', hd', hstill, -⟩ := Laws.advance_spec hd
  have hn : d'.n = d.n + 1 := (congrArg Drill.n hstill :)
  have hleft : d'.landings = [] := by
    have hrest : d'.landings = d.landings.filter fun x => decide (d.n + 1 < x.due) := (congrArg Drill.landings hstill :)
    rw [hrest, hl]
    simp [hdue]
  let d0 : Drill := { d with n := d.n + 1, landings := [] }
  have hland (hy : writesSys y = false) : Laws.inner d' = Laws.inner (afterLanding d0 y) := by
    obtain ⟨e, he, hinner⟩ := drill_landOne (y := y) (show (s.setDrill k d0).drill? k = some d0 by simp) hy
    rw [← advance_single hd hl hdue, hd'] at he
    exact Option.some.inj he ▸ hinner
  have hsys {into : LandTo} (h : y.into = into) (hnot : ∀ n b, into ≠ .sys n b) : writesSys y = false := by
    unfold writesSys
    split
    · exact absurd (h ▸ ‹y.into = _›) (hnot _ _)
    · rfl
  have hv (hy : writesSys y = false) (hw : y.noReg = false) (q : Nat) : d'.vAt q = (d0.landReg y).vAt q := by
    rw [Drill.vAt, Laws.inner_v (hland hy), v_afterLanding, hw]
    rfl
  have hs (hy : writesSys y = false) (hw : y.noReg = false) (q : Nat) : d'.sAt q = (d0.landReg y).sAt q := by
    rw [Drill.sAt, Laws.inner_s (hland hy), s_afterLanding, hw]
    rfl
  refine ⟨d', hd', hn, hleft, ?_, ?_, ?_, ?_, ?_, ?_, ?_, ?_⟩
  · intro r j hj hinto hw
    rw [hv (hsys hinto nofun) hw, vAt_landReg_vec1 hinto, Laws.lane_merge _ _ _ _ hj, lane_loHalf _ hj]
    rfl
  · intro r j hj hinto hw hm
    obtain ⟨hlo, hhi⟩ := vAt_landReg_vec2 (d := d0) hinto
    rw [hv (hsys hinto nofun) hw, hv (hsys hinto nofun) hw, hlo, hhi, Laws.lane_merge _ _ _ _ hj, Laws.lane_merge _ _ _ _ hj,
      if_pos hm, if_pos hm, lane_loHalf _ hj, lane_hiHalf _ hj]
    exact ⟨rfl, rfl⟩
  · intro r hinto hw
    rw [hs (hsys hinto nofun) hw, sAt_landReg_uni1 hinto]
    rfl
  · intro r hinto hw hm
    rw [hs (hsys hinto nofun) hw, hs (hsys hinto nofun) hw]
    exact sAt_landReg_uni2 hinto hm
  · intro r j hj hinto hw
    have hk : d'.kAt r = (d0.landReg y).kAt r := by
      rw [Drill.kAt, Laws.inner_k (hland (hsys hinto nofun)), k_afterLanding, hw]
      rfl
    rw [hk, inMask_landReg_pred hinto hj]
    rfl
  · intro hw hy
    rw [Laws.inner_v (hland hy), Laws.inner_s (hland hy), Laws.inner_k (hland hy), v_afterLanding, s_afterLanding, k_afterLanding, hw]
    exact ⟨rfl, rfl, rfl⟩
  · intro l j hj hlatch hy hcount
    have hlat : d'.latch l = (afterLanding d0 y).latch l :=
      (congrArg (Drill.latch · l) (hland hy) :)
    rw [hlat, lane_latch_afterLanding hj hlatch hcount]
    rfl
  · intro j hy
    have hflg : d'.flgAt j = (afterLanding d0 y).flgAt j := (congrArg (Drill.flgAt · j) (hland hy) :)
    rw [hflg, flgAt_afterLanding]
    rfl

end Sys2Proof.Proofs
end

section
/-!
PROOFS about transfers of control and the mask stack (R36, R127-R134). The first part says what an instruction that fires answers when
its body traps, changes its drill's own record or pends one landing; the second reads the masks; the last settles the statement row by
row.
-/
namespace Sys2Proof.Proofs
open Sys2Proof.Machine

/-! ### What an instruction that fires answers -/

section
variable {i : Instr} {s : State} {k : Nat} {d : Drill} {g : Group} {body : Issue → State → Eff}

theorem issueAt_fires (F : Fires i s k d g) (hl : i.shape.long = false) :
    s.issueAt { k := k, d := d, g := g, i := i, act := activeLanes d i } body =
      (s.armed (comes i k d g)).actTokens { k := k, d := d, g := g, i := i, act := activeLanes d i } body := by
  obtain ⟨-, ⟨hearly, hwait, hpoison, -⟩, ⟨hslot, hqueue, hstores⟩, -⟩ := F
  have hspace : (i.shape.queue && decide (d.storeQueue.length ≥ 64)) = false := by
    cases hq : i.shape.queue
    · rfl
    · simp [Nat.not_le.2 (hqueue hq)]
  have hempty : (afterStores i && decide (d.storeQueue ≠ [])) = false := by
    cases ha : afterStores i
    · rfl
    · simp [hstores ha]
  simp only [State.issueAt, hearly, hwait, hpoison, slot_hasRoom hslot, hspace, hempty, hl, Bool.false_eq_true, if_false]
  rfl

/-- AN INSTRUCTION THAT FIRES ACTS (R39): its body, in what the TK0 actions leave. -/
theorem issue_acts (F : Fires i s k d g) (hl : i.shape.long = false) : issue i s body =
    .next ((actsIn i s k d g).act (sees i k d g) (i.ctl.tk0 ≠ 0 && !i.shape.command) body) := by
  rw [issue_eq_next F.1.1 F.1.2.1 F.1.2.2]
  refine congrArg _ ((issueAt_fires F hl).trans ?_)
  obtain ⟨-, -, -, htokens⟩ := F
  by_cases htk : takesTk0 i d
  · have hacts : actsIn i s k d g = (s.armed (comes i k d g)).takeTk0 (comes i k d g) := if_pos htk
    have hsees : sees i k d g = { comes i k d g with g := { g with tok := (tk0Tokens g i.ctl.tk0).1 } } := if_pos htk
    obtain ⟨hready, hqueued, hovf⟩ := htokens htk
    obtain ⟨htk0, hcommand, hskip⟩ := htk
    simp only [State.actTokens, Laws.tokenQueued_armed, htk0, hcommand, hskip, hready, hqueued, hovf, decide_false, Bool.or_false,
      Bool.not_true, Bool.false_eq_true, if_false, hacts, hsees, decide_eq_true htk0, Bool.not_false, Bool.and_true]
    rfl
  · have hacts : actsIn i s k d g = s.armed (comes i k d g) := if_neg htk
    have hsees : sees i k d g = comes i k d g := if_neg htk
    rw [hacts, hsees]
    by_cases htk0 : i.ctl.tk0 = 0
    · simp [State.actTokens, comes, htk0]
    cases hcommand : i.shape.command with
    | true => simp [State.actTokens, comes, hcommand]
    | false =>
      have hskip : d.skipTk0 = true := by
        by_contra hs
        exact htk ⟨htk0, hcommand, Bool.eq_false_iff.2 hs⟩
      simp only [State.actTokens, htk0, hcommand, hskip, decide_false, Bool.or_false, Bool.false_eq_true, if_false, if_true,
        decide_eq_true (show i.ctl.tk0 ≠ 0 from htk0), Bool.not_false, Bool.and_true]
      rfl

theorem readsMarked_sees (F : Fires i s k d g) :
    readsMarked (sees i k d g).d (sees i k d g).g (sees i k d g).i = false := by
  obtain ⟨-, ⟨-, -, -, hmarked⟩, -⟩ := F
  unfold sees
  split <;> exact hmarked

end

theorem needLand_issued (d : Drill) (c : Ctl) (lands : List (Nat × Landing)) (jump : Option DWord) :
    (d.issued c lands jump).needLand = d.needLand := by
  have hslot : (d.setSlot c.sbs.toNat).needLand = d.needLand := by
    unfold Drill.setSlot
    split <;> rfl
  have hstep (e : Drill) (last : Bool) (next : DWord) : (e.stepOn last next).needLand = e.needLand := by
    unfold Drill.stepOn
    dsimp only
    split <;> rfl
  unfold Drill.issued
  dsimp only
  rw [hstep]
  split <;> exact hslot

/-- What the target of a transfer still has to meet is as the body left it (R127). -/
theorem needLand_finish {k : Nat} {i : Instr} {fx : Fx} {d d' : Drill} (hd : fx.s.drill? k = some d) (ha : fx.after = id)
    (hh : fx.hold = false) (hd' : (fx.s.finish k i fx).drill? k = some d') : d'.needLand = d.needLand := by
  have hmod : (fx.s.modDrill k fun d => d.issued i.ctl (fx.lands ++ ownLanding i fx.attached) fx.jump).drill? k =
      some (d.issued i.ctl (fx.lands ++ ownLanding i fx.attached) fx.jump) := by simp [hd]
  obtain ⟨e, he, hstill, -⟩ := Laws.advance_spec hmod
  simp only [State.finish, ha, hh, id, if_false, Bool.false_eq_true] at hd'
  rw [hd'] at he
  obtain rfl := Option.some.inj he
  exact (congrArg Drill.needLand hstill :).trans (needLand_issued d i.ctl _ _)

/-- A drill after a body that changes no more than its own record: masks, outstanding work, and what a target has to meet, as `f` leaves
them. -/
structure Updated (f : Drill → Drill) (x : Issue) (next : DWord) (s t : State) (d' : Drill) : Prop where
  issued : Issued x t d' next
  kept : Kept x s t d'
  changed : ∃ p, d'.cm = (f { x.d with needLand := p }).cm ∧ d'.maskStack = (f { x.d with needLand := p }).maskStack ∧
    d'.ops = (f { x.d with needLand := p }).ops ∧ d'.storeQueue = (f { x.d with needLand := p }).storeQueue ∧
    d'.needLand = (f { x.d with needLand := p }).needLand

section
variable {i : Instr} {body : Issue → State → Eff} (hexec : ∀ s, exec i s = issue i s body) (hl : i.shape.long = false)
variable {pre : Issue → State → Prop}
include hexec hl

/-- An instruction traps where its body does (R38, R39). -/
theorem trapsWhen_of_body {trap : Issue → State → TrapReq} (hbody : ∀ x s, pre x s → body x s = .trap (trap x s))
    (hcode : ∀ x s, (trap x s).code ≠ 0) : TrapsWhen i pre trap := by
  intro s k d g F hpre
  rw [hexec, issue_acts F hl, State.act, readsMarked_sees F, hbody _ _ hpre]
  simp [hcode]

/-- An instruction whose body answers no more than a transfer goes on. -/
theorem completes_jump {next : Issue → DWord} {jump : Issue → Option DWord}
    (hbody : ∀ x s, pre x s → body x s = .ok { s := s, jump := jump x })
    (hnext : ∀ x s, pre x s → (jump x).getD (x.d.pc + 8) = next x) : Completes i pre (GoesOn next) := by
  intro s k d g F hpre
  obtain ⟨d1, hmodest, hcm, hstack, hops, hqueue⟩ :=
    Laws.modest_same F (fx := { s := actsIn i s k d g, jump := jump (sees i k d g) }) rfl (by simp) rfl rfl
  obtain ⟨t, d', hgo, hissued, hkept, ⟨hcm', hstack', hops', hqueue'⟩, -⟩ := Laws.completes hl F (hbody _ _ hpre) hmodest
  have hpc := hnext _ _ hpre
  simp only [Laws.sees_d] at hpc
  rw [hpc] at hissued
  refine ⟨t, (hexec s).trans hgo, d', hissued, hkept, ?_⟩
  simp only [Plain, Laws.sees_d]
  exact ⟨hcm'.trans hcm, hstack'.trans hstack, hops'.trans hops, hqueue'.trans hqueue⟩

/-- An instruction whose body pends one landing, four counts after issue, and may transfer (R128, R132). -/
theorem completes_landing {next : Issue → DWord} {jump : Issue → Option DWord} {land : Issue → Landing}
    (hbody : ∀ x s, x.i = i → pre x s → body x s = .ok { s := s, jump := jump x, attached := true, lands := [(4, land x)] })
    (hnext : ∀ x s, pre x s → (jump x).getD (x.d.pc + 8) = next x) :
    Completes i pre fun x s t => ∃ d', Issued x t d' (next x) ∧ Kept x s t d' ∧ Plain x d' ∧
      { land x with due := x.d.n + 4, swath := x.d.swath } ∈ d'.landings := by
  intro s k d g F hpre
  obtain ⟨d1, hmodest, hcm, hstack, hops, hqueue⟩ := Laws.modest_same F
    (fx := { s := actsIn i s k d g, jump := jump (sees i k d g), attached := true, lands := [(4, land (sees i k d g))] })
    rfl (by simp) rfl rfl
  obtain ⟨t, d', hgo, hissued, hkept, ⟨hcm', hstack', hops', hqueue'⟩, -, -, hlands⟩ :=
    Laws.completes hl F (hbody _ _ (Laws.sees_i i k d g) hpre) hmodest
  have hpc := hnext _ _ hpre
  simp only [Laws.sees_d] at hpc
  rw [hpc] at hissued
  refine ⟨t, (hexec s).trans hgo, d', hissued, hkept, ?_, ?_⟩
  · simp only [Plain, Laws.sees_d]
    exact ⟨hcm'.trans hcm, hstack'.trans hstack, hops'.trans hops, hqueue'.trans hqueue⟩
  · simp only [Laws.sees_d]
    exact hlands _ (List.mem_singleton.2 rfl)

/-- An instruction whose body changes the drill's own record, within what `base` leaves open, and may transfer. -/
theorem completes_update {next : Issue → DWord} {jump : Issue → Option DWord} {f : Issue → Drill → Drill}
    (hbody : ∀ x s, pre x s → body x s = .ok { s := x.update s (f x), jump := jump x })
    (hnext : ∀ x s, pre x s → (jump x).getD (x.d.pc + 8) = next x) (hbase : ∀ x e, Laws.base (f x e) = Laws.base e) :
    Completes i pre fun x s t => ∃ d', Updated (f x) x (next x) s t d' := by
  intro s k d g F hpre
  obtain ⟨p, hd⟩ := Laws.actsIn_drill (i := i) g F.1.2.1
  have hd1 : ((sees i k d g).update (actsIn i s k d g) (f (sees i k d g))).drill? k =
      some (f (sees i k d g) { d with needLand := p }) := by simp [Issue.update, hd]
  have hmodest : Laws.Modest (sees i k d g) (actsIn i s k d g)
      { s := (sees i k d g).update (actsIn i s k d g) (f (sees i k d g)), jump := jump (sees i k d g) }
      (f (sees i k d g) { d with needLand := p }) := by
    refine ⟨by simpa using hd1, by rw [hbase, Laws.sees_d]; rfl, rfl, fun j hj => ?_, fun _ => rfl, fun _ => rfl,
      by simp, rfl, rfl⟩
    rw [Laws.sees_k] at hj
    simp [Issue.update, Ne.symm hj]
  obtain ⟨t, d', hgo, hissued, hkept, ⟨hcm, hstack, hops, hqueue⟩, -⟩ := Laws.completes hl F (hbody _ _ hpre) hmodest
  have hfinish := (Laws.issue_ok F hl (hbody _ _ hpre)).symm.trans hgo
  have hneed : d'.needLand = (f (sees i k d g) { d with needLand := p }).needLand := by
    refine needLand_finish (fx := { s := (sees i k d g).update (actsIn i s k d g) (f (sees i k d g)), jump := jump (sees i k d g) })
      hd1 rfl rfl ((congrArg (State.drill? · k) (Host.Outcome.next.inj hfinish)).trans ?_)
    simpa using hissued.drill
  have hpc := hnext _ _ hpre
  simp only [Laws.sees_d] at hpc
  rw [hpc] at hissued
  refine ⟨t, (hexec s).trans hgo, d', hissued, hkept, p, ?_⟩
  rw [Laws.sees_d]
  exact ⟨hcm, hstack, hops, hqueue, hneed⟩

end

end Sys2Proof.Proofs
end

section
/-!
PROOFS about transfers of control and the mask stack, second part (R27, R36, R93, R127-R134): the lanes that decide, and the statement
row by row.
-/
namespace Sys2Proof.Proofs
open Sys2Proof.Machine

/-! ### Masks by their lanes -/

theorem mask_ext {m n : Mask} (h : ∀ l < 32, inMask m l = inMask n l) : m = n := BitVec.eq_of_getLsbD_eq h

theorem mask_eq_zero_iff {m : Mask} : m = 0 ↔ ∀ l < 32, inMask m l = false := by
  constructor
  · rintro rfl l -
    exact BitVec.getLsbD_zero
  · intro h
    exact mask_ext fun l hl => (h l hl).trans BitVec.getLsbD_zero.symm

theorem mask_ne_zero_iff {m : Mask} : m ≠ 0 ↔ ∃ l < 32, inMask m l = true := by
  rw [ne_eq, mask_eq_zero_iff]
  simp

theorem inMask_counting (d : Drill) (g : Group) (m : Mask) {l : Nat} (hl : l < 32) :
    inMask (d.counting g m) l = (inMask m l && decide (32 * d.idx + l < g.g)) := by
  rw [Drill.counting, inMask_and, realLanes, Laws.inMask_maskOf _ _ hl]

theorem inMask_guardMask (d : Drill) (c : Ctl) {l : Nat} (hl : l < 32) :
    inMask (guardMask d c) l = (c.gp = 0 || inMask (d.kAt c.gp.toNat) l != c.gn) := by
  unfold guardMask
  by_cases hgp : c.gp = 0
  · rw [if_pos hgp, inMask_all hl, decide_eq_true hgp, Bool.true_or]
  · rw [if_neg hgp, decide_eq_false hgp, Bool.false_or]
    cases hgn : c.gn
    · simp
    · simp [inMask_not _ hl]

theorem lowestLane_eq_none {m : Mask} : lowestLane m = none ↔ m = 0 := by
  rw [mask_eq_zero_iff]
  simp [lowestLane, maskLanes]

theorem lowestLane_eq_some {m : Mask} {l : Nat} :
    lowestLane m = some l ↔ l < 32 ∧ inMask m l = true ∧ ∀ j < l, inMask m j = false := by
  rw [lowestLane, maskLanes, List.head?_filter, List.find?_range_eq_some]
  simp
  tauto

theorem and_seven_ne_zero {t : DWord} : t &&& 7 ≠ 0 ↔ t.toNat % 8 ≠ 0 := by
  rw [ne_eq, ← BitVec.toNat_inj, BitVec.toNat_and]
  exact not_congr (by rw [show (7 : DWord).toNat = 2 ^ 3 - 1 from rfl, Nat.and_two_pow_sub_one_eq_mod]; rfl)

/-- The offset of a transfer counts instructions of eight bytes (R36). -/
theorem target_eq (x : Issue) (ofs : BitVec 19) : x.target ofs = x.d.pc + BitVec.ofInt 64 (8 * ofs.toInt) := by
  rw [Issue.target, BitVec.signExtend, Int.mul_comm, BitVec.ofInt_mul]
  rfl

/-! ### BRA -/

/-- A lane of CM that is no helper lane (R93, R129). -/
def Counts (x : Issue) (l : Nat) : Prop := l < 32 ∧ inMask x.d.cm l = true ∧ 32 * x.d.idx + l < x.g.g

/-- The guard selects lane l. -/
def Chosen (c : Ctl) (x : Issue) (l : Nat) : Prop := inMask (x.d.kAt c.gp.toNat) l ≠ c.gn

section
variable {c : Ctl} {x : Issue}

theorem inMask_counting_iff {l : Nat} : (l < 32 ∧ inMask (x.d.counting x.g x.d.cm) l = true) ↔ Counts x l := by
  refine and_congr_right fun hl => ?_
  rw [inMask_counting _ _ _ hl, Bool.and_eq_true, decide_eq_true_eq]

theorem inMask_guardMask_iff (hgp : c.gp ≠ 0) {l : Nat} (hl : l < 32) : inMask (guardMask x.d c) l = true ↔ Chosen c x l := by
  rw [inMask_guardMask _ _ hl, decide_eq_false hgp, Bool.false_or, bne_iff_ne, Chosen]

theorem counting_ne_zero (h : ∃ l, Counts x l) : x.d.counting x.g x.d.cm ≠ 0 := by
  obtain ⟨l, hl⟩ := h
  exact mask_ne_zero_iff.2 ⟨l, inMask_counting_iff.2 hl⟩

theorem chosen_eq_all_iff (hgp : c.gp ≠ 0) :
    x.d.counting x.g x.d.cm &&& guardMask x.d c = x.d.counting x.g x.d.cm ↔ ∀ l, Counts x l → Chosen c x l := by
  constructor
  · intro h l hl
    obtain ⟨hlt, hin⟩ := inMask_counting_iff.2 hl
    rw [← h, inMask_and, Bool.and_eq_true] at hin
    exact (inMask_guardMask_iff hgp hlt).1 hin.2
  · intro h
    refine mask_ext fun l hl => ?_
    rw [inMask_and]
    cases hin : inMask (x.d.counting x.g x.d.cm) l with
    | false => rfl
    | true => exact (inMask_guardMask_iff hgp hl).2 (h l (inMask_counting_iff.1 ⟨hl, hin⟩))

theorem chosen_eq_zero_iff (hgp : c.gp ≠ 0) :
    x.d.counting x.g x.d.cm &&& guardMask x.d c = 0 ↔ ∀ l, Counts x l → ¬Chosen c x l := by
  rw [mask_eq_zero_iff]
  constructor
  · intro h l hl hchosen
    obtain ⟨hlt, hin⟩ := inMask_counting_iff.2 hl
    have hnot := h l hlt
    rw [inMask_and, hin, (inMask_guardMask_iff hgp hlt).2 hchosen] at hnot
    cases hnot
  · intro h l hl
    rw [inMask_and]
    cases hin : inMask (x.d.counting x.g x.d.cm) l with
    | false => rfl
    | true => exact Bool.eq_false_iff.2 fun hg => h l (inMask_counting_iff.1 ⟨hl, hin⟩) ((inMask_guardMask_iff hgp hl).1 hg)

end

section
variable (ofs : BitVec 19) (c : Ctl)

theorem bra_taken : Completes (.bra ofs c) (fun x _ => c.gp = 0 ∨ ((∃ l, Counts x l) ∧ ∀ l, Counts x l → Chosen c x l))
    (GoesOn fun x => x.target ofs) := by
  refine completes_jump (jump := fun x => some (x.target ofs)) (fun _ => rfl) rfl (fun x s hpre => ?_) (fun _ _ _ => rfl)
  dsimp only
  by_cases hgp : c.gp = 0
  · rw [if_pos hgp]
    rfl
  · obtain ⟨hsome, hall⟩ := hpre.resolve_left hgp
    rw [if_neg hgp, if_neg (counting_ne_zero hsome), if_pos ((chosen_eq_all_iff hgp).2 hall)]
    rfl

theorem bra_not_taken : Completes (.bra ofs c) (fun x _ => c.gp ≠ 0 ∧ ∀ l, Counts x l → ¬Chosen c x l) (GoesOn after) := by
  refine completes_jump (jump := fun _ => none) (fun _ => rfl) rfl (fun x s hpre => ?_) (fun _ _ _ => rfl)
  obtain ⟨hgp, hnone⟩ := hpre
  dsimp only
  rw [if_neg hgp, (chosen_eq_zero_iff hgp).2 hnone]
  by_cases hempty : x.d.counting x.g x.d.cm = 0
  · rw [if_pos hempty]
    rfl
  · rw [if_neg hempty, if_neg (Ne.symm hempty), if_pos rfl]
    rfl

theorem bra_diverges : TrapsWhen (.bra ofs c)
    (fun x _ => c.gp ≠ 0 ∧ (∃ l, Counts x l ∧ Chosen c x l) ∧ ∃ l, Counts x l ∧ ¬Chosen c x l)
    (fun _ _ => { code := 0x07 }) := by
  refine trapsWhen_of_body (fun _ => rfl) rfl (fun x s hpre => ?_) (fun _ _ => by simp)
  obtain ⟨hgp, ⟨l, hl, hchosen⟩, m, hm, hnot⟩ := hpre
  dsimp only
  rw [if_neg hgp, if_neg (counting_ne_zero ⟨l, hl⟩), if_neg fun hall => hnot ((chosen_eq_all_iff hgp).1 hall m hm),
    if_neg fun hnone => (chosen_eq_zero_iff hgp).1 hnone l hl hchosen]

/-! ### BRZ, CALL, RET, LOOP, LAND and NOP -/

theorem brz_taken : Completes (.brz ofs c) (fun x _ => x.d.cm = 0) (GoesOn fun x => x.target ofs) := by
  refine completes_jump (jump := fun x => some (x.target ofs)) (fun _ => rfl) rfl (fun x s hpre => ?_) (fun _ _ _ => rfl)
  rw [decide_eq_true hpre]
  rfl

theorem brz_not_taken : Completes (.brz ofs c) (fun x _ => x.d.cm ≠ 0) (GoesOn after) := by
  refine completes_jump (jump := fun _ => none) (fun _ => rfl) rfl (fun x s hpre => ?_) (fun _ _ _ => rfl)
  rw [decide_eq_false hpre]
  rfl

theorem land_goes : Completes (.land c) Always (GoesOn after) :=
  completes_jump (jump := fun _ => none) (fun _ => rfl) rfl (fun _ _ _ => rfl) (fun _ _ _ => rfl)

theorem nop_goes : Completes (.nop c) Always (GoesOn after) :=
  completes_jump (jump := fun _ => none) (fun _ => rfl) rfl (fun _ _ _ => rfl) (fun _ _ _ => rfl)

end

/-- A jump to an aligned target is taken, to another traps (R127). -/
theorem jumpTo_aligned {s : State} {t : DWord} (h : t.toNat % 8 = 0) : jumpTo s t = .ok { s := s, jump := some t } :=
  if_neg fun ht => and_seven_ne_zero.1 ht h

theorem jumpTo_misaligned {s : State} {t : DWord} (h : t.toNat % 8 ≠ 0) : jumpTo s t = .trap { code := 0x05, tval := t } :=
  if_pos (and_seven_ne_zero.2 h)

section
variable (a : Src) (c : Ctl)

theorem ret_goes : Completes (.ret a c) (fun x _ => (srcU64 x a).toNat % 8 = 0) (GoesOn fun x => srcU64 x a) :=
  completes_jump (jump := fun x => some (srcU64 x a)) (fun _ => rfl) rfl (fun _ _ hpre => jumpTo_aligned hpre) (fun _ _ _ => rfl)

theorem ret_traps : TrapsWhen (.ret a c) (fun x _ => (srcU64 x a).toNat % 8 ≠ 0) (fun x _ => { code := 0x05, tval := srcU64 x a }) :=
  trapsWhen_of_body (fun _ => rfl) rfl (fun _ _ hpre => jumpTo_misaligned hpre) (fun _ _ => by simp)

theorem jmpu_goes : Completes (.jmpu a c) (fun x _ => (srcU64 x a).toNat % 8 = 0) fun x s t =>
    ∃ d', Updated (fun d => { d with needLand := some (srcU64 x a, d.cm) }) x (srcU64 x a) s t d' :=
  completes_update (jump := fun x => some (srcU64 x a)) (fun _ => rfl) rfl (fun _ _ hpre => jumpTo_aligned hpre) (fun _ _ _ => rfl)
    (fun _ _ => rfl)

theorem jmpu_traps : TrapsWhen (.jmpu a c) (fun x _ => (srcU64 x a).toNat % 8 ≠ 0) (fun x _ => { code := 0x05, tval := srcU64 x a }) :=
  trapsWhen_of_body (fun _ => rfl) rfl (fun _ _ hpre => jumpTo_misaligned hpre) (fun _ _ => by simp)

/-! ### JMPV -/

/-- Lane l is the lowest active one. -/
def Leads (x : Issue) (l : Nat) : Prop := l < 32 ∧ inMask x.act l = true ∧ ∀ j < l, inMask x.act j = false

/-- The active lanes whose target is that of lane l. -/
def together (a : Src) (x : Issue) (l : Nat) : Mask := maskOf fun j => inMask x.act j && src64 x a j = src64 x a l

theorem together_eq (x : Issue) (l : Nat) : (x.act &&& maskOf fun j => src64 x a j = src64 x a l) = together a x l := by
  refine mask_ext fun j hj => ?_
  rw [inMask_and, Laws.inMask_maskOf _ _ hj, together, Laws.inMask_maskOf _ _ hj]

theorem jmpv_idle : Completes (.jmpv a c) (fun x _ => x.act = 0) (GoesOn after) := by
  refine completes_jump (jump := fun _ => none) (fun _ => rfl) rfl (fun x s hpre => ?_) (fun _ _ _ => rfl)
  dsimp only
  rw [lowestLane_eq_none.2 hpre]

variable (l : Nat)

theorem jmpv_goes : Completes (.jmpv a c) (fun x _ => Leads x l ∧ (src64 x a l).toNat % 8 = 0 ∧ x.d.maskStack.length < 32) fun x s t =>
    ∃ d', Updated (fun d => { d with
        maskStack := d.cm :: d.maskStack, cm := together a x l, needLand := some (src64 x a l, together a x l) })
      x (src64 x a l) s t d' := by
  refine completes_update (jump := fun x => some (src64 x a l)) (fun _ => rfl) rfl (fun x s hpre => ?_) (fun _ _ _ => rfl)
    (fun _ _ => rfl)
  obtain ⟨hlead, heven, hroom⟩ := hpre
  dsimp only
  rw [lowestLane_eq_some.2 hlead]
  dsimp only
  rw [together_eq, if_neg fun h => and_seven_ne_zero.1 h heven, if_neg (Nat.not_le.2 hroom)]

theorem jmpv_misaligned : TrapsWhen (.jmpv a c) (fun x _ => Leads x l ∧ (src64 x a l).toNat % 8 ≠ 0)
    (fun x _ => { code := 0x05, tval := src64 x a l, mask := some (together a x l) }) := by
  refine trapsWhen_of_body (fun _ => rfl) rfl (fun x s hpre => ?_) (fun _ _ => by simp)
  obtain ⟨hlead, hodd⟩ := hpre
  dsimp only
  rw [lowestLane_eq_some.2 hlead]
  dsimp only
  rw [together_eq, if_pos (and_seven_ne_zero.2 hodd)]

theorem jmpv_full : TrapsWhen (.jmpv a c) (fun x _ => Leads x l ∧ (src64 x a l).toNat % 8 = 0 ∧ 32 ≤ x.d.maskStack.length)
    (fun x _ => { code := 0x08, mask := some (together a x l) }) := by
  refine trapsWhen_of_body (fun _ => rfl) rfl (fun x s hpre => ?_) (fun _ _ => by simp)
  obtain ⟨hlead, heven, hfull⟩ := hpre
  dsimp only
  rw [lowestLane_eq_some.2 hlead]
  dsimp only
  rw [together_eq, if_neg fun h => and_seven_ne_zero.1 h heven, if_pos hfull]

end

/-! ### Results of transfers, and KMASK -/

/-- A uniform result of n registers is pending, four counts after issue, whatever CM holds (R128). -/
def Links (d : BitVec 8) (n : Nat) (val : Issue → DWord) (next : Issue → DWord) (x : Issue) (s t : State) : Prop :=
  ∃ d' y, Issued x t d' (next x) ∧ Kept x s t d' ∧ Plain x d' ∧ y ∈ d'.landings ∧ y.due = x.d.n + 4 ∧ y.into = toUni d n x ∧
    y.mask ≠ 0 ∧ lane y.val 0 = val x ∧ y.noReg = x.i.ctl.nw ∧ y.latch = x.latch ∧ y.slot = x.i.ctl.sbs.toNat ∧
    y.tk1 = x.i.ctl.tk1

theorem completes_mono {i : Instr} {pre : Issue → State → Prop} {post post' : Issue → State → State → Prop}
    (h : Completes i pre post) (hpost : ∀ x s t, post x s t → post' x s t) : Completes i pre post' := by
  intro s k d g F hpre
  obtain ⟨t, hgo, ht⟩ := h s k d g F hpre
  exact ⟨t, hgo, hpost _ _ _ ht⟩

section
variable {i : Instr} {d : BitVec 8} {n : Nat} {val next : Issue → DWord} {pre : Issue → State → Prop}

theorem links_of_landing (h : Completes i pre fun x s t => ∃ d', Issued x t d' (next x) ∧ Kept x s t d' ∧ Plain x d' ∧
      { x.landing (toUni d n x) 0xFFFFFFFF (splat (val x)) [] with due := x.d.n + 4, swath := x.d.swath } ∈ d'.landings) :
    Completes i pre (Links d n val next) := by
  refine completes_mono h fun x s t ⟨d', hissued, hkept, hplain, hland⟩ => ?_
  exact ⟨d', _, hissued, hkept, hplain, hland, rfl, rfl, (by decide : (0xFFFFFFFF : Mask) ≠ 0), Laws.lane_splat _ _ (by decide),
    rfl, rfl, rfl, rfl⟩

end

section
variable (d : BitVec 8) (ofs : BitVec 19) (c : Ctl)

theorem dest_of_call {x : Issue} (h : x.i = .call d ofs c) : x.dest 2 = toUni d 2 x := by
  rw [Issue.dest, h]
  rfl

theorem dest_of_loop {x : Issue} (h : x.i = .loop d ofs c) : x.dest 1 = toUni d 1 x := by
  rw [Issue.dest, h]
  rfl

theorem dest_of_kmask {x : Issue} (h : x.i = .kmask d c) : x.dest 1 = .pred d.toNat := by
  rw [Issue.dest, h]
  rfl

theorem call_links : Completes (.call d ofs c) Always (Links d 2 (fun x => x.d.pc + 8) fun x => x.target ofs) := by
  refine links_of_landing (completes_landing (jump := fun x => some (x.target ofs)) (fun _ => rfl) rfl (fun x s hi _ => ?_)
    (fun _ _ _ => rfl))
  rw [dest_of_call d ofs c hi]

/-- The counter of a LOOP after it. -/
def loopCount (x : Issue) : Word := x.d.sAt (sStore x.d.sysMode d.toNat) - 1

theorem loop_taken : Completes (.loop d ofs c) (fun x _ => loopCount d x ≠ 0)
    (Links d 1 (fun x => (loopCount d x).setWidth 64) fun x => x.target ofs) := by
  refine links_of_landing (completes_landing (jump := fun x => some (x.target ofs)) (fun _ => rfl) rfl (fun x s hi hpre => ?_)
    (fun _ _ _ => rfl))
  have hcount : x.d.sAt (sStore x.d.sysMode d.toNat) - 1 ≠ 0 := hpre
  dsimp only
  rw [dest_of_loop d ofs c hi, if_neg hcount]
  rfl

theorem loop_done : Completes (.loop d ofs c) (fun x _ => loopCount d x = 0)
    (Links d 1 (fun x => (loopCount d x).setWidth 64) after) := by
  refine links_of_landing (completes_landing (jump := fun _ => none) (fun _ => rfl) rfl (fun x s hi hpre => ?_) (fun _ _ _ => rfl))
  have hcount : x.d.sAt (sStore x.d.sysMode d.toNat) - 1 = 0 := hpre
  dsimp only
  rw [dest_of_loop d ofs c hi, if_pos hcount]
  rfl

theorem kmask_lands : Completes (.kmask d c) Always fun x s t => ∃ d' y, Issued x t d' (x.d.pc + 8) ∧ Kept x s t d' ∧ Plain x d' ∧
    y ∈ d'.landings ∧ y.due = x.d.n + 4 ∧ y.into = .pred d.toNat ∧
    (∀ l < 32, inMask y.mask l = true ∧ (lane y.val l).getLsbD 0 = inMask x.d.cm l) ∧
    y.noReg = x.i.ctl.nw ∧ y.slot = x.i.ctl.sbs.toNat ∧ y.tk1 = x.i.ctl.tk1 := by
  have hland := completes_landing (i := .kmask d c) (pre := Always) (next := after) (jump := fun _ => none)
    (land := fun x => x.landing (.pred d.toNat) 0xFFFFFFFF (lanesOf fun l => if inMask x.d.cm l then 1 else 0) [])
    (fun _ => rfl) rfl (fun x s hi _ => by rw [dest_of_kmask d c hi]) (fun _ _ _ => rfl)
  refine completes_mono hland fun x s t ⟨d', hissued, hkept, hplain, hmem⟩ => ?_
  refine ⟨d', _, hissued, hkept, hplain, hmem, rfl, rfl, fun l hl => ⟨inMask_all hl, ?_⟩, rfl, rfl, rfl⟩
  dsimp only [Issue.landing]
  rw [Laws.lane_lanesOf _ _ hl]
  cases inMask x.d.cm l <;> rfl

end

/-! ### The mask stack -/

section
variable (c : Ctl)

theorem guarded_eq (d : Drill) :
    d.cm &&& guardMask d c = maskOf fun l => inMask d.cm l && (c.gp = 0 || inMask (d.kAt c.gp.toNat) l != c.gn) := by
  refine mask_ext fun l hl => ?_
  rw [inMask_and, inMask_guardMask _ _ hl, Laws.inMask_maskOf _ _ hl]

theorem mpush_goes : Completes (.mpush c) (fun x _ => x.d.maskStack.length < 32) fun x s t =>
    ∃ d', Updated (fun d => { d with maskStack := d.cm :: d.maskStack, cm := d.cm &&& guardMask d c }) x (x.d.pc + 8) s t d' :=
  completes_update (jump := fun _ => none) (fun _ => rfl) rfl (fun _ _ hpre => if_neg (Nat.not_le.2 hpre)) (fun _ _ _ => rfl)
    (fun _ _ => rfl)

theorem mpush_full : TrapsWhen (.mpush c) (fun x _ => 32 ≤ x.d.maskStack.length) (fun _ _ => { code := 0x08 }) :=
  trapsWhen_of_body (fun _ => rfl) rfl (fun _ _ hpre => if_pos hpre) (fun _ _ => by simp)

theorem minv_goes : Completes (.minv c) (fun x _ => x.d.maskStack ≠ []) fun x s t =>
    ∃ d', Updated (fun d => { d with cm := x.d.maskStack.headD 0 &&& ~~~d.cm }) x (x.d.pc + 8) s t d' := by
  refine completes_update (jump := fun _ => none) (fun _ => rfl) rfl (fun x s hpre => ?_) (fun _ _ _ => rfl) (fun _ _ => rfl)
  obtain ⟨top, rest, hstack⟩ := List.exists_cons_of_ne_nil hpre
  simp only [hstack]
  rfl

theorem minv_empty : TrapsWhen (.minv c) (fun x _ => x.d.maskStack = []) (fun _ _ => { code := 0x09 }) :=
  trapsWhen_of_body (fun _ => rfl) rfl (fun _ _ hpre => by simp only [hpre]) (fun _ _ => by simp)

theorem mpop_goes : Completes (.mpop c) (fun x _ => x.d.maskStack ≠ []) fun x s t =>
    ∃ d', Updated (fun d => { d with maskStack := x.d.maskStack.tail, cm := x.d.maskStack.headD 0 }) x (x.d.pc + 8) s t d' := by
  refine completes_update (jump := fun _ => none) (fun _ => rfl) rfl (fun x s hpre => ?_) (fun _ _ _ => rfl) (fun _ _ => rfl)
  obtain ⟨top, rest, hstack⟩ := List.exists_cons_of_ne_nil hpre
  simp only [hstack]
  rfl

theorem mpop_empty : TrapsWhen (.mpop c) (fun x _ => x.d.maskStack = []) (fun _ _ => { code := 0x09 }) :=
  trapsWhen_of_body (fun _ => rfl) rfl (fun _ _ hpre => by simp only [hpre]) (fun _ _ => by simp)

end

/-! ### The statement -/

/-- Settles O33, row by row: each instruction's body, by its cases, through `completes_jump`, `completes_update`, `completes_landing`
and `trapsWhen_of_body`. -/
theorem controlFlow : Obligations.ControlFlow := by
  refine ⟨fun ofs d a c => ?_, fun d c => ?_⟩
  · intro target lane_ chosen jumps links count odd even lead together_
    have htarget : (fun x : Issue => x.target ofs) = target := funext fun x => target_eq x ofs
    refine ⟨htarget ▸ bra_taken ofs c, bra_not_taken ofs c, bra_diverges ofs c, htarget ▸ brz_taken ofs c, brz_not_taken ofs c,
      htarget ▸ call_links d ofs c, ret_goes a c, ret_traps a c, ?_, jmpu_traps a c, jmpv_idle a c, fun l => ?_,
      jmpv_misaligned a c, jmpv_full a c, land_goes c, htarget ▸ loop_taken d ofs c, loop_done d ofs c, nop_goes c⟩
    · exact completes_mono (jmpu_goes a c) fun x s t ⟨d', hissued, hkept, _, hcm, hstack, hops, hqueue, hneed⟩ =>
        ⟨d', hissued, hkept, ⟨hcm, hstack, hops, hqueue⟩, fun _ hcheck => hneed.trans hcheck⟩
    · exact completes_mono (jmpv_goes a c l) fun x s t ⟨d', hissued, hkept, _, hcm, hstack, hops, hqueue, hneed⟩ =>
        ⟨d', hissued, hkept, hcm, hstack, hneed, hops, hqueue⟩
  · intro masks
    refine ⟨?_, ?_, ?_, kmask_lands d c, mpush_full c, minv_empty c, mpop_empty c⟩
    · exact completes_mono (mpush_goes c) fun x s t ⟨d', hissued, hkept, _, hcm, hstack, hops, hqueue, _⟩ =>
        ⟨d', hissued, hkept, hcm.trans (guarded_eq c x.d), hstack, hops, hqueue⟩
    · exact completes_mono (minv_goes c) fun x s t ⟨d', hissued, hkept, _, hcm, hstack, hops, hqueue, _⟩ =>
        ⟨d', hissued, hkept, hcm, hstack, hops, hqueue⟩
    · exact completes_mono (mpop_goes c) fun x s t ⟨d', hissued, hkept, _, hcm, hstack, hops, hqueue, _⟩ =>
        ⟨d', hissued, hkept, hcm, hstack, hops, hqueue⟩

end Sys2Proof.Proofs
end

section
/-!
Rounding (R55), of a magnitude m 2^e to a multiple of 2^q: the magnitude is lo + rem / 2^k such multiples, lo of them whole
(`roundAt_parts`). Each mode goes to lo or to lo + 1, by how rem compares with 0 and with half of 2^k, and so by how the magnitude
compares with the multiple below it and with the midpoint above that.
-/
namespace Sys2Proof.Proofs
open Sys2Proof.Machine

/-! ### The whole multiples and the rest -/

theorem roundsUp_zero (mode : RMode) (neg : Bool) (lo k : Nat) : roundsUp mode neg lo 0 k = false := rfl

theorem two_zpow_eq {e q : Int} (h : e ≤ q) : (2 : ℚ) ^ q = 2 ^ (q - e).toNat * 2 ^ e := by
  rw [← zpow_natCast, ← zpow_add₀ two_ne_zero]
  congr 1
  omega

/-- A magnitude m 2^e with e ≤ q, cut at 2^q. -/
theorem mul_zpow_eq_div_add_mod (m : Nat) {e q : Int} (h : e ≤ q) :
    (m : ℚ) * 2 ^ e = ((m / 2 ^ (q - e).toNat : Nat) + (m % 2 ^ (q - e).toNat : Nat) / 2 ^ (q - e).toNat) * 2 ^ q := by
  have hq := two_zpow_eq h
  generalize (q - e).toNat = k at *
  have hm : (2 : ℚ) ^ k * (m / 2 ^ k : Nat) + (m % 2 ^ k : Nat) = m := by exact_mod_cast Nat.div_add_mod m (2 ^ k)
  rw [hq, ← hm]
  field_simp

/-- One cut of the magnitude serves all the modes; where 2^q divides 2^e nothing is left over. -/
theorem roundAt_parts (neg : Bool) (m : Nat) (e q : Int) :
    ∃ lo rem k : Nat, rem < 2 ^ k ∧ (m : ℚ) * 2 ^ e = (lo + rem / 2 ^ k) * 2 ^ q ∧
      ∀ mode, roundAt mode neg m e q = (if roundsUp mode neg lo rem k then lo + 1 else lo, decide (rem ≠ 0)) := by
  by_cases h : q ≤ e
  · refine ⟨m * 2 ^ (e - q).toNat, 0, 0, by simp, ?_, fun mode => ?_⟩
    · rw [two_zpow_eq h]
      push_cast
      ring
    · simp [roundAt, h, roundsUp_zero]
  · exact ⟨_, _, _, Nat.mod_lt _ (Nat.two_pow_pos _), mul_zpow_eq_div_add_mod m (le_of_not_ge h), fun mode => if_neg h⟩

/-! ### When a mode rounds away from zero -/

section
variable (neg : Bool) (lo : Nat) {rem k : Nat}

theorem roundsUp_rtz : roundsUp .rtz neg lo rem k = false := ite_self _

theorem roundsUp_rdn : roundsUp .rdn neg lo rem k = true ↔ neg = true ∧ rem ≠ 0 := by
  by_cases h : rem = 0 <;> simp [roundsUp, h]

theorem roundsUp_rup : roundsUp .rup neg lo rem k = true ↔ neg = false ∧ rem ≠ 0 := by
  by_cases h : rem = 0 <;> simp [roundsUp, h]

theorem roundsUp_rne : roundsUp .rne neg lo rem k = true ↔ ¬ (2 * rem < 2 ^ k ∨ (2 * rem = 2 ^ k ∧ lo % 2 = 0)) := by
  have hpos := Nat.two_pow_pos k
  by_cases h : rem = 0
  · simp [roundsUp, h]
  · simp only [roundsUp, h, if_false, Bool.or_eq_true, Bool.and_eq_true, decide_eq_true_eq]
    omega

theorem roundsUp_rna : roundsUp .rna neg lo rem k = true ↔ ¬ 2 * rem < 2 ^ k := by
  by_cases h : rem = 0 <;> simp [roundsUp, h]

end

/-! ### The magnitude against the multiple below it and the midpoint -/

section
variable (lo : Nat) {rem k : Nat} (q : Int)

theorem ne_parts : (lo : ℚ) * 2 ^ q ≠ (lo + rem / 2 ^ k) * 2 ^ q ↔ rem ≠ 0 := by
  have hq : (2 : ℚ) ^ q ≠ 0 := zpow_ne_zero q two_ne_zero
  simp [hq]

theorem le_parts : (lo : ℚ) * 2 ^ q ≤ (lo + rem / 2 ^ k) * 2 ^ q := by
  gcongr
  exact le_add_of_nonneg_right (by positivity)

theorem parts_lt_next (h : rem < 2 ^ k) : ((lo : ℚ) + rem / 2 ^ k) * 2 ^ q < lo * 2 ^ q + 2 ^ q := by
  have hfrac : (rem : ℚ) / 2 ^ k < 1 := (div_lt_one (by positivity)).2 (by exact_mod_cast h)
  calc ((lo : ℚ) + rem / 2 ^ k) * 2 ^ q < (lo + 1) * 2 ^ q := by gcongr
    _ = lo * 2 ^ q + 2 ^ q := by ring

theorem midpoint_eq : (lo : ℚ) * 2 ^ q + 2 ^ q / 2 = (lo + 1 / 2) * 2 ^ q := by ring

theorem parts_lt_midpoint : ((lo : ℚ) + rem / 2 ^ k) * 2 ^ q < lo * 2 ^ q + 2 ^ q / 2 ↔ 2 * rem < 2 ^ k := by
  have hq : (0 : ℚ) < 2 ^ q := zpow_pos two_pos q
  rw [midpoint_eq, mul_lt_mul_iff_left₀ hq, add_lt_add_iff_left, div_lt_div_iff₀ (by positivity) two_pos, mul_comm, one_mul]
  exact_mod_cast Iff.rfl

theorem parts_eq_midpoint : ((lo : ℚ) + rem / 2 ^ k) * 2 ^ q = lo * 2 ^ q + 2 ^ q / 2 ↔ 2 * rem = 2 ^ k := by
  have hq : (2 : ℚ) ^ q ≠ 0 := zpow_ne_zero q two_ne_zero
  rw [midpoint_eq, mul_left_inj' hq, add_right_inj, div_eq_div_iff (by positivity) two_ne_zero, mul_comm, one_mul]
  exact_mod_cast Iff.rfl

end

/-! ### The statement -/

/-- The multiple that a mode gives is the one below the magnitude or the next. -/
theorem multiple_eq (up : Prop) [Decidable up] (lo : Nat) (q : Int) :
    (((if up then lo + 1 else lo : Nat) : ℚ) * 2 ^ q) = if up then (lo : ℚ) * 2 ^ q + 2 ^ q else (lo : ℚ) * 2 ^ q := by
  split
  · push_cast
    ring
  · rfl

/-- Settles O19, by the cut of `roundAt_parts`: each clause is the comparison of rem that `roundsUp` makes, read as one of the
magnitude. -/
theorem roundingModes : Obligations.RoundingModes := by
  intro neg m e q
  obtain ⟨lo, rem, k, hrem, hv, hround⟩ := roundAt_parts neg m e q
  simp only [hv, hround, multiple_eq, roundsUp_rtz, Bool.false_eq_true, if_false]
  refine ⟨fun _ => decide_eq_true_iff.trans (ne_parts lo q).symm, ⟨le_parts lo q, parts_lt_next lo q hrem⟩, ?rdn, ?rup, ?rne, ?rna⟩
  case rdn => simp only [roundsUp_rdn, ne_parts]
  case rup => simp only [roundsUp_rup, ne_parts]
  case rne => simp only [roundsUp_rne, parts_lt_midpoint, parts_eq_midpoint, ite_not]
  case rna => simp only [roundsUp_rna, parts_lt_midpoint, ite_not]

end Sys2Proof.Proofs
end

section
/-!
PROOFS about a turn (R69, R123, R257, R366): the agent that moves is the one that the turn names, and each branch of a drill's, a
hart's and an event's turn is a rule of its own.
-/
namespace Sys2Proof.Proofs
open Sys2Proof.Machine

/-- A step is the turn of the agent that moves (log 1, DESIGN CHOICE). -/
theorem step_of_cur {s : State} {a : Act} (hcur : s.begun.cur = some a) : step s = afterAct (act s.begun a) := by
  obtain rfl : s.nextTurn.1.act = a := Option.some.inj ((cur_begun s).symm.trans hcur)
  rfl

section
variable {s : State} {k : Nat} {d : Drill} {w : BitVec 64} (hd : s.drill? k = some d) (hissuing : d.st = .issuing)
variable (hheld : s.held = false) (hup : s.chipUp (drillChip k) = true) (hw : d.word = some w)
include hd hissuing hheld hup hw

theorem stepDrill_decoded {i : Instr} (hi : decodeFurrow w = .ok i) : stepDrill s k = exec i s := by
  simp [stepDrill, hd, hissuing, hheld, hup, hw, hi]

theorem stepDrill_undecoded {e : DecodeError} (he : decodeFurrow w = .error e) : stepDrill s k = .next (s.raise k wordTrap) := by
  simp [stepDrill, hd, hissuing, hheld, hup, hw, he]

end

section
variable {s : State} {n : Nat} (hruns : s.hartRuns n = true)
include hruns

theorem stepHart_interrupted {to_ : HartMode} {c : Nat} (hint : s.hartInt n = some (to_, c)) :
    stepHart s n = .next (s.setHart n ((s.hart n).interrupt to_ c)) := by
  simp [stepHart, hruns, hint]

variable (hint : s.hartInt n = none)
include hint

theorem stepHart_fault {c : Nat} {g va : DWord} (hfetch : s.hartWord (s.hart n) = .error (.fault c g, va)) :
    stepHart s n = .next (s.setHart n ((s.hart n).trap c va g)) := by
  simp [stepHart, hruns, hint, hfetch]

theorem stepHart_held {va : DWord} (hfetch : s.hartWord (s.hart n) = .error (.held, va)) : stepHart s n = .next s := by
  simp [stepHart, hruns, hint, hfetch]

variable {w : BitVec 32} (hfetch : s.hartWord (s.hart n) = .ok w)
include hfetch

theorem stepHart_decoded {i : Instr} (hi : decodeHart (field ((s.hart n).xAt (w.extractLsb' 15 5)) 12 4) w = .ok i) :
    stepHart s n = exec i s := by
  simp [stepHart, hruns, hint, hfetch, hi]

theorem stepHart_base {e : DecodeError} (he : decodeHart (field ((s.hart n).xAt (w.extractLsb' 15 5)) 12 4) w = .error e) :
    stepHart s n = hartBase s n w := by
  simp [stepHart, hruns, hint, hfetch, he]

end

section
variable {s : State} {i : Instr}

theorem act_event (hi : isEvent i = true) (hmute : s.mute i = false) : act s (.event i) = exec i s := by simp [act, hi, hmute]

theorem act_muted (hmute : s.mute i = true) : act s (.event i) = .next s := by simp [act, hmute]

end

/-- Settles O10, by whose turn it is: each clause is one branch of `stepDrill`, of `stepHart` or of `act`. -/
theorem stepRuns : Obligations.StepRuns := by
  refine ⟨?drill, ?hart, ?event⟩
  case drill =>
    intro s k d w hcur hd hissuing hheld hup hw
    rw [step_of_cur hcur]
    exact ⟨fun i hi => congrArg afterAct (stepDrill_decoded hd hissuing hheld hup hw hi),
      fun e he => congrArg afterAct (stepDrill_undecoded hd hissuing hheld hup hw he)⟩
  case hart =>
    intro s n hcur hruns
    rw [step_of_cur hcur]
    exact ⟨fun to_ c hint => congrArg afterAct (stepHart_interrupted hruns hint), fun hint =>
      ⟨fun w hfetch => ⟨fun i hi => congrArg afterAct (stepHart_decoded hruns hint hfetch hi),
        fun e he => congrArg afterAct (stepHart_base hruns hint hfetch he)⟩,
      fun c g va hfetch => congrArg afterAct (stepHart_fault hruns hint hfetch),
      fun va hfetch => congrArg afterAct (stepHart_held hruns hint hfetch)⟩⟩
  case event =>
    intro s i hcur hi
    rw [step_of_cur hcur]
    exact ⟨fun hmute => congrArg afterAct (act_event hi hmute), fun hmute => congrArg afterAct (act_muted hmute)⟩

end Sys2Proof.Proofs
end

section
/-!
PROOFS about the landings that an entry to a trap waits for (R74, R88, R90): a completion is a landing that writes nothing, a snapshot is
a list of landings, and what landings leave of pending traps, latches, tokens and GSAVE.
-/
namespace Sys2Proof.Proofs
open Sys2Proof.Machine

/-! ### Pending traps are not lost -/

/-- Drill k keeps its pending traps. -/
def KeepsTraps (k : Nat) (s t : State) : Prop :=
  ∀ d, s.drill? k = some d → ∃ e, t.drill? k = some e ∧ d.pendTraps ⊆ e.pendTraps

theorem KeepsTraps.refl (k : Nat) (s : State) : KeepsTraps k s s := fun d hd => ⟨d, hd, List.Subset.refl _⟩

theorem KeepsTraps.trans {k : Nat} {s t u : State} (h : KeepsTraps k s t) (g : KeepsTraps k t u) : KeepsTraps k s u := by
  intro d hd
  obtain ⟨e, he, hde⟩ := h d hd
  obtain ⟨f, hf, hef⟩ := g e he
  exact ⟨f, hf, List.Subset.trans hde hef⟩

theorem KeepsTraps.of_drill {k : Nat} {s t : State} (h : t.drill? k = s.drill? k) : KeepsTraps k s t :=
  fun d hd => ⟨d, h.trans hd, List.Subset.refl _⟩

theorem KeepsTraps.setDrill {k : Nat} {s : State} {d e : Drill} (hd : s.drill? k = some d) (h : d.pendTraps ⊆ e.pendTraps) :
    KeepsTraps k s (s.setDrill k e) := by
  intro d' hd'
  obtain rfl := Option.some.inj (hd.symm.trans hd')
  exact ⟨e, by simp, h⟩

theorem KeepsTraps.modDrill {k : Nat} (s : State) {f : Drill → Drill} (h : ∀ d, d.pendTraps ⊆ (f d).pendTraps) :
    KeepsTraps k s (s.modDrill k f) := fun d hd => ⟨f d, by simp [hd], h d⟩

theorem pendTraps_addTrap (d : Drill) (code sub station : Nat) : d.pendTraps ⊆ (d.addTrap code sub station).pendTraps := by
  unfold Drill.addTrap
  split
  · exact List.Subset.refl _
  · exact List.subset_append_left _ _

theorem pendTraps_clearSlot (d : Drill) (slot : Nat) : (d.clearSlot slot).pendTraps = d.pendTraps := by
  unfold Drill.clearSlot
  split <;> rfl

theorem pendTraps_ite {c : Prop} [Decidable c] {a b d : Drill} (ha : a.pendTraps = d.pendTraps) (hb : b.pendTraps = d.pendTraps) :
    (if c then a else b).pendTraps = d.pendTraps := by
  split <;> assumption

theorem pendTraps_sysWrite (d : Drill) (n : Nat) (system : Bool) (m : Mask) (v : DLanes) :
    (d.sysWrite n system m v).pendTraps = d.pendTraps := by
  unfold Drill.sysWrite
  dsimp only
  repeat' refine pendTraps_ite ?_ ?_
  all_goals rfl

theorem keepsTraps_complete (s : State) (k slot : Nat) (tk1 : BitVec 4) : KeepsTraps k s (s.complete k slot tk1) := by
  have hslot : KeepsTraps k s (s.modDrill k (·.clearSlot slot)) :=
    KeepsTraps.modDrill s fun d => (pendTraps_clearSlot d slot).symm ▸ List.Subset.refl _
  unfold State.complete
  dsimp only
  split
  · exact hslot
  split
  · exact hslot
  split
  · exact hslot
  split
  · exact (hslot.trans (.of_drill rfl)).trans (.modDrill _ fun d => pendTraps_addTrap d _ _ _)
  · exact hslot.trans (.of_drill rfl)

theorem keepsTraps_sysWrite (s : State) (k n : Nat) (system : Bool) (m : Mask) (v : DLanes) : KeepsTraps k s (s.sysWrite k n system m v) := by
  unfold State.sysWrite
  split
  · exact .refl k s
  · rename_i d hd
    dsimp only
    split_ifs
    any_goals split
    any_goals exact .of_drill rfl
    exact .setDrill hd ((pendTraps_sysWrite d n system m v).symm ▸ List.Subset.refl _)

theorem keepsTraps_landOne (s : State) (k : Nat) (y : Landing) : KeepsTraps k s (s.landOne k y) := by
  unfold State.landOne
  refine KeepsTraps.trans ?_ (keepsTraps_complete _ _ _ _)
  split
  · exact keepsTraps_sysWrite _ _ _ _ _ _
  · refine KeepsTraps.modDrill s fun d => ?_
    have hkeep : (afterLanding d y).pendTraps = d.pendTraps :=
      (congrArg Drill.pendTraps (dry_afterLanding d y) :).trans (congrArg Drill.pendTraps (bare_landReg d y) :)
    exact hkeep.symm ▸ List.Subset.refl _

theorem keepsTraps_foldLand (l : List Landing) (s : State) (k : Nat) : KeepsTraps k s (l.foldl (fun s y => s.landOne k y) s) := by
  induction l generalizing s with
  | nil => exact .refl k s
  | cons y l ih => exact (keepsTraps_landOne s k y).trans (ih _)

theorem keepsTraps_advance (s : State) (k : Nat) : KeepsTraps k s (s.advance k) := by
  unfold State.advance
  split
  · exact .refl k s
  · rename_i d hd
    refine KeepsTraps.trans ?_ (keepsTraps_foldLand _ _ k)
    exact KeepsTraps.setDrill hd (List.Subset.refl d.pendTraps)

/-! ### A snapshot is a list of landings -/

/-- The completion of an instruction, as a landing that writes nothing (R25, R77). -/
def completionOf (y : Landing) : Landing := { due := 0, into := .nothing, swath := 0, slot := y.slot, tk1 := y.tk1 }

theorem modDrill_id (s : State) (k : Nat) {f : Drill → Drill} (h : ∀ d, f d = d) : s.modDrill k f = s := by
  have hmap : tblMod s.drills k f = s.drills := by
    unfold tblMod
    refine (List.map_congr_left fun p _ => ?_).trans (List.map_id _)
    simp [h]
  simp [State.modDrill, hmap]

theorem landOne_completionOf (s : State) (k : Nat) (y : Landing) : s.landOne k (completionOf y) = s.complete k y.slot y.tk1 :=
  congrArg (State.complete · k y.slot y.tk1) (modDrill_id s k fun _ => rfl)

/-- What a snapshot lands: what the replay registers do not hold, and the completions of what they hold (R88). -/
def snapshotLands (d : Drill) : List Landing :=
  d.landings.filter landsAtSnapshot ++ (d.landings.filter fun y => !landsAtSnapshot y).map completionOf

/-- What a snapshot lands is written to no register file but tiles and MXSL. -/
theorem landsAtSnapshot_of_mem {d : Drill} {y : Landing} (h : y ∈ snapshotLands d) : landsAtSnapshot y = true := by
  simp only [snapshotLands, List.mem_append, List.mem_filter, List.mem_map] at h
  rcases h with ⟨-, hy⟩ | ⟨x, -, rfl⟩
  · exact hy
  · rfl

theorem latch_of_mem_snapshotLands {d : Drill} (h : ∀ y ∈ d.landings, landsAtSnapshot y = false ∨ y.latch = none) {y : Landing}
    (hy : y ∈ snapshotLands d) : y.latch = none := by
  simp only [snapshotLands, List.mem_append, List.mem_filter, List.mem_map] at hy
  rcases hy with ⟨hmem, hnow⟩ | ⟨x, -, rfl⟩
  · exact (h y hmem).resolve_left (by simp [hnow])
  · rfl

section
variable {y : Landing} (h : landsAtSnapshot y = true)
include h

theorem writesSys_of_landsAtSnapshot : writesSys y = false := by
  unfold landsAtSnapshot at h
  unfold writesSys
  cases hi : y.into <;> simp_all

theorem writesV_of_landsAtSnapshot (r : Nat) : writesV y r = false := by
  unfold landsAtSnapshot at h
  unfold writesV
  cases hi : y.into <;> simp_all

theorem writesS_of_landsAtSnapshot (r : Nat) : writesS y r = false := by
  unfold landsAtSnapshot at h
  unfold writesS
  cases hi : y.into <;> simp_all

theorem writesK_of_landsAtSnapshot (r : Nat) : writesK y r = false := by
  unfold landsAtSnapshot at h
  unfold writesK
  cases hi : y.into <;> simp_all

end

/-- The state as a snapshot's landings leave it. -/
def landedAtSnapshot (s : State) (k : Nat) (d : Drill) : State :=
  (snapshotLands d).foldl (fun s y => s.landOne k y) (s.setDrill k { d with landings := [] })

/-- The replay registers as a snapshot writes them (R88, R90). -/
def replayed (e : Drill) (rest : List Landing) (xi : DWord) : Drill :=
  { e with xl := (List.range 8).map fun j => (j, e.latch j), xp := (rest.take 8).mapIdx fun j y => (j, xpOf e.n y), xi := xi }

theorem still_replayed (e : Drill) (rest : List Landing) (xi : DWord) :
    Laws.still (replayed e rest xi) = Laws.still { e with xl := (replayed e rest xi).xl, xp := (replayed e rest xi).xp } ∧
      (replayed e rest xi).pendTraps = e.pendTraps := ⟨rfl, rfl⟩

theorem xi_replayed (e : Drill) (rest : List Landing) (xi : DWord) : (replayed e rest xi).xi = xi := rfl

theorem snapshot_eq {s : State} {k : Nat} {d : Drill} (hd : s.drill? k = some d) (idx : Nat) (tkd : Bool) : s.snapshot k idx tkd =
    (landedAtSnapshot s k d).modDrill k fun e =>
      replayed e (d.landings.filter fun y => !landsAtSnapshot y) (packXi true tkd idx e.swathPc) := by
  unfold State.snapshot
  rw [hd]
  simp only [landedAtSnapshot, snapshotLands, List.foldl_append, List.foldl_map, landOne_completionOf]
  rfl

/-! ### What landings leave of latches, and of a group but its tokens -/

theorem latches_landOne {s : State} {k : Nat} {d : Drill} {y : Landing} (hd : s.drill? k = some d) (hsys : writesSys y = false)
    (hlatch : y.latch = none) : ∃ e, (s.landOne k y).drill? k = some e ∧ e.latches = d.latches := by
  obtain ⟨e, he, hinner⟩ := drill_landOne hd hsys
  have hland : (afterLanding d y).latches = (if y.noReg then d else d.landReg y).latches := by
    simp only [afterLanding, Drill.landLatch, hlatch]
    rfl
  exact ⟨e, he, (congrArg Drill.latches hinner :).trans (hland.trans (congrArg Drill.latches (bare_landReg d y) :))⟩

theorem latches_foldLand {l : List Landing} (h : ∀ y ∈ l, writesSys y = false ∧ y.latch = none) {s : State} {k : Nat} {d : Drill}
    (hd : s.drill? k = some d) : ∃ e, (l.foldl (fun s y => s.landOne k y) s).drill? k = some e ∧ e.latches = d.latches := by
  induction l generalizing s d with
  | nil => exact ⟨d, hd, rfl⟩
  | cons y l ih =>
    obtain ⟨hsys, hlatch⟩ := h y List.mem_cons_self
    obtain ⟨e, he, hde⟩ := latches_landOne hd hsys hlatch
    obtain ⟨f, hf, hef⟩ := ih (fun x hx => h x (List.mem_cons_of_mem _ hx)) he
    exact ⟨f, hf, hef.trans hde⟩

/-- A group without its tokens. -/
def tokenless (g : Machine.Group) : Machine.Group := { g with tok := 0 }

theorem group_complete (s : State) (k slot : Nat) (tk1 : BitVec 4) (n : Nat) :
    ((s.complete k slot tk1).group? n).map tokenless = (s.group? n).map tokenless := by
  unfold State.complete
  dsimp only
  split
  · rfl
  split
  · rfl
  split
  · rfl
  · rename_i d hd _ g hg
    have hset (g' : Machine.Group) (h : tokenless g' = tokenless g) :
        ((s.setGroup d.gid g').group? n).map tokenless = (s.group? n).map tokenless := by
      by_cases hn : d.gid = n
      · subst hn
        have hg : s.group? d.gid = some g := hg
        simp [hg, h]
      · simp [hn]
    split <;> exact hset _ rfl

theorem group_landOne {y : Landing} (hsys : writesSys y = false) (s : State) (k n : Nat) :
    ((s.landOne k y).group? n).map tokenless = (s.group? n).map tokenless := by
  refine (group_complete _ _ _ _ _).trans ?_
  split
  · rename_i heq
    simp [writesSys, heq] at hsys
  · rfl

theorem group_foldLand {l : List Landing} (h : ∀ y ∈ l, writesSys y = false) (s : State) (k n : Nat) :
    ((l.foldl (fun s y => s.landOne k y) s).group? n).map tokenless = (s.group? n).map tokenless := by
  induction l generalizing s with
  | nil => rfl
  | cons y l ih =>
    exact (ih (fun x hx => h x (List.mem_cons_of_mem _ hx)) _).trans (group_landOne (h y List.mem_cons_self) s k n)

/-! ### The tables of the replay registers -/

theorem tblGet?_mapSelf {α : Type} (f : Nat → α) {l : List Nat} {j : Nat} (h : j ∈ l) : tblGet? (l.map fun i => (i, f i)) j = some (f j) := by
  induction l with
  | nil => cases h
  | cons i l ih =>
    by_cases hi : i = j
    · simp [tblGet?, hi]
    · simpa [tblGet?, hi] using ih ((List.mem_cons.1 h).resolve_left (Ne.symm hi))

theorem tblGet?_mapIdx_add {α β : Type} (f : α → β) (l : List α) (n j : Nat) :
    tblGet? (l.mapIdx fun i x => (n + i, f x)) (n + j) = (l[j]?).map f := by
  induction l generalizing n j with
  | nil => rfl
  | cons x l ih =>
    rw [List.mapIdx_cons]
    cases j with
    | zero => simp [tblGet?]
    | succ j => simpa [tblGet?, Nat.add_right_comm n, ← Nat.add_assoc, show ¬n = n + j + 1 by omega] using ih (n + 1) j

theorem tblGet?_mapIdx {α β : Type} (f : α → β) (l : List α) (j : Nat) : tblGet? (l.mapIdx fun i x => (i, f x)) j = (l[j]?).map f := by
  simpa using tblGet?_mapIdx_add f l 0 j

/-- A snapshot's records are those of the first eight landings (R90). -/
theorem tblGet?_records {α β : Type} (f : α → β) (l : List α) {j : Nat} (h : j < 8) :
    tblGet? ((l.take 8).mapIdx fun i x => (i, f x)) j = (l[j]?).map f := by
  rw [tblGet?_mapIdx, List.getElem?_take_of_lt h]

end Sys2Proof.Proofs
end

section
/-!
PROOFS about the entry to a vector (R292, R293, R298): what `State.toVector` leaves of the drill, and what a trap has brought about when
its drill goes to a vector or stops.
-/
namespace Sys2Proof.Proofs
open Sys2Proof.Machine

/-! ### Writing consecutive registers -/

/-- A drill without its vector and uniform registers and the marks of SRAM errors. -/
def unfiled (d : Drill) : Drill := { d with v := [], s := [], regPoison := [] }

theorem unfiled_foldPutS (b : Nat) (f : Nat → Word) (n : Nat) (d : Drill) :
    unfiled ((List.range n).foldl (fun d j => d.putS (b + j) (f j)) d) = unfiled d := by
  induction n with
  | zero => rfl
  | succ n ih =>
    rw [List.range_succ, List.foldl_append]
    exact ih

theorem sAt_foldPutS (b : Nat) (f : Nat → Word) (n : Nat) (d : Drill) (r : Nat) :
    ((List.range n).foldl (fun d j => d.putS (b + j) (f j)) d).sAt r = if b ≤ r ∧ r < b + n then f (r - b) else d.sAt r := by
  induction n with
  | zero => rw [if_neg (by omega)]; rfl
  | succ n ih =>
    rw [List.range_succ, List.foldl_append, List.foldl_cons, List.foldl_nil, Laws.sAt_putS, ih]
    by_cases hr : b + n = r
    · subst hr
      rw [if_pos rfl, if_pos (by omega), Nat.add_sub_cancel_left]
    · rw [if_neg hr]
      exact if_congr (by omega) rfl rfl

theorem v_foldPutS (b : Nat) (f : Nat → Word) (n : Nat) (d : Drill) :
    ((List.range n).foldl (fun d j => d.putS (b + j) (f j)) d).v = d.v := by
  induction n with
  | zero => rfl
  | succ n ih =>
    rw [List.range_succ, List.foldl_append]
    exact ih

theorem unfiled_foldPutV (b : Nat) (m : Mask) (x : Lanes) (n : Nat) (d : Drill) :
    unfiled ((List.range n).foldl (fun d j => d.putV (b + j) m x) d) = unfiled d := by
  induction n with
  | zero => rfl
  | succ n ih =>
    rw [List.range_succ, List.foldl_append]
    exact ih

theorem s_foldPutV (b : Nat) (m : Mask) (x : Lanes) (n : Nat) (d : Drill) :
    ((List.range n).foldl (fun d j => d.putV (b + j) m x) d).s = d.s := by
  induction n with
  | zero => rfl
  | succ n ih =>
    rw [List.range_succ, List.foldl_append]
    exact ih

theorem vAt_foldPutV (b : Nat) (m : Mask) (x : Lanes) (n : Nat) (d : Drill) (r : Nat) :
    ((List.range n).foldl (fun d j => d.putV (b + j) m x) d).vAt r = if b ≤ r ∧ r < b + n then merge m x (d.vAt r) else d.vAt r := by
  induction n with
  | zero => rw [if_neg (by omega)]; rfl
  | succ n ih =>
    rw [List.range_succ, List.foldl_append, List.foldl_cons, List.foldl_nil, Laws.vAt_putV]
    by_cases hr : b + n = r
    · subst hr
      rw [if_pos rfl, ih, if_neg (by omega), if_pos (by omega)]
    · rw [if_neg hr, ih]
      exact if_congr (by omega) rfl rfl

/-! ### Entry to a vector -/

/-- s56 to s63 of the system bank as an entry to a vector writes them (R292, R293). -/
def entryBank (g : Machine.Group) (c : Context) (d : Drill) : List Word :=
  [(drillArea g c d.idx).setWidth 32, (drillArea g c d.idx).extractLsb' 32 32, g.gsave.setWidth 32, g.gsave.extractLsb' 32 32, d.tcause,
    BitVec.ofNat 32 (g.kcb.t * 2 ^ 24 + (g.kcb.s - 1) * 2 ^ 16 + (g.kcb.v - 1) * 2 ^ 8 + d.idx), 0, 0]

/-- Drill d has gone to a vector as d' (R293): the place, the bank, and what it keeps. -/
structure AtVector (g : Machine.Group) (c : Context) (d d' : Drill) (vec : DWord) (routine : Nat) : Prop where
  mode : d'.sysMode = true ∧ d'.routine = routine
  place : d'.pc = vec ∧ d'.swathPc = vec ∧ d'.idxInSwath = 0 ∧ d'.st = .ready
  masks : d'.cm = d.cm ∧ d'.maskStack = d.maskStack
  landings : d'.landings = d.landings
  record : d'.tcause = d.tcause ∧ d'.tval = d.tval ∧ d'.tmask = d.tmask ∧ d'.epc = d.epc
  replay : d'.xi = d.xi ∧ d'.xl = d.xl ∧ d'.xp = d.xp
  pending : d'.pendTraps = d.pendTraps ∧ d'.pendOverrun = d.pendOverrun
  target : d.sysMode = false → d'.needLand = none ∧ d'.landUser = d.needLand
  bank : ∀ j < 8, d'.sAt (72 + j) = (entryBank g c d).getD j 0
  cleared : ∀ r, 256 ≤ r → r < 260 → ∀ j < 32, lane (d'.vAt r) j = 0
  vectors : ∀ r < 256, d'.vAt r = d.vAt r
  uniforms : ∀ r < 72, d'.sAt r = d.sAt r
  predicates : ∀ r, d'.kAt r = d.kAt r

/-- The registers of drill d as an entry to a vector leaves them (R292). -/
def banked (g : Machine.Group) (c : Context) (d : Drill) : Drill :=
  (List.range 4).foldl (fun e j => e.putV (256 + j) 0xFFFFFFFF (splat 0))
    ((List.range 8).foldl (fun e j => e.putS (72 + j) ((entryBank g c d).getD j 0)) ((d.unmark (sMark 72) 8).unmark (vMark 256) 4))

section
variable (g : Machine.Group) (c : Context) (d : Drill)

theorem unfiled_banked : unfiled (banked g c d) = unfiled d := (unfiled_foldPutV _ _ _ _ _).trans (unfiled_foldPutS _ _ _ _)

theorem sAt_banked (r : Nat) : (banked g c d).sAt r = if 72 ≤ r ∧ r < 80 then (entryBank g c d).getD (r - 72) 0 else d.sAt r := by
  rw [Drill.sAt, banked, s_foldPutV]
  exact sAt_foldPutS _ _ _ _ _

theorem vAt_banked (r : Nat) : (banked g c d).vAt r = if 256 ≤ r ∧ r < 260 then merge 0xFFFFFFFF (splat 0) (d.vAt r) else d.vAt r := by
  have hv : ((List.range 8).foldl (fun e j => e.putS (72 + j) ((entryBank g c d).getD j 0))
      ((d.unmark (sMark 72) 8).unmark (vMark 256) 4)).vAt r = d.vAt r := congrArg (tblGet · r (splat 0)) (v_foldPutS _ _ _ _)
  rw [banked, vAt_foldPutV, hv]

end

/-- The place of a drill as an entry to a vector leaves it, its registers written (R136, R293). -/
def entered (e : Drill) (vec : DWord) (routine : Nat) : Drill :=
  let e := if e.sysMode then e else { e with landUser := e.needLand, needLand := none }
  { e with
    sysMode := true, routine := routine, pc := vec, swathPc := vec, idxInSwath := 0, swath := e.swath + 1, latches := []
    st := .ready, stall := none, longWait := none, metWait := false, mbar := none, park := none, skipTk0 := false, trap := none
    tokWait := none, resumed := false, fetch := [], fetchWant := [vec.toNat / 128] }

/-- A drill without what an entry to a vector writes. -/
def unvectored (d : Drill) : Drill :=
  { unfiled d with
    needLand := none, landUser := none, sysMode := false, routine := 0, pc := 0, swathPc := 0, idxInSwath := 0, swath := 0, latches := []
    st := .ready, stall := none, longWait := none, metWait := false, mbar := none, park := none, skipTk0 := false, trap := none
    tokWait := none, resumed := false, fetch := [], fetchWant := [] }

section
variable (e : Drill) (vec : DWord) (routine : Nat)

theorem unvectored_entered : unvectored (entered e vec routine) = unvectored e := by
  unfold entered
  dsimp only
  split <;> rfl

theorem files_entered : (entered e vec routine).v = e.v ∧ (entered e vec routine).s = e.s := by
  unfold entered
  dsimp only
  split <;> exact ⟨rfl, rfl⟩

theorem target_entered (h : e.sysMode = false) :
    (entered e vec routine).needLand = none ∧ (entered e vec routine).landUser = e.needLand := by
  simp [entered, h]

end

theorem atVector_of_banked {g : Machine.Group} {c : Context} {d e : Drill} (hbank : unfiled e = unfiled d)
    (hvBank : ∀ r, e.vAt r = if 256 ≤ r ∧ r < 260 then merge 0xFFFFFFFF (splat 0) (d.vAt r) else d.vAt r)
    (hsBank : ∀ r, e.sAt r = if 72 ≤ r ∧ r < 80 then (entryBank g c d).getD (r - 72) 0 else d.sAt r) (vec : DWord) (routine : Nat) :
    AtVector g c d (entered e vec routine) vec routine := by
  have hkept : unvectored (entered e vec routine) = unvectored d := (unvectored_entered e vec routine).trans (congrArg unvectored hbank :)
  have hmode : e.sysMode = d.sysMode := (congrArg Drill.sysMode hbank :)
  have hneed : e.needLand = d.needLand := (congrArg Drill.needLand hbank :)
  obtain ⟨hv, hs⟩ := files_entered e vec routine
  have hvAt (r : Nat) : (entered e vec routine).vAt r = e.vAt r := congrArg (tblGet · r (splat 0)) hv
  have hsAt (r : Nat) : (entered e vec routine).sAt r = e.sAt r := congrArg (tblGet · r 0) hs
  refine ⟨⟨rfl, rfl⟩, ⟨rfl, rfl, rfl, rfl⟩, ⟨(congrArg Drill.cm hkept :), (congrArg Drill.maskStack hkept :)⟩, (congrArg Drill.landings hkept :),
    ⟨(congrArg Drill.tcause hkept :), (congrArg Drill.tval hkept :), (congrArg Drill.tmask hkept :), (congrArg Drill.epc hkept :)⟩,
    ⟨(congrArg Drill.xi hkept :), (congrArg Drill.xl hkept :), (congrArg Drill.xp hkept :)⟩,
    ⟨(congrArg Drill.pendTraps hkept :), (congrArg Drill.pendOverrun hkept :)⟩, ?target, ?bank, ?cleared, ?vectors,
    ?uniforms, fun r => (congrArg (Drill.kAt · r) hkept :)⟩
  case target =>
    intro h
    rw [← hneed]
    exact target_entered e vec routine (hmode.trans h)
  case bank =>
    intro j hj
    rw [hsAt, hsBank, if_pos (by omega), Nat.add_sub_cancel_left]
  case cleared =>
    intro r hlo hhi j hj
    rw [hvAt, hvBank, if_pos ⟨hlo, hhi⟩, Laws.lane_merge _ _ _ _ hj, if_pos (inMask_all hj), Laws.lane_splat _ _ hj]
  case vectors =>
    intro r hr
    rw [hvAt, hvBank, if_neg (by omega)]
  case uniforms =>
    intro r hr
    rw [hsAt, hsBank, if_neg (by omega)]

theorem atVector_entered (g : Machine.Group) (c : Context) (d : Drill) (vec : DWord) (routine : Nat) :
    AtVector g c d (entered (banked g c d) vec routine) vec routine :=
  atVector_of_banked (unfiled_banked g c d) (vAt_banked g c d) (sAt_banked g c d) vec routine

theorem toVector_eq {s : State} {k : Nat} {d : Drill} {g : Machine.Group} {c : Context} (hd : s.drill? k = some d)
    (hg : s.group? d.gid = some g) (hc : s.ctx? g.ctx = some c) (vec : DWord) (routine : Nat) :
    s.toVector k vec routine = s.setDrill k (entered (banked g c d) vec routine) := by
  unfold State.toVector
  simp only [hd, hg, hc]
  rfl

end Sys2Proof.Proofs
end

section
/-!
PROOFS about taking a trap (R84, R88, R293-R295): what has landed and been recorded when its drill goes to a vector or stops, by the
branches of `State.takeTrap`.
-/
namespace Sys2Proof.Proofs
open Sys2Proof.Machine

/-! ### What has landed -/

/-- Drill d of s is e in t, and t differs from s by landings of drill k at most (R74). -/
structure Waited (k : Nat) (s t : State) (d e : Drill) : Prop where
  drill : t.drill? k = some e
  still : Laws.still e = Laws.still { d with n := e.n, landings := e.landings }
  pending : d.pendTraps ⊆ e.pendTraps
  beyond : Laws.beyond t = Laws.beyond s
  others : ∀ j, j ≠ k → t.drill? j = s.drill? j
  groups : ∀ n, (t.group? n).map stillGroup = (s.group? n).map stillGroup
  ctxs : ∀ n, (t.ctx? n).map stillCtx = (s.ctx? n).map stillCtx

theorem Waited.trans {k : Nat} {s t u : State} {d e f : Drill} (h : Waited k s t d e) (g : Waited k t u e f) : Waited k s u d f where
  drill := g.drill
  still := g.still.trans (congrArg (fun x : Drill => { x with n := f.n, landings := f.landings }) h.still :)
  pending := List.Subset.trans h.pending g.pending
  beyond := g.beyond.trans h.beyond
  others j hj := (g.others j hj).trans (h.others j hj)
  groups n := (g.groups n).trans (h.groups n)
  ctxs n := (g.ctxs n).trans (h.ctxs n)

section
variable {s : State} {k : Nat} {d : Drill} (hd : s.drill? k = some d)
include hd

theorem waited_advance : ∃ e, Waited k s (s.advance k) d e ∧ e.n = d.n + 1 ∧
    e.landings = d.landings.filter fun y => decide (d.n + 1 < y.due) := by
  obtain ⟨e, he, hstill, hbeyond, hothers, hgroups, hctxs⟩ := Laws.advance_spec hd
  obtain ⟨e', he', hpend⟩ := keepsTraps_advance s k d hd
  obtain rfl := Option.some.inj (he.symm.trans he')
  have hn : e.n = d.n + 1 := (congrArg Drill.n hstill :)
  have hleft : e.landings = d.landings.filter fun y => decide (d.n + 1 < y.due) := (congrArg Drill.landings hstill :)
  exact ⟨e, ⟨he, hn ▸ hleft ▸ hstill, hpend, hbeyond, hothers, hgroups, hctxs⟩, hn, hleft⟩

theorem waited_landAll : ∃ e, Waited k s (s.landAll k) d e := by
  have hrange (l : List Nat) : ∀ {s d}, s.drill? k = some d → ∃ e, Waited k s (l.foldl (fun s _ => s.advance k) s) d e := by
    induction l with
    | nil => exact fun {s d} hd => ⟨d, hd, rfl, List.Subset.refl _, rfl, fun _ _ => rfl, fun _ => rfl, fun _ => rfl⟩
    | cons n l ih =>
      intro s d hd
      obtain ⟨e, he, -⟩ := waited_advance hd
      obtain ⟨f, hf⟩ := ih he.drill
      exact ⟨f, he.trans hf⟩
  exact hrange _ hd

omit hd in
theorem waited_landedAtSnapshot : ∃ e, Waited k s (landedAtSnapshot s k d) d e ∧ e.n = d.n ∧ e.landings = [] ∧
    Laws.Effect (snapshotLands d) k (s.setDrill k { d with landings := [] }) (landedAtSnapshot s k d) { d with landings := [] } e := by
  have hempty : (s.setDrill k { d with landings := [] }).drill? k = some { d with landings := [] } := by simp
  obtain ⟨e, he⟩ := Laws.Effect_fold (snapshotLands d) hempty
  obtain ⟨e', he', hpend⟩ := keepsTraps_foldLand (snapshotLands d) (s.setDrill k { d with landings := [] }) k _ hempty
  obtain rfl := Option.some.inj (he.after.symm.trans he')
  have hn : e.n = d.n := (congrArg Drill.n he.still :)
  have hleft : e.landings = [] := (congrArg Drill.landings he.still :)
  refine ⟨e, ⟨he.after, ?_, hpend, he.landed.beyond, fun j hj => ?_, he.landed.groups, he.landed.ctxs⟩, hn, hleft, he⟩
  · rw [hn, hleft]
    exact he.still
  · exact (he.landed.other j hj).trans (by simp [Ne.symm hj])

end

/-! ### What has been recorded -/

/-- The state as a trap leaves it before its drill goes to a vector or stops: landings, replay registers, record (R88, R298). -/
def trapped (s : State) (k : Nat) (d : Drill) (t : TrapReq) (valid async : Bool) (idx : Nat) : State :=
  (if valid then s.snapshot k idx t.tkd else (s.landAll k).modDrill k fun e => { e with xi := 0 }).modDrill k fun e =>
    { e.record t.code t.sub t.station async t.tval (t.mask.getD d.cm) (t.epc.getD d.pc) with trap := none }

/-- Drill d of s, whose trap t has been recorded, is e in u (R298). -/
structure Halted (k : Nat) (t : TrapReq) (async : Bool) (s u : State) (d e : Drill) : Prop where
  drill : u.drill? k = some e
  still : Laws.still e = Laws.still { d with n := e.n, landings := e.landings, xl := e.xl, xp := e.xp, trap := none }
  pending : d.pendTraps ⊆ e.pendTraps
  beyond : Laws.beyond u = Laws.beyond s
  others : ∀ j, j ≠ k → u.drill? j = s.drill? j
  groups : ∀ n, (u.group? n).map stillGroup = (s.group? n).map stillGroup
  ctxs : ∀ n, (u.ctx? n).map stillCtx = (s.ctx? n).map stillCtx
  record : e.tcause = BitVec.ofNat 32 (t.sub * 2 ^ 24 + t.station * 2 ^ 20 + async.toNat * 2 ^ 15 + t.code) ∧ e.tval = t.tval ∧
    e.tmask = t.mask.getD d.cm ∧ e.epc = t.epc.getD d.pc

/-- A trap's record is made after its landings (R88, R298). -/
theorem halted_of_waited {s : State} {k : Nat} {d : Drill} (t : TrapReq) (async : Bool) {u : State} {e : Drill} (h : Waited k s u d e)
    {f : Drill → Drill}
    (hf : ∀ x, Laws.still (f x) = Laws.still { x with xl := (f x).xl, xp := (f x).xp } ∧ (f x).pendTraps = x.pendTraps) :
    ∃ e', Halted k t async s ((u.modDrill k f).modDrill k fun e =>
        { e.record t.code t.sub t.station async t.tval (t.mask.getD d.cm) (t.epc.getD d.pc) with trap := none }) d e' ∧
      e'.landings = (f e).landings ∧ e'.xi = (f e).xi ∧ e'.xl = (f e).xl ∧ e'.xp = (f e).xp ∧ e'.v = (f e).v ∧ e'.s = (f e).s ∧ e'.k = (f e).k := by
  obtain ⟨hstill, hpend⟩ := hf e
  refine ⟨{ (f e).record t.code t.sub t.station async t.tval (t.mask.getD d.cm) (t.epc.getD d.pc) with trap := none },
    ⟨by simp [h.drill], ?_, hpend ▸ h.pending, h.beyond, fun j hj => ?_, h.groups, h.ctxs, rfl, rfl, rfl, rfl⟩, rfl, rfl, rfl, rfl, rfl, rfl, rfl⟩
  · have hn : (f e).n = e.n := (congrArg Drill.n hstill :)
    have hleft : (f e).landings = e.landings := (congrArg Drill.landings hstill :)
    have hkept := congrArg (fun x : Drill => { x with xl := (f e).xl, xp := (f e).xp, trap := none }) h.still
    have hmade := congrArg (fun x : Drill => { x with trap := none }) hstill
    show _ = Laws.still { d with n := (f e).n, landings := (f e).landings, xl := (f e).xl, xp := (f e).xp, trap := none }
    rw [hn, hleft]
    exact hmade.trans hkept
  · simpa [Ne.symm hj] using h.others j hj

/-- Drill d of s, whose trap t has been recorded after a snapshot of its swath, is e in u (R88, R90). -/
structure Snapshotted (k : Nat) (t : TrapReq) (async : Bool) (idx : Nat) (s u : State) (d e : Drill) : Prop where
  halted : Halted k t async s u d e
  landings : e.landings = []
  place : e.xi = packXi true t.tkd idx d.swathPc
  latches : (∀ y ∈ d.landings, landsAtSnapshot y = false ∨ y.latch = none) → ∀ j < 8, tblGet e.xl j (splat 0) = d.latch j
  records : ∀ j < 8, tblGet? e.xp j = ((d.landings.filter fun y => !landsAtSnapshot y)[j]?).map (xpOf d.n)
  vectors : ∀ r, e.vAt r = d.vAt r
  uniforms : ∀ r, e.sAt r = d.sAt r
  predicates : ∀ r, e.kAt r = d.kAt r
  groups : ∀ n, (u.group? n).map tokenless = (s.group? n).map tokenless
  ctxs : ∀ n, u.ctx? n = s.ctx? n

section
variable {s : State} {k : Nat} {d : Drill} (hd : s.drill? k = some d) (t : TrapReq) (async : Bool) (idx : Nat)
include hd

theorem snapshotted_trapped : ∃ e, Snapshotted k t async idx s (trapped s k d t true async idx) d e := by
  obtain ⟨e0, hw, hn, hleft, heff⟩ := waited_landedAtSnapshot (s := s) (k := k) (d := d)
  have hpc : e0.swathPc = d.swathPc := (congrArg Drill.swathPc hw.still :)
  obtain ⟨e, he, hlands, hxi, hxl, hxp, hv, hs, hk⟩ := halted_of_waited t async hw
    (f := fun e => replayed e (d.landings.filter fun y => !landsAtSnapshot y) (packXi true t.tkd idx e.swathPc)) fun _ => still_replayed _ _ _
  unfold trapped
  rw [if_pos rfl, snapshot_eq hd]
  have hquiet : ∀ y ∈ snapshotLands d, landsAtSnapshot y = true := fun y => landsAtSnapshot_of_mem
  refine ⟨e, he, hlands.trans hleft, ?place, ?latches, ?records, fun r => ?_, fun r => ?_, fun r => ?_, fun n => ?_, fun n => ?_⟩
  case place => rw [hxi, xi_replayed, hpc]
  case latches =>
    intro hlatch j hj
    obtain ⟨e', he', hsame⟩ := latches_foldLand (l := snapshotLands d)
      (fun y hy => ⟨writesSys_of_landsAtSnapshot (hquiet y hy), latch_of_mem_snapshotLands hlatch hy⟩) heff.before
    obtain rfl := Option.some.inj (heff.after.symm.trans he')
    have hget : tblGet? e.xl j = some (e0.latch j) := by
      rw [hxl]
      exact tblGet?_mapSelf e0.latch (List.mem_range.2 hj)
    rw [tblGet, hget]
    exact congrArg (tblGet · j (splat 0)) hsame
  case records =>
    intro j hj
    rw [hxp, ← hn]
    exact tblGet?_records (xpOf e0.n) _ hj
  · exact (congrArg (tblGet · r (splat 0)) hv).trans (heff.vectors r fun y hy => writesV_of_landsAtSnapshot (hquiet y hy) r)
  · exact (congrArg (tblGet · r 0) hs).trans (heff.uniforms r fun y hy => writesS_of_landsAtSnapshot (hquiet y hy) r)
  · have hkAt : e.kAt r = e0.kAt r := congrArg (fun l : Tbl Mask => if r = 0 then 0xFFFFFFFF else tblGet l r 0) hk
    exact hkAt.trans (heff.predicates r fun y hy => writesK_of_landsAtSnapshot (hquiet y hy) r)
  · exact group_foldLand (fun y hy => writesSys_of_landsAtSnapshot (hquiet y hy)) (s.setDrill k { d with landings := [] }) k n
  · exact congrArg (tblGet? · n) (heff.budgets fun y hy => writesSys_of_landsAtSnapshot (hquiet y hy))

/-- The same with no swath to go on with (R88). -/
theorem halted_landAll : ∃ e, Halted k t async s (trapped s k d t false async idx) d e ∧ e.xi = 0 := by
  obtain ⟨e0, hw⟩ := waited_landAll hd
  obtain ⟨e, he, -, hxi, -⟩ := halted_of_waited t async hw (f := fun e => { e with xi := 0 }) fun _ => ⟨rfl, rfl⟩
  exact ⟨e, he, hxi⟩

theorem halted_trapped (valid : Bool) : ∃ e, Halted k t async s (trapped s k d t valid async idx) d e ∧
    e.xi = if valid then packXi true t.tkd idx d.swathPc else 0 := by
  cases valid
  · exact halted_landAll hd t async idx
  · obtain ⟨e, he⟩ := snapshotted_trapped hd t async idx
    exact ⟨e, he.halted, he.place⟩

end

/-! ### The branches of a trap -/

section
variable {s : State} {k : Nat} {d : Drill} {g : Machine.Group} {c : Context}
variable (hd : s.drill? k = some d) (hg : s.group? d.gid = some g) (hc : s.ctx? g.ctx = some c)
variable {t : TrapReq} (valid async : Bool) (idx : Nat)
include hd hg hc

/-- In system mode any trap but a system call faults the context (R295). -/
theorem takeTrap_faults (hmode : d.sysMode = true) (hcode : t.code ≠ 0x30) : ∃ e, s.takeTrap k t valid async idx =
    s.ctxFault g.ctx (if d.routine = 0 then 0x3F else 0x3E) (drillChip k) e := by
  simp only [State.takeTrap, hd, hg, hc, hmode, hcode, ne_eq, not_false_eq_true, decide_true, Bool.and_true, if_true]
  exact ⟨_, rfl⟩

/-- A page fault stops the drill (R293, R352). -/
theorem takeTrap_pages (hmode : d.sysMode = false) (hfaults : t.faults ≠ []) : s.takeTrap k t valid async idx =
    ((t.faults.foldl (fun (r : List Nat × State) f =>
      let (n, s) := r.2.faultNew (drillChip k) (faultOf k d g c.asid f)
      (if r.1.contains n then r.1 else r.1 ++ [n], s)) ([], trapped s k d t valid async idx)).2.parkOn k
      (.faults (t.faults.foldl (fun (r : List Nat × State) f =>
        let (n, s) := r.2.faultNew (drillChip k) (faultOf k d g c.asid f)
        (if r.1.contains n then r.1 else r.1 ++ [n], s)) ([], trapped s k d t valid async idx)).1)) := by
  simp only [State.takeTrap, hd, hg, hc, hmode, Bool.false_and, Bool.false_eq_true, if_false, hfaults, ne_eq, not_false_eq_true, if_true]
  rfl

variable (hfaults : t.faults = [])
include hfaults

/-- A system call stops the drill, in either mode (R303). -/
theorem takeTrap_syscall (hcode : t.code = 0x30) : ∃ e, s.takeTrap k t valid async idx =
    ((trapped s k d t valid async idx).addSys (drillChip k) e).parkOn k (.syscall 0 t.self) := by
  simp only [State.takeTrap, hd, hg, hc, hcode, ne_eq, not_true_eq_false, decide_false, Bool.and_false, Bool.false_eq_true, if_false, hfaults,
    if_true]
  exact ⟨_, congrArg (fun u : State => (u.addSys _ _).parkOn k _) (by rw [trapped, hcode])⟩

variable (hmode : d.sysMode = false)
include hmode

/-- A pre-emption goes to SAVEVEC (R272). -/
theorem takeTrap_preempts (hcode : t.code = 0x32) : s.takeTrap k t valid async idx =
    (trapped s k d t valid async idx).toVector k c.savevec 1 := by
  simp [State.takeTrap, hd, hg, hc, hmode, hfaults, hcode, trapped]

variable (hcall : t.code ≠ 0x30) (hpreempt : t.code ≠ 0x32)
include hcall hpreempt

/-- Any other trap goes to TRAPVEC (R293). -/
theorem takeTrap_vectors (hvec : c.trapvec ≠ 0) : s.takeTrap k t valid async idx =
    ((trapped s k d t valid async idx).cancelSucc d.gid).toVector k c.trapvec 0 := by
  simp only [State.takeTrap, hd, hg, hc, hmode, Bool.false_and, Bool.false_eq_true, if_false, hfaults, hcall, hpreempt, hvec, ne_eq,
    not_true_eq_false, not_false_eq_true, if_true]
  rfl

/-- Where TRAPVEC is 0 it stops the drill (R293). -/
theorem takeTrap_parks (hvec : c.trapvec = 0) : ∃ e, s.takeTrap k t valid async idx =
    (((trapped s k d t valid async idx).cancelSucc d.gid).addSys (drillChip k) e).parkOn k (.syscall 1) := by
  simp only [State.takeTrap, hd, hg, hc, hmode, Bool.false_and, Bool.false_eq_true, if_false, hfaults, hcall, hpreempt, hvec, ne_eq,
    not_true_eq_false]
  exact ⟨_, rfl⟩

end

end Sys2Proof.Proofs
end

section
/-!
PROOFS about a trap's entry and its return (R84, R88, R89, R293-R295, R298, R305): the statements on traps, from the branches of
`State.takeTrap` and the drill as an entry to a vector leaves it.
-/
namespace Sys2Proof.Proofs
open Sys2Proof.Machine

/-! ### What a trap's record leaves of its group and context -/

section
variable {k : Nat} {t : TrapReq} {async : Bool} {s u : State} {d e : Drill} (H : Halted k t async s u d e)
include H

theorem Halted.gid : e.gid = d.gid := (congrArg Drill.gid H.still :)
theorem Halted.idx : e.idx = d.idx := (congrArg Drill.idx H.still :)
theorem Halted.pc : e.pc = d.pc := (congrArg Drill.pc H.still :)
theorem Halted.sysMode : e.sysMode = d.sysMode := (congrArg Drill.sysMode H.still :)
theorem Halted.masks : e.cm = d.cm ∧ e.maskStack = d.maskStack := ⟨(congrArg Drill.cm H.still :), (congrArg Drill.maskStack H.still :)⟩
theorem Halted.needLand : e.needLand = d.needLand := (congrArg Drill.needLand H.still :)
theorem Halted.pendOverrun : e.pendOverrun = d.pendOverrun := (congrArg Drill.pendOverrun H.still :)

theorem Halted.group {g : Machine.Group} {n : Nat} (hg : s.group? n = some g) : ∃ g', u.group? n = some g' ∧ g'.ctx = g.ctx := by
  have hmap := H.groups n
  rw [hg] at hmap
  cases hu : u.group? n with
  | none => simp [hu] at hmap
  | some g' =>
    rw [hu] at hmap
    exact ⟨g', rfl, (congrArg Machine.Group.ctx (Option.some.inj hmap) :)⟩

theorem Halted.ctx {c : Context} {n : Nat} (hc : s.ctx? n = some c) : ∃ c', u.ctx? n = some c' := by
  have hmap := H.ctxs n
  rw [hc] at hmap
  cases hu : u.ctx? n with
  | none => simp [hu] at hmap
  | some c' => exact ⟨c', rfl⟩

end

theorem group_cancelSucc (s : State) (n : Nat) : (s.cancelSucc n).group? n =
    (s.group? n).map fun g => if g.exits.any (·.2.1) then { g with succCancel := true } else g := by
  simp [State.cancelSucc]

/-- A group as a cancelled successor exit leaves it (R271). -/
theorem cancelSucc_spec {s : State} {n : Nat} {g : Machine.Group} (hg : s.group? n = some g) :
    ∃ g', (s.cancelSucc n).group? n = some g' ∧ g'.ctx = g.ctx ∧ g'.gsave = g.gsave ∧ g'.kcb = g.kcb := by
  rw [group_cancelSucc, hg]
  refine ⟨_, rfl, ?_⟩
  dsimp only
  split <;> exact ⟨rfl, rfl, rfl⟩

theorem raise_of_drained {s : State} {k : Nat} {d : Drill} (hd : s.drill? k = some d) (h : d.drained = true) (t : TrapReq) :
    s.raise k t = s.takeTrap k t (!(t.completed && d.idxInSwath = 0)) false d.idxInSwath := by
  simp [State.raise, hd, h]

/-- A group as a snapshot and a cancelled successor exit leave it. -/
theorem Snapshotted.group {k idx : Nat} {t : TrapReq} {async : Bool} {s u : State} {d e : Drill} (S : Snapshotted k t async idx s u d e)
    {g : Machine.Group} {n : Nat} (hg : s.group? n = some g) :
    ∃ g', (u.cancelSucc n).group? n = some g' ∧ g'.ctx = g.ctx ∧ g'.gsave = g.gsave ∧ g'.kcb = g.kcb := by
  have hmap := S.groups n
  rw [hg] at hmap
  cases hu : u.group? n with
  | none => simp [hu] at hmap
  | some g1 =>
    rw [hu] at hmap
    have htok : tokenless g1 = tokenless g := Option.some.inj hmap
    obtain ⟨g', hg', hctx, hgsave, hkcb⟩ := cancelSucc_spec hu
    exact ⟨g', hg', hctx.trans (congrArg Machine.Group.ctx htok :), hgsave.trans (congrArg Machine.Group.gsave htok :),
      hkcb.trans (congrArg Machine.Group.kcb htok :)⟩

/-- Settles O27: the entry takes a snapshot (`snapshotted_trapped`) and goes to TRAPVEC (`atVector_entered`). -/
theorem trapEntry : Obligations.TrapEntry := by
  intro s k d g c t hd hg hc hmode hdrained hfaults hcall hpreempt hcompleted hvec
  obtain ⟨e, S⟩ := snapshotted_trapped hd t false d.idxInSwath
  have H := S.halted
  have hraise : s.raise k t = ((trapped s k d t true false d.idxInSwath).cancelSucc d.gid).toVector k c.trapvec 0 := by
    rw [raise_of_drained hd hdrained, hcompleted]
    exact takeTrap_vectors hd hg hc true false d.idxInSwath hfaults hmode hcall hpreempt hvec
  generalize trapped s k d t true false d.idxInSwath = u at S H hraise
  obtain ⟨g', hg', hctx, hgsave, hkcb⟩ := S.group hg
  have hc' : (u.cancelSucc d.gid).ctx? g'.ctx = some c := by rw [hctx]; exact (S.ctxs _).trans hc
  rw [← H.gid] at hg' hc' hraise
  have hdrill : (u.cancelSucc e.gid).drill? k = some e := H.drill
  rw [hraise, toVector_eq hdrill hg' hc']
  have V := atVector_entered g' c e c.trapvec 0
  generalize entered (banked g' c e) c.trapvec 0 = d' at V
  obtain ⟨⟨hsys, hroutine⟩, ⟨hpc, hswathPc, hidx, hst⟩, ⟨hcm, hstack⟩, hlandings, ⟨htcause, htval, htmask, hepc⟩, ⟨hxi, hxl, hxp⟩, -, htarget,
    hbank, hcleared, hvectors, huniforms, hpredicates⟩ := V
  obtain ⟨hrcause, hrval, hrmask, hrepc⟩ := H.record
  obtain ⟨hneed, huser⟩ := htarget (H.sysMode.trans hmode)
  have harea : drillArea g' c e.idx = drillArea g c d.idx := by rw [drillArea, drillArea, hgsave, H.idx]
  refine ⟨d', by simp, hsys, hroutine, hpc, hswathPc, hidx, hst, hcm.trans H.masks.1, hstack.trans H.masks.2, hlandings.trans S.landings, hneed,
    huser.trans H.needLand, ?cause, htval.trans hrval, htmask.trans hrmask, hepc.trans hrepc, hxi.trans S.place, ?latches, ?records,
    ⟨?b0, ?b1, ?b2, ?b3, ?b4, ?b5, hbank 6 (by decide), hbank 7 (by decide), hcleared⟩, fun r hr => (hvectors r hr).trans (S.vectors r),
    fun r hr => (huniforms r hr).trans (S.uniforms r), fun r => (hpredicates r).trans (S.predicates r)⟩
  case cause => simpa using htcause.trans hrcause
  case latches =>
    intro j hj hlatch
    rw [hxl]
    exact S.latches hlatch j hj
  case records =>
    intro j hj
    rw [hxp]
    exact S.records j hj
  case b0 => exact (hbank 0 (by decide)).trans (congrArg (BitVec.setWidth 32) harea)
  case b1 => exact (hbank 1 (by decide)).trans (congrArg (BitVec.extractLsb' 32 32) harea)
  case b2 => exact (hbank 2 (by decide)).trans (congrArg (BitVec.setWidth 32) hgsave)
  case b3 => exact (hbank 3 (by decide)).trans (congrArg (BitVec.extractLsb' 32 32) hgsave)
  case b4 => exact (hbank 4 (by decide)).trans htcause.symm
  case b5 =>
    refine (hbank 5 (by decide)).trans ?_
    rw [← hkcb, ← H.idx]
    rfl

end Sys2Proof.Proofs
end

section
/-!
PROOFS about a context that goes to FAULTED (R87, R289, R290, R295, R405): what its groups' loss leaves of the contexts, operation by
operation.
-/
namespace Sys2Proof.Proofs
open Sys2Proof.Machine

theorem ctxs_foldl {α : Type} {f : State → α → State} (hf : ∀ s x, (f s x).ctxs = s.ctxs) (l : List α) (s : State) :
    (l.foldl f s).ctxs = s.ctxs := by
  induction l generalizing s with
  | nil => rfl
  | cons x l ih => exact (ih _).trans (hf s x)

section
variable (s : State)

theorem ctxs_cleanLine (l : Nat) : (s.cleanLine l).ctxs = s.ctxs := by
  unfold State.cleanLine
  split
  · rename_i o _
    have hline : (s.writeHomeLine l o.data).ctxs = s.ctxs := Laws.writeHome_ctxs s _
    generalize s.writeHomeLine l o.data = t at hline
    split
    · exact hline
    · rfl
  · rfl

theorem ctxs_ownLine (chip l : Nat) : (s.ownLine chip l).ctxs = s.ctxs := by
  unfold State.ownLine
  split
  · split <;> rfl
  · rfl

theorem ctxs_ioWrite (ws : List (Nat × Byte)) : (s.ioWrite ws).ctxs = s.ctxs := by
  refine ctxs_foldl (fun s w => ?_) ws s
  split
  · rfl
  · exact ctxs_cleanLine s _

theorem ctxs_cohWrite (chip : Nat) (ws : List (Nat × Byte)) : (s.cohWrite chip ws).ctxs = s.ctxs := by
  refine ctxs_foldl (fun s w => ?_) ws s
  split
  · rfl
  · exact ctxs_ownLine s chip _

theorem ctxs_msi (addr : DWord) (data : Nat) : (s.msi addr data).ctxs = s.ctxs := by
  unfold State.msi State.msiFor
  split
  · rfl
  split
  · split
    · split <;> rfl
    · rfl
  · rfl

theorem ctxs_touchLeaf (a : Nat) (pte : DWord) (acc : Access) : (s.touchLeaf a pte acc).ctxs = s.ctxs := by
  unfold State.touchLeaf
  generalize (64 ||| if acc.w = true then 128 else 0 : DWord) = set
  dsimp only
  split
  · rfl
  · exact ctxs_ioWrite s _

variable {s} {s1 : State}

theorem ctxs_walk {key : Nat} {c : Context} {va : DWord} {acc : Access} {from_ : Nat × Nat × Bool} {e : TlbEntry}
    (h : s.walk key c va acc from_ = .ok (e, s1)) : s1.ctxs = s.ctxs := by
  unfold State.walk at h
  split at h
  · cases h
  split at h
  · cases h
  rename_i pte level a _
  dsimp only at h
  generalize entryOf s key c.asid va (if from_.2.2 = true then pte ||| 32 else pte) level = e0 at h
  split at h
  · cases h
  split at h
  · cases h
  obtain ⟨-, rfl⟩ := Prod.mk.inj (Except.ok.inj h)
  exact ctxs_touchLeaf s a pte acc

theorem ctxs_translate {key : Nat} {c : Context} {va : DWord} {acc : Access} {pa : Nat} (h : s.translate key c va acc = .ok (pa, s1)) :
    s1.ctxs = s.ctxs := by
  unfold State.translate at h
  dsimp only at h
  split at h
  · cases h
  split at h
  · split at h
    · cases h
    split at h
    · cases h
    split at h
    · cases h
      rfl
    split at h
    · cases h
    · cases h
      exact (ctxs_walk ‹s.walk _ _ _ _ _ = _› :)
  split at h
  · cases h
  · cases h
    exact (ctxs_walk ‹s.walk _ _ _ _ _ = _› :)

variable {w : CopyAt} {d : CopyDesc} {u : Nat}

theorem ctxs_copyPa {va : DWord} {write : Bool} {pa : Nat} (h : s.copyPa w va write = .ok (pa, s1)) : s1.ctxs = s.ctxs := by
  unfold State.copyPa at h
  split at h
  · cases h
  · split_ifs at h
    cases h
    exact ctxs_translate ‹_›

theorem ctxs_copyRead {dev : State → Nat → List Byte} {bs : List Byte} (h : s.copyRead w d u dev = .ok (bs, s1)) : s1.ctxs = s.ctxs := by
  unfold State.copyRead at h
  split at h
  · cases h
    rfl
  split at h
  · dsimp only at h
    split at h
    · cases h
    · cases h
      rfl
  split at h
  · cases h
  split at h
  · cases h
    exact (ctxs_copyPa ‹s.copyPa _ _ _ = _› :)
  split at h
  · cases h
  · cases h
    exact (ctxs_copyPa ‹s.copyPa _ _ _ = _› :)

theorem ctxs_copyBytes {got : Tbl (List Byte)} {dev : State → Nat → List Byte} {bs : List Byte} (h : s.copyBytes w d got u dev = .ok (bs, s1)) :
    s1.ctxs = s.ctxs := by
  unfold State.copyBytes at h
  split at h
  · cases h
    rfl
  · exact ctxs_copyRead h

theorem ctxs_copyWrite {bs : List Byte} (h : s.copyWrite w d u bs (fun s _ _ => s) = .ok s1) : s1.ctxs = s.ctxs := by
  unfold State.copyWrite at h
  split at h
  · split at h
    · cases h
    · have hpa := ctxs_copyPa ‹s.copyPa _ _ _ = _›
      cases h
      split
      · exact (ctxs_ioWrite _ _).trans hpa
      · exact hpa
  · cases h
    rfl

end

theorem ctxs_mixUnits (s : State) (w : CopyAt) (d : CopyDesc) (us : List Nat) : (s.mixUnits w d us).ctxs = s.ctxs := by
  unfold State.mixUnits
  split
  · rfl
  · refine (ctxs_foldl (fun s u => ?_) _ _).trans rfl
    split
    · rfl
    · exact ctxs_copyWrite ‹_›

theorem ctxs_strayUnits (s : State) (w : CopyAt) (d : CopyDesc) (r : CopyRun) (first : Nat) : (s.strayUnits w d r first).ctxs = s.ctxs := by
  refine (ctxs_foldl (fun s u => ?_) _ _).trans rfl
  split
  · rfl
  split
  · exact ctxs_mixUnits s w d [u]
  split
  · rfl
  · have hbytes := ctxs_copyBytes ‹_›
    split
    · exact hbytes
    · exact (ctxs_copyWrite ‹_›).trans hbytes

theorem ctxs_strayCopy (s : State) (gid : Nat) (g : Machine.Group) (t : Station) : (s.strayCopy gid g t).ctxs = s.ctxs := by
  unfold State.strayCopy
  split
  · split
    · split
      · rfl
      · exact ctxs_strayUnits s _ _ _ _
    · rfl
  · rfl

theorem ctxs_abandon (s : State) (gid : Nat) : (s.abandon gid).ctxs = s.ctxs := by
  unfold State.abandon
  split
  · rfl
  · exact (ctxs_strayCopy _ _ _ _).trans (ctxs_strayCopy _ _ _ _)

theorem ctxs_strayStores (s : State) (k : Nat) (d : Drill) : (s.strayStores k d).ctxs = s.ctxs := by
  unfold State.strayStores
  dsimp only [State.free]
  split
  · rfl
  · refine (ctxs_foldl (fun s w => ?_) _ _).trans rfl
    split
    · rfl
    split
    · rfl
    split
    · rfl
    split
    · exact ctxs_cohWrite s _ _
    split
    · rfl
    · exact ctxs_ioWrite s _

theorem ctxs_syncLost (s : State) (gid : Nat) (grid : Bool) : (s.syncLost gid grid).ctxs = s.ctxs := by
  unfold State.syncLost
  split
  · rfl
  · dsimp only
    exact ctxs_foldl (fun s k => Laws.modDrill_ctxs s k _) _ _

theorem ctxs_loseGroup (s : State) (gid : Nat) : (s.loseGroup gid).ctxs = s.ctxs := by
  unfold State.loseGroup
  split
  · rfl
  split
  · rfl
  · have hstores := ctxs_foldl (fun s (p : Nat × Drill) => ctxs_strayStores s p.1 p.2) ((s.abandon gid).drills.filter fun p => p.2.gid = gid)
      (s.abandon gid)
    have hsync (grid : Bool) := ctxs_foldl fun s (p : Nat × Machine.Group) => ctxs_syncLost s p.1 grid
    dsimp only
    split
    · exact (hsync _ _ _).trans ((hsync _ _ _).trans (hstores.trans (ctxs_abandon s gid)))
    · exact (hsync _ _ _).trans (hstores.trans (ctxs_abandon s gid))

/-- A CONTEXT GOES TO FAULTED (R290, R295). -/
theorem ctx_ctxFault {s : State} {n fcode chip : Nat} {e : SysEntry} {c : Context} (hc : s.ctx? n = some c)
    (hst : c.st = .active ∨ c.st = .preempting) : (s.ctxFault n fcode chip e).ctx? n = some { c with st := .faulted, fcode := fcode } := by
  have hgo : ¬(decide (c.st ≠ .active) && decide (c.st ≠ .preempting)) = true := by
    rcases hst with h | h <;> simp [h]
  have hctxs : (s.ctxFault n fcode chip e).ctxs = (s.modCtx n fun c => { c with st := .faulted, fcode := fcode }).ctxs := by
    unfold State.ctxFault
    simp only [hc, hgo]
    exact (ctxs_msi _ _ _).trans (ctxs_foldl (fun s (p : Nat × Machine.Group) => ctxs_loseGroup s p.1) _ _)
  have hset : (s.modCtx n fun c => { c with st := .faulted, fcode := fcode }).ctx? n = some { c with st := .faulted, fcode := fcode } := by
    simp [hc]
  exact (congrArg (tblGet? · n) hctxs :).trans hset

end Sys2Proof.Proofs
end

section
/-!
PROOFS about where a trap stops its drill, and about the return from a routine (R84, R88, R89, R293, R295, R305).
-/
namespace Sys2Proof.Proofs
open Sys2Proof.Machine

/-! ### Where a trap stops -/

theorem drill_setDrill_self (s : State) (k : Nat) (d : Drill) : (s.setDrill k d).drill? k = some d := by simp

theorem drill_addSys (s : State) (chip : Nat) (e : SysEntry) (k : Nat) : (s.addSys chip e).drill? k = s.drill? k := rfl

theorem drill_cancelSucc (s : State) (n k : Nat) : (s.cancelSucc n).drill? k = s.drill? k := rfl

theorem drill_parkOn {s : State} {k : Nat} {d : Drill} (hd : s.drill? k = some d) (p : Park) : (s.parkOn k p).drill? k =
    some { d with
      st := .parked, park := some p, stall := none, tokWait := none, longWait := none, metWait := false, mbar := none, trap := none
      latches := [] } := by
  simp [State.parkOn, hd]

/-- A precise trap waits until the results of earlier instructions have come (R88). -/
theorem raise_waits {s : State} {k : Nat} {d : Drill} (hd : s.drill? k = some d) (h : d.drained = false) (t : TrapReq) :
    s.raise k t = s.setDrill k { d with trap := some t, st := .stalled, stall := some .drain } := by
  simp [State.raise, hd, h]

section
variable {s : State} {k : Nat} {d : Drill} {g : Machine.Group} {c : Context} {t : TrapReq}
variable (hd : s.drill? k = some d) (hg : s.group? d.gid = some g) (hc : s.ctx? g.ctx = some c) (hdrained : d.drained = true)
include hd hg hc hdrained

/-- With TRAPVEC 0 a trap of user mode parks its drill (R293). -/
theorem raise_parks (hmode : d.sysMode = false) (hfaults : t.faults = []) (hcall : t.code ≠ 0x30) (hpreempt : t.code ≠ 0x32)
    (hvec : c.trapvec = 0) : ∃ d', (s.raise k t).drill? k = some d' ∧ d'.st = .parked ∧ d'.park = some (.syscall 1) ∧ d'.pc = d.pc ∧
      d'.sysMode = false ∧ d'.tcause = BitVec.ofNat 32 (t.sub * 2 ^ 24 + t.station * 2 ^ 20 + t.code) ∧ d'.epc = t.epc.getD d.pc := by
  obtain ⟨e, hgo⟩ := takeTrap_parks hd hg hc (!(t.completed && d.idxInSwath = 0)) false d.idxInSwath hfaults hmode hcall hpreempt hvec
  obtain ⟨d1, H, -⟩ := halted_trapped hd t false d.idxInSwath (!(t.completed && d.idxInSwath = 0))
  obtain ⟨hcause, -, -, hepc⟩ := H.record
  rw [raise_of_drained hd hdrained, hgo]
  have hd1 := (drill_addSys _ (drillChip k) e k).trans ((drill_cancelSucc _ d.gid k).trans H.drill)
  exact ⟨_, drill_parkOn hd1 _, rfl, rfl, H.pc, H.sysMode.trans hmode, by simpa using hcause, hepc⟩

/-- A system call parks its drill (R303). -/
theorem raise_syscall (hcall : t.code = 0x30) (hfaults : t.faults = []) :
    ∃ d', (s.raise k t).drill? k = some d' ∧ d'.st = .parked ∧ d'.park = some (.syscall 0 t.self) ∧ d'.sysMode = d.sysMode := by
  obtain ⟨e, hgo⟩ := takeTrap_syscall hd hg hc (!(t.completed && d.idxInSwath = 0)) false d.idxInSwath hfaults hcall
  obtain ⟨d1, H, -⟩ := halted_trapped hd t false d.idxInSwath (!(t.completed && d.idxInSwath = 0))
  rw [raise_of_drained hd hdrained, hgo]
  exact ⟨_, drill_parkOn ((drill_addSys _ (drillChip k) e k).trans H.drill) _, rfl, rfl, H.sysMode⟩

/-- In system mode a trap faults the context (R295). -/
theorem raise_faults (hmode : d.sysMode = true) (hcall : t.code ≠ 0x30) (hst : c.st = .active ∨ c.st = .preempting) :
    ∃ c', (s.raise k t).ctx? g.ctx = some c' ∧ c'.st = .faulted ∧ c'.fcode = if d.routine = 0 then 0x3F else 0x3E := by
  obtain ⟨e, hgo⟩ := takeTrap_faults hd hg hc (!(t.completed && d.idxInSwath = 0)) false d.idxInSwath hmode hcall
  rw [raise_of_drained hd hdrained, hgo]
  exact ⟨_, ctx_ctxFault hc hst, rfl, rfl⟩

end

/-- Settles O28, by the branches of `State.raise` and `State.takeTrap`. -/
theorem trapParks : Obligations.TrapParks := by
  refine ⟨?taken, ?waits⟩
  case taken =>
    intro s k d g c t hd hg hc hdrained
    exact ⟨raise_parks hd hg hc hdrained, raise_syscall hd hg hc hdrained, raise_faults hd hg hc hdrained⟩
  case waits =>
    intro s k d t hd hdrained
    rw [raise_waits hd hdrained]
    exact ⟨_, drill_setDrill_self s k _, rfl, rfl, rfl, rfl, rfl, rfl, rfl⟩

/-! ### The return from a routine -/

/-- A drill as a return leaves it, whatever is resumed (R89). -/
def returned (d : Drill) : Drill := { d with st := .ready, park := none, stall := none, swath := d.swath + 1, fetch := [], resumed := xiV d.xi }

section
variable {s : State} {k : Nat} {d : Drill} (hd : s.drill? k = some d)
include hd

theorem resume_swath (hv : xiV d.xi = true) : (s.resume k).drill? k = some { returned d with
    latches := (List.range 8).map fun j => (j, tblGet d.xl j (splat 0))
    landings := (d.xp.filter fun p => p.2.v).map fun p => injected (returned d) p.2
    pc := xiPc d.xi + BitVec.ofNat 64 (8 * xiIdx d.xi), swathPc := xiPc d.xi, idxInSwath := xiIdx d.xi, skipTk0 := xiTkd d.xi
    xi := d.xi &&& 0x7FFFFFFFFFFFFFFF, fetchWant := [(xiPc d.xi + BitVec.ofNat 64 (8 * xiIdx d.xi)).toNat / 128] } := by
  simp [State.resume, hd, hv, returned]

theorem resume_epc (hv : xiV d.xi = false) : (s.resume k).drill? k = some { returned d with
    latches := [], landings := [], pc := d.epc, swathPc := d.epc, idxInSwath := 0, skipTk0 := false, fetchWant := [d.epc.toNat / 128] } := by
  simp [State.resume, hd, hv, returned]

end

/-- Settles O29, by XI.V (`resume_swath`, `resume_epc`). -/
theorem trapReturn : Obligations.TrapReturn := by
  intro s k d hd
  refine ⟨fun hv => ⟨_, resume_swath hd hv, rfl, rfl, rfl, rfl, rfl, ?bit, ?latches, ?landings, hv, ?count⟩,
    fun hv => ⟨_, resume_epc hd hv, rfl, rfl, rfl, rfl, hv, rfl⟩, ?kept⟩
  case bit => simp
  case latches =>
    intro j hj
    show tblGet ((List.range 8).map fun j => (j, tblGet d.xl j (splat 0))) j (splat 0) = _
    rw [tblGet, tblGet?_mapSelf _ (List.mem_range.2 hj), Option.getD_some]
  case landings =>
    intro p hp hvalid
    exact ⟨injected (returned d) p.2, List.mem_map_of_mem (List.mem_filter.2 ⟨hp, hvalid⟩), rfl, rfl, rfl, rfl, rfl, rfl⟩
  case count => simp
  case kept =>
    intro d' hd'
    cases hv : xiV d.xi with
    | true =>
      obtain rfl := Option.some.inj ((resume_swath hd hv).symm.trans hd')
      exact ⟨rfl, rfl, rfl, rfl, rfl, rfl, rfl⟩
    | false =>
      obtain rfl := Option.some.inj ((resume_epc hd hv).symm.trans hd')
      exact ⟨rfl, rfl, rfl, rfl, rfl, rfl, rfl⟩

end Sys2Proof.Proofs
end

section
/-!
PROOFS about what is taken at a boundary (R78, R85, R86, R186, R272, R275, R293, R297, R298, R308): which trap comes first, where a trap, a
pre-emption and an OVERRUN leave the drill, and the delivery of a user-level interrupt.
-/
namespace Sys2Proof.Proofs
open Sys2Proof.Machine

/-! ### Which trap comes first -/

/-- The first of two pending traps by code, as `nextTrap` chooses it. -/
def lesserTrap (r : Option PendTrap) (q : PendTrap) : Option PendTrap :=
  match r with
  | some p => if q.code < p.code then some q else r
  | none => some q

theorem lesserTrap_eq {t q : PendTrap} {r : Option PendTrap} (hr : ∀ p, r = some p → t.code ≤ p.code ∧ (p.code = t.code → p = t))
    (hq : t.code ≤ q.code ∧ (q.code = t.code → q = t)) (ht : r = some t ∨ t = q) : lesserTrap r q = some t := by
  cases r with
  | none =>
    obtain rfl := ht.resolve_left nofun
    rfl
  | some p =>
    obtain ⟨hle, huniq⟩ := hr p rfl
    simp only [lesserTrap]
    split
    · rcases ht with hp | rfl
      · obtain rfl := Option.some.inj hp
        omega
      · rfl
    · rcases ht with hp | rfl
      · exact hp
      · rw [huniq (by omega)]

theorem foldl_lesserTrap {t : PendTrap} (l : List PendTrap) (hl : ∀ q ∈ l, t.code ≤ q.code ∧ (q.code = t.code → q = t)) :
    ∀ r : Option PendTrap, (∀ p, r = some p → t.code ≤ p.code ∧ (p.code = t.code → p = t)) → (r = some t ∨ t ∈ l) →
      l.foldl lesserTrap r = some t := by
  induction l with
  | nil => exact fun r _ ht => ht.resolve_right List.not_mem_nil
  | cons q l ih =>
    intro r hr ht
    obtain ⟨hq, hl⟩ := List.forall_mem_cons.1 hl
    refine ih hl _ (fun p hp => ?_) ?_
    · cases r with
      | none =>
        obtain rfl := Option.some.inj hp
        exact hq
      | some p' =>
        simp only [lesserTrap] at hp
        split at hp
        · obtain rfl := Option.some.inj hp
          exact hq
        · exact hr p hp
    · rcases ht with ht | ht
      · exact .inl (lesserTrap_eq hr hq (.inl ht))
      rcases List.mem_cons.1 ht with ht | ht
      · exact .inl (lesserTrap_eq hr hq (.inr ht))
      · exact .inr ht

/-- DATA_POISON comes first, then the least code (R297). -/
theorem nextTrap_eq {l : List PendTrap} {t : PendTrap} (ht : t ∈ l) (huniq : ∀ q ∈ l, q.code = t.code → q = t)
    (hfirst : t.code = 0x15 ∨ ((∀ q ∈ l, q.code ≠ 0x15) ∧ ∀ q ∈ l, t.code ≤ q.code)) : nextTrap l = some t := by
  unfold nextTrap
  split
  case h_1 q hq =>
    have hcode : q.code = 0x15 := by simpa using List.find?_some hq
    have hmem := List.mem_of_find?_eq_some hq
    rcases hfirst with h | ⟨hnone, -⟩
    · rw [huniq q hmem (hcode.trans h.symm)]
    · exact absurd hcode (hnone q hmem)
  case h_2 hnone =>
    have hno : ∀ q ∈ l, q.code ≠ 0x15 := by simpa using List.find?_eq_none.1 hnone
    have hleast := (hfirst.resolve_left (hno t ht)).2
    exact foldl_lesserTrap l (fun q hq => ⟨hleast q hq, huniq q hq⟩) none nofun (.inr ht)

/-! ### Where a trap at a boundary leaves the drill -/

/-- Drill d of s, taken at a boundary, has gone to a vector in t as d' (R85, R88, R293, R298). -/
structure Taken (s t : State) (k : Nat) (d d' : Drill) (vec : DWord) (routine : Nat) : Prop where
  drill : t.drill? k = some d'
  mode : d'.sysMode = true ∧ d'.routine = routine
  place : d'.pc = vec ∧ d'.swathPc = vec ∧ d'.idxInSwath = 0 ∧ d'.st = .ready
  masks : d'.cm = d.cm ∧ d'.maskStack = d.maskStack
  pending : d.pendTraps ⊆ d'.pendTraps
  overrun : d'.pendOverrun = d.pendOverrun
  others : ∀ j, j ≠ k → t.drill? j = s.drill? j

section
variable {s : State} {k : Nat} {d : Drill} {g : Machine.Group} {c : Context}

/-- A drill that goes to a vector as e, which is d but for its record and its landings. -/
theorem taken_toVector {u : State} {e : Drill} (he : u.drill? k = some e) (hg : u.group? e.gid = some g) (hc : u.ctx? g.ctx = some c)
    (hmasks : e.cm = d.cm ∧ e.maskStack = d.maskStack) (hpend : d.pendTraps ⊆ e.pendTraps) (hover : e.pendOverrun = d.pendOverrun)
    (hothers : ∀ j, j ≠ k → u.drill? j = s.drill? j) (vec : DWord) (routine : Nat) :
    ∃ d', Taken s (u.toVector k vec routine) k d d' vec routine ∧ d'.tcause = e.tcause ∧ d'.epc = e.epc ∧ d'.xi = e.xi := by
  rw [toVector_eq he hg hc]
  obtain ⟨hmode, hplace, ⟨hcm, hstack⟩, -, ⟨hcause, -, -, hepc⟩, ⟨hxi, -⟩, ⟨hpend', hover'⟩, -⟩ := atVector_entered g c e vec routine
  refine ⟨_, ⟨drill_setDrill_self _ _ _, hmode, hplace, ⟨hcm.trans hmasks.1, hstack.trans hmasks.2⟩, hpend' ▸ hpend, hover'.trans hover,
    fun j hj => ?_⟩, hcause, hepc, hxi⟩
  rw [Laws.drill_setDrill, if_neg (Ne.symm hj), hothers j hj]

section
variable (hd : s.drill? k = some d) (hg : s.group? d.gid = some g) (hc : s.ctx? g.ctx = some c) (hmode : d.sysMode = false)
variable {t : TrapReq} (hfaults : t.faults = []) (valid : Bool) (idx : Nat)
include hd hg hc hmode hfaults

/-- A trap taken at a boundary goes to TRAPVEC (R293). -/
theorem taken_trapvec (hcall : t.code ≠ 0x30) (hpreempt : t.code ≠ 0x32) (hvec : c.trapvec ≠ 0) :
    ∃ d', Taken s (s.takeTrap k t valid true idx) k d d' c.trapvec 0 ∧
      d'.tcause = BitVec.ofNat 32 (t.sub * 2 ^ 24 + t.station * 2 ^ 20 + 2 ^ 15 + t.code) ∧ d'.epc = t.epc.getD d.pc ∧
      d'.xi = if valid then packXi true t.tkd idx d.swathPc else 0 := by
  obtain ⟨e, H, hxi⟩ := halted_trapped hd t true idx valid
  rw [takeTrap_vectors hd hg hc valid true idx hfaults hmode hcall hpreempt hvec]
  generalize trapped s k d t valid true idx = u at H
  obtain ⟨g1, hg1, hctx1⟩ := H.group hg
  obtain ⟨g', hg', hctx', -⟩ := cancelSucc_spec hg1
  obtain ⟨c', hc'⟩ := H.ctx hc
  obtain ⟨hcause, -, -, hepc⟩ := H.record
  have hfind : (u.cancelSucc d.gid).ctx? g'.ctx = some c' := (congrArg u.ctx? (hctx'.trans hctx1)).trans hc'
  obtain ⟨d', hd', hcause', hepc', hxi'⟩ := taken_toVector ((drill_cancelSucc u d.gid k).trans H.drill) (H.gid ▸ hg') hfind H.masks H.pending
    H.pendOverrun (fun j hj => (drill_cancelSucc u d.gid j).trans (H.others j hj)) c.trapvec 0
  exact ⟨d', hd', by simpa using hcause'.trans hcause, hepc'.trans hepc, hxi'.trans hxi⟩

/-- A pre-emption taken at a boundary goes to SAVEVEC (R272). -/
theorem taken_savevec (hpreempt : t.code = 0x32) :
    ∃ d', Taken s (s.takeTrap k t valid true idx) k d d' c.savevec 1 ∧
      d'.tcause = BitVec.ofNat 32 (t.sub * 2 ^ 24 + t.station * 2 ^ 20 + 2 ^ 15 + t.code) ∧ d'.epc = t.epc.getD d.pc ∧
      d'.xi = if valid then packXi true t.tkd idx d.swathPc else 0 := by
  obtain ⟨e, H, hxi⟩ := halted_trapped hd t true idx valid
  rw [takeTrap_preempts hd hg hc valid true idx hfaults hmode hpreempt]
  generalize trapped s k d t valid true idx = u at H
  obtain ⟨g', hg', hctx'⟩ := H.group hg
  obtain ⟨c', hc'⟩ := H.ctx hc
  obtain ⟨hcause, -, -, hepc⟩ := H.record
  obtain ⟨d', hd', hcause', hepc', hxi'⟩ := taken_toVector H.drill (H.gid ▸ hg') (hctx' ▸ hc') H.masks H.pending H.pendOverrun H.others c.savevec 1
  exact ⟨d', hd', by simpa using hcause'.trans hcause, hepc'.trans hepc, hxi'.trans hxi⟩

end

/-- A drill that leaves a park for a pre-emption keeps its snapshot (R86, R272). -/
theorem taken_leavePark (hd : s.drill? k = some d) (hg : s.group? d.gid = some g) (hc : s.ctx? g.ctx = some c) {recs : List Nat}
    (hpark : d.park = some (.faults recs)) :
    ∃ d', Taken s (s.leavePark k d 0x32) k d d' c.savevec 1 ∧ d'.tcause = 0x8032 ∧ d'.epc = d.epc ∧ d'.xi = d.xi := by
  have hend : s.endPark k d = s := by simp [State.endPark, hpark]
  have hleave : s.leavePark k d 0x32 = (s.modDrill k fun e => e.record 0x32 0 0 true 0 e.cm e.epc).toVector k c.savevec 1 := by
    simp [State.leavePark, hend, hg, hc]
  have hrecord : (s.modDrill k fun e => e.record 0x32 0 0 true 0 e.cm e.epc).drill? k = some (d.record 0x32 0 0 true 0 d.cm d.epc) := by
    simp [hd]
  have hothers (j : Nat) (hj : j ≠ k) : (s.modDrill k fun e => e.record 0x32 0 0 true 0 e.cm e.epc).drill? j = s.drill? j := by
    simp [Ne.symm hj]
  rw [hleave]
  exact taken_toVector (d := d) hrecord hg hc ⟨rfl, rfl⟩ (List.Subset.refl d.pendTraps) rfl hothers c.savevec 1

/-- What a drill at a vector is, in the words of the statement. -/
theorem Taken.vectors {s0 t : State} {d0 d' : Drill} {vec : DWord} {routine : Nat} (T : Taken s0 t k d0 d' vec routine) (hcm : d0.cm = d.cm)
    (hstack : d0.maskStack = d.maskStack) (hothers : ∀ j, j ≠ k → s0.drill? j = s.drill? j) {cause : Word} (hcause : d'.tcause = cause)
    {P : Drill → Prop} (hP : P d') : ∃ d', t.drill? k = some d' ∧ d'.sysMode = true ∧ d'.routine = routine ∧ d'.pc = vec ∧ d'.swathPc = vec ∧
      d'.idxInSwath = 0 ∧ d'.st = .ready ∧ d'.cm = d.cm ∧ d'.maskStack = d.maskStack ∧ d'.tcause = cause ∧ P d' ∧
      ∀ j, j ≠ k → t.drill? j = s.drill? j := by
  obtain ⟨hdrill, ⟨hsys, hroutine⟩, ⟨hpc, hswath, hidx, hst⟩, ⟨hcm', hstack'⟩, -, -, hkept⟩ := T
  exact ⟨d', hdrill, hsys, hroutine, hpc, hswath, hidx, hst, hcm'.trans hcm, hstack'.trans hstack, hcause, hP,
    fun j hj => (hkept j hj).trans (hothers j hj)⟩

end

/-! ### The delivery of a user-level interrupt -/

section
variable (a b : Nat → Word) (n : Nat) (d : Drill)

/-- The registers of two banks take what is given for them. -/
def swapped : Drill := (List.range n).foldl (fun e j => (e.putS j (a j)).putS (64 + j) (b j)) d

theorem swapped_succ : swapped a b (n + 1) d = ((swapped a b n d).putS n (a n)).putS (64 + n) (b n) := by
  rw [swapped, List.range_succ, List.foldl_append]
  rfl

theorem bare_swapped : { swapped a b n d with s := [] } = { d with s := [] } := by
  induction n with
  | zero => rfl
  | succ n ih =>
    rw [swapped_succ]
    exact ih

theorem sAt_swapped (r : Nat) (hn : n ≤ 64) : (swapped a b n d).sAt r =
    if r < n then a r else if 64 ≤ r ∧ r < 64 + n then b (r - 64) else d.sAt r := by
  induction n with
  | zero => rw [if_neg (by omega), if_neg (by omega)]; rfl
  | succ n ih =>
    rw [swapped_succ, Laws.sAt_putS, Laws.sAt_putS, ih (by omega)]
    by_cases hhigh : 64 + n = r
    · subst hhigh
      rw [if_pos rfl, if_neg (by omega), if_pos (by omega), Nat.add_sub_cancel_left]
    by_cases hlow : n = r
    · subst hlow
      rw [if_neg hhigh, if_pos rfl, if_pos (by omega)]
    · rw [if_neg hhigh, if_neg hlow]
      exact if_congr (by omega) rfl (if_congr (by omega) rfl rfl)

end

/-- A drill as the exchange of its banks leaves it (R186). -/
theorem swapBanks_eq (d : Drill) : ∃ ops, d.swapBanks = { swapped (fun j => d.sAt (64 + j)) (fun j => d.sAt j) 8 d with ops := ops } := ⟨_, rfl⟩

theorem sAt_swapBanks (d : Drill) (r : Nat) : d.swapBanks.sAt r =
    if r < 8 then d.sAt (64 + r) else if 64 ≤ r ∧ r < 72 then d.sAt (r - 64) else d.sAt r := by
  obtain ⟨ops, h⟩ := swapBanks_eq d
  have hswapped := sAt_swapped (fun j => d.sAt (64 + j)) (fun j => d.sAt j) 8 d r (by omega)
  generalize swapped _ _ 8 d = e at h hswapped
  rw [h]
  exact hswapped

/-- A drill without its uniform registers and the operations that land in them. -/
def bankless (d : Drill) : Drill := { d with s := [], ops := [] }

theorem bankless_swapBanks (d : Drill) : bankless d.swapBanks = bankless d := by
  obtain ⟨ops, h⟩ := swapBanks_eq d
  have hbare := bare_swapped (fun j => d.sAt (64 + j)) (fun j => d.sAt j) 8 d
  generalize swapped _ _ 8 d = e at h hbare
  rw [h]
  exact congrArg (fun e : Drill => { e with ops := [] }) hbare

section
variable {s : State} {k : Nat} {d : Drill} (hd : s.drill? k = some d) (hland : d.landings = [])
include hd hland

theorem advance_idle : s.advance k = s.setDrill k { d with n := d.n + 1 } := by
  rw [State.advance, hd]
  cases d
  subst hland
  rfl

/-- Cycles pass for a drill with no landings (R74). -/
theorem landAll_idle : ∃ n, (s.landAll k).drill? k = some { d with n := n } ∧ (∀ j, j ≠ k → (s.landAll k).drill? j = s.drill? j) ∧
    SameMemory s (s.landAll k) := by
  have hrange (l : List Nat) : ∀ {s d}, s.drill? k = some d → d.landings = [] → ∃ n,
      (l.foldl (fun s _ => s.advance k) s).drill? k = some { d with n := n } ∧
      (∀ j, j ≠ k → (l.foldl (fun s _ => s.advance k) s).drill? j = s.drill? j) ∧ SameMemory s (l.foldl (fun s _ => s.advance k) s) := by
    induction l with
    | nil => exact fun {s d} hd _ => ⟨d.n, hd, fun _ _ => rfl, rfl, rfl, rfl, rfl⟩
    | cons x l ih =>
      intro s d hd hland
      obtain ⟨n, hn, hothers, hmem⟩ := ih (s := s.setDrill k { d with n := d.n + 1 }) (drill_setDrill_self _ _ _) hland
      rw [List.foldl_cons, advance_idle hd hland]
      exact ⟨n, hn, fun j hj => (hothers j hj).trans (by simp [Ne.symm hj]), hmem⟩
  exact hrange _ hd hland

end

theorem complete_nothing (s : State) (k : Nat) : s.complete k 0 0 = s := modDrill_id s k fun _ => rfl

/-- A delivery at the boundary of a swath exchanges the banks, pushes the mask and goes to UIVEC (R186). -/
theorem deliver_spec {s : State} {k : Nat} {d : Drill} (hd : s.drill? k = some d) (hland : d.landings = []) (hwait : d.longWait = none)
    (g : Machine.Group) : ∃ d', (s.deliver k g).drill? k = some d' ∧ d'.pc = d.uivec ∧
      d'.uiepc = d.pc ∧ d'.uiAct = true ∧ d'.uiPend = 0 ∧ d'.uiPi = false ∧ d'.uiPo = false ∧ d'.maskStack = d.cm :: d.maskStack ∧
      d'.cm = presentLanes g.g d.idx ∧ d'.sAt 0 = BitVec.ofNat 32 (d.uiPend + d.uiPi.toNat * 256 + d.uiPo.toNat * 512) ∧
      (∀ j < 8, d'.sAt (64 + j) = d.sAt j ∧ (1 ≤ j → d'.sAt j = d.sAt (64 + j))) ∧ (∀ r, 8 ≤ r → r < 64 → d'.sAt r = d.sAt r) ∧
      d'.v = d.v ∧ d'.k = d.k ∧ d'.sysMode = d.sysMode ∧ SameMemory s (s.deliver k g) ∧ ∀ j, j ≠ k → (s.deliver k g).drill? j = s.drill? j := by
  obtain ⟨n, hn, hothers, hmem⟩ := landAll_idle hd hland
  obtain ⟨e, he⟩ : ∃ e, e = { d with n := n } := ⟨_, rfl⟩
  have hwait' : e.longWait = none := by rw [he]; exact hwait
  have hsAt := sAt_swapBanks e
  have hbare := bankless_swapBanks e
  rw [← he] at hn
  unfold State.deliver
  generalize s.landAll k = u at hn hothers hmem
  dsimp only
  rw [hn]
  simp only [hwait', Option.getD_none, complete_nothing]
  generalize e.swapBanks = e' at hsAt hbare
  subst he
  generalize BitVec.ofNat 32 (d.uiPend + d.uiPi.toNat * 256 + d.uiPo.toNat * 512) = word
  have hput (r : Nat) : (e'.putS 0 word).sAt r = if 0 = r then word else e'.sAt r := Laws.sAt_putS _ _ _ _
  refine ⟨_, drill_setDrill_self _ _ _, rfl, rfl, rfl, rfl, rfl, rfl, rfl, rfl, (hput 0).trans (if_pos rfl), fun j hj => ⟨?high, fun hpos => ?low⟩,
    fun r hlo hhi => ?mid, (congrArg Drill.v hbare :), (congrArg Drill.k hbare :), (congrArg Drill.sysMode hbare :), hmem, fun j hj => ?others⟩
  case high =>
    refine (hput _).trans ?_
    rw [if_neg (by omega), hsAt, if_neg (by omega), if_pos (by omega), Nat.add_sub_cancel_left]
    rfl
  case low =>
    refine (hput _).trans ?_
    rw [if_neg (by omega), hsAt, if_pos hj]
    rfl
  case mid =>
    refine (hput _).trans ?_
    rw [if_neg (by omega), hsAt, if_neg (by omega), if_neg (by omega)]
    rfl
  case others => simpa [Ne.symm hj] using hothers j hj

/-! ### BUDGET_EXHAUSTED -/

/-- A drill as the exhausted budget of a context leaves it (R275, R308). -/
def overrunBy (s : State) (n : Nat) (d : Drill) : Drill :=
  if d.st ≠ .done && (match s.group? d.gid with
    | some g => g.ctx = n && (g.st = .running || g.st = .restoring)
    | none => false) then { d with pendOverrun := true } else d

theorem overrunBy_eq {s : State} {n : Nat} {d : Drill} {g : Machine.Group} (hg : s.group? d.gid = some g) : overrunBy s n d =
    if d.st ≠ .done ∧ g.ctx = n ∧ (g.st = .running ∨ g.st = .restoring) then { d with pendOverrun := true } else d := by
  simp [overrunBy, hg]

theorem execBudgetExhausted_armed {s : State} {n : Nat} {c : Context} (hc : s.ctx? n = some c) (hst : c.st = .active) (hbudget : c.budget = 0)
    (harmed : c.armed = true) : execBudgetExhausted n s =
      .next { s.modCtx n fun c => { c with armed := false } with drills := tblMap s.drills fun _ d => overrunBy s n d } := by
  have hgo : (c.st ≠ .active || c.budget ≠ 0 || !c.armed) = false := by simp [hst, hbudget, harmed]
  simp only [execBudgetExhausted, hc, hgo]
  rfl

/-- Settles O50, by the branches of each event. -/
theorem boundaryEvents : Obligations.BoundaryEvents := by
  intro s k d g c hd hg hc
  have hgroup : s.groupSt d = g.st := by simp [State.groupSt, hg]
  dsimp only
  refine ⟨?trap, ?noTrap, ?overrun, ?noOverrun, ?preempt, ?unpark, ?noPreempt, ?budget, ?noBudget, ?deliver, ?noDeliver⟩
  case trap =>
    intro t ht ⟨hb, hp, hmode⟩ huniq hcall hpre hvec hfirst
    have hnext := nextTrap_eq ht huniq hfirst
    have hgo : exec (.boundaryTrap k) s = .next ((s.setDrill k { d with pendTraps := d.pendTraps.filter (·.code ≠ t.code) }).boundaryTake k d
        { code := t.code, sub := t.sub, station := t.station }) := by
      show execBoundaryTrap k s = _
      simp [execBoundaryTrap, hd, hb, hp, hnext, hmode]
    obtain ⟨d', T, hcause, hepc, hxi⟩ := taken_trapvec (s := s.setDrill k { d with pendTraps := d.pendTraps.filter (·.code ≠ t.code) })
      (drill_setDrill_self _ _ _) hg hc hmode (t := { code := t.code, sub := t.sub, station := t.station, tkd := d.skipTk0 }) rfl d.mid d.idxInSwath
      hcall hpre hvec
    refine ⟨_, hgo, T.vectors rfl rfl (fun j hj => by simp [Ne.symm hj]) hcause ⟨⟨hepc, hxi⟩, fun q hq hne => T.pending ?_⟩⟩
    exact List.mem_filter.2 ⟨hq, by simpa using fun h => hne (huniq q hq h)⟩
  case noTrap =>
    intro ⟨hb, hp, hmode⟩ hnone
    show execBoundaryTrap k s = _
    simp [execBoundaryTrap, hd, hb, hp, hnone, nextTrap]
  case overrun =>
    intro ⟨hb, hp, hmode⟩ hnone hover hst hvec
    have hdue : s.overrunDue d = true := by simp [State.overrunDue, hover, hmode, hgroup, hst]
    have hpark : ¬d.st = .parked := by
      intro h
      simp [State.atBoundary, h] at hb
    have hgo : exec (.overrun k) s = .next ((s.setDrill k { d with pendOverrun := false }).boundaryTake k d { code := 0x31 }) := by
      show execOverrun k s = _
      simp [execOverrun, hd, hdue, hpark, hb, Drill.errorDue, hp, hnone]
    obtain ⟨d', T, hcause, hepc, hxi⟩ := taken_trapvec (s := s.setDrill k { d with pendOverrun := false })
      (drill_setDrill_self _ _ _) hg hc hmode (t := { code := 0x31, tkd := d.skipTk0 }) rfl d.mid d.idxInSwath (show 0x31 ≠ 0x30 by decide)
      (show 0x31 ≠ 0x32 by decide) hvec
    exact ⟨_, hgo, T.vectors rfl rfl (fun j hj => by simp [Ne.symm hj]) hcause ⟨⟨hepc, hxi⟩, T.overrun⟩⟩
  case noOverrun =>
    intro hover
    show execOverrun k s = _
    simp [execOverrun, hd, State.overrunDue, hover]
  case preempt =>
    intro ⟨hb, hp, hmode⟩ hnone hst hdone
    have hdue : s.preemptDue d = true := by simp [State.preemptDue, hmode, hgroup, hst, hdone]
    have hpark : ¬d.st = .parked := by
      intro h
      simp [State.atBoundary, h] at hb
    have hgo : exec (.preempt k) s = .next (s.boundaryTake k d { code := 0x32 }) := by
      show execPreempt k s = _
      simp [execPreempt, hd, hdue, hpark, hb, Drill.errorDue, hp, hnone]
    obtain ⟨d', T, hcause, hepc, hxi⟩ := taken_savevec hd hg hc hmode (t := { code := 0x32, tkd := d.skipTk0 }) rfl d.mid d.idxInSwath rfl
    exact ⟨_, hgo, T.vectors rfl rfl (fun j hj => rfl) hcause ⟨hepc, hxi⟩⟩
  case unpark =>
    intro recs hparked hpark hheld hmode hst
    have hdue : s.preemptDue d = true := by simp [State.preemptDue, hmode, hgroup, hst, hparked]
    have hgo : exec (.preempt k) s = .next (s.leavePark k d 0x32) := by
      show execPreempt k s = _
      simp [execPreempt, hd, hdue, hparked, hheld]
    obtain ⟨d', T, hcause, hepc, hxi⟩ := taken_leavePark hd hg hc hpark
    exact ⟨_, hgo, T.vectors rfl rfl (fun j hj => rfl) hcause ⟨hepc, hxi⟩⟩
  case noPreempt =>
    intro hst
    show execPreempt k s = _
    simp [execPreempt, hd, State.preemptDue, hgroup, hst]
  case budget =>
    intro n cx hcx hst hbudget harmed
    refine ⟨_, execBudgetExhausted_armed hcx hst hbudget harmed, by simp [State.modCtx, State.ctx?, show tblGet? s.ctxs n = some cx from hcx],
      ⟨rfl, rfl, rfl, rfl⟩, fun j e h he hh => ?_⟩
    rw [← overrunBy_eq hh]
    exact (Laws.tblGet?_map s.drills j fun _ => overrunBy s n).trans (congrArg (Option.map (overrunBy s n)) he)
  case noBudget =>
    intro n cx hcx hnot
    show execBudgetExhausted n s = _
    have hskip : (cx.st ≠ .active || cx.budget ≠ 0 || !cx.armed) = true := by
      rcases hnot with h | h | h <;> simp [h]
    simp only [execBudgetExhausted, hcx, hskip, if_true]
  case deliver =>
    intro hst hidx hland hwait htk hheld hui herr hover hpre
    have hgo : exec (.userInterruptDelivery k) s = .next (s.deliver k g) := by
      show execUserInterruptDelivery k s = _
      simp [execUserInterruptDelivery, hd, hg, hst, hidx, htk, hheld, hui, herr, hover, hpre, State.metNow, hwait, Drill.landed, hland]
    exact ⟨_, hgo, deliver_spec hd hland hwait g⟩
  case noDeliver =>
    intro hui
    show execUserInterruptDelivery k s = _
    simp [execUserInterruptDelivery, hd, hg, hui]

end Sys2Proof.Proofs
end

section
/-!
PROOFS about arbitration, stalls, cycles and waits of drills (R69-R71, R74, R85, R306): who wins a slot, and what the end of a stall or of
a wait leaves of the machine.
-/
namespace Sys2Proof.Proofs
open Sys2Proof.Machine

theorem sameMemory_of_beyond {s t : State} (h : Laws.beyond t = Laws.beyond s) : SameMemory s t :=
  ⟨(congrArg State.mem h :), (congrArg State.poison h :), (congrArg State.owned h :), (congrArg State.sharers h :)⟩

theorem drill_setDrill_ne {s : State} {k j : Nat} {d : Drill} (h : j ≠ k) : (s.setDrill k d).drill? j = s.drill? j := by
  simp [Ne.symm h]

/-- A drill's record is put in place: no other drill, and no memory, changes. -/
theorem setDrill_moves (s : State) (k : Nat) (d : Drill) : (s.setDrill k d).drill? k = some d ∧
    (∀ j, j ≠ k → (s.setDrill k d).drill? j = s.drill? j) ∧ SameMemory s (s.setDrill k d) :=
  ⟨drill_setDrill_self s k d, fun _ => drill_setDrill_ne, rfl, rfl, rfl, rfl⟩

/-! ### Arbitration -/

section
variable {s : State} {die core slot : Nat}

theorem any_busy : ((s.coreDrills (die * 128 + core)).any fun p => p.2.slot = slot && (p.2.st = .issuing || p.2.st = .stalled)) = true ↔
    ∃ p ∈ s.drills, drillCore p.1 = die * 128 + core ∧ p.2.slot = slot ∧ (p.2.st = .issuing ∨ p.2.st = .stalled) := by
  simp [State.coreDrills]

theorem mem_ready {p : Nat × Drill} : p ∈ (s.coreDrills (die * 128 + core)).filter (fun p => s.eligible p.2 slot) ↔
    p ∈ s.drills ∧ drillCore p.1 = die * 128 + core ∧ s.eligible p.2 slot = true := by
  simp only [State.coreDrills, List.mem_filter, decide_eq_true_eq, and_assoc]

/-- The drill that wins a slot, if any can: one after the position that won last, else the first (R69). -/
def winner (s : State) (die core slot : Nat) : Option (Nat × Drill) :=
  let ready := (s.coreDrills (die * 128 + core)).filter fun p => s.eligible p.2 slot
  (ready.find? fun p => tblGet (s.core (die * 128 + core)).rr slot 63 < drillPos p.1).or ready.head?

theorem winner_mem {p : Nat × Drill} (h : winner s die core slot = some p) :
    p ∈ s.drills ∧ drillCore p.1 = die * 128 + core ∧ s.eligible p.2 slot = true := by
  refine mem_ready.1 ?_
  rcases Option.or_eq_some_iff.1 h with h | ⟨-, h⟩
  · exact List.mem_of_find?_eq_some h
  · exact List.mem_of_head? h

theorem winner_eq_none : winner s die core slot = none ↔
    ∀ p ∈ s.drills, ¬(drillCore p.1 = die * 128 + core ∧ s.eligible p.2 slot = true) := by
  simp only [winner, Option.or_eq_none_iff, List.head?_eq_none_iff, List.eq_nil_iff_forall_not_mem, mem_ready]
  constructor
  · rintro ⟨-, h⟩ p hp hcan
    exact h p ⟨hp, hcan⟩
  · intro h
    refine ⟨List.find?_eq_none.2 fun p hp => absurd (mem_ready.1 hp).2 (h p (mem_ready.1 hp).1), fun p hp => h p hp.1 hp.2⟩

theorem execSwathArbitration_eq : execSwathArbitration die core slot s =
    if (s.held || (s.coreDrills (die * 128 + core)).any fun p => p.2.slot = slot && (p.2.st = .issuing || p.2.st = .stalled)) = true then .next s
    else match winner s die core slot with
      | none => .next s
      | some (k, d) => .next ((s.setCore (die * 128 + core) { s.core (die * 128 + core) with
          rr := tblSet (s.core (die * 128 + core)).rr slot (drillPos k) }).setDrill k { d with st := .issuing, stall := none }) := rfl

theorem core_setCore (s : State) (c : Nat) (x : Core) : (s.setCore c x).core c = x := by
  simp [State.core, State.setCore, tblGet]

end

/-! ### Stalls and waits -/

/-- A wait that is abandoned ends its drill's instruction; the trap stays (R249, R281). -/
theorem abandonWait_spec {s : State} {k : Nat} {d : Drill} (e : Bool) {t : PendTrap} (ht : t ∈ d.pendTraps) :
    ∃ d', (s.abandonWait k d e).drill? k = some d' ∧ d'.st = (if e then .ready else .issuing) ∧ d'.pc = d.pc + 8 ∧ d'.longWait = none ∧
      t ∈ d'.pendTraps ∧ SameMemory s (s.abandonWait k d e) ∧ ∀ j, j ≠ k → (s.abandonWait k d e).drill? j = s.drill? j := by
  obtain ⟨d', W, -⟩ := waited_advance (drill_setDrill_self s k ((d.fetchOn d.pc).stepOn e (d.pc + 8)))
  have hpend : ((d.fetchOn d.pc).stepOn e (d.pc + 8)).pendTraps = d.pendTraps := by cases e <;> rfl
  have hst : ((d.fetchOn d.pc).stepOn e (d.pc + 8)).st = if e then .ready else .issuing := by cases e <;> rfl
  have hpc : ((d.fetchOn d.pc).stepOn e (d.pc + 8)).pc = d.pc + 8 := by cases e <;> rfl
  have hwait : ((d.fetchOn d.pc).stepOn e (d.pc + 8)).longWait = none := by cases e <;> rfl
  exact ⟨d', W.drill, (congrArg Drill.st W.still : ).trans hst, (congrArg Drill.pc W.still : ).trans hpc,
    (congrArg Drill.longWait W.still : ).trans hwait, W.pending (hpend ▸ ht), sameMemory_of_beyond W.beyond,
    fun j hj => (W.others j hj).trans (drill_setDrill_ne hj)⟩

theorem mem_of_lostTrap {d : Drill} {t : PendTrap} (h : d.lostTrap = some t) : t ∈ d.pendTraps := by
  unfold Drill.lostTrap at h
  split at h
  · exact List.mem_of_find?_eq_some h
  · exact List.mem_of_find?_eq_some h
  · exact List.mem_of_find?_eq_some h
  · cases h

section
variable {s : State} {k : Nat} {d : Drill} (hd : s.drill? k = some d)
include hd

/-- What the drill stalls on is over: it goes on issuing (R70). -/
theorem stallEnd_issues {w : Stall} (hst : d.st = .stalled) (hstall : d.stall = some w) (hheld : s.held = false)
    (hover : s.stallOver k d w = true) (hdrain : w ≠ .drain) (hlost : d.lostTrap = none) :
    execStallEnd k s = .next (s.setDrill k { d with st := .issuing, stall := none }) := by
  unfold execStallEnd
  rw [hd]
  dsimp only
  rw [hstall]
  dsimp only
  rw [if_neg (by simp [hst, hheld, hover])]
  split
  · exact absurd rfl hdrain
  · have hmet : s.longMet k d = true := by simpa [State.stallOver, hlost] using hover
    rw [if_pos hmet]
  · rfl

/-- A condition that can come about no more: the wait is abandoned (R249, R281). -/
theorem stallEnd_abandons (hst : d.st = .stalled) (hstall : d.stall = some .cond) (hheld : s.held = false)
    (hover : s.stallOver k d .cond = true) (hmet : s.longMet k d = false) : execStallEnd k s = .next (s.abandonWait k d false) := by
  simp [execStallEnd, hd, hstall, hst, hheld, hover, hmet]

/-- The results that a trap waited for have come: it is taken (R88). -/
theorem stallEnd_traps (hst : d.st = .stalled) (hstall : d.stall = some .drain) (hheld : s.held = false)
    (hover : s.stallOver k d .drain = true) {t : TrapReq} (ht : d.trap = some t) :
    execStallEnd k s = .next (s.takeTrap k t (!(t.completed && d.idxInSwath = 0)) false d.idxInSwath) := by
  simp [execStallEnd, hd, hstall, hst, hheld, hover, ht]

theorem stallEnd_idle (h : d.st ≠ .stalled ∨ ∀ w, d.stall = some w → s.stallOver k d w = false) : execStallEnd k s = .next s := by
  simp only [execStallEnd, hd]
  split
  · rfl
  · rename_i w hw
    refine if_pos ?_
    rcases h with h | h
    · simp [h]
    · simp [h w hw]

omit hd in
theorem deadlinePast_iff {g : Machine.Group} (hg : s.group? d.gid = some g) {a : Src} {c : Ctl} (hwait : d.longWait = some (.sysWaiti a c)) :
    s.deadlinePast k d = true ↔ srcU64 { k := k, d := d, g := g, i := .sysWaiti a c, act := d.cm } a ≠ 0 ∧
      (srcU64 { k := k, d := d, g := g, i := .sysWaiti a c, act := d.cm } a).toNat ≤ s.gtime.toNat := by
  simp [State.deadlinePast, hg, hwait, BitVec.le_def]

end

section
variable {s : State} {die core slot : Nat}

/-- A drill that can win a free slot does, and its position is recorded (R69). -/
theorem swathArbitration_takes (hheld : s.held = false)
    (hfree : ¬∃ p ∈ s.drills, drillCore p.1 = die * 128 + core ∧ p.2.slot = slot ∧ (p.2.st = .issuing ∨ p.2.st = .stalled)) {p : Nat × Drill}
    (hp : p ∈ s.drills) (hcan : drillCore p.1 = die * 128 + core ∧ s.eligible p.2 slot = true) :
    Happens (.swathArbitration die core slot) s fun t => ∃ p ∈ s.drills, (drillCore p.1 = die * 128 + core ∧ s.eligible p.2 slot = true) ∧
      t.drill? p.1 = some { p.2 with st := .issuing, stall := none } ∧ (∀ j, j ≠ p.1 → t.drill? j = s.drill? j) ∧
      tblGet (t.core (die * 128 + core)).rr slot 63 = drillPos p.1 ∧ SameMemory s t := by
  have hgo : ¬(s.held || (s.coreDrills (die * 128 + core)).any fun p => p.2.slot = slot && (p.2.st = .issuing || p.2.st = .stalled)) = true := by
    rw [hheld, Bool.false_or, any_busy]
    exact hfree
  obtain ⟨q, hq⟩ := Option.ne_none_iff_exists'.1 fun hnone => winner_eq_none.1 hnone p hp hcan
  obtain ⟨hmem, hcan'⟩ := winner_mem hq
  show ∃ t, execSwathArbitration die core slot s = .next t ∧ _
  rw [execSwathArbitration_eq, if_neg hgo, hq]
  generalize hs : s.setCore (die * 128 + core) { s.core (die * 128 + core) with
    rr := tblSet (s.core (die * 128 + core)).rr slot (drillPos q.1) } = u
  obtain ⟨hdrill, hothers, hkept⟩ := setDrill_moves u q.1 { q.2 with st := .issuing, stall := none }
  subst hs
  refine ⟨_, rfl, q, hmem, hcan', hdrill, hothers, ?_, hkept⟩
  refine (congrArg (fun x : Core => tblGet x.rr slot 63) (core_setCore s (die * 128 + core) _)).trans ?_
  simp [tblGet]

theorem swathArbitration_idle
    (h : (∃ p ∈ s.drills, drillCore p.1 = die * 128 + core ∧ p.2.slot = slot ∧ (p.2.st = .issuing ∨ p.2.st = .stalled)) ∨
      ∀ p ∈ s.drills, ¬(drillCore p.1 = die * 128 + core ∧ s.eligible p.2 slot = true)) : Idle (.swathArbitration die core slot) s := by
  show execSwathArbitration die core slot s = _
  rw [execSwathArbitration_eq]
  split
  · rfl
  · rename_i hgo
    have hnone : winner s die core slot = none := by
      refine winner_eq_none.2 (h.resolve_left fun hbusy => hgo ?_)
      rw [any_busy.2 hbusy, Bool.or_true]
    rw [hnone]

end

end Sys2Proof.Proofs
end

section
/-!
PROOFS about instruction fetch (R123, R124, R399-R401): what a request, a line that comes and a line that cannot come leave of the
machine.
-/
namespace Sys2Proof.Proofs
open Sys2Proof.Machine

/-! ### A line is asked for -/

theorem drill_modDrill_self {s : State} {k : Nat} {d : Drill} (hd : s.drill? k = some d) (f : Drill → Drill) :
    (s.modDrill k f).drill? k = some (f d) := by
  simp [hd]

theorem mem_hold (d : Drill) (f : FetchLine) : f ∈ (d.hold f).fetch := by
  simp only [Drill.hold, List.length_append, List.length_singleton]
  rw [List.drop_append_of_le_length (by omega)]
  simp

theorem requestLine_spec (s : State) (c line : Nat) : (s.requestLine c line).drills = s.drills ∧ SameMemory s (s.requestLine c line) ∧
    (tblGet? (s.core c).icache line = none → line ∈ ((s.requestLine c line).core c).ifills) := by
  unfold State.requestLine
  dsimp only
  split
  case h_1 l hl => exact ⟨rfl, ⟨rfl, rfl, rfl, rfl⟩, fun hnone => nomatch hl.symm.trans hnone⟩
  case h_2 hl =>
    split
    · rename_i hmem
      exact ⟨rfl, ⟨rfl, rfl, rfl, rfl⟩, fun _ => List.contains_iff_mem.1 hmem⟩
    · refine ⟨rfl, ⟨rfl, rfl, rfl, rfl⟩, fun _ => ?_⟩
      rw [core_setCore]
      simp

/-- The buffer of drill k holds the place of a line that it has asked for (R123, R399). -/
theorem askLine_spec {s : State} {k : Nat} {d : Drill} (hd : s.drill? k = some d) (line pline : Nat) :
    let f : FetchLine := { line := line, data := tblGet? (s.core (drillCore k)).icache pline, pline := some pline }
    (s.askLine k line pline).drill? k = some (d.hold f) ∧ f ∈ (d.hold f).fetch ∧ SameMemory s (s.askLine k line pline) ∧
      (f.data = none → pline ∈ ((s.askLine k line pline).core (drillCore k)).ifills) := by
  obtain ⟨hdrills, hmem, hfill⟩ := requestLine_spec s (drillCore k) pline
  have hd' : (s.requestLine (drillCore k) pline).drill? k = some d := (congrArg (tblGet? · k) hdrills).trans hd
  exact ⟨by simp [State.askLine, hd'], mem_hold d _, hmem, hfill⟩

section
variable {s : State} {k : Nat} {d : Drill} {g : Machine.Group} {c : Context} (hd : s.drill? k = some d) (hg : s.group? d.gid = some g)
variable (hc : s.ctx? g.ctx = some c) {line : Nat} {rest : List Nat} (hwant : d.fetchWant = line :: rest)
include hd hg hc hwant

theorem fetchRequest_held {e : XlateFail}
    (hgo : (s.setDrill k { d with fetchWant := rest }).translate (drillChip k) c (BitVec.ofNat 64 (128 * line)) { x := true } = .error e)
    (hcause : e.cause = 0) : execFetchBufferRequest k s = .next ((s.setDrill k { d with fetchWant := rest }).setDrill k d) := by
  simp only [execFetchBufferRequest, hd, hwant, show (s.setDrill k { d with fetchWant := rest }).group? d.gid = some g from hg,
    show (s.setDrill k { d with fetchWant := rest }).ctx? g.ctx = some c from hc, hgo, hcause, if_true]

theorem fetchRequest_lost {e : XlateFail}
    (hgo : (s.setDrill k { d with fetchWant := rest }).translate (drillChip k) c (BitVec.ofNat 64 (128 * line)) { x := true } = .error e)
    (hcause : e.cause ≠ 0) : execFetchBufferRequest k s =
      .next ((s.setDrill k { d with fetchWant := rest }).modDrill k fun d => d.hold { line := line, data := none, pline := none }) := by
  simp only [execFetchBufferRequest, hd, hwant, show (s.setDrill k { d with fetchWant := rest }).group? d.gid = some g from hg,
    show (s.setDrill k { d with fetchWant := rest }).ctx? g.ctx = some c from hc, hgo, hcause, if_false]

theorem fetchRequest_asks {pa : Nat} {s1 : State}
    (hgo : (s.setDrill k { d with fetchWant := rest }).translate (drillChip k) c (BitVec.ofNat 64 (128 * line)) { x := true } = .ok (pa, s1))
    (hok : s1.fetchable g.ctx pa = true) : execFetchBufferRequest k s = .next (s1.askLine k line (pa / 128)) := by
  simp only [execFetchBufferRequest, hd, hwant, show (s.setDrill k { d with fetchWant := rest }).group? d.gid = some g from hg,
    show (s.setDrill k { d with fetchWant := rest }).ctx? g.ctx = some c from hc, hgo, hok, if_true]

end

/-! ### A line comes -/

theorem tblGet?_icacheFill (t : Tbl Line) (line : Nat) (data : Line) : tblGet? (icacheFill t line data) line = some data := by
  simp [icacheFill, tblGet?]

theorem mem_arrive {d : Drill} {f : FetchLine} {pline : Nat} (data : Line) (hf : f ∈ d.fetch) (hline : f.pline = some pline) (hdata : f.data = none)
    (hclean : f.poisoned = false) : { f with data := some data } ∈ (d.arrive pline data false).fetch := by
  refine List.mem_map.2 ⟨f, hf, ?_⟩
  simp [hline, hdata, hclean]

theorem icacheFill_happens {s : State} {die core line : Nat} (hfill : line ∈ (s.core (die * 128 + core)).ifills)
    (hgate : s.gateAt (4 + die) false (128 * line) ≠ .hold) (hclass : classOf (128 * line) = .cacheable) (hclean : s.poisoned (128 * line) = false)
    (hcore : core < 128) : Happens (.icacheFillDone die core line) s fun t =>
      tblGet? (t.core (die * 128 + core)).icache line = some (s.lineAt line) ∧ line ∉ (t.core (die * 128 + core)).ifills ∧ t.mem = s.mem ∧
        ∀ j e, s.drill? j = some e → drillCore j = die * 128 + core → t.drill? j = some (e.arrive line (s.lineAt line) false) := by
  have hchip : coreChip (die * 128 + core) = 4 + die := by
    unfold coreChip
    omega
  show ∃ t, execIcacheFillDone die core line s = .next t ∧ _
  unfold execIcacheFillDone
  dsimp only
  rw [coreKey, if_neg (by simp [hchip, hfill, hgate])]
  simp only [hclass, hclean, Bool.false_eq_true, if_false, decide_true, Bool.not_false, Bool.and_self, if_true]
  refine ⟨_, rfl, ?_, ?_, Laws.shareLine_mem _ _ _, fun j e he hj => ?_⟩
  · exact (congrArg (fun x : Core => tblGet? x.icache line) (core_setCore _ (die * 128 + core) _)).trans (tblGet?_icacheFill _ _ _)
  · refine fun hmem => ?_
    have hmem' := (congrArg (fun x : Core => line ∈ x.ifills) (core_setCore _ (die * 128 + core) _)).mp hmem
    simp at hmem'
  · refine (Laws.tblGet?_map (s.shareLine (coreChip (die * 128 + core)) line).drills j fun k d =>
      if drillCore k = die * 128 + core then d.arrive line (s.lineAt line) false else d).trans ?_
    rw [drills_shareLine]
    simp [show tblGet? s.drills j = some e from he, hj]

/-! ### A line cannot come -/

theorem foldl_fixed {α β : Type} {f : α → β → α} {a : α} {l : List β} (h : ∀ b ∈ l, f a b = a) : l.foldl f a = a := by
  induction l with
  | nil => rfl
  | cons b l ih =>
    rw [List.foldl_cons, h b List.mem_cons_self]
    exact ih fun b' hb' => h b' (List.mem_cons_of_mem _ hb')

section
variable (s : State) (chip : Nat)

theorem drill_msi (addr : DWord) (data k : Nat) : (s.msi addr data).drill? k = s.drill? k := by
  unfold State.msi State.msiFor
  split
  · rfl
  split
  · split
    · split <;> rfl
    · rfl
  · rfl

theorem drill_rewriteFault (n k : Nat) : (s.rewriteFault chip n).drill? k = s.drill? k := by
  unfold State.rewriteFault
  split
  · rfl
  dsimp only
  split
  · rfl
  · exact Laws.drill?_ioWrite _ s k

theorem drill_postFault (n k : Nat) : (s.postFault chip n).drill? k = s.drill? k := by
  unfold State.postFault
  dsimp only
  split
  · rfl
  split
  · rfl
  split
  · rfl
  split
  · rfl
  · rename_i r _ _ _ _
    have hwrite := Laws.drill?_ioWrite (runOf ((s.reg (dieReg chip 0x40000)).toNat / 2 ^ 17 * 2 ^ 17 +
      32 * field (s.reg (dieReg chip 0x4000C)) 0 12) (faultBytes chip r)) s k
    generalize s.ioWrite _ = u at hwrite ⊢
    exact (drill_msi _ _ _ k).trans hwrite

theorem drill_foldl {α : Type} {k : Nat} {f : State → α → State} (hf : ∀ s x, (f s x).drill? k = s.drill? k) (l : List α) (s : State) :
    (l.foldl f s).drill? k = s.drill? k := by
  induction l generalizing s with
  | nil => rfl
  | cons x l ih => exact (ih _).trans (hf s x)

/-- A fault of an agent is recorded: drills are as they were (R354). -/
theorem drill_faultNew (r : FaultRec) (k : Nat) : (s.faultNew chip r).2.drill? k = s.drill? k := by
  unfold State.faultNew
  dsimp only
  split
  · exact drill_rewriteFault _ chip _ k
  · unfold State.postFaults State.rewriteFaults
    exact (drill_foldl (fun s (p : Nat × FaultRec) => drill_postFault s chip p.1 k) _ _).trans
      (drill_foldl (fun s (p : Nat × FaultRec) => drill_rewriteFault s chip p.1 k) _ _)

end

section
variable {s : State} {chip : Nat}

theorem rewriteFault_fresh {n : Nat} (h : ∀ r, tblGet? (s.recs chip) n = some r → r.stale = false) : s.rewriteFault chip n = s := by
  unfold State.rewriteFault
  split
  · rfl
  · rename_i r hr
    simp [h r hr]

theorem postFault_off {n : Nat} (h : (s.reg (dieReg chip 0x40000)).getLsbD 0 = false) : s.postFault chip n = s := by
  unfold State.postFault
  dsimp only
  split
  · rfl
  · exact if_pos (by rw [h]; simp)

theorem postFaults_off (h : (s.reg (dieReg chip 0x40000)).getLsbD 0 = false)
    (hfresh : ∀ n r, tblGet? (s.recs chip) n = some r → r.stale = false) : s.postFaults chip = s := by
  have hrewrite : s.rewriteFaults chip = s := foldl_fixed fun p _ => rewriteFault_fresh (hfresh p.1)
  rw [State.postFaults, hrewrite]
  exact foldl_fixed fun p _ => postFault_off h

theorem recs_setRec (n : Nat) (r : FaultRec) : (s.setRec chip n r).recs chip = tblSet (s.recs chip) n r := by
  simp [State.recs, State.setRec, tblGet]

/-- Where the fault queue is off and no entry is behind its record, a fault is recorded and no more (R351, R354). -/
theorem mem_faultNew (h : (s.reg (dieReg chip 0x40000)).getLsbD 0 = false)
    (hrecs : ∀ x ∈ s.recs chip, x.2.st ≠ .pending ∧ x.2.stale = false) {r : FaultRec} (hr : r.stale = false) : (s.faultNew chip r).2.mem = s.mem := by
  unfold State.faultNew
  dsimp only
  split
  · rename_i n old hold
    obtain ⟨hpend, -⟩ := hrecs _ (List.mem_of_find?_eq_some hold)
    rw [rewriteFault_fresh]
    · rfl
    · intro r' hr'
      rw [recs_setRec, Laws.tblGet?_set, if_pos rfl] at hr'
      obtain rfl := Option.some.inj hr'
      simpa using hpend
  · rw [postFaults_off]
    · rfl
    · exact h
    · intro n r' hr'
      rw [recs_setRec, Laws.tblGet?_set] at hr'
      split at hr'
      · obtain rfl := Option.some.inj hr'
        exact hr
      · exact (hrecs _ (Laws.mem_of_tblGet? hr')).2

end

section
variable {s : State} {k : Nat} {d : Drill} {g : Machine.Group} {c : Context} (hd : s.drill? k = some d) (hg : s.group? d.gid = some g)
variable (hc : s.ctx? g.ctx = some c)
include hd hg hc

/-- A page fault of a drill in user mode parks it, with a record (R293, R352). -/
theorem raise_pageFault (hdrained : d.drained = true) (hmode : d.sysMode = false) {t : TrapReq} {f : DWord × Nat × Nat × Bool × Nat}
    (hfaults : t.faults = [f]) (hcompleted : t.completed = false) : ∃ d', (s.raise k t).drill? k = some d' ∧ d'.st = .parked ∧
      (∃ recs, d'.park = some (.faults recs)) ∧ d'.tcause = BitVec.ofNat 32 (t.sub * 2 ^ 24 + t.station * 2 ^ 20 + t.code) ∧ d'.tval = t.tval ∧
      d'.epc = t.epc.getD d.pc ∧ d'.sysMode = false ∧
      ((s.reg (dieReg (drillChip k) 0x40000)).getLsbD 0 = false → (∀ x ∈ s.recs (drillChip k), x.2.st ≠ .pending ∧ x.2.stale = false) →
        (s.raise k t).mem = s.mem) := by
  obtain ⟨e, H, -⟩ := halted_trapped hd t false d.idxInSwath true
  rw [raise_of_drained hd hdrained, hcompleted]
  simp only [Bool.false_and, Bool.not_false]
  rw [takeTrap_pages hd hg hc true false d.idxInSwath hmode (by simp [hfaults]), hfaults]
  generalize trapped s k d t true false d.idxInSwath = u at H
  obtain ⟨hcause, htval, -, hepc⟩ := H.record
  refine ⟨_, drill_parkOn ((drill_faultNew u (drillChip k) (faultOf k d g c.asid f) k).trans H.drill) _, rfl, ⟨_, rfl⟩, by simpa using hcause, htval, hepc,
    H.sysMode.trans hmode, fun hoff hrecs => ?_⟩
  have hregs : u.reg (dieReg (drillChip k) 0x40000) = s.reg (dieReg (drillChip k) 0x40000) :=
    (congrArg (fun v : State => v.reg (dieReg (drillChip k) 0x40000)) H.beyond :)
  have hfaultRecs : u.recs (drillChip k) = s.recs (drillChip k) := (congrArg (fun v : State => v.recs (drillChip k)) H.beyond :)
  exact (mem_faultNew (hregs ▸ hoff) (hfaultRecs ▸ hrecs) rfl).trans (congrArg State.mem H.beyond :)

variable (hfetching : s.fetching d = true) (hfetch : d.fetch = []) (hwant : d.fetchWant = [])
include hfetching hfetch hwant

theorem fetchFault_held {e : XlateFail} (hgo : s.translate (drillChip k) c d.pc { x := true } = .error e) (hcause : e.cause = 0) :
    execFetchFault k s = .next s := by
  simp [execFetchFault, hd, hg, hc, hfetching, hfetch, hwant, Drill.lineMissing, hgo, hcause]

theorem fetchFault_raises {e : XlateFail} (hgo : s.translate (drillChip k) c d.pc { x := true } = .error e) (hcause : e.cause ≠ 0)
    (hst : d.st = .issuing) : execFetchFault k s =
      .next (s.raise k { code := 0x11, tval := d.pc, faults := [(d.pc, e.cause, e.level, e.pin, 4)], tkd := d.skipTk0 }) := by
  simp [execFetchFault, hd, hg, hc, hfetching, hfetch, hwant, Drill.lineMissing, hgo, hcause, hst]

theorem fetchFault_asks {pa : Nat} {s1 : State} (hgo : s.translate (drillChip k) c d.pc { x := true } = .ok (pa, s1))
    (hbacked : s1.backed pa = true) (hgrant : s1.grantOk g.ctx pa = true) :
    execFetchFault k s = .next (s1.askLine k (d.pc.toNat / 128) (pa / 128)) := by
  simp [execFetchFault, hd, hg, hc, hfetching, hfetch, hwant, Drill.lineMissing, hgo, hbacked, hgrant]

end

end Sys2Proof.Proofs
end

section
/-!
PROOFS: the events of a drill's issue and of its fetch buffer (R69-R71, R74, R85, R123, R124, R306, R399, R401), assembled.
-/
namespace Sys2Proof.Proofs
open Sys2Proof.Machine

/-- Settles O51, by the branches of each event. -/
theorem drillEvents : Obligations.DrillEvents := by
  refine ⟨fun s k d hd => ⟨fun die core slot => ⟨fun hheld hfree ⟨p, hp, hcan⟩ => swathArbitration_takes hheld hfree hp hcan, swathArbitration_idle⟩,
    fun w hst hstall hheld => ⟨?issues, ?abandons, ?traps, fun hover => ?stalls⟩, fun hst => stallEnd_idle hd (.inl hst), ?cycle, ?noCycle,
    ?met, ?unmet, ?lost, ?noWait, ?deadline⟩, fun s k d g c hd hg hc => ⟨fun line rest hwant => ⟨?held, ?fails, ?asks⟩, ?noRequest,
    fun die core line => ⟨?comes, ?noFill⟩, fun e hfetching hst hfetch hwant hdrained hmode hgo => ⟨?waits, ?faults⟩, ?again, ?noFault⟩⟩
  case issues =>
    intro hover hdrain hlost
    exact ⟨_, stallEnd_issues hd hst hstall hheld hover hdrain hlost, setDrill_moves _ _ _⟩
  case abandons =>
    intro hover hw hmet t ht
    subst hw
    exact ⟨_, stallEnd_abandons hd hst hstall hheld hover hmet, abandonWait_spec false (mem_of_lostTrap ht)⟩
  case traps =>
    intro hover hw t ht
    subst hw
    exact stallEnd_traps hd hst hstall hheld hover ht
  case stalls =>
    refine stallEnd_idle hd (.inr fun w' hw' => ?_)
    obtain rfl := Option.some.inj (hstall.symm.trans hw')
    exact hover
  case cycle =>
    intro hissuing hstalled hresumed
    obtain ⟨e, W, hn, hleft⟩ := waited_advance hd
    have hgo : execResultLanding k s = .next (s.advance k) := by simp [execResultLanding, hd, hissuing, hstalled, hresumed]
    exact ⟨_, hgo, rfl, e, W.drill, hn, hleft, (congrArg Drill.pc W.still :), (congrArg Drill.st W.still :)⟩
  case noCycle =>
    intro h
    show execResultLanding k s = _
    rcases h with h | h | h <;> simp [execResultLanding, hd, h]
  case met =>
    intro hst hmet
    exact ⟨_, show execLongWaitMet k s = .next (s.setDrill k { d with st := .ready }) by simp [execLongWaitMet, hd, hst, hmet], setDrill_moves _ _ _⟩
  case unmet =>
    intro hst hmet h
    show execLongWaitMet k s = _
    rcases h with h | h <;> simp [execLongWaitMet, hd, hmet, h]
  case lost =>
    intro hst hmet hsys t ht
    exact ⟨_, show execLongWaitMet k s = .next (s.abandonWait k d true) by simp [execLongWaitMet, hd, hst, hmet, hsys, ht],
      abandonWait_spec true (mem_of_lostTrap ht)⟩
  case noWait =>
    intro hst
    show execLongWaitMet k s = _
    simp [execLongWaitMet, hd, hst]
  case deadline =>
    intro a ctl g hg hwait
    have hpast := deadlinePast_iff (k := k) hg hwait
    refine ⟨fun hset hcome hst => ?_, fun hset hcome hst hstall hheld => ?_, fun h => ?_⟩
    · have hdue := hpast.2 ⟨hset, hcome⟩
      exact ⟨_, show execWaitiDeadline k s = .next (s.setDrill k { d with st := .ready }) by simp [execWaitiDeadline, hd, hst, hdue],
        setDrill_moves _ _ _⟩
    · have hdue := hpast.2 ⟨hset, hcome⟩
      exact ⟨_, show execWaitiDeadline k s = .next (s.setDrill k { d with st := .issuing, stall := none }) by
        simp [execWaitiDeadline, hd, hst, hstall, hheld, hdue], setDrill_moves _ _ _⟩
    · have hdue : s.deadlinePast k d = false := by
        refine Bool.eq_false_iff.2 fun hdue => ?_
        obtain ⟨hset, hcome⟩ := hpast.1 hdue
        rcases h with h | h
        · exact hset h
        · omega
      show execWaitiDeadline k s = _
      simp [execWaitiDeadline, hd, hdue]
  case held =>
    intro e hgo hcause
    exact ⟨_, fetchRequest_held hd hg hc hwant hgo hcause, drill_setDrill_self _ _ _, rfl, rfl, rfl, rfl⟩
  case fails =>
    intro e hgo hcause
    exact ⟨_, fetchRequest_lost hd hg hc hwant hgo hcause, _, drill_modDrill_self (drill_setDrill_self s k _) _, rfl, mem_hold _ _, rfl, rfl,
      rfl, rfl, rfl, rfl⟩
  case asks =>
    intro pa s1 hgo hok
    have hd1 : s1.drill? k = some { d with fetchWant := rest } := (Laws.drill?_translate hgo k).trans (drill_setDrill_self _ _ _)
    obtain ⟨hdrill, hheld, hmem, hfill⟩ := askLine_spec hd1 line (pa / 128)
    exact ⟨_, fetchRequest_asks hd hg hc hwant hgo hok, _, hdrill, rfl, hheld, rfl, rfl, hmem, hfill⟩
  case noRequest =>
    intro hwant
    show execFetchBufferRequest k s = _
    simp [execFetchBufferRequest, hd, hwant]
  case comes =>
    intro hfill hgate hclass hclean hcore
    refine happens_imp (icacheFill_happens hfill hgate hclass hclean hcore) fun t ⟨hkept, hdone, hmem, hdrills⟩ => ⟨hkept, hdone, hmem, ?_⟩
    intro j e he hj
    exact ⟨_, hdrills j e he hj, rfl, fun f hf hline hdata hpoison => mem_arrive _ hf hline hdata hpoison⟩
  case noFill =>
    intro hfill
    show execIcacheFillDone die core line s = _
    refine if_pos ?_
    simp [coreKey, hfill]
  case waits =>
    intro hcause
    exact fetchFault_held hd hg hc hfetching hfetch hwant hgo hcause
  case faults =>
    intro hcause
    obtain ⟨d', hdrill, hparked, hrecs, htcause, htval, hepc, hsys, hmem⟩ := raise_pageFault hd hg hc hdrained hmode
      (t := { code := 0x11, tval := d.pc, faults := [(d.pc, e.cause, e.level, e.pin, 4)], tkd := d.skipTk0 }) rfl rfl
    exact ⟨_, fetchFault_raises hd hg hc hfetching hfetch hwant hgo hcause hst, d', hdrill, hparked, hrecs, by simpa using htcause, htval, hepc, hsys, hmem⟩
  case again =>
    intro pa s1 hfetching hfetch hwant hgo hbacked hgrant
    obtain ⟨hdrill, hheld, -⟩ := askLine_spec ((Laws.drill?_translate hgo k).trans hd) (d.pc.toNat / 128) (pa / 128)
    exact ⟨_, fetchFault_asks hd hg hc hfetching hfetch hwant hgo hbacked hgrant, _, hdrill, rfl, rfl, hheld⟩
  case noFault =>
    intro hline
    show execFetchFault k s = _
    simp [execFetchFault, hd, hline]

end Sys2Proof.Proofs
end

section
/-!
PROOFS about SVLD and the tile images (R92, R149, R307): how long a block is, what the checks and the reading of a block leave, and what an
instruction that replaces registers at issue completes with.
-/
namespace Sys2Proof.Proofs
open Sys2Proof.Machine

/-! ### The length of a block -/

theorem length_flatMap_eq {α β : Type} {f : α → List β} {n : Nat} (h : ∀ a, (f a).length = n) (l : List α) : (l.flatMap f).length = n * l.length := by
  induction l with
  | nil => rfl
  | cons a l ih => rw [List.flatMap_cons, List.length_append, h, ih, List.length_cons, Nat.mul_succ, Nat.add_comm]

@[simp] theorem length_toBytes {w : Nat} (x : BitVec w) (n : Nat) : (toBytes x n).length = n := by simp [toBytes]

@[simp] theorem length_wordBytes (w : Word) : (wordBytes w).length = 4 := length_toBytes w 4

theorem length_words {α : Type} (f : α → Word) (l : List α) : (l.flatMap fun a => wordBytes (f a)).length = 4 * l.length :=
  length_flatMap_eq (fun a => length_wordBytes (f a)) l

theorem length_laneBytes (v : Lanes) : (laneBytes v).length = 128 := by
  rw [laneBytes, length_words, List.length_range]

theorem length_xpBytes (x : XpRec) : (xpBytes x).length = 320 := by
  have hvals : ((List.range 32).flatMap fun i => toBytes (lane x.val i) 8).length = 8 * 32 := by
    rw [length_flatMap_eq (fun i => length_toBytes (lane x.val i) 8), List.length_range]
  simp only [xpBytes, List.length_append, hvals, List.length_map, List.length_range, length_wordBytes, List.length_replicate]

/-- The block of SAVEV (R92). -/
def vectorBlock (x : Issue) : List Byte := (List.range x.g.kcb.v).flatMap fun r => laneBytes (x.d.vAt r)

/-- The block of SAVEU (R92). -/
def uniformBlock (x : Issue) : List Byte := (List.range (svldS x)).flatMap fun r => wordBytes (x.d.sAt r)

theorem length_vectorBlock (x : Issue) : (vectorBlock x).length = 128 * x.g.kcb.v := by
  rw [vectorBlock, length_flatMap_eq (fun r => length_laneBytes (x.d.vAt r)), List.length_range]

theorem length_uniformBlock (x : Issue) : (uniformBlock x).length = 4 * svldS x := by
  rw [uniformBlock, length_words, List.length_range]

theorem length_predBlock (d : Drill) : (predBlock d).length = 256 := by
  simp only [predBlock, List.length_append, length_words, List.length_range, length_wordBytes, length_toBytes, List.length_replicate]

theorem length_replayBlock (d : Drill) : (replayBlock d).length = 3592 := by
  have hlatches := length_flatMap_eq (fun j => length_laneBytes (tblGet d.xl j (splat 0))) (List.range 8)
  have hrecords := length_flatMap_eq (fun j => length_xpBytes (tblGet d.xp j {})) (List.range 8)
  simp only [replayBlock, List.length_append, hlatches, hrecords, List.length_range, length_toBytes]

theorem length_tileImage (t : Tile) : (tileImage t).length = 1152 := by
  have hrows := length_flatMap_eq (f := fun r => (List.range 16).flatMap fun c => wordBytes (t.at_ r c)) (n := 64)
    (fun r => by rw [length_words, List.length_range]) (List.range 16)
  simp only [tileImage, List.length_append, hrows, List.length_range, length_wordBytes, List.length_replicate]

/-! ### The checks and the reading of a block -/

/-- The checks of a block change no drill (R149). -/
theorem checkBlock_drills {x : Issue} {s s1 : State} {acc : Access} {va : DWord} {n : Nat} {parts : List (LaneAddr × Nat)}
    (h : checkBlock x s acc va n = .ok (parts, s1)) : SameDrills s s1 := by
  unfold checkBlock at h
  split at h
  · cases h
    exact fun _ => rfl
  split at h
  · cases h
  dsimp only at h
  split at h
  · cases h
  · cases h
    exact Laws.checkAccess_drills ‹_›

/-- The bytes of a block as its parts and operation o give them (R191, R202). -/
def blockImage (s : State) (c : Nat) (va : DWord) (o : VarOp) (parts : List (LaneAddr × Nat)) : List Byte :=
  parts.flatMap fun p => if classOf p.1.pa = .remote then s.remotePart o (blockUnits va p) p.2 else s.readFor c p.1.pa p.2

theorem blockImage_near {s : State} {c : Nat} {va : DWord} {parts : List (LaneAddr × Nat)} (h : parts.flatMap (blockUnits va) = []) (o o' : VarOp) :
    blockImage s c va o parts = blockImage s c va o' parts := by
  refine List.flatMap_congr fun p hp => ?_
  rw [List.flatMap_eq_nil_iff.1 h p hp]
  rfl

/-- The state with a block's lines in the caches (R153). -/
def blockFilled (s : State) (c : Nat) (parts : List (LaneAddr × Nat)) : State := parts.foldl (fun s p => s.fillFor c p.1.pa p.2) s

theorem drills_fillFor (s : State) (c pa n : Nat) : (s.fillFor c pa n).drills = s.drills := by
  have hlines (l : List Nat) : ∀ s : State, (l.foldl (fun s l => s.fillL1 c l) s).drills = s.drills := by
    induction l with
    | nil => exact fun _ => rfl
    | cons x l ih => exact fun s => (ih _).trans (drills_fillL1 s c x)
  unfold State.fillFor
  split
  · exact hlines _ s
  · rfl

theorem drills_blockFilled (s : State) (c : Nat) (parts : List (LaneAddr × Nat)) : (blockFilled s c parts).drills = s.drills := by
  unfold blockFilled
  induction parts generalizing s with
  | nil => rfl
  | cons p parts ih => exact (ih _).trans (drills_fillFor s c p.1.pa p.2)

/-- A block has passed its checks, and can be read now (R191, R192, R195, R200-R202). -/
def Readable (a : Src) (parts : List (LaneAddr × Nat)) (s1 : State) (o : VarOp) (n : Nat) (x : Issue) (s : State) : Prop :=
  checkBlock x s { w := false, r := true } (srcU64 x a) n = .ok (parts, s1) ∧
  (x.d.clearFor s1.seq = true ∧ ((∃ p ∈ parts, classOf p.1.pa = .uncached) → x.d.uncachedDone s1.seq = true) ∧
    ∀ p ∈ parts, s1.gateAt (drillChip x.k) false p.1.pa ≠ .hold ∧ ∀ l ∈ linesOf p.1.pa p.2, s1.poisoned (128 * l) = false) ∧
  (parts.flatMap (blockUnits (srcU64 x a)) = [] ∨
    (x.d.ops.find? (fun o => o.kind = .block (parts.flatMap (blockUnits (srcU64 x a)))) = some o ∧
      ∀ l ∈ parts.flatMap (blockUnits (srcU64 x a)), ∃ b, s1.remoteLane o l = some (some b)))

/-- The operation that read a block's remote part is over (R202). -/
def blockDone (far : List LaneAddr) (s : State) (k : Nat) : State :=
  if far = [] then s else s.modDrill k fun d => { d with ops := d.ops.filter (·.kind ≠ .block far) }

section
variable {far : List LaneAddr} {s : State} {k : Nat}

theorem drill_blockDone {d : Drill} (hd : s.drill? k = some d) : (blockDone far s k).drill? k =
    some { d with ops := if far = [] then d.ops else d.ops.filter fun o => o.kind ≠ .block far } := by
  unfold blockDone
  split
  · exact hd
  · simp [hd]

theorem blockDone_frame : rest (blockDone far s k) = rest s ∧ (∀ j, j ≠ k → (blockDone far s k).drill? j = s.drill? j) ∧
    (blockDone far s k).groups = s.groups ∧ (blockDone far s k).ctxs = s.ctxs ∧ (blockDone far s k).tick = s.tick := by
  unfold blockDone
  split
  · exact ⟨rfl, fun _ _ => rfl, rfl, rfl, rfl⟩
  · exact ⟨rfl, fun j hj => by simp [Ne.symm hj], rfl, rfl, rfl⟩

end

/-- A block that can be read is: its lines come into the caches, and its bytes are used (R153, R192). -/
theorem loadBlock_reads {a : Src} {parts : List (LaneAddr × Nat)} {s s1 : State} {o : VarOp} {n : Nat} {x : Issue} (h : Readable a parts s1 o n x s)
    (use : State → List Byte → Eff) : loadBlock x s (srcU64 x a) n use =
      use { blockDone (parts.flatMap (blockUnits (srcU64 x a))) (blockFilled s1 (drillCore x.k) parts) x.k with
        tick := (blockDone (parts.flatMap (blockUnits (srcU64 x a))) (blockFilled s1 (drillCore x.k) parts) x.k).tick + 1 }
      (blockImage s1 (drillCore x.k) (srcU64 x a) o parts) := by
  obtain ⟨hcheck, ⟨hclear, huncached, hparts⟩, hfar⟩ := h
  have hgo : ¬(!x.d.clearFor s1.seq || (parts.any (fun p => classOf p.1.pa = .uncached) && !x.d.uncachedDone s1.seq) ||
      parts.any (fun p => s1.gateAt (drillChip x.k) false p.1.pa = .hold)) = true := by
    have hdone : (parts.any (fun p => classOf p.1.pa = .uncached) && !x.d.uncachedDone s1.seq) = false := by
      by_cases hany : ∃ p ∈ parts, classOf p.1.pa = .uncached
      · simp [huncached hany]
      · have hnone : parts.any (fun p => classOf p.1.pa = .uncached) = false := by simpa using hany
        rw [hnone, Bool.false_and]
    have hgates : parts.any (fun p => s1.gateAt (drillChip x.k) false p.1.pa = .hold) = false := by
      simpa using fun p l hp => (hparts (p, l) hp).1
    simp [hclear, hdone, hgates]
  have hclean : (parts.find? fun p => (linesOf p.1.pa p.2).any fun l => s1.poisoned (128 * l)) = none := by
    refine List.find?_eq_none.2 fun p hp => ?_
    simpa using (hparts p hp).2
  unfold loadBlock
  rw [show checkBlock x s { r := true } (srcU64 x a) n = .ok (parts, s1) from hcheck]
  dsimp only
  rw [if_neg hgo, hclean]
  by_cases hnear : parts.flatMap (blockUnits (srcU64 x a)) = []
  · rw [blockImage_near hnear o { seq := 0, kind := .idle }, hnear]
    rfl
  · obtain ⟨hop, hanswered⟩ := hfar.resolve_left hnear
    have hcome : ¬((parts.flatMap (blockUnits (srcU64 x a))).any fun l => (s1.remoteLane o l).isNone) = true := by
      rw [Bool.not_eq_true, List.any_eq_false]
      intro l hl
      obtain ⟨b, hb⟩ := hanswered l hl
      simp [hb]
    have hok : ((parts.flatMap (blockUnits (srcU64 x a))).find? fun l => s1.remoteLane o l = some none) = none := by
      refine List.find?_eq_none.2 fun l hl => ?_
      obtain ⟨b, hb⟩ := hanswered l hl
      simp [hb]
    rw [if_neg hnear, hop]
    dsimp only
    rw [if_neg hcome, hok, blockDone, if_neg hnear]
    dsimp only
    rw [if_neg hnear]
    rfl

/-- A block that fails its checks traps (R149). -/
theorem loadBlock_traps {s : State} {n : Nat} {x : Issue} {va : DWord} {t : TrapReq} (h : checkBlock x s { w := false, r := true } va n = .error t)
    (use : State → List Byte → Eff) : loadBlock x s va n use = .trap t := by
  unfold loadBlock
  rw [show checkBlock x s { r := true } va n = .error t from h]

theorem saveBlock_traps {s : State} {x : Issue} {va : DWord} {bytes : List Byte} {t : TrapReq}
    (h : checkBlock x s { w := true, r := false } va bytes.length = .error t) : saveBlock x s va bytes = .trap t := by
  unfold saveBlock
  rw [show checkBlock x s { w := true } va bytes.length = .error t from h]

theorem saveBlock_enqueues {s s1 : State} {x : Issue} {va : DWord} {bytes : List Byte} {parts : List (LaneAddr × Nat)}
    (h : checkBlock x s { w := true, r := false } va bytes.length = .ok (parts, s1)) :
    saveBlock x s va bytes = enqueue x s1 (.store (cutBlock parts bytes)) := by
  unfold saveBlock
  rw [show checkBlock x s { w := true } va bytes.length = .ok (parts, s1) from h]

/-! ### Instructions that replace registers at issue -/

/-- What the model's change g of a drill's registers leaves, by the statement's f: operations stay, and whatever target has to be met. -/
structure Replaces (f g : Drill → Drill) : Prop where
  base : ∀ (d : Drill) nl ops, Laws.base (g { d with needLand := nl, ops := ops }) = Laws.base (f d)
  masks : ∀ (d : Drill) nl ops, (g { d with needLand := nl, ops := ops }).cm = (f d).cm ∧ (g { d with needLand := nl, ops := ops }).maskStack = (f d).maskStack
  queue : ∀ (d : Drill) nl ops, (g { d with needLand := nl, ops := ops }).storeQueue = (f d).storeQueue
  ops : ∀ (d : Drill) nl ops, (g { d with needLand := nl, ops := ops }).ops = ops
  place : ∀ d : Drill, (f d).pc = d.pc ∧ (f d).n = d.n ∧ (f d).idxInSwath = d.idxInSwath ∧ (f d).swathPc = d.swathPc

theorem drill_update_ne {x : Issue} {s : State} {f : Drill → Drill} {j : Nat} (h : j ≠ x.k) : (x.update s f).drill? j = s.drill? j := by
  simp [Issue.update, Ne.symm h]

/-- What has been issued depends on the place of the drill only. -/
theorem Issued.of_place {x : Issue} {e d' : Drill} {t : State} {next : DWord} (h : Issued { x with d := e } t d' next)
    (he : e.n = x.d.n ∧ e.idxInSwath = x.d.idxInSwath ∧ e.swathPc = x.d.swathPc) : Issued x t d' next := by
  obtain ⟨hdrill, hpc, hcount, hswath⟩ := h
  obtain ⟨hn, hidx, hplace⟩ := he
  exact ⟨hdrill, hpc, hcount.trans (congrArg (· + 1) hn), by simpa only [hidx, hplace] using hswath⟩

section
variable {i : Instr} {a : Src} {len : Issue → Nat} {use : Issue → State → List Byte → Eff}
variable (hexec : ∀ s, exec i s = issue i s fun x s => loadBlock x s (srcU64 x a) (len x) (use x)) (hl : i.shape.long = false)
variable {parts : List (LaneAddr × Nat)} {s1 : State} {o : VarOp} {pre : Issue → State → Prop}
variable (hpre : ∀ x s, pre x s → Readable a parts s1 o (len x) x s)
include hexec hl hpre

/-- LOADS OF A BLOCK (R92, R149, R307): an instruction that puts the registers of a readable block in place. -/
theorem completes_load {f g : Issue → Drill → Drill}
    (huse : ∀ x s u, pre x s → use x u (blockImage s1 (drillCore x.k) (srcU64 x a) o parts) = noEffect (x.update u (g x)))
    (hreplaces : ∀ x, Replaces (f x) (g x)) : Completes i pre fun x _ t => ∃ d', Issued x t d' (x.d.pc + 8) ∧
      Kept { x with d := f x x.d } { blockFilled s1 (drillCore x.k) parts with tick := (blockFilled s1 (drillCore x.k) parts).tick + 1 } t d' ∧
      d'.cm = (f x x.d).cm ∧ d'.maskStack = (f x x.d).maskStack ∧ d'.storeQueue = (f x x.d).storeQueue ∧
      d'.ops = if parts.flatMap (blockUnits (srcU64 x a)) = [] then x.d.ops else
        x.d.ops.filter fun o => o.kind ≠ .block (parts.flatMap (blockUnits (srcU64 x a))) := by
  intro s k d g' F h
  obtain ⟨nl, hd⟩ := Laws.actsIn_drill (i := i) g' F.1.2.1
  have hread := hpre _ _ h
  have hgo := (hexec s).trans (Laws.issue_ok F hl ((loadBlock_reads hread _).trans (huse _ _ _ h)))
  have hsame := checkBlock_drills hread.1
  generalize hx : sees i k d g' = x at hread hgo ⊢
  obtain ⟨hk, hxd, hxi⟩ : x.k = k ∧ x.d = d ∧ x.i = i := by simp [← hx]
  subst hxd hk
  generalize hu : blockFilled s1 (drillCore x.k) parts = u at hgo ⊢
  have hdrills (j : Nat) : u.drill? j = (actsIn i s x.k x.d g').drill? j := by
    rw [← hu]
    exact (congrArg (tblGet? · j) (drills_blockFilled s1 _ parts)).trans (hsame j)
  obtain ⟨ops', hops', hdone⟩ : ∃ ops', ops' = (if parts.flatMap (blockUnits (srcU64 x a)) = [] then x.d.ops else
      x.d.ops.filter fun o => o.kind ≠ .block (parts.flatMap (blockUnits (srcU64 x a)))) ∧
      (blockDone (parts.flatMap (blockUnits (srcU64 x a))) u x.k).drill? x.k = some { x.d with needLand := nl, ops := ops' } :=
    ⟨_, rfl, drill_blockDone ((hdrills x.k).trans hd)⟩
  obtain ⟨hrest, hothers, hgroups, hctxs, htick⟩ := blockDone_frame (far := parts.flatMap (blockUnits (srcU64 x a))) (s := u) (k := x.k)
  generalize blockDone (parts.flatMap (blockUnits (srcU64 x a))) u x.k = v at hgo hdone hrest hothers hgroups hctxs htick
  have R := hreplaces x
  obtain ⟨hpc, hplace⟩ := R.place x.d
  have hrest' : rest (x.update { v with tick := v.tick + 1 } (g x)) = rest { u with tick := u.tick + 1 } := by
    rw [htick]
    exact congrArg (fun t : State => { t with tick := u.tick + 1 }) hrest
  obtain ⟨d', hissued, hkept, ⟨hcm, hstack, hops, hqueue⟩, -⟩ := Laws.finish_spec (s0 := { u with tick := u.tick + 1 }) (x := { x with d := f x x.d })
    (fx := { s := x.update { v with tick := v.tick + 1 } (g x) }) hxi (drill_modDrill_self hdone (g x)) (R.base x.d nl ops') hrest'
    (fun j hj => (drill_update_ne hj).trans (hothers j hj))
    (fun n => (congrArg (tblGet? · n) hgroups :)) (fun n => (congrArg (tblGet? · n) hctxs :)) (by simp) rfl rfl
  subst hu
  refine ⟨_, hgo, d', ?_, hkept, ?_⟩
  · exact Issued.of_place (hpc ▸ hissued) hplace
  · exact ⟨hcm.trans (R.masks x.d nl ops').1, hstack.trans (R.masks x.d nl ops').2, hqueue.trans (R.queue x.d nl ops'),
      hops.trans ((R.ops x.d nl ops').trans hops')⟩

/-- A block that is no image traps (R92, R149). -/
theorem trapsWhen_load {trap : TrapReq} (hcode : trap.code ≠ 0)
    (huse : ∀ x s u, pre x s → use x u (blockImage s1 (drillCore x.k) (srcU64 x a) o parts) = .trap trap) : TrapsWhen i pre fun _ _ => trap :=
  trapsWhen_of_body hexec hl (fun _ _ h => (loadBlock_reads (hpre _ _ h) _).trans (huse _ _ _ h)) fun _ _ => hcode

end

end Sys2Proof.Proofs
end

section
/-!
PROOFS about SVLD, TSAVE and TLOAD (R92, R149, R307): each form by the block that it saves, or by the registers that its load replaces.
-/
namespace Sys2Proof.Proofs
open Sys2Proof.Machine

/-! ### Saves -/

/-- A STORE-QUEUE ENTRY (R159) that enters after a change of the drill's registers to those of e. -/
theorem enqueue_changed {i : Instr} (hl : i.shape.long = false) {s s1 : State} {k : Nat} {d e : Drill} {g : Machine.Group} (F : Fires i s k d g)
    {nl : Option (DWord × Mask)} (he : s1.drill? k = some { e with needLand := nl }) (hpc : e.pc = d.pc) {body : Issue → State → Eff} {kind : SqKind}
    (hb : body (sees i k d g) (actsIn i s k d g) = enqueue (sees i k d g) s1 kind) :
    ∃ t, issue i s body = .next t ∧ Enqueues (fun _ _ => kind) { sees i k d g with d := e } s1 t := by
  have hgo := Laws.issue_ok F hl hb
  have hd1 : (State.modDrill { s1 with seq := s1.seq + 1 } k fun d =>
      { d with storeQueue := d.storeQueue ++ [{ seq := s1.seq, kind := kind, pc := e.pc }] }).drill? k =
      some { e with needLand := nl, storeQueue := e.storeQueue ++ [{ seq := s1.seq, kind := kind, pc := e.pc }] } :=
    drill_modDrill_self (s := { s1 with seq := s1.seq + 1 }) he _
  generalize hx : sees i k d g = x at hgo ⊢
  obtain ⟨hk, hxd, hxi⟩ : x.k = k ∧ x.d = d ∧ x.i = i := by simp [← hx]
  subst hxd hk
  rw [← hpc] at hgo
  obtain ⟨d', hissued, hkept, ⟨hcm, hstack, hops, hqueue⟩, -, hseq, -⟩ := Laws.finish_spec (s0 := s1) (x := { x with d := e })
    (fx := { s := State.modDrill { s1 with seq := s1.seq + 1 } x.k fun d =>
      { d with storeQueue := d.storeQueue ++ [{ seq := s1.seq, kind := kind, pc := e.pc }] } })
    hxi hd1 rfl rfl (fun j hj => by simp [Ne.symm hj]; rfl) (fun _ => rfl) (fun _ => rfl) (by simp) rfl rfl
  exact ⟨_, hgo, d', hissued, hkept, hcm, hstack, hops, hqueue, hseq⟩

section
variable {i : Instr} {a : Src} {len : Issue → Nat} {block : Issue → List Byte}
variable (hexec : ∀ s, exec i s = issue i s fun x s => saveBlock x s (srcU64 x a) (block x)) (hl : i.shape.long = false)
variable (hlen : ∀ x, (block x).length = len x)
include hexec hl hlen

/-- SAVES OF A BLOCK (R92, R307): the block enters the store queue, cut at pages. -/
theorem completes_save (parts : List (LaneAddr × Nat)) (s1 : State) :
    Completes i (fun x s => checkBlock x s { w := true, r := false } (srcU64 x a) (len x) = .ok (parts, s1)) fun x _ t =>
      Enqueues (fun _ _ => .store (cutBlock parts (block x))) x s1 t := by
  intro s k d g F hcheck
  have hbody := saveBlock_enqueues (bytes := block (sees i k d g)) ((hlen _).symm ▸ hcheck)
  obtain ⟨t, hgo, hqueued⟩ := Laws.enqueue_enqueues hl F (checkBlock_drills hcheck)
    (body := fun x s => saveBlock x s (srcU64 x a) (block x)) hbody
  exact ⟨t, (hexec s).trans hgo, hqueued⟩

theorem faults_save (tr : TrapReq) : TrapsWhen i
    (fun x s => tr.code ≠ 0 ∧ checkBlock x s { w := true, r := false } (srcU64 x a) (len x) = .error tr) fun _ _ => tr := by
  intro s k d g F ⟨hcode, hcheck⟩
  exact trapsWhen_of_body (pre := fun x s => checkBlock x s { w := true, r := false } (srcU64 x a) (len x) = .error tr) hexec hl
    (fun x s h => saveBlock_traps ((hlen x).symm ▸ h)) (fun _ _ => hcode) s k d g F hcheck

end

theorem faults_load {i : Instr} {a : Src} {len : Issue → Nat} {use : Issue → State → List Byte → Eff}
    (hexec : ∀ s, exec i s = issue i s fun x s => loadBlock x s (srcU64 x a) (len x) (use x)) (hl : i.shape.long = false) (tr : TrapReq) :
    TrapsWhen i (fun x s => tr.code ≠ 0 ∧ checkBlock x s { w := false, r := true } (srcU64 x a) (len x) = .error tr) fun _ _ => tr := by
  intro s k d g F ⟨hcode, hcheck⟩
  exact trapsWhen_of_body (pre := fun x s => checkBlock x s { w := false, r := true } (srcU64 x a) (len x) = .error tr) hexec hl
    (fun x s h => loadBlock_traps h _) (fun _ _ => hcode) s k d g F hcheck

/-! ### The registers that a load replaces -/

theorem Replaces.of_eq {f g : Drill → Drill}
    (h : ∀ (d : Drill) nl ops, ∃ rp, g { d with needLand := nl, ops := ops } = { f d with needLand := nl, ops := ops, regPoison := rp })
    (hplace : ∀ d : Drill, (f d).pc = d.pc ∧ (f d).n = d.n ∧ (f d).idxInSwath = d.idxInSwath ∧ (f d).swathPc = d.swathPc) : Replaces f g where
  base d nl ops := by
    obtain ⟨rp, hg⟩ := h d nl ops
    rw [hg]
    rfl
  masks d nl ops := by
    obtain ⟨rp, hg⟩ := h d nl ops
    rw [hg]
    exact ⟨rfl, rfl⟩
  queue d nl ops := by
    obtain ⟨rp, hg⟩ := h d nl ops
    rw [hg]
  ops d nl ops := by
    obtain ⟨rp, hg⟩ := h d nl ops
    rw [hg]
  place := hplace

theorem v_putVs_congr (m : Mask) (xs : List Lanes) {d e : Drill} (h : d.v = e.v) (r : Nat) : (d.putVs r m xs).v = (e.putVs r m xs).v := by
  induction xs generalizing d e r with
  | nil => exact h
  | cons x xs ih =>
    refine ih ?_ _
    simp only [Drill.putV, Drill.vAt, h]

/-- LOADV replaces vector registers (R92). -/
theorem replaces_putVs (n : Nat) (xs : List Lanes) :
    Replaces (fun d => d.putVs 0 0xFFFFFFFF xs) fun d => (d.unmark 0 n).putVs 0 0xFFFFFFFF xs := by
  refine .of_eq (fun d nl ops => ?_) fun d => ?_
  · have hv := v_putVs_congr 0xFFFFFFFF xs (d := Drill.unmark { d with needLand := nl, ops := ops } 0 n) (e := d) rfl 0
    have hmodel := Laws.putVs_eq (Drill.unmark { d with needLand := nl, ops := ops } 0 n) 0 0xFFFFFFFF xs
    rw [hv] at hmodel
    exact ⟨_, hmodel.trans (congrArg (fun e : Drill => { e with needLand := nl, ops := ops, regPoison := (d.unmark 0 n).regPoison })
      (Laws.putVs_eq d 0 0xFFFFFFFF xs)).symm⟩
  · rw [Laws.putVs_eq]
    exact ⟨rfl, rfl, rfl, rfl⟩

theorem foldl_putS_eq (f : Nat → Word) (l : List Nat) (d : Drill) :
    l.foldl (fun d r => d.putS r (f r)) d = { d with s := l.foldl (fun t r => tblSet t r (f r)) d.s } := by
  induction l generalizing d with
  | nil => rfl
  | cons r l ih => exact ih _

/-- LOADU replaces uniform registers (R92). -/
theorem replaces_putS (b n : Nat) (f : Nat → Word) (l : List Nat) :
    Replaces (fun d => l.foldl (fun d r => d.putS r (f r)) d) fun d => l.foldl (fun d r => d.putS r (f r)) (d.unmark b n) := by
  refine .of_eq (fun d nl ops => ?_) fun d => ?_
  · rw [foldl_putS_eq, foldl_putS_eq]
    exact ⟨_, rfl⟩
  · rw [foldl_putS_eq]
    exact ⟨rfl, rfl, rfl, rfl⟩

/-- LOADP replaces the predicates, the masks and EPC (R92). -/
def predicatesLoaded (bs : List Byte) (d : Drill) : Drill := { d with
  k := (List.range 7).map fun j => (j + 1, wordIn bs (4 * (j + 1)))
  cm := wordIn bs 32
  maskStack := ((List.range (wordIn bs 36).toNat).map fun e => wordIn bs (48 + 4 * e)).reverse
  epc := dwordIn bs 40 }

theorem replaces_predicates (bs : List Byte) : Replaces (predicatesLoaded bs) (predicatesLoaded bs) :=
  .of_eq (fun _ _ _ => ⟨_, rfl⟩) fun _ => ⟨rfl, rfl, rfl, rfl⟩

/-- LOADX replaces the replay registers (R92). -/
def replayLoaded (bs : List Byte) (d : Drill) : Drill := { d with
  xl := (List.range 8).map fun j => (j, lanesIn bs (128 * j))
  xp := (List.range 8).map fun j => (j, xpIn ((bs.drop (1024 + 320 * j)).take 320))
  xi := dwordIn bs 3584 &&& 0xFFFFFFFFFFFFFFF8 }

theorem replaces_replay (bs : List Byte) : Replaces (replayLoaded bs) (replayLoaded bs) :=
  .of_eq (fun _ _ _ => ⟨_, rfl⟩) fun _ => ⟨rfl, rfl, rfl, rfl⟩

/-- TLOAD replaces a tile (R149). -/
def tileLoaded (n : BitVec 3) (bs : List Byte) (d : Drill) : Drill := { d with tiles := tblSet d.tiles n.toNat (tileIn bs) }

theorem replaces_tile (n : BitVec 3) (bs : List Byte) :
    Replaces (tileLoaded n bs) fun d => { d.unmark (tileMark n.toNat) 1 with tiles := tblSet d.tiles n.toNat (tileIn bs) } :=
  .of_eq (fun _ _ _ => ⟨_, rfl⟩) fun _ => ⟨rfl, rfl, rfl, rfl⟩

/-- TSAVE marks its tile clean (R149). -/
def tileClean (n : BitVec 3) (d : Drill) : Drill := { d with tiles := tblSet d.tiles n.toNat { d.tile n.toNat with dirty := false } }

theorem drill_update {x : Issue} {s : State} {k : Nat} {d : Drill} (hk : x.k = k) (hd : s.drill? k = some d) (f : Drill → Drill) :
    (x.update s f).drill? k = some (f d) := by
  subst hk
  exact drill_modDrill_self hd f

/-! ### What LOADP and TLOAD do with their blocks -/

/-- LOADP refuses a depth above 32 and a reserved byte that is not 0 (log 92, DEDUCED). -/
def usePredicates (x : Issue) (s : State) (bs : List Byte) : Eff :=
  if (wordIn bs 36).toNat > 32 || (bs.drop 176).any (· ≠ 0) then .trap { code := 0x2A } else noEffect (x.update s (predicatesLoaded bs))

theorem exec_svldLoadp (a : Src) (c : Ctl) (s : State) : exec (.svldLoadp a c) s =
    issue (.svldLoadp a c) s fun x s => loadBlock x s (srcU64 x a) 256 (usePredicates x) := rfl

section
variable {x : Issue} {s : State} {bs : List Byte}

theorem usePredicates_loads (hdepth : (wordIn bs 36).toNat ≤ 32) (hzero : ∀ b ∈ bs.drop 176, b = 0) :
    usePredicates x s bs = noEffect (x.update s (predicatesLoaded bs)) := by
  refine if_neg ?_
  rw [Bool.not_eq_true, Bool.or_eq_false_iff, List.any_eq_false]
  exact ⟨by simpa using hdepth, fun b hb => by simpa using hzero b hb⟩

theorem usePredicates_traps (h : 32 < (wordIn bs 36).toNat ∨ ∃ b ∈ bs.drop 176, b ≠ 0) : usePredicates x s bs = .trap { code := 0x2A } := by
  refine if_pos ?_
  rw [Bool.or_eq_true, List.any_eq_true]
  exact h.imp (fun h => by simpa using h) fun ⟨b, hb, hne⟩ => ⟨b, hb, by simpa using hne⟩

end

/-- The words that TLOAD takes for a shape: an allowed one, or that of an empty tile (R149). -/
def ShapeWord (w : Word) : Prop := shapeOk w = true ∨ (w.toNat % 32 = 0 ∧ w &&& 0xFFFEE0E0 = 0)

theorem shapeWord_iff (w : Word) : (!shapeOk w && !(field w 0 5 = 0 && w &&& 0xFFFEE0E0 = 0)) = false ↔ ShapeWord w := by
  cases h : shapeOk w <;> simp [ShapeWord, h, field]

/-- TLOAD refuses a shape that is neither allowed nor empty, and a reserved byte that is not 0 (R5, R149). -/
def useTile (n : BitVec 3) (x : Issue) (s : State) (bs : List Byte) : Eff :=
  if (!shapeOk (wordIn bs 1024) && !(field (wordIn bs 1024) 0 5 = 0 && wordIn bs 1024 &&& 0xFFFEE0E0 = 0)) || (bs.drop 1028).any (· ≠ 0) then
    .trap { code := 0x0B }
  else noEffect (x.update s fun d => { d.unmark (tileMark n.toNat) 1 with tiles := tblSet d.tiles n.toNat (tileIn bs) })

theorem exec_tload (n : BitVec 3) (a : Src) (c : Ctl) (s : State) : exec (.tload n a c) s =
    issue (.tload n a c) s fun x s => loadBlock x s (srcU64 x a) 1152 (useTile n x) := rfl

section
variable {n : BitVec 3} {x : Issue} {s : State} {bs : List Byte}

theorem useTile_loads (hzero : ∀ b ∈ bs.drop 1028, b = 0) (hshape : ShapeWord (wordIn bs 1024)) : useTile n x s bs =
    noEffect (x.update s fun d => { d.unmark (tileMark n.toNat) 1 with tiles := tblSet d.tiles n.toNat (tileIn bs) }) := by
  refine if_neg ?_
  rw [Bool.not_eq_true, Bool.or_eq_false_iff, List.any_eq_false]
  exact ⟨(shapeWord_iff _).2 hshape, fun b hb => by simpa using hzero b hb⟩

theorem useTile_traps (h : (∃ b ∈ bs.drop 1028, b ≠ 0) ∨ ¬ShapeWord (wordIn bs 1024)) : useTile n x s bs = .trap { code := 0x0B } := by
  refine if_pos ?_
  rw [Bool.or_eq_true, List.any_eq_true]
  rcases h with ⟨b, hb, hne⟩ | hshape
  · exact .inr ⟨b, hb, by simpa using hne⟩
  · refine .inl ?_
    rw [← Bool.not_eq_false]
    exact fun hfalse => hshape ((shapeWord_iff _).1 hfalse)

end

/-- The bytes of a block that an instruction has read. -/
def imageOf (a : Src) (parts : List (LaneAddr × Nat)) (s1 : State) (o : VarOp) (x : Issue) : List Byte :=
  blockImage s1 (drillCore x.k) (srcU64 x a) o parts

/-- Settles O32: saves by `completes_save`, loads by `completes_load`, refused images by `trapsWhen_load`. -/
theorem saveAndLoad : Obligations.SaveAndLoad := by
  intro a n c parts s1 o tr
  refine ⟨?savev, ?saveu, ?savep, ?savex, ?loadv, ?loadu, ?loadp, ?loadx, ?tload, ?tsave, ?unshaped, ?noPredicates, ?noTile,
    ?fsavev, ?fsaveu, ?fsavep, ?fsavex, ?floadv, ?floadu, ?floadp, ?floadx, ?ftload⟩
  case savev =>
    exact fun s k d g F h => completes_save (block := vectorBlock) (fun _ => rfl) rfl length_vectorBlock parts s1 s k d g F h.1
  case saveu =>
    exact fun s k d g F h => completes_save (block := uniformBlock) (fun _ => rfl) rfl length_uniformBlock parts s1 s k d g F h.1
  case savep =>
    exact fun s k d g F h => completes_save (block := fun x => predBlock x.d) (fun _ => rfl) rfl (fun x => length_predBlock x.d) parts s1 s k d g F h.1
  case savex =>
    exact fun s k d g F h => completes_save (block := fun x => replayBlock x.d) (fun _ => rfl) rfl (fun x => length_replayBlock x.d) parts s1 s k d g F h.1
  case loadv =>
    exact completes_load (len := fun x => 128 * x.g.kcb.v) (use := fun x s bs => noEffect (x.update s fun d =>
        (d.unmark 0 x.g.kcb.v).putVs 0 0xFFFFFFFF ((List.range x.g.kcb.v).map fun r => lanesIn bs (128 * r))))
      (fun _ => rfl) rfl (fun x s h => ⟨h.1, h.2 rfl⟩) (fun _ _ _ _ => rfl)
      fun x => replaces_putVs _ ((List.range x.g.kcb.v).map fun r => lanesIn (imageOf a parts s1 o x) (128 * r))
  case loadu =>
    exact completes_load (len := fun x => 4 * svldS x) (use := fun x s bs => noEffect (x.update s fun d =>
        (List.range (svldS x)).foldl (fun d r => d.putS r (wordIn bs (4 * r))) (d.unmark (sMark 0) (svldS x))))
      (fun _ => rfl) rfl (fun x s h => ⟨h.1, h.2 rfl⟩) (fun _ _ _ _ => rfl)
      fun x => replaces_putS (sMark 0) (svldS x) (fun r => wordIn (imageOf a parts s1 o x) (4 * r)) (List.range (svldS x))
  case loadp =>
    exact completes_load (exec_svldLoadp a c) rfl (fun x s h => ⟨h.1.1, h.1.2 rfl⟩) (fun x s u h => usePredicates_loads h.2.1 h.2.2)
      fun x => replaces_predicates (imageOf a parts s1 o x)
  case loadx =>
    exact completes_load (len := fun _ => 3592) (use := fun x s bs => noEffect (x.update s (replayLoaded bs)))
      (fun _ => rfl) rfl (fun x s h => ⟨h.1, h.2 rfl⟩) (fun _ _ _ _ => rfl) fun x => replaces_replay (imageOf a parts s1 o x)
  case tload =>
    exact completes_load (exec_tload n a c) rfl (fun x s h => ⟨h.1.1, h.1.2 rfl⟩) (fun x s u h => useTile_loads h.2.1 h.2.2)
      fun x => replaces_tile n (imageOf a parts s1 o x)
  case tsave =>
    intro s k d g F ⟨hshape, s2, hs2, hcheck⟩
    obtain ⟨nl, hd⟩ := Laws.actsIn_drill (i := .tsave n a c) g F.1.2.1
    have hdrill : s1.drill? k = some { tileClean n (sees (.tsave n a c) k d g).d with needLand := nl } := by
      refine (checkBlock_drills hcheck k).trans ?_
      rw [hs2, Laws.sees_d]
      exact drill_update (Laws.sees_k _ k d g) hd _
    refine enqueue_changed (i := .tsave n a c) rfl F (e := tileClean n (sees (.tsave n a c) k d g).d) hdrill ?_ ((if_neg hshape).trans ?_)
    · exact (show (tileClean n (sees (.tsave n a c) k d g).d).pc = (sees (.tsave n a c) k d g).d.pc from rfl).trans
        (congrArg Drill.pc (Laws.sees_d _ k d g))
    · rw [← hs2]
      exact saveBlock_enqueues ((length_tileImage _).symm ▸ hcheck)
  case unshaped =>
    exact trapsWhen_of_body (fun _ => rfl) rfl (fun _ _ h => if_pos h) fun _ _ => (show 0x0A ≠ 0 by decide)
  case noPredicates =>
    exact trapsWhen_load (exec_svldLoadp a c) rfl (fun x s h => ⟨h.1.1, h.1.2 rfl⟩) (show 0x2A ≠ 0 by decide)
      fun x s u h => usePredicates_traps h.2
  case noTile =>
    exact trapsWhen_load (exec_tload n a c) rfl (fun x s h => ⟨h.1.1, h.1.2 rfl⟩) (show 0x0B ≠ 0 by decide)
      fun x s u h => useTile_traps (h.2.imp_right fun ⟨hshape, hempty⟩ hword =>
        hword.elim (fun hok => Bool.false_ne_true (hshape.symm.trans hok)) hempty)
  case fsavev => exact faults_save (block := vectorBlock) (fun _ => rfl) rfl length_vectorBlock tr
  case fsaveu => exact faults_save (block := uniformBlock) (fun _ => rfl) rfl length_uniformBlock tr
  case fsavep => exact faults_save (block := fun x => predBlock x.d) (fun _ => rfl) rfl (fun x => length_predBlock x.d) tr
  case fsavex => exact faults_save (block := fun x => replayBlock x.d) (fun _ => rfl) rfl (fun x => length_replayBlock x.d) tr
  case floadv => exact faults_load (fun _ => rfl) rfl tr
  case floadu => exact faults_load (fun _ => rfl) rfl tr
  case floadp => exact faults_load (exec_svldLoadp a c) rfl tr
  case floadx => exact faults_load (fun _ => rfl) rfl tr
  case ftload => exact faults_load (exec_tload n a c) rfl tr

end Sys2Proof.Proofs
end

section
/-!
PROOFS about lane instructions (R27, R28, R72, R74, R94): what a lane instruction that fires completes with, by the class of its
destination, and the operations of variable latency whose result is fixed when they issue (R118-R122).
-/
namespace Sys2Proof.Proofs
-- One proof at a time, as in the model's tests: proofs that wait for one another hold a thread's stack each.
set_option Elab.async false
open Sys2Proof.Machine

/-! ### What a well-formed instruction has -/

theorem wf_of_fires {i : Instr} {s : State} {k : Nat} {d : Drill} {g : Group} (F : Fires i s k d g) : i.wf = true := by
  obtain ⟨-, ⟨hearly, -⟩, -⟩ := F
  by_contra hwf
  have hchecks : earlyTrap.checks d g i = some { code := 0x01 } := by simp [earlyTrap.checks, hwf]
  rw [earlyTrap, hchecks] at hearly
  cases hearly

/-- An instruction that fires is well-formed, so that its completion may rest on it. -/
theorem completes_of_wf {i : Instr} {pre : Issue → State → Prop} {post : Issue → State → State → Prop}
    (h : i.wf = true → Completes i pre post) : Completes i pre post :=
  fun s k d g F => h (wf_of_fires F) s k d g F

theorem checks_of_wf {i : Instr} (h : i.wf = true) :
    checkGuard i.shape i.ctl = none ∧ checkDst i.shape i.ctl = none ∧ i.shape.extra = true := by
  rw [Instr.wf, Option.isNone_iff_eq_none, Instr.check] at h
  simp only [Option.or_eq_none_iff, ite_eq_left_iff, reduceCtorEq, imp_false, Bool.not_eq_true, Bool.not_eq_false] at h
  obtain ⟨-, -, hguard, hdst, -, -, hextra⟩ := h
  exact ⟨hguard, hdst, hextra⟩

/-- The uniform form needs a destination that has one (R27). -/
theorem uniformForm_of_wf {i : Instr} (h : i.wf = true) (hdst : i.shape.dst.uniformOk = false) : i.ctl.uniformForm = false := by
  obtain ⟨hguard, -⟩ := checks_of_wf h
  unfold checkGuard at hguard
  by_contra hu
  rw [Bool.not_eq_false] at hu
  rw [if_pos hu, hdst] at hguard
  cases hguard

/-- The low register of a pair is even (R28). -/
theorem even_of_wf {i : Instr} (h : i.wf = true) (hdst : i.shape.dst = .pairVS) : i.shape.d.toNat % 2 = 0 := by
  obtain ⟨-, hpair, -⟩ := checks_of_wf h
  unfold checkDst at hpair
  rw [hdst] at hpair
  dsimp only at hpair
  split at hpair
  · cases hpair
  · split at hpair
    · cases hpair
    · omega

/-! ### Results as they are stated -/

theorem lt_of_computes {x : Issue} {j : Nat} (h : computes x j) : j < 32 := by
  unfold computes at h
  split at h
  · omega
  · exact h.1

theorem result_congr {lat : Nat} {into into' : Issue → LandTo} {mask mask' : Issue → Mask} {val val' : Issue → Nat → DWord}
    {fl fl' : Issue → Nat → BitVec 5} {x : Issue} {s t : State} (h : Result lat into mask val fl x s t) (hinto : into x = into' x)
    (hmask : mask x = mask' x) (hval : ∀ j < 32, val x j = val' x j) (hfl : ∀ j < 32, fl x j = fl' x j) :
    Result lat into' mask' val' fl' x s t := by
  obtain ⟨d', y, hissued, hkept, hplain, hmem, hdue, hto, hym, hcontrol, hvalues, hflags⟩ := h
  refine ⟨d', y, hissued, hkept, hplain, hmem, hdue, hto.trans hinto, hym.trans hmask, hcontrol, fun j hj => ?_, fun j f => ?_⟩
  · exact (hvalues j hj).trans (hval j (lt_of_computes hj))
  · rw [hflags]
    refine and_congr_right' (and_congr_right' (and_congr_right fun hj => ?_))
    rw [hfl j hj]

/-- A destination that is a lane register, or a uniform one in the uniform form (R27, R28). -/
def byForm : DstClass → Bool
  | .s | .sPair | .k => false
  | _ => true

section
variable {x : Issue} {n : Nat}

theorem dest_byForm (h : byForm x.i.shape.dst = true) : x.dest n = toReg x.i.shape.d n x := by
  unfold Issue.dest
  cases hdst : x.i.shape.dst with
  | s | sPair | k => rw [hdst] at h; cases h
  | _ => rfl

theorem dest_k (h : x.i.shape.dst = .k) : x.dest n = toPred x.i.shape.d x := by
  unfold Issue.dest
  rw [h]
  rfl

/-- A result that goes to no uniform register of its own is written in `inLanes`. -/
theorem wmask_inLanes (hs : x.i.shape.dst ≠ .s) (hpair : x.i.shape.dst ≠ .sPair) :
    x.wmask (match x.i.shape.dst with | .s | .sPair => true | _ => x.uniform) = inLanes x := by
  cases hdst : x.i.shape.dst with
  | s | sPair => simp [hdst] at hs hpair
  | _ => rfl

end

/-! ### Lane instructions -/

section
variable {i : Instr} {n lat : Nat} {op : Issue → Nat → DWord × BitVec 5} {val : Issue → Nat → DWord}
  {fl : Issue → Nat → BitVec 5} {d : BitVec 8}

/-- A lane instruction completes with what its operation gives in each lane. -/
theorem completes_laneOp {into : Issue → LandTo} (hexec : ∀ s, exec i s = laneOp i s n op) (hlong : i.shape.long = false)
    (hlat : i.shape.lat = lat) (h2 : 2 ≤ lat) (hdst : i.shape.dst ≠ .s ∧ i.shape.dst ≠ .sPair)
    (hinto : ∀ x, x.i = i → x.dest n = into x) (hop : ∀ x j, x.i = i → j < 32 → op x j = (val x j, fl x j)) :
    Completes i Always (Result lat into inLanes val fl) := by
  intro s k e g F _
  obtain ⟨t, hgo, hresult⟩ := Laws.laneOp_result hlong (hlat ▸ h2) n op F
  have hi := Laws.sees_i i k e g
  rw [hlat] at hresult
  refine ⟨t, (hexec s).trans hgo, result_congr hresult (hinto _ hi) (wmask_inLanes ?_ ?_) (fun j hj => ?_) fun j hj => ?_⟩
  · rw [hi]; exact hdst.1
  · rw [hi]; exact hdst.2
  · exact congrArg Prod.fst (hop _ j hi hj)
  · exact congrArg Prod.snd (hop _ j hi hj)

/-- The shape of a lane instruction of latency `lat` whose result goes to register d by the form. -/
structure RegShape (i : Instr) (lat : Nat) (d : BitVec 8) : Prop where
  long : i.shape.long = false := by rfl
  latency : i.shape.lat = lat := by rfl
  two : 2 ≤ lat := by decide
  dst : byForm i.shape.dst = true := by rfl
  reg : i.shape.d = d := by rfl
/-- The shape of a lane instruction of latency `lat` that writes predicate d. -/
structure PredShape (i : Instr) (lat : Nat) (d : BitVec 8) : Prop where
  long : i.shape.long = false := by rfl
  latency : i.shape.lat = lat := by rfl
  two : 2 ≤ lat := by decide
  dst : i.shape.dst = .k := by rfl
  reg : i.shape.d = d := by rfl

theorem completes_reg (hexec : ∀ s, exec i s = laneOp i s n op) (hshape : RegShape i lat d)
    (hop : ∀ x j, x.i = i → j < 32 → op x j = (val x j, fl x j)) : Completes i Always (Result lat (toReg d n) inLanes val fl) := by
  obtain ⟨hlong, hlat, h2, hdst, rfl⟩ := hshape
  refine completes_laneOp hexec hlong hlat h2 ⟨?_, ?_⟩ (fun x hi => ?_) hop
  · intro h
    rw [h] at hdst
    cases hdst
  · intro h
    rw [h] at hdst
    cases hdst
  · subst hi
    exact dest_byForm hdst

theorem completes_pred (hexec : ∀ s, exec i s = laneOp i s 1 op) (hshape : PredShape i lat d)
    (hop : ∀ x j, x.i = i → j < 32 → op x j = (val x j, fl x j)) : Completes i Always (Result lat (toPred d) inLanes val fl) := by
  obtain ⟨hlong, hlat, h2, hdst, rfl⟩ := hshape
  refine completes_laneOp hexec hlong hlat h2 ⟨?_, ?_⟩ (fun x hi => ?_) hop
  · rw [hdst]
    exact DstClass.noConfusion
  · rw [hdst]
    exact DstClass.noConfusion
  · subst hi
    exact dest_k hdst

end

section
variable {i : Instr} {lat : Nat} {d : BitVec 8}

theorem completes_result32 {op val : Issue → Nat → Word} (hexec : ∀ s, exec i s = laneOp32 i s op) (hshape : RegShape i lat d)
    (hop : ∀ x j, x.i = i → j < 32 → op x j = val x j) : Completes i Always (Result32 lat d val) :=
  completes_reg hexec hshape fun x j hi hj => by rw [hop x j hi hj]; rfl

theorem completes_result64 {op val : Issue → Nat → DWord} (hexec : ∀ s, exec i s = laneOp64 i s op) (hshape : RegShape i lat d)
    (hop : ∀ x j, x.i = i → j < 32 → op x j = val x j) : Completes i Always (Result64 lat d val) :=
  completes_reg hexec hshape fun x j hi hj => by rw [hop x j hi hj]; rfl

theorem completes_resultF {op : Issue → Nat → DWord × BitVec 5} {val : Issue → Nat → Nat × BitVec 5}
    (hexec : ∀ s, exec i s = laneOp i s 1 op) (hshape : RegShape i lat d)
    (hop : ∀ x j, x.i = i → j < 32 → op x j = fpRes (val x j)) : Completes i Always (ResultF lat d val) :=
  completes_reg hexec hshape hop

/-- A lane instruction that writes a predicate computes a word of which bit 0 counts. -/
theorem completes_resultK {op : Issue → Nat → Word} {val : Issue → Nat → Bool} (hexec : ∀ s, exec i s = laneOp32 i s op)
    (hshape : PredShape i lat d) (hop : ∀ x j, x.i = i → j < 32 → op x j = bit01 (val x j)) :
    Completes i Always (ResultK lat d val) := by
  refine completes_pred hexec hshape fun x j hi hj => ?_
  rw [hop x j hi hj]
  cases val x j <;> rfl

end

/-! ### The old value of a destination -/

section
variable {x : Issue} {d : BitVec 8}

theorem old_one (hd : x.i.shape.d = d) (j : Nat) : x.old 1 j = (oldReg x d j).setWidth 64 := by
  subst hd
  rfl

theorem old_pair (hd : x.i.shape.d = d) (heven : d.toNat % 2 = 0) (j : Nat) :
    x.old 2 j = (oldReg x (d + 1) j ++ oldReg x d j : BitVec 64) := by
  subst hd
  have hnext : (x.i.shape.d + 1).toNat = x.i.shape.d.toNat + 1 := by
    rw [BitVec.toNat_add]
    exact Nat.mod_eq_of_lt (by have := x.i.shape.d.isLt; simp at this ⊢; omega)
  unfold oldReg
  rw [hnext]
  rfl

theorem oldN_eq (hd : x.i.shape.d = d) (j : Nat) : x.oldN j = (oldReg x d j).toNat := by
  rw [Issue.oldN, old_one hd, BitVec.toNat_setWidth_of_le (by decide)]
  exact Nat.mod_eq_of_lt (oldReg x d j).isLt

end

/-! ### Results that take a variable time -/

/-- The results of an operation in the lanes of a mask. -/
def lanesIn (act : Mask) (op : Nat → DWord × BitVec 5) : Vector (DWord × BitVec 5) 32 :=
  Vector.ofFn fun j => if inMask act j.val then op j.val else (0, 0)
/-- The flags of these results, by lane. -/
def flagsIn (act : Mask) (op : Nat → DWord × BitVec 5) : List (Nat × BitVec 5) :=
  (List.range 32).filterMap fun l =>
    let f := ((lanesIn act op).getD l (0, 0)).2
    if f ≠ 0 then some (l, f) else none

section
variable {act : Mask} {op : Nat → DWord × BitVec 5} {j : Nat}

theorem getD_lanesIn (hj : j < 32) : (lanesIn act op).getD j (0, 0) = if inMask act j then op j else (0, 0) := by
  simp [lanesIn, Vector.getD, hj]

theorem lane_lanesIn (hj : j < 32) (hact : inMask act j = true) : lane ((lanesIn act op).map (·.1)) j = (op j).1 := by
  have hlane : lane ((lanesIn act op).map (·.1)) j = ((lanesIn act op).getD j (0, 0)).1 := by simp [lane, Vector.getD, hj]
  rw [hlane, getD_lanesIn hj, if_pos hact]

theorem mem_flagsIn {f : BitVec 5} : (j, f) ∈ flagsIn act op ↔ j < 32 ∧ inMask act j = true ∧ f = (op j).2 ∧ f ≠ 0 := by
  simp only [flagsIn, List.mem_filterMap, List.mem_range, Option.ite_none_right_eq_some, Option.some.injEq, Prod.mk.injEq]
  constructor
  · rintro ⟨l, hl, hf, rfl, rfl⟩
    rw [getD_lanesIn hl] at hf ⊢
    by_cases hact : inMask act l = true
    · rw [if_pos hact] at hf ⊢
      exact ⟨hl, hact, rfl, hf⟩
    · rw [if_neg hact] at hf
      exact absurd rfl hf
  · rintro ⟨hj, hact, rfl, hf⟩
    refine ⟨j, hj, ?_, rfl, ?_⟩ <;> rw [getD_lanesIn hj, if_pos hact]
    exact hf

end

/-- The shape of an instruction of variable latency that writes lane register d. -/
structure SlowShape (i : Instr) (d : BitVec 8) : Prop where
  long : i.shape.long = false := by rfl
  dst : i.shape.dst = .v := by rfl
  reg : i.shape.d = d := by rfl

theorem dest_v_of_wf {x : Issue} {n : Nat} (h : x.i.wf = true) (hdst : x.i.shape.dst = .v) :
    x.dest n = .vec (vStore x.d.sysMode x.i.shape.d.toNat) n := by
  have hlane : x.i.ctl.uniformForm = false := uniformForm_of_wf h (by rw [hdst]; rfl)
  rw [dest_byForm (by rw [hdst]; rfl), toReg, hlane]
  rfl

/-- An instruction whose result is fixed at issue becomes outstanding with it (R118-R122). -/
theorem completes_slow {i : Instr} {d : BitVec 8} {op : Issue → Nat → DWord × BitVec 5} {val : Issue → Nat → Nat × BitVec 5}
    (hexec : ∀ s, exec i s = slowOp i s op) (hshape : SlowShape i d) (hop : ∀ x j, op x j = fpRes (val x j)) :
    Completes i Always (Slow d val) := by
  obtain ⟨hlong, hdst, rfl⟩ := hshape
  intro s k e g F _
  have hi := Laws.sees_i i k e g
  obtain ⟨t, hgo, hstarts⟩ := Laws.startOp_starts hlong F (s1 := actsIn i s k e g) (fun _ => rfl)
    (body := fun x s => startOp x s (.value ((lanesIn x.act (op x)).map (·.1))
      ((List.range 32).filterMap fun j =>
        let f := ((lanesIn x.act (op x)).getD j (0, 0)).2
        if f ≠ 0 && !x.i.ctl.nf then some (j, f) else none)) (x.dest 1) x.act) rfl
  rw [dest_v_of_wf (hi.symm ▸ wf_of_fires F) (hi.symm ▸ hdst), hi] at hstarts
  refine ⟨t, (hexec s).trans hgo, _, _, hstarts, fun j hj hact => ?_, fun j f => ?_⟩
  · rw [lane_lanesIn hj hact, hop]
    rfl
  · rw [hi]
    cases i.ctl.nf
    · simp only [Bool.not_false, Bool.and_true, decide_eq_true_eq]
      refine mem_flagsIn.trans ?_
      rw [hop]
      rw [true_and]
      exact Iff.rfl
    · simp

end Sys2Proof.Proofs
end

section
/-!
PROOFS about integer arithmetic (O13; R96): what the operations give, as sums and products of integers, and the statement form by form.
-/
namespace Sys2Proof.Proofs
set_option Elab.async false
open Sys2Proof.Machine

/-! ### Sums -/

section
variable {w : Nat} (a b : BitVec w)

theorem add_eq_ofInt : a + b = BitVec.ofInt w (a.toInt + b.toInt) := by
  rw [BitVec.ofInt_add, BitVec.ofInt_toInt, BitVec.ofInt_toInt]

theorem sub_eq_ofInt : a - b = BitVec.ofInt w (a.toInt - b.toInt) := by
  rw [Int.sub_eq_add_neg, BitVec.ofInt_add, BitVec.ofInt_neg, BitVec.ofInt_toInt, BitVec.ofInt_toInt, BitVec.sub_eq_add_neg]

theorem mul_eq_ofInt : a * b = BitVec.ofInt w (a.toInt * b.toInt) := by
  rw [BitVec.ofInt_mul, BitVec.ofInt_toInt, BitVec.ofInt_toInt]

end

theorem clampI_eq (v : Int) : clampI v = BitVec.ofInt 32 (max (-2147483648) (min 2147483647 v)) := by
  unfold clampI
  split
  · rw [show max (-2147483648) (min 2147483647 v) = -2147483648 by omega]
    rfl
  · split
    · rw [show max (-2147483648) (min 2147483647 v) = 2147483647 by omega]
      rfl
    · rw [show max (-2147483648) (min 2147483647 v) = v by omega]

theorem clampU_eq (v : Int) : clampU v = BitVec.ofNat 32 (min 4294967295 v.toNat) := by
  unfold clampU
  split
  · rw [show min 4294967295 v.toNat = 0 by omega]
    rfl
  · split
    · rw [show min 4294967295 v.toNat = 4294967295 by omega]
      rfl
    · rw [show min 4294967295 v.toNat = v.toNat by omega]
      obtain ⟨n, rfl⟩ := Int.eq_ofNat_of_zero_le (Int.not_lt.1 ‹_›)
      rw [Int.toNat_natCast, BitVec.ofInt_natCast]

theorem clampU_add (a b : Word) : clampU ((a.toNat : Int) + b.toNat) = BitVec.ofNat 32 (min 4294967295 (a.toNat + b.toNat)) := by
  rw [clampU_eq, ← Int.natCast_add, Int.toNat_natCast]

theorem clampU_sub (a b : Word) : clampU ((a.toNat : Int) - b.toNat) = BitVec.ofNat 32 (a.toNat - b.toNat) := by
  rw [clampU_eq, show ((a.toNat : Int) - b.toNat).toNat = a.toNat - b.toNat by omega, Nat.min_eq_right]
  have := a.isLt
  omega

/-! ### Products -/

theorem mulI_eq (a b : Word) : mulI a b = BitVec.ofInt 64 (a.toInt * b.toInt) := by
  rw [mulI, BitVec.ofInt_mul]
  rfl

theorem mulU_eq (a b : Word) : mulU a b = BitVec.ofNat 64 (a.toNat * b.toNat) := by
  rw [mulU, BitVec.ofNat_mul, BitVec.ofNat_toNat, BitVec.ofNat_toNat]

theorem low_mulU (a b : Word) : (mulU a b).setWidth 32 = a * b := by
  rw [mulU, BitVec.setWidth_mul _ _ (by decide), BitVec.setWidth_setWidth_of_le _ (by decide),
    BitVec.setWidth_setWidth_of_le _ (by decide), BitVec.setWidth_eq, BitVec.setWidth_eq]

theorem high_ofInt (p : Int) : (BitVec.ofInt 64 p >>> 32).setWidth 32 = BitVec.ofInt 32 (p / 4294967296) := by
  apply BitVec.eq_of_toNat_eq
  simp only [BitVec.toNat_setWidth, BitVec.toNat_ushiftRight, BitVec.toNat_ofInt, Nat.shiftRight_eq_div_pow]
  omega

theorem high_ofNat (p : Nat) : (BitVec.ofNat 64 p >>> 32).setWidth 32 = BitVec.ofNat 32 (p / 4294967296) := by
  apply BitVec.eq_of_toNat_eq
  simp only [BitVec.toNat_setWidth, BitVec.toNat_ushiftRight, BitVec.toNat_ofNat, Nat.shiftRight_eq_div_pow]
  omega

/-! ### The instructions -/

section
variable {d : BitVec 8} {a b : Src} {c : Ctl}

theorem completes_iadd {f : AddFn} (hf : f ≠ .i64) {val : Issue → Nat → Word}
    (h : ∀ x j, addValue f (src32 x a j) (src32 x b j) = val x j) : Completes (.iadd f d a b c) Always (Result32 4 d val) :=
  completes_result32 (fun _ => if_neg hf) { dst := by cases f <;> rfl } fun x j _ _ => h x j

theorem completes_isub {f : AddFn} (hf : f ≠ .i64) {val : Issue → Nat → Word}
    (h : ∀ x j, subValue f (src32 x a j) (src32 x b j) = val x j) : Completes (.isub f d a b c) Always (Result32 4 d val) :=
  completes_result32 (fun _ => if_neg hf) { dst := by cases f <;> rfl } fun x j _ _ => h x j

theorem completes_imul {f : MulFn} (hf : ¬ (f = .wideI ∨ f = .wideU)) {val : Issue → Nat → Word}
    (h : ∀ x j, (mulValue f (src32 x a j) (src32 x b j)).setWidth 32 = val x j) :
    Completes (.imul f d a b c) Always (Result32 4 d val) :=
  completes_result32 (fun _ => if_neg hf) { dst := by cases f <;> rfl } fun x j _ _ => h x j

theorem completes_imulWide {f : MulFn} (hf : f = .wideI ∨ f = .wideU) {val : Issue → Nat → DWord}
    (h : ∀ x j, mulValue f (src32 x a j) (src32 x b j) = val x j) : Completes (.imul f d a b c) Always (Result64 4 d val) :=
  completes_result64 (fun _ => if_pos hf) { dst := by cases f <;> rfl } fun x j _ _ => h x j

/-- The accumulator is the register that DST names (R96). -/
theorem completes_imacLow {val : Issue → Nat → Word}
    (h : ∀ x j, oldReg x d j + src32 x a j * src32 x b j = val x j) : Completes (.imac .lo d a b c) Always (Result32 4 d val) := by
  refine completes_result32 (op := fun x i => (x.old 1 i).setWidth 32 + src32 x a i * src32 x b i) (fun _ => rfl) {} fun x j hi _ => ?_
  have hd : x.i.shape.d = d := by rw [hi]; rfl
  rw [← h, old_one hd, BitVec.setWidth_setWidth_of_le _ (by decide), BitVec.setWidth_eq]

/-- The accumulator is the pair that DST names, which is even (R28, R96). -/
theorem completes_imacWide {val : Issue → Nat → DWord}
    (h : ∀ x j, (oldReg x (d + 1) j ++ oldReg x d j : BitVec 64) + mulU (src32 x a j) (src32 x b j) = val x j) :
    Completes (.imac .wideU d a b c) Always (Result64 4 d val) := by
  refine completes_of_wf fun hwf => ?_
  refine completes_result64 (op := fun x i => x.old 2 i + mulU (src32 x a i) (src32 x b i)) (fun _ => rfl) {} fun x j hi _ => ?_
  have hd : x.i.shape.d = d := by rw [hi]; rfl
  rw [← h, old_pair hd (even_of_wf hwf rfl)]

end

/-- Settles O13, form by form: what the form computes is the sum or product of the integers that its operands stand for. -/
theorem integerArithmetic : Obligations.IntegerArithmetic := by
  intro d a b c
  refine ⟨?add, ?addClampI, ?addClampU, ?addWide, ?sub, ?subClampI, ?subClampU, ?subWide, ?mulLow, ?mulHighI, ?mulHighU, ?mulWideI,
    ?mulWideU, ?macLow, ?macWide⟩
  case add => exact completes_iadd (by decide) fun x j => add_eq_ofInt _ _
  case addClampI => exact completes_iadd (by decide) fun x j => clampI_eq _
  case addClampU => exact completes_iadd (by decide) fun x j => clampU_add _ _
  case addWide =>
    exact completes_result64 (op := fun x j => src64 x a j + src64 x b j) (fun _ => rfl) {} fun x j _ _ => add_eq_ofInt _ _
  case sub => exact completes_isub (by decide) fun x j => sub_eq_ofInt _ _
  case subClampI => exact completes_isub (by decide) fun x j => clampI_eq _
  case subClampU => exact completes_isub (by decide) fun x j => clampU_sub _ _
  case subWide =>
    exact completes_result64 (op := fun x j => src64 x a j - src64 x b j) (fun _ => rfl) {} fun x j _ _ => sub_eq_ofInt _ _
  case mulLow => exact completes_imul (by decide) fun x j => (low_mulU _ _).trans (mul_eq_ofInt _ _)
  case mulHighI => exact completes_imul (by decide) fun x j => by rw [mulValue, mulI_eq, high_ofInt]
  case mulHighU => exact completes_imul (by decide) fun x j => by rw [mulValue, mulU_eq, high_ofNat]
  case mulWideI => exact completes_imulWide (by decide) fun x j => mulI_eq _ _
  case mulWideU => exact completes_imulWide (by decide) fun x j => mulU_eq _ _
  case macLow =>
    refine completes_imacLow fun x j => ?_
    rw [BitVec.ofNat_add, BitVec.ofNat_mul, BitVec.ofNat_toNat, BitVec.ofNat_toNat, BitVec.ofNat_toNat, BitVec.setWidth_eq,
      BitVec.setWidth_eq, BitVec.setWidth_eq]
  case macWide =>
    exact completes_imacWide fun x j => by rw [mulU_eq, BitVec.ofNat_add, BitVec.ofNat_toNat, BitVec.setWidth_eq]

end Sys2Proof.Proofs
end

section
/-!
PROOFS about comparison, selection and predicates (O14, O15; R102, R103): what ICMP compares, how its word and its landing are read, and
what SEL, MOV and KOP choose.
-/
namespace Sys2Proof.Proofs
set_option Elab.async false
open Sys2Proof.Machine

/-! ### Comparisons -/

section
variable (a b : Word)

theorem cmpValue_eq : cmpValue .eq false a b = decide (a = b) := rfl
theorem cmpValue_ne : cmpValue .ne false a b = decide (a ≠ b) := rfl

theorem cmpValue_ltI : cmpValue .lt false a b = decide (a.toInt < b.toInt) := rfl
theorem cmpValue_geI : cmpValue .ge false a b = decide (b.toInt ≤ a.toInt) := by
  rw [Bool.eq_iff_iff, decide_eq_true_eq, ← not_lt]
  simp [cmpValue, BitVec.slt]
theorem cmpValue_leI : cmpValue .le false a b = decide (a.toInt ≤ b.toInt) := by
  rw [Bool.eq_iff_iff, decide_eq_true_eq, le_iff_lt_or_eq, BitVec.toInt_inj]
  simp [cmpValue, BitVec.slt]
theorem cmpValue_gtI : cmpValue .gt false a b = decide (b.toInt < a.toInt) := by
  have hnot : cmpValue .gt false a b = !cmpValue .le false a b := rfl
  rw [hnot, cmpValue_leI, Bool.eq_iff_iff, decide_eq_true_eq, ← not_le]
  simp

theorem cmpValue_ltU : cmpValue .lt true a b = decide (a.toNat < b.toNat) := rfl
theorem cmpValue_geU : cmpValue .ge true a b = decide (b.toNat ≤ a.toNat) := by
  rw [Bool.eq_iff_iff, decide_eq_true_eq, ← not_lt]
  simp [cmpValue, BitVec.ult]
theorem cmpValue_leU : cmpValue .le true a b = decide (a.toNat ≤ b.toNat) := by
  rw [Bool.eq_iff_iff, decide_eq_true_eq, le_iff_lt_or_eq, BitVec.toNat_inj]
  simp [cmpValue, BitVec.ult]
theorem cmpValue_gtU : cmpValue .gt true a b = decide (b.toNat < a.toNat) := by
  have hnot : cmpValue .gt true a b = !cmpValue .le true a b := rfl
  rw [hnot, cmpValue_leU, Bool.eq_iff_iff, decide_eq_true_eq, ← not_le]
  simp

end

section
variable {d : BitVec 8} {a b : Src} {c : Ctl}

theorem completes_icmp {f : CmpFn} {u : Bool} {val : Issue → Nat → Bool}
    (h : ∀ x j, cmpValue f u (src32 x a j) (src32 x b j) = val x j) : Completes (.icmp f u d a b c) Always (ResultK 4 d val) :=
  completes_resultK (op := fun x j => bit01 (cmpValue f u (src32 x a j) (src32 x b j))) (fun _ => rfl) {}
    fun x j _ _ => by rw [h x j]

/-- FN and X are read in word 1 (R23, R24). -/
theorem word1_fields (w : Fields) :
    ((packFields w).extractLsb' 32 32).extractLsb' 19 3 = w.fn ∧ ((packFields w).extractLsb' 32 32).getLsbD 0 = w.x := by
  have hlo : w.lo = (packFields w).extractLsb' 32 28 := (congrArg Fields.lo (unpackFields_packFields w)).symm
  rw [Fields.fn, Fields.x, hlo]
  constructor
  · ext l hl
    have hbit : 19 + l < 32 ∧ 19 + l < 28 := by omega
    simp [hbit]
  · simp

theorem word1_icmp {f : CmpFn} {u : Bool} {w0 w1 : BitVec 32} (h : encode (.icmp f u d a b c) = [w0, w1]) :
    w1.extractLsb' 19 3 = f.bits ∧ w1.getLsbD 0 = u := by
  rw [encode_furrow rfl, List.cons.injEq, List.cons.injEq] at h
  obtain ⟨-, rfl, -⟩ := h
  obtain ⟨hfn, hx⟩ := word1_fields (encodeFields (.icmp f u d a b c))
  obtain ⟨-, hfn', -, -, hx'⟩ := fieldsOf_loV c 12 d c.sbw f.bits (codeOfSrc a) (codeOfSrc b) u
  exact ⟨hfn.trans hfn', hx.trans hx'⟩

end

/-- ICMP has no uniform form (R102): a predicate is no register that has one. -/
theorem icmp_uniform_not_wf {f : CmpFn} {u : Bool} {d : BitVec 8} {a b : Src} {c : Ctl} (hu : c.uniformForm = true) :
    (Instr.icmp f u d a b c).wf = false := by
  by_contra hwf
  have hlane := uniformForm_of_wf (Bool.eq_true_of_not_eq_false hwf) rfl
  exact Bool.false_ne_true (hlane.symm.trans hu)

/-- X = 1 is for the orders only (R102). -/
theorem icmp_extra_of_wf {f : CmpFn} {u : Bool} {d : BitVec 8} {a b : Src} {c : Ctl} (h : (Instr.icmp f u d a b c).wf = true) :
    (!(u && (f = .eq || f = .ne))) = true := (checks_of_wf h).2.2

/-- A landing without a latch leaves the latches. -/
theorem latches_afterLanding (d : Drill) {y : Landing} (hl : y.latch = none) : (afterLanding d y).latches = d.latches := by
  have hland : ((if y.noReg then d else d.landReg y).landLatch y) = if y.noReg then d else d.landReg y := by rw [Drill.landLatch, hl]
  rw [afterLanding, hland]
  exact (congrArg Drill.latches (bare_landReg d y) :)

/-- What the landing of a predicate does to the predicate and to the latches (R29, R76, R102). -/
theorem advance_pred {s : State} {k r : Nat} {d : Drill} {y : Landing} (hd : s.drill? k = some d) (hl : d.landings = [y])
    (hdue : y.due ≤ d.n + 1) (hinto : y.into = .pred r) :
    ∃ d', (s.advance k).drill? k = some d' ∧
      (y.noReg = false → ∀ j < 32, inMask (d'.kAt r) j =
        if r = 0 then true else if inMask y.mask j then (lane y.val j).getLsbD 0 else inMask (d.kAt r) j) ∧
      (∀ l, y.latch = some l → ∀ j < 32, lane (d'.latch l) j =
        if y.swath = d.swath ∧ inMask y.mask j = true then (lane y.val j).setWidth 32 else lane (d.latch l) j) ∧
      (y.latch = none → d'.latches = d.latches) := by
  obtain ⟨d', hd', -, -, -, -, -, -, hpred, -, hlatch, -⟩ := landingWrites s k d y hd hl hdue
  have hsys : writesSys y = false := by rw [writesSys, hinto]
  have hcount : y.into.count ≠ 2 := by simp [hinto, LandTo.count]
  let d0 : Drill := { d with n := d.n + 1, landings := [] }
  refine ⟨d', hd', fun hw j hj => hpred r j hj hinto hw, fun l hlat j hj => hlatch l j hj hlat hsys hcount, fun hnone => ?_⟩
  obtain ⟨e, he, hinner⟩ := drill_landOne (y := y) (show (s.setDrill k d0).drill? k = some d0 by simp) hsys
  rw [← advance_single hd hl hdue, hd'] at he
  obtain rfl := Option.some.inj he
  exact (congrArg Drill.latches hinner :).trans (latches_afterLanding _ hnone)

/-- Settles O14: the comparisons by `completes_icmp`, the word by `word1_icmp`, the landing by `advance_pred`. -/
theorem integerCompare : Obligations.IntegerCompare := by
  intro d a b c
  refine ⟨?eq, ?ne, ?ltI, ?leI, ?gtI, ?geI, ?ltU, ?leU, ?gtU, ?geU, ?fn, ?x, ?eqX, ?neX, ?uniform, ?landing⟩
  case eq => exact completes_icmp fun x j => cmpValue_eq _ _
  case ne => exact completes_icmp fun x j => cmpValue_ne _ _
  case ltI => exact completes_icmp fun x j => cmpValue_ltI _ _
  case leI => exact completes_icmp fun x j => cmpValue_leI _ _
  case gtI => exact completes_icmp fun x j => cmpValue_gtI _ _
  case geI => exact completes_icmp fun x j => cmpValue_geI _ _
  case ltU => exact completes_icmp fun x j => cmpValue_ltU _ _
  case leU => exact completes_icmp fun x j => cmpValue_leU _ _
  case gtU => exact completes_icmp fun x j => cmpValue_gtU _ _
  case geU => exact completes_icmp fun x j => cmpValue_geU _ _
  case fn =>
    intro f u w0 w1 h
    rw [(word1_icmp h).1]
    cases f <;> rfl
  case x =>
    exact fun u w0 w1 f h => (word1_icmp h).2
  case eqX => exact Bool.eq_false_iff.2 fun hwf => Bool.false_ne_true (icmp_extra_of_wf hwf)
  case neX => exact Bool.eq_false_iff.2 fun hwf => Bool.false_ne_true (icmp_extra_of_wf hwf)
  case uniform => exact fun f u hu => icmp_uniform_not_wf hu
  case landing =>
    intro s k e y hd hl hdue hinto
    obtain ⟨e', he', hpred, hlatch, hnone⟩ := advance_pred hd hl hdue hinto
    refine ⟨e', he', fun hw j hj => ?_, hlatch, hnone⟩
    rw [hpred hw j hj]
    simp only [← BitVec.toNat_inj]
    rfl

/-! ### Selection and predicates -/

/-- k0 holds every lane (R28). -/
theorem inMask_k0 (d : Drill) {j : Nat} (hj : j < 32) : inMask (d.kAt 0) j = true := inMask_all hj

section
variable {p q : Bool}

theorem kopValue_and : kopValue .and (bit01 p) (bit01 q) = bit01 (p && q) := by decide +revert
theorem kopValue_or : kopValue .or (bit01 p) (bit01 q) = bit01 (p || q) := by decide +revert
theorem kopValue_xor : kopValue .xor (bit01 p) (bit01 q) = bit01 (p ^^ q) := by decide +revert
theorem kopValue_andn : kopValue .andn (bit01 p) (bit01 q) = bit01 (p && !q) := by decide +revert
theorem kopValue_not (b : Word) : kopValue .not (bit01 p) b = bit01 (!p) := by cases p <;> rfl

end

/-- KOP reads a predicate as its bit of the lane (R103). -/
theorem completes_kop {f : KopFn} {d : BitVec 8} {m : BitVec 3} {b : Src} {c : Ctl} {val : Issue → Nat → Bool}
    (h : ∀ x j, kopValue f (bit01 (inMask (x.d.kAt m.toNat) j)) (src32 x b j) = bit01 (val x j)) :
    Completes (.kop f d (.k m) b c) Always (ResultK 4 d val) :=
  completes_resultK (op := fun x j => kopValue f (src32 x (.k m) j) (src32 x b j)) (fun _ => rfl) {} fun x j _ _ => h x j

/-- Settles O15: SEL by the lane's bit of its predicate, KOP by the bits of two. -/
theorem selectAndPredicates : Obligations.SelectAndPredicates := by
  intro d a b c
  refine ⟨fun k => ?sel, ?mov, ?movWide, fun m n => ⟨?and, ?or, ?xor, ?andn, ?not⟩⟩
  case sel =>
    refine completes_result32 (op := fun x j => if inMask (x.d.kAt k.toNat) j then src32 x a j else src32 x b j) (fun _ => rfl) {}
      fun x j _ hj => ?_
    by_cases hk : k = 0
    · subst hk
      rw [if_pos (Or.inl rfl)]
      exact if_pos (inMask_k0 x.d hj)
    · simp only [hk, false_or]
  case mov => exact completes_result32 (op := fun x j => src32 x a j) (fun _ => rfl) {} fun _ _ _ _ => rfl
  case movWide => exact completes_result64 (op := fun x j => src64 x a j) (fun _ => rfl) {} fun _ _ _ _ => rfl
  case and => exact completes_kop fun x j => kopValue_and
  case or => exact completes_kop fun x j => kopValue_or
  case xor => exact completes_kop fun x j => kopValue_xor
  case andn => exact completes_kop fun x j => kopValue_andn
  case not => exact completes_kop fun x j => kopValue_not _

end Sys2Proof.Proofs
end

section
/-!
PROOFS about integer and logic instructions, immediates and permutes (O16; R97-R101, R104, R113): what each gives, as a number or
by its bits.
-/
namespace Sys2Proof.Proofs
set_option Elab.async false
open Sys2Proof.Machine

/-! ### Fields of a word, read and replaced -/

section
variable {w : Nat} (x : BitVec w)

theorem field_low (n : Nat) : field x 0 n = x.toNat % 2 ^ n := by rw [field, Nat.pow_zero, Nat.div_one]

theorem field_eq_extract (lo n : Nat) : field x lo n = (x.extractLsb' lo n).toNat := by
  rw [field, BitVec.extractLsb'_toNat, Nat.shiftRight_eq_div_pow]

theorem testBit_field (lo n l : Nat) : (field x lo n).testBit l = (decide (l < n) && x.getLsbD (lo + l)) := by
  rw [field_eq_extract, BitVec.testBit_toNat, BitVec.getLsbD_extractLsb']

/-- A field that is put into a word replaces the bits that it names. -/
theorem getLsbD_putField (lo n a : Nat) {l : Nat} (hl : l < w) :
    (putField x lo n a).getLsbD l = if lo ≤ l ∧ l < lo + n then a.testBit (l - lo) else x.getLsbD l := by
  have hsub : l - lo < w := by omega
  simp only [putField, BitVec.getLsbD_or, BitVec.getLsbD_and, BitVec.getLsbD_not, BitVec.getLsbD_shiftLeft, BitVec.getLsbD_ofNat,
    Nat.testBit_two_pow_sub_one, Nat.testBit_mod_two_pow, hl, hsub, decide_true, Bool.true_and]
  by_cases hlo : lo ≤ l
  · by_cases hn : l < lo + n
    · have hin : l - lo < n := by omega
      simp [hlo, hn, hin, Nat.not_lt.2 hlo]
    · have hout : ¬ l - lo < n := by omega
      simp [hn, hout]
  · simp [hlo, Nat.not_le.1 hlo]

end

/-! ### Minima, maxima and signs -/

section
variable (a b : Word)

theorem mnxValue_minI : mnxValue .minI a b = BitVec.ofInt 32 (min a.toInt b.toInt) := by
  simp only [mnxValue, BitVec.slt_iff_toInt_lt]
  split
  · rw [min_eq_left (by omega), BitVec.ofInt_toInt]
  · rw [min_eq_right (by omega), BitVec.ofInt_toInt]

theorem mnxValue_maxI : mnxValue .maxI a b = BitVec.ofInt 32 (max a.toInt b.toInt) := by
  simp only [mnxValue, BitVec.slt_iff_toInt_lt]
  split
  · rw [max_eq_right (by omega), BitVec.ofInt_toInt]
  · rw [max_eq_left (by omega), BitVec.ofInt_toInt]

theorem mnxValue_minU : mnxValue .minU a b = BitVec.ofNat 32 (min a.toNat b.toNat) := by
  simp only [mnxValue, BitVec.ult_iff_toNat_lt]
  split
  · rw [min_eq_left (by omega), BitVec.ofNat_toNat, BitVec.setWidth_eq]
  · rw [min_eq_right (by omega), BitVec.ofNat_toNat, BitVec.setWidth_eq]

theorem mnxValue_maxU : mnxValue .maxU a b = BitVec.ofNat 32 (max a.toNat b.toNat) := by
  simp only [mnxValue, BitVec.ult_iff_toNat_lt]
  split
  · rw [max_eq_right (by omega), BitVec.ofNat_toNat, BitVec.setWidth_eq]
  · rw [max_eq_left (by omega), BitVec.ofNat_toNat, BitVec.setWidth_eq]

theorem neg_eq_ofInt : -a = BitVec.ofInt 32 (-a.toInt) := by rw [BitVec.ofInt_neg, BitVec.ofInt_toInt]

theorem mnxValue_abs : mnxValue .abs a b = BitVec.ofNat 32 a.toInt.natAbs := by
  have hmsb : a.getLsbD 31 = decide (a.toInt < 0) := by
    rw [Bool.eq_iff_iff, decide_eq_true_eq, BitVec.toInt_neg_iff]
    exact (Bool.eq_iff_iff.1 (BitVec.msb_eq_decide a)).trans decide_eq_true_iff |>.trans (by omega)
  rw [mnxValue, hmsb, ← BitVec.ofInt_natCast]
  split
  · rw [neg_eq_ofInt, show ((a.toInt.natAbs : Nat) : Int) = -a.toInt by simp_all; omega]
  · rw [show ((a.toInt.natAbs : Nat) : Int) = a.toInt by simp_all, BitVec.ofInt_toInt]

end

/-! ### Shifts -/

theorem sshiftRight_eq {w : Nat} (a : BitVec w) (n : Nat) : a.sshiftRight n = BitVec.ofInt w (a.toInt / 2 ^ n) := by
  rw [BitVec.sshiftRight, Int.shiftRight_eq_div_pow]
  norm_cast

theorem ushiftRight_eq {w : Nat} (a : BitVec w) (n : Nat) : a >>> n = BitVec.ofNat w (a.toNat / 2 ^ n) := by
  rw [← Nat.shiftRight_eq_div_pow, ← BitVec.toNat_ushiftRight, BitVec.ofNat_toNat, BitVec.setWidth_eq]

/-- An address: the index, shifted, is a multiple of it (R101). -/
theorem lea_eq (a : DWord) (b : Word) (n : Nat) : a + (b.signExtend 64 <<< n) = BitVec.ofInt 64 (a.toInt + b.toInt * 2 ^ n) := by
  have hpow : BitVec.twoPow 64 n = BitVec.ofInt 64 (2 ^ n) := by
    rw [show ((2 : Int) ^ n) = ((2 ^ n : Nat) : Int) by norm_cast, BitVec.ofInt_natCast]
    exact BitVec.eq_of_toNat_eq (by rw [BitVec.toNat_twoPow, BitVec.toNat_ofNat])
  rw [BitVec.ofInt_add, BitVec.ofInt_toInt, BitVec.shiftLeft_eq_mul_twoPow, BitVec.ofInt_mul, hpow]
  rfl

/-! ### Fields -/

theorem bfxLength (b : Word) :
    (if field b 0 8 ≥ 32 then 0 else min (field b 8 8) (32 - field b 0 8)) = fieldLength b := by
  rw [field_low]
  rfl

theorem fieldLength_le (b : Word) : fieldLength b ≤ 32 := by
  unfold fieldLength
  split <;> omega

/-- The field that BFX reads (R99). -/
theorem bfxValue_eq (sgn : Bool) (a b : Word) :
    bfxValue sgn a b =
      let f := a.toNat / 2 ^ (b.toNat % 256) % 2 ^ fieldLength b
      BitVec.ofInt 32 (if sgn = true ∧ fieldLength b ≠ 0 ∧ 2 ^ (fieldLength b - 1) ≤ f then (f : Int) - 2 ^ fieldLength b else f) := by
  have hlen := fieldLength_le b
  unfold bfxValue
  dsimp only
  rw [bfxLength, field, field_low]
  generalize hf : a.toNat / 2 ^ (b.toNat % 2 ^ 8) % 2 ^ fieldLength b = f
  by_cases h0 : fieldLength b = 0
  · have hzero : f = 0 := by rw [← hf, h0, Nat.pow_zero, Nat.mod_one]
    simp [h0, hzero]
  · rw [if_neg h0]
    by_cases hneg : sgn = true ∧ 2 ^ (fieldLength b - 1) ≤ f
    · have hpow : 2 ^ fieldLength b ≤ 2 ^ 32 := Nat.pow_le_pow_right (by decide) hlen
      have hsum : ((f + 2 ^ 32 - 2 ^ fieldLength b : Nat) : Int) = (f - 2 ^ fieldLength b) + 2 ^ 32 := by
        rw [Nat.cast_sub (by omega)]
        push_cast
        ring
      rw [if_pos (by simpa using hneg), if_pos ⟨hneg.1, h0, hneg.2⟩, ← BitVec.ofInt_natCast, hsum, BitVec.ofInt_add]
      exact BitVec.add_zero _
    · rw [if_neg (by simpa using hneg), if_neg (fun h => hneg ⟨h.1, h.2.2⟩), BitVec.ofInt_natCast]

theorem getLsbD_bfiValue (a b : Word) {l : Nat} (hl : l < 32) : (bfiValue a b).getLsbD l =
    if b.toNat % 32 ≤ l ∧ l < b.toNat % 32 + min (b.toNat / 256 % 32) 16 then b.getLsbD (16 + (l - b.toNat % 32)) else a.getLsbD l := by
  rw [bfiValue, getLsbD_putField _ _ _ _ hl, testBit_field, field_low, field]
  simp only [Nat.reducePow]
  have hrange : (b.toNat % 32 ≤ l ∧ l < b.toNat % 32 + min (min (b.toNat / 256 % 32) 16) (32 - b.toNat % 32)) ↔
      (b.toNat % 32 ≤ l ∧ l < b.toNat % 32 + min (b.toNat / 256 % 32) 16) := by omega
  simp only [hrange]
  split
  · rw [decide_eq_true (by omega), Bool.true_and]
  · rfl

/-! ### Bits -/

section
variable (a : Word)

theorem popc_eq : (setBits a).length = (List.range 32).countP fun l => a.getLsbD l := List.countP_eq_length_filter.symm

theorem head_setBits : (setBits a).head? = (List.range 32).find? fun l => a.getLsbD l := List.head?_filter

/-- The last set bit is that of the logarithm: no bit above it is set. -/
theorem last_setBits (ha : a ≠ 0) : (setBits a).getLast? = some a.toNat.log2 := by
  have hne : a.toNat ≠ 0 := fun h => ha (BitVec.eq_of_toNat_eq h)
  have hlog : a.toNat.log2 < 32 := (Nat.log2_lt hne).2 a.isLt
  obtain ⟨n, hn⟩ := Nat.exists_eq_add_of_le hlog
  have hset : a.getLsbD a.toNat.log2 = true := Nat.testBit_log2 hne
  have habove : ((List.range n).map (a.toNat.log2 + 1 + ·)).filter a.getLsbD = [] := by
    refine List.filter_eq_nil_iff.2 fun l hl => ?_
    obtain ⟨j, -, rfl⟩ := List.mem_map.1 hl
    rw [BitVec.getLsbD, Nat.testBit_lt_two_pow (Nat.lt_log2_self.trans_le (Nat.pow_le_pow_right (by decide) (by omega)))]
    exact Bool.false_ne_true
  have hrange : List.range 32 = List.range a.toNat.log2 ++ [a.toNat.log2] ++ (List.range n).map (a.toNat.log2 + 1 + ·) :=
    (congrArg List.range hn).trans (by rw [List.range_add, List.range_succ])
  rw [setBits, hrange, List.filter_append, habove, List.append_nil, List.filter_append]
  simp [hset]

theorem last_setBits_zero : (setBits 0).getLast? = none := by decide

theorem bitValue_clz : bitValue .clz a = if a = 0 then 32 else BitVec.ofNat 32 (31 - a.toNat.log2) := by
  split
  · subst_vars
    rfl
  · rw [bitValue, last_setBits a ‹_›]

theorem bitValue_ffs : bitValue .ffs a = if a = 0 then 0xFFFFFFFF else BitVec.ofNat 32 a.toNat.log2 := by
  split
  · subst_vars
    rfl
  · rw [bitValue, last_setBits a ‹_›]

theorem bitValue_brev : bitValue .brev a = a.reverse := by
  refine BitVec.eq_of_getLsbD_eq fun l hl => ?_
  rw [bitValue, BitVec.getLsbD_setWidth, BitVec.getLsbD_ofBoolListLE, BitVec.getLsbD_reverse, BitVec.getMsbD_eq_getLsbD]
  simp [hl]

end

/-! ### The instructions -/

section
variable {d : BitVec 8} {a b : Src} {c : Ctl} {val : Issue → Nat → Word}

theorem completes_imnx {f : MnxFn} (h : ∀ x j, mnxValue f (src32 x a j) (src32 x b j) = val x j) :
    Completes (.imnx f d a b c) Always (Result32 4 d val) :=
  completes_result32 (op := fun x j => mnxValue f (src32 x a j) (src32 x b j)) (fun _ => rfl) {} fun x j _ _ => h x j

theorem completes_log {f : LogFn} (h : ∀ x j, logValue f (src32 x a j) (src32 x b j) = val x j) :
    Completes (.log f d a b c) Always (Result32 4 d val) :=
  completes_result32 (op := fun x j => logValue f (src32 x a j) (src32 x b j)) (fun _ => rfl) {} fun x j _ _ => h x j

/-- A shift count is taken below the width (R98). -/
theorem completes_shf {f : ShfFn} (h : ∀ x j, shfValue f (src32 x a j) ((src32 x b j).toNat % 32) = val x j) :
    Completes (.shf f false d a b c) Always (Result32 4 d val) :=
  completes_result32 (op := fun x j => shfValue f (src32 x a j) (field (src32 x b j) 0 5)) (fun _ => rfl) {}
    fun x j _ _ => by rw [field_low]; exact h x j

theorem completes_shfWide {f : ShfFn} {val : Issue → Nat → DWord}
    (h : ∀ x j, shfValue f (src64 x a j) ((src32 x b j).toNat % 64) = val x j) :
    Completes (.shf f true d a b c) Always (Result64 4 d val) :=
  completes_result64 (op := fun x j => shfValue f (src64 x a j) (field (src32 x b j) 0 6)) (fun _ => rfl) {}
    fun x j _ _ => by rw [field_low]; exact h x j

theorem completes_bfx {sgn : Bool} (h : ∀ x j, bfxValue sgn (src32 x a j) (src32 x b j) = val x j) :
    Completes (.bfx sgn d a b c) Always (Result32 4 d val) :=
  completes_result32 (op := fun x j => bfxValue sgn (src32 x a j) (src32 x b j)) (fun _ => rfl) {} fun x j _ _ => h x j

theorem completes_bit {f : BitFn} (h : ∀ x j, bitValue f (src32 x a j) = val x j) :
    Completes (.bit f d a c) Always (Result32 4 d val) :=
  completes_result32 (op := fun x j => bitValue f (src32 x a j)) (fun _ => rfl) {} fun x j _ _ => h x j

theorem completes_prmt : Completes (.prmt d a b c) Always
    (Result32 4 d fun x j => prmtValue (src32 x a j) ((src32 x b j).extractLsb' 0 16)) :=
  completes_result32 (op := fun x j => prmtValue (src32 x a j) ((src32 x b j).setWidth 16)) (fun _ => rfl) {}
    fun x j _ _ => by rw [BitVec.setWidth_eq_extractLsb' (by decide)]

end

/-! ### Immediates and permutes -/

section
variable {d : BitVec 8} {a : Src} {imm : BitVec 16} {c : Ctl}

theorem completes_iaddi :
    Completes (.iaddi d a imm c) Always (Result32 4 d fun x j => BitVec.ofInt 32 ((src32 x a j).toInt + imm.toInt)) :=
  completes_result32 (op := fun x j => src32 x a j + imm.signExtend 32) (fun _ => rfl) {} fun x j _ _ => by
    rw [BitVec.ofInt_add, BitVec.ofInt_toInt]
    rfl

theorem completes_imuli :
    Completes (.imuli d a imm c) Always (Result32 4 d fun x j => BitVec.ofInt 32 ((src32 x a j).toInt * imm.toInt)) :=
  completes_result32 (op := fun x j => src32 x a j * imm.signExtend 32) (fun _ => rfl) {} fun x j _ _ => by
    rw [BitVec.ofInt_mul, BitVec.ofInt_toInt]
    rfl

theorem completes_shli : Completes (.shli d a imm c) Always (Result32 4 d fun x j => src32 x a j <<< (imm.toNat % 32)) :=
  completes_result32 (op := fun x j => src32 x a j <<< field imm 0 5) (fun _ => rfl) {} fun x j _ _ => by rw [field_low]; rfl

theorem completes_shri :
    Completes (.shri d a imm c) Always (Result32 4 d fun x j => BitVec.ofNat 32 ((src32 x a j).toNat / 2 ^ (imm.toNat % 32))) :=
  completes_result32 (op := fun x j => src32 x a j >>> field imm 0 5) (fun _ => rfl) {} fun x j _ _ => by
    rw [field_low, ushiftRight_eq]
    rfl

theorem completes_sari :
    Completes (.sari d a imm c) Always (Result32 4 d fun x j => BitVec.ofInt 32 ((src32 x a j).toInt / 2 ^ (imm.toNat % 32))) :=
  completes_result32 (op := fun x j => (src32 x a j).sshiftRight (field imm 0 5)) (fun _ => rfl) {} fun x j _ _ => by
    rw [field_low, sshiftRight_eq]
    rfl

theorem completes_movil : Completes (.movil d imm c) Always (Result32 4 d fun _ _ => BitVec.ofNat 32 imm.toNat) :=
  completes_result32 (op := fun _ _ => imm.setWidth 32) (fun _ => rfl) {} fun _ _ _ _ => (BitVec.ofNat_toNat 32 imm).symm

/-- The low half of DST stays (R104). -/
theorem completes_movih :
    Completes (.movih d imm c) Always (Result32 4 d fun x j => BitVec.ofNat 32 (imm.toNat * 65536 + (oldReg x d j).toNat % 65536)) := by
  refine completes_result32 (op := fun x j => imm ++ (x.old 1 j).setWidth 16) (fun _ => rfl) {} fun x j hi _ => ?_
  have hd : x.i.shape.d = d := by rw [hi]; rfl
  apply BitVec.eq_of_toNat_eq
  have himm := imm.isLt
  rw [old_one hd, BitVec.toNat_append, BitVec.setWidth_setWidth_of_le _ (by decide), BitVec.toNat_setWidth, BitVec.toNat_ofNat,
    ← Nat.shiftLeft_add_eq_or_of_lt (Nat.mod_lt _ (by decide)), Nat.shiftLeft_eq]
  omega

end

/-- A byte of a permute (R113): by its nibble zero, the sign of the byte that it names, or that byte. -/
theorem prmtByte_eq (v : Word) (q : BitVec 4) :
    prmtByte v q.toNat =
      let e := v.extractLsb' (8 * (q.toNat % 4)) 8
      if q.getLsbD 3 then 0#8 else if q.getLsbD 2 then (if e.getLsbD 7 then 0xFF#8 else 0#8) else e := by
  have hzero : q.getLsbD 3 = decide (q.toNat ≥ 8) := by decide +revert
  have hsign : ¬ q.toNat ≥ 8 → q.getLsbD 2 = decide (q.toNat ≥ 4) := by decide +revert
  rw [prmtByte, Nat.mul_comm, hzero]
  simp only [decide_eq_true_eq]
  split
  · rfl
  · rw [hsign ‹_›]
    simp only [decide_eq_true_eq]
    rfl

theorem extractLsb'_prmtValue (v : Word) (sel : BitVec 16) {k : Nat} (hk : k < 4) :
    (prmtValue v sel).extractLsb' (8 * k) 8 = prmtByte v (sel.extractLsb' (4 * k) 4).toNat := by
  rw [prmtValue, extractLsb'_ofBytes (by simp), List.getD_eq_getElem _ _ (by simpa using hk), List.getElem_map, List.getElem_range,
    field_eq_extract]

/-- Settles O16, instruction by instruction: what each computes, as a number or by its bits. -/
theorem integerLogic : Obligations.IntegerLogic := by
  refine ⟨fun d a b c => ?_, fun d a b imm c => ?_⟩
  · refine ⟨?minI, ?maxI, ?minU, ?maxU, ?abs, ?neg, ?and, ?or, ?xor, ?andn, ?orn, ?xnor, ?shl, ?shr, ?sar, ?rol, ?ror, ?shlW, ?shrW, ?sarW,
      ?rolW, ?rorW, ?bfx, ?bfxSigned, ?bfiBits, ?bfi, ?popc, ?clz, ?ctz, ?brev, ?ffs, ?lea⟩
    case minI => exact completes_imnx fun x j => mnxValue_minI _ _
    case maxI => exact completes_imnx fun x j => mnxValue_maxI _ _
    case minU => exact completes_imnx fun x j => mnxValue_minU _ _
    case maxU => exact completes_imnx fun x j => mnxValue_maxU _ _
    case abs => exact completes_imnx fun x j => mnxValue_abs _ _
    case neg => exact completes_imnx fun x j => neg_eq_ofInt _
    case and => exact completes_log fun x j => rfl
    case or => exact completes_log fun x j => rfl
    case xor => exact completes_log fun x j => rfl
    case andn => exact completes_log fun x j => rfl
    case orn => exact completes_log fun x j => rfl
    case xnor => exact completes_log fun x j => rfl
    case shl => exact completes_shf fun x j => rfl
    case shr => exact completes_shf fun x j => rfl
    case sar => exact completes_shf fun x j => sshiftRight_eq _ _
    case rol => exact completes_shf fun x j => rfl
    case ror => exact completes_shf fun x j => rfl
    case shlW => exact completes_shfWide fun x j => rfl
    case shrW => exact completes_shfWide fun x j => rfl
    case sarW => exact completes_shfWide fun x j => sshiftRight_eq _ _
    case rolW => exact completes_shfWide fun x j => rfl
    case rorW => exact completes_shfWide fun x j => rfl
    case bfx =>
      refine completes_bfx fun x j => (bfxValue_eq _ _ _).trans ?_
      dsimp only
      rw [if_neg (fun h => Bool.false_ne_true h.1), BitVec.ofInt_natCast]
    case bfxSigned =>
      refine completes_bfx fun x j => (bfxValue_eq _ _ _).trans ?_
      simp only [true_and]
    case bfiBits => exact fun x j l hl => getLsbD_bfiValue _ _ hl
    case bfi =>
      exact completes_result32 (op := fun x j => bfiValue (src32 x a j) (src32 x b j)) (fun _ => rfl) {} fun _ _ _ _ => rfl
    case popc => exact completes_bit fun x j => congrArg (BitVec.ofNat 32) (popc_eq _)
    case clz => exact completes_bit fun x j => bitValue_clz _
    case ctz => exact completes_bit fun x j => by rw [bitValue, head_setBits]
    case brev => exact completes_bit fun x j => bitValue_brev _
    case ffs => exact completes_bit fun x j => bitValue_ffs _
    case lea =>
      exact fun sh => completes_result64 (op := fun x j => src64 x a j + ((src32 x b j).signExtend 64 <<< sh.toNat)) (fun _ => rfl) {}
        fun x j _ _ => lea_eq _ _ _
  · refine ⟨completes_iaddi, ?andi, ?ori, ?xori, completes_shli, completes_shri, completes_sari, completes_movil, completes_movih,
      completes_imuli, ?bytes, completes_prmt, ?prmti⟩
    case andi => exact completes_result32 (op := fun x j => src32 x a j &&& imm.setWidth 32) (fun _ => rfl) {} fun _ _ _ _ => rfl
    case ori => exact completes_result32 (op := fun x j => src32 x a j ||| imm.setWidth 32) (fun _ => rfl) {} fun _ _ _ _ => rfl
    case xori => exact completes_result32 (op := fun x j => src32 x a j ^^^ imm.setWidth 32) (fun _ => rfl) {} fun _ _ _ _ => rfl
    case bytes => exact fun k hk v sel => (extractLsb'_prmtValue v sel hk).trans (prmtByte_eq v _)
    case prmti => exact completes_result32 (op := fun x j => prmtValue (src32 x a j) imm) (fun _ => rfl) {} fun _ _ _ _ => rfl

end Sys2Proof.Proofs
end

section
/-!
PROOFS about sums and products before they are rounded (O18; R105): both are exact, as rational numbers.
-/
namespace Sys2Proof.Proofs
set_option Elab.async false
open Sys2Proof.Machine

theorem numeric_zero (n : Bool) (e : Int) : numeric n 0 e = 0 := by simp [numeric]

theorem numeric_natAbs (t e : Int) : numeric (t < 0) t.natAbs e = t * 2 ^ e := by
  have hsign : ((if t < 0 then -1 else 1 : ℚ) * (t.natAbs : ℚ)) = t := by
    rw [← Int.cast_natCast, Int.natCast_natAbs]
    split
    · rw [abs_of_neg ‹_›]
      push_cast
      ring
    · rw [abs_of_nonneg (Int.not_lt.1 ‹_›), one_mul]
  simp only [numeric, decide_eq_true_eq]
  rw [hsign]

/-- A term of a sum, counted in units of 2^e. -/
def units (n : Bool) (m : Nat) (x e : Int) : Int := (if n then -1 else 1) * (m * 2 ^ (x - e).toNat : Nat)

theorem numeric_eq_units (n : Bool) (m : Nat) {e x : Int} (h : e ≤ x) : numeric n m x = units n m x e * 2 ^ e := by
  rw [numeric, units, two_zpow_eq h]
  push_cast
  ring

/-- A sum counts both terms in units of the smaller exponent (R49, R105). -/
theorem fpSum_fin (mode : RMode) (n1 n2 : Bool) (m1 m2 : Nat) (e1 e2 : Int) :
    ∃ t : Int, t * 2 ^ min e1 e2 = numeric n1 m1 e1 + numeric n2 m2 e2 ∧ fpSum mode (.fin n1 m1 e1) (.fin n2 m2 e2) =
      if t = 0 then (.fin (zeroSign mode n1 n2) 0 0, 0) else (.fin (t < 0) t.natAbs (min e1 e2), 0) := by
  refine ⟨units n1 m1 e1 (min e1 e2) + units n2 m2 e2 (min e1 e2), ?_, rfl⟩
  rw [numeric_eq_units n1 m1 (min_le_left e1 e2), numeric_eq_units n2 m2 (min_le_right e1 e2)]
  push_cast
  ring

/-- Settles O18: the terms of a sum are counted in units of the smaller exponent (`fpSum_fin`); a product multiplies mantissas and adds
exponents. -/
theorem exactArithmetic : Obligations.ExactArithmetic := by
  intro mode n1 n2 m1 m2 e1 e2
  constructor
  · obtain ⟨t, ht, hsum⟩ := fpSum_fin mode n1 n2 m1 m2 e1 e2
    rw [hsum, ← ht]
    by_cases hzero : t = 0
    · exact ⟨_, _, _, if_pos hzero, by rw [hzero, numeric_zero, Int.cast_zero, zero_mul]⟩
    · exact ⟨_, _, _, if_neg hzero, numeric_natAbs _ _⟩
  · refine ⟨n1 != n2, m1 * m2, e1 + e2, rfl, ?_⟩
    have hsign : (if (n1 != n2) = true then -1 else 1 : ℚ) = (if n1 then -1 else 1) * (if n2 then -1 else 1) := by
      cases n1 <;> cases n2 <;> simp
    rw [numeric, numeric, numeric, zpow_add₀ two_ne_zero, hsign]
    push_cast
    ring

end Sys2Proof.Proofs
end

section
/-!
PROOFS about FP32 (O17; R105-R109): arithmetic is an exact operation rounded once, a sign is inverted on the value, and numbers are ordered
as their encodings are, sign and magnitude.
-/
namespace Sys2Proof.Proofs
set_option Elab.async false
open Sys2Proof.Machine

/-! ### Exact operations rounded once -/

theorem fpAdd_eq (f : FpFmt) (mode : RMode) (a b : Nat) :
    fpAdd f mode a b = rounded f mode [a, b] (fpSum mode (f.value a) (f.value b)) := rfl

theorem fpMul_eq (f : FpFmt) (mode : RMode) (a b : Nat) :
    fpMul f mode a b = rounded f mode [a, b] (fpProd (f.value a) (f.value b)) := rfl

theorem fpFma_eq (f : FpFmt) (mode : RMode) (d a b : Nat) : fpFma f mode d a b = fused f mode d a b := by
  rw [fused, rounded, ← BitVec.or_assoc]
  rfl

/-! ### Sign and magnitude of an encoding -/

section
variable (f : FpFmt)

theorem mag_lt (x : Nat) : f.mag x < 2 ^ (f.bits - 1) := Nat.mod_lt _ (Nat.two_pow_pos _)

variable (n : Bool) {m : Nat} (hm : m < 2 ^ (f.bits - 1))
include hm

theorem mag_signed : f.mag (f.signed n m) = m := by
  cases n
  · exact Nat.mod_eq_of_lt hm
  · exact (Nat.add_mod_right _ _).trans (Nat.mod_eq_of_lt hm)

theorem neg_signed : f.neg (f.signed n m) = n := by
  cases n
  · simp [FpFmt.neg, FpFmt.signed, Nat.div_eq_of_lt hm]
  · simp [FpFmt.neg, FpFmt.signed, Nat.add_div_right _ (Nat.two_pow_pos _), Nat.div_eq_of_lt hm]

end

section
variable (f : FpFmt) (x : Nat)

theorem mag_fpNeg : f.mag (fpNeg f x) = f.mag x := mag_signed f _ (mag_lt f x)
theorem neg_fpNeg : f.neg (fpNeg f x) = !f.neg x := neg_signed f _ (mag_lt f x)
theorem isNan_fpNeg : f.isNan (fpNeg f x) = f.isNan x := by rw [FpFmt.isNan, FpFmt.isNan, mag_fpNeg]
theorem isSnan_fpNeg : f.isSnan (fpNeg f x) = f.isSnan x := by rw [FpFmt.isSnan, FpFmt.isSnan, mag_fpNeg, isNan_fpNeg]
theorem isInf_fpNeg : f.isInf (fpNeg f x) = f.isInf x := by rw [FpFmt.isInf, FpFmt.isInf, mag_fpNeg]

theorem value_fpNeg : f.value (fpNeg f x) = minus (f.value x) := by
  unfold FpFmt.value
  rw [isNan_fpNeg, isInf_fpNeg, mag_fpNeg, neg_fpNeg]
  dsimp only
  split
  · rfl
  · split
    · rfl
    · split <;> rfl

end

/-- FSUB adds the operand with its sign inverted (R105). -/
theorem fpAdd_fpNeg (f : FpFmt) (mode : RMode) (a b : Nat) :
    fpAdd f mode a (fpNeg f b) = rounded f mode [a, b] (fpSum mode (f.value a) (minus (f.value b))) := by
  rw [fpAdd_eq, value_fpNeg, rounded, rounded, List.any_cons, List.any_cons, List.any_cons, List.any_cons, isSnan_fpNeg]

/-! ### FSGN -/

section
variable (a b : Word)

theorem toNat_and_magnitude : (a &&& 0x7FFFFFFF).toNat = a.toNat % 2 ^ 31 := by
  rw [BitVec.toNat_and]
  exact Nat.and_two_pow_sub_one_eq_mod _ 31

theorem toNat_and_sign : (b &&& 0x80000000).toNat = b.toNat / 2 ^ 31 * 2 ^ 31 := by
  have hb := b.isLt
  rw [BitVec.toNat_and, show (0x80000000 : Word).toNat = 2 ^ 31 from rfl, Nat.and_two_pow, Nat.toNat_testBit]
  omega

theorem sgnValue_abs : sgnValue .abs a b = BitVec.ofNat 32 (a.toNat % 2 ^ 31) := by
  rw [← toNat_and_magnitude, BitVec.ofNat_toNat, BitVec.setWidth_eq]
  rfl

theorem sgnValue_neg : sgnValue .neg a b = a + 0x80000000 := by
  have ha := a.isLt
  have hdiv : (a.toNat ^^^ 2 ^ 31) / 2 ^ 31 = a.toNat / 2 ^ 31 ^^^ 1 := Nat.xor_div_two_pow
  have hmod : (a.toNat ^^^ 2 ^ 31) % 2 ^ 31 = a.toNat % 2 ^ 31 := by rw [Nat.xor_mod_two_pow, Nat.mod_self, Nat.xor_zero]
  apply BitVec.eq_of_toNat_eq
  rw [sgnValue, BitVec.toNat_xor, BitVec.toNat_add, show (0x80000000 : Word).toNat = 2 ^ 31 from rfl]
  obtain htop | htop : a.toNat / 2 ^ 31 = 0 ∨ a.toNat / 2 ^ 31 = 1 := by omega
  · rw [htop, Nat.zero_xor] at hdiv
    omega
  · rw [htop, Nat.xor_self] at hdiv
    omega

theorem sgnValue_cpys : sgnValue .cpys a b = BitVec.ofNat 32 (a.toNat % 2 ^ 31 + b.toNat / 2 ^ 31 * 2 ^ 31) := by
  have hdisjoint : (a.toNat % 2 ^ 31 ||| b.toNat / 2 ^ 31 * 2 ^ 31) = a.toNat % 2 ^ 31 + b.toNat / 2 ^ 31 * 2 ^ 31 := by
    rw [Nat.or_comm, Nat.add_comm, ← Nat.shiftLeft_eq, Nat.shiftLeft_add_eq_or_of_lt (Nat.mod_lt _ (by decide))]
  rw [← hdisjoint, ← toNat_and_magnitude, ← toNat_and_sign, ← BitVec.toNat_or, BitVec.ofNat_toNat, BitVec.setWidth_eq]
  rfl

end

/-! ### Minimum and maximum -/

section
variable {f : FpFmt} {a b : Nat}

theorem minMax_numbers (number : Bool) (ha : f.isNan a = false) (hb : f.isNan b = false) :
    (fpMinMax f false number a b).1 = (if f.key a ≤ f.key b then a else b) ∧
    (fpMinMax f true number a b).1 = if f.key b ≤ f.key a then a else b := by
  simp only [fpMinMax, ha, hb, Bool.false_and, Bool.false_eq_true, if_false, if_true]
  constructor
  · rw [← ite_not]
    simp only [not_lt]
  · rw [← ite_not]
    simp only [not_lt]

theorem minMax_nan_left (isMax : Bool) (ha : f.isNan a = true) :
    (fpMinMax f isMax false a b).1 = f.nanEnc.getD 0 ∧ (fpMinMax f isMax false b a).1 = f.nanEnc.getD 0 ∧
    (f.isNan b = false → (fpMinMax f isMax true a b).1 = b ∧ (fpMinMax f isMax true b a).1 = b) ∧
    (f.isNan b = true → (fpMinMax f isMax true a b).1 = f.nanEnc.getD 0) := by
  cases hb : f.isNan b <;> simp [fpMinMax, ha, hb]

end

/-! ### The order of numbers -/

/-- An encoding's magnitude, counted in units of its format's smallest number. -/
def magUnits (mant M : Nat) : Nat := if M / 2 ^ mant = 0 then M % 2 ^ mant else (M % 2 ^ mant + 2 ^ mant) * 2 ^ (M / 2 ^ mant - 1)

theorem magUnits_parts {mant q r : Nat} (hr : r < 2 ^ mant) :
    magUnits mant (2 ^ mant * q + r) = if q = 0 then r else (r + 2 ^ mant) * 2 ^ (q - 1) := by
  have hpos := Nat.two_pow_pos mant
  rw [magUnits, Nat.mul_add_div hpos, Nat.div_eq_of_lt hr, Nat.add_zero, Nat.mul_add_mod, Nat.mod_eq_of_lt hr]

/-- The next encoding is the next mantissa, or the first of the next exponent, whose unit is twice as large. -/
theorem magUnits_strictMono (mant : Nat) : StrictMono (magUnits mant) := by
  refine strictMono_nat_of_lt_succ fun M => ?_
  have hr := Nat.mod_lt M (Nat.two_pow_pos mant)
  rw [← Nat.div_add_mod M (2 ^ mant)]
  generalize M / 2 ^ mant = q at *
  generalize M % 2 ^ mant = r at *
  obtain hlt | hlast := lt_or_eq_of_le (Nat.succ_le_of_lt hr)
  · rw [Nat.add_assoc, magUnits_parts hr, magUnits_parts hlt]
    split
    · omega
    · exact Nat.mul_lt_mul_of_pos_right (by omega) (Nat.two_pow_pos _)
  · rw [show 2 ^ mant * q + r + 1 = 2 ^ mant * (q + 1) + 0 by rw [Nat.mul_succ]; omega, magUnits_parts hr,
      magUnits_parts (Nat.two_pow_pos mant), if_neg (Nat.succ_ne_zero q), Nat.zero_add, Nat.add_sub_cancel]
    cases q with
    | zero => simpa using hr
    | succ q =>
      rw [if_neg (Nat.succ_ne_zero q), Nat.add_sub_cancel, Nat.pow_succ, Nat.mul_comm (2 ^ q), ← Nat.mul_assoc]
      exact Nat.mul_lt_mul_of_pos_right (by omega) (Nat.two_pow_pos _)

/-- An integer of this sign and magnitude. -/
def withSign (n : Bool) (M : Nat) : Int := if n then -M else M

theorem withSign_mul (n : Bool) (M k : Nat) : ((withSign n M : Int) : ℚ) * 2 ^ k = (withSign n (M * 2 ^ k) : Int) := by
  unfold withSign
  split <;> push_cast <;> ring

theorem numeric_eq_withSign (n : Bool) (m : Nat) (e : Int) : numeric n m e = (withSign n m : Int) * 2 ^ e := by
  unfold numeric withSign
  split <;> simp

/-- An order on magnitudes that fixes zero is one on signed numbers. -/
theorem withSign_lt_iff {g : Nat → Nat} (hg : StrictMono g) (h0 : g 0 = 0) (n n' : Bool) (M M' : Nat) :
    withSign n (g M) < withSign n' (g M') ↔ withSign n M < withSign n' M' := by
  have hlt := hg.lt_iff_lt (a := M) (b := M')
  have hgt := hg.lt_iff_lt (a := M') (b := M)
  have hM := hg.lt_iff_lt (a := 0) (b := M)
  have hM' := hg.lt_iff_lt (a := 0) (b := M')
  cases n <;> cases n' <;> (simp only [withSign, if_true, if_false, Bool.false_eq_true]; omega)

/-- The least exponent of a format, that of its smallest number. -/
def leastExp (f : FpFmt) : Int := 1 - (f.bias : Int) - f.mant

/-- A number counts units of the smallest number, with its sign. -/
theorem numeric_of_value {f : FpFmt} {x : Nat} {n : Bool} {m : Nat} {e : Int} (h : f.value x = .fin n m e) :
    f.isNan x = false ∧ numeric n m e = withSign (f.neg x) (magUnits f.mant (f.mag x)) * 2 ^ leastExp f := by
  unfold FpFmt.value at h
  split at h
  · cases h
  · split at h
    · cases h
    · refine ⟨Bool.eq_false_iff.2 ‹_›, ?_⟩
      dsimp only at h
      split at h
      · obtain ⟨rfl, rfl, rfl⟩ := Fp.fin.inj h
        rw [magUnits, if_pos ‹_›, numeric_eq_withSign]
        rfl
      · obtain ⟨rfl, rfl, rfl⟩ := Fp.fin.inj h
        rw [magUnits, if_neg ‹_›]
        generalize f.mag x / 2 ^ f.mant = q at *
        have hle : leastExp f ≤ (q : Int) - f.bias - f.mant := by
          unfold leastExp
          omega
        have hexp : ((q : Int) - f.bias - f.mant - leastExp f).toNat = q - 1 := by
          unfold leastExp
          omega
        rw [numeric_eq_withSign, two_zpow_eq hle, hexp, ← mul_assoc, withSign_mul]

section
variable {a b : Nat} {n n' : Bool} {m m' : Nat} {e e' : Int}

/-- What FCMP compares: the magnitudes with their signs (R108). -/
def place (x : Nat) : Int := withSign (fmtF32.neg x) (fmtF32.mag x)

theorem numeric_lt_iff (ha : fmtF32.value a = .fin n m e) (hb : fmtF32.value b = .fin n' m' e') :
    numeric n m e < numeric n' m' e' ↔ place a < place b := by
  have hunit : (0 : ℚ) < 2 ^ leastExp fmtF32 := zpow_pos two_pos _
  rw [(numeric_of_value ha).2, (numeric_of_value hb).2, mul_lt_mul_iff_left₀ hunit, Int.cast_lt]
  exact withSign_lt_iff (magUnits_strictMono _) rfl _ _ _ _

theorem numeric_le_iff (ha : fmtF32.value a = .fin n m e) (hb : fmtF32.value b = .fin n' m' e') :
    numeric n m e ≤ numeric n' m' e' ↔ place a ≤ place b := by
  rw [← not_lt, ← not_lt, numeric_lt_iff hb ha]

theorem numeric_eq_iff (ha : fmtF32.value a = .fin n m e) (hb : fmtF32.value b = .fin n' m' e') :
    numeric n m e = numeric n' m' e' ↔ place a = place b := by
  rw [le_antisymm_iff, le_antisymm_iff, numeric_le_iff ha hb, numeric_le_iff hb ha]

/-- The relations of FCMP on operands that are no NaN (R108). -/
theorem fpCmp_ordered (ha : fmtF32.isNan a = false) (hb : fmtF32.isNan b = false) :
    (fpCmp .eq a b).1 = decide (place a = place b) ∧ (fpCmp .ne a b).1 = decide (place a ≠ place b) ∧
    (fpCmp .lt a b).1 = decide (place a < place b) ∧ (fpCmp .le a b).1 = decide (place a ≤ place b) ∧
    (fpCmp .gt a b).1 = decide (place b < place a) ∧ (fpCmp .ge a b).1 = decide (place b ≤ place a) := by
  simp only [fpCmp, ha, hb, Bool.or_false, Bool.not_false, Bool.true_and, Bool.false_or]
  exact ⟨rfl, rfl, rfl, rfl, rfl, rfl⟩

/-- The relations of FCMP where an operand is a NaN: only NE and UN hold, and the orders raise NV (R108). -/
theorem fpCmp_unordered (h : (fmtF32.isNan a || fmtF32.isNan b) = true) :
    (fpCmp .eq a b).1 = false ∧ (fpCmp .ne a b).1 = true ∧ fpCmp .lt a b = (false, 16) ∧ fpCmp .le a b = (false, 16) ∧
    fpCmp .gt a b = (false, 16) ∧ fpCmp .ge a b = (false, 16) := by
  simp only [fpCmp, h, Bool.not_true, Bool.false_and, Bool.true_or, if_true, and_self]

end

/-! ### The statement -/

theorem fpRes_cmp (f : FcmpFn) (a b : Nat) : fpRes ((fpCmp f a b).1.toNat, (fpCmp f a b).2) =
    (if (fpCmp f a b).1 then 1 else 0, (fpCmp f a b).2) := by
  cases (fpCmp f a b).1 <;> rfl

/-- Settles O17: each instruction by the equation of its operation, the relations by `numeric_lt_iff` and its kin. -/
theorem float32 : Obligations.Float32 := by
  refine ⟨fun d a b imm m c => ?_, ?minMax, ?minMaxNan, ?relations, ?unordered⟩
  · refine ⟨?add, ?sub, ?mul, ?mac, ?addi, ?muli, ?maci, fun f => ?mnx, fun f => ?cmp, ?abs, ?neg, ?cpys, ?cls⟩
    case add =>
      exact completes_resultF (op := fun x j => fpRes (fpAdd fmtF32 (x.mode m) (srcN x a j) (srcN x b j))) (fun _ => rfl) {}
        fun _ _ _ _ => rfl
    case sub =>
      exact completes_resultF (op := fun x j => fpRes (fpAdd fmtF32 (x.mode m) (srcN x a j) (fpNeg fmtF32 (srcN x b j)))) (fun _ => rfl) {}
        fun x j _ _ => congrArg fpRes (fpAdd_fpNeg _ _ _ _)
    case mul =>
      exact completes_resultF (op := fun x j => fpRes (fpMul fmtF32 (x.mode m) (srcN x a j) (srcN x b j))) (fun _ => rfl) {}
        fun _ _ _ _ => rfl
    case mac =>
      refine completes_resultF (op := fun x j => fpRes (fpFma fmtF32 (x.mode m) (x.oldN j) (srcN x a j) (srcN x b j))) (fun _ => rfl) {}
        fun x j hi _ => ?_
      rw [fpFma_eq, oldN_eq (d := d) (by rw [hi]; rfl)]
      rfl
    case addi =>
      exact completes_resultF (op := fun x j => fpRes (fpAdd fmtF32 x.rmode (srcN x a j) (immF32 imm))) (fun _ => rfl) {}
        fun _ _ _ _ => rfl
    case muli =>
      exact completes_resultF (op := fun x j => fpRes (fpMul fmtF32 x.rmode (srcN x a j) (immF32 imm))) (fun _ => rfl) {}
        fun _ _ _ _ => rfl
    case maci =>
      refine completes_resultF (op := fun x j => fpRes (fpFma fmtF32 x.rmode (x.oldN j) (srcN x a j) (immF32 imm))) (fun _ => rfl) {}
        fun x j hi _ => ?_
      rw [fpFma_eq, oldN_eq (d := d) (by rw [hi]; rfl)]
      rfl
    case mnx =>
      exact completes_resultF (op := fun x j => fpRes (fpMnm fmtF32 f (srcN x a j) (srcN x b j))) (fun _ => rfl) {} fun _ _ _ _ => rfl
    case cmp =>
      exact completes_pred (op := fun x j => fpRes ((fpCmp f (srcN x a j) (srcN x b j)).1.toNat, (fpCmp f (srcN x a j) (srcN x b j)).2))
        (fun _ => rfl) {} fun x j _ _ => fpRes_cmp f _ _
    case abs =>
      exact completes_result32 (op := fun x j => sgnValue .abs (src32 x a j) (src32 x b j)) (fun _ => rfl) {}
        fun x j _ _ => sgnValue_abs _ _
    case neg =>
      exact completes_result32 (op := fun x j => sgnValue .neg (src32 x a j) (src32 x b j)) (fun _ => rfl) {}
        fun x j _ _ => sgnValue_neg _ _
    case cpys =>
      exact completes_result32 (op := fun x j => sgnValue .cpys (src32 x a j) (src32 x b j)) (fun _ => rfl) {}
        fun x j _ _ => sgnValue_cpys _ _
    case cls =>
      exact completes_result32 (op := fun x j => BitVec.ofNat 32 (fpClass (srcN x a j))) (fun _ => rfl) {} fun _ _ _ _ => rfl
  case minMax =>
    intro a b _ _ ha hb
    obtain ⟨hmin, hmax⟩ := minMax_numbers false ha hb
    obtain ⟨hminnum, hmaxnum⟩ := minMax_numbers true ha hb
    exact ⟨hmin, hminnum, hmax, hmaxnum⟩
  case minMaxNan =>
    intro a b ha
    obtain ⟨hminL, hminR, hminnum, hminBoth⟩ := minMax_nan_left (b := b) false ha
    obtain ⟨hmaxL, hmaxR, hmaxnum, hmaxBoth⟩ := minMax_nan_left (b := b) true ha
    exact ⟨hminL, hmaxL, hminR, hmaxR, fun hb => ⟨(hminnum hb).1, (hmaxnum hb).1, (hminnum hb).2, (hmaxnum hb).2⟩,
      fun hb => ⟨hminBoth hb, hmaxBoth hb⟩⟩
  case relations =>
    intro a b n m e n' m' e' ha hb
    obtain ⟨heq, hne, hlt, hle, hgt, hge⟩ := fpCmp_ordered (numeric_of_value ha).1 (numeric_of_value hb).1
    rw [heq, hne, hlt, hle, hgt, hge]
    simp only [decide_eq_true_eq, ne_eq, numeric_eq_iff ha hb, numeric_lt_iff ha hb, numeric_le_iff ha hb, numeric_lt_iff hb ha,
      numeric_le_iff hb ha, and_self]
  case unordered => exact fun a b => ⟨rfl, rfl, fun h => fpCmp_unordered (Bool.or_eq_true_iff.2 h)⟩

end Sys2Proof.Proofs
end

section
/-!
PROOFS about packed arithmetic, VDOT and MXSC, and about results that take a variable time (O20, O22; R107, R110, R114-R122).
-/
namespace Sys2Proof.Proofs
set_option Elab.async false
open Sys2Proof.Machine

/-! ### Elements of a word -/

theorem half_eq (v : Word) (l : Nat) : half v.toNat l = (v.extractLsb' (16 * l) 16).toNat := by
  rw [← field_eq_extract, field, Nat.pow_mul]
  rfl

theorem packed_eq (op : Nat → Nat × BitVec 5) : packed op = fpRes (both op) := rfl

/-- Two's complement, as a number and as a word of its width (R53). -/
theorem signedField_toNat {w : Nat} (hw : 0 < w) (y : BitVec w) : signedField y.toNat w = y.toInt := by
  have hpow : 2 ^ w = 2 * 2 ^ (w - 1) := by
    rw [← Nat.pow_succ', Nat.succ_eq_add_one, Nat.sub_add_cancel hw]
  rw [signedField, BitVec.toInt_eq_toNat_cond, Nat.mod_eq_of_lt y.isLt, ← ite_not]
  refine if_congr (by omega) rfl rfl

theorem signedField_field {v w : Nat} (hw : 0 < w) (x : BitVec v) (lo : Nat) :
    signedField (field x lo w) w = (x.extractLsb' lo w).toInt := by
  rw [field_eq_extract, signedField_toNat hw]

theorem elemInt_eq {w : Nat} (hw : 0 < w) (v : Word) (l : Nat) : elemInt v.toNat w l = (v.extractLsb' (w * l) w).toInt := by
  have hlt : field v (w * l) w < 2 ^ w := Nat.mod_lt _ (Nat.two_pow_pos _)
  rw [← signedField_field hw, signedField, Nat.mod_eq_of_lt hlt]
  rfl

/-! ### VDOT -/

/-- The sum of the products of four elements of w bits (R117). -/
def dot4 (w : Nat) (a b : Word) : Int :=
  ((List.range 4).map fun l => (a.extractLsb' (w * l) w).toInt * (b.extractLsb' (w * l) w).toInt).sum

theorem dot4_eq {w : Nat} (hw : 0 < w) (a b : Word) :
    ((List.range 4).map fun l => elemInt a.toNat w l * elemInt b.toNat w l).sum = dot4 w a b := by
  simp only [elemInt_eq hw, dot4]

theorem eight_of_field {v : Nat} (x : BitVec v) (lo : Nat) : field x lo 4 = 8 ↔ x.extractLsb' lo 4 = 8 := by
  rw [field_eq_extract, ← BitVec.toNat_inj]
  rfl

theorem mxStep_eq (acc : Nat) (x : Issue) (j : Nat) (t : Int) :
    mxStep acc (field x.d.mxsl (8 * (j / 8)) 4) (field x.d.mxsl (8 * (j / 8) + 4) 4) (signedField (field x.d.mxbase 0 8) 8)
      (signedField (field x.d.mxbase 8 8) 8) t = blockSum acc x j t := by
  unfold mxStep blockSum
  simp only [eight_of_field, signedField_field (by decide : 0 < 4), signedField_field (by decide : 0 < 8)]
  rfl

/-- Sums in the accumulator wrap (R117). -/
theorem vdot_i8 (acc : Word) (t : Int) :
    (((acc.toNat : Int) + t) % (2 ^ 32 : Nat)).toNat = (BitVec.ofInt 32 (acc.toInt + t)).toNat := by
  rw [← BitVec.toNat_ofInt, BitVec.ofInt_add, BitVec.ofInt_add, BitVec.ofInt_toInt, BitVec.ofInt_natCast, BitVec.ofNat_toNat,
    BitVec.setWidth_eq]

theorem vdotLane_eq (f : VdotFn) (x : Issue) (j : Nat) (acc a b : Word) :
    vdotLane f x.d.mxbase x.d.mxsl j acc.toNat a.toNat b.toNat =
      match f with
      | .i8 => ((BitVec.ofInt 32 (acc.toInt + dot4 8 a b)).toNat, 0)
      | .mx8 => blockSum acc.toNat x j (dot4 8 a b)
      | .mx6 => blockSum acc.toNat x j (dot4 6 a b)
      | .mx4 => blockSum acc.toNat x j (dot4 4 a b) := by
  unfold vdotLane
  cases f with
  | i8 => simp only [dot4_eq (by decide : 0 < 8), vdot_i8]
  | mx8 => simp only [dot4_eq (by decide : 0 < 8), mxStep_eq]
  | mx6 => simp only [dot4_eq (by decide : 0 < 6), mxStep_eq]
  | mx4 => simp only [dot4_eq (by decide : 0 < 4), mxStep_eq]

/-! ### MXSC -/

/-- What MXSC gathers: a byte of lanes 0, 8, 16 and 24, zero for an absent lane (R116). -/
def scaleWord (bs : BitVec 2) (a : Src) (x : Issue) : Word := ofBytes 32 ((List.range 4).map fun j =>
  if 32 * x.d.idx + 8 * j < (x.g.g + 3) / 4 * 4 then (src32 x a (8 * j)).extractLsb' (8 * bs.toNat) 8 else 0)

theorem presentBytes_eq (bs : BitVec 2) (a : Src) (x : Issue) :
    ofBytes 32 ((List.range 4).map fun j =>
      if inMask (presentLanes x.g.g x.d.idx) (8 * j) then (src32 x a (8 * j)).extractLsb' (8 * bs.toNat) 8 else 0) =
    scaleWord bs a x := by
  rw [scaleWord]
  congr 1
  refine List.map_congr_left fun j hj => ?_
  rw [presentLanes, Laws.inMask_maskOf _ _ (by have := List.mem_range.1 hj; omega)]
  simp only [decide_eq_true_eq]

theorem completes_mxsc (bs : BitVec 2) (a : Src) (c : Ctl) : Completes (.mxsc bs a c) Always (ToScale 4 (scaleWord bs a)) := by
  have hland := completes_landing (i := .mxsc bs a c) (pre := Always) (next := after) (jump := fun _ => none)
    (land := fun x => { x.landing .scale 0xFFFFFFFF (splat ((scaleWord bs a x).setWidth 64)) [] with latch := none })
    (fun _ => rfl) rfl (fun x s _ _ => by dsimp only; rw [presentBytes_eq]) (fun _ _ _ => rfl)
  refine completes_mono hland fun x s t ⟨d', hissued, hkept, hplain, hmem⟩ => ?_
  refine ⟨d', _, hissued, hkept, hplain, hmem, rfl, rfl, rfl, ?_, rfl, rfl⟩
  dsimp only [Issue.landing]
  rw [Laws.lane_splat _ _ (by decide), BitVec.setWidth_setWidth_of_le _ (by decide), BitVec.setWidth_eq]

/-! ### The statement on packed arithmetic -/

section
variable {i : Instr} {lat : Nat} {d : BitVec 8}

/-- An operation on both elements, flags ORed (R110). -/
theorem completes_packed {op val : Issue → Nat → Nat → Nat × BitVec 5} (hexec : ∀ s, exec i s = laneOp i s 1 fun x j => packed (op x j))
    (hshape : RegShape i lat d) (hop : ∀ x j l, x.i = i → op x j l = val x j l) :
    Completes i Always (ResultF lat d fun x j => both (val x j)) :=
  completes_resultF hexec hshape fun x j hi _ => by
    rw [packed_eq, funext fun l => hop x j l hi]

end

/-- Settles O20: each element by the equation of its operation. -/
theorem packedArithmetic : Obligations.PackedArithmetic := by
  intro d a b imm m f16 c
  refine ⟨?add, ?mul, ?mac, fun f => ?mnx, ?muliBf, ?muliF, ?clamp, fun f => ?dot, fun bs => completes_mxsc bs a c⟩
  case add =>
    refine completes_packed (op := fun x i l => fpAdd (hFmt f16) (x.mode m) (half (srcN x a i) l) (half (srcN x b i) l)) (fun _ => rfl) {}
      fun x j l _ => ?_
    rw [fpAdd_eq, srcN, srcN, half_eq, half_eq]
    rfl
  case mul =>
    refine completes_packed (op := fun x i l => fpMul (hFmt f16) (x.mode m) (half (srcN x a i) l) (half (srcN x b i) l)) (fun _ => rfl) {}
      fun x j l _ => ?_
    rw [fpMul_eq, srcN, srcN, half_eq, half_eq]
    rfl
  case mac =>
    refine completes_packed (op := fun x i l => fpFma (hFmt f16) (x.mode m) (half (x.oldN i) l) (half (srcN x a i) l) (half (srcN x b i) l))
      (fun _ => rfl) {} fun x j l hi => ?_
    rw [fpFma_eq, oldN_eq (d := d) (by rw [hi]; rfl), srcN, srcN, half_eq, half_eq, half_eq]
    rfl
  case mnx =>
    refine completes_packed (op := fun x i l => fpMnm (hFmt f16) f (half (srcN x a i) l) (half (srcN x b i) l)) (fun _ => rfl) {}
      fun x j l _ => ?_
    rw [srcN, srcN, half_eq, half_eq]
    rfl
  case muliBf =>
    refine completes_packed (op := fun x i l => fpMul fmtBF16 x.rmode (half (srcN x a i) l) imm.toNat) (fun _ => rfl) {} fun x j l _ => ?_
    rw [fpMul_eq, srcN, half_eq]
    rfl
  case muliF =>
    refine completes_packed (op := fun x i l => fpMul fmtF16 x.rmode (half (srcN x a i) l) imm.toNat) (fun _ => rfl) {} fun x j l _ => ?_
    rw [fpMul_eq, srcN, half_eq]
    rfl
  case clamp =>
    refine completes_result32 (op := fun x i => fourBytes fun l =>
      clampE4M3 (field (src32 x a i) (8 * l) 8) (field imm 0 8) (field imm 8 8)) (fun _ => rfl) {} fun x j _ _ => ?_
    simp only [field_eq_extract]
  case dot =>
    refine completes_resultF (op := fun x i => fpRes (vdotLane f x.d.mxbase x.d.mxsl i (x.oldN i) (srcN x a i) (srcN x b i)))
      (fun _ => rfl) {} fun x j hi _ => ?_
    rw [oldN_eq (d := d) (by rw [hi]; rfl), srcN, srcN, vdotLane_eq]
    cases f <;> rfl

/-! ### The statement on results of variable time -/

theorem fpRes_word (w : Word) : fpRes (w.toNat, 0) = (w.setWidth 64, 0) := by
  rw [fpRes, BitVec.ofNat_toNat]

theorem inexactFlags_ne_zero (f : FpFmt) (r : Nat) : inexactFlags f r ≠ 0 := by
  unfold inexactFlags
  split <;> decide

/-- Only SQRT is no approximation. -/
theorem sfuValue_approx {f : SfuFn} (hf : f ≠ .sqrt) (mode : RMode) (a : Nat) : sfuValue f mode a = sfuApprox f a := by
  cases f with
  | sqrt => exact absurd rfl hf
  | _ => rfl

section
variable {f : SfuFn} {a : Nat} {neg : Bool} {m : Nat} {e : Int} {relative : Bool} {n : Nat}

variable (f a neg m e relative n) in
/-- The device's value where it keeps the bound, else the reference rounded (log 9). -/
def deviceValue : Nat :=
  let y := (Config.sfu f.ctorIdx (BitVec.ofNat 32 a)).toNat
  if withinBound (fmtF32.value y) neg m e relative n then y else (roundTo fmtF32 .rne false (.fin neg m e)).1

theorem deviceValue_bounded :
    withinBound (fmtF32.value (deviceValue f a neg m e relative n)) neg m e relative n = true ∨
      deviceValue f a neg m e relative n = (roundTo fmtF32 .rne false (.fin neg m e)).1 := by
  unfold deviceValue
  dsimp only
  split
  · exact .inl ‹_›
  · exact .inr rfl

theorem sfuApprox_near (h : sfuSpec fmtF32 f a = .near neg m e relative n) :
    (sfuApprox f a).1 = deviceValue f a neg m e relative n := by
  unfold sfuApprox
  dsimp only
  rw [h]
  rfl

theorem sfuApprox_dyadic (h : sfuSpec fmtF32 f a = .dyadic neg m e relative n) :
    sfuApprox f a = (deviceValue f a neg m e relative n,
      if fmtF32.isValue (deviceValue f a neg m e relative n) neg m e then 0
      else inexactFlags fmtF32 (deviceValue f a neg m e relative n)) := by
  unfold sfuApprox
  dsimp only
  rw [h]
  rfl

end

/-- Settles O22: the operations by `completes_slow`, the bounds by what `sfuApprox` chooses (`deviceValue`). -/
theorem slowArithmetic : Obligations.SlowArithmetic := by
  refine ⟨fun d a b m c => ?_, fun f a neg m e relative n hf hspec => ?near, fun f a neg m e relative n hf hspec => ?dyadic⟩
  · refine ⟨fun f => ?sfu, fun f => ?bsfu, ?divI, ?divU, ?remI, ?remU, ?fdiv⟩
    case sfu => exact completes_slow (op := fun x j => fpRes (sfuValue f x.rmode (srcN x a j))) (fun _ => rfl) {} fun _ _ => rfl
    case bsfu =>
      refine completes_slow (op := fun x j => packed fun l => bsfuValue f (half (srcN x a j) l)) (fun _ => rfl) {} fun x j => ?_
      simp only [packed_eq, srcN, half_eq]
    case divI =>
      exact completes_slow (op := fun x j => ((divValue .divI (src32 x a j) (src32 x b j)).setWidth 64, 0)) (fun _ => rfl) {}
        fun x j => (fpRes_word _).symm
    case divU =>
      exact completes_slow (op := fun x j => ((divValue .divU (src32 x a j) (src32 x b j)).setWidth 64, 0)) (fun _ => rfl) {}
        fun x j => (fpRes_word _).symm
    case remI =>
      exact completes_slow (op := fun x j => ((divValue .remI (src32 x a j) (src32 x b j)).setWidth 64, 0)) (fun _ => rfl) {}
        fun x j => (fpRes_word _).symm
    case remU =>
      exact completes_slow (op := fun x j => ((divValue .remU (src32 x a j) (src32 x b j)).setWidth 64, 0)) (fun _ => rfl) {}
        fun x j => (fpRes_word _).symm
    case fdiv =>
      exact completes_slow (op := fun x j => fpRes (fpDiv fmtF32 (x.mode m) (srcN x a j) (srcN x b j))) (fun _ => rfl) {} fun _ _ => rfl
  case near =>
    rw [sfuValue_approx hf, sfuApprox_near hspec]
    exact deviceValue_bounded
  case dyadic =>
    rw [sfuValue_approx hf, sfuApprox_dyadic hspec, ite_eq_left_iff]
    simp only [inexactFlags_ne_zero, imp_false, not_not, and_true]
    exact deviceValue_bounded

end Sys2Proof.Proofs
end

section
/-!
PROOFS about CVT (O21; R56, R58, R111, R112): what each pair of types converts, where the result is placed, and the form that advances
SRSTATE.
-/
namespace Sys2Proof.Proofs
set_option Elab.async false
open Sys2Proof.Machine

/-! ### One format to another -/

section
variable {f : FpFmt} {x : Nat}

theorem value_of_isNan (h : f.isNan x = true) : f.value x = .nan := if_pos h

theorem snanFlag_one : snanFlag f [x] = if f.isSnan x = true then 16 else 0 := by
  simp only [snanFlag, List.any_cons, List.any_nil, Bool.or_false]

end

section
variable {src : FpFmt} {mode : RMode} {sat : Bool} {x q : Nat}

theorem fpToFp_fin {dst : FpFmt} {neg : Bool} {m : Nat} {e : Int} (h : src.value x = .fin neg m e) :
    fpToFp src dst mode sat x = roundTo dst mode sat (.fin neg m e) := by
  rw [fpToFp, h]

/-- A NaN becomes the canonical one; E2M1 has none (R56). -/
theorem fpToFp_nan (hq : q < 6) (h : src.isNan x = true) : fpToFp src (fmtOf q) mode sat x =
    if q = 5 then (0, 16) else ((fmtOf q).nanEnc.getD 0, if src.isSnan x = true then 16 else 0) := by
  rw [fpToFp, value_of_isNan h, ← snanFlag_one]
  interval_cases q <;> rfl

/-- An infinity stays one or saturates; E4M3 has none but a NaN, E2M1 neither (R56). -/
theorem fpToFp_inf {neg : Bool} (hq : q < 6) (h : src.value x = .inf neg) : fpToFp src (fmtOf q) mode sat x =
    if sat = true ∨ q = 5 then ((fmtOf q).signed neg (fmtOf q).maxEnc, 0)
    else if q = 3 then (0x7F, 16) else ((fmtOf q).signed neg ((fmtOf q).infEnc.getD 0), 0) := by
  rw [fpToFp, h]
  cases sat <;> interval_cases q <;> rfl

end

/-! ### Integer types -/

/-- Width of an integer type (R111). -/
def intWidth (n : Nat) : Nat := if n < 2 then 8 else if n < 4 then 16 else if n < 6 then 32 else 64
/-- The least and the largest value of an integer type; those of even number are signed (R111). -/
def intLow (n : Nat) : Int := if n % 2 = 0 then -2 ^ (intWidth n - 1) else 0
def intHigh (n : Nat) : Int := if n % 2 = 0 then 2 ^ (intWidth n - 1) - 1 else 2 ^ intWidth n - 1

theorem intWidth_pos (n : Nat) : 0 < intWidth n := by
  unfold intWidth
  split
  · decide
  · split
    · decide
    · split <;> decide

theorem intType_eq (n : Nat) : intType n = (intWidth n, decide (n % 2 = 0)) := rfl

theorem intLow_eq (n : Nat) : (if decide (n % 2 = 0) = true then -((2 ^ (intWidth n - 1) : Nat) : Int) else 0) = intLow n := by
  unfold intLow
  push_cast
  simp only [decide_eq_true_eq]

theorem intHigh_eq (n : Nat) : (if decide (n % 2 = 0) = true then ((2 ^ (intWidth n - 1) : Nat) : Int) - 1
    else ((2 ^ intWidth n : Nat) : Int) - 1) = intHigh n := by
  unfold intHigh
  push_cast
  simp only [decide_eq_true_eq]

/-- Outside its range, and without saturation, an integer type takes its least value (R56). -/
theorem intBad_eq (n : Nat) : (if decide (n % 2 = 0) = true then intLow n else 0) = intLow n := by
  unfold intLow
  simp only [decide_eq_true_eq]
  split <;> rfl

/-- An integer in an integer type's width. -/
def intWord (n : Nat) (i : Int) : Nat := (BitVec.ofInt (intWidth n) i).toNat

theorem intWord_eq (n : Nat) (i : Int) : (i % (2 ^ intWidth n : Nat)).toNat = intWord n i := (BitVec.toNat_ofInt i).symm

/-- The integer that a finite value rounds to (R56). -/
def nearInt (mode : RMode) (neg : Bool) (m : Nat) (e : Int) : Int := (if neg = true then -1 else 1) * (roundAt mode neg m e 0).1

theorem nearInt_eq (mode : RMode) (neg : Bool) (m : Nat) (e : Int) :
    (if neg = true then -((roundAt mode neg m e 0).1 : Int) else ((roundAt mode neg m e 0).1 : Int)) = nearInt mode neg m e := by
  unfold nearInt
  split
  · rw [neg_one_mul]
  · rw [one_mul]

/-- What a conversion into an integer type does, in terms of its range (R56). -/
theorem fpToInt_eq (n : Nat) (mode : RMode) (sat : Bool) (x : Nat) : fpToInt n mode sat x =
    match fmtF32.value x with
    | .nan => (intWord n (if sat = true then 0 else intLow n), 16)
    | .inf neg => (intWord n (if sat = true then (if neg = true then intLow n else intHigh n) else intLow n), 16)
    | .fin neg m e =>
      if intHigh n < nearInt mode neg m e then (intWord n (if sat = true then intHigh n else intLow n), 16)
      else if nearInt mode neg m e < intLow n then (intWord n (intLow n), 16)
      else (intWord n (nearInt mode neg m e), if (roundAt mode neg m e 0).2 = true then 1 else 0) := by
  unfold fpToInt
  rw [intType_eq]
  dsimp only
  cases fmtF32.value x <;> simp only [intLow_eq, intHigh_eq, intBad_eq, intWord_eq, nearInt_eq, ite_self]

/-- An integer of an integer type, read with its sign (R111). -/
def intValue (n x : Nat) : Int := if n % 2 = 0 then (BitVec.ofNat (intWidth n) x).toInt else x

theorem intToFp_eq {n x : Nat} (mode : RMode) (hx : x < 2 ^ intWidth n) :
    intToFp n mode x = roundTo fmtF32 mode false (.fin (intValue n x < 0) (intValue n x).natAbs 0) := by
  have hvalue : (if (decide (n % 2 = 0) && decide (x ≥ 2 ^ (intWidth n - 1))) = true then (x : Int) - (2 ^ intWidth n : Nat) else x) =
      intValue n x := by
    have hsigned := signedField_toNat (intWidth_pos n) (BitVec.ofNat (intWidth n) x)
    rw [BitVec.toNat_ofNat, Nat.mod_eq_of_lt hx, signedField, Nat.mod_eq_of_lt hx] at hsigned
    rw [intValue, ← hsigned]
    by_cases hn : n % 2 = 0 <;> simp [hn]
  unfold intToFp
  rw [intType_eq]
  dsimp only
  rw [hvalue]

/-! ### Pairs of types -/

section
variable {p : BitVec 6} {mode : RMode} {sat : Bool} {n x : Nat}

theorem cvtValue_fp (h : p.toNat ≤ 0x23) :
    cvtValue p mode sat x = fpToFp (fmtOf (p.toNat % 6)) (fmtOf (p.toNat / 6)) mode sat x := by
  rw [cvtValue, cvtSrc, cvtDst, if_pos h, if_pos h]

theorem cvtValue_toInt (hn : n < 8) (h : p.toNat = 0x24 + n) : cvtValue p mode sat x = fpToInt n mode sat x := by
  have hfp : ¬ p.toNat ≤ 0x23 := by omega
  have hint : p.toNat ≤ 0x2B := by omega
  have hsrc : cvtSrc p = .fp 0 := by rw [cvtSrc, if_neg hfp, if_pos hint]
  have hdst : cvtDst p = .int n := by rw [cvtDst, if_neg hfp, if_pos hint, h, Nat.add_sub_cancel_left]
  rw [cvtValue, hsrc, hdst]

theorem cvtValue_ofInt (hn : n < 8) (h : p.toNat = 0x2C + n) : cvtValue p mode sat x = intToFp n mode x := by
  have hfp : ¬ p.toNat ≤ 0x23 := by omega
  have hint : ¬ p.toNat ≤ 0x2B := by omega
  have hlast : p.toNat ≤ 0x33 := by omega
  have hsrc : cvtSrc p = .int n := by rw [cvtSrc, if_neg hfp, if_neg hint, if_pos hlast, h, Nat.add_sub_cancel_left]
  have hdst : cvtDst p = .fp 0 := by rw [cvtDst, if_neg hfp, if_neg hint, if_pos hlast]
  rw [cvtValue, hsrc, hdst]

end

/-! ### Where the result goes -/

/-- A field that lies in the low word is put there. -/
theorem setWidth_putField (y : Word) {lo n : Nat} (a : Nat) (h : lo + n ≤ 32) :
    (putField y lo n a).setWidth 64 = putField (y.setWidth 64) lo n a := by
  refine BitVec.eq_of_getLsbD_eq fun l hl => ?_
  rw [getLsbD_putField _ _ _ _ hl, BitVec.getLsbD_setWidth, BitVec.getLsbD_setWidth, decide_eq_true hl, Bool.true_and, Bool.true_and]
  by_cases hlow : l < 32
  · exact getLsbD_putField _ _ _ _ hlow
  · rw [BitVec.getLsbD_of_ge _ _ (by omega), BitVec.getLsbD_of_ge _ _ (by omega), if_neg (by omega)]

/-- The element that J names lies in the word (R112). -/
theorem element_fits {j : BitVec 3} {p : BitVec 6} (h : cvtLegal j p = true) (hdst : cvtDstWidth p < 32) :
    cvtDstWidth p * j.toNat + cvtDstWidth p ≤ 32 := by
  simp only [cvtLegal, Bool.and_eq_true, hdst, if_true, decide_eq_true_eq] at h
  calc cvtDstWidth p * j.toNat + cvtDstWidth p = cvtDstWidth p * (j.toNat + 1) := (Nat.mul_succ _ _).symm
    _ ≤ cvtDstWidth p * (32 / cvtDstWidth p) := Nat.mul_le_mul_left _ h.2
    _ ≤ 32 := Nat.mul_div_le _ _

section
variable (m : Rnd) (sat : Bool) (d : BitVec 8) (a : Src) (j : BitVec 3) (p : BitVec 6) (c : Ctl) (x : Issue) (l : Nat)

/-- The element of its source that a lane of CVT converts (R112). -/
def cvtSource : Nat :=
  if cvtSrcWidth p < 32 then (src32 x a l).toNat / 2 ^ (cvtSrcWidth p * (if cvtDstWidth p < 32 then 0 else j.toNat)) % 2 ^ cvtSrcWidth p
  else if cvtSrcWidth p = 64 then (src64 x a l).toNat else (src32 x a l).toNat
/-- What a lane of CVT gives, with its flags (R58, R112). -/
def cvtResult : Nat × BitVec 5 :=
  cvtValue p (modeOf m x.d.rmode (srNext x.d.srstate (32 * x.d.idx + l) 0)) sat (cvtSource a j p x l)
/-- The result in the register that DST names (R112). -/
def cvtPlaced : DWord :=
  if cvtDstWidth p < 32 then
    (putField (oldReg x d l) (cvtDstWidth p * j.toNat) (cvtDstWidth p) (cvtResult m sat a j p x l).1).setWidth 64
  else BitVec.ofNat 64 (cvtResult m sat a j p x l).1

theorem cvtSource_eq :
    (if cvtSrcWidth p < 32 then
      (if cvtSrcWidth p = 64 then (src64 x a l).toNat else srcN x a l) /
        2 ^ (cvtSrcWidth p * (if cvtDstWidth p < 32 then 0 else j.toNat)) % 2 ^ cvtSrcWidth p
    else if cvtSrcWidth p = 64 then (src64 x a l).toNat else srcN x a l) = cvtSource a j p x l := by
  unfold cvtSource srcN
  split
  · rw [if_neg (by omega)]
  · rfl

variable {m sat d a j p c x l}

theorem cvtLane_eq (hi : x.i = .cvt m sat d a j p c) (hwf : x.i.wf = true) :
    cvtLane x m sat a j p l = (cvtPlaced m sat d a j p x l, (cvtResult m sat a j p x l).2) := by
  have hd : x.i.shape.d = d := by rw [hi]; rfl
  have hlegal : cvtLegal j p = true := by
    have hextra := (checks_of_wf hwf).2.2
    rw [hi] at hextra
    exact (Bool.and_eq_true_iff.1 hextra).1
  unfold cvtLane
  dsimp only
  rw [cvtSource_eq, old_one hd, cvtPlaced]
  split
  · rw [setWidth_putField _ _ (element_fits hlegal ‹_›)]
    rfl
  · rfl

end

/-! ### The form that advances SRSTATE -/

/-- An instruction whose body advances SRSTATE and pends one landing (R58). -/
theorem completes_srstate {i : Instr} {body : Issue → State → Eff} {lat : Nat} {land : Issue → Landing} {step : Word}
    (hexec : ∀ s, exec i s = issue i s body) (hl : i.shape.long = false) (h2 : 2 ≤ lat)
    (hbody : ∀ x s, body x s = .ok
      { s := x.update s fun d => { d with srstate := d.srstate + step }, attached := true, lands := [(lat, land x)] }) :
    Completes i Always fun x s t => x.i = i ∧ ∃ d', Issued x t d' (x.d.pc + 8) ∧
      Kept { x with d := { x.d with srstate := x.d.srstate + step } } s t d' ∧ Plain x d' ∧
      { land x with due := x.d.n + lat, swath := x.d.swath } ∈ d'.landings := by
  intro s k d g F _
  obtain ⟨p, hd⟩ := Laws.actsIn_drill (i := i) g F.1.2.1
  generalize hx : sees i k d g = x
  have hk : x.k = k := by rw [← hx, Laws.sees_k]
  have hxd : x.d = d := by rw [← hx, Laws.sees_d]
  have hxi : x.i = i := by rw [← hx, Laws.sees_i]
  let x' : Issue := { x with d := { x.d with srstate := x.d.srstate + step } }
  let fx : Fx := { s := x.update (actsIn i s k d g) fun d => { d with srstate := d.srstate + step }
                   attached := true, lands := [(lat, land x)] }
  have hdrill : fx.s.drill? x'.k = some { d with needLand := p, srstate := d.srstate + step } := by
    simp [fx, x', Issue.update, hk, hd]
  obtain ⟨d', hissued, hkept, hplain, -, -, hlands⟩ := Laws.finish_spec (x := x') (s0 := actsIn i s k d g) hxi hdrill
    (by dsimp only [x']; rw [hxd]; rfl) rfl (fun j hj => by
      have hne : ¬ k = j := fun h => hj (hk.trans h).symm
      simp [fx, Issue.update, hk, hne]) (fun _ => rfl) (fun _ => rfl) (by simpa [fx] using h2) rfl rfl
  have hxk : x'.k = k := hk
  rw [hxk] at hissued hkept
  refine ⟨_, (hexec s).trans (Laws.issue_ok F hl (by rw [hx]; exact hbody x _)), hxi, d', ?_, hkept, ?_, ?_⟩
  · exact ⟨hissued.drill, hissued.pc, hissued.count, hissued.swath⟩
  · rw [Plain, hxd]
    exact hplain
  · exact hlands _ (List.mem_singleton.2 rfl)

/-! ### CVT completes -/

section
variable {m : Rnd} {sat : Bool} {d : BitVec 8} {a : Src} {j : BitVec 3} {p : BitVec 6} {c : Ctl}

/-- Registers that a result takes (R28). -/
def cvtRegs (p : BitVec 6) : Nat := if cvtDstWidth p = 64 then 2 else 1

/-- A destination of CVT is a lane register, or the low one of a pair. -/
theorem cvt_dst : (Instr.cvt m sat d a j p c).shape.dst = if cvtDstWidth p = 64 then .pairV else .v := rfl

theorem cvt_dst_byForm : byForm (Instr.cvt m sat d a j p c).shape.dst = true := by
  rw [cvt_dst]
  split <;> rfl

theorem cvt_dst_lanes : (Instr.cvt m sat d a j p c).shape.dst.uniformOk = false := by
  rw [cvt_dst]
  split <;> rfl

theorem cvt_completes (hm : m ≠ .sr) : Completes (.cvt m sat d a j p c) Always
    (Result 6 (toReg d (cvtRegs p)) inLanes (cvtPlaced m sat d a j p) fun x l => (cvtResult m sat a j p x l).2) :=
  completes_of_wf fun hwf => completes_reg (op := fun x l => cvtLane x m sat a j p l) (fun _ => if_neg hm)
    { dst := cvt_dst_byForm } fun _ _ hi _ => cvtLane_eq hi (hi ▸ hwf)

/-- The result that a stochastic form pends. -/
def cvtLanding (sat : Bool) (a : Src) (j : BitVec 3) (p : BitVec 6) (x : Issue) : Landing :=
  x.landing (x.dest (cvtRegs p)) x.act ((lanesIn x.act (cvtLane x .sr sat a j p)).map (·.1))
    (flagsIn x.act (cvtLane x .sr sat a j p))

theorem cvtLanding_pending {x : Issue} {d' : Drill} (hi : x.i = .cvt .sr sat d a j p c) (hwf : x.i.wf = true)
    (hmem : { cvtLanding sat a j p x with due := x.d.n + 6, swath := x.d.swath } ∈ d'.landings) :
    Pending x d' 6 (toReg d (cvtRegs p) x) x.act (cvtPlaced .sr sat d a j p x) (fun l => (cvtResult .sr sat a j p x l).2)
      { cvtLanding sat a j p x with due := x.d.n + 6, swath := x.d.swath } := by
  have huniform : x.uniform = false := uniformForm_of_wf hwf (by rw [hi]; exact cvt_dst_lanes)
  have hlane (l : Nat) := cvtLane_eq (l := l) hi hwf
  refine ⟨hmem, rfl, ?_, rfl, ⟨rfl, rfl, rfl, rfl, rfl⟩, fun l hl => ?_, fun l f => ?_⟩
  · have hd : x.i.shape.d = d := by rw [hi]; rfl
    rw [← hd]
    exact dest_byForm (by rw [hi]; exact cvt_dst_byForm)
  · rw [computes, if_neg (by rw [huniform]; decide)] at hl
    exact (lane_lanesIn hl.1 hl.2).trans (congrArg Prod.fst (hlane l))
  · have hflags := mem_flagsIn (act := x.act) (op := cvtLane x .sr sat a j p) (j := l) (f := f)
    rw [hlane] at hflags
    rw [huniform]
    cases hnf : x.i.ctl.nf <;> simp only [cvtLanding, Issue.landing, hnf]
    · simpa using hflags
    · simp

/-- A stochastic form advances SRSTATE (R58). -/
theorem cvt_completes_sr : Completes (.cvt .sr sat d a j p c) Always fun x s t =>
    ∃ d' y, Issued x t d' (x.d.pc + 8) ∧ Kept { x with d := { x.d with srstate := x.d.srstate + 0x6D2B79F5 } } s t d' ∧ Plain x d' ∧
      Pending x d' 6 (toReg d (cvtRegs p) x) x.act (cvtPlaced .sr sat d a j p x) (fun l => (cvtResult .sr sat a j p x l).2) y :=
  completes_of_wf fun hwf => completes_mono
    (completes_srstate (lat := 6) (land := cvtLanding sat a j p) (fun _ => rfl) rfl (by decide) fun _ _ => rfl)
    fun x _ _ ⟨hi, d', hissued, hkept, hplain, hmem⟩ =>
      ⟨d', _, hissued, hkept, hplain, cvtLanding_pending hi (hi ▸ hwf) hmem⟩

end

/-- Settles O21: each form by its lanes, and what a pair of types converts by the kind of the two. -/
theorem conversion : Obligations.Conversion := by
  unfold Obligations.Conversion
  refine ⟨fun d a m sat j p c => ⟨cvt_completes, ?_⟩, fun p mode sat x neg m e => ?_⟩
  · rintro rfl
    exact cvt_completes_sr
  · dsimp only
    have hdst : p.toNat ≤ 0x23 → p.toNat / 6 < 6 := fun h => by omega
    refine ⟨fun hp hx => ?_, fun hp hx => ?_, fun hp hx => ?_, fun n hn hp => ⟨fun hx => ?_, fun hx => ?_, fun hx => ?_⟩,
      fun n hn hp hx => ?_⟩
    · rw [cvtValue_fp hp, fpToFp_fin hx]
    · rw [cvtValue_fp hp, fpToFp_nan (hdst hp) hx]
    · rw [cvtValue_fp hp, fpToFp_inf (hdst hp) hx]
    · rw [cvtValue_toInt hn hp, fpToInt_eq, value_of_isNan hx]
      rfl
    · rw [cvtValue_toInt hn hp, fpToInt_eq, hx]
      cases sat <;> rfl
    · rw [cvtValue_toInt hn hp, fpToInt_eq, hx]
      rfl
    · rw [cvtValue_ofInt hn hp, intToFp_eq mode hx]
      rfl

end Sys2Proof.Proofs
end

section
/-!
PROOFS about exchange between lanes, votes and reductions (O23; R138-R141): an instruction whose body pends one landing, the lanes that
count, and the tree of REDX as the levels of its list.
-/
namespace Sys2Proof.Proofs
set_option Elab.async false
open Sys2Proof.Machine

/-! ### Instructions that pend one landing -/

/-- The instruction goes on, and one landing of it is pending, `lat` counts after its issue. -/
def Pends (lat : Nat) (land : Issue → Landing) (x : Issue) (s t : State) : Prop :=
  ∃ d', Issued x t d' (x.d.pc + 8) ∧ Kept x s t d' ∧ Plain x d' ∧ { land x with due := x.d.n + lat, swath := x.d.swath } ∈ d'.landings

section
variable {i : Instr} {body : Issue → State → Eff} {pre : Issue → State → Prop} {post : Issue → State → State → Prop} {lat : Nat}
  {land : Issue → Landing}

/-- An instruction whose body pends one landing completes with what that landing gives. -/
theorem completes_pends (hexec : ∀ s, exec i s = issue i s body) (hl : i.shape.long = false) (h2 : 2 ≤ lat)
    (hbody : ∀ x s, pre x s → body x s = .ok { s := s, attached := true, lands := [(lat, land x)] })
    (hpost : ∀ x s t, x.i = i → i.wf = true → pre x s → Pends lat land x s t → post x s t) : Completes i pre post := by
  intro s k d g F hpre
  obtain ⟨d1, hmodest, hcm, hstack, hops, hqueue⟩ := Laws.modest_same F
    (fx := { s := actsIn i s k d g, attached := true, lands := [(lat, land (sees i k d g))] }) rfl (by simpa using h2) rfl rfl
  obtain ⟨t, d', hgo, hissued, hkept, ⟨hcm', hstack', hops', hqueue'⟩, -, -, hlands⟩ := Laws.completes hl F (hbody _ _ hpre) hmodest
  refine ⟨t, (hexec s).trans hgo, hpost _ _ _ (Laws.sees_i i k d g) (wf_of_fires F) hpre ⟨d', ?_⟩⟩
  rw [Plain, Laws.sees_d]
  exact ⟨hissued, hkept, ⟨hcm'.trans hcm, hstack'.trans hstack, hops'.trans hops, hqueue'.trans hqueue⟩,
    hlands _ (List.mem_singleton.2 rfl)⟩

end

section
variable {x : Issue} {s t : State} {lat : Nat} {into into' : Issue → LandTo} {mask mask' : Issue → Mask} {v : Issue → DLanes}

/-- A pending landing of register contents without flags is a result without flags. -/
theorem result_of_pends {val : Issue → Nat → DWord} (h : Pends lat (fun x => x.landing (into x) (mask x) (v x) []) x s t)
    (hinto : into x = into' x) (hmask : mask x = mask' x) (hval : ∀ j < 32, lane (v x) j = val x j) :
    Result lat into' mask' val noFlags x s t := by
  obtain ⟨d', hissued, hkept, hplain, hmem⟩ := h
  refine ⟨d', _, hissued, hkept, hplain, hmem, rfl, hinto, hmask, ⟨rfl, rfl, rfl, rfl, rfl⟩,
    fun j hj => hval j (lt_of_computes hj), fun j f => ?_⟩
  simp [Issue.landing, noFlags]

end

/-- A flag that each active lane raises, as a list by lane. -/
def flagsOf (act : Mask) (fl : BitVec 5) : List (Nat × BitVec 5) := if fl = 0 then [] else (maskLanes act).map fun j => (j, fl)

theorem mem_flagsOf {act : Mask} {fl f : BitVec 5} {j : Nat} :
    (j, f) ∈ flagsOf act fl ↔ j < 32 ∧ inMask act j = true ∧ f = fl ∧ f ≠ 0 := by
  unfold flagsOf
  split
  · rename_i hfl
    subst hfl
    simp
  · rename_i hfl
    simp only [List.mem_map, Laws.mem_maskLanes, Prod.mk.injEq]
    constructor
    · rintro ⟨l, ⟨hl, hact⟩, rfl, rfl⟩
      exact ⟨hl, hact, rfl, hfl⟩
    · rintro ⟨hj, hact, rfl, -⟩
      exact ⟨j, ⟨hj, hact⟩, rfl, rfl⟩

theorem dest_s {x : Issue} (h : x.i.shape.dst = .s) : x.dest 1 = toUni x.i.shape.d 1 x := by
  unfold Issue.dest
  rw [h]
  rfl

/-- A value for the whole drill, four counts or more after issue, with a flag for every active lane (R140, R141). -/
theorem whole_of_pends {x : Issue} {s t : State} {lat : Nat} {d : BitVec 8} {v : Issue → DWord} {fl : Issue → BitVec 5}
    (hwf : x.i.wf = true) (hdst : x.i.shape.dst = .s) (hd : x.i.shape.d = d)
    (h : Pends lat (fun x => x.landing (x.dest 1) (x.wmask true) (splat (v x)) (flagsOf x.act (fl x))) x s t) :
    Whole lat d v (fun x _ => fl x) x s t := by
  obtain ⟨d', hissued, hkept, hplain, hmem⟩ := h
  subst hd
  have hlane : x.uniform = false := uniformForm_of_wf hwf (by rw [hdst]; rfl)
  refine ⟨d', _, hissued, hkept, hplain, ⟨hmem, rfl, dest_s hdst, rfl, ⟨rfl, rfl, rfl, rfl, rfl⟩,
    fun j hj => Laws.lane_splat _ _ (lt_of_computes hj), fun j f => ?_⟩, fun j hj => Laws.lane_splat _ _ hj⟩
  rw [hlane]
  cases hnf : x.i.ctl.nf <;> simp [Issue.landing, hnf, mem_flagsOf]

/-! ### Lanes of other numbers -/

/-- An absent lane supplies zero (R138). -/
theorem otherLane_eq (x : Issue) (a : Src) {l : Nat} (hl : l < 32) :
    otherLane x a l = if 32 * x.d.idx + l < (x.g.g + 3) / 4 * 4 then src32 x a l else 0 := by
  rw [otherLane, presentLanes, Laws.inMask_maskOf _ _ hl]
  simp only [decide_eq_true_eq]

section
variable {d : BitVec 8} {a b : Src} {c : Ctl}

/-- LXCH reads the lane that its form names (R138). -/
theorem completes_lxch {f : LxchFn} {from_ : Nat → Nat → Nat} (hfrom : ∀ n l, lxchLane f n l = from_ n l)
    (hlt : ∀ n l, n < 32 → l < 32 → from_ n l < 32) :
    Completes (.lxch f d a b c) Always (Result32 4 d fun x l =>
      if 32 * x.d.idx + from_ ((src32 x b l).toNat % 32) l < (x.g.g + 3) / 4 * 4 then src32 x a (from_ ((src32 x b l).toNat % 32) l)
      else 0) := by
  refine completes_result32 (op := fun x l => otherLane x a (lxchLane f (field (src32 x b l) 0 5) l)) (fun _ => rfl) {}
    fun x l _ hl => ?_
  rw [hfrom, field_low]
  exact otherLane_eq x a (hlt _ _ (Nat.mod_lt _ (by decide)) hl)

end

/-! ### Lanes that count -/

section
variable {x : Issue} {a : Src}

theorem inMask_issueCounting {l : Nat} (hl : l < 32) : inMask x.counting l = counts x l := inMask_counting x.d x.g x.act hl

theorem maskLanes_counting : maskLanes x.counting = (List.range 32).filter (counts x) :=
  List.filter_congr fun _ hl => inMask_issueCounting (List.mem_range.1 hl)

/-- The values of a list are one where each is that of its head. -/
theorem all_eq_head_iff {β : Type} (v : Nat → β) (l : List Nat) :
    (∀ i ∈ l, v i = v (l.headD 0)) ↔ ∀ i ∈ l, ∀ j ∈ l, v i = v j := by
  cases l with
  | nil => simp
  | cons h l => exact ⟨fun H i hi j hj => (H i hi).trans (H j hj).symm, fun H i hi => H i hi h List.mem_cons_self⟩

theorem voteValue_all : voteValue .all x a = bit01 ((List.range 32).all fun l => !counts x l || src32 x a l ≠ 0) := by
  simp only [voteValue, maskLanes_counting, List.all_filter]

theorem voteValue_any : voteValue .any x a = bit01 ((List.range 32).any fun l => counts x l && src32 x a l ≠ 0) := by
  simp only [voteValue, maskLanes_counting, List.any_filter]

theorem voteValue_uni : voteValue .uni x a = bit01
    ((List.range 32).all fun l => (List.range 32).all fun l' => !counts x l || !counts x l' || src32 x a l = src32 x a l') := by
  refine congrArg bit01 (Bool.eq_iff_iff.2 ?_)
  have hhead := all_eq_head_iff (src32 x a) (maskLanes x.counting)
  rw [maskLanes_counting] at hhead ⊢
  simp only [List.all_eq_true, decide_eq_true_eq, Bool.or_eq_true, Bool.not_eq_true']
  rw [hhead]
  simp only [List.mem_filter]
  constructor
  · intro H l hl l' hl'
    by_cases hc : counts x l = true
    · by_cases hc' : counts x l' = true
      · exact .inr (H l ⟨hl, hc⟩ l' ⟨hl', hc'⟩)
      · exact .inl (.inr (Bool.eq_false_iff.2 hc'))
    · exact .inl (.inl (Bool.eq_false_iff.2 hc))
  · rintro H l ⟨hl, hc⟩ l' ⟨hl', hc'⟩
    simpa [hc, hc'] using H l hl l' hl'

theorem voteValue_ballot : voteValue .ballot x a = maskOf fun l => counts x l && src32 x a l ≠ 0 :=
  mask_ext fun l hl => by simp only [voteValue, inMask_and, inMask_issueCounting hl, Laws.inMask_maskOf _ _ hl]

end

section
variable {d : BitVec 8} {a : Src} {c : Ctl}

theorem setWidth_bit01 (p : Bool) : (bit01 p).setWidth 64 = if p then 1 else 0 := by cases p <;> rfl

/-- A vote but BALLOT writes its bit in the active lanes of a predicate (R140). -/
theorem completes_vote {f : VoteFn} (hf : f ≠ .ballot) {val : Issue → Bool} (hval : ∀ x, voteValue f x a = bit01 (val x)) :
    Completes (.vote f d a c) Always (ResultK 4 d fun x _ => val x) := by
  have hdst : (Instr.vote f d a c).shape.dst = .k := if_neg hf
  refine completes_pends (lat := 4) (fun _ => rfl) rfl (by decide) (fun _ _ _ => rfl) fun x s t hi hwf _ h => ?_
  have hlane : x.i.ctl.uniformForm = false := uniformForm_of_wf (hi ▸ hwf) (by rw [hi, hdst]; rfl)
  refine result_of_pends h ?_ ?_ fun j hj => ?_
  · rw [dest_k (by rw [hi]; exact hdst), hi]
    rfl
  · rw [inLanes, hlane, decide_eq_false hf]
    rfl
  · rw [Laws.lane_splat _ _ hj, hval]
    exact setWidth_bit01 _

theorem completes_ballot :
    Completes (.vote .ballot d a c) Always
      (Whole 4 d (fun x => (maskOf fun l => counts x l && src32 x a l ≠ 0).setWidth 64) noFlags) := by
  refine completes_pends (lat := 4) (land := fun x => x.landing (x.dest 1) (x.wmask true)
    (splat ((maskOf fun l => counts x l && src32 x a l ≠ 0).setWidth 64)) (flagsOf x.act 0)) (fun _ => rfl) rfl (by decide)
    (fun x s _ => ?_) fun x s t hi hwf _ h => whole_of_pends (fl := fun _ => 0) (hi ▸ hwf) (by rw [hi]; rfl) (by rw [hi]; rfl) h
  rw [voteValue_ballot]
  rfl

end

/-! ### The tree of REDX -/

/-- n levels of REDX's list, and the flags that they raise (R141). -/
def redxLevels (f : RedxFn) (n : Nat) (l : List Nat) : List Nat × BitVec 5 :=
  (List.range n).foldl (fun r _ => ((redxLevel f r.1).1, r.2 ||| (redxLevel f r.1).2)) (l, 0)

section
variable {f : RedxFn}

theorem redxLevels_succ (n : Nat) (l : List Nat) : redxLevels f (n + 1) l =
    ((redxLevel f (redxLevels f n l).1).1, (redxLevels f n l).2 ||| (redxLevel f (redxLevels f n l).1).2) := by
  simp only [redxLevels, List.range_succ, List.foldl_append, List.foldl_cons, List.foldl_nil]

theorem redxLevel_append {l : List Nat} (m : List Nat) (h : 2 ∣ l.length) : redxLevel f (l ++ m) =
    ((redxLevel f l).1 ++ (redxLevel f m).1, (redxLevel f l).2 ||| (redxLevel f m).2) := by
  match l, h with
  | [], _ => simp [redxLevel]
  | [_], h => simp at h
  | a :: b :: l, h =>
    have hl : 2 ∣ l.length := by simpa using h
    simp only [List.cons_append, redxLevel, redxLevel_append m hl, BitVec.or_assoc]

theorem length_redxLevel {l : List Nat} {n : Nat} (h : l.length = 2 * n) : (redxLevel f l).1.length = n := by
  match l, n, h with
  | [], 0, _ => rfl
  | [_], n, h => exact absurd h (by rw [List.length_singleton]; omega)
  | _ :: _ :: l, n + 1, h =>
    have hl : l.length = 2 * n := by simp only [List.length_cons] at h; omega
    simp [redxLevel, length_redxLevel hl]

theorem length_redxLevels {l : List Nat} {n m : Nat} (h : l.length = 2 ^ n * m) : (redxLevels f n l).1.length = m := by
  induction n generalizing m with
  | zero => simpa [redxLevels] using h
  | succ n ih =>
    rw [redxLevels_succ]
    exact length_redxLevel (ih (by rw [h, Nat.pow_succ, Nat.mul_assoc]))

/-- The levels of two lists side by side do not meet while the left one has an even number left. -/
theorem redxLevels_append {l : List Nat} (m : List Nat) {n p : Nat} (h : l.length = 2 ^ n * p) : redxLevels f n (l ++ m) =
    ((redxLevels f n l).1 ++ (redxLevels f n m).1, (redxLevels f n l).2 ||| (redxLevels f n m).2) := by
  induction n generalizing p with
  | zero => simp [redxLevels]
  | succ n ih =>
    have hlen : l.length = 2 ^ n * (2 * p) := by rw [h, Nat.pow_succ, Nat.mul_assoc]
    simp only [redxLevels_succ, ih hlen, redxLevel_append _ ⟨p, length_redxLevels hlen⟩]
    refine Prod.ext rfl ?_
    ac_rfl

/-- The levels of the values from lane j on are the tree above them (R141). -/
theorem redxLevels_eq_treeSum (v : Nat → Nat) (n j : Nat) :
    redxLevels f n ((List.range' j (2 ^ n)).map v) = ([(treeSum f v n j).1], (treeSum f v n j).2) := by
  induction n generalizing j with
  | zero => rfl
  | succ n ih =>
    have hhalves : List.range' j (2 ^ (n + 1)) = List.range' j (2 ^ n) ++ List.range' (j + 2 ^ n) (2 ^ n) := by
      rw [Nat.pow_succ, Nat.mul_two, List.range'_append_1]
    have hlen : ((List.range' j (2 ^ n)).map v).length = 2 ^ n * 1 := by simp
    rw [redxLevels_succ, hhalves, List.map_append, redxLevels_append _ hlen, ih, ih]
    simp [redxLevel, treeSum]

theorem redxValue_eq_treeSum {w v : Nat → Nat} (h : ∀ l < 32, w l = v l) :
    redxValue f ((List.range 32).map w) = treeSum f v 5 0 := by
  have hlevels : redxLevels f 5 ((List.range 32).map w) = ([(treeSum f v 5 0).1], (treeSum f v 5 0).2) := by
    rw [List.map_congr_left fun l hl => h l (List.mem_range.1 hl), List.range_eq_range']
    exact redxLevels_eq_treeSum v 5 0
  have hvalue : redxValue f ((List.range 32).map w) =
      ((redxLevels f 5 ((List.range 32).map w)).1.headD 0, (redxLevels f 5 ((List.range 32).map w)).2) := rfl
  rw [hvalue, hlevels]
  rfl

end

section
variable (f : RedxFn) (a : Src) (x : Issue)

/-- What lane l gives to REDX (R140, R141). -/
def redxInput (l : Nat) : Nat := if counts x l then (src32 x a l).toNat else redxIdentity f

theorem redxValue_input :
    redxValue f ((List.range 32).map fun l => if inMask x.counting l then srcN x a l else redxIdentity f) =
      treeSum f (redxInput f a x) 5 0 :=
  redxValue_eq_treeSum fun l hl => by rw [inMask_issueCounting hl, redxInput, srcN]

end

theorem completes_redx (f : RedxFn) (d : BitVec 8) (a : Src) (c : Ctl) : Completes (.redx f d a c) Always
    (Whole 8 d (fun x => BitVec.ofNat 64 (treeSum f (redxInput f a x) 5 0).1) fun x _ => (treeSum f (redxInput f a x) 5 0).2) := by
  refine completes_pends (lat := 8) (land := fun x => x.landing (x.dest 1) (x.wmask true)
    (splat (BitVec.ofNat 64 (treeSum f (redxInput f a x) 5 0).1)) (flagsOf x.act (treeSum f (redxInput f a x) 5 0).2))
    (fun _ => rfl) rfl (by decide) (fun x s _ => ?_)
    fun x s t hi hwf _ h => whole_of_pends (fl := fun x => (treeSum f (redxInput f a x) 5 0).2) (hi ▸ hwf) (by rw [hi]; rfl) (by rw [hi]; rfl) h
  dsimp only
  rw [redxValue_input]
  rfl

/-! ### The statement -/

/-- Settles O23: LXCH and QX by the lane that each reads, VOTE by the lanes that count, REDX by its tree. -/
theorem laneExchange : Obligations.LaneExchange := by
  intro d a b c n read
  refine ⟨?own, ?back, ?ahead, ?flip, ?qh, ?qv, ?qd, ?qbc, ?all, ?any, ?uni, completes_ballot, fun f => completes_redx f d a c⟩
  case own => exact completes_lxch (from_ := fun n _ => n) (fun _ _ => rfl) fun _ _ hn _ => hn
  case back =>
    exact completes_lxch (from_ := fun n l => (l + 32 - n) % 32) (fun _ _ => rfl) fun _ _ _ _ => Nat.mod_lt _ (by decide)
  case ahead => exact completes_lxch (from_ := fun n l => (l + n) % 32) (fun _ _ => rfl) fun _ _ _ _ => Nat.mod_lt _ (by decide)
  case flip =>
    exact completes_lxch (from_ := fun n l => l ^^^ n) (fun _ _ => rfl) fun _ _ hn hl => Nat.xor_lt_two_pow (n := 5) hl hn
  case qh => exact completes_result32 (op := fun x l => src32 x a (l ^^^ 1)) (fun _ => rfl) {} fun _ _ _ _ => rfl
  case qv => exact completes_result32 (op := fun x l => src32 x a (l ^^^ 2)) (fun _ => rfl) {} fun _ _ _ _ => rfl
  case qd => exact completes_result32 (op := fun x l => src32 x a (l ^^^ 3)) (fun _ => rfl) {} fun _ _ _ _ => rfl
  case qbc =>
    refine completes_result32 (op := fun x l => src32 x a (l / 4 * 4 + field (src32 x b l) 0 2)) (fun _ => rfl) {} fun x l _ _ => ?_
    rw [field_low, Nat.mul_comm]
    rfl
  case all => exact completes_vote (by decide) fun _ => voteValue_all
  case any => exact completes_vote (by decide) fun _ => voteValue_any
  case uni => exact completes_vote (by decide) fun _ => voteValue_uni

end Sys2Proof.Proofs
end

section
/-!
PROOFS about indexed registers (O24; R142): where VGETI and VPUTI name a declared register in every active lane they become outstanding,
elsewhere they trap.
-/
namespace Sys2Proof.Proofs
set_option Elab.async false
open Sys2Proof.Machine

/-- Every active lane names a register that is declared (R142). -/
def Reaches (a : Src) (imm : BitVec 16) (x : Issue) : Prop :=
  ∀ j < 32, inMask x.act j = true → vNamed x.d x.g (imm.toNat % 256 + (src32 x a j).toNat) 1 = true

section
variable {d : BitVec 8} {a : Src} {imm : BitVec 16} {c : Ctl}

theorem badIndex_eq_false_iff {x : Issue} : badIndex x a (field imm 0 8) = false ↔ Reaches a imm x := by
  simp only [badIndex, Reaches, List.any_eq_false, Laws.mem_maskLanes, Bool.not_eq_true', Bool.not_eq_false, and_imp, field_low, srcN]
  rfl

theorem badIndex_of_not_reaches {x : Issue} (h : ¬ Reaches a imm x) : badIndex x a (field imm 0 8) = true :=
  Bool.eq_true_of_not_eq_false fun hbad => h (badIndex_eq_false_iff.1 hbad)

/-- An instruction that starts an operation where its precondition holds completes with it (R72). -/
theorem completes_start {i : Instr} {body : Issue → State → Eff} {pre : Issue → State → Prop} {kind : Issue → VarKind}
    {into : Issue → LandTo} {mask : Issue → Mask} (hexec : ∀ s, exec i s = issue i s body) (hl : i.shape.long = false)
    (hbody : ∀ x s, x.i = i → i.wf = true → pre x s → body x s = startOp x s (kind x) (into x) (mask x)) :
    Completes i pre (Starts (fun x _ => kind x) into mask) := by
  intro s k e g F hpre
  obtain ⟨t, hgo, hstarts⟩ := Laws.startOp_starts hl F (s1 := actsIn i s k e g) (fun _ => rfl)
    (hbody _ _ (Laws.sees_i i k e g) (wf_of_fires F) hpre)
  exact ⟨t, (hexec s).trans hgo, hstarts⟩

theorem vgeti_starts : Completes (.vgeti d a imm c) (fun x _ => Reaches a imm x)
    (Starts (fun x _ => .vget (imm.toNat % 256) (lanesOf fun j => src32 x a j)) (fun x => .vec (vStore x.d.sysMode d.toNat) 1) inAct) := by
  refine completes_start (fun _ => rfl) rfl fun x s hi hwf h => ?_
  have hdest : x.dest 1 = .vec (vStore x.d.sysMode d.toNat) 1 := by
    rw [dest_v_of_wf (hi ▸ hwf) (by rw [hi]; rfl), hi]
    rfl
  rw [badIndex_eq_false_iff.2 h, hdest, field_low]
  rfl

theorem vputi_starts : Completes (.vputi d a imm c) (fun x _ => Reaches a imm x)
    (Starts (fun x _ => .vput (imm.toNat % 256) (lanesOf fun j => src32 x a j)
      (lanesOf fun j => lane (x.d.vAt (vStore x.d.sysMode d.toNat)) j)) (fun _ => .nothing) inAct) := by
  refine completes_start (fun _ => rfl) rfl fun x s _ _ h => ?_
  rw [badIndex_eq_false_iff.2 h, field_low]
  rfl

theorem vgeti_traps : TrapsWhen (.vgeti d a imm c) (fun x _ => ¬ Reaches a imm x) fun _ _ => { code := 0x04 } :=
  trapsWhen_of_body (fun _ => rfl) rfl (fun _ _ h => if_pos (badIndex_of_not_reaches h)) fun _ _ => by simp

theorem vputi_traps : TrapsWhen (.vputi d a imm c) (fun x _ => ¬ Reaches a imm x) fun _ _ => { code := 0x04 } :=
  trapsWhen_of_body (fun _ => rfl) rfl (fun _ _ h => if_pos (badIndex_of_not_reaches h)) fun _ _ => by simp

end

/-- Settles O24: the check of the lanes' indices decides between the operation and the trap. -/
theorem indexedRegisters : Obligations.IndexedRegisters := by
  intro d a imm c reach beyond_
  exact ⟨vgeti_starts, vputi_starts, vgeti_traps, vputi_traps⟩

end Sys2Proof.Proofs
end

section
/-!
PROOFS about tiles (O25; R143-R148): the shape word, the elements that a tile shows, the tables of elements that an instruction writes,
and the statement instruction by instruction.
-/
namespace Sys2Proof.Proofs
set_option Elab.async false
open Sys2Proof.Machine

/-! ### Shape words -/

section
variable {w : Word}

theorem tileRows_eq (w : Word) : tileRows w = w.toNat % 32 := field_low w 5

theorem tileCols_eq (w : Word) : tileCols w = w.toNat / 256 % 32 := rfl

theorem field_eq_zero_iff {lo n : Nat} : field w lo n = 0 ↔ ∀ l, lo ≤ l → l < lo + n → w.getLsbD l = false := by
  constructor
  · intro h l hlo hn
    have hbit := testBit_field w lo n (l - lo)
    rwa [h, Nat.zero_testBit, decide_eq_true (by omega), Bool.true_and, Nat.add_sub_cancel' hlo, eq_comm] at hbit
  · intro h
    refine Nat.eq_of_testBit_eq fun l => ?_
    rw [testBit_field, Nat.zero_testBit, Bool.and_eq_false_imp]
    intro hl
    exact h _ (Nat.le_add_right _ _) (Nat.add_lt_add_left (of_decide_eq_true hl) _)

/-- The bits of a shape word that are reserved (R143). -/
theorem reserved_eq_zero_iff : w &&& 0xFFFEE0E0 = 0 ↔ field w 5 3 = 0 ∧ field w 13 3 = 0 ∧ field w 17 15 = 0 := by
  have hbits : ∀ l < 32, (0xFFFEE0E0 : Word).getLsbD l = decide ((5 ≤ l ∧ l < 8) ∨ (13 ≤ l ∧ l < 16) ∨ 17 ≤ l) := by decide
  have hmask : w &&& 0xFFFEE0E0 = 0 ↔ ∀ l < 32, (5 ≤ l ∧ l < 8) ∨ (13 ≤ l ∧ l < 16) ∨ 17 ≤ l → w.getLsbD l = false := by
    rw [mask_eq_zero_iff]
    refine forall₂_congr fun l hl => ?_
    rw [inMask_and, inMask, inMask, hbits l hl, Bool.and_eq_false_imp, decide_eq_false_iff_not]
    cases w.getLsbD l <;> simp
  rw [hmask, field_eq_zero_iff, field_eq_zero_iff, field_eq_zero_iff]
  constructor
  · exact fun h => ⟨fun l hlo hn => h l (by omega) (by omega), fun l hlo hn => h l (by omega) (by omega),
      fun l hlo hn => h l (by omega) (by omega)⟩
  · rintro ⟨h5, h13, h17⟩ l hl (⟨hlo, hn⟩ | ⟨hlo, hn⟩ | hlo)
    · exact h5 l hlo hn
    · exact h13 l hlo hn
    · exact h17 l hlo hl

/-- The operand of TCFG releases its tile (R146). -/
def Releases (w : Word) : Prop := tileRows w = 0 ∧ w &&& 0xFFFEE0E0 = 0
/-- The operand of TCFG is a shape that a tile can have (R146). -/
def FitsTile (w : Word) : Prop :=
  w &&& 0xFFFEE0E0 = 0 ∧ 1 ≤ tileRows w ∧ tileRows w ≤ 16 ∧ 1 ≤ tileCols w ∧ tileCols w ≤ 16

theorem shapeOk_iff : shapeOk w = true ↔ FitsTile w := by
  simp only [shapeOk, FitsTile, reserved_eq_zero_iff, Bool.and_eq_true, decide_eq_true_eq, tileRows, tileCols]
  tauto

theorem releases_iff : (decide (field w 0 5 = 0) && decide (w &&& 0xFFFEE0E0 = 0)) = true ↔ Releases w := by
  rw [Bool.and_eq_true, decide_eq_true_eq, decide_eq_true_eq]
  rfl

theorem not_releases_of_fits (h : FitsTile w) : ¬ Releases w := fun hr => by
  have hrows := h.2.1
  rw [hr.1] at hrows
  exact absurd hrows (by decide)

theorem inShape_iff {r k : Nat} : inShape w r k = true ↔ r < 16 ∧ k < 16 ∧ r < tileRows w ∧ k < tileCols w := by
  simp only [inShape, Bool.and_eq_true, decide_eq_true_eq, lt_min_iff]
  tauto

end

/-- An element as the shape of its tile shows it (R147, R149). -/
theorem at_eq (y : Tile) (r k : Nat) : y.at_ r k =
    if r < 16 ∧ k < 16 ∧ r < tileRows y.shape ∧ k < tileCols y.shape then
      if y.shape.getLsbD 16 then (tblGet? y.elems (16 * r + k)).getD 0 &&& 0xFFFF else (tblGet? y.elems (16 * r + k)).getD 0
    else 0 := by
  simp only [Tile.at_, inShape_iff]
  rfl

/-! ### Tables of elements -/

section
variable {β : Type} {l : List β} {p : β → Nat} {v : β → Word}

theorem tblGet?_map_of_mem {b : β} (hb : b ∈ l) (hinj : ∀ a ∈ l, p a = p b → a = b) :
    tblGet? (l.map fun a => (p a, v a)) (p b) = some (v b) := by
  induction l with
  | nil => cases hb
  | cons a l ih =>
    by_cases ha : p a = p b
    · obtain rfl := hinj a List.mem_cons_self ha
      simp [tblGet?]
    · have hmem : b ∈ l := (List.mem_cons.1 hb).resolve_left fun h => ha (congrArg p h.symm)
      simpa [tblGet?, ha] using ih hmem fun a' ha' => hinj a' (List.mem_cons_of_mem _ ha')

theorem tblGet?_map_of_forall_ne {j : Nat} (h : ∀ a ∈ l, p a ≠ j) : tblGet? (l.map fun a => (p a, v a)) j = none := by
  refine Option.eq_none_iff_forall_ne_some.2 fun w hw => ?_
  obtain ⟨a, ha, heq⟩ := List.mem_map.1 (Laws.mem_of_tblGet? hw)
  exact h a ha (congrArg Prod.fst heq)

end

/-- What lanes write of row r of a tile of shape w, lane j of column j (R147). -/
def rowWrites (m : Mask) (w : Word) (r : Nat) (v : Nat → Word) : Tbl Word :=
  ((maskLanes m).filter (inShape w r ·)).map fun j => (16 * r + j, tileElem w (v j))
/-- What lanes write of column k of a tile of shape w, lane i of row i (R147). -/
def columnWrites (m : Mask) (w : Word) (k : Nat) (v : Nat → Word) : Tbl Word :=
  ((maskLanes m).filter (inShape w · k)).map fun i => (16 * i + k, tileElem w (v i))

section
variable {m : Mask} {w : Word} {r k : Nat} {v : Nat → Word}

theorem tblGet?_rowWrites {row : Nat} (hr : row < 16) (hrows : row < tileRows w) (hk : k < 16) :
    tblGet? (rowWrites m w row v) (16 * r + k) =
      if r = row ∧ k < tileCols w ∧ inMask m k = true then some (tileElem w (v k)) else none := by
  split
  · rename_i h
    obtain ⟨rfl, hcols, hm⟩ := h
    refine tblGet?_map_of_mem (p := (16 * r + ·)) (List.mem_filter.2 ⟨?_, inShape_iff.2 ⟨hr, hk, hrows, hcols⟩⟩)
      fun _ _ h => Nat.add_left_cancel h
    exact (Laws.mem_maskLanes m k).2 ⟨by omega, hm⟩
  · rename_i h
    refine tblGet?_map_of_forall_ne (p := (16 * row + ·)) fun j hj hplace => h ?_
    obtain ⟨hlane, hin⟩ := List.mem_filter.1 hj
    obtain ⟨-, hlt, -, hcols⟩ := inShape_iff.1 hin
    obtain ⟨rfl, rfl⟩ : r = row ∧ k = j := by omega
    exact ⟨rfl, hcols, ((Laws.mem_maskLanes m k).1 hlane).2⟩

theorem tblGet?_columnWrites {col : Nat} (hcol : col < 16) (hcols : col < tileCols w) (hr : r < 16) (hk : k < 16) :
    tblGet? (columnWrites m w col v) (16 * r + k) =
      if k = col ∧ r < tileRows w ∧ inMask m r = true then some (tileElem w (v r)) else none := by
  split
  · rename_i h
    obtain ⟨rfl, hrows, hm⟩ := h
    refine tblGet?_map_of_mem (p := (16 * · + k)) (List.mem_filter.2 ⟨?_, inShape_iff.2 ⟨hr, hk, hrows, hcols⟩⟩)
      fun _ _ h => by omega
    exact (Laws.mem_maskLanes m r).2 ⟨by omega, hm⟩
  · rename_i h
    refine tblGet?_map_of_forall_ne (p := (16 * · + col)) fun i hi hplace => h ?_
    obtain ⟨hlane, hin⟩ := List.mem_filter.1 hi
    obtain ⟨-, -, hrows, -⟩ := inShape_iff.1 hin
    obtain ⟨rfl, rfl⟩ : r = i ∧ k = col := by omega
    exact ⟨rfl, hrows, ((Laws.mem_maskLanes m r).1 hlane).2⟩

/-- A tile's elements as it shows them, place by place. -/
theorem tblGet?_shown (y : Tile) (hr : r < 16) (hk : k < 16) : tblGet? y.shown (16 * r + k) = some (y.at_ r k) := by
  have hshown := tblGet?_mapSelf (fun j => y.at_ (j / 16) (j % 16)) (l := List.range 256) (j := 16 * r + k)
    (List.mem_range.2 (by omega))
  have hrow : (16 * r + k) / 16 = r := by omega
  have hcol : (16 * r + k) % 16 = k := by omega
  rwa [hrow, hcol] at hshown

/-- Transposed, they are shown with row and column exchanged (R148). -/
theorem tblGet?_transposed (y : Tile) (hr : r < 16) (hk : k < 16) :
    tblGet? (y.shown.map fun p => (p.1 % 16 * 16 + p.1 / 16, p.2)) (16 * r + k) = some (y.at_ k r) := by
  have hinj : ∀ j ∈ List.range 256, j % 16 * 16 + j / 16 = (16 * k + r) % 16 * 16 + (16 * k + r) / 16 → j = 16 * k + r := by
    intro j hj h
    have := List.mem_range.1 hj
    omega
  have hplaced := tblGet?_map_of_mem (p := fun j => j % 16 * 16 + j / 16) (v := fun j => y.at_ (j / 16) (j % 16))
    (l := List.range 256) (List.mem_range.2 (by omega : 16 * k + r < 256)) hinj
  have hplace : (16 * k + r) % 16 * 16 + (16 * k + r) / 16 = 16 * r + k := by omega
  have hrow : (16 * k + r) / 16 = k := by omega
  have hcol : (16 * k + r) % 16 = r := by omega
  rw [hplace, hrow, hcol] at hplaced
  rw [Tile.shown, List.map_map]
  exact hplaced

end

/-! ### What the instructions complete with -/

section
variable {i : Instr} {body : Issue → State → Eff} {pre : Issue → State → Prop}

/-- An instruction whose body pends contents of a tile (R145). -/
theorem completes_tile {n : BitVec 3} {shape : Issue → Option Word} {clean : Bool} {es : Issue → Tbl Word}
    {elem : Issue → Nat → Nat → Option Word} (hexec : ∀ s, exec i s = issue i s body) (hl : i.shape.long = false)
    (hbody : ∀ x s, pre x s → body x s = .ok { s := s, attached := true, lands := [x.tileLanding n (shape x) clean (es x)] })
    (helem : ∀ x s, pre x s → ∀ r < 16, ∀ k < 16, tblGet? (es x) (16 * r + k) = elem x r k) :
    Completes i pre (ToTile n shape clean elem) := by
  refine completes_pends (land := fun x => (x.tileLanding n (shape x) clean (es x)).2) hexec hl (by decide) hbody
    fun x s t _ _ hpre ⟨d', hissued, hkept, hplain, hmem⟩ => ?_
  exact ⟨d', _, es x, hissued, hkept, hplain, hmem, rfl, rfl, rfl, rfl, rfl, rfl, fun r k hr hk => helem x s hpre r hr k hk⟩

/-- An instruction whose body pends a lane register's value in the active lanes. -/
theorem completes_lanes {d : BitVec 8} {val : Issue → Nat → Word} (hexec : ∀ s, exec i s = issue i s body) (hshape : SlowShape i d)
    (hbody : ∀ x s, pre x s → body x s = .ok
      { s := s, attached := true, lands := [(4, x.landing (x.dest 1) x.act (lanesOf fun j => (val x j).setWidth 64) [])] }) :
    Completes i pre (Result32 4 d val) := by
  obtain ⟨hlong, hdst, rfl⟩ := hshape
  refine completes_pends hexec hlong (by decide) hbody fun x s t hi hwf _ h => ?_
  subst hi
  have hlane : x.i.ctl.uniformForm = false := uniformForm_of_wf hwf (by rw [hdst]; rfl)
  refine result_of_pends h (dest_byForm (by rw [hdst]; rfl)) ?_ fun j hj => Laws.lane_lanesOf _ _ hj
  rw [inLanes, hlane]
  rfl

end

/-- The tile that an instruction names, as it is at issue. -/
abbrev tileOf (x : Issue) (n : BitVec 3) : Tile := x.d.tile n.toNat

section
variable {t u : BitVec 3} {d : BitVec 8} {a b : Src} {c : Ctl}

theorem tcfg_releases : Completes (.tcfg t a c) (fun x _ => Releases (srcU x a)) (ToTile t (fun _ => some 0) true fun _ _ _ => none) :=
  completes_tile (es := fun _ => []) (fun _ => rfl) rfl (fun _ _ h => if_pos (releases_iff.2 h)) fun _ _ _ _ _ _ _ => rfl

theorem tcfg_configures : Completes (.tcfg t a c) (fun x _ => FitsTile (srcU x a))
    (ToTile t (fun x => some (srcU x a)) false fun _ _ _ => none) :=
  completes_tile (es := fun _ => []) (fun _ => rfl) rfl
    (fun _ _ h => (if_neg (mt releases_iff.1 (not_releases_of_fits h))).trans (if_pos (shapeOk_iff.2 h))) fun _ _ _ _ _ _ _ => rfl

theorem tcfg_traps : TrapsWhen (.tcfg t a c) (fun x _ => ¬ Releases (srcU x a) ∧ ¬ FitsTile (srcU x a)) fun _ _ => { code := 0x0B } :=
  trapsWhen_of_body (fun _ => rfl) rfl
    (fun _ _ h => (if_neg (mt releases_iff.1 h.1)).trans (if_neg (mt shapeOk_iff.1 h.2))) fun _ _ => by simp

theorem tmvr_writes : Completes (.tmvr t a b c)
    (fun x _ => tileRows (tileOf x t).shape ≠ 0 ∧ (tileRows (tileOf x t).shape ≤ 16 ∧ tileCols (tileOf x t).shape ≤ 16) ∧
      (srcU x b).toNat < tileRows (tileOf x t).shape)
    (ToTile t (fun _ => none) false fun x r k =>
      if r = (srcU x b).toNat ∧ k < tileCols (tileOf x t).shape ∧ inMask x.act k = true
      then some (tileElem (tileOf x t).shape (src32 x a k)) else none) := by
  refine completes_tile (es := fun x => rowWrites x.act (tileOf x t).shape (srcU x b).toNat (src32 x a)) (fun _ => rfl) rfl
    (fun x s h => ?_) fun x s h r hr k hk => ?_
  · exact (if_neg h.1).trans (if_neg (Nat.not_le.2 h.2.2))
  · obtain ⟨-, ⟨hrows, -⟩, hrow⟩ := h
    exact tblGet?_rowWrites (by omega) hrow hk

theorem tmvc_writes : Completes (.tmvc t a b c)
    (fun x _ => tileRows (tileOf x t).shape ≠ 0 ∧ (tileRows (tileOf x t).shape ≤ 16 ∧ tileCols (tileOf x t).shape ≤ 16) ∧
      (srcU x b).toNat < tileCols (tileOf x t).shape)
    (ToTile t (fun _ => none) false fun x r k =>
      if k = (srcU x b).toNat ∧ r < tileRows (tileOf x t).shape ∧ inMask x.act r = true
      then some (tileElem (tileOf x t).shape (src32 x a r)) else none) := by
  refine completes_tile (es := fun x => columnWrites x.act (tileOf x t).shape (srcU x b).toNat (src32 x a)) (fun _ => rfl) rfl
    (fun x s h => ?_) fun x s h r hr k hk => ?_
  · exact (if_neg h.1).trans (if_neg (Nat.not_le.2 h.2.2))
  · obtain ⟨-, ⟨-, hcols⟩, hcol⟩ := h
    exact tblGet?_columnWrites (by omega) hcol hr hk

theorem trdr_reads : Completes (.trdr d u b c)
    (fun x _ => tileRows (tileOf x u).shape ≠ 0 ∧ (srcU x b).toNat < tileRows (tileOf x u).shape)
    (Result32 4 d fun x j => (tileOf x u).at_ (srcU x b).toNat j) :=
  completes_lanes (fun _ => rfl) {} fun _ _ h => (if_neg h.1).trans (if_neg (Nat.not_le.2 h.2))

theorem trdc_reads : Completes (.trdc d u b c)
    (fun x _ => tileRows (tileOf x u).shape ≠ 0 ∧ (srcU x b).toNat < tileCols (tileOf x u).shape)
    (Result32 4 d fun x j => (tileOf x u).at_ j (srcU x b).toNat) :=
  completes_lanes (fun _ => rfl) {} fun _ _ h => (if_neg h.1).trans (if_neg (Nat.not_le.2 h.2))

theorem topZero_writes : Completes (.topZero t c) (fun x _ => tileRows (tileOf x t).shape ≠ 0)
    (ToTile t (fun _ => none) false fun _ _ _ => some 0) :=
  completes_tile (es := fun _ => (List.range 256).map fun j => (j, 0)) (fun _ => rfl) rfl (fun _ _ h => if_neg h)
    fun _ _ _ _ _ _ _ => tblGet?_mapSelf (fun _ => 0) (List.mem_range.2 (by omega))

theorem topTrans_writes : Completes (.topTrans t u c) (fun x _ => tileRows (tileOf x u).shape ≠ 0)
    (ToTile t (fun x => some (putField (putField (tileOf x u).shape 0 5 (tileCols (tileOf x u).shape)) 8 5 (tileRows (tileOf x u).shape)))
      false fun x r k => some ((tileOf x u).at_ k r)) :=
  completes_tile (fun _ => rfl) rfl (fun _ _ h => if_neg h) fun x _ _ _ hr _ hk => tblGet?_transposed (tileOf x u) hr hk

theorem topRel_writes : Completes (.topRel t c) Always (ToTile t (fun _ => some 0) true fun _ _ _ => none) :=
  completes_tile (es := fun _ => []) (fun _ => rfl) rfl (fun _ _ _ => rfl) fun _ _ _ _ _ _ _ => rfl

theorem topCopy_writes : Completes (.topCopy t u c) (fun x _ => tileRows (tileOf x u).shape ≠ 0)
    (ToTile t (fun x => some (tileOf x u).shape) false fun x r k => some ((tileOf x u).at_ r k)) :=
  completes_tile (fun _ => rfl) rfl (fun _ _ h => if_neg h) fun x _ _ _ hr _ hk => tblGet?_shown (tileOf x u) hr hk

end

/-! ### Traps -/

section
variable {i : Instr} {n : BitVec 3} {limit : Issue → Nat} {b : Src} {fx : Issue → State → Eff}

/-- An instruction that first asks for a tile with a shape traps at one without (R147, R148). -/
theorem traps_unset (hexec : ∀ s, exec i s = issue i s fun x s =>
      if tileRows (tileOf x n).shape = 0 then .trap { code := 0x0A } else fx x s)
    (hl : i.shape.long = false) : TrapsWhen i (fun x _ => ¬ tileRows (tileOf x n).shape ≠ 0) fun _ _ => { code := 0x0A } :=
  trapsWhen_of_body hexec hl (fun _ _ h => if_pos (not_not.1 h)) fun _ _ => by simp

/-- And one that then asks for a number below a limit traps at another (R147). -/
theorem traps_outside (hexec : ∀ s, exec i s = issue i s fun x s =>
      if tileRows (tileOf x n).shape = 0 then .trap { code := 0x0A }
      else if (srcU x b).toNat ≥ limit x then .trap { code := 0x0C } else fx x s)
    (hl : i.shape.long = false) :
    TrapsWhen i (fun x _ => tileRows (tileOf x n).shape ≠ 0 ∧ limit x ≤ (srcU x b).toNat) fun _ _ => { code := 0x0C } :=
  trapsWhen_of_body hexec hl (fun _ _ h => (if_neg h.1).trans (if_pos h.2)) fun _ _ => by simp

end

/-- Settles O25: what each instruction writes or reads, and that it asks for a shape and then for a row or column within it. -/
theorem tiles : Obligations.Tiles := by
  intro t u d a b c
  simp only [← tileRows_eq, ← tileCols_eq, ← at_eq]
  refine ⟨tcfg_releases, tcfg_configures, tcfg_traps, tmvr_writes, tmvc_writes, trdr_reads, trdc_reads, topZero_writes, topTrans_writes,
    topRel_writes, topCopy_writes, ?_⟩
  exact ⟨traps_unset (fun _ => rfl) rfl, traps_outside (fun _ => rfl) rfl, traps_unset (fun _ => rfl) rfl,
    traps_outside (fun _ => rfl) rfl, traps_unset (fun _ => rfl) rfl, traps_outside (fun _ => rfl) rfl,
    traps_unset (fun _ => rfl) rfl, traps_outside (fun _ => rfl) rfl, traps_unset (fun _ => rfl) rfl,
    traps_unset (fun _ => rfl) rfl, traps_unset (fun _ => rfl) rfl⟩

end Sys2Proof.Proofs
end

section
/-!
PROOFS about instructions that check before they act (R38, R39, R70-R72, R157, R200): what one completes with from the state that its
checks leave, where its checks trap or wait for a table walk, and the three answers of a long wait as it comes to issue.
-/
namespace Sys2Proof.Proofs
set_option Elab.async false
open Sys2Proof.Machine

theorem drill_actsIn_ne {i : Instr} {s : State} {k j : Nat} {d : Drill} {g : Machine.Group} (h : j ≠ k) :
    (actsIn i s k d g).drill? j = s.drill? j := by
  have harmed : (s.armed (comes i k d g)).drill? j = s.drill? j := by simp [Laws.drill?_armed, comes, Ne.symm h]
  unfold actsIn
  dsimp only
  split
  · rw [Laws.drill?_takeTk0, harmed]
  · exact harmed

/-! ### Instructions that check and act -/

section
variable {i : Instr} {body : Issue → State → Eff} (hexec : ∀ s, exec i s = issue i s body) (hl : i.shape.long = false)
variable {pre : Issue → State → Prop}
include hexec hl

/-- An instruction whose checks pass becomes outstanding, from the state that they leave (R72, R157). -/
theorem completes_starting {kind : Issue → VarKind} {into : Issue → LandTo} {mask : Issue → Mask} {s1 : Issue → State → State}
    (hbody : ∀ x s, x.i = i → i.wf = true → pre x s → body x s = startOp x (s1 x s) (kind x) (into x) (mask x))
    (hsame : ∀ x s, pre x s → SameDrills s (s1 x s)) :
    Completes i pre fun x s t => Starts (fun x _ => kind x) into mask x (s1 x s) t := by
  intro s k d g F hpre
  obtain ⟨t, hgo, hstarts⟩ := Laws.startOp_starts hl F (hsame _ _ hpre) (hbody _ _ (Laws.sees_i i k d g) (wf_of_fires F) hpre)
  exact ⟨t, (hexec s).trans hgo, hstarts⟩

/-- An instruction whose checks pass enters the store queue, from the state that they leave (R157, R159). -/
theorem completes_entering {kind : Issue → SqKind} {s1 : Issue → State → State}
    (hbody : ∀ x s, x.i = i → pre x s → body x s = enqueue x (s1 x s) (kind x)) (hsame : ∀ x s, pre x s → SameDrills s (s1 x s)) :
    Completes i pre fun x s t => Enqueues (fun x _ => kind x) x (s1 x s) t := by
  intro s k d g F hpre
  obtain ⟨t, hgo, hqueued⟩ := Laws.enqueue_enqueues hl F (hsame _ _ hpre) (hbody _ _ (Laws.sees_i i k d g) hpre)
  exact ⟨t, (hexec s).trans hgo, hqueued⟩

/-- An instruction with an effect beside its drill goes on (R171). -/
theorem completes_effects {f : Issue → State → State} (hbody : ∀ x s, pre x s → body x s = noEffect (f x s))
    (hsame : ∀ x s, pre x s → SameDrills s (f x s)) : Completes i pre (Effects f) := by
  intro s k d g F hpre
  obtain ⟨d1, hd, hbase, hcm, hstack, hops, hqueue, -⟩ := Laws.actsIn_base F
  obtain ⟨t, d', hgo, hissued, hkept, ⟨hcm', hstack', hops', hqueue'⟩, -⟩ :=
    Laws.completes_from (s1 := f (sees i k d g) (actsIn i s k d g)) hl F (hbody _ _ hpre)
      ⟨by simpa using (hsame _ _ hpre k).trans hd, by simpa using hbase, rfl, fun _ _ => rfl, fun _ => rfl, fun _ => rfl, by simp, rfl, rfl⟩
  refine ⟨t, (hexec s).trans hgo, d', by simpa using hissued, hkept, ?_⟩
  simp only [Plain, Laws.sees_d]
  exact ⟨hcm'.trans hcm, hstack'.trans hstack, hops'.trans hops, hqueue'.trans hqueue⟩

/-- An instruction that edits its drill beside the number that it takes from the machine goes on from the state that its checks leave (R72,
R159). -/
theorem completes_stamping {edit : Issue → State → Drill → Drill} {s1 : Issue → State → State} {attached : Bool}
    (hbody : ∀ x s, x.i = i → i.wf = true → pre x s →
      body x s = .ok { s := ({ s1 x s with seq := (s1 x s).seq + 1 } : State).modDrill x.k (edit x s), attached := attached })
    (hsame : ∀ x s, pre x s → SameDrills s (s1 x s)) (hedit : ∀ x s d, Laws.base (edit x s d) = Laws.base d) :
    Completes i pre fun x s t => ∃ d' d1, Issued x t d' (x.d.pc + 8) ∧ Kept x (s1 x s) t d' ∧ t.seq = (s1 x s).seq + 1 ∧ Plain x d1 ∧
      d'.cm = (edit x s d1).cm ∧ d'.maskStack = (edit x s d1).maskStack ∧ d'.ops = (edit x s d1).ops ∧
      d'.storeQueue = (edit x s d1).storeQueue := by
  intro s k d g F hpre
  obtain ⟨d1, hd, hbase, hcm, hstack, hops, hqueue, -⟩ := Laws.actsIn_base F
  have hbodyHere := hbody _ _ (Laws.sees_i i k d g) (wf_of_fires F) hpre
  have hdrill := (hsame _ _ hpre k).trans hd
  have hedited : Laws.base (edit (sees i k d g) (actsIn i s k d g) d1) = Laws.base (sees i k d g).d :=
    (hedit _ _ _).trans (by rw [Laws.sees_d]; exact hbase)
  beta_reduce
  generalize s1 (sees i k d g) (actsIn i s k d g) = u at hbodyHere hdrill ⊢
  obtain ⟨t, d', hgo, hissued, hkept, heffect, hseq⟩ := Laws.completes_from (s1 := u) hl F hbodyHere
    ⟨drill_modDrill_self (s := { u with seq := u.seq + 1 }) (d := d1) (by rw [Laws.sees_k]; exact hdrill) _, hedited, rfl,
      fun j hj => (Laws.drill_modDrill _ _ _ j).trans (if_neg (Ne.symm hj)), fun _ => rfl, fun _ => rfl, by simp, rfl, rfl⟩
  exact ⟨t, (hexec s).trans hgo, d', d1, by simpa using hissued, hkept, hseq, by simpa [Plain] using ⟨hcm, hstack, hops, hqueue⟩, heffect⟩

/-- An instruction without effect goes on. -/
theorem completes_idle (hbody : ∀ x s, pre x s → body x s = noEffect s) : Completes i pre (GoesOn after) :=
  completes_jump hexec hl (jump := fun _ => none) hbody fun _ _ _ => rfl

variable {tr : TrapReq}

/-- Where the checks answer a trap, the instruction raises it (R38, R39). -/
theorem traps_of_check (hbody : ∀ x s, pre x s → body x s = .trap tr) (hcode : ∀ x s, pre x s → tr.code ≠ 0) :
    TrapsWhen i pre fun _ _ => tr :=
  fun s k d g F hpre => trapsWhen_of_body hexec hl hbody (fun _ _ => hcode _ _ hpre) s k d g F hpre

/-- Where the checks meet a table that is changing hands, the instruction waits (R70, R200). -/
theorem walkHeld_of_check (hbody : ∀ x s, pre x s → body x s = .trap tr) (hcode : ∀ x s, pre x s → tr.code = 0) : WalkHeld i pre := by
  intro s k d g F hpre
  obtain ⟨nl, hd⟩ := Laws.actsIn_drill (i := i) g F.1.2.1
  rw [hexec, issue_acts F hl, State.act, readsMarked_sees F, hbody _ _ hpre]
  simp only [Bool.false_eq_true, if_false, hcode _ _ hpre, if_true, Laws.sees_k]
  have hothers (j : Nat) (hj : j ≠ k) := drill_actsIn_ne (i := i) (s := s) (d := d) (g := g) hj
  generalize actsIn i s k d g = u at hd hothers ⊢
  have hstalled := drill_modDrill_self hd fun e => { e with st := .stalled, stall := some .walk }
  replace hothers (j : Nat) (hj : j ≠ k) : (u.stallOn k .walk).drill? j = s.drill? j := by
    simpa [State.stallOn, Ne.symm hj] using hothers j hj
  split
  · refine ⟨_, _, rfl, drill_modDrill_self hstalled fun e => { e with skipTk0 := true }, rfl, rfl, rfl, rfl, rfl, fun _ => rfl, fun j hj => ?_⟩
    simpa [Ne.symm hj] using hothers j hj
  · exact ⟨_, _, rfl, hstalled, rfl, rfl, rfl, rfl, rfl, fun _ => rfl, hothers⟩

end

/-! ### Long waits -/

/-- The tokens that an instruction which fires waits for are there, where it waits for any (R81). -/
theorem tokens_of_fires {i : Instr} {s : State} {k : Nat} {d : Drill} {g : Machine.Group} (F : Fires i s k d g)
    (hcommand : i.shape.command = false) (s' : State) (hs : tokenQueued s' g d i.ctl.tk0 = tokenQueued s g d i.ctl.tk0) :
    ((tokensReady g.tok 1 i.ctl.tk0 && !tokenQueued s' g d i.ctl.tk0) || d.skipTk0) = true := by
  rw [hs]
  by_cases hskip : d.skipTk0 = true
  · rw [hskip, Bool.or_true]
  by_cases htk0 : i.ctl.tk0 = 0
  · have hready : tokensReady g.tok 1 0 = true := rfl
    have hqueued : tokenQueued s g d 0 = false := by
      refine List.any_eq_false.2 fun k' _ => ?_
      split
      · split <;> simp
      · simp
    rw [htk0, hready, hqueued]
    rfl
  · obtain ⟨hready, hqueued, -⟩ := F.2.2.2 ⟨htk0, hcommand, Bool.eq_false_iff.2 hskip⟩
    rw [hready, hqueued]
    rfl

section
variable {i : Instr} {s : State} {k : Nat} {d : Drill} {g : Machine.Group} {body : Issue → State → Eff}
variable (F : Fires i s k d g) (hl : i.shape.long = true) (hcommand : i.shape.command = false) (hmet : d.metWait = false)
include F hl hcommand hmet

/-- A LONG WAIT AS IT COMES TO ISSUE (R39, R70, R71): it waits, it traps before its TK0 actions, or it goes on to them. -/
theorem issueAt_long :
    (∀ u, body (comes i k d g) (s.armed (comes i k d g)) = .wait u → s.issueAt (comes i k d g) body = u.longUnmet (comes i k d g)) ∧
    (∀ t, body (comes i k d g) (s.armed (comes i k d g)) = .trap t →
      s.issueAt (comes i k d g) body = (s.armed (comes i k d g)).raiseOr k { t with tkd := d.skipTk0 }) ∧
    ∀ fx, body (comes i k d g) (s.armed (comes i k d g)) = .ok fx →
      s.issueAt (comes i k d g) body = (s.armed (comes i k d g)).actTokens (comes i k d g) body := by
  have htokens := tokens_of_fires F hcommand (s.armed (comes i k d g)) (Laws.tokenQueued_armed s (comes i k d g) g d i.ctl.tk0)
  obtain ⟨-, ⟨hearly, hwait, hpoison, hmarked⟩, ⟨hslot, hqueue, hstores⟩, -⟩ := F
  have hspace : (i.shape.queue && decide (d.storeQueue.length ≥ 64)) = false := by
    cases hq : i.shape.queue
    · rfl
    · simp [Nat.not_le.2 (hqueue hq)]
  have hempty : (afterStores i && decide (d.storeQueue ≠ [])) = false := by
    cases ha : afterStores i
    · rfl
    · simp [hstores ha]
  unfold comes at htokens ⊢
  simp only [State.issueAt, hearly, hwait, hpoison, slot_hasRoom hslot, hspace, hempty, hl, hmarked, hmet, Bool.false_eq_true, if_false,
    if_true]
  refine ⟨fun u hb => ?_, fun t hb => ?_, fun fx hb => ?_⟩
  · rw [hb]
  · rw [hb]
  · rw [hb]
    exact if_pos htokens

omit hl hmet in
/-- The TK0 actions of an instruction that fires, then its body (R39). -/
theorem actTokens_fires : (s.armed (comes i k d g)).actTokens (comes i k d g) body =
    (actsIn i s k d g).act (sees i k d g) (decide (i.ctl.tk0 ≠ 0)) body := by
  obtain ⟨-, -, -, htokens⟩ := F
  by_cases htk : takesTk0 i d
  · have hacts : actsIn i s k d g = (s.armed (comes i k d g)).takeTk0 (comes i k d g) := if_pos htk
    have hsees : sees i k d g = { comes i k d g with g := { g with tok := (tk0Tokens g i.ctl.tk0).1 } } := if_pos htk
    obtain ⟨hready, hqueued, hovf⟩ := htokens htk
    obtain ⟨htk0, -, hskip⟩ := htk
    rw [hacts, hsees, decide_eq_true htk0]
    unfold comes
    simp only [State.actTokens, Laws.tokenQueued_armed, htk0, hcommand, hskip, hready, hqueued, hovf, decide_false, Bool.or_false,
      Bool.not_true, Bool.false_eq_true, if_false]
  · have hacts : actsIn i s k d g = s.armed (comes i k d g) := if_neg htk
    have hsees : sees i k d g = comes i k d g := if_neg htk
    rw [hacts, hsees]
    unfold comes
    by_cases htk0 : i.ctl.tk0 = 0
    · simp only [State.actTokens, htk0, decide_true, Bool.true_or, if_true, ne_eq, not_true_eq_false, decide_false]
    · have hskip : d.skipTk0 = true := by
        by_contra hs
        exact htk ⟨htk0, hcommand, Bool.eq_false_iff.2 hs⟩
      simp only [State.actTokens, htk0, hcommand, hskip, decide_false, Bool.or_false, Bool.false_eq_true, if_false, if_true, ne_eq,
        not_false_eq_true, decide_true]

end

/-- A drill as a long wait leaves it whose condition does not hold (R70, R71). -/
def unmet (i : Instr) (d : Drill) : Drill :=
  if i.ctl.e then { d with st := .waiting, stall := none, longWait := some i }
  else { d with st := .stalled, stall := some .cond, longWait := some i }

theorem drill_longUnmet {u : State} {i : Instr} {k : Nat} {d e : Drill} {g : Machine.Group} (he : u.drill? k = some e) :
    (u.longUnmet (comes i k d g)).drill? k = some (unmet i e) := drill_modDrill_self he (unmet i)

theorem unmet_still (i : Instr) (d : Drill) : (unmet i d).longWait = some i ∧
    (unmet i d).pc = d.pc ∧ (unmet i d).n = d.n ∧ (unmet i d).v = d.v ∧ (unmet i d).s = d.s ∧ (unmet i d).k = d.k ∧
    (unmet i d).cm = d.cm ∧ (unmet i d).maskStack = d.maskStack ∧ (unmet i d).mbar = d.mbar := by
  unfold unmet
  split <;> exact ⟨rfl, rfl, rfl, rfl, rfl, rfl, rfl, rfl, rfl⟩

theorem unmet_stops (i : Instr) (d : Drill) :
    if i.ctl.e = true then (unmet i d).st = .waiting else (unmet i d).st = .stalled ∧ (unmet i d).stall = some .cond := by
  unfold unmet
  split <;> simp

section
variable {i : Instr} {body : Issue → State → Eff} (hexec : ∀ s, exec i s = issue i s body) (hl : i.shape.long = true)
variable (hcommand : i.shape.command = false) {pre : Issue → State → Prop}
include hexec hl hcommand

/-- A long wait whose condition holds goes on from the state u that its body leaves, of which P tells (R71). -/
theorem completesLong_of_body {P : Issue → State → State → Prop}
    (hbody : ∀ x s, pre x s → ∃ u, body x s = noEffect u ∧ SameDrills s u ∧ P x s u) :
    CompletesLong i pre fun x s t => ∃ u, P x s u ∧ Effects (fun _ _ => u) x s t := by
  intro s k d g F hmet hcomes hacts
  obtain ⟨u0, hcome, -⟩ := hbody _ _ hcomes
  obtain ⟨u, hgo, hsame, hP⟩ := hbody _ _ hacts
  obtain ⟨d1, hd, hbase, hcm, hstack, hops, hqueue, -⟩ := Laws.actsIn_base F
  have hdrill : u.drill? k = some d1 := (hsame k).trans hd
  obtain ⟨d', hissued, hkept, ⟨hcm', hstack', hops', hqueue'⟩, -⟩ := Laws.finish_spec (s0 := u) (i := i) (x := sees i k d g)
    (fx := { s := u }) (by simp) (by simpa using hdrill) (by simpa using hbase) rfl (fun _ _ => rfl) (fun _ => rfl) (fun _ => rfl) (by simp)
    rfl rfl
  have hstep : exec i s = .next (u.finish k i { s := u }) := by
    rw [hexec, issue_eq_next F.1.1 F.1.2.1 F.1.2.2]
    refine congrArg _ (((issueAt_long F hl hcommand hmet).2.2 _ hcome).trans ((actTokens_fires F hcommand).trans ?_))
    rw [State.act, readsMarked_sees F, hgo]
    simp [noEffect]
  rw [Laws.sees_k] at hissued hkept
  refine ⟨_, hstep, u, hP, d', hissued, hkept, ?_⟩
  simp only [Plain, Laws.sees_d]
  exact ⟨hcm'.trans hcm, hstack'.trans hstack, hops'.trans hops, hqueue'.trans hqueue⟩

/-- A long wait traps where its body does, before its TK0 actions (R39, R71). -/
theorem trapsLong_of_body {tr : TrapReq} (hbody : ∀ x s, pre x s → body x s = .trap tr) (hcode : ∀ x s, pre x s → tr.code ≠ 0) :
    TrapsLong i pre fun _ _ => tr := by
  intro s k d g F hmet hpre
  rw [hexec, issue_eq_next F.1.1 F.1.2.1 F.1.2.2]
  refine congrArg _ (((issueAt_long F hl hcommand hmet).2.1 _ (hbody _ _ hpre)).trans ?_)
  exact if_neg (hcode _ _ hpre)

/-- What a long wait leaves that does not go on (R70, R71). -/
theorem exec_waits {s u : State} {k : Nat} {d : Drill} {g : Machine.Group} (F : Fires i s k d g) (hmet : d.metWait = false)
    (hbody : body (comes i k d g) (s.armed (comes i k d g)) = .wait u) : exec i s = .next (u.longUnmet (comes i k d g)) := by
  rw [hexec, issue_eq_next F.1.1 F.1.2.1 F.1.2.2]
  exact congrArg _ ((issueAt_long F hl hcommand hmet).1 _ hbody)

theorem waits_of_body (hbody : ∀ x s, pre x s → body x s = .wait s) : Waits i pre := by
  intro s k d g F hmet hpre
  have harmed : (s.armed (comes i k d g)).drill? k = some { d with needLand := none } := drill_modDrill_self F.1.2.1 _
  have hothers (j : Nat) (hj : j ≠ k) : ((s.armed (comes i k d g)).longUnmet (comes i k d g)).drill? j = s.drill? j := by
    simp [State.longUnmet, State.armed, comes, Ne.symm hj]
  obtain ⟨hwait, hpc, hn, hv, hs, hk, hcm, hstack, -⟩ := unmet_still i { d with needLand := none }
  exact ⟨_, _, exec_waits hexec hl hcommand F hmet (hbody _ _ hpre), drill_longUnmet harmed, hpc, hn, hwait, unmet_stops i _, hv, hs, hk, hcm,
    hstack, rfl, hothers⟩

end

end Sys2Proof.Proofs
end

section
/-!
PROOFS about global accesses as they issue (R157, R160-R165, R169, R200): every one of them checks its lanes' addresses, and what the
checks answer decides whether it becomes outstanding, enters the store queue, traps or waits for a table walk.
-/
namespace Sys2Proof.Proofs
set_option Elab.async false
open Sys2Proof.Machine

/-! ### Lanes and their addresses -/

/-- The lanes that count with an address each (R157). -/
def countingAt {α : Type} (f : Issue → Nat → α) (x : Issue) : List (Nat × α) := ((List.range 32).filter (counts x)).map fun l => (l, f x l)

/-- The active helper lanes with an address each (R157). -/
def helpersAt {α : Type} (f : Issue → Nat → α) (x : Issue) : List (Nat × α) :=
  ((List.range 32).filter fun l => inMask x.act l && !counts x l).map fun l => (l, f x l)

theorem maskLanes_helpers {x : Issue} : maskLanes (x.act &&& ~~~(realLanes x.g.g x.d.idx)) =
    (List.range 32).filter fun l => inMask x.act l && !counts x l := by
  refine List.filter_congr fun l hl => ?_
  have hlt := List.mem_range.1 hl
  rw [inMask_and, inMask_not _ hlt, realLanes, Laws.inMask_maskOf _ _ hlt, counts]
  cases inMask x.act l <;> rfl

theorem countingAt_eq_realAddrs (f : Issue → Nat → DWord) : countingAt f = fun x => realAddrs x (f x) := by
  funext x
  rw [countingAt, realAddrs, maskLanes_counting]

theorem helpersAt_eq_helperAddrs (f : Issue → Nat → DWord) : helpersAt f = fun x => helperAddrs x (f x) := by
  funext x
  rw [helpersAt, helperAddrs, maskLanes_helpers]

theorem counting_eq_maskOf (x : Issue) : x.counting = maskOf (counts x) :=
  mask_ext fun _ hl => (inMask_issueCounting hl).trans (Laws.inMask_maskOf _ _ hl).symm

/-! ### Destinations and data in lanes -/

section
variable {x : Issue} {n : Nat}

/-- A result of n lane registers, where the uniform form is not allowed (R27, R28). -/
theorem dest_vec_of_wf (hwf : x.i.wf = true) (hform : byForm x.i.shape.dst = true) (huni : x.i.shape.dst.uniformOk = false) :
    x.dest n = .vec (vStore x.d.sysMode x.i.shape.d.toNat) n := by
  rw [dest_byForm hform, toReg, uniformForm_of_wf hwf huni]
  rfl

theorem dest_uni (h : x.i.shape.dst = .s ∨ x.i.shape.dst = .sPair) : x.dest n = .uni (sStore x.d.sysMode x.i.shape.d.toNat) n := by
  unfold Issue.dest
  rcases h with h | h <;> rw [h]

theorem old_lane_one (h : x.i.ctl.uniformForm = false) (l : Nat) :
    x.old 1 l = (lane (x.d.vAt (vStore x.d.sysMode x.i.shape.d.toNat)) l).setWidth 64 := by
  simp [Issue.old, Issue.uniform, h]

theorem old_lane_two (h : x.i.ctl.uniformForm = false) (l : Nat) : x.old 2 l =
    lane (x.d.vAt (vStore x.d.sysMode (x.i.shape.d.toNat + 1))) l ++ lane (x.d.vAt (vStore x.d.sysMode x.i.shape.d.toNat)) l := by
  simp [Issue.old, Issue.uniform, h]

end

/-! ### What every access does -/

theorem withCtx_eq {x : Issue} {s : State} {cx : Context} (h : s.ctx? x.g.ctx = some cx) (f : Context → Eff) : withCtx x s f = f cx := by
  rw [withCtx, h]

/-- The body of an access: the checks of its lanes, then what they decide (R157). -/
def accessBody (acc : Access) (atomic : Bool) (n : Nat) (real help : Issue → List (Nat × DWord))
    (use : Issue → List LaneAddr → List LaneAddr → State → Eff) (x : Issue) (s : State) : Eff :=
  withCtx x s fun cx => match checkAccess s x.k x.g.ctx cx acc atomic n (real x) (help x) true with
  | .error t => .trap t
  | .ok (l, h, s) => use x l h s

section
variable {i : Instr} {acc : Access} {atomic : Bool} {n : Nat} {real help : Issue → List (Nat × DWord)}
  {use : Issue → List LaneAddr → List LaneAddr → State → Eff} (cx : Context) (l h : List LaneAddr) (s1 : State) (tr : TrapReq)

/-- The checks of an access pass, and leave s1. -/
def AccessPasses (acc : Access) (atomic : Bool) (n : Nat) (real help : Issue → List (Nat × DWord)) (x : Issue) (s : State) : Prop :=
  s.ctx? x.g.ctx = some cx ∧ checkAccess s x.k x.g.ctx cx acc atomic n (real x) (help x) true = .ok (l, h, s1)

/-- The checks of an access answer tr. -/
def AccessFails (acc : Access) (atomic : Bool) (n : Nat) (real help : Issue → List (Nat × DWord)) (x : Issue) (s : State) : Prop :=
  s.ctx? x.g.ctx = some cx ∧ checkAccess s x.k x.g.ctx cx acc atomic n (real x) (help x) true = .error tr

variable {cx l h s1 tr}

theorem accessBody_passes {x : Issue} {s : State} (hp : AccessPasses cx l h s1 acc atomic n real help x s) :
    accessBody acc atomic n real help use x s = use x l h s1 := by
  obtain ⟨hctx, hcheck⟩ := hp
  rw [accessBody, withCtx_eq hctx, hcheck]

theorem accessBody_fails {x : Issue} {s : State} (hf : AccessFails cx tr acc atomic n real help x s) :
    accessBody acc atomic n real help use x s = .trap tr := by
  obtain ⟨hctx, hcheck⟩ := hf
  rw [accessBody, withCtx_eq hctx, hcheck]

variable (hexec : ∀ s, exec i s = issue i s (accessBody acc atomic n real help use)) (hl : i.shape.long = false)
include hexec hl

theorem access_starts {kind : Issue → VarKind} {into : Issue → LandTo} {mask : Issue → Mask}
    (huse : ∀ x, x.i = i → i.wf = true → use x l h s1 = startOp x s1 (kind x) (into x) (mask x)) :
    Completes i (AccessPasses cx l h s1 acc atomic n real help) fun x _ t => Starts (fun x _ => kind x) into mask x s1 t :=
  completes_starting hexec hl (s1 := fun _ _ => s1) (fun x _ hi hwf hp => (accessBody_passes hp).trans (huse x hi hwf))
    fun _ _ hp => Laws.checkAccess_drills hp.2

theorem access_enters {kind : Issue → SqKind} (huse : ∀ x, x.i = i → use x l h s1 = enqueue x s1 (kind x)) :
    Completes i (AccessPasses cx l h s1 acc atomic n real help) fun x _ t => Enqueues (fun x _ => kind x) x s1 t :=
  completes_entering hexec hl (s1 := fun _ _ => s1) (fun x _ hi hp => (accessBody_passes hp).trans (huse x hi))
    fun _ _ hp => Laws.checkAccess_drills hp.2

theorem access_traps : TrapsWhen i (fun x s => s.ctx? x.g.ctx = some cx ∧
    checkAccess s x.k x.g.ctx cx acc atomic n (real x) (help x) true = .error tr ∧ tr.code ≠ 0) fun _ _ => tr :=
  traps_of_check hexec hl (fun _ _ ⟨hctx, hcheck, _⟩ => accessBody_fails ⟨hctx, hcheck⟩) fun _ _ ⟨_, _, hcode⟩ => hcode

theorem access_waits : WalkHeld i (fun x s => s.ctx? x.g.ctx = some cx ∧
    checkAccess s x.k x.g.ctx cx acc atomic n (real x) (help x) true = .error tr ∧ tr.code = 0) :=
  walkHeld_of_check hexec hl (fun _ _ ⟨hctx, hcheck, _⟩ => accessBody_fails ⟨hctx, hcheck⟩) fun _ _ ⟨_, _, hcode⟩ => hcode

end

/-! ### Loads and stores -/

section
variable {d : BitVec 8} {a b : Src} {ofs : BitVec 10} {c : Ctl} {cx : Context} {real help : List LaneAddr} {s1 : State} {tr : TrapReq}

/-- The global address of a lane, M format (R157). -/
abbrev globalAt (a : Src) (ofs : BitVec 10) (n : Nat) (x : Issue) (l : Nat) : DWord := src64 x a l + ofs.signExtend 64 * BitVec.ofNat 64 n

theorem exec_ld (f : LdFn) (s : State) : exec (.ld f d a ofs c) s = issue (.ld f d a ofs c) s
    (accessBody { r := true } false (ldBytes f) (countingAt (globalAt a ofs (ldBytes f))) (helpersAt (globalAt a ofs (ldBytes f)))
      fun x real help s => startOp x s (.load f (real ++ help)) (x.dest (regsOf (ldBytes f))) x.act) := by
  rw [countingAt_eq_realAddrs, helpersAt_eq_helperAddrs]
  rfl

theorem ld_starts (f : LdFn) : Completes (.ld f d a ofs c)
    (AccessPasses cx real help s1 { r := true } false (ldBytes f) (countingAt (globalAt a ofs (ldBytes f))) (helpersAt (globalAt a ofs (ldBytes f))))
    fun x _ t => Starts (fun _ _ => .load f (real ++ help)) (fun x => .vec (vStore x.d.sysMode d.toNat) (regsOf (ldBytes f))) inAct x s1 t := by
  refine access_starts (fun s => exec_ld f s) rfl fun x hi hwf => ?_
  rw [dest_vec_of_wf (hi ▸ hwf) (by rw [hi]; cases f <;> rfl) (by rw [hi]; cases f <;> rfl), hi]
  rfl

/-- The bytes that a lane stores (R161). -/
abbrev laneBytesOf (d : BitVec 8) (n : Nat) (x : Issue) (l : Nat) : List Byte :=
  ((List.range (regsOf n)).flatMap fun r => wordBytes (lane (x.d.vAt (vStore x.d.sysMode (d.toNat + r))) l)).take n

theorem storeData_eq {x : Issue} (h : x.i.shape.d = d) (n l : Nat) : storeData x n l = laneBytesOf d n x l := by
  subst h
  rw [storeData, Issue.data, List.flatMap_map]

theorem exec_st (f : StFn) (s : State) : exec (.st f d a ofs c) s = issue (.st f d a ofs c) s
    (accessBody { w := true } false (stBytes f) (countingAt (globalAt a ofs (stBytes f))) (fun _ => [])
      fun x real _ s => enqueue x s (.store (real.map fun l => (l, storeData x (stBytes f) l.lane)))) := by
  rw [countingAt_eq_realAddrs]
  rfl

theorem st_enters (f : StFn) : Completes (.st f d a ofs c)
    (AccessPasses cx real help s1 { w := true } false (stBytes f) (countingAt (globalAt a ofs (stBytes f))) fun _ => [])
    fun x _ t => Enqueues (fun _ _ => .store (real.map fun l => (l, laneBytesOf d (stBytes f) x l.lane))) x s1 t := by
  refine access_enters (fun s => exec_st f s) rfl (kind := fun x => .store (real.map fun l => (l, laneBytesOf d (stBytes f) x l.lane)))
    fun x hi => ?_
  simp only [storeData_eq (show x.i.shape.d = d by rw [hi]; rfl)]

/-! ### LDU -/

/-- The bytes of an LDU (R162). -/
abbrev lduBytes (f : LduFn) : Nat := if f = .d then 8 else 4

section
variable (f : LduFn) {x : Issue} {s : State}

theorem ldu_starts : Completes (.ldu f d a ofs c) (fun x s => x.acts = true ∧ s.ctx? x.g.ctx = some cx ∧ ∃ l,
      checkAccess s x.k x.g.ctx cx { r := true } false (lduBytes f) [(0, globalAt a ofs (lduBytes f) x 0)] [] false = .ok ([l], help, s1) ∧ real = [l])
    fun x _ t => ∃ l, real = [l] ∧ Starts (fun _ _ => .loadUniform (f = .d) l) (fun x => .uni (sStore x.d.sysMode d.toNat) (lduBytes f / 4))
      (fun _ => 0xFFFFFFFF) x s1 t := by
  by_cases hreal : ∃ l, real = [l]
  · obtain ⟨l, rfl⟩ := hreal
    refine completes_mono (completes_starting (fun _ => rfl) rfl (kind := fun _ => .loadUniform (f = .d) l) (s1 := fun _ _ => s1)
      (fun x s hi _ hpre => ?_) fun x s hpre => ?_) fun x s t hstarts => ⟨l, rfl, hstarts⟩
    · obtain ⟨hacts, hctx, l', hcheck, hl⟩ := hpre
      obtain rfl := List.head_eq_of_cons_eq hl
      rw [withCtx_eq hctx, hacts]
      dsimp only
      rw [if_neg (by simp), show globalAddr x a ofs (lduBytes f) 0 = globalAt a ofs (lduBytes f) x 0 from rfl, hcheck,
        dest_uni (by rw [hi]; cases f; exacts [.inl rfl, .inr rfl]), hi]
      rfl
    · obtain ⟨-, -, l', hcheck, -⟩ := hpre
      exact Laws.checkAccess_drills hcheck
  · rintro s k d g - ⟨-, -, l, -, hl⟩
    exact absurd ⟨l, hl⟩ hreal

theorem ldu_idles : Completes (.ldu f d a ofs c) (fun x s => x.acts = false ∧ s.ctx? x.g.ctx = some cx)
    (Starts (fun _ _ => .idle) (fun _ => .nothing) fun _ => 0) := by
  refine completes_start (fun _ => rfl) rfl fun x s _ _ hpre => ?_
  obtain ⟨hacts, hctx⟩ := hpre
  rw [withCtx_eq hctx, hacts]
  rfl

theorem ldu_traps : TrapsWhen (.ldu f d a ofs c) (fun x s => x.acts = true ∧ s.ctx? x.g.ctx = some cx ∧
    checkAccess s x.k x.g.ctx cx { r := true } false (lduBytes f) [(0, globalAt a ofs (lduBytes f) x 0)] [] false = .error tr ∧ tr.code ≠ 0)
    fun _ _ => tr := by
  refine traps_of_check (fun _ => rfl) rfl (fun x s ⟨hacts, hctx, hcheck, _⟩ => ?_) fun _ _ ⟨_, _, _, hcode⟩ => hcode
  rw [withCtx_eq hctx, hacts]
  dsimp only
  rw [if_neg (by simp), show globalAddr x a ofs (lduBytes f) 0 = globalAt a ofs (lduBytes f) x 0 from rfl, hcheck]

end

/-! ### Atomic operations and reductions -/

/-- The access of an atomic operation. -/
abbrev readWrite : Access := { r := true, w := true }

/-- What an atomic operation becomes (R163). -/
abbrev atomKind (op : AtomOp) (d : BitVec 8) (b : Src) (real : List LaneAddr) (x : Issue) : VarKind :=
  .atom op x.i.ctl.ld.toNat real (lanesOf fun l => if op.bytes = 8 then src64 x b l else (src32 x b l).setWidth 64)
    (lanesOf fun l => if op.bytes = 8 then lane (x.d.vAt (vStore x.d.sysMode (d.toNat + 1))) l ++ lane (x.d.vAt (vStore x.d.sysMode d.toNat)) l
      else (lane (x.d.vAt (vStore x.d.sysMode d.toNat)) l).setWidth 64) false none

/-- What an atomic operation does once its checks have passed. -/
def atomUse (op : AtomOp) (n : Nat) (b : Src) (x : Issue) (real _ : List LaneAddr) (s : State) : Eff :=
  startOp x s (.atom op x.i.ctl.ld.toNat real (if n = 8 then lanesOf fun l => src64 x b l else lanesOf fun l => (src32 x b l).setWidth 64)
    (lanesOf fun l => x.old (n / 4) l) false none) (x.dest (n / 4)) x.counting

theorem atomBody_eq (op : AtomOp) (n : Nat) :
    (fun x s => atomBody x s op n false a b) = accessBody readWrite true n (countingAt fun x => src64 x a) (fun _ => []) (atomUse op n b) := by
  rw [countingAt_eq_realAddrs]
  rfl

/-- The operation of a reduction: no landing slot, no tokens of its own (R165). -/
def redOp (op : AtomOp) (b : Src) (x : Issue) (real : List LaneAddr) (n : Nat) : VarOp :=
  { x.varOp n (.atom op x.i.ctl.ld.toNat real (lanesOf fun l => (src32 x b l).setWidth 64) (splat 0) true none) .nothing 0 with
    slot := 0, tk1 := 0 }

/-- What a reduction does once its checks have passed (R165). -/
def redUse (op : AtomOp) (b : Src) (x : Issue) (real _ : List LaneAddr) (s : State) : Eff :=
  .ok { s := State.modDrill { s with seq := s.seq + 1 } x.k fun d => { d with ops := d.ops ++ [redOp op b x real s.seq] } }

theorem redBody_eq (op : AtomOp) :
    (fun x s => atomBody x s op 4 true a b) = accessBody readWrite true 4 (countingAt fun x => src64 x a) (fun _ => []) (redUse op b) := by
  rw [countingAt_eq_realAddrs]
  rfl

section
variable {i : Instr} {op : AtomOp} {n : Nat} (hl : i.shape.long = false)
include hl

theorem atom_starts (hexec : ∀ s, exec i s = issue i s fun x s => atomBody x s op n false a b) (hn : op.bytes = n) (h48 : n = 4 ∨ n = 8)
    (hdst : byForm i.shape.dst = true ∧ i.shape.dst.uniformOk = false) (hd : i.shape.d = d) :
    Completes i (AccessPasses cx real help s1 readWrite true n (countingAt fun x => src64 x a) fun _ => []) fun x _ t =>
      Starts (fun x _ => atomKind op d b real x) (fun x => .vec (vStore x.d.sysMode d.toNat) (n / 4)) (fun x => maskOf (counts x)) x s1 t := by
  refine access_starts (fun s => (hexec s).trans (congrArg (issue i s) (atomBody_eq op n))) hl fun x hi hwf => ?_
  have hform : x.i.ctl.uniformForm = false := hi ▸ uniformForm_of_wf hwf hdst.2
  subst hd hi hn
  rw [atomUse, dest_vec_of_wf hwf hdst.1 hdst.2, counting_eq_maskOf]
  rcases h48 with h | h
  · simp only [atomKind, h, old_lane_one hform, show (4 : Nat) / 4 = 1 from rfl, show ¬(4 : Nat) = 8 by decide, if_false]
  · simp only [atomKind, h, old_lane_two hform, show (8 : Nat) / 4 = 2 from rfl, if_true]

theorem atom_traps (hexec : ∀ s, exec i s = issue i s fun x s => atomBody x s op n false a b) : TrapsWhen i (fun x s => s.ctx? x.g.ctx = some cx ∧
    checkAccess s x.k x.g.ctx cx readWrite true n (countingAt (fun x => src64 x a) x) [] true = .error tr ∧ tr.code ≠ 0) fun _ _ => tr :=
  access_traps (fun s => (hexec s).trans (congrArg (issue i s) (atomBody_eq op n))) hl

theorem red_traps (hexec : ∀ s, exec i s = issue i s fun x s => atomBody x s op 4 true a b) : TrapsWhen i (fun x s => s.ctx? x.g.ctx = some cx ∧
    checkAccess s x.k x.g.ctx cx readWrite true 4 (countingAt (fun x => src64 x a) x) [] true = .error tr ∧ tr.code ≠ 0) fun _ _ => tr :=
  access_traps (fun s => (hexec s).trans (congrArg (issue i s) (redBody_eq op))) hl

theorem red_starts (hexec : ∀ s, exec i s = issue i s fun x s => atomBody x s op 4 true a b) :
    Completes i (AccessPasses cx real help s1 readWrite true 4 (countingAt fun x => src64 x a) fun _ => []) fun x _ t =>
      ∃ d' o, Issued x t d' (x.d.pc + 8) ∧ Kept x s1 t d' ∧ d'.cm = x.d.cm ∧ d'.maskStack = x.d.maskStack ∧ d'.storeQueue = x.d.storeQueue ∧
        d'.ops = x.d.ops ++ [o] ∧ t.seq = s1.seq + 1 ∧ o.seq = s1.seq ∧
        o.kind = .atom op x.i.ctl.ld.toNat real (lanesOf fun l => (src32 x b l).setWidth 64) (splat 0) true none ∧ o.into = .nothing ∧
        o.slot = 0 ∧ o.tk1 = 0 := by
  refine completes_mono (completes_stamping (fun s => (hexec s).trans (congrArg (issue i s) (redBody_eq op))) hl (s1 := fun _ _ => s1)
    (edit := fun x _ d => { d with ops := d.ops ++ [redOp op b x real s1.seq] }) (attached := false) (fun _ _ _ _ hp => accessBody_passes hp)
    (fun _ _ hp => Laws.checkAccess_drills hp.2) fun _ _ _ => rfl) ?_
  rintro x s t ⟨d', d1, hissued, hkept, hseq, ⟨hcm, hstack, hops, hqueue⟩, hcm', hstack', hops', hqueue'⟩
  exact ⟨d', redOp op b x real s1.seq, hissued, hkept, hcm'.trans hcm, hstack'.trans hstack, hqueue'.trans hqueue,
    hops'.trans (congrArg (· ++ _) hops), hseq, rfl, rfl, rfl, rfl, rfl⟩

end

/-! ### CACHE -/

theorem cacheBody_eq (op : Nat) (acc : Access) : (fun x s => cacheBody x s op acc a) =
    accessBody acc false 1 (countingAt fun x => src64 x a) (fun _ => []) fun x real _ s => enqueue x s (.cache op real) := by
  rw [countingAt_eq_realAddrs]
  rfl

section
variable {i : Instr} {op : Nat} {acc : Access} (hexec : ∀ s, exec i s = issue i s fun x s => cacheBody x s op acc a) (hl : i.shape.long = false)
include hexec hl

theorem cache_enters : Completes i (AccessPasses cx real help s1 acc false 1 (countingAt fun x => src64 x a) fun _ => []) fun x _ t =>
    Enqueues (fun _ _ => .cache op real) x s1 t :=
  access_enters (fun s => (hexec s).trans (congrArg (issue i s) (cacheBody_eq op acc))) hl fun _ _ => rfl

theorem cache_traps : TrapsWhen i (fun x s => s.ctx? x.g.ctx = some cx ∧
    checkAccess s x.k x.g.ctx cx acc false 1 (countingAt (fun x => src64 x a) x) [] true = .error tr ∧ tr.code ≠ 0) fun _ _ => tr :=
  access_traps (fun s => (hexec s).trans (congrArg (issue i s) (cacheBody_eq op acc))) hl

end

end

/-- Settles O35, access by access: what each does once its checks have passed, and that it traps or waits where they do not. -/
theorem globalAccess : Obligations.GlobalAccess := by
  intro d a b ofs c cx real help s1 tr at_ here there direct pass fail held none_ first lanes_ reg bytes atom red rw
  refine ⟨fun f => ⟨ld_starts f, access_traps (fun s => exec_ld f s) rfl, access_waits (fun s => exec_ld f s) rfl⟩,
    fun f => ⟨st_enters f, access_traps (fun s => exec_st f s) rfl, access_waits (fun s => exec_st f s) rfl⟩,
    fun f => ⟨ldu_starts f, ldu_idles f, ldu_traps f⟩, fun f u => ⟨?_, ?_⟩, fun f u => ⟨?_, ?_⟩, fun f => ⟨?_, ?_⟩,
    fun f u => ⟨red_starts rfl fun _ => rfl, red_traps rfl fun _ => rfl⟩, fun f => ⟨red_starts rfl fun _ => rfl, red_traps rfl fun _ => rfl⟩,
    red_starts rfl fun _ => rfl, red_traps rfl fun _ => rfl,
    cache_enters (fun _ => rfl) rfl, cache_enters (fun _ => rfl) rfl, cache_enters (fun _ => rfl) rfl,
    cache_traps (fun _ => rfl) rfl, cache_traps (fun _ => rfl) rfl, cache_traps (fun _ => rfl) rfl⟩
  · exact atom_starts rfl (fun _ => rfl) rfl (.inl rfl) ⟨rfl, rfl⟩ rfl
  · exact atom_traps rfl fun _ => rfl
  · exact atom_starts rfl (fun _ => rfl) rfl (.inr rfl) ⟨rfl, rfl⟩ rfl
  · exact atom_traps rfl fun _ => rfl
  · exact atom_starts rfl (fun _ => rfl) rfl (.inl rfl) ⟨rfl, rfl⟩ rfl
  · exact atom_traps rfl fun _ => rfl

end Sys2Proof.Proofs
end

section
/-!
PROOFS about the checks of one lane's access and about the translation of an address (R157, R242, R341-R345, R353): the checks in their
order, the cached translation that decides, where a walk starts, and what a walk does with one table entry.
-/
namespace Sys2Proof.Proofs
set_option Elab.async false
open Sys2Proof.Machine

/-! ### One lane -/

section
variable {l : Nat}

theorem maskOf_lane (l : Nat) : maskOf (fun i => decide (l = i)) = 1#32 <<< l :=
  mask_ext fun i hi => by
    rw [Laws.inMask_maskOf _ _ hi, inMask, BitVec.getLsbD_shiftLeft, BitVec.getLsbD_one, Bool.eq_iff_iff]
    simp only [decide_eq_true_eq, Bool.and_eq_true, Bool.not_eq_true', decide_eq_false_iff_not]
    omega

theorem lane_ne_zero (hl : l < 32) : (1#32 <<< l) ≠ 0 := by
  intro h
  have hbit := congrArg (inMask · l) h
  simp [inMask, hl] at hbit

theorem maskOf_lane_and (l : Nat) (b : Bool) : maskOf (fun i => decide (l = i) && b) = if b then 1#32 <<< l else 0 := by
  cases b
  · simpa using maskOf_false
  · simpa using maskOf_lane l

theorem laneMask_ne_zero_iff (hl : l < 32) (b : Bool) : (if b then 1#32 <<< l else 0) ≠ 0 ↔ b = true := by
  cases b
  · simp
  · simp only [if_true, iff_true]
    exact lane_ne_zero hl

end

/-! ### The checks of an access of one lane -/

section
variable {s s1 : State} {k ctx n l pa : Nat} {cx : Context} {acc : Access} {atomic per : Bool} {va : DWord} {e : XlateFail}

/-- The trap of a check that the only lane fails. -/
def laneTrap (l : Nat) (va : DWord) (per : Bool) (code : Nat) : TrapReq :=
  { code := code, tval := va, mask := if per then some (1#32 <<< l) else none }

theorem checkAccess_misaligned (hl : l < 32) (ha : va.toNat % n ≠ 0) :
    checkAccess s k ctx cx acc atomic n [(l, va)] [] per = .error (laneTrap l va per 0x0D) := by
  have hmask : lanesWhere [(l, va)] (fun a => a.toNat % n ≠ 0) = 1#32 <<< l := by
    simpa [lanesWhere, ha] using maskOf_lane l
  simp only [checkAccess, hmask]
  rw [if_pos (lane_ne_zero hl)]
  simp [laneTrap, ha]

theorem pageFault_lane (hcause : e.cause ≠ 0) : pageFault [(l, va, e)] acc atomic per =
    { laneTrap l va per 0x10 with faults := [(va, e.cause, e.level, e.pin, accBits acc atomic)] } := by
  simp [pageFault, hcause, maskOf_lane, onePerPage, laneTrap]

theorem lanesWhere_aligned (ha : va.toNat % n = 0) : lanesWhere [(l, va)] (fun a => a.toNat % n ≠ 0) = 0 := by
  simpa [lanesWhere, ha] using maskOf_false

theorem checkAccess_fails (ha : va.toNat % n = 0) (ht : s.translate (drillChip k) cx va acc = .error e) :
    checkAccess s k ctx cx acc atomic n [(l, va)] [] per = .error (pageFault [(l, va, e)] acc atomic per) := by
  simp only [checkAccess, lanesWhere_aligned ha, xlateAll, ht, ne_eq, not_true_eq_false, if_false, reduceCtorEq, not_false_eq_true, if_true]

theorem checkAccess_translated (hl : l < 32) (ha : va.toNat % n = 0) (ht : s.translate (drillChip k) cx va acc = .ok (pa, s1)) :
    checkAccess s k ctx cx acc atomic n [(l, va)] [] per =
      if s.backed pa = false ∨ (acc.w = true ∧ isRom pa = true) then .error (laneTrap l va per 0x12)
      else if s.grantOk ctx pa = false then .error (laneTrap l va per 0x14)
      else if atomic = true ∧ classOf pa = .uncached then .error (laneTrap l va per 0x13)
      else .ok ([{ lane := l, va := va, pa := pa }], [], s1) := by
  simp only [checkAccess, lanesWhere_aligned ha, xlateAll, ht, List.any_cons, List.any_nil, Bool.or_false, maskOf_lane_and l,
    laneMask_ne_zero_iff hl, ne_eq, not_true_eq_false, if_false]
  refine ite_congr (by simp) (fun h12 => ?_) fun h12 => ite_congr (by simp) (fun h14 => ?_) fun _ => ite_congr (by simp) (fun h13 => ?_) fun _ => ?_
  · have hhole : (!s.backed pa || acc.w && isRom pa) = true := by simpa using h12
    simp [hhole, laneTrap]
  · simp [h14, laneTrap]
  · simp [h13, laneTrap]
  · simp [xlateAll]

end

/-! ### Translation -/

section
variable {s : State} {key : Nat} {c : Context} {va : DWord} {acc : Access} {e : TlbEntry}

theorem translate_outside (h : vaInRange va = false) : s.translate key c va acc = .error { cause := 4, level := 4 } := by
  simp [State.translate, h]

theorem translate_forbidden (h : vaInRange va = true) (he : (tblGet s.tlb key []).find? (·.serves c.asid va) = some e)
    (hperms : permsOk e.perms acc = false) : s.translate key c va acc = .error { cause := 2, level := e.level, pin := e.pin } := by
  simp [State.translate, h, he, hperms]

theorem translate_hit (h : vaInRange va = true) (he : (tblGet s.tlb key []).find? (·.serves c.asid va) = some e)
    (hperms : permsOk e.perms acc = true) (hrep : e.rep = false) (ha : e.perms.getLsbD 6 = true) (hd : acc.w = true → e.perms.getLsbD 7 = true) :
    s.translate key c va acc = .ok (e.pa + (va.toNat - e.va), s) := by
  have hdirty : (!acc.w || e.perms.getLsbD 7) = true := by
    cases hw : acc.w
    · rfl
    · simpa using hd hw
  simp only [State.translate, h, he, hperms, repBad, entryPa, hrep, ha, hdirty, Bool.not_true, Bool.false_and, Bool.and_self, Bool.or_true,
    Bool.false_eq_true, if_false, if_true, Nat.add_zero]

theorem walk_fails {from_ : Nat × Nat × Bool} {f : XlateFail} (h : vaInRange va = true) (hwalk : walkFrom s true some va from_.1 from_.2.1 = .error f) :
    s.walk key c va acc from_ = .error f := by
  simp [State.walk, h, hwalk]

theorem translate_walkFails {f : XlateFail} (h : vaInRange va = true) (hmiss : (tblGet s.tlb key []).find? (·.serves c.asid va) = none)
    (hwalk : walkFrom s true some va (s.walkStart key c va).1 (s.walkStart key c va).2.1 = .error f) : s.translate key c va acc = .error f := by
  simp [State.translate, h, hmiss, walk_fails h hwalk]

/-! ### Where a walk starts -/

theorem walkStart_root (h : ∀ w ∈ tblGet s.walks key [], w.serves c.asid va = false) :
    s.walkStart key c va = (4, c.satp.toNat % 2 ^ 44 * 4096, false) := by
  have hnone : (tblGet s.walks key []).filter (·.serves c.asid va) = [] := List.filter_eq_nil_iff.2 fun w hw => by simp [h w hw]
  simp [State.walkStart, hnone, field_low]

theorem walkStart_cases : s.walkStart key c va = (4, c.satp.toNat % 2 ^ 44 * 4096, false) ∨
    ∃ w ∈ tblGet s.walks key [], w.serves c.asid va = true ∧ s.walkStart key c va = (w.level, w.base, w.global) := by
  unfold State.walkStart
  dsimp only
  split
  next w hw =>
    obtain ⟨q, hq, rfl⟩ := Option.map_eq_some_iff.1 hw
    obtain ⟨hmem, hserves⟩ := List.mem_filter.1 (List.fst_mem_of_mem_zipIdx (List.mem_of_find?_eq_some hq))
    exact .inr ⟨_, hmem, hserves, rfl⟩
  next => exact .inl (by rw [field_low])

end

/-! ### One table entry of a walk -/

theorem leafBits_iff (pte : DWord) : (pte.getLsbD 1 || pte.getLsbD 2 || pte.getLsbD 3) = decide (pte.toNat / 2 % 8 ≠ 0) := by
  have h1 : pte.getLsbD 1 = decide (pte.toNat / 2 % 2 = 1) := Nat.testBit_eq_decide_div_mod_eq
  have h2 : pte.getLsbD 2 = decide (pte.toNat / 4 % 2 = 1) := Nat.testBit_eq_decide_div_mod_eq
  have h3 : pte.getLsbD 3 = decide (pte.toNat / 8 % 2 = 1) := Nat.testBit_eq_decide_div_mod_eq
  rw [h1, h2, h3, Bool.eq_iff_iff]
  simp only [Bool.or_eq_true, decide_eq_true_eq]
  omega

section
variable {s : State} {device : Bool} {at_ : Nat → Option Nat} {va : DWord} {level base a : Nat}

/-- What a walk does with a table entry that it has read (R341). -/
def entryRead (s : State) (device : Bool) (at_ : Nat → Option Nat) (va : DWord) (level a : Nat) (pte : DWord) : Except XlateFail (DWord × Nat × Nat) :=
  if pte.getLsbD 0 = false then .error { cause := 1, level := level }
  else if pte.toNat / 2 % 8 ≠ 0 then
    if leafMalformed device pte level then .error { cause := 3, level := level, pin := pte.getLsbD 59 } else .ok (pte, level, a)
  else if field pte 54 10 ≠ 0 ∨ field pte 4 1 ≠ 0 ∨ field pte 6 2 ≠ 0 then .error { cause := 3, level := level }
  else if level = 0 then .error { cause := 3, level := 0 }
  else (walkFrom s device at_ va (level - 1) (pte.toNat / 2 ^ 10 % 2 ^ 44 * 4096)).map fun r => (r.1 ||| (pte &&& 0x20), r.2)

variable (h : at_ (base + 8 * (va.toNat / 2 ^ (12 + 9 * level) % 512)) = some a)
include h

theorem walkFrom_entry : walkFrom s device at_ va level base =
    if s.backed a = false then .error { cause := 6, level := level }
    else if s.gate a = .hold then .error { cause := 0, level := level }
    else if s.poisoned a = true then .error { cause := 6, level := level }
    else entryRead s device at_ va level a (ofBytes 64 (s.bytesAt a 8)) := by
  rw [walkFrom]
  have hat : at_ (base + 8 * field va (12 + 9 * level) 9) = some a := h
  simp only [hat, leafBits_iff]
  by_cases hbacked : s.backed a = false
  · simp [hbacked]
  by_cases hgate : s.gate a = .hold
  · simp [hbacked, hgate]
  by_cases hpoison : s.poisoned a = true
  · simp [hbacked, hgate, hpoison]
  rw [Bool.not_eq_false] at hbacked
  simp only [hbacked, hgate, hpoison, Bool.not_true, Bool.false_eq_true, if_false, reduceCtorEq, Bool.not_eq_true', entryRead]
  generalize (ofBytes 64 (s.bytesAt a 8) : DWord) = pte
  refine ite_congr rfl (fun _ => rfl) fun _ => ite_congr (by rw [decide_eq_true_eq]) (fun _ => rfl) fun _ =>
    ite_congr (by simp only [Bool.or_eq_true, decide_eq_true_eq, or_assoc]) (fun _ => rfl) fun _ => ?_
  cases level <;> rfl

end

/-- Settles O36: one lane's checks in their order, then the cached translation, the start of a walk and one table entry of it. -/
theorem accessChecks : Obligations.AccessChecks := by
  refine ⟨fun s k ctx n l cx acc atomic per va => ⟨fun ha hl => ?_, fun ha e ht hcause => ?_, fun ha e ht hcause => ?_, fun ha hl pa s1 ht => ?_⟩,
    fun s key c va acc => ⟨translate_outside, fun h e he => ⟨translate_forbidden h he, translate_hit h he⟩,
      fun h hmiss e => translate_walkFails h hmiss,
      walkStart_root, fun l base g hstart => ?_, fun at_ level base a hat => ?_⟩⟩
  · exact ⟨_, checkAccess_misaligned hl ha, rfl, rfl, fun hper _ => if_pos hper, fun hper => if_neg (by simp [hper]), fun _ => rfl⟩
  · exact ⟨_, checkAccess_fails ha ht, by simp [pageFault, hcause]⟩
  · rw [checkAccess_fails ha ht, pageFault_lane hcause]
    exact ⟨⟨_, rfl, rfl, rfl, fun hper _ => if_pos hper, fun hper => if_neg (by simp [hper]), fun hcode => absurd rfl hcode⟩, _, rfl, rfl⟩
  · have htrap (code : Nat) : ∃ t, (Except.error (laneTrap l va per code) : Except TrapReq (List LaneAddr × List LaneAddr × State)) = .error t ∧
        t.code = code ∧ t.tval = va ∧ (per = true → l < 32 → t.mask = some (1#32 <<< l)) ∧ (per = false → t.mask = none) ∧
        (code ≠ 0x10 → t.faults = []) :=
      ⟨_, rfl, rfl, rfl, fun hper _ => if_pos hper, fun hper => if_neg (by simp [hper]), fun _ => rfl⟩
    rw [checkAccess_translated hl ha ht]
    refine ⟨fun hlost => ?_, fun hlost hbarred => ?_, fun hlost hbarred hdevice => ?_, fun hlost hbarred hdevice => ?_⟩
    · rw [if_pos hlost]; exact htrap _
    · rw [if_neg hlost, if_pos hbarred]; exact htrap _
    · rw [if_neg hlost, if_neg hbarred, if_pos hdevice]; exact htrap _
    · rw [if_neg hlost, if_neg hbarred, if_neg hdevice]
  · obtain hroot | ⟨w, hmem, hserves, hw⟩ := walkStart_cases (s := s) (key := key) (c := c) (va := va)
    · exact .inl (hstart.symm.trans hroot)
    · exact .inr ⟨w, hmem, hserves, hstart.symm.trans hw⟩
  · rw [walkFrom_entry hat]
    refine ⟨fun hbacked hgate => ?_, fun hread hgo => ?_, fun hread hv => ?_, fun hread hv hbits hbad => ?_, fun hread hv hbits hgood => ?_,
      fun hread hv hbits hres h4 h6 => ?_⟩
    · simp [hbacked, hgate]
    · by_cases hbacked : s.backed a = true
      · have hpoison : s.poisoned a = true := by
          by_contra hclean
          exact hread ⟨hbacked, hgo hbacked, by simpa using hclean⟩
        simp [hbacked, hgo hbacked, hpoison]
      · simp [hbacked]
    all_goals
      obtain ⟨hbacked, hgate, hclean⟩ := hread
      rw [if_neg (by simp [hbacked]), if_neg hgate, if_neg (by simp [hclean]), entryRead]
    · rw [if_pos hv]
    · rw [if_neg (by simp [hv]), if_pos hbits, if_pos hbad]
    · rw [if_neg (by simp [hv]), if_pos hbits, if_neg (by simp [hgood])]
    · rw [if_neg (by simp [hv]), if_neg (by simpa using hbits), if_neg]
      simp only [field, hres, h4, h6, show (2 : Nat) ^ 4 = 16 from rfl, show (2 : Nat) ^ 1 = 2 from rfl, show (2 : Nat) ^ 6 = 64 from rfl,
        show (2 : Nat) ^ 2 = 4 from rfl, Nat.zero_mod, ne_eq, not_true_eq_false, or_self, not_false_eq_true]

end Sys2Proof.Proofs
end

section
/-!
PROOFS about the local store (R156, R157, R160, R161, R166, R178): what the checks of local addresses leave and what they answer for one
lane, and LDS, STS and ATOMS as they issue.
-/
namespace Sys2Proof.Proofs
set_option Elab.async false
open Sys2Proof.Machine

/-! ### The checks of a local access -/

theorem drills_fillStash (s : State) (gid : Nat) (g : Machine.Group) (r l p : Nat) (own : Bool) : (fillStash s gid g r l p own).drills = s.drills := by
  cases own
  · exact drills_shareLine s _ p
  · exact drills_ownLine s _ p

section
variable {s s1 : State} {x : Issue} {cx : Context} {acc : Access} {n : Nat} {addrs : List (Nat × Word)}

/-- The checks of a local access change no drill (R157, R178). -/
theorem checkLocal_drills (h : checkLocal s x cx acc n addrs = .ok s1) : SameDrills s s1 := by
  have hfill (l : List ((Nat × Nat × Nat) × LaneAddr)) (u : State) :
      (l.foldl (fun s p => fillStash s x.d.gid x.g p.1.2.1 p.1.2.2 (p.2.pa / 128) acc.w) u).drills = u.drills := by
    induction l generalizing u with
    | nil => rfl
    | cons p l ih => exact (ih _).trans (drills_fillStash ..)
  unfold checkLocal at h
  dsimp only at h
  split_ifs at h
  split at h
  · cases h
  next hcheck =>
    obtain rfl := Except.ok.inj h
    intro j
    exact (congrArg (tblGet? · j) (hfill _ _)).trans (Laws.checkAccess_drills hcheck j)

end

/-! ### One lane -/

section
variable {s : State} {x : Issue} {cx : Context} {acc : Access} {n l : Nat} {w : Word}

/-- The trap of a local address that fails a check. -/
abbrev localTrap (l : Nat) (w : Word) (code : Nat) : TrapReq := { code := code, mask := some (1#32 <<< l), tval := w.setWidth 64 }

theorem checkLocal_misaligned (hl : l < 32) (h : w.toNat % n ≠ 0) : checkLocal s x cx acc n [(l, w)] = .error (localTrap l w 0x0D) := by
  simp only [checkLocal, List.any_cons, List.any_nil, Bool.or_false, maskOf_lane_and l, laneMask_ne_zero_iff hl]
  rw [if_pos (by simpa using h)]
  simp [h]

theorem checkLocal_bad (hl : l < 32) (h : w.toNat % n = 0) (hbad : localBad s x.g n w = true) :
    checkLocal s x cx acc n [(l, w)] = .error (localTrap l w 0x0E) := by
  simp only [checkLocal, List.any_cons, List.any_nil, Bool.or_false, maskOf_lane_and l, laneMask_ne_zero_iff hl]
  rw [if_neg (by simpa using h), if_pos hbad]
  simp [hbad]

theorem stashAt_nil {g : Machine.Group} (h : g.stash = []) (ofs : Nat) : stashAt g ofs = none := by
  simp [stashAt, h]

theorem checkLocal_plain (h : w.toNat % n = 0) (hin : localBad s x.g n w = false) (hown : w.getLsbD 31 = false) (hstash : x.g.stash = []) :
    checkLocal s x cx acc n [(l, w)] = .ok s := by
  have hbit : w[31] = false := hown
  simp [checkLocal, h, hin, hbit, stashAt_nil hstash, maskOf_false, checkAccess, lanesWhere, xlateAll]

/-- A local address outside what R156 lets a lane name, whatever the croft. -/
abbrev localOut (x : Issue) (n : Nat) (w : Word) : Prop :=
  w.toNat / 2 ^ 19 % 2 ^ 9 ≠ 0 ∨ (w.getLsbD 31 = false ∧ w.toNat / 2 ^ 28 % 8 ≠ 0) ∨ w.toNat % 2 ^ 19 + n > x.g.kcb.ls

theorem localBad_iff : localBad s x.g n w = true ↔ localOut x n w ∨
    (w.getLsbD 31 = true ∧ w.toNat / 2 ^ 28 % 8 ≥ ((tblGet? s.crofts x.g.croft).map (·.members.length)).getD 1) := by
  simp only [localBad, localOut, field_low, Bool.or_eq_true, Bool.and_eq_true, Bool.not_eq_true', decide_eq_true_eq]
  simp only [field, show (2 : Nat) ^ 3 = 8 from rfl]
  tauto

end

/-! ### What every local access does -/

/-- The local address of a lane, M format (R156, R157). -/
abbrev localAt (a : Src) (ofs : BitVec 10) (n : Nat) (x : Issue) (l : Nat) : Word := src32 x a l + ofs.signExtend 32 * BitVec.ofNat 32 n

theorem countingAt_eq_localLanes (f : Issue → Nat → Word) : countingAt f = fun x => localLanes x.counting (f x) := by
  funext x
  rw [countingAt, localLanes, maskLanes_counting]

theorem helpersAt_eq_localLanes (f : Issue → Nat → Word) :
    helpersAt f = fun x => localLanes (x.act &&& ~~~(realLanes x.g.g x.d.idx)) (f x) := by
  funext x
  rw [helpersAt, localLanes, maskLanes_helpers]

/-- The body of a local access: the checks of its lanes, then what they decide (R157). -/
def localBody (acc : Access) (n : Nat) (real : Issue → List (Nat × Word)) (use : Context → Issue → State → Eff) (x : Issue) (s : State) : Eff :=
  withCtx x s fun cx => match checkLocal s x cx acc n (real x) with
  | .error t => .trap t
  | .ok s => use cx x s

/-- The checks of a local access pass, and leave s1. -/
def LocalPasses (cx : Context) (s1 : State) (acc : Access) (n : Nat) (real : Issue → List (Nat × Word)) (x : Issue) (s : State) : Prop :=
  s.ctx? x.g.ctx = some cx ∧ checkLocal s x cx acc n (real x) = .ok s1

section
variable {i : Instr} {acc : Access} {n : Nat} {real : Issue → List (Nat × Word)} {use : Context → Issue → State → Eff} {cx : Context}
  {s1 : State} {tr : TrapReq}

theorem localBody_passes {x : Issue} {s : State} (h : LocalPasses cx s1 acc n real x s) : localBody acc n real use x s = use cx x s1 := by
  obtain ⟨hctx, hcheck⟩ := h
  rw [localBody, withCtx_eq hctx, hcheck]

theorem local_traps (hexec : ∀ s, exec i s = issue i s (localBody acc n real use)) (hl : i.shape.long = false) : TrapsWhen i (fun x s =>
    s.ctx? x.g.ctx = some cx ∧ checkLocal s x cx acc n (real x) = .error tr ∧ tr.code ≠ 0) fun _ _ => tr :=
  traps_of_check hexec hl (fun _ _ ⟨hctx, hcheck, _⟩ => by rw [localBody, withCtx_eq hctx, hcheck]) fun _ _ ⟨_, _, hcode⟩ => hcode

end

/-! ### LDS, STS and ATOMS -/

/-- The helper lanes whose accesses pass, and the stash entries that they fill (R157, R178). -/
def helpersFine (x : Issue) (cx : Context) (n : Nat) (help : List (Nat × Word)) (s : State) : List (Nat × Word) × State :=
  help.foldl (fun p q => match checkLocal p.2 x cx { r := true } n [q] with
    | .ok s => (p.1 ++ [q], s)
    | .error _ => p) ([], s)

theorem helpersFine_drills {x : Issue} {cx : Context} {n : Nat} (help : List (Nat × Word)) {s : State} :
    SameDrills s (helpersFine x cx n help s).2 := by
  refine List.foldlRecOn (motive := fun p : List (Nat × Word) × State => SameDrills s p.2) help _ (fun _ => rfl) fun p hp q _ => ?_
  split
  next hcheck => exact fun j => (checkLocal_drills hcheck j).trans (hp j)
  next => exact hp

section
variable {d : BitVec 8} {a b : Src} {ofs : BitVec 10} {c : Ctl} {cx : Context} {s1 : State}

theorem exec_lds (f : LdFn) (s : State) : exec (.lds f d a ofs c) s = issue (.lds f d a ofs c) s
    (localBody { r := true } (ldBytes f) (countingAt (localAt a ofs (ldBytes f))) fun cx x s =>
      let fine := helpersFine x cx (ldBytes f) (helpersAt (localAt a ofs (ldBytes f)) x) s
      startOp x fine.2 (.loadLocal f ((countingAt (localAt a ofs (ldBytes f)) x ++ fine.1).map localAccess)) (x.dest (regsOf (ldBytes f))) x.act) := by
  rw [countingAt_eq_localLanes, helpersAt_eq_localLanes]
  rfl

theorem lds_starts (f : LdFn) : Completes (.lds f d a ofs c)
    (LocalPasses cx s1 { r := true } (ldBytes f) (countingAt (localAt a ofs (ldBytes f)))) fun x _ t =>
      let fine := helpersFine x cx (ldBytes f) (helpersAt (localAt a ofs (ldBytes f)) x) s1
      Starts (fun x _ => .loadLocal f ((countingAt (localAt a ofs (ldBytes f)) x ++
        (helpersFine x cx (ldBytes f) (helpersAt (localAt a ofs (ldBytes f)) x) s1).1).map localAccess))
        (fun x => .vec (vStore x.d.sysMode d.toNat) (regsOf (ldBytes f))) inAct x fine.2 t := by
  refine completes_starting (fun s => exec_lds f s) rfl
    (s1 := fun x _ => (helpersFine x cx (ldBytes f) (helpersAt (localAt a ofs (ldBytes f)) x) s1).2) (fun x s hi hwf hp => ?_) fun x s hp j => ?_
  · rw [localBody_passes hp, dest_vec_of_wf (hi ▸ hwf) (by rw [hi]; cases f <;> rfl) (by rw [hi]; cases f <;> rfl), hi]
    rfl
  · exact (helpersFine_drills _ j).trans (checkLocal_drills hp.2 j)

theorem exec_sts (f : StFn) (s : State) : exec (.sts f d a ofs c) s = issue (.sts f d a ofs c) s
    (localBody { w := true } (stBytes f) (countingAt (localAt a ofs (stBytes f))) fun _ x s =>
      enqueue x s (.storeLocal ((countingAt (localAt a ofs (stBytes f)) x).map fun q => (localAccess q, storeData x (stBytes f) q.1)))) := by
  rw [countingAt_eq_localLanes]
  rfl

theorem sts_enters (f : StFn) : Completes (.sts f d a ofs c)
    (LocalPasses cx s1 { w := true } (stBytes f) (countingAt (localAt a ofs (stBytes f)))) fun x _ t => Enqueues (fun x _ =>
      .storeLocal ((countingAt (localAt a ofs (stBytes f)) x).map fun q => (localAccess q, laneBytesOf d (stBytes f) x q.1))) x s1 t :=
  completes_entering (fun s => exec_sts f s) rfl (s1 := fun _ _ => s1) (fun x s hi hp => by
    simp only [localBody_passes hp, storeData_eq (show x.i.shape.d = d by rw [hi]; rfl)]) fun _ _ hp => checkLocal_drills hp.2

/-- The entry of the store queue of an ATOMS (R166). -/
abbrev atomsEntry (f : AtomFn) (u : Bool) (d : BitVec 8) (a b : Src) (x : Issue) : SqKind :=
  .atomLocal (.int f u false) x.i.ctl.ld.toNat ((countingAt (fun x => src32 x a) x).map localAccess) (lanesOf fun l => (src32 x b l).setWidth 64)
    (lanesOf fun l => (lane (x.d.vAt (vStore x.d.sysMode d.toNat)) l).setWidth 64)

/-- What an ATOMS leaves in its drill: the entry, and the operation that answers when it has left. -/
def atomsEdit (kind : SqKind) (into : LandTo) (n : Nat) (x : Issue) (d : Drill) : Drill :=
  { d with storeQueue := d.storeQueue ++ [{ seq := n, kind := kind, pc := x.d.pc }]
           ops := d.ops ++ [x.varOp n (.atomLocal x.i.ctl.ld.toNat none) into x.counting] }

theorem exec_atoms (f : AtomFn) (u : Bool) (s : State) : exec (.atoms f u d a b c) s = issue (.atoms f u d a b c) s
    (localBody readWrite 4 (countingAt fun x => src32 x a) fun _ x s =>
      .ok { s := ({ s with seq := s.seq + 1 } : State).modDrill x.k (atomsEdit (.atomLocal (.int f u false) x.i.ctl.ld.toNat
        ((countingAt (fun x => src32 x a) x).map localAccess) (lanesOf fun l => (src32 x b l).setWidth 64) (lanesOf fun l => x.old 1 l))
        (x.dest 1) s.seq x), attached := true }) := by
  rw [countingAt_eq_localLanes]
  rfl

theorem atoms_enters (f : AtomFn) (u : Bool) : Completes (.atoms f u d a b c) (LocalPasses cx s1 readWrite 4 (countingAt fun x => src32 x a))
    fun x _ t => ∃ d' o, Issued x t d' (x.d.pc + 8) ∧ Kept x s1 t d' ∧ d'.cm = x.d.cm ∧ d'.maskStack = x.d.maskStack ∧ t.seq = s1.seq + 1 ∧
      d'.ops = x.d.ops ++ [o] ∧ o.seq = s1.seq ∧ o.kind = .atomLocal x.i.ctl.ld.toNat none ∧ o.into = .vec (vStore x.d.sysMode d.toNat) 1 ∧
      o.mask = maskOf (counts x) ∧ d'.storeQueue = x.d.storeQueue ++ [{ seq := s1.seq, pc := x.d.pc, kind := atomsEntry f u d a b x }] := by
  refine completes_mono (completes_stamping (fun s => exec_atoms f u s) rfl (s1 := fun _ _ => s1) (attached := true)
    (edit := fun x _ => atomsEdit (atomsEntry f u d a b x) (.vec (vStore x.d.sysMode d.toNat) 1) s1.seq x) (fun x s hi hwf hp => ?_)
    (fun _ _ hp => checkLocal_drills hp.2) fun _ _ _ => rfl) ?_
  · have hform : x.i.ctl.uniformForm = false := hi ▸ uniformForm_of_wf hwf rfl
    have hdst : byForm x.i.shape.dst = true := by rw [hi]; rfl
    have huni : x.i.shape.dst.uniformOk = false := by rw [hi]; rfl
    have hd : x.i.shape.d = d := by rw [hi]; rfl
    simp only [localBody_passes hp, dest_vec_of_wf (hi ▸ hwf) hdst huni, old_lane_one hform, hd]
  · rintro x s t ⟨d', d1, hissued, hkept, hseq, ⟨hcm, hstack, hops, hqueue⟩, hcm', hstack', hops', hqueue'⟩
    exact ⟨d', _, hissued, hkept, hcm'.trans hcm, hstack'.trans hstack, hseq, hops'.trans (congrArg (· ++ _) hops), rfl, rfl, rfl,
      counting_eq_maskOf x, hqueue'.trans (congrArg (· ++ _) hqueue)⟩

end

/-- Settles O37: LDS, STS and ATOMS from the state that their checks leave, and the checks of one lane in their order. -/
theorem localAccess : Obligations.LocalAccess := by
  intro d a b ofs c cx s1 tr at_ here direct acc pass fail bytes rw entry fine
  refine ⟨fun f => ⟨lds_starts f, local_traps (exec_lds f) rfl⟩, fun f => ⟨sts_enters f, local_traps (exec_sts f) rfl⟩,
    fun f u => ⟨atoms_enters f u, local_traps (exec_atoms f u) rfl⟩, fun x s ac n l w hl _ => ⟨checkLocal_misaligned hl, fun ha hout => ?_,
      fun ha hin hown hstash => ?_⟩⟩
  · exact checkLocal_bad hl ha (localBad_iff.2 (.inl hout))
  · refine checkLocal_plain ha (Bool.eq_false_iff.2 fun hbad => ?_) hown hstash
    obtain hout | ⟨hcroft, -⟩ := localBad_iff.1 hbad
    · exact hin hout
    · exact absurd (hown.symm.trans hcroft) Bool.false_ne_true

end Sys2Proof.Proofs
end

section
/-!
PROOFS about STASH and CPY as they issue (R171, R178-R183): the words that STASH.MAP takes, what each form enters in the store queue, and
the fields of a copy's descriptor.
-/
namespace Sys2Proof.Proofs
set_option Elab.async false
open Sys2Proof.Machine

/-! ### STASH -/

section
variable {w : Word}

/-- The bits of a stash word that are reserved (R179). -/
theorem stashReserved_eq_zero_iff : w &&& 0x0008007C = 0 ↔ w.toNat / 4 % 32 = 0 ∧ w.getLsbD 19 = false := by
  have hbits : ∀ l < 32, (0x0008007C : Word).getLsbD l = decide ((2 ≤ l ∧ l < 7) ∨ l = 19) := by decide
  have hmask : w &&& 0x0008007C = 0 ↔ ∀ l < 32, (2 ≤ l ∧ l < 7) ∨ l = 19 → w.getLsbD l = false := by
    rw [mask_eq_zero_iff]
    refine forall₂_congr fun l hl => ?_
    rw [inMask_and, inMask, inMask, hbits l hl, Bool.and_eq_false_imp, decide_eq_false_iff_not]
    cases w.getLsbD l <;> simp
  rw [hmask, show w.toNat / 4 % 32 = field w 2 5 from rfl, field_eq_zero_iff]
  constructor
  · exact fun h => ⟨fun l hlo hn => h l (by omega) (by omega), h 19 (by decide) (.inr rfl)⟩
  · rintro ⟨hlow, h19⟩ l hl (⟨hlo, hn⟩ | rfl)
    · exact hlow l hlo hn
    · exact h19

end

section
variable {a b : Src} {c : Ctl}

/-- The first byte and the size of the region that a stash word names (R179). -/
abbrev stashBase (w : Word) : Nat := w.toNat / 128 % 2 ^ 12 * 128
abbrev stashSize (w : Word) : Nat := (w.toNat / 2 ^ 20 + 1) * 128

theorem stashBase_eq (w : Word) : field w 7 12 * 128 = stashBase w := rfl

theorem stashSize_eq (w : Word) : (field w 20 12 + 1) * 128 = stashSize w := by
  have hlt := w.isLt
  rw [field, Nat.mod_eq_of_lt (by omega)]

/-- The operands of STASH.MAP are an unmapped region, a word without reserved bits, and the address of a line (R179). -/
def StashGood (a b : Src) (x : Issue) : Prop :=
  tblGet? x.g.stash ((srcU x b).toNat % 4) = none ∧ (srcU x b).toNat / 4 % 32 = 0 ∧ (srcU x b).getLsbD 19 = false ∧ (srcU64 x a).toNat % 128 = 0

theorem stashGood_iff {x : Issue} : ((tblGet? x.g.stash (field (srcU x b) 0 2)).isSome || srcU x b &&& 0x0008007C ≠ 0 ||
    (srcU64 x a).toNat % 128 ≠ 0) = true ↔ ¬StashGood a b x := by
  simp only [StashGood, ← and_assoc, field_low, Bool.or_eq_true, decide_eq_true_eq, ne_eq, stashReserved_eq_zero_iff, Option.isSome_iff_ne_none,
    show (2 : Nat) ^ 2 = 4 from rfl]
  tauto

/-- The region of a stash word touches a ring or a stash region (R179). -/
def stashTaken (b : Src) (x : Issue) : Bool :=
  inRing x.g (stashBase (srcU x b)) (stashSize (srcU x b)) none || inStash x.g (stashBase (srcU x b)) (stashSize (srcU x b)) none

theorem stashTaken_eq_false_iff {x : Issue} : stashTaken b x = false ↔ inRing x.g (stashBase (srcU x b)) (stashSize (srcU x b)) none = false ∧
    inStash x.g (stashBase (srcU x b)) (stashSize (srcU x b)) none = false := Bool.or_eq_false_iff

/-- STASH.MAP by its checks (R179). -/
theorem exec_stashMap (s : State) : exec (.stashMap a b c) s = issue (.stashMap a b c) s fun x s =>
    if x.acts = false then noEffect s
    else if (tblGet? x.g.stash (field (srcU x b) 0 2)).isSome || srcU x b &&& 0x0008007C ≠ 0 || (srcU64 x a).toNat % 128 ≠ 0 then
      .trap { code := 0x18 }
    else if stashBase (srcU x b) + stashSize (srcU x b) > x.g.kcb.ls then .trap { code := 0x0E }
    else if stashTaken b x then .trap { code := 0x0F }
    else noEffect (s.modGroup x.d.gid fun g =>
      { g with stash := tblSet g.stash ((srcU x b).toNat % 4) { v := srcU64 x a, word := srcU x b, entries := [] } }) := by
  show execStashMap a b c s = _
  unfold execStashMap
  simp only [stashSize_eq, stashBase_eq, Bool.not_eq_true']
  simp only [field_low, stashTaken, show (2 : Nat) ^ 2 = 4 from rfl]
  rfl

theorem field_two (w : Word) : field w 0 2 = w.toNat % 4 := field_low w 2

/-- A stash region that is mapped (R179). -/
def Mapped (a : Src) (x : Issue) : Prop := (tblGet? x.g.stash ((srcU x a).toNat % 4)).isSome = true

section
variable {i : Instr} {op : Nat} (hexec : ∀ s, exec i s = issue i s fun x s => stashBody x s a op) (hl : i.shape.long = false)
include hexec hl

theorem stashOp_idles : Completes i (fun x _ => x.acts = false) (GoesOn after) :=
  completes_idle hexec hl fun x s hacts => by simp [stashBody, hacts]

theorem stashOp_enters : Completes i (fun x _ => x.acts = true ∧ Mapped a x) (Enqueues fun x _ => .stashOp ((srcU x a).toNat % 4) op) :=
  completes_entering hexec hl (s1 := fun _ s => s) (fun x s _ ⟨hacts, hmapped⟩ => by
    rw [Mapped, ← field_two] at hmapped
    rw [stashBody, ← field_two, hacts, Option.isNone_eq_false_iff.2 hmapped]
    rfl) fun _ _ _ _ => rfl

theorem stashOp_traps : TrapsWhen i (fun x _ => x.acts = true ∧ ¬Mapped a x) fun _ _ => { code := 0x18 } :=
  trapsWhen_of_body hexec hl (fun x s ⟨hacts, hmapped⟩ => by
    rw [Mapped, ← field_two, Option.not_isSome_iff_eq_none] at hmapped
    rw [stashBody, hacts, Option.isNone_iff_eq_none.2 hmapped]
    rfl) fun _ _ => by decide

end

/-! ### CPY -/

/-- The check of a copy answers a trap only (R183). -/
theorem copyCheck_code {s : State} {g : Machine.Group} {e : CopyDesc} {w : List Word} {t : TrapReq} (h : copyCheck s g e w = some t) : t.code ≠ 0 := by
  unfold copyCheck at h
  dsimp only at h
  split_ifs at h <;> obtain rfl := Option.some.inj h <;> decide

section
variable {i : Instr} {form : Nat} {out : Bool} {tr : TrapReq} (hexec : ∀ s, exec i s = issue i s fun x s => copyBody x s form a)
  (hl : i.shape.long = false) (hout : cpyOut form = out)
include hexec hl

omit hexec hl in
theorem copyBody_eq {x : Issue} {s : State} : copyBody x s form a =
    if x.acts = false then enqueue x s (.copy { desc := none, drill := x.k, tk0 := x.i.ctl.tk0, tk1 := x.i.ctl.tk1 } (cpyOut form))
    else match copyCheck s x.g (copyDesc form (srcWindow x a)) (srcWindow x a) with
      | some t => .trap t
      | none => enqueue x s (.copy { desc := some (copyDesc form (srcWindow x a)), drill := x.k, tk0 := x.i.ctl.tk0, tk1 := x.i.ctl.tk1 }
          (cpyOut form)) := by
  rw [copyBody]
  cases x.acts <;> rfl

include hout in
theorem copy_enters_null : Completes i (fun x _ => x.acts = false)
    (Enqueues fun x _ => .copy { desc := none, drill := x.k, tk0 := x.i.ctl.tk0, tk1 := x.i.ctl.tk1 } out) :=
  completes_entering hexec hl (s1 := fun _ s => s) (fun x s _ hacts => by rw [copyBody_eq, if_pos hacts, hout]) fun _ _ _ _ => rfl

include hout in
theorem copy_enters : Completes i (fun x s => x.acts = true ∧ copyCheck s x.g (copyDesc form (srcWindow x a)) (srcWindow x a) = none)
    (Enqueues fun x _ => .copy { desc := some (copyDesc form (srcWindow x a)), drill := x.k, tk0 := x.i.ctl.tk0, tk1 := x.i.ctl.tk1 } out) :=
  completes_entering hexec hl (s1 := fun _ s => s) (fun x s _ ⟨hacts, hcheck⟩ => by
    rw [copyBody_eq, if_neg (by simp [hacts]), hcheck, hout]) fun _ _ _ _ => rfl

theorem copy_traps : TrapsWhen i (fun x s => x.acts = true ∧ copyCheck s x.g (copyDesc form (srcWindow x a)) (srcWindow x a) = some tr)
    fun _ _ => tr :=
  traps_of_check hexec hl (fun x s ⟨hacts, hcheck⟩ => by rw [copyBody_eq, if_neg (by simp [hacts]), hcheck])
    fun _ _ ⟨_, hcheck⟩ => copyCheck_code hcheck

end

end

/-- Settles O40: STASH.MAP by its checks in their order, then the forms that enter the store queue. -/
theorem stashAndCopies : Obligations.StashAndCopies := by
  intro a b c tr w region base size good inside apart mapped op cmd copy
  have stashOp (i : Instr) (n : Nat) (hexec : ∀ s, exec i s = issue i s fun x s => stashBody x s a n) (hl : i.shape.long = false) : op i n :=
    ⟨stashOp_idles hexec hl, stashOp_enters hexec hl, stashOp_traps hexec hl⟩
  have copies (i : Instr) (form : Nat) (out : Bool) (hexec : ∀ s, exec i s = issue i s fun x s => copyBody x s form a)
      (hl : i.shape.long = false) (hout : cpyOut form = out) : copy i form out :=
    ⟨copy_enters_null hexec hl hout, copy_enters hexec hl hout, copy_traps hexec hl⟩
  refine ⟨completes_idle exec_stashMap rfl fun x s hacts => if_pos hacts,
    completes_effects exec_stashMap rfl (fun x s ⟨hacts, hgood, hin, hapart⟩ => ?_) fun _ _ _ _ => rfl,
    trapsWhen_of_body exec_stashMap rfl (fun x s ⟨hacts, hgood⟩ => ?_) fun _ _ => by decide,
    trapsWhen_of_body exec_stashMap rfl (fun x s ⟨hacts, hgood, hin⟩ => ?_) fun _ _ => by decide,
    trapsWhen_of_body exec_stashMap rfl (fun x s ⟨hacts, hgood, hin, hapart⟩ => ?_) fun _ _ => by decide,
    stashOp _ 0 (fun _ => rfl) rfl, stashOp _ 1 (fun _ => rfl) rfl, stashOp _ 2 (fun _ => rfl) rfl,
    copies _ 0 false (fun _ => rfl) rfl rfl, copies _ 1 true (fun _ => rfl) rfl rfl, copies _ 2 true (fun _ => rfl) rfl rfl,
    copies _ 3 false (fun _ => rfl) rfl rfl, copies _ 4 false (fun _ => rfl) rfl rfl, copies _ 5 true (fun _ => rfl) rfl rfl,
    fun r _ form _ => ⟨rfl, rfl, rfl, rfl, ?_, rfl, rfl, rfl, fun hform => if_neg hform, rfl⟩⟩
  · have hfits : ¬stashBase (srcU x b) + stashSize (srcU x b) > x.g.kcb.ls := Nat.not_lt.2 hin
    have hfree : stashTaken b x = false := stashTaken_eq_false_iff.2 hapart
    rw [if_neg (by simp [hacts]), if_neg (stashGood_iff.not.2 (not_not.2 hgood)), if_neg hfits, if_neg (by simp [hfree])]
  · rw [if_neg (by simp [hacts]), if_pos (stashGood_iff.2 hgood)]
  · rw [if_neg (by simp [hacts]), if_neg (stashGood_iff.not.2 (not_not.2 hgood)), if_pos (Nat.not_le.1 hin)]
  · have hfits : ¬stashBase (srcU x b) + stashSize (srcU x b) > x.g.kcb.ls := Nat.not_lt.2 hin
    have htaken : stashTaken b x = true := Bool.of_not_eq_false (stashTaken_eq_false_iff.not.2 hapart)
    rw [if_neg (by simp [hacts]), if_neg (stashGood_iff.not.2 (not_not.2 hgood)), if_neg hfits, if_pos htaken]
  · exact congrArg (· + 1) (field_low _ 16)

end Sys2Proof.Proofs
end

section
/-!
PROOFS about memory barrier objects (R153, R283-R285): the forms that enter the store queue and TEST, what a WAIT answers as it comes to
issue, and what INIT and an arrival make of an object.
-/
namespace Sys2Proof.Proofs
set_option Elab.async false
open Sys2Proof.Machine

/-! ### The forms that check and act -/

section
variable {x : Issue} {s s1 : State} {a b : Src} {l : LaneAddr} {cx : Context} {acc : Access} {real help : List LaneAddr}

theorem mbarCheck_passes (hctx : s.ctx? x.g.ctx = some cx)
    (hcheck : checkAccess s x.k x.g.ctx cx acc acc.w 16 [(0, srcU64 x a)] [] false = .ok (l :: real, help, s1)) :
    mbarCheck x s a acc = if classOf l.pa = .cacheable then .ok (l, s1) else .error { code := 0x13, tval := srcU64 x a } := by
  simp only [mbarCheck, hctx, hcheck]

/-- The operand of INIT is a SCOPE and a COUNT (R284). -/
def InitOk (b : Src) (x : Issue) : Prop :=
  (srcU x b).toNat / 2 ^ 27 = 0 ∧ 1 ≤ (srcU x b).toNat / 2 ^ 24 % 8 ∧ (srcU x b).toNat / 2 ^ 24 % 8 ≤ 6 ∧ (srcU x b).toNat % 2 ^ 24 ≠ 0

/-- The operand of ARR is a count of arrivals (R284). -/
def ArrOk (b : Src) (x : Issue) : Prop := 1 ≤ (srcU x b).toNat ∧ (srcU x b).toNat < 2 ^ 24

/-- The checks of the operands of INIT and ARR (R284). -/
def initBad (b : Src) (x : Issue) : Bool :=
  field (srcU x b) 27 5 ≠ 0 || field (srcU x b) 24 3 = 0 || field (srcU x b) 24 3 = 7 || field (srcU x b) 0 24 = 0
def arrBad (b : Src) (x : Issue) : Bool := (srcU x b).toNat = 0 || (srcU x b).toNat ≥ 2 ^ 24

theorem initBad_eq_false_iff : initBad b x = false ↔ InitOk b x := by
  have hlt := (srcU x b).isLt
  simp only [initBad, InitOk, Bool.or_eq_false_iff, decide_eq_false_iff_not, ne_eq, not_not, and_assoc]
  simp only [field]
  omega

theorem arrBad_eq_false_iff : arrBad b x = false ↔ ArrOk b x := by
  simp only [arrBad, ArrOk, Bool.or_eq_false_iff, decide_eq_false_iff_not]
  omega

end

section
variable {i : Instr} {a : Src} {bad : Issue → Bool} {kind : Issue → LaneAddr → SqKind} {l : LaneAddr} {s1 : State} {tr : TrapReq}
  (hexec : ∀ s, exec i s = issue i s fun x s => mbarQueue x s a (bad x) (kind x)) (hl : i.shape.long = false)
include hexec hl

theorem mbar_enters {ok : Issue → Prop} (hok : ∀ x, bad x = false ↔ ok x) :
    Completes i (fun x s => mbarCheck x s a readWrite = .ok (l, s1) ∧ ok x) fun x _ t => Enqueues (fun x _ => kind x l) x s1 t :=
  completes_entering hexec hl (s1 := fun _ _ => s1) (fun x s _ ⟨hcheck, hgood⟩ => by
    rw [mbarQueue, hcheck, (hok x).2 hgood]
    rfl) fun _ _ hp => Laws.mbarCheck_drills hp.1

theorem mbar_enters_always (hgood : ∀ x, bad x = false) :
    Completes i (fun x s => mbarCheck x s a readWrite = .ok (l, s1)) fun x _ t => Enqueues (fun x _ => kind x l) x s1 t :=
  completes_entering hexec hl (s1 := fun _ _ => s1) (fun x s _ hcheck => by
    rw [mbarQueue, hcheck, hgood x]
    rfl) fun _ _ hcheck => Laws.mbarCheck_drills hcheck

theorem mbar_traps_desc {ok : Issue → Prop} (hok : ∀ x, bad x = false ↔ ok x) :
    TrapsWhen i (fun x s => mbarCheck x s a readWrite = .ok (l, s1) ∧ ¬ok x) fun _ _ => { code := 0x26 } :=
  trapsWhen_of_body hexec hl (fun x s ⟨hcheck, hbad⟩ => by
    rw [mbarQueue, hcheck, Bool.of_not_eq_false ((hok x).not.2 hbad)]
    rfl) fun _ _ => by decide

theorem mbar_traps : TrapsWhen i (fun x s => mbarCheck x s a readWrite = .error tr ∧ tr.code ≠ 0) fun _ _ => tr :=
  traps_of_check hexec hl (fun _ _ hp => by rw [mbarQueue, hp.1]) fun _ _ hp => hp.2

theorem mbar_waits : WalkHeld i fun x s => mbarCheck x s a readWrite = .error tr ∧ tr.code = 0 :=
  walkHeld_of_check hexec hl (fun _ _ hp => by rw [mbarQueue, hp.1]) fun _ _ hp => hp.2

end

section
variable {d : BitVec 8} {a b : Src} {c : Ctl} {l : LaneAddr} {s1 : State} {tr : TrapReq}

theorem exec_mbarInit (s : State) : exec (.mbarInit a b c) s =
    issue (.mbarInit a b c) s fun x s => mbarQueue x s a (initBad b x) fun l => .mbarInit l (srcU x b) := rfl
theorem exec_mbarArr (s : State) : exec (.mbarArr a b c) s =
    issue (.mbarArr a b c) s fun x s => mbarQueue x s a (arrBad b x) fun l => .mbarArr l (srcU x b).toNat := rfl
theorem exec_mbarInv (s : State) : exec (.mbarInv a c) s = issue (.mbarInv a c) s fun x s => mbarQueue x s a false .mbarInv := rfl

/-- MBAR.TEST by its checks (R284). -/
def testBody (a b : Src) (x : Issue) (s : State) : Eff :=
  match mbarCheck x s a { r := true } with
  | .error t => .trap t
  | .ok (l, s) => startOp x s (.mbarTest l (srcU x b)) (x.dest 1) 0xFFFFFFFF

theorem exec_mbarTest (s : State) : exec (.mbarTest d a b c) s = issue (.mbarTest d a b c) s (testBody a b) := rfl

theorem mbarTest_starts : Completes (.mbarTest d a b c) (fun x s => mbarCheck x s a { r := true } = .ok (l, s1)) fun x _ t =>
    Starts (fun x _ => .mbarTest l (srcU x b)) (toPred d) (fun _ => 0xFFFFFFFF) x s1 t :=
  completes_starting exec_mbarTest rfl (s1 := fun _ _ => s1) (fun x s hi _ hcheck => by
    rw [testBody, hcheck, dest_k (by rw [hi]; rfl), hi]
    rfl) fun _ _ hcheck => Laws.mbarCheck_drills hcheck

/-! ### WAIT -/

/-- What a WAIT records of its object (R285). -/
def recordOf (b : Src) (x : Issue) (l : LaneAddr) (s : State) : MbarWait :=
  { pa := l.pa, gen := (s.mbarAt l.pa).gen, p := srcU x b, va := l.va, scope := (s.mbarAt l.pa).scope }

/-- A drill whose WAIT watches an object. -/
def watching (m : MbarWait) (d : Drill) : Drill := { d with mbar := some m }

/-- MBAR.WAIT where its object stands: it evaluates the object for the first time (R285). -/
def firstLook (b : Src) (x : Issue) (l : LaneAddr) (s : State) : Eff :=
  if !x.d.clearFor s.seq || s.gateAt (drillChip x.k) false l.pa = .hold then .wait s
  else if s.poisoned l.pa then .trap { code := 0x15, tval := l.va }
  else if !(s.mbarAt l.pa).valid then .trap { code := 0x27, sub := 2 }
  else if (s.mbarAt l.pa).done (srcU x b) then mbarComplete x s (s.mbarAt l.pa).scope
  else .wait (s.modDrill x.k (watching (recordOf b x l s)))

/-- MBAR.WAIT: what it has found, or else its first look at the object (R285). -/
def waitBody (a b : Src) (x : Issue) (s : State) : Eff :=
  match x.d.mbar with
  | some m => match m.found with
    | some 0 => mbarComplete x s m.scope
    | some n => .trap { code := 0x27, sub := n }
    | none => .wait s
  | none => match mbarCheck x s a { r := true } with
    | .error t => .trap t
    | .ok (l, s) => firstLook b x l s

theorem exec_mbarWait (s : State) : exec (.mbarWait a b c) s = issue (.mbarWait a b c) s (waitBody a b) := rfl

/-- The acquire of a WAIT that completes (R153, R285). -/
def acquireAt (n : Nat) (x : Issue) (s : State) : State := if 3 ≤ n then s.invalL1 (drillCore x.k) else s

theorem acquireAt_drills (n : Nat) (x : Issue) (s : State) : SameDrills s (acquireAt n x s) := by
  intro j
  unfold acquireAt
  split <;> rfl

/-- The checks pass, the reads before are done, and the object may be read (R192, R285). -/
def MayLook (a : Src) (l : LaneAddr) (s1 : State) (x : Issue) (s : State) : Prop :=
  x.d.mbar = none ∧ mbarCheck x s a { r := true } = .ok (l, s1) ∧ x.d.clearFor s1.seq = true ∧ s1.gateAt (drillChip x.k) false l.pa ≠ .hold

variable {x : Issue} {s : State}

theorem waitBody_found {m : MbarWait} (h : x.d.mbar = some m) : waitBody a b x s = match m.found with
    | some 0 => mbarComplete x s m.scope
    | some n => .trap { code := 0x27, sub := n }
    | none => .wait s := by
  rw [waitBody, h]

theorem waitBody_fails (hnone : x.d.mbar = none) (hcheck : mbarCheck x s a { r := true } = .error tr) : waitBody a b x s = .trap tr := by
  rw [waitBody, hnone, hcheck]

theorem waitBody_looks (h : MayLook a l s1 x s) : waitBody a b x s =
    if s1.poisoned l.pa = true then .trap { code := 0x15, tval := l.va }
    else if (s1.mbarAt l.pa).valid = false then .trap { code := 0x27, sub := 2 }
    else if (s1.mbarAt l.pa).done (srcU x b) = true then noEffect (acquireAt (s1.mbarAt l.pa).scope x s1)
    else .wait (s1.modDrill x.k (watching (recordOf b x l s1))) := by
  obtain ⟨hnone, hcheck, hclear, hgate⟩ := h
  simp only [waitBody, hnone, hcheck, firstLook]
  rw [if_neg (by simp [hclear, hgate])]
  simp only [Bool.not_eq_true']
  rfl

/-- A WAIT that finds its phase done at its first look (R285). -/
def FindsDone (a b : Src) (x : Issue) (s : State) : Prop := ∃ l s1, x.d.mbar = none ∧ mbarCheck x s a { r := true } = .ok (l, s1) ∧
  x.d.clearFor s1.seq = true ∧ s1.gateAt (drillChip x.k) false l.pa ≠ .hold ∧ s1.poisoned l.pa = false ∧ (s1.mbarAt l.pa).valid = true ∧
  (s1.mbarAt l.pa).done (srcU x b) = true

theorem waitBody_done (h : FindsDone a b x s) : ∃ u, waitBody a b x s = noEffect u ∧ SameDrills s u ∧
    ∃ l s1, mbarCheck x s a { r := true } = .ok (l, s1) ∧ u = acquireAt (s1.mbarAt l.pa).scope x s1 := by
  obtain ⟨l, s1, hnone, hcheck, hclear, hgate, hclean, hvalid, hdone⟩ := h
  refine ⟨acquireAt (s1.mbarAt l.pa).scope x s1, ?_, fun j => (acquireAt_drills _ x s1 j).trans (Laws.mbarCheck_drills hcheck j), l, s1, hcheck, rfl⟩
  rw [waitBody_looks ⟨hnone, hcheck, hclear, hgate⟩, if_neg (by simp [hclean]), if_neg (by simp [hvalid]), if_pos hdone]

/-- What a WAIT leaves that goes on: the acquire at its object's scope (R153, R285). -/
theorem mbarWait_done : CompletesLong (.mbarWait a b c) (FindsDone a b) fun x s t =>
    ∃ d' l s1, mbarCheck x s a { r := true } = .ok (l, s1) ∧ Issued x t d' (x.d.pc + 8) ∧
      Kept x (acquireAt (s1.mbarAt l.pa).scope x s1) t d' ∧ Plain x d' := by
  intro s k d g F hmet hcomes hsees
  obtain ⟨t, hgo, u, ⟨l, s1, hcheck, rfl⟩, d', hissued, hkept, hplain⟩ :=
    completesLong_of_body (exec_mbarWait (a := a) (b := b) (c := c)) rfl rfl (fun _ _ => waitBody_done) s k d g F hmet hcomes hsees
  exact ⟨t, hgo, d', l, s1, hcheck, hissued, hkept, hplain⟩

theorem mbarWait_found : CompletesLong (.mbarWait a b c) (fun x _ => ∃ m, x.d.mbar = some m ∧ m.found = some 0) fun x s t =>
    ∃ d' m, x.d.mbar = some m ∧ Issued x t d' (x.d.pc + 8) ∧ Kept x (acquireAt m.scope x s) t d' ∧ Plain x d' := by
  intro s k d g F hmet hcomes hsees
  obtain ⟨t, hgo, u, ⟨m, hm, rfl⟩, d', hissued, hkept, hplain⟩ := completesLong_of_body (exec_mbarWait (a := a) (b := b) (c := c)) rfl rfl
    (P := fun x s u => ∃ m, x.d.mbar = some m ∧ u = acquireAt m.scope x s) (pre := fun x _ => ∃ m, x.d.mbar = some m ∧ m.found = some 0)
    (fun x s ⟨m, hm, hfound⟩ => ⟨_, by rw [waitBody_found hm, hfound]; rfl, acquireAt_drills m.scope x s, m, hm, rfl⟩) s k d g F hmet hcomes hsees
  exact ⟨t, hgo, d', m, hm, hissued, hkept, hplain⟩

/-- A WAIT whose phase is not done records its object and waits (R285). -/
theorem mbarWait_records {k : Nat} {d : Drill} {g : Machine.Group} (F : Fires (.mbarWait a b c) s k d g) (hmet : d.metWait = false)
    (hlook : MayLook a l s1 (comes (.mbarWait a b c) k d g) (s.armed (comes (.mbarWait a b c) k d g))) (hclean : s1.poisoned l.pa = false)
    (hvalid : (s1.mbarAt l.pa).valid = true) (hdone : (s1.mbarAt l.pa).done (srcU (comes (.mbarWait a b c) k d g) b) = false) :
    Happens (.mbarWait a b c) s fun t => ∃ d', t.drill? k = some d' ∧ d'.pc = d.pc ∧ d'.longWait = some (.mbarWait a b c) ∧
      d'.mbar = some (recordOf b (comes (.mbarWait a b c) k d g) l s1) := by
  have hbody := waitBody_looks (b := b) hlook
  rw [if_neg (by simp [hclean]), if_neg (by simp [hvalid]), if_neg (by simp [hdone])] at hbody
  have harmed : (s.armed (comes (.mbarWait a b c) k d g)).drill? k = some { d with needLand := none } := drill_modDrill_self F.1.2.1 _
  have hdrill := drill_modDrill_self ((Laws.mbarCheck_drills hlook.2.1 k).trans harmed) (watching (recordOf b (comes (.mbarWait a b c) k d g) l s1))
  obtain ⟨hwait, hpc, -, -, -, -, -, -, hmbar⟩ := unmet_still (.mbarWait a b c)
    (watching (recordOf b (comes (.mbarWait a b c) k d g) l s1) { d with needLand := none })
  exact ⟨_, exec_waits exec_mbarWait rfl rfl F hmet hbody, _, drill_longUnmet hdrill, hpc, hwait, hmbar⟩

end

/-! ### What an object becomes -/

section
variable {o : MbarObj}

theorem mbarValid_iff : o.valid = true ↔ field o.w3 24 8 = 0xB7 ∧ field o.w0 24 8 = 0 ∧ field o.w1 27 5 = 0 ∧ field o.w3 0 16 = 0 ∧
    1 ≤ o.scope ∧ o.scope ≤ 6 ∧ o.count ≠ 0 ∧ 1 ≤ o.pend ∧ o.pend ≤ o.count := by
  simp only [MbarObj.valid, Bool.and_eq_true, decide_eq_true_eq, and_assoc]

theorem mbarDone_iff (hvalid : o.valid = true) (p : Word) : o.done p = true ↔ 1 ≤ (o.phase - p).toNat ∧ (o.phase - p).toNat < 2 ^ 31 := by
  have hne : o.phase ≠ p ↔ 1 ≤ (o.phase - p).toNat := by
    generalize o.phase = q
    constructor <;> intro h <;> bv_omega
  simp only [MbarObj.done, hvalid, Bool.true_and, Bool.and_eq_true, decide_eq_true_eq, hne]

theorem pend_lt : o.pend < 2 ^ 24 := Nat.mod_lt _ (by decide)
theorem count_lt : o.count < 2 ^ 24 := Nat.mod_lt _ (by decide)

/-- A number below 2^24 as a word: its low field, and nothing above it. -/
theorem field_ofNat_low {n : Nat} (h : n < 2 ^ 24) : field (BitVec.ofNat 32 n) 0 24 = n ∧ field (BitVec.ofNat 32 n) 24 8 = 0 := by
  simp only [field, BitVec.toNat_ofNat]
  omega

/-- A valid object stays valid with another count of pending arrivals, and its other fields are as they were (R285). -/
theorem setPend_valid (hvalid : o.valid = true) {n : Nat} (hn : 1 ≤ n) (hle : n ≤ o.count) (p : Word) :
    let q : MbarObj := { o with w0 := BitVec.ofNat 32 n, phase := p }
    q.valid = true ∧ q.pend = n ∧ q.count = o.count ∧ q.gen = o.gen ∧ q.scope = o.scope := by
  obtain ⟨htag, -, hres1, hres3, hscope1, hscope6, hcount, -, -⟩ := mbarValid_iff.1 hvalid
  obtain ⟨hpend, hhigh⟩ := field_ofNat_low (Nat.lt_of_le_of_lt hle count_lt)
  refine ⟨mbarValid_iff.2 ⟨htag, hhigh, hres1, hres3, hscope1, hscope6, hcount, ?_, ?_⟩, hpend, rfl, rfl, rfl⟩
  · show 1 ≤ field (BitVec.ofNat 32 n) 0 24
    exact hpend.symm ▸ hn
  · show field (BitVec.ofNat 32 n) 0 24 ≤ o.count
    exact hpend.symm ▸ hle

theorem init_pend (w : Word) : (o.init w).pend = w.toNat % 2 ^ 24 ∧ field (o.init w).w0 24 8 = 0 := by
  have hand : (w &&& 0xFFFFFF).toNat = w.toNat % 2 ^ 24 := (BitVec.toNat_and w 0xFFFFFF).trans (Nat.and_two_pow_sub_one_eq_mod _ 24)
  simp only [MbarObj.pend, MbarObj.init, field, hand]
  omega

theorem init_gen (w : Word) : (o.init w).gen = (if o.valid then (o.gen + 1) % 256 else 0) ∧ field (o.init w).w3 24 8 = 0xB7 ∧
    field (o.init w).w3 0 16 = 0 := by
  have hlt : (if o.valid then (o.gen + 1) % 256 else 0) < 256 := by
    split
    · exact Nat.mod_lt _ (by decide)
    · decide
  simp only [MbarObj.gen, MbarObj.init] at hlt ⊢
  generalize (if o.valid = true then (field o.w3 16 8 + 1) % 256 else 0) = n at hlt ⊢
  simp only [field, BitVec.toNat_ofNat]
  omega

theorem init_valid {w : Word} (h1 : 1 ≤ w.toNat / 2 ^ 24) (h6 : w.toNat / 2 ^ 24 ≤ 6) (hn : w.toNat % 2 ^ 24 ≠ 0) : (o.init w).valid = true ∧
    (o.init w).pend = w.toNat % 2 ^ 24 ∧ (o.init w).count = w.toNat % 2 ^ 24 ∧ (o.init w).scope = w.toNat / 2 ^ 24 := by
  obtain ⟨hpend, hhigh⟩ := init_pend (o := o) w
  obtain ⟨-, htag, hres3⟩ := init_gen (o := o) w
  have hcount : (o.init w).count = w.toNat % 2 ^ 24 := field_low w 24
  have hscope : (o.init w).scope = w.toNat / 2 ^ 24 := by
    show w.toNat / 2 ^ 24 % 2 ^ 3 = _
    omega
  have hres1 : field (o.init w).w1 27 5 = 0 := by
    show w.toNat / 2 ^ 27 % 2 ^ 5 = 0
    omega
  refine ⟨mbarValid_iff.2 ⟨htag, hhigh, hres1, hres3, ?_, ?_, ?_, ?_, ?_⟩, hpend, hcount, hscope⟩ <;> omega

theorem arrive_some {n : Nat} (hvalid : o.valid = true) (h1 : 1 ≤ n) (h : n < o.pend) : ∃ q, o.arrive n = .ok q ∧ q.valid = true ∧
    q.pend = o.pend - n ∧ q.phase = o.phase ∧ q.count = o.count ∧ q.gen = o.gen ∧ q.scope = o.scope := by
  obtain ⟨-, -, -, -, -, -, -, -, hle⟩ := mbarValid_iff.1 hvalid
  obtain ⟨hq, hpend, hcount, hgen, hscope⟩ := setPend_valid hvalid (n := o.pend - n) (by omega) (by omega) o.phase
  refine ⟨{ o with w0 := BitVec.ofNat 32 (o.pend - n) }, ?_, hq, hpend, rfl, hcount, hgen, hscope⟩
  rw [MbarObj.arrive, if_neg (by simp [hvalid]), if_neg (Nat.not_lt.2 h.le), if_neg h.ne']

theorem arrive_last (hvalid : o.valid = true) : ∃ q, o.arrive o.pend = .ok q ∧ q.valid = true ∧ q.pend = o.count ∧ q.phase = o.phase + 1 ∧
    q.count = o.count ∧ q.gen = o.gen ∧ q.scope = o.scope ∧ q.done o.phase = true := by
  obtain ⟨-, -, -, -, -, -, hcount0, -, -⟩ := mbarValid_iff.1 hvalid
  obtain ⟨hq, hpend, hcount, hgen, hscope⟩ := setPend_valid hvalid (Nat.one_le_iff_ne_zero.2 hcount0) le_rfl (o.phase + 1)
  refine ⟨{ o with w0 := BitVec.ofNat 32 o.count, phase := o.phase + 1 }, ?_, hq, hpend, rfl, hcount, hgen, hscope, (mbarDone_iff hq _).2 ?_⟩
  · rw [MbarObj.arrive, if_neg (by simp [hvalid]), if_neg (Nat.lt_irrefl _), if_pos rfl]
  · have hphase : (o.phase + 1 - o.phase).toNat = 1 := by
      generalize o.phase = q
      bv_omega
    simp only [hphase]
    decide

end

/-- Settles O44: the forms that enter the store queue, TEST and WAIT by what they check, then what INIT and an arrival make of an object. -/
theorem memoryBarriers : Obligations.MemoryBarriers := by
  refine ⟨?_, fun o w p n => ⟨fun h1 h6 hn => ?_, fun hvalid => ?_, fun hvalid hlt => ?_, fun hvalid => arrive_some hvalid, ?_,
    fun hvalid => mbarDone_iff hvalid p⟩⟩
  · intro d a b c l s1 tr passes fails held rw w initOk arrOk o there open_ acquire
    refine ⟨mbar_enters exec_mbarInit rfl fun _ => initBad_eq_false_iff, mbar_enters exec_mbarArr rfl fun _ => arrBad_eq_false_iff,
      mbar_enters_always (bad := fun _ => false) exec_mbarInv rfl fun _ => rfl, mbarTest_starts,
      mbar_traps_desc exec_mbarInit rfl fun _ => initBad_eq_false_iff, mbar_traps_desc exec_mbarArr rfl fun _ => arrBad_eq_false_iff,
      ⟨mbar_traps exec_mbarInit rfl, mbar_traps exec_mbarArr rfl, mbar_traps (bad := fun _ => false) exec_mbarInv rfl,
        traps_of_check exec_mbarTest rfl (fun _ _ hp => by rw [testBody, hp.1]) fun _ _ hp => hp.2⟩,
      ⟨mbar_waits exec_mbarInit rfl, mbar_waits exec_mbarArr rfl, mbar_waits (bad := fun _ => false) exec_mbarInv rfl,
        walkHeld_of_check exec_mbarTest rfl (fun _ _ hp => by rw [testBody, hp.1]) fun _ _ hp => hp.2⟩,
      fun x s cx acc real help => mbarCheck_passes, mbarWait_done, mbarWait_found,
      waits_of_body exec_mbarWait rfl rfl fun x s ⟨m, hm, hfound⟩ => by rw [waitBody_found hm, hfound],
      trapsLong_of_body exec_mbarWait rfl rfl (fun x s ⟨⟨hlook, hclean⟩, hvalid⟩ => ?_) fun _ _ _ => by decide,
      trapsLong_of_body exec_mbarWait rfl rfl (fun x s ⟨hlook, hpoison⟩ => ?_) fun _ _ _ => (by decide : (0x15 : Nat) ≠ 0),
      trapsLong_of_body exec_mbarWait rfl rfl (fun x s ⟨hnone, hcheck, _⟩ => waitBody_fails hnone hcheck) fun _ _ hp => hp.2.2,
      fun n hn => trapsLong_of_body exec_mbarWait rfl rfl (fun x s ⟨m, hm, hfound⟩ => ?_) fun _ _ _ => (by decide : (0x27 : Nat) ≠ 0),
      fun s k d g F hmet ⟨hlook, hclean⟩ hvalid hdone => mbarWait_records F hmet hlook hclean hvalid hdone⟩
    · rw [waitBody_looks hlook, if_neg (by simp [hclean]), if_pos hvalid]
    · rw [waitBody_looks hlook, if_pos hpoison]
    · obtain ⟨j, rfl⟩ := Nat.exists_eq_succ_of_ne_zero hn
      rw [waitBody_found hm, hfound]
      rfl
  · obtain ⟨hvalid, hpend, hcount, hscope⟩ := init_valid (o := o) h1 h6 hn
    exact ⟨hvalid, hpend, hcount, hscope, rfl, (init_gen w).1⟩
  · rw [MbarObj.arrive, hvalid]; rfl
  · rw [MbarObj.arrive, if_neg (by simp [hvalid]), if_pos hlt]
  · rintro hvalid rfl
    exact arrive_last hvalid

end Sys2Proof.Proofs
end

section
/-!
PROOFS about SYS (R69, R74, R187, R303-R306): what stands of a drill when an instruction has issued and every landing has come, the traps that
follow a completion, and the returns.
-/
namespace Sys2Proof.Proofs
set_option Elab.async false
open Sys2Proof.Machine

/-! ### What every landing leaves -/

/-- A view of a drill that no landing with P changes. -/
structure LandKeeps {α : Type} (f : Drill → α) (P : Landing → Prop) : Prop where
  count : ∀ (d : Drill) (n : Nat) (l : List Landing), f { d with n := n, landings := l } = f d
  land : ∀ {s : State} {k : Nat} {d : Drill} {y : Landing}, s.drill? k = some d → P y → ∃ e, (s.landOne k y).drill? k = some e ∧ f e = f d

section
variable {α : Type} {f : Drill → α} {P : Landing → Prop} (hkeeps : LandKeeps f P)
include hkeeps

theorem lands_view {k : Nat} (l : List Landing) (hP : ∀ y ∈ l, P y) : ∀ {s : State} {d : Drill}, s.drill? k = some d →
    ∃ e, (l.foldl (fun s y => s.landOne k y) s).drill? k = some e ∧ f e = f d := by
  induction l with
  | nil => exact fun {s d} hd => ⟨d, hd, rfl⟩
  | cons y l ih =>
    intro s d hd
    obtain ⟨e, he, hfe⟩ := hkeeps.land hd (hP y (List.mem_cons_self ..))
    obtain ⟨e', he', hfe'⟩ := ih (fun z hz => hP z (List.mem_cons_of_mem _ hz)) he
    exact ⟨e', he', hfe'.trans hfe⟩

theorem advance_view {s : State} {k : Nat} {d : Drill} (hd : s.drill? k = some d) (hP : ∀ y ∈ d.landings, P y) :
    ∃ e, (s.advance k).drill? k = some e ∧ f e = f d ∧ ∀ y ∈ e.landings, P y := by
  obtain ⟨e, hwaited, -, hleft⟩ := waited_advance hd
  have hdue : ∀ y ∈ (d.landings.filter fun y => decide (y.due ≤ d.n + 1)).filter isFlagWrite ++
      (d.landings.filter fun y => decide (y.due ≤ d.n + 1)).filter (fun y => !isFlagWrite y), P y := by
    intro y hy
    rcases List.mem_append.1 hy with h | h <;> exact hP y (List.mem_of_mem_filter (List.mem_of_mem_filter h))
  obtain ⟨e', he', hf⟩ := lands_view hkeeps _ hdue (drill_setDrill_self s k
    { d with n := d.n + 1, landings := d.landings.filter fun y => decide (d.n + 1 < y.due) })
  have hadvance : (s.advance k).drill? k = some e' := by
    rw [State.advance, hd]
    exact he'
  obtain rfl := Option.some.inj (hwaited.drill.symm.trans hadvance)
  exact ⟨e, hadvance, hf.trans (hkeeps.count ..), fun y hy => hP y (List.mem_of_mem_filter (hleft ▸ hy))⟩

/-- A view of a drill that none of its landings changes is as it was when all have come (R74). -/
theorem landAll_view {s : State} {k : Nat} {d : Drill} (hd : s.drill? k = some d) (hP : ∀ y ∈ d.landings, P y) :
    ∃ e, (s.landAll k).drill? k = some e ∧ f e = f d := by
  have hrange (l : List Nat) : ∀ {s : State} {d : Drill}, s.drill? k = some d → (∀ y ∈ d.landings, P y) →
      ∃ e, (l.foldl (fun s _ => s.advance k) s).drill? k = some e ∧ f e = f d := by
    induction l with
    | nil => exact fun {s d} hd _ => ⟨d, hd, rfl⟩
    | cons n l ih =>
      intro s d hd hP
      obtain ⟨e, he, hfe, hPe⟩ := advance_view hkeeps hd hP
      obtain ⟨e', he', hfe'⟩ := ih he hPe
      exact ⟨e', he', hfe'.trans hfe⟩
  exact hrange _ hd hP

end

/-- The record of the last trap changes by writes of system registers only (R301). -/
theorem landKeeps_return : LandKeeps (fun d => (d.xi, d.epc)) fun y => writesSys y = false where
  count _ _ _ := rfl
  land {s k d y} hd hy := by
    obtain ⟨e, he⟩ := Laws.Effect_landOne hd y
    obtain ⟨-, hsys⟩ := he.system (by simpa using hy)
    simp only [Prod.mk.injEq] at hsys ⊢
    obtain ⟨hxi, hepc, -⟩ := hsys
    exact ⟨e, he.after, hxi, hepc⟩

/-- The completion of an instruction writes no register (R77). -/
theorem landKeeps_registers : LandKeeps (fun d => (d.v, d.s, d.k)) fun y => y.into = .nothing where
  count _ _ _ := rfl
  land {s k d y} hd hy := by
    obtain ⟨e, he, hinner⟩ := drill_landOne hd (y := y) (by simp [writesSys, hy])
    have hreg : (if y.noReg then d else d.landReg y) = d := by simp [Drill.landReg, hy]
    have hv : e.v = d.v := (congrArg Drill.v hinner :).trans ((v_afterLanding d y).trans (by rw [hreg]))
    have hs : e.s = d.s := (congrArg Drill.s hinner :).trans ((s_afterLanding d y).trans (by rw [hreg]))
    have hk : e.k = d.k := (congrArg Drill.k hinner :).trans ((k_afterLanding d y).trans (by rw [hreg]))
    exact ⟨e, he, by rw [hv, hs, hk]⟩

/-! ### An instruction that has issued -/

/-- A drill as an instruction without landings of its own leaves it at issue. -/
def issuedAs (i : Instr) (jump : Option DWord) (d : Drill) : Drill := d.issued i.ctl (ownLanding i false) jump

section
variable {i : Instr} {jump : Option DWord} {d : Drill}

/-- What an issue leaves that a return reads (R69, R74). -/
theorem issuedAs_still : (issuedAs i jump d).pc = jump.getD (d.pc + 8) ∧ (issuedAs i jump d).n = d.n ∧ (issuedAs i jump d).cm = d.cm ∧
    (issuedAs i jump d).maskStack = d.maskStack ∧ ((issuedAs i jump d).v, (issuedAs i jump d).s, (issuedAs i jump d).k) = (d.v, d.s, d.k) ∧
    ((issuedAs i jump d).xi, (issuedAs i jump d).epc) = (d.xi, d.epc) ∧ (issuedAs i jump d).landUser = d.landUser ∧
    (issuedAs i jump d).landUi = d.landUi ∧ ((issuedAs i jump d).ops, (issuedAs i jump d).storeQueue) = (d.ops, d.storeQueue) := by
  obtain ⟨hpc, -, -, hbase, ⟨hcm, hstack, hops, hqueue⟩, -⟩ := Laws.issued_spec d i.ctl (ownLanding i false) jump
  have hview {β : Type} (f : Drill → β) (hf : ∀ e : Drill, f { Laws.base e with pc := 0, swathPc := 0, idxInSwath := 0, swath := 0, landings := [] } =
      f e) : f (issuedAs i jump d) = f d := (hf _).symm.trans ((congrArg f hbase).trans (hf d))
  exact ⟨hpc, hview Drill.n fun _ => rfl, hcm, hstack, hview (fun e => (e.v, e.s, e.k)) fun _ => rfl, hview (fun e => (e.xi, e.epc)) fun _ => rfl,
    hview Drill.landUser fun _ => rfl, hview Drill.landUi fun _ => rfl, by simp only [issuedAs, hops, hqueue]⟩

/-- The landings of a drill, and its instruction's own completion, which writes nothing. -/
theorem mem_issuedAs_landings {y : Landing} (h : y ∈ (issuedAs i jump d).landings) : y ∈ d.landings ∨ y.into = .nothing := by
  obtain ⟨-, -, hlandings, -⟩ := Laws.issued_spec d i.ctl (ownLanding i false) jump
  rw [issuedAs, hlandings] at h
  refine (List.mem_append.1 h).imp id fun hown => ?_
  obtain ⟨p, hp, rfl⟩ := List.mem_map.1 hown
  exact (Laws.mem_ownLanding hp).2.1

end

/-- An instruction without landings of its own, as it issues: then what follows it (R69, R74). -/
theorem finish_after (s : State) (k : Nat) (i : Instr) (u : State) (jump : Option DWord) (f : State → State) :
    s.finish k i { s := u, jump := jump, after := f } = f ((s.modDrill k (issuedAs i jump)).advance k) := rfl

theorem rest_modDrill (s : State) (k : Nat) (f : Drill → Drill) : rest (s.modDrill k f) = rest s := rfl

section
variable {i : Instr} {s : State} {k : Nat} {d : Drill} {g : Machine.Group} (F : Fires i s k d g)
include F

/-- Where an instruction has completed and a trap follows at once (R303, R304). -/
theorem completed_issuedAs : ∃ d1, Completed (sees i k d g) (actsIn i s k d g) ((actsIn i s k d g).modDrill k (issuedAs i none)) d1 := by
  obtain ⟨nl, hd⟩ := Laws.actsIn_drill (i := i) g F.1.2.1
  generalize actsIn i s k d g = u at hd ⊢
  obtain ⟨hpc, hn, hcm, hstack, hregs, -, -, -, hqueues⟩ := issuedAs_still (i := i) (jump := none) (d := { d with needLand := nl })
  obtain ⟨-, hswath, -⟩ := Laws.issued_spec { d with needLand := nl } i.ctl (ownLanding i false) none
  simp only [Prod.mk.injEq] at hregs hqueues
  obtain ⟨hv, hs, hk⟩ := hregs
  obtain ⟨hops, hqueue⟩ := hqueues
  refine ⟨issuedAs i none { d with needLand := nl }, ?_, ?_, ?_, ?_, ?_, rfl, fun j hj => ?_, fun _ => rfl, fun _ => rfl⟩
  · rw [Laws.sees_k]; exact drill_modDrill_self hd _
  · rw [Laws.sees_d]; exact hpc
  · rw [Laws.sees_d]; exact hn
  · rw [Laws.sees_i, Laws.sees_d]
    by_cases he : i.ctl.e = true
    · rw [if_pos he] at hswath ⊢
      exact ⟨hswath.2.1, hswath.2.2⟩
    · rw [if_neg he] at hswath ⊢
      exact ⟨hswath.2.1, hswath.2.2⟩
  · rw [Laws.sees_d, hv, hs, hk, hcm, hstack, hops, hqueue]
  · rw [Laws.sees_k] at hj
    exact (Laws.drill_modDrill _ _ _ j).trans (if_neg (Ne.symm hj))

/-- WHERE EVERY LANDING HAS COME after an instruction has issued (R69, R74): what a return reads and leaves. -/
theorem settled_issuedAs (jump : Option DWord) : ∃ e,
    ((((actsIn i s k d g).modDrill k (issuedAs i jump)).advance k).landAll k).drill? k = some e ∧
    rest ((((actsIn i s k d g).modDrill k (issuedAs i jump)).advance k).landAll k) = rest (actsIn i s k d g) ∧
    e.pc = jump.getD (d.pc + 8) ∧ e.cm = d.cm ∧ e.maskStack = d.maskStack ∧ e.landUser = d.landUser ∧ e.landUi = d.landUi ∧
    ((∀ y ∈ d.landings, writesSys y = false) → (e.xi, e.epc) = (d.xi, d.epc)) ∧
    (d.landings = [] → (e.v, e.s, e.k) = (d.v, d.s, d.k)) := by
  obtain ⟨nl, hd⟩ := Laws.actsIn_drill (i := i) g F.1.2.1
  generalize actsIn i s k d g = u at hd ⊢
  obtain ⟨hpc, -, hcm, hstack, hregs, hreturn, huser, hui, -⟩ := issuedAs_still (i := i) (jump := jump) (d := { d with needLand := nl })
  have hlands (y : Landing) (hy : y ∈ (issuedAs i jump { d with needLand := nl }).landings) : y ∈ d.landings ∨ y.into = .nothing :=
    mem_issuedAs_landings (d := { d with needLand := nl }) hy
  have hissued : (u.modDrill k (issuedAs i jump)).drill? k = some (issuedAs i jump { d with needLand := nl }) := drill_modDrill_self hd _
  generalize issuedAs i jump { d with needLand := nl } = d1 at *
  obtain ⟨e1, hfirst, -⟩ := waited_advance hissued
  obtain ⟨e, hall⟩ := waited_landAll hfirst.drill
  obtain ⟨he, hstill, -, hbeyond, -⟩ := hfirst.trans hall
  have hview {α : Type} {f : Drill → α} {P : Landing → Prop} (hkeeps : LandKeeps f P) (hP : ∀ y ∈ d1.landings, P y) : f e = f d1 := by
    obtain ⟨e2, he2, hf2, hP2⟩ := advance_view hkeeps hissued hP
    obtain ⟨e3, he3, hf3⟩ := landAll_view hkeeps he2 hP2
    obtain rfl := Option.some.inj (he.symm.trans he3)
    exact hf3.trans hf2
  refine ⟨e, he, (Laws.rest_of_beyond hbeyond).trans rfl, (congrArg Drill.pc hstill :).trans hpc, (congrArg Drill.cm hstill :).trans hcm,
    (congrArg Drill.maskStack hstill :).trans hstack, (congrArg Drill.landUser hstill :).trans huser, (congrArg Drill.landUi hstill :).trans hui,
    fun hsys => ?_, fun hnone => ?_⟩
  · refine (hview landKeeps_return fun y hy => ?_).trans hreturn
    rcases hlands y hy with hold | hnothing
    · exact hsys y hold
    · simp [writesSys, hnothing]
  · refine (hview landKeeps_registers fun y hy => ?_).trans hregs
    rcases hlands y hy with hold | hnothing
    · rw [hnone] at hold
      cases hold
    · exact hnothing

end

/-! ### TRET -/

theorem drill_restored (s : State) (gid j : Nat) : (s.restored gid).drill? j = s.drill? j := by
  unfold State.restored
  split
  · rfl
  · split <;> rfl

theorem rest_restored (s : State) (gid : Nat) : rest (s.restored gid) = rest s := by
  unfold State.restored
  split
  · rfl
  · split <;> rfl

/-- A drill as it leaves its routine (R136, R305). -/
def leaving (d : Drill) : Drill := { d with sysMode := false, routine := 0, needLand := d.landUser, landUser := none }

/-- What follows TRET once it has issued (R305). -/
def tretAfter (k gid : Nat) (s : State) : State := (((s.landAll k).modDrill k leaving).resume k).restored gid

/-- The records of the replay state can be injected (R90). -/
def CanReplay (x : Issue) : Prop := xiV x.d.xi = true → ∀ p ∈ x.d.xp, xpOk { x.d with sysMode := false } x.g p.2 = true

section
variable {c : Ctl} {s : State} {k : Nat} {d : Drill} {g : Machine.Group}

/-- TRET (R305). -/
def tretBody (x : Issue) (s : State) : Eff :=
  if xiV x.d.xi && !(x.d.xp.all fun p => xpOk { x.d with sysMode := false } x.g p.2) then .trap { code := 0x2A }
  else .ok { s := s, after := tretAfter x.k x.d.gid }

theorem tretBody_ok {x : Issue} (h : CanReplay x) : tretBody x s = .ok { s := s, after := tretAfter x.k x.d.gid } := by
  refine if_neg fun hbad => ?_
  obtain ⟨hv, hall⟩ := Bool.and_eq_true_iff.1 hbad
  exact absurd (List.all_eq_true.2 (h hv)) (by simpa using hall)

theorem exec_tret (F : Fires (.sysTret c) s k d g) (h : CanReplay (sees (.sysTret c) k d g)) : exec (.sysTret c) s =
    .next (tretAfter k d.gid (((actsIn (.sysTret c) s k d g).modDrill k (issuedAs (.sysTret c) none)).advance k)) := by
  have hbody := tretBody_ok (s := actsIn (.sysTret c) s k d g) h
  rw [Laws.sees_k, Laws.sees_d] at hbody
  exact (Laws.issue_ok F rfl hbody).trans (congrArg Host.Outcome.next (finish_after ..))

/-- A drill that has left its routine, whatever it resumes (R89). -/
theorem resume_spec (hd : s.drill? k = some d) : ∃ e, (s.resume k).drill? k = some e ∧
    e.sysMode = d.sysMode ∧ e.routine = d.routine ∧ e.st = .ready ∧ e.cm = d.cm ∧ e.maskStack = d.maskStack ∧ e.needLand = d.needLand ∧
    (e.v, e.s, e.k) = (d.v, d.s, d.k) ∧ rest (s.resume k) = rest s ∧
    e.pc = (if xiV d.xi then xiPc d.xi + BitVec.ofNat 64 (8 * xiIdx d.xi) else d.epc) ∧ e.idxInSwath = if xiV d.xi then xiIdx d.xi else 0 := by
  cases hv : xiV d.xi with
  | true => exact ⟨_, resume_swath hd hv, rfl, rfl, rfl, rfl, rfl, rfl, rfl, rfl, rfl, rfl⟩
  | false => exact ⟨_, resume_epc hd hv, rfl, rfl, rfl, rfl, rfl, rfl, rfl, rfl, rfl, rfl⟩

theorem tret_returns : Completes (.sysTret c) (fun x _ => (∀ y ∈ x.d.landings, writesSys y = false) ∧ CanReplay x) fun x s t =>
    ∃ d', t.drill? x.k = some d' ∧ d'.sysMode = false ∧ d'.routine = 0 ∧ d'.st = .ready ∧ d'.cm = x.d.cm ∧ d'.maskStack = x.d.maskStack ∧
      d'.needLand = x.d.landUser ∧ (x.d.landings = [] → d'.v = x.d.v ∧ d'.s = x.d.s ∧ d'.k = x.d.k) ∧ rest t = rest s ∧
      d'.pc = (if xiV x.d.xi then xiPc x.d.xi + BitVec.ofNat 64 (8 * xiIdx x.d.xi) else x.d.epc) ∧
      d'.idxInSwath = (if xiV x.d.xi then xiIdx x.d.xi else 0) := by
  rintro s k d g F ⟨hsys, hreplay⟩
  rw [Laws.sees_d] at hsys
  obtain ⟨e, he, hrest, -, hcm, hstack, huser, -, hreturn, hregs⟩ := settled_issuedAs F none
  have hxi := hreturn hsys
  simp only [Prod.mk.injEq] at hxi
  obtain ⟨hxi, hepc⟩ := hxi
  obtain ⟨e', he', hmode, hroutine, hst, hcm', hstack', hneed, hregs', hrest', hpc, hidx⟩ := resume_spec (drill_modDrill_self he leaving)
  refine ⟨_, exec_tret F hreplay, e', ?_, hmode, hroutine, hst, ?_⟩
  · rw [Laws.sees_k]; exact (drill_restored ..).trans he'
  · rw [Laws.sees_d]
    refine ⟨hcm'.trans hcm, hstack'.trans hstack, hneed.trans huser, fun hnone => ?_,
      (rest_restored ..).trans (hrest'.trans ((rest_modDrill ..).trans hrest)), ?_, ?_⟩
    · have hall := hregs'.trans (hregs hnone)
      simpa only [Prod.mk.injEq] using hall
    · rw [hpc, show (leaving e).xi = d.xi from hxi, show (leaving e).epc = d.epc from hepc]
    · rw [hidx, show (leaving e).xi = d.xi from hxi]

end

/-! ### UIRET -/

/-- A drill as UIRET leaves it: its banks exchanged, its mask popped (R187). -/
def uiReturned (top : Mask) (rest : List Mask) (d : Drill) : Drill :=
  { d.swapBanks with maskStack := rest, cm := top, uiAct := false, needLand := d.landUi, landUi := none }

section
variable {c : Ctl} {s : State} {k : Nat} {d : Drill} {g : Machine.Group}

/-- What UIRET leaves of a drill, and the registers that it exchanges (R186, R187). -/
theorem uiReturned_still (top : Mask) (rest : List Mask) (d : Drill) : (uiReturned top rest d).pc = d.pc ∧ (uiReturned top rest d).v = d.v ∧
    (uiReturned top rest d).k = d.k ∧ ∀ r, (uiReturned top rest d).sAt r =
      if r < 8 then d.sAt (64 + r) else if 64 ≤ r ∧ r < 72 then d.sAt (r - 64) else d.sAt r := by
  have hbare := bankless_swapBanks d
  have hsAt := sAt_swapBanks d
  unfold uiReturned
  generalize d.swapBanks = e at hbare hsAt ⊢
  exact ⟨(congrArg Drill.pc hbare :), (congrArg Drill.v hbare :), (congrArg Drill.k hbare :), hsAt⟩

/-- What follows UIRET once it has issued (R187). -/
def uiretAfter (k : Nat) (top : Mask) (rest : List Mask) (s : State) : State := (s.landAll k).modDrill k (uiReturned top rest)

/-- UIRET (R187). -/
def uiretBody (x : Issue) (s : State) : Eff :=
  if !x.d.uiAct then .trap { code := 0x1B }
  else match x.d.maskStack with
  | [] => .trap { code := 0x09 }
  | top :: rest => .ok { s := s, jump := some x.d.uiepc, after := uiretAfter x.k top rest }

theorem exec_uiret (s : State) : exec (.sysUiret c) s = issue (.sysUiret c) s uiretBody := rfl

theorem uiret_returns : Completes (.sysUiret c) (fun x _ => x.d.uiAct = true ∧ x.d.maskStack ≠ []) fun x s t =>
    ∃ d', t.drill? x.k = some d' ∧ d'.pc = x.d.uiepc ∧ d'.uiAct = false ∧ some d'.cm = x.d.maskStack.head? ∧
      d'.maskStack = x.d.maskStack.tail ∧ d'.needLand = x.d.landUi ∧ rest t = rest s ∧
      (x.d.landings = [] → (∀ j < 8, d'.sAt j = x.d.sAt (64 + j) ∧ d'.sAt (64 + j) = x.d.sAt j) ∧
        (∀ r, 8 ≤ r → (r < 64 ∨ 72 ≤ r) → d'.sAt r = x.d.sAt r) ∧ d'.v = x.d.v ∧ d'.k = x.d.k) := by
  rintro s k d g F ⟨hact, hmask⟩
  rw [Laws.sees_d] at hact hmask
  obtain ⟨top, rest', hstack⟩ := List.exists_cons_of_ne_nil hmask
  have hbody : uiretBody (sees (.sysUiret c) k d g) (actsIn (.sysUiret c) s k d g) =
      .ok { s := actsIn (.sysUiret c) s k d g, jump := some d.uiepc, after := uiretAfter k top rest' } := by
    rw [uiretBody, Laws.sees_d, Laws.sees_k, hact, hstack]
    rfl
  obtain ⟨e, he, hrest, hpc, -, -, -, hui, -, hregs⟩ := settled_issuedAs F (some d.uiepc)
  obtain ⟨hpc', hv', hk', hsAt⟩ := uiReturned_still top rest' e
  refine ⟨_, (Laws.issue_ok F rfl hbody).trans (congrArg Host.Outcome.next (finish_after ..)), uiReturned top rest' e, ?_, ?_⟩
  · rw [Laws.sees_k]; exact drill_modDrill_self he _
  · rw [Laws.sees_d, hstack]
    refine ⟨hpc'.trans hpc, rfl, rfl, rfl, hui, (rest_modDrill ..).trans hrest, fun hnone => ?_⟩
    have hall := hregs hnone
    simp only [Prod.mk.injEq] at hall
    obtain ⟨hv, hs, hk⟩ := hall
    have hregs' (r : Nat) : e.sAt r = d.sAt r := by rw [Drill.sAt, Drill.sAt, hs]
    simp only [hregs'] at hsAt
    refine ⟨fun j hj => ⟨?_, ?_⟩, fun r hlo hhi => ?_, hv'.trans hv, hk'.trans hk⟩
    · rw [hsAt, if_pos hj]
    · rw [hsAt, if_neg (by omega), if_pos (by omega), Nat.add_sub_cancel_left]
    · rw [hsAt, if_neg (by omega), if_neg (by omega)]

end

/-! ### WAITI -/

theorem waitiDone_iff {s : State} {d : Drill} {w : DWord} : waitiDone s d w = true ↔
    d.uiEn = false ∨ d.uiPend > 0 ∨ (w ≠ 0 ∧ w.toNat ≤ s.gtime.toNat) := by
  simp only [waitiDone, Bool.or_eq_true, Bool.and_eq_true, Bool.not_eq_true', decide_eq_true_eq, or_assoc, BitVec.le_def]

/-- The traps that follow a completed instruction (R303, R304). -/
theorem completes_raising {i : Instr} {call : Issue → TrapReq} (hl : i.shape.long = false) (hexec : ∀ s, exec i s = issue i s fun x s =>
    .ok { s := s, hold := true, after := fun s => s.raise x.k (call x) }) :
    Completes i Always fun x s t => ∃ s1 d1, t = s1.raise x.k (call x) ∧ Completed x s s1 d1 := by
  intro s k d g F _
  obtain ⟨d1, hcompleted⟩ := completed_issuedAs F
  refine ⟨_, (hexec s).trans (Laws.issue_ok F hl rfl), _, d1, ?_, hcompleted⟩
  rfl

/-- Settles O30: the calls by what an issue leaves, the returns by what every landing leaves. -/
theorem systemCalls : Obligations.SystemCalls := by
  intro a n c
  refine ⟨completes_raising rfl fun _ => rfl, completes_raising rfl fun _ => rfl, tret_returns, uiret_returns,
    trapsWhen_of_body exec_uiret rfl (fun x s hact => by rw [uiretBody, hact]; rfl) fun _ _ => by decide,
    trapsWhen_of_body exec_uiret rfl (fun x s ⟨hact, hmask⟩ => by rw [uiretBody, hact, hmask]; rfl) fun _ _ => by decide, ?_⟩
  intro s k d g F hmet hcomes hsees
  obtain ⟨t, hgo, u, rfl, d', hissued⟩ := completesLong_of_body (i := .sysWaiti a c)
    (body := fun x s => if waitiDone s x.d (srcU64 x a) then noEffect s else .wait s) (fun _ => rfl) rfl rfl (P := fun _ s u => u = s)
    (fun x s hdone => ⟨s, if_pos (waitiDone_iff.2 hdone), fun _ => rfl, rfl⟩) s k d g F hmet hcomes hsees
  exact ⟨t, hgo, d', hissued⟩

end Sys2Proof.Proofs
end

section
/-!
PROOFS about RING.CFG (R174): a machine in which a copy into a ring that is not configured is queued, which the statement of the rings says
that RING.CFG traps on, and the model does not ask about.
-/
namespace Sys2Proof.Proofs
set_option Elab.async false
open Sys2Proof.Machine

/-- A group without a ring. -/
def ringless : Machine.Group :=
  { ctx := 0, launch := 0, croft := 0, rank := 0, x := 0, y := 0, z := 0, g := 32, die := 0, core := 0, pos := [0], lsBase := 0, saveSlot := 0, gsave := 0
    kcb := { coop := false, restart := false, succ := false, plot := false, logR := 0, logC := 0, croft := 1, codes := 31, taskDie := 0, v := 1, s := 1,
             t := 0, ls := 128, entryA := 0, entryB := 0, seedline := 0, opCount := 0, translated := 0, reeve := 0, coulter := 0 } }

/-- A copy into ring 0. -/
def copyIntoRing : CopyCmd := { desc := some (copyDesc 0 [0, 0, 0, 0, 0, 0x08000000, 0, 0]), drill := 0, tk0 := 0, tk1 := 0 }

/-- A drill that holds the copy in its store queue. -/
def copying : Drill :=
  { gid := 0, idx := 0, slot := 0, st := .issuing, cm := 1, storeQueue := [{ seq := 0, kind := .copy copyIntoRing false, pc := 0 }] }

/-- The machine of that drill, which moves. -/
def strayCopy : State := { cur := some (.drill 0), drills := [(0, copying)], groups := [(0, ringless)] }

/-- RING.CFG with a word of 0: it removes ring 0. -/
abbrev removeRing : Instr := .ringCfg .zero .zero {}

/-- Where an outcome leaves drill 0. -/
def pcAfter : Host.Outcome State Fault Refusal → Option DWord
  | .next t => (t.drill? 0).map (·.pc)
  | _ => none

theorem removeRing_fires : Fires removeRing strayCopy 0 copying ringless :=
  ⟨⟨rfl, rfl, rfl⟩, by decide +kernel, ⟨.inl rfl, fun _ => by decide, fun h => absurd h (by decide)⟩, fun h => absurd rfl h.1⟩

/-- The model goes on, and the trap that the statement asks for leaves the drill where it stands. -/
theorem removeRing_goes : pcAfter (exec removeRing strayCopy) = some 8 := by decide +kernel
theorem removeRing_raised :
    pcAfter (.next ((actsIn removeRing strayCopy 0 copying ringless).raise 0
      { code := 0x17, tkd := removeRing.ctl.tk0 ≠ 0 && !removeRing.shape.command })) =
      some 0 := by decide +kernel

/-- The copy that is queued goes into ring 0 (R174). -/
theorem strayCopy_copies : (actsIn removeRing strayCopy 0 copying ringless).ringCopies 0 ringless 0 = true := by decide +kernel

/-- Refutes O39: RING.CFG of ring 0, which is not configured, in a group that has a copy into ring 0 queued: the statement asks for RING_STATE,
and the model, which asks about copies only where the ring is configured, goes on. -/
theorem not_rings : ¬ Obligations.Rings := by
  intro h
  obtain ⟨-, -, -, -, -, hused, -⟩ := h 0 .zero .zero {} { word := 0, base := 0, slots := [] }
  have hcopies : ¬((∀ q, tblGet? ringless.rings 0 = some q → ∀ y ∈ q.slots, y = .free) ∧
      (actsIn removeRing strayCopy 0 copying ringless).ringCopies 0 ringless 0 = false) := fun hunused =>
    Bool.false_ne_true (hunused.2.symm.trans strayCopy_copies)
  have hraise := hused strayCopy 0 copying ringless removeRing_fires ⟨rfl, ⟨by decide, by decide, by decide⟩, .inl rfl, .inl rfl, hcopies⟩
  have hpc := removeRing_goes.symm.trans ((congrArg pcAfter hraise).trans removeRing_raised)
  exact absurd hpc (by decide)

end Sys2Proof.Proofs
end

section
/-!
PROOFS about what the copy engines' accesses leave of the groups (R178, R184, R343, R354): their stash entries apart, as they were.
-/
namespace Sys2Proof.Proofs
set_option Elab.async false
open Sys2Proof.Machine

/-- A group without its stash. -/
def stashless (g : Machine.Group) : Machine.Group := { g with stash := [] }

/-- The groups of t are those of s but for stash entries. -/
def SameStations (s t : State) : Prop := ∀ n, (t.group? n).map stashless = (s.group? n).map stashless

theorem SameStations.refl (s : State) : SameStations s s := fun _ => rfl

theorem SameStations.trans {s t u : State} (h : SameStations s t) (g : SameStations t u) : SameStations s u := fun n => (g n).trans (h n)

theorem SameStations.of_groups {s t : State} (h : t.groups = s.groups) : SameStations s t := fun n => by
  rw [State.group?, State.group?, h]

/-- A group that is there stays, with its stations. -/
theorem SameStations.group {s t : State} (h : SameStations s t) {gid : Nat} {g : Machine.Group} (hg : s.group? gid = some g) :
    ∃ g', t.group? gid = some g' ∧ stashless g' = stashless g := by
  have hmap := h gid
  rw [hg, Option.map_some] at hmap
  exact Option.map_eq_some_iff.1 hmap

theorem SameStations.foldl {α : Type} {f : State → α → State} (hf : ∀ s x, SameStations s (f s x)) (l : List α) (s : State) :
    SameStations s (l.foldl f s) := by
  induction l generalizing s with
  | nil => exact .refl s
  | cons x l ih => exact (hf s x).trans (ih _)

section
variable (s : State)

theorem stations_stashLose (chip l : Nat) : SameStations s (s.stashLose chip l) := fun n => by
  simp only [State.stashLose, State.group?, Laws.tblGet?_map, Option.map_map]
  refine congrArg (Option.map · _) (funext fun g => ?_)
  simp only [Function.comp_apply]
  split <;> rfl

theorem stations_cleanLine (l : Nat) : SameStations s (s.cleanLine l) := by
  unfold State.cleanLine
  split
  next o _ =>
    have hline : (s.writeHomeLine l o.data).groups = s.groups := Laws.writeHome_groups s _
    generalize s.writeHomeLine l o.data = t at hline
    split
    · exact .of_groups hline
    · exact .refl s
  · exact .refl s

theorem stations_flushLine (l : Nat) : SameStations s (s.flushLine l) :=
  (stations_cleanLine s l).trans ((stations_stashLose _ 0 l).trans (.of_groups rfl))

theorem stations_ioWrite (ws : List (Nat × Byte)) : SameStations s (s.ioWrite ws) := by
  refine .foldl (fun s w => ?_) ws s
  split
  · exact .refl s
  · exact (stations_flushLine s _).trans (.of_groups rfl)

theorem stations_touchLeaf (a : Nat) (pte : DWord) (acc : Access) : SameStations s (s.touchLeaf a pte acc) := by
  unfold State.touchLeaf
  generalize (64 ||| if acc.w = true then 128 else 0 : DWord) = set
  dsimp only
  split
  · exact .refl s
  · exact stations_ioWrite s _

/-! ### Translation -/

variable {s} {s1 : State}

theorem stations_walk {key : Nat} {c : Context} {va : DWord} {acc : Access} {from_ : Nat × Nat × Bool} {e : TlbEntry}
    (h : s.walk key c va acc from_ = .ok (e, s1)) : SameStations s s1 := by
  unfold State.walk at h
  split at h
  · cases h
  split at h
  · cases h
  next pte level a _ =>
    dsimp only at h
    generalize entryOf s key c.asid va (if from_.2.2 = true then pte ||| 32 else pte) level = e0 at h
    split at h
    · cases h
    split at h
    · cases h
    obtain ⟨-, rfl⟩ := Prod.mk.inj (Except.ok.inj h)
    exact stations_touchLeaf s a pte acc

theorem stations_translate {key : Nat} {c : Context} {va : DWord} {acc : Access} {pa : Nat} (h : s.translate key c va acc = .ok (pa, s1)) :
    SameStations s s1 := by
  unfold State.translate at h
  dsimp only at h
  split at h
  · cases h
  split at h
  · split at h
    · cases h
    split at h
    · cases h
    split at h
    · cases h
      exact .refl s
    split at h
    · cases h
    next hwalk =>
      cases h
      exact (stations_walk hwalk).trans (.of_groups rfl)
  split at h
  · cases h
  next hwalk =>
    cases h
    exact (stations_walk hwalk).trans (.of_groups rfl)

/-! ### Units -/

variable {w : CopyAt} {d : CopyDesc} {u : Nat}

theorem stations_copyPa {va : DWord} {write : Bool} {pa : Nat} (h : s.copyPa w va write = .ok (pa, s1)) : SameStations s s1 := by
  unfold State.copyPa at h
  split at h
  · cases h
  next htranslate =>
    split_ifs at h
    cases h
    exact stations_translate htranslate

theorem stations_copyRead {dev : State → Nat → List Byte} {bs : List Byte} (h : s.copyRead w d u dev = .ok (bs, s1)) : SameStations s s1 := by
  unfold State.copyRead at h
  split at h
  · cases h
    exact .refl s
  split at h
  · dsimp only at h
    split_ifs at h
    cases h
    exact .refl s
  split at h
  · cases h
  next hpa =>
    split_ifs at h
    · cases h
      exact (stations_copyPa hpa).trans (.of_groups rfl)
    · cases h
      exact stations_copyPa hpa

theorem stations_copyBytes {got : Tbl (List Byte)} {dev : State → Nat → List Byte} {bs : List Byte} (h : s.copyBytes w d got u dev = .ok (bs, s1)) :
    SameStations s s1 := by
  unfold State.copyBytes at h
  split at h
  · cases h
    exact .refl s
  · exact stations_copyRead h

theorem stations_copyWrite {bs : List Byte} (h : s.copyWrite w d u bs (fun s _ _ => s) = .ok s1) : SameStations s s1 := by
  unfold State.copyWrite at h
  split at h
  · split at h
    · cases h
    next hpa =>
      cases h
      split
      · exact (stations_copyPa hpa).trans (stations_ioWrite _ _)
      · exact stations_copyPa hpa
  · cases h
    exact .of_groups rfl

end

theorem stations_mixUnits (s : State) (w : CopyAt) (d : CopyDesc) (us : List Nat) : SameStations s (s.mixUnits w d us) := by
  unfold State.mixUnits
  split
  · exact .refl s
  · refine SameStations.trans (t := s.free.2) (.of_groups rfl) (.foldl (fun s u => ?_) us s.free.2)
    split
    · exact .refl s
    next hwrite => exact stations_copyWrite hwrite

theorem stations_strayUnits (s : State) (w : CopyAt) (d : CopyDesc) (r : CopyRun) (first : Nat) : SameStations s (s.strayUnits w d r first) := by
  refine SameStations.trans (t := s.free.2) (.of_groups rfl) (.foldl (fun s u => ?_) _ s.free.2)
  split
  · exact .refl s
  split
  · exact stations_mixUnits s w d [u]
  split
  · exact .refl s
  next hbytes =>
    split
    · exact stations_copyBytes hbytes
    next hwrite => exact (stations_copyBytes hbytes).trans (stations_copyWrite hwrite)

/-! ### The end of a copy -/

theorem stations_copyUnpoison (s : State) (w : CopyAt) (d : CopyDesc) : SameStations s (s.copyUnpoison w d) := by
  refine .foldl (fun s l => ?_) _ s
  split
  next htranslate =>
    split
    · exact (stations_translate htranslate).trans (.of_groups rfl)
    · exact stations_translate htranslate
  · exact .refl s

theorem stations_copyL1 (s : State) (w : CopyAt) (d : CopyDesc) : SameStations s (s.copyL1 w d) := by
  unfold State.copyL1
  split
  · exact .refl s
  · refine .foldl (fun s u => ?_) _ s
    split
    next htranslate => exact (stations_translate htranslate).trans (.of_groups rfl)
    · exact .refl s

section
variable (s : State) (chip : Nat)

theorem stations_msi (addr : DWord) (data : Nat) : SameStations s (s.msi addr data) := by
  refine .of_groups ?_
  unfold State.msi State.msiFor
  split
  · rfl
  split
  · split
    · split <;> rfl
    · rfl
  · rfl

theorem stations_msiFrom (a b : Nat) : SameStations s (s.msiFrom a b) := stations_msi s _ _

theorem stations_rewriteFault (n : Nat) : SameStations s (s.rewriteFault chip n) := by
  unfold State.rewriteFault
  split
  · exact .refl s
  dsimp only
  split
  · exact .refl s
  · exact (stations_ioWrite s _).trans (.of_groups (Laws.setRec_groups ..))

theorem stations_postFault (n : Nat) : SameStations s (s.postFault chip n) := by
  unfold State.postFault
  dsimp only
  split
  · exact .refl s
  split
  · exact .refl s
  split
  · exact .of_groups rfl
  split
  · exact .refl s
  · exact (stations_ioWrite s _).trans ((SameStations.of_groups (by rw [Laws.setRec_groups, Laws.setReg_groups])).trans (stations_msiFrom _ _ _))

theorem stations_postFaults : SameStations s (s.postFaults chip) :=
  SameStations.trans (t := s.rewriteFaults chip) (.foldl (fun s (p : Nat × FaultRec) => stations_rewriteFault s chip p.1) _ s)
    (.foldl (fun s (p : Nat × FaultRec) => stations_postFault s chip p.1) _ _)

/-- A fault of an agent is recorded: the stations are as they were (R354). -/
theorem stations_faultNew (r : FaultRec) : SameStations s (s.faultNew chip r).2 := by
  have hdrop : (s.dropTlb chip (fun e => e.serves r.asid r.va) fun e => e.serves r.asid r.va).groups = s.groups := rfl
  unfold State.faultNew
  generalize s.dropTlb chip _ _ = u at hdrop ⊢
  refine (SameStations.of_groups hdrop).trans ?_
  dsimp only
  split
  · exact (SameStations.of_groups (Laws.setRec_groups ..)).trans (stations_rewriteFault _ chip _)
  · exact SameStations.trans (t := u.stamp.2) (.of_groups rfl) ((SameStations.of_groups (Laws.setRec_groups ..)).trans (stations_postFaults _ chip))

end

end Sys2Proof.Proofs
end

section
/-!
PROOFS about the rings' requests and the stations (R171, R173, R175, R182, R184, R196): which request is served, what a station takes, and how
a copy completes, stops or is aborted.
-/
namespace Sys2Proof.Proofs
set_option Elab.async false
open Sys2Proof.Machine

/-! ### Requests of a ring -/

section
variable {s : State} {gid n k seq : Nat} {g : Machine.Group} {r : Machine.Ring} {q : RingReq} (hg : s.group? gid = some g)
  (hr : tblGet? g.rings n = some r)

theorem serve_claim (h : r.slots[r.claim]? = some .free) : r.serve true =
    some ({ r with slots := r.slots.set r.claim .claimed, claim := (r.claim + 1) % r.slots.length }, r.claim) := by
  simp only [Ring.serve, if_true, h]

theorem serve_take (h : r.slots[r.take]? = some .full) : r.serve false =
    some ({ r with slots := r.slots.set r.take .held, take := (r.take + 1) % r.slots.length }, r.take) := by
  simp only [Ring.serve, Bool.false_eq_true, if_false, h, if_true]

theorem serve_none (hclaim : r.slots[r.claim]? ≠ some .free) (htake : r.slots[r.take]? ≠ some .full) (claim : Bool) : r.serve claim = none := by
  cases claim
  · simp only [Ring.serve, Bool.false_eq_true, if_false, htake]
  · simp only [Ring.serve, if_true, hclaim, if_false]

include hg

theorem serveFirst_nobody {claim : Bool} (h : g.ringReqs.find? (fun p => p.ring = n && p.claim = claim) = none) : s.serveFirst gid n claim = none := by
  simp only [State.serveFirst, hg, h]

include hr

theorem serveFirst_refuses {claim : Bool} (h : r.serve claim = none) : s.serveFirst gid n claim = none := by
  simp only [State.serveFirst, hg, hr]
  cases g.ringReqs.find? (fun p => p.ring = n && p.claim = claim)
  · rfl
  · simp only [h, Option.map_none]

theorem serveFirst_serves {claim : Bool} {r' : Machine.Ring} {j : Nat} (hq : g.ringReqs.find? (fun p => p.ring = n && p.claim = claim) = some q)
    (h : r.serve claim = some (r', j)) : s.serveFirst gid n claim =
      some ((s.setGroup gid { g with rings := tblSet g.rings n r', ringReqs := g.ringReqs.erase q }).slotGiven gid q r' j) := by
  simp only [State.serveFirst, hg, hr, hq, h, Option.map_some]

end

section
variable {s : State} {gid n k seq j : Nat} {g : Machine.Group} {r r' : Machine.Ring} {q : RingReq}

/-- The word of a slot (R175). -/
abbrev wordOfSlot (n : Nat) (r : Machine.Ring) (j : Nat) : Word :=
  BitVec.ofNat 32 (n * 2 ^ 28 + j * 2 ^ 20 + (r.base + j * 2 ^ (r.word.toNat / 16 % 16 + 6)) % 2 ^ 19)

/-- What serving a drill's request leaves (R175): the pointer has moved on, the request is gone, its operation has the slot word. -/
theorem slotGiven_drill (hwho : q.who = some (k, seq)) (hword : r'.word = r.word) (hbase : r'.base = r.base) :
    let t := (s.setGroup gid { g with rings := tblSet g.rings n r', ringReqs := g.ringReqs.erase q }).slotGiven gid q r' j
    t.group? gid = some { g with rings := tblSet g.rings n r', ringReqs := g.ringReqs.erase q } ∧ SameMemory s t ∧
      (∀ m, m ≠ k → t.drill? m = s.drill? m) ∧ ∀ d, s.drill? k = some d → ∃ d', t.drill? k = some d' ∧ d'.ops.length = d.ops.length ∧
        ∀ (o : VarOp), o ∈ d.ops → (o.seq ≠ seq → o ∈ d'.ops) ∧
          (o.seq = seq → { o with kind := .ringTake q.ring q.claim (some (wordOfSlot q.ring r j)) } ∈ d'.ops) := by
  have hslot : slotWord q.ring r' j = wordOfSlot q.ring r j := by
    simp only [slotWord, Ring.slotBytes, hword, hbase]
    rfl
  simp only [State.slotGiven, hwho]
  refine ⟨by simp, ⟨rfl, rfl, rfl, rfl⟩, fun m hm => by simp [Ne.symm hm], fun d hd => ⟨_, drill_modDrill_self (by simpa using hd) _, by simp,
    fun o ho => ⟨fun hne => ?_, fun heq => ?_⟩⟩⟩
  · exact List.mem_map.2 ⟨o, ho, if_neg hne⟩
  · exact List.mem_map.2 ⟨o, ho, by rw [if_pos heq, hslot]⟩

end

/-! ### What a station takes -/

/-- A group with another station. -/
def withStation (out : Bool) (y : Station) (g : Machine.Group) : Machine.Group :=
  { g with stO := if out then y else g.stO, stI := if out then g.stI else y }

theorem station_withStation (out : Bool) (y : Station) (g : Machine.Group) : (withStation out y g).station out = y := by
  cases out <;> rfl

theorem modStation_eq (s : State) (gid : Nat) (out : Bool) (f : Station → Station) :
    s.modStation gid out f = s.modGroup gid fun g => withStation out (f (g.station out)) g := by
  cases out <;> rfl

/-- A group whose station o has changed, in a machine where it is there. -/
theorem group_modStation {s : State} {gid : Nat} {g : Machine.Group} (hg : s.group? gid = some g) (out : Bool) (f : Station → Station) :
    (s.modStation gid out f).group? gid = some (withStation out (f (g.station out)) g) := by
  rw [modStation_eq]
  simp [hg]

/-- Memory and every drill are as they were. -/
def Untouched (s t : State) : Prop := SameMemory s t ∧ SameDrills s t

theorem Untouched.trans {s t u : State} (h : Untouched s t) (g : Untouched t u) : Untouched s u := by
  obtain ⟨⟨hmem, hpoison, howned, hsharers⟩, hdrills⟩ := h
  obtain ⟨⟨gmem, gpoison, gowned, gsharers⟩, gdrills⟩ := g
  exact ⟨⟨gmem.trans hmem, gpoison.trans hpoison, gowned.trans howned, gsharers.trans hsharers⟩, fun j => (gdrills j).trans (hdrills j)⟩

theorem modGroup_untouched (s : State) (gid : Nat) (f : Machine.Group → Machine.Group) : Untouched s (s.modGroup gid f) :=
  ⟨⟨rfl, rfl, rfl, rfl⟩, fun _ => rfl⟩

theorem modStation_untouched (s : State) (gid : Nat) (out : Bool) (f : Station → Station) : Untouched s (s.modStation gid out f) :=
  modGroup_untouched s gid _

/-- A station without signals sends none. -/
theorem stationSignal_none {tk : BitVec 4} (h : tk &&& 3 = 0) (s : State) (gid : Nat) (out : Bool) : s.stationSignal gid out tk = s := by
  have hsignal : s.signalStation gid (stationNum out) 0 = (s, false) := by
    unfold State.signalStation
    split
    · rfl
    · rfl
  simp only [State.stationSignal, h, hsignal, Bool.false_eq_true, if_false]

section
variable {s : State} {gid engine : Nat} {out : Bool} {g : Machine.Group} {c : CopyCmd} {rest : List CopyCmd} (hg : s.group? gid = some g)
include hg

theorem stationDequeue_idle (h : (g.station out).run ≠ none ∨ ∃ c rest, (g.station out).queue = c :: rest ∧
    tokensReady g.tok (stationNum out) c.tk0 = false) : Idle (.stationDequeue gid out engine) s := by
  show execStationDequeue gid out engine s = .next s
  simp only [execStationDequeue, hg]
  split
  · rfl
  next c rest hqueue =>
    refine if_pos ?_
    rcases h with hrun | ⟨c', rest', hqueue', htokens⟩
    · simp [Option.isSome_iff_ne_none.2 hrun]
    · obtain ⟨rfl, rfl⟩ := List.cons.inj (hqueue.symm.trans hqueue')
      simp [htokens]

/-- A station as it takes its first command: the TK0 actions, which send no signal (R182). -/
def dequeued (s : State) (gid : Nat) (out : Bool) (c : CopyCmd) (rest : List CopyCmd) : State :=
  (s.modGroup gid fun g => { g with tok := takeTokens g.tok (stationNum out) c.tk0 }).modStation gid out fun t => { t with queue := rest }

theorem group_dequeued : (dequeued s gid out c rest).group? gid =
    some (withStation out { g.station out with queue := rest } { g with tok := takeTokens g.tok (stationNum out) c.tk0 }) := by
  have htok : (s.modGroup gid fun g => { g with tok := takeTokens g.tok (stationNum out) c.tk0 }).group? gid =
      some { g with tok := takeTokens g.tok (stationNum out) c.tk0 } := by simp [hg]
  refine (group_modStation htok out _).trans ?_
  cases out <;> rfl

variable (hqueue : (g.station out).queue = c :: rest) (hrun : (g.station out).run = none) (hstopped : (g.station out).stopped = none)
  (hresident : g.resident = true) (hengine : engine < 3) (htokens : tokensReady g.tok (stationNum out) c.tk0 = true) (htk0 : c.tk0 &&& 3 = 0)
include hqueue hrun hstopped hresident hengine htokens htk0

theorem execStationDequeue_takes : execStationDequeue gid out engine s = match c.desc with
    | none => .next ((dequeued s gid out c rest).stationSignal gid out c.tk1)
    | some e => .next (if e.ring then
        ((dequeued s gid out c rest).modStation gid out fun t => { t with run := some { cmd := c, engine := engine }, claiming := e.ring }).modGroup gid
          fun g => { g with ringReqs := g.ringReqs ++ [{ ring := field e.dst 0 4, claim := true, who := none }] }
      else (dequeued s gid out c rest).modStation gid out fun t => { t with run := some { cmd := c, engine := engine }, claiming := e.ring }) := by
  simp only [execStationDequeue, hg, hqueue]
  rw [if_neg (by simp [hresident, hrun, hstopped, hengine, htokens])]
  simp only [stationSignal_none htk0]
  rfl

end

section
variable {s : State} {gid engine : Nat} {out : Bool} {g : Machine.Group} {c : CopyCmd} {rest : List CopyCmd}

theorem dequeued_still : Untouched s (dequeued s gid out c rest) := (modGroup_untouched ..).trans (modStation_untouched ..)

/-- A station that has begun a copy (R182). -/
def begun (s : State) (gid : Nat) (out : Bool) (engine : Nat) (c : CopyCmd) (e : CopyDesc) (rest : List CopyCmd) : State :=
  if e.ring then
    ((dequeued s gid out c rest).modStation gid out fun t => { t with run := some { cmd := c, engine := engine }, claiming := e.ring }).modGroup gid
      fun g => { g with ringReqs := g.ringReqs ++ [{ ring := field e.dst 0 4, claim := true, who := none }] }
  else (dequeued s gid out c rest).modStation gid out fun t => { t with run := some { cmd := c, engine := engine }, claiming := e.ring }

theorem begun_still {e : CopyDesc} : Untouched s (begun s gid out engine c e rest) := by
  unfold begun
  split
  · exact (dequeued_still.trans (modStation_untouched ..)).trans (modGroup_untouched ..)
  · exact dequeued_still.trans (modStation_untouched ..)

theorem group_begun (hg : s.group? gid = some g) (e : CopyDesc) : ∃ g', (begun s gid out engine c e rest).group? gid = some g' ∧
    g'.station out = { g.station out with queue := rest, run := some { cmd := c, engine := engine }, claiming := e.ring } ∧
    g'.tok = takeTokens g.tok (stationNum out) c.tk0 ∧
    g'.ringReqs = g.ringReqs ++ (if e.ring then [{ ring := field e.dst 0 4, claim := true, who := none }] else []) := by
  have hrun := group_modStation (group_dequeued hg (out := out) (c := c) (rest := rest)) out
    fun t => { t with run := some { cmd := c, engine := engine }, claiming := e.ring }
  unfold begun
  by_cases hring : e.ring = true
  · rw [if_pos hring, if_pos hring, Laws.group_modGroup, if_pos rfl, hrun, Option.map_some]
    refine ⟨_, rfl, ?_, rfl, rfl⟩
    cases out <;> rfl
  · rw [if_neg hring, if_neg hring]
    refine ⟨_, hrun, ?_, rfl, (List.append_nil _).symm⟩
    cases out <;> rfl

end

/-! ### How a copy ends -/

theorem groups_trapGroup (s : State) (gid code sub station : Nat) : (s.trapGroup gid code sub station).groups = s.groups := by
  have hfold (f : Drill → Drill) (l : List Nat) : ∀ u : State, (l.foldl (fun s k => s.modDrill k f) u).groups = u.groups := by
    induction l with
    | nil => exact fun _ => rfl
    | cons k l ih => exact fun u => ih _
  unfold State.trapGroup
  split
  · rfl
  · exact hfold _ _ s

section
variable {s : State} {gid : Nat} {out : Bool} {g : Machine.Group}

/-- The signals of a station change tokens, and may stop it (R82). -/
theorem stationSignal_run (hg : s.group? gid = some g) (tk : BitVec 4) :
    ∃ g', (s.stationSignal gid out tk).group? gid = some g' ∧ (g'.station out).run = (g.station out).run := by
  have hsignal : ∃ g', (s.signalStation gid (stationNum out) (tk &&& 3)).1.group? gid = some g' ∧ (g'.station out).run = (g.station out).run := by
    unfold State.signalStation
    rw [hg]
    dsimp only
    split
    · exact ⟨g, hg, rfl⟩
    · refine ⟨{ g with tok := (signalTokens g.tok (stationNum out) (tk &&& 3)).1 }, ?_, by cases out <;> rfl⟩
      split
      · rw [State.group?, groups_trapGroup]
        exact (Laws.group_setGroup ..).trans (if_pos rfl)
      · exact (Laws.group_setGroup ..).trans (if_pos rfl)
  obtain ⟨g', hg', hrun⟩ := hsignal
  unfold State.stationSignal
  dsimp only
  split
  · refine ⟨_, group_modStation hg' out _, ?_⟩
    rw [station_withStation]
    exact hrun
  · exact ⟨g', hg', hrun⟩

/-- A copy that completes leaves its station free (R182). -/
theorem copyDone_run {w : CopyAt} (hg : s.group? w.gid = some g) (r : CopyRun) (e : CopyDesc) :
    ∃ g', (s.copyDone w out r e).group? w.gid = some g' ∧ (g'.station out).run = none := by
  have hfree := group_modStation hg out fun t => { t with run := none }
  have hslot : ∃ g', (match r.slot with
      | some j => (s.modStation w.gid out fun t => { t with run := none }).modGroup w.gid fun g =>
        { g with rings := tblMod g.rings (field e.dst 0 4) fun x => { x with slots := x.slots.set j .full } }
      | none => s.modStation w.gid out fun t => { t with run := none }).group? w.gid = some g' ∧ (g'.station out).run = none := by
    split
    · rw [Laws.group_modGroup, if_pos rfl, hfree]
      refine ⟨_, rfl, ?_⟩
      cases out <;> rfl
    · exact ⟨_, hfree, by rw [station_withStation]⟩
  obtain ⟨g1, hg1, hrun1⟩ := hslot
  obtain ⟨g2, hg2, hrun2⟩ := stationSignal_run (out := out) hg1 r.cmd.tk1
  refine ⟨g2, ?_, hrun2.trans hrun1⟩
  unfold State.copyDone
  dsimp only
  split
  · exact hg2
  · exact hg2

theorem copyAborted_stopped (hg : s.group? gid = some g) (cause : Nat) :
    ∃ g', (s.copyAborted gid out cause).group? gid = some g' ∧ (g'.station out).stopped = some true := by
  refine ⟨withStation out { g.station out with stopped := some true } g, ?_, ?_⟩
  · rw [State.copyAborted, State.group?, groups_trapGroup]
    exact group_modStation hg out _
  · rw [station_withStation]

end

section
variable {s : State} {gid : Nat} {out : Bool} {w : CopyAt} {r : CopyRun} {e : CopyDesc} (hnow : s.copyNow gid out = some (w, r, e))
include hnow

theorem copyNow_gid : w.gid = gid := by
  unfold State.copyNow at hnow
  split at hnow
  · cases hnow
  dsimp only at hnow
  split at hnow
  · split at hnow
    · split_ifs at hnow <;> cases hnow <;> rfl
    · cases hnow
  · cases hnow

variable (hfine : s.bedCheck w.g r e = .fine) {s' : State} {n : Nat} {g1 : Machine.Group} (hg1 : s'.group? gid = some g1)
include hfine

theorem copyCompletion_idle {stop : CopyStop} (hrun : s.runCopy w r e = (s', n, some stop)) : Idle (.copyCompletion gid out none) s := by
  show execCopyCompletion gid out none s = .next s
  simp only [execCopyCompletion, hnow, hfine, hrun, ne_eq, not_true_eq_false, if_false]

include hg1

theorem copyCompletion_done (hrun : s.runCopy w r e = (s', n, none)) : Happens (.copyCompletion gid out none) s fun t =>
    ∃ g', t.group? gid = some g' ∧ (g'.station out).run = none := by
  obtain rfl := copyNow_gid hnow
  obtain ⟨g2, hg2, -⟩ := ((stations_copyUnpoison s' w e).trans (stations_copyL1 _ w e)).group hg1
  refine ⟨_, ?_, copyDone_run hg2 r e⟩
  show execCopyCompletion w.gid out none s = _
  simp only [execCopyCompletion, hnow, hfine, hrun, ne_eq, not_true_eq_false, if_false]

theorem copyAbort_stops {cause : Nat} (hrun : s.runCopy w r e = (s', n, some (.abort cause))) : Happens (.copyAbort gid out) s fun t =>
    ∃ g', t.group? gid = some g' ∧ (g'.station out).stopped = some true := by
  have hstray : ∃ g2, (if cpyBed e.form then s' else s'.strayUnits w e r n).group? gid = some g2 := by
    split
    · exact ⟨g1, hg1⟩
    · obtain ⟨g2, hg2, -⟩ := (stations_strayUnits s' w e r n).group hg1
      exact ⟨g2, hg2⟩
  obtain ⟨g2, hg2⟩ := hstray
  refine ⟨_, ?_, copyAborted_stopped hg2 cause⟩
  show execCopyAbort gid out s = _
  simp only [execCopyAbort, hnow, hfine, hrun]

variable (hr1 : (g1.station out).run = some r)
include hr1

theorem copyFaultStop_stops {va : DWord} {wr : Bool} {x : XlateFail} (hrun : s.runCopy w r e = (s', n, some (.fault va wr x))) :
    Happens (.copyFaultStop gid out) s fun t => ∃ g' r', t.group? gid = some g' ∧ (g'.station out).run = some r' ∧ r'.doneUnits = n ∧
      r'.fault.isSome = true ∧ r'.cmd = r.cmd := by
  obtain ⟨g2, hg2, hsame⟩ := (stations_faultNew s' w.chip (copyFault w r.engine va wr x)).group hg1
  have hstation : g2.station out = g1.station out := by
    have hview := congrArg (·.station out) hsame
    cases out <;> exact hview
  have hgo : exec (.copyFaultStop gid out) s = .next ((s'.faultNew w.chip (copyFault w r.engine va wr x)).2.modStation gid out fun t =>
      { t with run := t.run.map fun y => { y with doneUnits := n, fault := some (s'.faultNew w.chip (copyFault w r.engine va wr x)).1 } }) := by
    show execCopyFaultStop gid out s = _
    simp only [execCopyFaultStop, hnow, hfine, hrun, ne_eq, not_true_eq_false, if_false]
  refine ⟨_, hgo, _, { r with doneUnits := n, fault := some (s'.faultNew w.chip (copyFault w r.engine va wr x)).1 }, group_modStation hg2 out _, ?_,
    rfl, rfl, rfl⟩
  rw [station_withStation, hstation, hr1]
  rfl

end

/-! ### Units that move early -/

section
variable {s s1 : State} {gid m : Nat} {out : Bool} {w : CopyAt} {r r1 : CopyRun} {e : CopyDesc} {units : List Nat} {g1 : Machine.Group}
  (hnow : s.copyNow gid out = some (w, r, e)) (hfine : s.bedCheck w.g r e = .fine) (hg1 : s1.group? gid = some g1)
  (hr1 : (g1.station out).run = some r1)
include hnow hfine hg1 hr1

/-- The units of an event that moves units early (R182, R196). -/
abbrev earlyUnits (e : CopyDesc) (r : CopyRun) (units : List Nat) : List Nat :=
  ((List.range e.units).drop r.doneUnits).filter fun u => !r.early.contains u && units.contains u

omit hfine hnow in
theorem modRun_early (f : CopyRun → CopyRun) : let t := s1.modStation gid out fun t => { t with run := t.run.map f }
    t.mem = s1.mem ∧ ∃ g', t.group? gid = some g' ∧ (g'.station out).run = some (f r1) := by
  refine ⟨?_, _, group_modStation hg1 out _, ?_⟩
  · rw [modStation_eq]
    rfl
  · rw [station_withStation, hr1]
    rfl

theorem copyCompletion_writes (hcopy : Machine.copyUnits w e r.got (earlyUnits e r units) 0 s = (s1, m, none))
    (hmixed : (s.mixedUnits w e).filter (earlyUnits e r units).contains = []) : Happens (.copyCompletion gid out (some (units, true))) s fun t =>
      t.mem = s1.mem ∧ ∃ g', t.group? gid = some g' ∧ (g'.station out).run = some { r1 with early := r1.early ++ earlyUnits e r units } := by
  obtain rfl := copyNow_gid hnow
  refine ⟨_, ?_, modRun_early hg1 hr1 fun x => { x with early := x.early ++ earlyUnits e r units }⟩
  show execCopyCompletion w.gid out (some (units, true)) s = _
  simp only [execCopyCompletion, hnow, hfine, State.copyEarly, hcopy, hmixed, State.mixUnits, ne_eq, not_true_eq_false, if_false, Bool.not_true,
    Bool.false_eq_true, Option.getD_some]

theorem copyCompletion_reads {got : Tbl (List Byte)} (hread : readUnits w e (earlyUnits e r units) r.got s = some (s1, got)) :
    Happens (.copyCompletion gid out (some (units, false))) s fun t =>
      t.mem = s1.mem ∧ ∃ g', t.group? gid = some g' ∧ (g'.station out).run = some { r1 with got := got } := by
  obtain rfl := copyNow_gid hnow
  refine ⟨_, ?_, modRun_early hg1 hr1 fun x => { x with got := got }⟩
  show execCopyCompletion w.gid out (some (units, false)) s = _
  simp only [execCopyCompletion, hnow, hfine, State.copyEarly, hread, ne_eq, not_true_eq_false, if_false, Bool.not_false, if_true, Option.map_some,
    Option.getD_some]

end

/-- Settles O41: the requests of a ring by which of them can be served, the stations by what is queued, a copy by what stops it. -/
theorem ringsAndCopies : Obligations.RingsAndCopies := by
  refine ⟨fun s gid n k seq g r q hg hr hwho => ⟨fun hq hslot => ?_, fun hq hnone hslot => ?_, fun hclaim htake => ?_⟩,
    fun s gid out engine g hg => ⟨fun c rest hqueue hrun hstopped hresident hengine => ⟨fun htokens htk0 => ?_, fun htokens =>
      stationDequeue_idle hg (.inr ⟨c, rest, hqueue, htokens⟩)⟩, fun hrun => stationDequeue_idle hg (.inl hrun), fun w r e hnow hfine s' n stop hrun
        ⟨g1, hg1, hr1⟩ => ⟨?_, ?_, ?_, ?_, fun units => ⟨fun s1 m g1 r1 hcopy hmixed hg1 hr1 => ?_, fun s1 got g1 r1 hread hg1 hr1 => ?_⟩⟩⟩⟩
  · have hserved := serveFirst_serves hg hr hq (serve_claim hslot)
    exact ⟨_, by show execRingRequestServed gid n s = _; rw [execRingRequestServed, hserved]; rfl, slotGiven_drill hwho rfl rfl⟩
  · have hnobody : g.ringReqs.find? (fun p => p.ring = n && p.claim = true) = none := by
      refine List.find?_eq_none.2 fun p hp hmatch => ?_
      obtain ⟨hring, hclaim⟩ := by simpa using hmatch
      exact Bool.false_ne_true ((hnone p hp hring).symm.trans hclaim)
    have hserved := serveFirst_serves hg hr hq (serve_take hslot)
    refine ⟨_, ?_, slotGiven_drill hwho rfl rfl⟩
    show execRingRequestServed gid n s = _
    rw [execRingRequestServed, serveFirst_nobody hg hnobody, hserved]
    rfl
  · show execRingRequestServed gid n s = _
    rw [execRingRequestServed, serveFirst_refuses hg hr (serve_none hclaim htake true), serveFirst_refuses hg hr (serve_none hclaim htake false)]
    rfl
  · have hgo := execStationDequeue_takes hg hqueue hrun hstopped hresident hengine htokens htk0
    refine ⟨fun hdesc htk1 => ⟨dequeued s gid out c rest, ?_, dequeued_still.1, dequeued_still.2, group_dequeued hg⟩,
      fun e hdesc => ⟨begun s gid out engine c e rest, ?_, begun_still.1, begun_still.2, group_begun hg e⟩⟩
    · rw [hdesc] at hgo
      exact hgo.trans (congrArg Host.Outcome.next (stationSignal_none htk1 ..))
    · rw [hdesc] at hgo
      exact hgo
  · rintro rfl
    exact copyCompletion_done hnow hfine hg1 hrun
  · rintro va wr x rfl
    exact copyFaultStop_stops hnow hfine hg1 hr1 hrun
  · rintro cause rfl
    exact copyAbort_stops hnow hfine hg1 hrun
  · intro hstop
    obtain ⟨stop, rfl⟩ := Option.ne_none_iff_exists'.1 hstop
    exact copyCompletion_idle hnow hfine hrun
  · exact copyCompletion_writes hnow hfine hg1 hr1 hcopy hmixed
  · exact copyCompletion_reads hnow hfine hg1 hr1 hread

end Sys2Proof.Proofs
end
